-- ==== Sys2Proof/Word.lean ====
section
/-! DEFINITION. The word types of the Polatre Bermador, the four strand kinds (R7) and the shape of a sparse
table. Register contents, addresses under computation and instruction fields are bit vectors; positions,
counts and identifiers are natural numbers. -/

namespace Sys2Proof

/-- A 64-bit register or memory word (R9). -/
abbrev Word := BitVec 64

/-- One byte of memory. -/
abbrev Byte := BitVec 8

/-- A 32-bit instruction word, header word or accumulator cell (R26, R131). -/
abbrev Word32 := BitVec 32

/-- A 4 KiB tile line as bits, element 0 least significant (R134, R146). -/
abbrev Line := BitVec 32768

/-- A 128-byte layout record, operand block or descriptor, byte 0 least significant (R144, R167). -/
abbrev Block := BitVec 1024

/-- The strand kinds of R7, in the order of their codes. -/
inductive Kind where
  | a | c | m | v
  deriving DecidableEq, Repr, Inhabited

/-- The kind code of R7. -/
def Kind.code : Kind → Nat
  | .a => 0
  | .c => 1
  | .m => 2
  | .v => 3

/-- The kind of a code, modulo 4. -/
def Kind.ofCode (n : Nat) : Kind :=
  match n % 4 with
  | 0 => .a
  | 1 => .c
  | 2 => .m
  | _ => .v

/-- The kinds in the order A, C, M, V of R100. -/
def Kind.all : List Kind := [.a, .c, .m, .v]

/-- A sparse table: keys rising, no entry equal to what an unlisted key reads as. -/
abbrev Tab (α : Type) := List (Nat × α)

end Sys2Proof
end

