-- ==== Sys2Proof/Syntax.lean ====
section
/-! DEFINITION. The syntax: the operand words that several instructions share, the messages that arrive from
outside the module, and the one inductive `Instr` with a constructor for every row of spec/opcode_table.json.
Every encoded instruction carries its guard predicate first (R29, R31, R33). Register, predicate and flag
fields are the six-bit names of the encoding. The events carry the identifiers of what they complete. -/

namespace Sys2Proof

/-- The fields of a format V pair that all V-private instructions share (R31). -/
structure VecWord where
  vd : BitVec 11
  etype : BitVec 3
  rm : BitVec 3
  ftz : BitVec 1
  va : BitVec 11
  vb : BitVec 11
  xfn : BitVec 10
  deriving DecidableEq, Repr, Inhabited

/-- The fields of a format C pair (R33). -/
structure CubeWord where
  msel : BitVec 2
  nsel : BitVec 6
  pa : BitVec 5
  pb : BitVec 5
  gor : BitVec 2
  pg : BitVec 5
  row0 : BitVec 6
  col0 : BitVec 9
  amode : BitVec 2
  deriving DecidableEq, Repr, Inhabited

/-- The fields of an engine command of opcodes 0x30 to 0x35 (R299). -/
structure EngineWord where
  tok : BitVec 3
  sa : BitVec 6
  fe : BitVec 1
  fl : BitVec 6
  scope : BitVec 3
  deriving DecidableEq, Repr, Inhabited

/-- What identifies a group to its members (R403, R411): a domain group by its key and its module set, a
narrower one by its launch and its number. -/
structure GroupKey where
  domain : Bool
  xkey : Word32
  mods : BitVec 512
  launch : Nat
  grp : Nat
  deriving DecidableEq, Repr, Inhabited

/-- A module as its arrival names it: its number and the set of modules of its entry (R403, R404). -/
structure PeerModule where
  num : Nat
  mods : BitVec 512
  deriving DecidableEq, Repr, Inhabited

/-- The count contribution that one rank sends under R336. -/
structure CountMsg where
  group : GroupKey
  sess : Nat
  seq : Nat
  rank : Nat
  experts : Nat
  choices : Nat
  ranks : Nat
  dim : Nat
  counts : List Nat
  deriving DecidableEq, Repr, Inhabited

/-- The contribution that one rank sends for a collective (R408): the shape that must agree and the source
elements of R407, each as its bits in the source format. -/
structure CollMsg where
  group : GroupKey
  seq : Nat
  rank : Nat
  cmd : Nat
  rop : Nat
  root : Nat
  n : Nat
  sfmt : Nat
  dfmt : Nat
  values : List Word32
  deriving DecidableEq, Repr, Inhabited

/-- What the receiver of a Hennil flit finds (R399): its header fields, the per-class credit returns among them, on which lanes
FEC corrected a burst, whether the CRC then holds, and the payload. -/
structure FlitMsg where
  seq : BitVec 12
  ack : BitVec 12
  nak : Bool
  credits : BitVec 39
  corrected : List Nat
  crcOk : Bool
  payload : List (BitVec 256)
  deriving DecidableEq, Repr, Inhabited

/-- The instructions and events of the opcode table. -/
inductive Instr where
  | nop (g : BitVec 6)
  | halt (g : BitVec 6)
  | brk (g : BitVec 6) (code : BitVec 12)
  | trap (g : BitVec 6) (code : BitVec 12)
  | eret (g : BitVec 6)
  | icsync (g : BitVec 6) (scope : BitVec 3)
  | fence (g : BitVec 6) (paths : BitVec 5) (scope : BitVec 3)
  | br (g : BitVec 6) (off : BitVec 32)
  | call (g rd : BitVec 6) (off : BitVec 32)
  | jr (g ra : BitVec 6)
  | callr (g rd ra : BitVec 6)
  | ret (g ra : BitVec 6)
  | loop (g ra : BitVec 6) (blen : BitVec 24)
  | loopi (g : BitVec 6) (n : BitVec 12) (blen : BitVec 24)
  | loopp (g ra : BitVec 6) (stg : BitVec 4) (blen : BitVec 24)
  | looppi (g : BitVec 6) (n : BitVec 12) (stg : BitVec 4) (blen : BitVec 24)
  | add (g rd ra rb : BitVec 6)
  | sub (g rd ra rb : BitVec 6)
  | mul (g rd ra rb : BitVec 6)
  | mulh (g rd ra rb : BitVec 6)
  | and (g rd ra rb : BitVec 6)
  | or (g rd ra rb : BitVec 6)
  | xor (g rd ra rb : BitVec 6)
  | andn (g rd ra rb : BitVec 6)
  | shl (g rd ra rb : BitVec 6)
  | shr (g rd ra rb : BitVec 6)
  | sar (g rd ra rb : BitVec 6)
  | ror (g rd ra rb : BitVec 6)
  | addi (g rd ra : BitVec 6) (imm : BitVec 32)
  | andi (g rd ra : BitVec 6) (imm : BitVec 32)
  | ori (g rd ra : BitVec 6) (imm : BitVec 32)
  | xori (g rd ra : BitVec 6) (imm : BitVec 32)
  | li (g rd : BitVec 6) (imm : BitVec 32)
  | lih (g rd : BitVec 6) (imm : BitVec 32)
  | shli (g rd ra amt : BitVec 6)
  | shri (g rd ra amt : BitVec 6)
  | sari (g rd ra amt : BitVec 6)
  | rori (g rd ra amt : BitVec 6)
  | min (g rd ra rb : BitVec 6)
  | max (g rd ra rb : BitVec 6)
  | minu (g rd ra rb : BitVec 6)
  | maxu (g rd ra rb : BitVec 6)
  | div (g rd ra rb : BitVec 6)
  | divu (g rd ra rb : BitVec 6)
  | rem (g rd ra rb : BitVec 6)
  | remu (g rd ra rb : BitVec 6)
  | lea1 (g rd ra rb : BitVec 6)
  | lea2 (g rd ra rb : BitVec 6)
  | lea4 (g rd ra rb : BitVec 6)
  | lea8 (g rd ra rb : BitVec 6)
  | cmpeq (g pd ra rb : BitVec 6)
  | cmpne (g pd ra rb : BitVec 6)
  | cmplt (g pd ra rb : BitVec 6)
  | cmpltu (g pd ra rb : BitVec 6)
  | cmpge (g pd ra rb : BitVec 6)
  | cmpgeu (g pd ra rb : BitVec 6)
  | tst (g pd ra rb : BitVec 6)
  | cmpeqi (g pd ra : BitVec 6) (imm : BitVec 32)
  | cmplti (g pd ra : BitVec 6) (imm : BitVec 32)
  | cmpltui (g pd ra : BitVec 6) (imm : BitVec 32)
  | cmpgei (g pd ra : BitVec 6) (imm : BitVec 32)
  | pand (g pd pa pb : BitVec 6)
  | por (g pd pa pb : BitVec 6)
  | pxor (g pd pa pb : BitVec 6)
  | pandn (g pd pa pb : BitVec 6)
  | pnot (g pd pa : BitVec 6)
  | pset (g pd : BitVec 6)
  | pclr (g pd : BitVec 6)
  | pmov (g pd pa : BitVec 6)
  | qmovPush (g : BitVec 6) (cmask : BitVec 4) (lane : BitVec 2) (ra : BitVec 6)
  | qmovPop (g rd : BitVec 6) (prod lane : BitVec 2)
  | qpeek (g rd : BitVec 6) (prod lane : BitVec 2)
  | finc (g fl : BitVec 6) (scope : BitVec 3) (ord : BitVec 2)
  | fset (g fl ra : BitVec 6) (scope : BitVec 3) (ord : BitVec 2)
  | fadd (g fl ra : BitVec 6) (scope : BitVec 3) (ord : BitVec 2)
  | frd (g rd fl : BitVec 6) (scope : BitVec 3) (ord : BitVec 2)
  | csrr (g rd : BitVec 6) (csr : BitVec 12)
  | csrw (g : BitVec 6) (csr : BitVec 12) (rs : BitVec 6)
  | csrs (g : BitVec 6) (csr : BitVec 12) (rs : BitVec 6)
  | csrc (g : BitVec 6) (csr : BitVec 12) (rs : BitVec 6)
  | sext (g rd ra width : BitVec 6)
  | zext (g rd ra width : BitVec 6)
  | clz (g rd ra : BitVec 6)
  | popc (g rd ra : BitVec 6)
  | ld8 (g rd ra : BitVec 6) (off : BitVec 32)
  | ld16 (g rd ra : BitVec 6) (off : BitVec 32)
  | ld32 (g rd ra : BitVec 6) (off : BitVec 32)
  | ld64 (g rd ra : BitVec 6) (off : BitVec 32)
  | ldz8 (g rd ra : BitVec 6) (off : BitVec 32)
  | ldz16 (g rd ra : BitVec 6) (off : BitVec 32)
  | ldz32 (g rd ra : BitVec 6) (off : BitVec 32)
  | st8 (g ra rs : BitVec 6) (off : BitVec 32)
  | st16 (g ra rs : BitVec 6) (off : BitVec 32)
  | st32 (g ra rs : BitVec 6) (off : BitVec 32)
  | st64 (g ra rs : BitVec 6) (off : BitVec 32)
  | ldq8 (g : BitVec 6) (cmask : BitVec 4) (lane : BitVec 2) (ra : BitVec 6) (zx : BitVec 1) (off : BitVec 24)
  | ldq16 (g : BitVec 6) (cmask : BitVec 4) (lane : BitVec 2) (ra : BitVec 6) (zx : BitVec 1) (off : BitVec 24)
  | ldq32 (g : BitVec 6) (cmask : BitVec 4) (lane : BitVec 2) (ra : BitVec 6) (zx : BitVec 1) (off : BitVec 24)
  | ldq64 (g : BitVec 6) (cmask : BitVec 4) (lane : BitVec 2) (ra : BitVec 6) (zx : BitVec 1) (off : BitVec 24)
  | amoAdd (g rd ra rb : BitVec 6) (w : BitVec 1) (scope : BitVec 3) (ord : BitVec 2)
  | amoSwp (g rd ra rb : BitVec 6) (w : BitVec 1) (scope : BitVec 3) (ord : BitVec 2)
  | amoCas (g rd ra rb : BitVec 6) (w : BitVec 1) (scope : BitVec 3) (ord : BitVec 2) (cmp : BitVec 6)
  | amoAnd (g rd ra rb : BitVec 6) (w : BitVec 1) (scope : BitVec 3) (ord : BitVec 2)
  | amoOr (g rd ra rb : BitVec 6) (w : BitVec 1) (scope : BitVec 3) (ord : BitVec 2)
  | amoXor (g rd ra rb : BitVec 6) (w : BitVec 1) (scope : BitVec 3) (ord : BitVec 2)
  | amoMin (g rd ra rb : BitVec 6) (w : BitVec 1) (scope : BitVec 3) (ord : BitVec 2) (u : BitVec 1)
  | amoMax (g rd ra rb : BitVec 6) (w : BitVec 1) (scope : BitVec 3) (ord : BitVec 2) (u : BitVec 1)
  | rldq8 (g : BitVec 6) (cmask : BitVec 4) (lane : BitVec 2) (ra : BitVec 6) (zx : BitVec 1) (off : BitVec 24) (acq : BitVec 1) (scope : BitVec 3)
  | rldq16 (g : BitVec 6) (cmask : BitVec 4) (lane : BitVec 2) (ra : BitVec 6) (zx : BitVec 1) (off : BitVec 24) (acq : BitVec 1) (scope : BitVec 3)
  | rldq32 (g : BitVec 6) (cmask : BitVec 4) (lane : BitVec 2) (ra : BitVec 6) (zx : BitVec 1) (off : BitVec 24) (acq : BitVec 1) (scope : BitVec 3)
  | rldq64 (g : BitVec 6) (cmask : BitVec 4) (lane : BitVec 2) (ra : BitVec 6) (zx : BitVec 1) (off : BitVec 24) (acq : BitVec 1) (scope : BitVec 3)
  | laydef (g ra : BitVec 6)
  | layinv (g ra : BitVec 6)
  | pin (g rd rp : BitVec 6) (nrow ncol : BitVec 8) (lvl : BitVec 2)
  | unpin (g rp : BitVec 6) (nrow ncol : BitVec 8) (lvl : BitVec 2)
  | lastuse (g rp : BitVec 6) (nrow ncol : BitVec 8) (lvl : BitVec 2)
  | stream (g rp : BitVec 6) (nrow ncol : BitVec 8) (lvl : BitVec 2)
  | pfit (g ra : BitVec 6) (cnt ld : BitVec 4) (itin lvl : BitVec 2)
  | pfitcan (g : BitVec 6) (itin : BitVec 2)
  | copy (g : BitVec 6) (tok : BitVec 3) (rs rt bx : BitVec 6) (fe : BitVec 1) (fl : BitVec 6) (scope eng : BitVec 3)
  | copyt (g : BitVec 6) (tok : BitVec 3) (rs rt bx : BitVec 6) (fe : BitVec 1) (fl : BitVec 6) (scope eng : BitVec 3) (tr : BitVec 6)
  | vrel (g rd rp : BitVec 6) (nrow ncol : BitVec 8)
  | promote (g : BitVec 6) (tok : BitVec 3) (ra rb dr : BitVec 6) (lu : BitVec 1)
  | kvapp (g rd ra kr vr : BitVec 6) (cnt : BitVec 8)
  | selTopk (g : BitVec 6) (e : EngineWord)
  | selSeg (g : BitVec 6) (e : EngineWord)
  | unmSetup (g : BitVec 6) (e : EngineWord)
  | unmReg (g : BitVec 6) (e : EngineWord)
  | unmRound (g : BitVec 6) (e : EngineWord)
  | unmFree (g : BitVec 6) (e : EngineWord)
  | rteSetup (g : BitVec 6) (e : EngineWord)
  | rteCount (g : BitVec 6) (e : EngineWord)
  | rtePlace (g : BitVec 6) (e : EngineWord)
  | rteScatter (g : BitVec 6) (e : EngineWord)
  | rteGather (g : BitVec 6) (e : EngineWord)
  | collAr (g : BitVec 6) (e : EngineWord)
  | collAg (g : BitVec 6) (e : EngineWord)
  | collRs (g : BitVec 6) (e : EngineWord)
  | collBc (g : BitVec 6) (e : EngineWord)
  | collA2a (g : BitVec 6) (e : EngineWord)
  | fencex (g : BitVec 6) (frm dst : BitVec 5) (scope : BitVec 3)
  | fpush (g ra : BitVec 6)
  | fqclose (g : BitVec 6)
  | renq (g ra rb : BitVec 6)
  | gbar (g fl ra : BitVec 6) (scope : BitVec 3)
  | gleave (g ra : BitVec 6)
  | gjoin (g ra : BitVec 6)
  | gcast (g fl ra rb : BitVec 6)
  | prack (g rd ra : BitVec 6)
  | hostirq (g ra vec : BitVec 6)
  | cube (g : BitVec 6) (c : CubeWord)
  | mma (g : BitVec 6) (c : CubeWord)
  | ald (g rr rp : BitVec 6) (view rm : BitVec 3) (ftz tr ve : BitVec 1) (minv : BitVec 8)
  | ast (g rr rp : BitVec 6) (view rm : BitVec 3) (ftz tr ve : BitVec 1) (minv : BitVec 8)
  | aclr (g rd : BitVec 6) (dv : BitVec 3)
  | acvt (g rd ra : BitVec 6) (sv dv rm : BitVec 3) (ftz : BitVec 1)
  | acopy (g rd ra : BitVec 6) (dv : BitVec 3)
  | atrn (g rd ra : BitVec 6) (dv : BitVec 3)
  | vadd (g : BitVec 6) (w : VecWord)
  | vsub (g : BitVec 6) (w : VecWord)
  | vmul (g : BitVec 6) (w : VecWord)
  | vfma (g : BitVec 6) (w : VecWord)
  | vmin (g : BitVec 6) (w : VecWord)
  | vmax (g : BitVec 6) (w : VecWord)
  | vabs (g : BitVec 6) (w : VecWord)
  | vneg (g : BitVec 6) (w : VecWord)
  | vand (g : BitVec 6) (w : VecWord)
  | vor (g : BitVec 6) (w : VecWord)
  | vxor (g : BitVec 6) (w : VecWord)
  | vnot (g : BitVec 6) (w : VecWord)
  | vshl (g : BitVec 6) (w : VecWord)
  | vshr (g : BitVec 6) (w : VecWord)
  | vsar (g : BitVec 6) (w : VecWord)
  | vcmpeq (g : BitVec 6) (w : VecWord)
  | vcmplt (g : BitVec 6) (w : VecWord)
  | vcmple (g : BitVec 6) (w : VecWord)
  | vsel (g : BitVec 6) (w : VecWord)
  | vcvt (g : BitVec 6) (w : VecWord)
  | vrndi (g : BitVec 6) (w : VecWord)
  | vrsum (g : BitVec 6) (w : VecWord)
  | vrmax (g : BitVec 6) (w : VecWord)
  | vrmin (g : BitVec 6) (w : VecWord)
  | vrargmax (g : BitVec 6) (w : VecWord)
  | vexp2 (g : BitVec 6) (w : VecWord)
  | vlog2 (g : BitVec 6) (w : VecWord)
  | vrcp (g : BitVec 6) (w : VecWord)
  | vrsq (g : BitVec 6) (w : VecWord)
  | vtanh (g : BitVec 6) (w : VecWord)
  | vmov (g : BitVec 6) (w : VecWord)
  | vperm (g : BitVec 6) (w : VecWord)
  | vrot (g : BitVec 6) (w : VecWord)
  | vrng (g : BitVec 6) (w : VecWord)
  | vdistIp (g : BitVec 6) (w : VecWord)
  | vdistL2 (g : BitVec 6) (w : VecWord)
  | vdistHam (g : BitVec 6) (w : VecWord)
  | vlmask (g : BitVec 6) (w : VecWord)
  | viota (g : BitVec 6) (w : VecWord)
  | vmovs (g : BitVec 6) (w : VecWord)
  | vins (g : BitVec 6) (w : VecWord)
  | joinMember (core : Nat) (k : Kind)
  | joinBroken (core : Nat) (k : Kind)
  | joinTimeout (core : Nat) (k : Kind)
  | tokenError (core : Nat) (k : Kind)
  | loadReturn (core idx : Nat)
  | atomicResponse (core idx : Nat)
  | tileFillArrival (idx : Nat)
  | cubePerform (core idx : Nat)
  | aldComplete (core idx : Nat)
  | vectorComplete (core idx : Nat)
  | tileMissTimeout (core idx : Nat)
  | alcoveWriteback (core idx : Nat)
  | hallFill (idx : Nat)
  | hallForward (idx : Nat)
  | homeRequest (idx : Nat) (full : Bool)
  | homePublication (core idx : Nat)
  | homeWriteback (cluster idx : Nat)
  | homeRaise (idx : Nat)
  | requestResend (idx : Nat)
  | slotSwap (stack slotA slotB : Nat)
  | pageWalkComplete (cluster ctx va : Nat)
  | copytRelease (cluster eng : Nat)
  | copyStart (cluster eng : Nat)
  | copyComplete (cluster eng idx : Nat)
  | markerRemove (cluster eng : Nat)
  | selectionPerform (cluster : Nat)
  | landingPerform (cluster slot : Nat)
  | concoursePerform (die sess : Nat)
  | countContribution (die : Nat) (msg : CountMsg)
  | routeTimeout (die sess : Nat)
  | collectivePerform (die idx : Nat)
  | collContribution (msg : CollMsg)
  | collectiveTimeout (die idx : Nat)
  | engineComplete (idx : Nat)
  | groupArrival (idx : Nat)
  | moduleArrival (xkey : BitVec 32) (module : PeerModule) (gen : Nat)
  | remoteFlagUpdate (idx : Nat)
  | pageMigrationCopy (idx : Nat)
  | pageMigrationSwitch (idx : Nat)
  | pageReturn (idx : Nat)
  | schedulerWalk (cluster : Nat)
  | launchTake (cluster queue : Nat)
  | hostLaunchTake (ctx cluster : Nat)
  | residencyTimeout (task : Nat)
  | taskStart (task : Nat)
  | taskRetire (task : Nat)
  | launchRetire (launch : Nat)
  | preemptGraceExpiry (task : Nat)
  | cut (task : Nat)
  | saveComplete (task : Nat)
  | taskResume (task : Nat)
  | faultRecord (idx : Nat)
  | contextFaultStop (ctx : Nat)
  | ctxCreate (addr : Nat)
  | ctxDestroy (addr : Nat)
  | lqtailWrite (ctx : Nat) (v : BitVec 64)
  | nqreadWrite (ctx : Nat) (v : BitVec 64)
  | tqreadWrite (ctx : Nat) (v : BitVec 64)
  | ctlStop (ctx : Nat)
  | ctlResume (ctx : Nat)
  | ctlKill (ctx : Nat)
  | ctlInvalidate (ctx : Nat)
  | debugWindowAccess (wr : Bool) (off : Nat) (v : BitVec 64)
  | hostRegisterWrite (bar off : Nat) (v : BitVec 64)
  | traceSample (ctx : Nat)
  | clockStep (n : Nat)
  | unitFailure (core : Nat)
  | thermalTrip (die temp : Nat)
  | moduleReset (warm : Bool)
  | blackboxRearm
  | firmwareUpdate (edOk mlOk : Bool) (rollback : Nat) (version : BitVec 32)
  | attestationReport (nonce : BitVec 256)
  | domainConfig (size number : Nat) (others : List Nat)
  | hbmRetrain (stack : Nat)
  | retrainRequest (stack : Nat)
  | flitReceive (die port : Nat) (flit : FlitMsg)
  | laneFecWindow (die port : Nat)
  | laneLockLoss (die port lane : Nat)
  | linkRetrainDone (die port : Nat) (lost : List Nat)
  | fabricTimeout (core idx : Nat)
  | instructionFetch (core : Nat) (k : Kind) (va : Nat)
  | writeAcknowledgement (core idx : Nat)
  | regionInstructionComplete (core idx : Nat)
  | stackRetrainingDone (stack : Nat)
  deriving DecidableEq, Repr, Inhabited

end Sys2Proof
end

