-- ==== Sys2Proof/Config.lean ====
section
/-! DEFINITION. What an implementation or an environment fixes and the spec leaves open: the installed far tier,
the next turn when the agenda of a state is empty, and the device's free choices. Each free value is an opaque
constant with no body, so nothing can be proved of it. -/

namespace Sys2Proof

/-- One turn of the machine. `issue` is a cycle in which the named strands of one core try to issue their head
bundles (R16, R19, R20); `event` is one of the rows 199 to 282 of the opcode table; the others are what the
outside or a storage cell does: an uncorrectable error in a granule (R349), a corrected one, a byte written by a
host or a peer (R160, R393), the replacement of a clean scalar-cache line (R149), of a cached instruction word
(R150) and of a TLB entry (R283), a GCAST of a peer module (R404), the residency limit that the management interface
sets (R295), and what a peer module's Concourse sends for the session `sess` of the group with a key: a row of an RTE.SCATTER
of rank `src` for the rank `owner` with its elements in a format, the answer that such a row of `rank` has come to rest or has
found no session, the request of an RTE.GATHER for a row, and its answer, each element as its bits and their format (R338,
R339). `dt` is how many
package cycles pass before the turn. -/
inductive Turn where
  | issue (core : Nat) (kinds : BitVec 4) (dt : Nat)
  | event (i : Instr) (dt : Nat)
  | poison (addr : Nat)
  | corrected (stack : Nat)
  | outside (addr : Nat) (b : Byte)
  | dropLine (core addr : Nat)
  | dropWord (core : Nat) (k : Kind) (addr : Nat)
  | dropTlb (cluster ctx va : Nat)
  | peerCast (xkey : BitVec 32) (flag : Nat) (add : Word32)
  | setRestime (cluster : Nat) (v : BitVec 24)
  | peerRow (xkey : BitVec 32) (sess src owner row fmt : Nat) (vals : List Nat)
  | peerAck (xkey : BitVec 32) (sess rank owner : Nat) (ok : Bool)
  | peerAsk (xkey : BitVec 32) (sess src owner row : Nat)
  | peerVals (xkey : BitVec 32) (sess rank owner row : Nat) (ok : Bool) (vals : List (Nat × Nat))
  deriving DecidableEq, Repr, Inhabited

/-- The installed far-tier size in GiB, as an implementation has it (R247, R344); at most 4,096 counts. -/
opaque Config.farGiB : Nat

/-- The turn that comes when the agenda is empty: a free value (log 4). -/
opaque Config.freeTurn : Nat → Turn

/-- A choice that the spec leaves to the device: a free value (log 4). -/
opaque Config.freeBool : Nat → Bool

/-- The cycle from which a write that no chain carries is seen by the readers of a task and kind on a path (R414, log 97):
a free value of the write's number, the task, the kind's code and the path. -/
opaque Config.freeArrive : Nat → Option Nat → Nat → Nat → Nat

/-- The set of a home gallery's directory in which a tile's entry stands (R352 gives no index): a free value. -/
opaque Config.dirSet : BitVec 12 → BitVec 24 → BitVec 24 → BitVec 20 → BitVec 20 → Nat

/-- The number of tasks that the matching entry of a domain group lists on another module (R403): a free value. -/
opaque Config.peerTasks : BitVec 32 → Nat → Nat

/-- The SHA-384 measurements of the layers of a firmware version (R390), as words: a free value. -/
opaque Config.measurements : Word32 → List Word

/-- The Ed25519 and ML-DSA-65 signatures of a report (R390), as words: a free value. -/
opaque Config.signatures : List Word → List Word

end Sys2Proof
end

