-- ==== Sys2Proof/Machine/State.lean ====
section
/-! DEFINITION. The state of one Bermador module as plain data: every piece of state that the spec gives the
module (INVENTORY.md, State), with the model's own fields that choose the next turn, and the state after reset.
Tables are sparse, so that the state after reset is small: an unlisted key reads as the value the docstring names. -/

namespace Sys2Proof.Machine

/-- Why the model stops. The spec's own traps and faults are next states; these are not. -/
inductive Fault where
  /-- Raised by an issue turn (`issueTurn`, called by `step`) that names a core the module does not have; no meaning of
  an instruction or an event raises it. Safe: the hardware has no such step. -/
  | noSuchUnit
  deriving DecidableEq, Repr

/-- Why the model has no meaning for something. -/
inductive Refusal where
  /-- Raised by `exec` for an instruction that has no meaning yet: none of the model's. Safe: nothing is said of it. -/
  | notModelled (mnemonic : String)
  deriving DecidableEq, Repr

/-- The strand states of R23. -/
inductive StrandMode where
  | idle | running | waiting | trapped | halted | stopped
  deriving DecidableEq, Repr, Inhabited

/-- One hardware loop level, its registers laid out as R82. -/
structure LoopLevel where
  start : Word := 0
  endReg : Word := 0
  count : Word := 0
  deriving DecidableEq, Repr, Inhabited

/-- A strand's own state (01, R8 to R15). `regs` and `preds` are physical; an unlisted register is zero. `joinSince` is the cycle
from which its join wait counts (R21), `fetchSince` that from which its head waits for its fetch (R398).
`pend` lists physical registers that wait for data (R155, R227); `icache` holds 64-byte lines by number (R150); `was` is
the state to which a stopped strand returns (R23, R265); `bpSkip` the bundle that issues once without matching a breakpoint
(R387). -/
structure Strand where
  mode : StrandMode := .idle
  pc : Word := 0
  regs : Tab Word := []
  preds : BitVec 64 := 0
  sbase : BitVec 5 := 0
  pbase : BitVec 4 := 0
  sticky : BitVec 7 := 0
  trapvec : Word := 0
  epc : Word := 0
  cause : Word := 0
  tval : Word := 0
  loops : Tab LoopLevel := []
  pend : List Nat := []
  icache : List (Nat × BitVec 512) := []
  joinSince : Option Nat := none
  fetchSince : Option Nat := none
  bpSkip : Option Word := none
  was : StrandMode := .running
  deriving DecidableEq, Repr, Inhabited

/-- An entry of a queue lane (R111): `born` is the cycle of its push or reservation, `data` its value with the
cycle in which it was written, none while the entry is only reserved by the load `load`. -/
structure LaneEntry where
  born : Nat
  load : Nat
  data : Option (Word × Nat)
  deriving DecidableEq, Repr, Inhabited

/-- A word of the format queue with the cycle of its push (R184, R233). -/
structure FqWord where
  w : Word
  born : Nat
  deriving DecidableEq, Repr, Inhabited

/-- A copy token (R116). -/
structure Token where
  count : Nat := 0
  err : Bool := false
  reason : BitVec 4 := 0
  deriving DecidableEq, Repr, Inhabited

/-- What names a tile to a cache or a gallery (R134, R135). -/
structure TileKey where
  ctx : BitVec 12
  tid : BitVec 24
  outer : BitVec 24
  trow : BitVec 20
  tcol : BitVec 20
  deriving DecidableEq, Repr, Inhabited

/-- The states of a tile line (R136); an invalid line is not listed. -/
inductive LineState where
  | filling | clean | dirty | draining
  deriving DecidableEq, Repr, Inhabited

/-- A crossing by which writes are carried to readers (R253): made at a core with a scope for the readers of some paths, from
the access of a number on. -/
structure Crossing where
  core : Nat
  scope : Nat
  paths : BitVec 5
  since : Nat
  deriving DecidableEq, Repr, Inhabited

/-- An alcove or hall line (R134, R275). `pins` is bit 0 alone in an alcove and one bit per core in a hall.
`lrec` is the record under which the line was filled or written; `keep` marks a draining line that becomes clean
(a publication or a release); `thru` a line that is dropped after its last read (R139); `unit`, `pc` and `base`
name the strand that last wrote the line, the bundle after its command and that of the command. `fill` is the number of
the request that a filling line waits for (R136, R203). `units` are the strands whose writes the line holds and memory does
not, and `rels` the releases that those writes have passed (R255); `byAst` says that an AST made one of them (R362). `since` is when a hall line began to drain. -/
structure TileLine where
  bank : Nat
  way : Nat
  key : TileKey
  ver : BitVec 8
  cls : BitVec 2
  pins : BitVec 16
  st : LineState
  keep : Bool
  thru : Bool
  unit : Word
  pc : Word
  base : Word
  lrec : Block
  data : Line
  fill : Nat := 0
  units : List Word := []
  rels : List Crossing := []
  byAst : Bool := false
  since : Nat := 0
  deriving DecidableEq, Repr, Inhabited

/-- What an outstanding load does with its data: write a scalar register of a strand, fill the reserved entries
of lanes, or apply an atomic and write a register. -/
inductive LoadUse where
  | reg (k : Kind) (phys : Nat)
  | lanes
  | atomic (k : Kind) (phys : Nat) (op : Nat) (unsigned : Bool) (arg cmp : Word)
  deriving DecidableEq, Repr, Inhabited

/-- An outstanding load, queued or remote load or atomic (R22, R155 to R160). `cached` says whether it may use
the scalar data cache, `alloc` whether a miss allocates there, `z` the attribute of its page; `acq` is the scope of
an acquire. -/
structure OutLoad where
  id : Nat
  use : LoadUse
  strand : Kind
  va : Nat
  pa : Nat
  size : Nat
  signed : Bool
  cached : Bool
  alloc : Bool
  z : Bool
  acq : Option Nat
  pc : Word
  since : Nat
  deriving DecidableEq, Repr, Inhabited

/-- A store that is not yet performed at its home (R250, R396). `atCore` says that it is performed at core scope,
`z` is the attribute of its page (R350). -/
structure OutStore where
  id : Nat
  strand : Kind
  pa : Nat
  bytes : List Byte
  z : Bool
  atCore : Bool
  pc : Word
  since : Nat
  deriving DecidableEq, Repr, Inhabited

/-- A piece of an accumulator write: row, first bit within the row, width, bits. -/
structure AccWrite where
  row : Nat
  bit : Nat
  width : Nat
  bits : Nat
  deriving DecidableEq, Repr, Inhabited

/-- A V or region instruction in progress: its writes, computed at issue, with its flags (R209, R215, R206). -/
structure AccOp where
  id : Nat
  spans : List (Nat × Nat × Nat)
  writes : List AccWrite
  sticky : BitVec 7
  reg : Option (Nat × Word)
  deriving DecidableEq, Repr, Inhabited

/-- A cube command or ALD that has issued and not performed (R141, R197, R198, R266); `dead` once it has raised the tile-miss
fault, when it only keeps its cells busy (R199); `seenBy` are the strands that have popped an entry which M pushed after it
(R106). `kind` is 0 CUBE, 1 MMA,
2 ALD. `regs` are the register values read at issue, `keys` the tiles with the minimum version of each operand,
`pc` the bundle after the command and `base` the command's own. -/
structure Parked where
  id : Nat
  kind : Nat
  w0 : Word32
  w1 : Word32
  regs : List Word
  fq : Word
  recs : List Block
  keys : List TileKey
  minv : Option (BitVec 8)
  pc : Word
  base : Word
  sa : List Word32
  sb : List Word32
  areg : List Word32
  spans : List (Nat × Nat × Nat)
  since : Nat
  dead : Bool := false
  seenBy : BitVec 4 := 0
  deriving DecidableEq, Repr, Inhabited

/-- An itinerary (R165): its entries and the positions of those whose fill has started. -/
structure Itinerary where
  id : Nat
  lvl : BitVec 2
  lead : Nat
  entries : List (Word × Word)
  begun : List Nat
  deriving DecidableEq, Repr, Inhabited

/-- A publication of one tile that has not reached its home (R174): the destination register, written with the
first version published; `drained` once no line has still to drain for it. -/
structure Publication where
  id : Nat
  key : TileKey
  lrec : Block
  pa : Option (Kind × Nat)
  drained : Bool := false
  deriving DecidableEq, Repr, Inhabited

/-- A table entry of KVAPP (R178). -/
structure KvEntry where
  slot : Nat
  zero : Nat
  lenp : Nat
  ksrc : Nat
  vsrc : Nat
  deriving DecidableEq, Repr, Inhabited

/-- An entry that a KVAPP has begun (R179, R362, R373): the entry and the position `x` at which it appends, the records of the two
arenas, the pages still to be backed as table entry and address, the frame taken for the first of them and not yet written into
its leaf, the row being moved (`value` for the second) with its bytes, and the tiles of that row still to be written. `idx` is the
physical register that holds the number of the entry, once the KVAPP has paused. -/
structure KvRun where
  e : KvEntry
  x : Nat
  krec : Block
  vrec : Block
  idx : Nat := 0
  pages : List (Nat × Nat)
  frame : Option Nat := none
  value : Bool := false
  bytes : List Byte
  left : List TileKey
  deriving DecidableEq, Repr, Inhabited

/-- A core: its four strands and what they share (06, 05, 10). `lastuse` lists the tiles of LASTUSE hints that wait for
earlier M commands, with the hint's number and levels; `wdSince` is the cycle in which `core.watchdog` was last written
(R143); `kvAt` is the head at which a KVAPP of the A strand is in progress (R259), and `kvRun` the entry that it has begun. `hcls` is the class of each strand's head in the last
cycle counted, with its flag (R386, R388). -/
structure Core where
  a : Strand := {}
  c : Strand := {}
  m : Strand := {}
  v : Strand := {}
  acc : Tab Word32 := []
  alcove : List TileLine := []
  aplru : Tab (BitVec 15) := []
  lanes : Tab (List LaneEntry) := []
  fq : List FqWord := []
  fqClosed : Bool := false
  flags : Tab Word32 := []
  toks : Tab Token := []
  joins : Tab (BitVec 4) := []
  pairs : Tab Nat := []
  missLimit : BitVec 24 := 0x4000
  joinLimit : BitVec 24 := 0x400
  recs : List Block := []
  scache : List (Nat × BitVec 512) := []
  loads : List OutLoad := []
  stores : List OutStore := []
  vops : List AccOp := []
  mops : List AccOp := []
  replay : List Parked := []
  itins : List Itinerary := []
  pubs : List Publication := []
  lastuse : List (TileKey × Nat × BitVec 2) := []
  ctx : BitVec 12 := 0
  prio : BitVec 2 := 0
  arg : Word := 0
  preqPend : Bool := false
  preqPrio : BitVec 2 := 0
  preqSince : Nat := 0
  pgrace : BitVec 16 := 0
  hcnt : Tab Word := []
  fwait : Tab Word := []
  task : Option Nat := none
  afileDead : Bool := false
  wdSince : Nat := 0
  kvAt : Option Word := none
  kvRun : Option KvRun := none
  hcls : Tab (Nat × Nat) := []
  deriving DecidableEq, Repr, Inhabited

/-- Where a flag update of a completion goes: the core, the flag and the task for which it was asked. -/
structure FlagTarget where
  core : Nat
  flag : Nat
  task : Option Nat
  deriving DecidableEq, Repr, Inhabited

/-- A TLB entry (R283): context, first virtual address, log2 of the page size, and the leaf. -/
structure TlbEntry where
  ctx : BitVec 12
  va : Nat
  bits : Nat
  leaf : Word
  deriving DecidableEq, Repr, Inhabited

/-- An accepted engine command (R168, R171, R182, R300, R405). `op` and `fn` are those of its first word; `regs`
the register values read at issue; `block` its descriptor or operand block; `recs` its captured records. `begun`
is false until the engine has started it; `done` once its accesses are performed; `failed` once it has raised a fault.
`seq` is its number in a session's or a group's sequence, `since` the cycle from which its limit counts, a copy's that of its
release; `maps` the mappings of a copy's pages when it entered the run queue (R172); `result` what a round whose raises are
not yet performed has still to record (R312). -/
structure EngineCmd where
  id : Nat
  core : Nat
  ctx : BitVec 12
  task : Option Nat
  op : Nat
  fn : Nat
  w0 : Word32
  w1 : Word32
  tok : Nat
  eng : Nat
  fe : Bool
  flag : Nat
  scope : Nat
  time : Nat
  regs : List Word
  block : Block
  recs : List Block
  begun : Bool
  done : Bool
  failed : Bool
  seq : Nat
  since : Nat
  maps : List TlbEntry := []
  result : List Nat := []
  deriving DecidableEq, Repr, Inhabited

/-- An entry of an engine's run queue (R329): a command, or the marker of an invalidation. -/
inductive RunEntry where
  | cmd (c : EngineCmd)
  | marker (inval : Nat)
  deriving DecidableEq, Repr, Inhabited

/-- A block-transfer engine (R329, R331). -/
structure Bte where
  vest : List EngineCmd := []
  runq : List RunEntry := []
  act : List EngineCmd := []
  late : Word32 := 0
  deriving DecidableEq, Repr, Inhabited

/-- A layer group of a Landing slot (R308, R310). -/
structure LayerGroup where
  num : Nat
  radius : Nat
  tensors : List (BitVec 24 × BitVec 24 × Block)
  deriving DecidableEq, Repr, Inhabited

/-- The states of a Landing slot (R308); a free slot is listed only while accepted commands on it are queued. -/
inductive SlotState where
  | free | setting | ready | rounding | done
  deriving DecidableEq, Repr, Inhabited

/-- A Landing slot (R308). `accBlock`, `accRecs` and `accRegs` are the block, the records and the registrations of the last
accepted setup, by which the commands behind it are judged; `block`, `recs`, `mask`, `round`, `groups` and `st` are what the
performed commands leave. -/
structure LandingSlot where
  num : Nat
  owner : Option (BitVec 12)
  accBlock : Block
  accRecs : List Block
  accRegs : List (Nat × BitVec 24 × BitVec 24)
  block : Block
  recs : List Block
  mask : BitVec 8192
  round : Word32
  groups : List LayerGroup
  st : SlotState
  deriving DecidableEq, Repr, Inhabited

/-- A RENQ entry (R237): the block's address, the issuing core and task, and the issuing launch's priority. -/
structure RenqEntry where
  addr : Word
  core : Nat
  task : Option Nat
  ctx : BitVec 12
  prio : BitVec 2
  deriving DecidableEq, Repr, Inhabited

/-- A cluster's shared parts (14, 15, 17). `renq` 0 to 15 are the cores' queues, 16 the scheduler's. -/
structure Cluster where
  hall : List TileLine := []
  hplru : Tab (BitVec 255) := []
  retainSel : Tab Word := []
  retainRng : Tab Word := []
  tlb : List TlbEntry := []
  btes : Tab Bte := []
  selq : List EngineCmd := []
  lndq : List EngineCmd := []
  slots : List LandingSlot := []
  restime : BitVec 24 := 0x400
  renq : Tab (List RenqEntry) := []
  deriving DecidableEq, Repr, Inhabited

/-- The states of a Concourse session (R333); a free session is listed only while an accepted setup is queued. -/
inductive SessState where
  | free | set | counted | placed
  deriving DecidableEq, Repr, Inhabited

/-- A Concourse session (R333). `owner` and `accState` are what the accepted commands leave; `block`, `recs`, `group`
and `table` are those of the last performed setup; `owed` counts the rows sent to peers whose acknowledgement is
outstanding (R339), `asked` lists the rows that a gather has asked peers for, as owner rank and row, and `got` those that have
come, each element as its bits and their format (R338). -/
structure Session where
  num : Nat
  owner : Option (BitVec 12)
  home : Nat
  accState : SessState
  st : SessState
  block : Block
  recs : List Block
  group : GroupKey
  table : List (Nat × Nat × Nat)
  seq : Nat
  counts : List CountMsg
  owed : Nat := 0
  asked : List (Nat × Nat) := []
  got : List (Nat × Nat × List (Nat × Nat)) := []
  deriving DecidableEq, Repr, Inhabited

/-- A Hennil port (R399 to R401). `win` counts the corrected bursts of each lane in the window of number `winNo`; `txSeq`
is the next sequence number to send, `rxSeq` the next expected, `replayBuf` the flits sent and kept for replay; `been` says
that the link has been up since the reset. -/
structure Port where
  repl : BitVec 16 := 0
  corr : Word32 := 0
  lret : BitVec 8 := 0
  width : BitVec 2 := 0
  st : BitVec 2 := 0
  win : Tab Nat := []
  rxSeq : BitVec 12 := 0
  txSeq : BitVec 12 := 0
  replayBuf : List (BitVec 12) := []
  winNo : Nat := 0
  been : Bool := false
  deriving DecidableEq, Repr, Inhabited

/-- A die's shared parts (17, 22). An unlisted slot-table entry has every field unclaimed (R323). -/
structure Die where
  sessions : List Session := []
  rteq : List EngineCmd := []
  held : List CountMsg := []
  collq : List EngineCmd := []
  ports : Tab Port := []
  deriving DecidableEq, Repr, Inhabited

/-- A directory entry (R352). -/
structure DirEntry where
  key : TileKey
  nv : BitVec 8
  req : BitVec 8
  hv : Bool
  hdie : Nat
  hcl : Nat
  pk : Bool
  deriving DecidableEq, Repr, Inhabited

/-- Where a tile request stands: waiting for an alcove way, at its hall, on its way to the home, parked there, forwarded to the
hall that was the holder, with the newest version of that moment, waiting for the holder to let go, answered with a retry, or
returning with a tile of a version. -/
inductive ReqStage where
  | alcove
  | hall
  | home
  | parked
  | forwarded (hall : Nat) (nv : BitVec 8)
  | waitClean
  | retry (at_ : Nat)
  | toHall (ver : BitVec 8) (data : Line)
  | toCore (ver : BitVec 8) (data : Line)
  deriving DecidableEq, Repr, Inhabited

/-- A tile request (R136, R353). `core` is none for a fill of the hall alone; `minv` its minimum version; `free`
marks the fills and engine reads that R313 serves without regard to `req`; `who` is the strand, the bundle
after its command and the bundle of the command, none for a fill that only a hint asked for. `itin` marks a fill that an
itinerary or residency gating started, which a hall without a way drops (R279); `pinBy` is the core for which the line is to
be pinned; `asOf` the access number as of which the tile is read, which an acquire renews (R254); `line` says that a hall line was
reserved for it (R279); `since` is when it went to its home (R398). -/
structure TileReq where
  id : Nat
  cluster : Nat
  core : Option Nat
  key : TileKey
  lrec : Block
  minv : Option (BitVec 8)
  free : Bool
  cls : BitVec 2
  lvl : BitVec 2
  who : Option (Kind × Word × Word)
  stage : ReqStage
  itin : Bool := false
  pinBy : Option Nat := none
  asOf : Nat := 0
  line : Bool := false
  since : Nat := 0
  deriving DecidableEq, Repr, Inhabited

/-- A raise (R313): on its way to its tile's home until `since` says with which number the next command was to issue when the
home took it; then it waits for the lines of its cluster that commands issued before that have still to read. -/
structure Raise where
  key : TileKey
  lrec : Block
  cluster : Nat
  cmd : Nat
  since : Option Nat := none
  deriving DecidableEq, Repr, Inhabited

/-- The states of a page move (R364, R365). -/
inductive MoveState where
  | wait | copying | switching | resident | returning
  deriving DecidableEq, Repr, Inhabited

/-- A page move of a promotion (R364, R365). `copied` is the line map with the lines written; `read` and `wrote`
the lines read and written since the switch; `inval` the invalidation that the switch waits for. -/
structure PageMove where
  id : Nat
  ctx : BitVec 12
  core : Nat
  task : Option Nat
  tok : Nat
  cmd : Nat
  va : Nat
  old : Nat
  new : Nat
  lu : Bool
  deadline : Nat
  st : MoveState
  copied : BitVec 64
  read : BitVec 64
  wrote : BitVec 64
  inval : Option Nat
  deriving DecidableEq, Repr, Inhabited

/-- An invalidation of a context's mappings in progress (R284): the clusters' engines whose marker still stands, and the
TLB entries that it has removed from each cluster, which engine commands ahead of a marker go on using (R172). -/
structure Inval where
  id : Nat
  ctx : BitVec 12
  left : List Nat
  notify : Bool
  old : Tab (List TlbEntry) := []
  deriving DecidableEq, Repr, Inhabited

/-- A fault record (R268). -/
structure FaultRec where
  code : BitVec 8
  reason : BitVec 8
  more : BitVec 16
  ctx : BitVec 12
  unit : Word
  pc : Word
  val : Word
  time : Word
  fqw : Word
  deriving DecidableEq, Repr, Inhabited

/-- The control states of a context (R382). -/
inductive CtlState where
  | running | stopping | stopped | ended
  deriving DecidableEq, Repr, Inhabited

/-- A live context: its descriptor (R377) and what the doorbell page, the free list and the fault collector hold
for it (R361, R268, R380, R382, R388). `noteq` are notifications that wait for room, with one more than their
vector or zero; `traceq` the trace records that wait for room, with the strand that each stalls; `sampled` is the cycle of the
last samples (R388), `xgroups` the domain groups of the launches that it has taken (R411). -/
structure Context where
  id : BitVec 12
  desc : BitVec 2048
  lqtail : Word
  lqhead : Word
  nqread : Word
  nqwrite : Word
  tqread : Word
  tqwrite : Word
  tqdrop : Word
  dropSince : Word
  late : Word
  pdl : Word
  ctl : CtlState
  resumePend : Bool
  stopOp : Bool
  killOp : Bool
  stash : List Nat
  reclaim : List Nat
  promoLate : Word32
  fault : Option FaultRec
  noteq : List (Nat × List Word)
  traceq : List (Option (Nat × Kind) × List Word)
  sampled : Option Nat := none
  xgroups : List GroupKey := []
  deriving DecidableEq, Repr, Inhabited

/-- The states of a task (R293). -/
inductive TaskState where
  | waiting | residing | starting | running | stopping | saving | stopped | retired | ended
  deriving DecidableEq, Repr, Inhabited

/-- A task of a launch (R293). `saved` is true from its cut until its resume; `area` is one more than the address of
its context area, zero before it has one; `cutAt` the cycle of its cut once its strands have stopped; `map` its save map
and `ackd` the blocks of the save acknowledged (R384); `grps` the groups of which it is a current member; `flagsIn` the
flag updates that arrived while it was saved and found its area not writable; `matched` the strands whose head a hardware
breakpoint stopped, with that head (R387); `farFlag` says that a flag of the task was raised by a release beyond its cluster
(R241, R254); `cmds` and `parked` the saved commands with
what their records of R266 do not hold. In a resumed task `cmds` are the commands for which their engines have no room yet (R262, R329). -/
structure Task where
  id : Nat
  launch : Nat
  index : Nat
  st : TaskState
  core : Nat
  since : Nat
  arrival : Nat
  saved : Bool
  area : Nat
  cutAt : Option Nat
  why : Nat
  map : BitVec 80
  ackd : BitVec 80
  grps : List Nat
  flagsIn : List (Nat × Word32)
  cmds : List EngineCmd
  parked : List Parked
  matched : List (Kind × Word) := []
  farFlag : Bool := false
  deriving DecidableEq, Repr, Inhabited

/-- A taken launch (R238, R286, R291, R379). `recBits` is its launch record, `cores` the core of each task where the
placement names one, `ran` the clusters that have run it. -/
structure Launch where
  id : Nat
  ctx : BitVec 12
  recBits : BitVec 4096
  recs : List Block
  cores : List Nat
  gtab : List (BitVec 2048)
  slotImg : List (Nat × BitVec 16)
  slotsOn : Bool
  prio : BitVec 2
  arrival : Nat
  cluster : Nat
  arg : Word
  notify : Word
  fe : Option FlagTarget
  fwhen : Bool
  tag : Option Word
  ran : List Nat
  deriving DecidableEq, Repr, Inhabited

/-- The barrier state of a group (R241, R298, R403, R404). `members` are the tasks for which the pending generation
waits, `arrived` its arrivals with their flags, `joiners` the members from the next generation on and `next` their
arrivals at it; `cluster` keeps the state and `scope` is the extent. `sent` and `mods` are the module arrivals of a
domain group, the latter as module and generation; `gone` lists the modules whose launch has retired; `doneAt` is the
cycle in which a generation last completed (R297). -/
structure GroupState where
  key : GroupKey
  cluster : Nat
  gen : Nat
  members : List Nat
  arrived : List (Nat × Nat)
  joiners : List Nat
  next : List (Nat × Nat)
  scope : Nat
  gone : List Nat
  sent : Bool
  mods : List (Nat × Nat)
  doneAt : Option Nat := none
  deriving DecidableEq, Repr, Inhabited

/-- An arrival (`what` 0), a leave (1) or a join (2) on its way to the scheduler that keeps a group (R298). -/
structure GroupMsg where
  key : GroupKey
  task : Nat
  what : Nat
  flag : Nat
  deriving DecidableEq, Repr, Inhabited

/-- A flag update on its way to a core (R100, R242, R243); `scope` is that of the release that it carries (R241, R242). -/
structure FlagMsg where
  task : Option Nat
  core : Nat
  flag : Nat
  add : Word32
  scope : Nat := 0
  deriving DecidableEq, Repr, Inhabited

/-- A stack of HBM (R384). -/
structure Stack where
  retraining : Bool := false
  pending : Bool := false
  ecc : Word := 0
  remap : List (Nat × Nat) := []
  deriving DecidableEq, Repr, Inhabited

/-- What a peer module sent for a domain group that is not formed here yet (R403, R404): an arrival with its sender's set of
modules, its module and generation, or (`cast`) the addition of a GCAST. -/
structure EarlyMsg where
  xkey : BitVec 32
  cast : Bool
  mods : BitVec 512 := 0
  module : Nat := 0
  gen : Nat := 0
  flag : Nat := 0
  add : Word32 := 0
  deriving DecidableEq, Repr, Inhabited

/-- What leaves the module, in the order in which it leaves: an MSI-X message, words to a peer or a controller. -/
structure OutMsg where
  kind : String
  words : List Word
  deriving DecidableEq, Repr, Inhabited

/-- How the bundle in issue has fared so far. -/
inductive Verdict where
  | performing | held | trapped | faulted
  deriving DecidableEq, Repr, Inhabited

/-- The bundle in issue: the acting strand, the bundle's address and word count, the position of the current
instruction, the core as it stood before the cycle (R5, R16, R20), whether a control transfer was taken, what
has been decided, the sticky bits that its instructions have raised (R103), and the cells that an M bundle of the same
cycle reads (R130). `preCl`, `preDie`, `preQueues` and `prePromo` are the core's cluster, its die, and the words of
`cluster.queues` and `pkg.promo` as they stood before the cycle (R12, R20); `paused` says that a KVAPP goes on in a later
cycle (R259). -/
structure Issue where
  core : Nat := 0
  kind : Kind := .a
  base : Word := 0
  words : Nat := 1
  pos : Nat := 1
  pre : Core := {}
  taken : Bool := false
  verdict : Verdict := .performing
  raised : BitVec 7 := 0
  mreads : List (Nat × Nat × Nat) := []
  preCl : Cluster := {}
  preDie : Die := {}
  preQueues : Word := 0
  prePromo : Word := 0
  paused : Bool := false
  deriving DecidableEq, Repr, Inhabited

/-- A write of one granule that has entered the granule's order (R254, R414), with the bytes that it replaced, while some
reader may still be without it. `path` is its path (0 S, 1 T, 2 B, 3 E, 4 F), `core`, `task` and `kind` its writer. `rels`
are the releases that it has passed, as core and scope; `seen` the crossings made for it, as core, scope and the paths
whose readers receive it (R253); `own` the paths on which its own strand does; `met` the readers that have found it or are to
find it, as task, strand kind and path (R254, R262); `gone` the cycle in which its launch retired; `cmd` the number
of the access or command that made it. -/
structure OldWrite where
  id : Nat
  granule : Nat
  before : List Byte
  path : Nat
  core : Nat
  task : Option Nat
  kind : Kind
  rels : List (Nat × Nat)
  seen : List Crossing
  own : BitVec 5
  gone : Option Nat
  met : List (Option Nat × Nat × Nat) := []
  cmd : Nat := 0
  deriving DecidableEq, Repr, Inhabited

/-- The whole module. `hist` is oldest first; `phase` orders the events of one cycle (R278, R297, R355, log 104);
`joinReady` lists the joined strands whose whole bundle was ready in the last issue turn while a partner was not (R21).
`farPool` holds the far frames that promotions gave back (R364), `ctxcmd` the command of `mod.ctxcmd` under way (R376);
`routeMark` is the number from which on requests were made after the last change of a route (R397).
`cores` is keyed by 160 × die + 16 × cluster + core, `clusters` by 10 × die + cluster. -/
structure State where
  agenda : List Turn
  turns : Nat
  fresh : Nat
  nextId : Nat
  routeMark : Nat
  issue : Issue
  outbox : List OutMsg
  now : Nat
  cores : Tab Core
  clusters : Tab Cluster
  dies : Tab Die
  mem : List Host.Cell
  poison : List Nat
  zeros : List Nat
  dir : List DirEntry
  reqs : List TileReq
  raises : List Raise
  swaps : Word32
  moves : List PageMove
  invals : List Inval
  ctxs : List Context
  launches : List Launch
  tasks : List Task
  groups : List GroupState
  gmsgs : List GroupMsg
  fmsgs : List FlagMsg
  early : List EarlyMsg
  colls : List CollMsg
  collSeqs : List (GroupKey × Nat × Nat)
  claims : List (Nat × Nat)
  posts : List FaultRec
  slotTables : Tab (BitVec 16)
  modctxsts : Word
  dbgaddr : Word
  dbgctx : Word
  fwVersion : Word32
  rollback : Nat
  clock : Nat
  mapped : List Nat
  failed : List Nat
  bbox : List (List Word)
  bbFrozen : Bool
  bbOver : Word32
  modNum : BitVec 9
  domSize : Nat
  hbm : Tab Stack
  hist : List OldWrite
  phase : Nat
  joinReady : List (Nat × Kind)
  farPool : List Nat
  ctxcmd : Option Word
  deriving DecidableEq, Repr, Inhabited

/-- The module right after reset: no context lives, no task runs, every strand is idle, every cache, queue and
table is empty, and the registers hold the values that INVENTORY.md lists. -/
def State.reset : State where
  agenda := []
  turns := 0
  fresh := 0
  nextId := 0
  routeMark := 0
  issue := {}
  outbox := []
  now := 0
  cores := []
  clusters := []
  dies := []
  mem := []
  poison := []
  zeros := []
  dir := []
  reqs := []
  raises := []
  swaps := 0
  moves := []
  invals := []
  ctxs := []
  launches := []
  tasks := []
  groups := []
  gmsgs := []
  fmsgs := []
  early := []
  colls := []
  collSeqs := []
  claims := []
  posts := []
  slotTables := []
  modctxsts := 0
  dbgaddr := 0
  dbgctx := 0
  fwVersion := 0
  rollback := 0
  clock := 10
  mapped := []
  failed := []
  bbox := []
  bbFrozen := false
  bbOver := 0
  modNum := 0
  domSize := 1
  hbm := []
  hist := []
  phase := 0
  joinReady := []
  farPool := []
  ctxcmd := none

end Sys2Proof.Machine
end

