-- ==== Sys2Proof/Machine/Num.lean ====
section
/-! DEFINITION. Exact numbers, the element formats and the one rounding of the device (03, R47 to R61). A number
is NaN, an infinity, or a signed dyadic; a zero keeps its sign. Each operation answers its result together with the
sticky bits it raises, laid out as `strand.sticky` (R15). -/

namespace Sys2Proof.Machine

/-- An exact value: `fin neg m e` is (−1)^neg × m × 2^e, a signed zero when m is 0. -/
inductive Num where
  | nan
  | inf (neg : Bool)
  | fin (neg : Bool) (m : Nat) (e : Int)
  deriving DecidableEq, Repr, Inhabited

/-- The sticky bits of R15. -/
def skNv : BitVec 7 := 1
@[inherit_doc skNv] def skDz : BitVec 7 := 2
@[inherit_doc skNv] def skOf : BitVec 7 := 4
@[inherit_doc skNv] def skUf : BitVec 7 := 8
@[inherit_doc skNv] def skNx : BitVec 7 := 16
@[inherit_doc skNv] def skSat : BitVec 7 := 32
@[inherit_doc skNv] def skT2 : BitVec 7 := 64

/-- The rounding modes of R53. -/
inductive Mode where
  | rne | rtz | rup | rdn | rna
  deriving DecidableEq, Repr, Inhabited

/-- The mode of an `rm` field (R31). -/
def Mode.ofBits (b : BitVec 3) : Mode :=
  match b.toNat with
  | 0 => .rne
  | 1 => .rtz
  | 2 => .rup
  | 3 => .rdn
  | _ => .rna

/-- A floating-point format (R48): fraction bits, exponent bits, bias, and whether it is E4M3. -/
structure FFmt where
  f : Nat
  w : Nat
  bias : Nat
  e4 : Bool
  deriving DecidableEq, Repr

/-- The formats of R48. -/
def fF32 : FFmt := ⟨23, 8, 127, false⟩
@[inherit_doc fF32] def fQ24 : FFmt := ⟨15, 8, 127, false⟩
@[inherit_doc fF32] def fB16 : FFmt := ⟨7, 8, 127, false⟩
@[inherit_doc fF32] def fH16 : FFmt := ⟨10, 5, 15, false⟩
@[inherit_doc fF32] def fE5M2 : FFmt := ⟨2, 5, 15, false⟩
@[inherit_doc fF32] def fE4M3 : FFmt := ⟨3, 4, 7, true⟩

/-- The canonical NaN of a format (R51). -/
def canonNaN (t : FFmt) : Nat :=
  if t.e4 then 0x7F else (2 ^ t.w - 1) * 2 ^ t.f + 2 ^ (t.f - 1)

/-- The bits of an infinity. -/
def infBits (t : FFmt) (neg : Bool) : Nat :=
  (if neg then 2 ^ (t.f + t.w) else 0) + (2 ^ t.w - 1) * 2 ^ t.f

/-- The bits of the largest finite value without its sign (R48). -/
def maxBits (t : FFmt) : Nat := if t.e4 then 0x7E else (2 ^ t.w - 1) * 2 ^ t.f - 1

/-- A pattern read as an exact value (R48). -/
def decodeF (t : FFmt) (x : Nat) : Num :=
  let neg := decide (bitsAt x (t.f + t.w) 1 = 1)
  let e := bitsAt x t.f t.w
  let m := bitsAt x 0 t.f
  if t.e4 && e == 15 && m == 7 then .nan
  else if !t.e4 && e == 2 ^ t.w - 1 then (if m = 0 then .inf neg else .nan)
  else if e = 0 then .fin neg m (1 - (t.bias : Int) - t.f)
  else .fin neg (2 ^ t.f + m) ((e : Int) - t.bias - t.f)

/-- The integer of m × 2^−d chosen by a mode, and whether it is inexact (R53). -/
def roundShift (md : Mode) (neg : Bool) (m d : Nat) : Nat × Bool :=
  if d = 0 then (m, false)
  else
    let k := m >>> d
    let r := m % 2 ^ d
    let h := 2 ^ (d - 1)
    let up :=
      match md with
      | .rne => decide (h < r) || (r == h && k % 2 == 1)
      | .rtz => false
      | .rup => r != 0 && !neg
      | .rdn => r != 0 && neg
      | .rna => decide (h ≤ r)
    (if up then k + 1 else k, r != 0)

/-- The result of an overflow (R55). -/
def overflowBits (t : FFmt) (neg : Bool) (md : Mode) : Nat :=
  let toInf :=
    match md with
    | .rne => true
    | .rna => true
    | .rtz => false
    | .rup => !neg
    | .rdn => neg
  let sgn := if neg then 2 ^ (t.f + t.w) else 0
  if toInf && !t.e4 then infBits t neg else sgn + maxBits t

/-- `RoundTo` into a floating-point format (R54): the bits and the sticky bits. -/
def roundF (t : FFmt) (md : Mode) (ftz : Bool) (x : Num) : Nat × BitVec 7 :=
  match x with
  | .nan => (canonNaN t, 0)
  | .inf neg => if t.e4 then (canonNaN t, skNv) else (infBits t neg, 0)
  | .fin neg m e =>
    let sgn := if neg then 2 ^ (t.f + t.w) else 0
    if m = 0 then (sgn, 0)
    else
      let emin : Int := 1 - t.bias
      let lg : Int := (Nat.log2 m : Int) + e
      let qe : Int := max lg emin - t.f
      let r := if qe ≤ e then (m * 2 ^ (e - qe).toNat, false) else roundShift md neg m (qe - e).toNat
      let k := r.1
      let fl : BitVec 7 := (if r.2 then skNx else 0) ||| (if r.2 && decide (lg < emin) then skUf else 0)
      let enc := (qe + t.f + t.bias - 1).toNat * 2 ^ t.f + k
      if maxBits t < enc then (overflowBits t neg md, fl ||| skOf ||| skNx)
      else if ftz && k != 0 && decide (enc < 2 ^ t.f) then (sgn, fl ||| skUf ||| skNx)
      else (sgn + enc, fl)

/-- The integer chosen from a value by a mode, and whether it is inexact (R53, R56). -/
def roundInt (md : Mode) (neg : Bool) (m : Nat) (e : Int) : Int × Bool :=
  let r := if 0 ≤ e then (m * 2 ^ e.toNat, false) else roundShift md neg m (-e).toNat
  (if neg then -(r.1 : Int) else r.1, r.2)

/-- `RoundTo` into an integer range (R56): the integer and the sticky bits. -/
def roundI (lo hi : Int) (md : Mode) (x : Num) : Int × BitVec 7 :=
  match x with
  | .nan => (0, skNv)
  | .inf neg => (if neg then lo else hi, skNv)
  | .fin neg m e =>
    let r := roundInt md neg m e
    let c := max lo (min hi r.1)
    (c, (if r.2 then skNx else 0) ||| (if c = r.1 then 0 else skSat))

/-! ### Element formats (R47) -/

/-- The width of a format code; reserved codes have width 0. -/
def fmtWidth (c : Nat) : Nat :=
  match c with
  | 0 => 32
  | 1 => 16
  | 2 => 16
  | 3 => 8
  | 4 => 8
  | 5 => 32
  | 6 => 16
  | 7 => 8
  | 8 => 4
  | 9 => 2
  | 10 => 1
  | 11 => 32
  | 12 => 16
  | 13 => 8
  | _ => 0

/-- The floating-point format of a code. -/
def fmtFloat (c : Nat) : Option FFmt :=
  match c with
  | 0 => some fF32
  | 1 => some fH16
  | 2 => some fB16
  | 3 => some fE4M3
  | 4 => some fE5M2
  | _ => none

/-- An integer as an exact value. -/
def ofInt (i : Int) : Num := .fin (decide (i < 0)) i.natAbs 0

/-- A stored element read as its exact value, with the sticky bit of R50. -/
def valOf (c : Nat) (x : Nat) : Num × BitVec 7 :=
  match fmtFloat c with
  | some t => (decodeF t x, 0)
  | none =>
    if c = 9 then
      match x % 4 with
      | 0 => (ofInt 0, 0)
      | 1 => (ofInt 1, 0)
      | 3 => (ofInt (-1), 0)
      | _ => (ofInt 0, skT2)
    else if c = 10 then (ofInt (x % 2 : Nat), 0)
    else if 11 ≤ c then (ofInt (x % 2 ^ fmtWidth c : Nat), 0)
    else (ofInt (signedAt (fmtWidth c) x), 0)

/-- The low `w` bits of an integer in two's complement. -/
def intBits (w : Nat) (i : Int) : Nat := (i % (2 ^ w : Nat)).toNat

/-- A value greater than zero: what sets a B1 element (R56). -/
def Num.isPos : Num → Bool
  | .nan => false
  | .inf neg => !neg
  | .fin neg m _ => !neg && m != 0

/-- `RoundTo` into an element format (R54, R56): the bits of the element and the sticky bits. -/
def roundTo (c : Nat) (md : Mode) (ftz : Bool) (x : Num) : Nat × BitVec 7 :=
  match fmtFloat c with
  | some t => roundF t md ftz x
  | none =>
    if c = 10 then (if x.isPos then 1 else 0, 0)
    else if c = 9 then
      let r := roundI (-1) 1 md x
      (intBits 2 r.1, r.2)
    else if 11 ≤ c then
      let r := roundI 0 ((2 ^ fmtWidth c : Nat) - 1) md x
      (r.1.toNat, r.2)
    else
      let w := fmtWidth c
      let r := roundI (-((2 ^ (w - 1) : Nat) : Int)) ((2 ^ (w - 1) : Nat) - 1) md x
      (intBits w r.1, r.2)

/-- An element rounded from one format to another, equal or not (R60, R206). -/
def recode (src dst : Nat) (md : Mode) (ftz : Bool) (x : Nat) : Nat × BitVec 7 :=
  let v := valOf src x
  let r := roundTo dst md ftz v.1
  (r.1, v.2 ||| r.2)

/-- An element converted between formats, bits unchanged when they are equal (R51, R203, R222). -/
def convert (src dst : Nat) (md : Mode) (ftz : Bool) (x : Nat) : Nat × BitVec 7 :=
  if src = dst then (x, 0) else recode src dst md ftz x

/-- The format code of a view (R31, R47). -/
def viewFmt (e : BitVec 3) : Nat :=
  match e.toNat with
  | 0 => 0
  | 1 => 5
  | 2 => 2
  | 3 => 1
  | 4 => 6
  | 5 => 3
  | 6 => 4
  | _ => 7

/-! ### Exact arithmetic (R51, R58, R65) -/

/-- The value with its sign inverted. -/
def Num.neg : Num → Num
  | .nan => .nan
  | .inf s => .inf (!s)
  | .fin s m e => .fin (!s) m e

/-- The exact product (R51): ∞ × 0 is NaN with `nv`. -/
def Num.mul (x y : Num) : Num × BitVec 7 :=
  match x, y with
  | .nan, _ => (.nan, 0)
  | _, .nan => (.nan, 0)
  | .inf s, .inf t => (.inf (s != t), 0)
  | .inf s, .fin t m _ => if m = 0 then (.nan, skNv) else (.inf (s != t), 0)
  | .fin s m _, .inf t => if m = 0 then (.nan, skNv) else (.inf (s != t), 0)
  | .fin s m e, .fin t n f => (.fin (s != t) (m * n) (e + f), 0)

/-- The least exponent of the finite values of a list. -/
def minExp : List Num → Int → Int
  | [], a => a
  | .fin _ _ e :: xs, a => minExp xs (min a e)
  | _ :: xs, a => minExp xs a

/-- The finite values of a list added as multiples of 2^e. -/
def addAt (e : Int) : List Num → Int → Int
  | [], a => a
  | .fin s m f :: xs, a =>
    let t : Int := (m * 2 ^ (f - e).toNat : Nat)
    addAt e xs (if s then a - t else a + t)
  | _ :: xs, a => addAt e xs a

/-- A finite value. -/
def Num.isFin : Num → Bool
  | .fin .. => true
  | _ => false

/-- A value is the infinity of a sign. -/
def Num.isInf (neg : Bool) : Num → Bool
  | .inf s => s == neg
  | _ => false

/-- A value is NaN. -/
def Num.isNaN : Num → Bool
  | .nan => true
  | _ => false

/-- A value is the zero of a sign. -/
def Num.isZero (neg : Bool) : Num → Bool
  | .fin s m _ => m == 0 && s == neg
  | _ => false

/-- The exact sum of a list of values (R51, R58, R65); `rdn` says whether the rounding mode in effect is RDN. A NaN is looked
for first (log 106). -/
def sumNum (rdn : Bool) (xs : List Num) : Num × BitVec 7 :=
  if xs.any Num.isNaN then (.nan, 0)
  else if xs.any (Num.isInf false) then
    (if xs.any (Num.isInf true) then (.nan, skNv) else (.inf false, 0))
  else if xs.any (Num.isInf true) then (.inf true, 0)
  else
    let e := minExp xs 0
    let t := addAt e xs 0
    if t = 0 then
      (if !xs.isEmpty && xs.all (Num.isZero true) then .fin true 0 0
       else if xs.all (Num.isZero false) then .fin false 0 0
       else .fin rdn 0 0, 0)
    else (.fin (decide (t < 0)) t.natAbs e, 0)

/-- A finite value as a multiple of 2^e. -/
def intAt (e : Int) (s : Bool) (m : Nat) (f : Int) : Int :=
  let t : Int := (m * 2 ^ (f - e).toNat : Nat)
  if s then -t else t

/-- The strict order of R52; a NaN is unordered. -/
def Num.lt (x y : Num) : Bool :=
  match x, y with
  | .nan, _ => false
  | _, .nan => false
  | .inf s, .inf t => s && !t
  | .inf s, .fin .. => s
  | .fin .., .inf t => !t
  | .fin s m e, .fin t n f =>
    let a := min e f
    decide (intAt a s m e < intAt a t n f)

/-- Equality of values (R52): −0 and +0 are equal, NaN is unequal to everything. -/
def Num.eqv (x y : Num) : Bool := !x.isNaN && !y.isNaN && !x.lt y && !y.lt x

/-- The order of the minimum and maximum operations: −0 below +0 (R52). -/
def Num.below (x y : Num) : Bool := x.lt y || (x.eqv y && x.isZero true && y.isZero false)

/-- The larger by R52: the number when exactly one is NaN. -/
def Num.max (x y : Num) : Num :=
  if x.isNaN then y else if y.isNaN then x else if x.below y then y else x

/-- The smaller by R52. -/
def Num.min (x y : Num) : Num :=
  if x.isNaN then y else if y.isNaN then x else if y.below x then y else x

end Sys2Proof.Machine
end

