-- ==== Sys2Proof/WellFormed.lean ====
section
/-! DEFINITION. Well-formed instructions: every limit that the spec puts on the value of a defined field of an
instruction (R3, R29 to R33 and the instruction entries), with the strand kind that decodes it. Reserved fields
have no place in the syntax; the decoder refuses them. -/

namespace Sys2Proof

/-- Element width of a view code of R31. -/
def etWidth (e : BitVec 3) : Nat :=
  match e.toNat with
  | 0 => 32
  | 1 => 32
  | 2 => 16
  | 3 => 16
  | 4 => 16
  | _ => 8

/-- Lanes of a row operand in a view (R31). -/
def rowLanes (e : BitVec 3) : Nat := 2048 / etWidth e

/-- The floating-point formats among the views of R31, as VDIST takes them (R229). -/
def isFloatView (e : BitVec 3) : Bool :=
  e == 0 || e == 2 || e == 3 || e == 5 || e == 6

/-- The views F32, B16 and H16: "float" in R211. -/
def isFloat3 (e : BitVec 3) : Bool := e == 0 || e == 2 || e == 3

/-- The views I32, I16 and I8: "int" in R211. -/
def isIntView (e : BitVec 3) : Bool := e == 1 || e == 4 || e == 7

/-- "arith" in R211. -/
def isArithView (e : BitVec 3) : Bool := isFloat3 e || isIntView e

/-- Plane, direction and index of a vector operand field (R32). -/
def vPlane (f : BitVec 11) : BitVec 3 := f.extractLsb' 8 3

@[inherit_doc vPlane] def vDir (f : BitVec 11) : BitVec 2 := f.extractLsb' 6 2

@[inherit_doc vPlane] def vIdx (f : BitVec 11) : BitVec 6 := f.extractLsb' 0 6

/-- Lane count of an operand in a view, none for a broadcast, which takes any count (R32, R133). -/
def opLanes (e : BitVec 3) (f : BitVec 11) : Option Nat :=
  match (vDir f).toNat with
  | 0 => some (rowLanes e)
  | 3 => none
  | _ => some 64

/-- An operand that R32 permits by itself: a diagonal only in a 32-bit view, a broadcast only of plane 0. -/
def opOk (e : BitVec 3) (f : BitVec 11) : Bool :=
  match (vDir f).toNat with
  | 2 => etWidth e == 32
  | 3 => vPlane f == 0
  | _ => true

/-- A register selector (R212). -/
def selOk (f : BitVec 11) : Bool := vDir f == 3 && vPlane f == 0

/-- A destination operand: R32 forbids a broadcast. -/
def dstOk (e : BitVec 3) (f : BitVec 11) : Bool := opOk e f && vDir f != 3

/-- Every operand that is not a broadcast has the destination's lane count (R32). -/
def sameLanes (e : BitVec 3) (d : BitVec 11) (fs : List (BitVec 11)) : Bool :=
  fs.all fun f =>
    match opLanes e f with
    | none => true
    | some n => opLanes e d == some n

/-- No rounding mode and no FTZ (R31). -/
def noRound (w : VecWord) : Bool := w.rm == 0 && w.ftz == 0

/-- `rm` and `ftz` may be non-zero in the float views of R211 only, F32, B16 and H16 (log 13); `rm` 0b101 to 0b111 are
reserved. -/
def roundInFloat (w : VecWord) : Bool :=
  (w.rm.toNat ≤ 4) && (isFloat3 w.etype || noRound w)

/-- Three operands with a destination: element-wise form of R211. -/
def elem3 (w : VecWord) : Bool :=
  dstOk w.etype w.vd && opOk w.etype w.va && opOk w.etype w.vb && sameLanes w.etype w.vd [w.va, w.vb]

/-- Two operands with a destination and a reserved `vb`. -/
def elem2 (w : VecWord) : Bool :=
  dstOk w.etype w.vd && opOk w.etype w.va && w.vb == 0 && sameLanes w.etype w.vd [w.va]

/-- The `sat` bit of R213: integer views only, the other bits reserved. -/
def satOk (w : VecWord) : Bool :=
  w.xfn.extractLsb' 1 9 == 0 && (w.xfn == 0 || isIntView w.etype)

/-- VADD, VSUB, VMUL and VFMA (R211). -/
def okArith (w : VecWord) : Bool := isArithView w.etype && elem3 w && satOk w && roundInFloat w

/-- VABS and VNEG. -/
def okAbs (w : VecWord) : Bool := isArithView w.etype && elem2 w && satOk w && noRound w

/-- VMIN and VMAX. -/
def okMin (w : VecWord) : Bool := isArithView w.etype && elem3 w && w.xfn == 0 && noRound w

/-- VAND, VOR, VXOR and the comparisons. -/
def okBits (w : VecWord) : Bool := elem3 w && w.xfn == 0 && noRound w

/-- VNOT and VMOV. -/
def okMove (w : VecWord) : Bool := elem2 w && w.xfn == 0 && noRound w

/-- The shifts. -/
def okShift (w : VecWord) : Bool := isIntView w.etype && okBits w

/-- The mask row of VSEL as an operand field (R213, R220). -/
def selMask (w : VecWord) : BitVec 11 := w.xfn.extractLsb' 6 3 ++ (0 : BitVec 2) ++ w.xfn.extractLsb' 0 6

/-- VSEL: the mask row has the lane count of the other operands (R220). -/
def okSel (w : VecWord) : Bool :=
  elem3 w && w.xfn.extractLsb' 9 1 == 0 && noRound w && opLanes w.etype w.vd == some (rowLanes w.etype)

/-- The other view of VCVT (R213). -/
def cvtOv (w : VecWord) : BitVec 3 := w.xfn.extractLsb' 7 3

/-- Direction bit of VCVT: 1 when `va` is in `ov`. -/
def cvtTo (w : VecWord) : Bool := w.xfn.extractLsb' 6 1 == 1

/-- The part field of VCVT. -/
def cvtPart (w : VecWord) : Nat := (w.xfn.extractLsb' 4 2).toNat

/-- The operand of VCVT in `etype` and the one in `ov` (R221). -/
def cvtE (w : VecWord) : BitVec 11 := if cvtTo w then w.vd else w.va

@[inherit_doc cvtE] def cvtO (w : VecWord) : BitVec 11 := if cvtTo w then w.va else w.vd

/-- The lane count of a VCVT (R221). -/
def cvtLanes (w : VecWord) : Nat :=
  match (vDir (cvtE w)).toNat with
  | 0 => rowLanes w.etype
  | 3 => if vDir (cvtO w) == 0 then rowLanes w.etype else 64
  | _ => 64

/-- VCVT (R211, R221, R222). -/
def okCvt (w : VecWord) : Bool :=
  let ov := cvtOv w
  let dv := if cvtTo w then w.etype else ov
  w.vb == 0 && w.xfn.extractLsb' 0 4 == 0 && (w.rm.toNat ≤ 4) && (w.ftz == 0 || isFloat3 dv) &&
  vDir w.vd != 3 && (etWidth ov ≤ etWidth w.etype) && opOk w.etype (cvtE w) &&
  (match (vDir (cvtO w)).toNat with
   | 0 => cvtPart w < etWidth w.etype / etWidth ov
   | 1 => cvtPart w == 0 && cvtLanes w == 64
   | 2 => cvtPart w == 0 && etWidth ov == 32 && cvtLanes w == 64
   | _ => cvtPart w == 0 && vPlane (cvtO w) == 0)

/-- VRNDI. -/
def okRndi (w : VecWord) : Bool :=
  isFloat3 w.etype && elem2 w && w.xfn == 0 && (w.rm.toNat ≤ 4) && w.ftz == 0

/-- The lane field of a reduction (R213, R224). -/
def redLane (w : VecWord) : Nat := (w.xfn.extractLsb' 0 8).toNat

/-- A reduction: its lane lies within `vd`, and the lane counts need not agree (R224). -/
def okRed (w : VecWord) : Bool :=
  isArithView w.etype && dstOk w.etype w.vd && opOk w.etype w.va && w.vb == 0 &&
  w.xfn.extractLsb' 8 2 == 0 &&
  (match opLanes w.etype w.vd with
   | some n => redLane w < n
   | none => false)

/-- VRSUM rounds in float views. -/
def okRsum (w : VecWord) : Bool := okRed w && roundInFloat w

/-- VRMAX, VRMIN and VRARGMAX do not round. -/
def okRmax (w : VecWord) : Bool := okRed w && noRound w

/-- The special functions: `rm` is RNE (R225). -/
def okSpecial (w : VecWord) : Bool := isFloat3 w.etype && elem2 w && w.xfn == 0 && w.rm == 0

/-- VPERM. -/
def okPerm (w : VecWord) : Bool := elem3 w && w.xfn == 0 && noRound w

/-- VROT: the amount is less than the lane count (R226). -/
def okRot (w : VecWord) : Bool :=
  elem2 w && w.xfn.extractLsb' 8 2 == 0 && noRound w &&
  (match opLanes w.etype w.vd with
   | some n => (w.xfn.extractLsb' 0 8).toNat < n
   | none => false)

/-- VRNG (R228). -/
def okRng (w : VecWord) : Bool :=
  w.etype == 1 && (vDir w.vd == 0 || vDir w.vd == 1) && ((vIdx w.vd).toNat ≤ 60) && selOk w.va && selOk w.vb && noRound w

/-- The operand format of VDIST. -/
def distOf (w : VecWord) : BitVec 3 := w.xfn.extractLsb' 7 3

/-- The candidate count of VDIST. -/
def distN (w : VecWord) : Nat := (w.xfn.extractLsb' 0 6).toNat + 1

/-- What every VDIST requires (R229). -/
def okDist (w : VecWord) : Bool :=
  dstOk w.etype w.vd && vDir w.va == 0 && vDir w.vb == 0 && w.xfn.extractLsb' 6 1 == 0 &&
  ((vIdx w.vb).toNat + distN w ≤ 64)

/-- VDIST.IP and VDIST.L2: the combinations of R229. -/
def okDistIp (w : VecWord) : Bool :=
  okDist w && roundInFloat w &&
  ((w.etype == 0 && isFloatView (distOf w)) || (w.etype == 1 && (distOf w == 7 || distOf w == 4)))

/-- VDIST.HAM. -/
def okDistHam (w : VecWord) : Bool := okDist w && noRound w && w.etype == 1 && distOf w == 7

/-- VLMASK. -/
def okLmask (w : VecWord) : Bool :=
  dstOk w.etype w.vd && selOk w.va && selOk w.vb && w.xfn == 0 && noRound w

/-- VIOTA. -/
def okIota (w : VecWord) : Bool :=
  dstOk w.etype w.vd && selOk w.va && w.vb == 0 && w.xfn == 0 && roundInFloat w

/-- VMOVS. -/
def okMovs (w : VecWord) : Bool :=
  w.vd == 0 && opOk w.etype w.va && selOk w.vb && w.xfn.extractLsb' 7 3 == 0 && noRound w

/-- VINS. -/
def okIns (w : VecWord) : Bool :=
  dstOk w.etype w.vd && selOk w.va && selOk w.vb && w.xfn == 0 && noRound w

/-- The format C rules of R33. -/
def okCube (c : CubeWord) : Bool :=
  c.msel != 3 && c.gor != 3 && c.amode != 3 && c.pa != 0 && c.pb != 0 && ((c.pg == 0) == (c.gor == 0))

/-- The extension word of R299. -/
def okEngine (e : EngineWord) : Bool := e.fe == 1 || (e.fl == 0 && e.scope == 0)

/-- A consumer mask of a queued load: not empty and without A (R156). -/
def okLoadMask (m : BitVec 4) : Bool := m != 0 && m.getLsbD 0 == false

/-- An even register field, naming a pair (R152). -/
def okPair (r : BitVec 6) : Bool := r.getLsbD 0 == false

/-- No ordering without a scope of zero (R97, R158). -/
def okOrd (ord : BitVec 2) (scope : BitVec 3) : Bool := ord != 0 || scope == 0

/-- The fields that ALD and AST share (R201). -/
def okTransfer (rp : BitVec 6) (rm : BitVec 3) (ve : BitVec 1) (minv : BitVec 8) : Bool :=
  okPair rp && (rm.toNat ≤ 4) && (ve == 1 || minv == 0)

/-- A number that lies from `lo` to `hi`. -/
def within (lo hi n : Nat) : Bool := decide (lo ≤ n) && decide (n ≤ hi)

/-- The read-write registers of a strand (R13). -/
def csrOwn (n : Nat) : Bool :=
  n == 0x001 || n == 0x002 || within 0x010 0x013 n || (within 0x020 0x02F n && n % 4 != 3)

/-- The registers outside a strand that the C strand writes (R18, R142, R244, R281). -/
def csrShared (n : Nat) : Bool := within 0x100 0x11F n || n == 0x140 || n == 0x163 || within 0x410 0x417 n

/-- The read-only registers (R13, R114, R118, R119, R148, R185, R244, R247, R295, R296, R319, R331, R342, R368,
R386, R401). -/
def csrReadOnly (n : Nat) : Bool :=
  n == 0x000 || (within 0x120 0x12F n && n != 0x120 && n != 0x125 && n != 0x12A && n != 0x12F) ||
  within 0x130 0x131 n || n == 0x141 || within 0x150 0x151 n || within 0x160 0x162 n || within 0x170 0x17F n ||
  within 0x180 0x1BF n || within 0x400 0x40B n || n == 0x600 || within 0x620 0x622 n || within 0x630 0x634 n ||
  within 0xC00 0xC04 n || within 0xC10 0xC14 n

/-- An assigned number, which every strand may read (R12). -/
def csrKnown (n : Nat) : Bool := csrOwn n || csrShared n || csrReadOnly n

/-- A number that a strand of kind `k` may write (R12). -/
def csrWritable (k : Kind) (n : Nat) : Bool := csrOwn n || (csrShared n && k == .c)

/-- Every value rule on the fields of one instruction, as the strand of kind `k` decodes it. -/
def Instr.wf (k : Kind) : Instr → Bool
  | .fence _ p _ => p != 0
  | .fencex _ f t _ => f != 0 && t != 0
  | .loop _ _ b => 2 ≤ b.toNat
  | .loopi _ _ b => 2 ≤ b.toNat
  | .loopp _ _ _ b => 2 ≤ b.toNat
  | .looppi _ _ _ b => 2 ≤ b.toNat
  | .sext _ _ _ w => w.toNat ≤ 2
  | .zext _ _ _ w => w.toNat ≤ 2
  | .qmovPush _ m _ _ => m != 0 && m.getLsbD k.code == false
  | .qmovPop _ _ p _ => p.toNat != k.code
  | .qpeek _ _ p _ => p.toNat != k.code
  | .finc _ _ s o => okOrd o s
  | .fset _ _ _ s o => okOrd o s
  | .fadd _ _ _ s o => okOrd o s
  | .frd _ _ _ s o => okOrd o s && (o.toNat ≤ 1)
  | .ldq8 _ m _ _ _ _ => okLoadMask m
  | .ldq16 _ m _ _ _ _ => okLoadMask m
  | .ldq32 _ m _ _ _ _ => okLoadMask m
  | .ldq64 _ m _ _ zx _ => okLoadMask m && zx == 0
  | .rldq8 _ m _ _ _ _ q s => okLoadMask m && (q == 1 || s == 0)
  | .rldq16 _ m _ _ _ _ q s => okLoadMask m && (q == 1 || s == 0)
  | .rldq32 _ m _ _ _ _ q s => okLoadMask m && (q == 1 || s == 0)
  | .rldq64 _ m _ _ zx _ q s => okLoadMask m && zx == 0 && (q == 1 || s == 0)
  | .amoAdd _ _ _ _ _ s o => okOrd o s
  | .amoSwp _ _ _ _ _ s o => okOrd o s
  | .amoCas _ _ _ _ _ s o _ => okOrd o s
  | .amoAnd _ _ _ _ _ s o => okOrd o s
  | .amoOr _ _ _ _ _ s o => okOrd o s
  | .amoXor _ _ _ _ _ s o => okOrd o s
  | .amoMin _ _ _ _ _ s o _ => okOrd o s
  | .amoMax _ _ _ _ _ s o _ => okOrd o s
  | .pin _ _ p _ _ l => okPair p && l != 0
  | .unpin _ p _ _ l => okPair p && l != 0
  | .lastuse _ p _ _ l => okPair p && l != 0
  | .stream _ p _ _ l => okPair p && l != 0
  | .pfit _ _ _ _ _ l => l != 0
  | .copy _ _ _ _ _ fe fl _ _ => fe == 1 || fl == 0
  | .copyt _ _ _ _ _ fe fl _ _ _ => fe == 1 || fl == 0
  | .vrel _ _ p _ _ => okPair p
  | .selTopk _ e => okEngine e
  | .selSeg _ e => okEngine e
  | .unmSetup _ e => okEngine e
  | .unmReg _ e => okEngine e
  | .unmRound _ e => okEngine e
  | .unmFree _ e => okEngine e
  | .rteSetup _ e => okEngine e
  | .rteCount _ e => okEngine e
  | .rtePlace _ e => okEngine e
  | .rteScatter _ e => okEngine e
  | .rteGather _ e => okEngine e
  | .collAr _ e => okEngine e
  | .collAg _ e => okEngine e
  | .collRs _ e => okEngine e
  | .collBc _ e => okEngine e
  | .collA2a _ e => okEngine e
  | .cube _ c => okCube c
  | .mma _ c => okCube c
  | .ald _ _ p _ rm _ _ ve mv => okTransfer p rm ve mv
  | .ast _ _ p _ rm _ _ ve mv => okTransfer p rm ve mv
  | .acvt _ _ _ _ _ rm _ => rm.toNat ≤ 4
  | .vadd _ w => okArith w
  | .vsub _ w => okArith w
  | .vmul _ w => okArith w
  | .vfma _ w => okArith w
  | .vmin _ w => okMin w
  | .vmax _ w => okMin w
  | .vabs _ w => okAbs w
  | .vneg _ w => okAbs w
  | .vand _ w => okBits w
  | .vor _ w => okBits w
  | .vxor _ w => okBits w
  | .vnot _ w => okMove w
  | .vshl _ w => okShift w
  | .vshr _ w => okShift w
  | .vsar _ w => okShift w
  | .vcmpeq _ w => okBits w
  | .vcmplt _ w => okBits w
  | .vcmple _ w => okBits w
  | .vsel _ w => okSel w
  | .vcvt _ w => okCvt w
  | .vrndi _ w => okRndi w
  | .vrsum _ w => okRsum w
  | .vrmax _ w => okRmax w
  | .vrmin _ w => okRmax w
  | .vrargmax _ w => okRmax w
  | .vexp2 _ w => okSpecial w
  | .vlog2 _ w => okSpecial w
  | .vrcp _ w => okSpecial w
  | .vrsq _ w => okSpecial w
  | .vtanh _ w => okSpecial w
  | .vmov _ w => okMove w
  | .vperm _ w => okPerm w
  | .vrot _ w => okRot w
  | .vrng _ w => okRng w
  | .vdistIp _ w => okDistIp w
  | .vdistL2 _ w => okDistIp w
  | .vdistHam _ w => okDistHam w
  | .vlmask _ w => okLmask w
  | .viota _ w => okIota w
  | .vmovs _ w => okMovs w
  | .vins _ w => okIns w
  | .nop .. => true
  | .halt .. => true
  | .brk .. => true
  | .trap .. => true
  | .eret .. => true
  | .icsync .. => true
  | .br .. => true
  | .call .. => true
  | .jr .. => true
  | .callr .. => true
  | .ret .. => true
  | .add .. => true
  | .sub .. => true
  | .mul .. => true
  | .mulh .. => true
  | .and .. => true
  | .or .. => true
  | .xor .. => true
  | .andn .. => true
  | .shl .. => true
  | .shr .. => true
  | .sar .. => true
  | .ror .. => true
  | .addi .. => true
  | .andi .. => true
  | .ori .. => true
  | .xori .. => true
  | .li .. => true
  | .lih .. => true
  | .shli .. => true
  | .shri .. => true
  | .sari .. => true
  | .rori .. => true
  | .min .. => true
  | .max .. => true
  | .minu .. => true
  | .maxu .. => true
  | .div .. => true
  | .divu .. => true
  | .rem .. => true
  | .remu .. => true
  | .lea1 .. => true
  | .lea2 .. => true
  | .lea4 .. => true
  | .lea8 .. => true
  | .cmpeq .. => true
  | .cmpne .. => true
  | .cmplt .. => true
  | .cmpltu .. => true
  | .cmpge .. => true
  | .cmpgeu .. => true
  | .tst .. => true
  | .cmpeqi .. => true
  | .cmplti .. => true
  | .cmpltui .. => true
  | .cmpgei .. => true
  | .pand .. => true
  | .por .. => true
  | .pxor .. => true
  | .pandn .. => true
  | .pnot .. => true
  | .pset .. => true
  | .pclr .. => true
  | .pmov .. => true
  | .csrr _ _ n => csrKnown n.toNat
  | .csrw _ n _ => csrWritable k n.toNat
  | .csrs _ n _ => csrWritable k n.toNat
  | .csrc _ n _ => csrWritable k n.toNat
  | .clz .. => true
  | .popc .. => true
  | .ld8 .. => true
  | .ld16 .. => true
  | .ld32 .. => true
  | .ld64 .. => true
  | .ldz8 .. => true
  | .ldz16 .. => true
  | .ldz32 .. => true
  | .st8 .. => true
  | .st16 .. => true
  | .st32 .. => true
  | .st64 .. => true
  | .laydef .. => true
  | .layinv .. => true
  | .pfitcan .. => true
  | .promote .. => true
  | .kvapp .. => true
  | .fpush .. => true
  | .fqclose .. => true
  | .renq .. => true
  | .gbar .. => true
  | .gleave .. => true
  | .gjoin .. => true
  | .gcast .. => true
  | .prack .. => true
  | .hostirq .. => true
  | .aclr .. => true
  | .acopy .. => true
  | .atrn .. => true
  | .joinMember .. => true
  | .joinBroken .. => true
  | .joinTimeout .. => true
  | .tokenError .. => true
  | .loadReturn .. => true
  | .atomicResponse .. => true
  | .tileFillArrival .. => true
  | .cubePerform .. => true
  | .aldComplete .. => true
  | .vectorComplete .. => true
  | .tileMissTimeout .. => true
  | .alcoveWriteback .. => true
  | .hallFill .. => true
  | .hallForward .. => true
  | .homeRequest .. => true
  | .homePublication .. => true
  | .homeWriteback .. => true
  | .homeRaise .. => true
  | .requestResend .. => true
  | .slotSwap .. => true
  | .pageWalkComplete .. => true
  | .copytRelease .. => true
  | .copyStart .. => true
  | .copyComplete .. => true
  | .markerRemove .. => true
  | .selectionPerform .. => true
  | .landingPerform .. => true
  | .concoursePerform .. => true
  | .countContribution .. => true
  | .routeTimeout .. => true
  | .collectivePerform .. => true
  | .collContribution .. => true
  | .collectiveTimeout .. => true
  | .engineComplete .. => true
  | .groupArrival .. => true
  | .moduleArrival .. => true
  | .remoteFlagUpdate .. => true
  | .pageMigrationCopy .. => true
  | .pageMigrationSwitch .. => true
  | .pageReturn .. => true
  | .schedulerWalk .. => true
  | .launchTake .. => true
  | .hostLaunchTake .. => true
  | .residencyTimeout .. => true
  | .taskStart .. => true
  | .taskRetire .. => true
  | .launchRetire .. => true
  | .preemptGraceExpiry .. => true
  | .cut .. => true
  | .saveComplete .. => true
  | .taskResume .. => true
  | .faultRecord .. => true
  | .contextFaultStop .. => true
  | .ctxCreate .. => true
  | .ctxDestroy .. => true
  | .lqtailWrite .. => true
  | .nqreadWrite .. => true
  | .tqreadWrite .. => true
  | .ctlStop .. => true
  | .ctlResume .. => true
  | .ctlKill .. => true
  | .ctlInvalidate .. => true
  | .debugWindowAccess .. => true
  | .hostRegisterWrite .. => true
  | .traceSample .. => true
  | .clockStep .. => true
  | .unitFailure .. => true
  | .thermalTrip .. => true
  | .moduleReset .. => true
  | .blackboxRearm => true
  | .firmwareUpdate .. => true
  | .attestationReport .. => true
  | .domainConfig .. => true
  | .hbmRetrain .. => true
  | .retrainRequest .. => true
  | .flitReceive .. => true
  | .laneFecWindow .. => true
  | .laneLockLoss .. => true
  | .linkRetrainDone .. => true
  | .fabricTimeout .. => true
  | .instructionFetch .. => true
  | .writeAcknowledgement .. => true
  | .regionInstructionComplete .. => true
  | .stackRetrainingDone .. => true

end Sys2Proof
end

