-- ==== Sys2Proof/Decode.lean ====
section
/-! DEFINITION. The decoder of instruction words, bundles and bytes (R25 to R40) and, after it, the encoder,
both written from the layouts of the instruction chapters. The decoder is total: it answers an instruction, or
nothing where the word is no instruction of the strand's map or has a reserved field that is not zero. The value
rules are `Instr.wf`; a whole bundle is judged by `decodeBundle` in the order of R39. -/

namespace Sys2Proof

/-- Bits 31:26 of an instruction word (R29, R31, R33). -/
def fOp (w : Word32) : BitVec 6 := w.extractLsb' 26 6

/-- Bits 25:20, the guard predicate. -/
def fGuard (w : Word32) : BitVec 6 := w.extractLsb' 20 6

/-- Bits 1:0, the function. -/
def fFn (w : Word32) : BitVec 2 := w.extractLsb' 0 2

/-- The shared map of R34: the instruction of a word pair, or none. The second word counts only in a two-word format. -/
def decodeShared (w0 w1 : Word32) : Option Instr :=
  match (fOp w0).toNat with
  | 0 =>
    match (fFn w0).toNat with
    | 0 =>
      if w0.extractLsb' 2 18 == 0 then
        some (.nop (fGuard w0))
      else none
    | 1 =>
      if w0.extractLsb' 2 18 == 0 then
        some (.halt (fGuard w0))
      else none
    | 2 =>
      if w0.extractLsb' 14 6 == 0 then
        some (.brk (fGuard w0) ((w0.extractLsb' 8 6) ++ (w0.extractLsb' 2 6)))
      else none
    | _ => none
  | 1 =>
    match (fFn w0).toNat with
    | 0 =>
      if w0.extractLsb' 14 6 == 0 then
        some (.trap (fGuard w0) ((w0.extractLsb' 8 6) ++ (w0.extractLsb' 2 6)))
      else none
    | 1 =>
      if w0.extractLsb' 2 18 == 0 then
        some (.eret (fGuard w0))
      else none
    | 2 =>
      if w0.extractLsb' 8 12 == 0 && w0.extractLsb' 5 3 == 0 then
        some (.icsync (fGuard w0) (w0.extractLsb' 2 3))
      else none
    | _ =>
      if w0.extractLsb' 14 6 == 0 && w0.extractLsb' 13 1 == 0 && w0.extractLsb' 5 3 == 0 then
        some (.fence (fGuard w0) (w0.extractLsb' 8 5) (w0.extractLsb' 2 3))
      else none
  | 2 =>
    match (fFn w0).toNat with
    | 0 =>
      if w0.extractLsb' 2 18 == 0 then
        some (.br (fGuard w0) (w1.extractLsb' 0 32))
      else none
    | 1 =>
      if w0.extractLsb' 2 12 == 0 then
        some (.call (fGuard w0) (w0.extractLsb' 14 6) (w1.extractLsb' 0 32))
      else none
    | _ => none
  | 3 =>
    match (fFn w0).toNat with
    | 0 =>
      if w0.extractLsb' 14 6 == 0 && w0.extractLsb' 2 6 == 0 then
        some (.jr (fGuard w0) (w0.extractLsb' 8 6))
      else none
    | 1 =>
      if w0.extractLsb' 2 6 == 0 then
        some (.callr (fGuard w0) (w0.extractLsb' 14 6) (w0.extractLsb' 8 6))
      else none
    | 2 =>
      if w0.extractLsb' 14 6 == 0 && w0.extractLsb' 2 6 == 0 then
        some (.ret (fGuard w0) (w0.extractLsb' 8 6))
      else none
    | _ => none
  | 4 =>
    match (fFn w0).toNat with
    | 0 =>
      if w0.extractLsb' 14 6 == 0 && w0.extractLsb' 2 6 == 0 && w1.extractLsb' 24 8 == 0 then
        some (.loop (fGuard w0) (w0.extractLsb' 8 6) (w1.extractLsb' 0 24))
      else none
    | 1 =>
      if w0.extractLsb' 14 6 == 0 && w1.extractLsb' 24 8 == 0 then
        some (.loopi (fGuard w0) ((w0.extractLsb' 8 6) ++ (w0.extractLsb' 2 6)) (w1.extractLsb' 0 24))
      else none
    | 2 =>
      if w0.extractLsb' 14 6 == 0 && w0.extractLsb' 2 6 == 0 && w1.extractLsb' 24 4 == 0 then
        some (.loopp (fGuard w0) (w0.extractLsb' 8 6) (w1.extractLsb' 28 4) (w1.extractLsb' 0 24))
      else none
    | _ =>
      if w0.extractLsb' 14 6 == 0 && w1.extractLsb' 24 4 == 0 then
        some (.looppi (fGuard w0) ((w0.extractLsb' 8 6) ++ (w0.extractLsb' 2 6)) (w1.extractLsb' 28 4) (w1.extractLsb' 0 24))
      else none
  | 5 =>
    match (fFn w0).toNat with
    | 0 => some (.add (fGuard w0) (w0.extractLsb' 14 6) (w0.extractLsb' 8 6) (w0.extractLsb' 2 6))
    | 1 => some (.sub (fGuard w0) (w0.extractLsb' 14 6) (w0.extractLsb' 8 6) (w0.extractLsb' 2 6))
    | 2 => some (.mul (fGuard w0) (w0.extractLsb' 14 6) (w0.extractLsb' 8 6) (w0.extractLsb' 2 6))
    | _ => some (.mulh (fGuard w0) (w0.extractLsb' 14 6) (w0.extractLsb' 8 6) (w0.extractLsb' 2 6))
  | 6 =>
    match (fFn w0).toNat with
    | 0 => some (.and (fGuard w0) (w0.extractLsb' 14 6) (w0.extractLsb' 8 6) (w0.extractLsb' 2 6))
    | 1 => some (.or (fGuard w0) (w0.extractLsb' 14 6) (w0.extractLsb' 8 6) (w0.extractLsb' 2 6))
    | 2 => some (.xor (fGuard w0) (w0.extractLsb' 14 6) (w0.extractLsb' 8 6) (w0.extractLsb' 2 6))
    | _ => some (.andn (fGuard w0) (w0.extractLsb' 14 6) (w0.extractLsb' 8 6) (w0.extractLsb' 2 6))
  | 7 =>
    match (fFn w0).toNat with
    | 0 => some (.shl (fGuard w0) (w0.extractLsb' 14 6) (w0.extractLsb' 8 6) (w0.extractLsb' 2 6))
    | 1 => some (.shr (fGuard w0) (w0.extractLsb' 14 6) (w0.extractLsb' 8 6) (w0.extractLsb' 2 6))
    | 2 => some (.sar (fGuard w0) (w0.extractLsb' 14 6) (w0.extractLsb' 8 6) (w0.extractLsb' 2 6))
    | _ => some (.ror (fGuard w0) (w0.extractLsb' 14 6) (w0.extractLsb' 8 6) (w0.extractLsb' 2 6))
  | 8 =>
    match (fFn w0).toNat with
    | 0 =>
      if w0.extractLsb' 2 6 == 0 then
        some (.addi (fGuard w0) (w0.extractLsb' 14 6) (w0.extractLsb' 8 6) (w1.extractLsb' 0 32))
      else none
    | 1 =>
      if w0.extractLsb' 2 6 == 0 then
        some (.andi (fGuard w0) (w0.extractLsb' 14 6) (w0.extractLsb' 8 6) (w1.extractLsb' 0 32))
      else none
    | 2 =>
      if w0.extractLsb' 2 6 == 0 then
        some (.ori (fGuard w0) (w0.extractLsb' 14 6) (w0.extractLsb' 8 6) (w1.extractLsb' 0 32))
      else none
    | _ =>
      if w0.extractLsb' 2 6 == 0 then
        some (.xori (fGuard w0) (w0.extractLsb' 14 6) (w0.extractLsb' 8 6) (w1.extractLsb' 0 32))
      else none
  | 9 =>
    match (fFn w0).toNat with
    | 0 =>
      if w0.extractLsb' 2 12 == 0 then
        some (.li (fGuard w0) (w0.extractLsb' 14 6) (w1.extractLsb' 0 32))
      else none
    | 1 =>
      if w0.extractLsb' 2 12 == 0 then
        some (.lih (fGuard w0) (w0.extractLsb' 14 6) (w1.extractLsb' 0 32))
      else none
    | _ => none
  | 10 =>
    match (fFn w0).toNat with
    | 0 => some (.shli (fGuard w0) (w0.extractLsb' 14 6) (w0.extractLsb' 8 6) (w0.extractLsb' 2 6))
    | 1 => some (.shri (fGuard w0) (w0.extractLsb' 14 6) (w0.extractLsb' 8 6) (w0.extractLsb' 2 6))
    | 2 => some (.sari (fGuard w0) (w0.extractLsb' 14 6) (w0.extractLsb' 8 6) (w0.extractLsb' 2 6))
    | _ => some (.rori (fGuard w0) (w0.extractLsb' 14 6) (w0.extractLsb' 8 6) (w0.extractLsb' 2 6))
  | 11 =>
    match (fFn w0).toNat with
    | 0 => some (.min (fGuard w0) (w0.extractLsb' 14 6) (w0.extractLsb' 8 6) (w0.extractLsb' 2 6))
    | 1 => some (.max (fGuard w0) (w0.extractLsb' 14 6) (w0.extractLsb' 8 6) (w0.extractLsb' 2 6))
    | 2 => some (.minu (fGuard w0) (w0.extractLsb' 14 6) (w0.extractLsb' 8 6) (w0.extractLsb' 2 6))
    | _ => some (.maxu (fGuard w0) (w0.extractLsb' 14 6) (w0.extractLsb' 8 6) (w0.extractLsb' 2 6))
  | 12 =>
    match (fFn w0).toNat with
    | 0 => some (.div (fGuard w0) (w0.extractLsb' 14 6) (w0.extractLsb' 8 6) (w0.extractLsb' 2 6))
    | 1 => some (.divu (fGuard w0) (w0.extractLsb' 14 6) (w0.extractLsb' 8 6) (w0.extractLsb' 2 6))
    | 2 => some (.rem (fGuard w0) (w0.extractLsb' 14 6) (w0.extractLsb' 8 6) (w0.extractLsb' 2 6))
    | _ => some (.remu (fGuard w0) (w0.extractLsb' 14 6) (w0.extractLsb' 8 6) (w0.extractLsb' 2 6))
  | 13 =>
    match (fFn w0).toNat with
    | 0 => some (.lea1 (fGuard w0) (w0.extractLsb' 14 6) (w0.extractLsb' 8 6) (w0.extractLsb' 2 6))
    | 1 => some (.lea2 (fGuard w0) (w0.extractLsb' 14 6) (w0.extractLsb' 8 6) (w0.extractLsb' 2 6))
    | 2 => some (.lea4 (fGuard w0) (w0.extractLsb' 14 6) (w0.extractLsb' 8 6) (w0.extractLsb' 2 6))
    | _ => some (.lea8 (fGuard w0) (w0.extractLsb' 14 6) (w0.extractLsb' 8 6) (w0.extractLsb' 2 6))
  | 14 =>
    match (fFn w0).toNat with
    | 0 => some (.cmpeq (fGuard w0) (w0.extractLsb' 14 6) (w0.extractLsb' 8 6) (w0.extractLsb' 2 6))
    | 1 => some (.cmpne (fGuard w0) (w0.extractLsb' 14 6) (w0.extractLsb' 8 6) (w0.extractLsb' 2 6))
    | 2 => some (.cmplt (fGuard w0) (w0.extractLsb' 14 6) (w0.extractLsb' 8 6) (w0.extractLsb' 2 6))
    | _ => some (.cmpltu (fGuard w0) (w0.extractLsb' 14 6) (w0.extractLsb' 8 6) (w0.extractLsb' 2 6))
  | 15 =>
    match (fFn w0).toNat with
    | 0 => some (.cmpge (fGuard w0) (w0.extractLsb' 14 6) (w0.extractLsb' 8 6) (w0.extractLsb' 2 6))
    | 1 => some (.cmpgeu (fGuard w0) (w0.extractLsb' 14 6) (w0.extractLsb' 8 6) (w0.extractLsb' 2 6))
    | 2 => some (.tst (fGuard w0) (w0.extractLsb' 14 6) (w0.extractLsb' 8 6) (w0.extractLsb' 2 6))
    | _ => none
  | 16 =>
    match (fFn w0).toNat with
    | 0 =>
      if w0.extractLsb' 2 6 == 0 then
        some (.cmpeqi (fGuard w0) (w0.extractLsb' 14 6) (w0.extractLsb' 8 6) (w1.extractLsb' 0 32))
      else none
    | 1 =>
      if w0.extractLsb' 2 6 == 0 then
        some (.cmplti (fGuard w0) (w0.extractLsb' 14 6) (w0.extractLsb' 8 6) (w1.extractLsb' 0 32))
      else none
    | 2 =>
      if w0.extractLsb' 2 6 == 0 then
        some (.cmpltui (fGuard w0) (w0.extractLsb' 14 6) (w0.extractLsb' 8 6) (w1.extractLsb' 0 32))
      else none
    | _ =>
      if w0.extractLsb' 2 6 == 0 then
        some (.cmpgei (fGuard w0) (w0.extractLsb' 14 6) (w0.extractLsb' 8 6) (w1.extractLsb' 0 32))
      else none
  | 17 =>
    match (fFn w0).toNat with
    | 0 => some (.pand (fGuard w0) (w0.extractLsb' 14 6) (w0.extractLsb' 8 6) (w0.extractLsb' 2 6))
    | 1 => some (.por (fGuard w0) (w0.extractLsb' 14 6) (w0.extractLsb' 8 6) (w0.extractLsb' 2 6))
    | 2 => some (.pxor (fGuard w0) (w0.extractLsb' 14 6) (w0.extractLsb' 8 6) (w0.extractLsb' 2 6))
    | _ => some (.pandn (fGuard w0) (w0.extractLsb' 14 6) (w0.extractLsb' 8 6) (w0.extractLsb' 2 6))
  | 18 =>
    match (fFn w0).toNat with
    | 0 =>
      if w0.extractLsb' 2 6 == 0 then
        some (.pnot (fGuard w0) (w0.extractLsb' 14 6) (w0.extractLsb' 8 6))
      else none
    | 1 =>
      if w0.extractLsb' 2 12 == 0 then
        some (.pset (fGuard w0) (w0.extractLsb' 14 6))
      else none
    | 2 =>
      if w0.extractLsb' 2 12 == 0 then
        some (.pclr (fGuard w0) (w0.extractLsb' 14 6))
      else none
    | _ =>
      if w0.extractLsb' 2 6 == 0 then
        some (.pmov (fGuard w0) (w0.extractLsb' 14 6) (w0.extractLsb' 8 6))
      else none
  | 19 =>
    match (fFn w0).toNat with
    | 0 =>
      if w0.extractLsb' 2 6 == 0 then
        some (.qmovPush (fGuard w0) (w0.extractLsb' 16 4) (w0.extractLsb' 14 2) (w0.extractLsb' 8 6))
      else none
    | 1 =>
      if w0.extractLsb' 12 2 == 0 && w0.extractLsb' 2 6 == 0 then
        some (.qmovPop (fGuard w0) (w0.extractLsb' 14 6) (w0.extractLsb' 10 2) (w0.extractLsb' 8 2))
      else none
    | 2 =>
      if w0.extractLsb' 12 2 == 0 && w0.extractLsb' 2 6 == 0 then
        some (.qpeek (fGuard w0) (w0.extractLsb' 14 6) (w0.extractLsb' 10 2) (w0.extractLsb' 8 2))
      else none
    | _ => none
  | 20 =>
    match (fFn w0).toNat with
    | 0 =>
      if w0.extractLsb' 8 6 == 0 && w0.extractLsb' 2 1 == 0 then
        some (.finc (fGuard w0) (w0.extractLsb' 14 6) (w0.extractLsb' 5 3) (w0.extractLsb' 3 2))
      else none
    | 1 =>
      if w0.extractLsb' 2 1 == 0 then
        some (.fset (fGuard w0) (w0.extractLsb' 14 6) (w0.extractLsb' 8 6) (w0.extractLsb' 5 3) (w0.extractLsb' 3 2))
      else none
    | 2 =>
      if w0.extractLsb' 2 1 == 0 then
        some (.fadd (fGuard w0) (w0.extractLsb' 14 6) (w0.extractLsb' 8 6) (w0.extractLsb' 5 3) (w0.extractLsb' 3 2))
      else none
    | _ =>
      if w0.extractLsb' 2 1 == 0 then
        some (.frd (fGuard w0) (w0.extractLsb' 14 6) (w0.extractLsb' 8 6) (w0.extractLsb' 5 3) (w0.extractLsb' 3 2))
      else none
  | 21 =>
    match (fFn w0).toNat with
    | 0 => some (.csrr (fGuard w0) (w0.extractLsb' 14 6) ((w0.extractLsb' 8 6) ++ (w0.extractLsb' 2 6)))
    | 1 => some (.csrw (fGuard w0) ((w0.extractLsb' 8 6) ++ (w0.extractLsb' 2 6)) (w0.extractLsb' 14 6))
    | 2 => some (.csrs (fGuard w0) ((w0.extractLsb' 8 6) ++ (w0.extractLsb' 2 6)) (w0.extractLsb' 14 6))
    | _ => some (.csrc (fGuard w0) ((w0.extractLsb' 8 6) ++ (w0.extractLsb' 2 6)) (w0.extractLsb' 14 6))
  | 22 =>
    match (fFn w0).toNat with
    | 0 => some (.sext (fGuard w0) (w0.extractLsb' 14 6) (w0.extractLsb' 8 6) (w0.extractLsb' 2 6))
    | 1 => some (.zext (fGuard w0) (w0.extractLsb' 14 6) (w0.extractLsb' 8 6) (w0.extractLsb' 2 6))
    | 2 =>
      if w0.extractLsb' 2 6 == 0 then
        some (.clz (fGuard w0) (w0.extractLsb' 14 6) (w0.extractLsb' 8 6))
      else none
    | _ =>
      if w0.extractLsb' 2 6 == 0 then
        some (.popc (fGuard w0) (w0.extractLsb' 14 6) (w0.extractLsb' 8 6))
      else none
  | _ => none

/-- The access map of R35: the instruction of a word pair, or none. The second word counts only in a two-word format. -/
def decodeA (w0 w1 : Word32) : Option Instr :=
  match (fOp w0).toNat with
  | 32 =>
    match (fFn w0).toNat with
    | 0 =>
      if w0.extractLsb' 2 6 == 0 then
        some (.ld8 (fGuard w0) (w0.extractLsb' 14 6) (w0.extractLsb' 8 6) (w1.extractLsb' 0 32))
      else none
    | 1 =>
      if w0.extractLsb' 2 6 == 0 then
        some (.ld16 (fGuard w0) (w0.extractLsb' 14 6) (w0.extractLsb' 8 6) (w1.extractLsb' 0 32))
      else none
    | 2 =>
      if w0.extractLsb' 2 6 == 0 then
        some (.ld32 (fGuard w0) (w0.extractLsb' 14 6) (w0.extractLsb' 8 6) (w1.extractLsb' 0 32))
      else none
    | _ =>
      if w0.extractLsb' 2 6 == 0 then
        some (.ld64 (fGuard w0) (w0.extractLsb' 14 6) (w0.extractLsb' 8 6) (w1.extractLsb' 0 32))
      else none
  | 33 =>
    match (fFn w0).toNat with
    | 0 =>
      if w0.extractLsb' 2 6 == 0 then
        some (.ldz8 (fGuard w0) (w0.extractLsb' 14 6) (w0.extractLsb' 8 6) (w1.extractLsb' 0 32))
      else none
    | 1 =>
      if w0.extractLsb' 2 6 == 0 then
        some (.ldz16 (fGuard w0) (w0.extractLsb' 14 6) (w0.extractLsb' 8 6) (w1.extractLsb' 0 32))
      else none
    | 2 =>
      if w0.extractLsb' 2 6 == 0 then
        some (.ldz32 (fGuard w0) (w0.extractLsb' 14 6) (w0.extractLsb' 8 6) (w1.extractLsb' 0 32))
      else none
    | _ => none
  | 34 =>
    match (fFn w0).toNat with
    | 0 =>
      if w0.extractLsb' 14 6 == 0 then
        some (.st8 (fGuard w0) (w0.extractLsb' 8 6) (w0.extractLsb' 2 6) (w1.extractLsb' 0 32))
      else none
    | 1 =>
      if w0.extractLsb' 14 6 == 0 then
        some (.st16 (fGuard w0) (w0.extractLsb' 8 6) (w0.extractLsb' 2 6) (w1.extractLsb' 0 32))
      else none
    | 2 =>
      if w0.extractLsb' 14 6 == 0 then
        some (.st32 (fGuard w0) (w0.extractLsb' 8 6) (w0.extractLsb' 2 6) (w1.extractLsb' 0 32))
      else none
    | _ =>
      if w0.extractLsb' 14 6 == 0 then
        some (.st64 (fGuard w0) (w0.extractLsb' 8 6) (w0.extractLsb' 2 6) (w1.extractLsb' 0 32))
      else none
  | 35 =>
    match (fFn w0).toNat with
    | 0 =>
      if w0.extractLsb' 2 6 == 0 && w1.extractLsb' 25 7 == 0 then
        some (.ldq8 (fGuard w0) (w0.extractLsb' 16 4) (w0.extractLsb' 14 2) (w0.extractLsb' 8 6) (w1.extractLsb' 24 1) (w1.extractLsb' 0 24))
      else none
    | 1 =>
      if w0.extractLsb' 2 6 == 0 && w1.extractLsb' 25 7 == 0 then
        some (.ldq16 (fGuard w0) (w0.extractLsb' 16 4) (w0.extractLsb' 14 2) (w0.extractLsb' 8 6) (w1.extractLsb' 24 1) (w1.extractLsb' 0 24))
      else none
    | 2 =>
      if w0.extractLsb' 2 6 == 0 && w1.extractLsb' 25 7 == 0 then
        some (.ldq32 (fGuard w0) (w0.extractLsb' 16 4) (w0.extractLsb' 14 2) (w0.extractLsb' 8 6) (w1.extractLsb' 24 1) (w1.extractLsb' 0 24))
      else none
    | _ =>
      if w0.extractLsb' 2 6 == 0 && w1.extractLsb' 25 7 == 0 then
        some (.ldq64 (fGuard w0) (w0.extractLsb' 16 4) (w0.extractLsb' 14 2) (w0.extractLsb' 8 6) (w1.extractLsb' 24 1) (w1.extractLsb' 0 24))
      else none
  | 36 =>
    match (fFn w0).toNat with
    | 0 =>
      if w1.extractLsb' 16 16 == 0 && w1.extractLsb' 15 1 == 0 && w1.extractLsb' 6 3 == 0 && w1.extractLsb' 0 6 == 0 then
        some (.amoAdd (fGuard w0) (w0.extractLsb' 14 6) (w0.extractLsb' 8 6) (w0.extractLsb' 2 6) (w1.extractLsb' 14 1) (w1.extractLsb' 11 3) (w1.extractLsb' 9 2))
      else none
    | 1 =>
      if w1.extractLsb' 16 16 == 0 && w1.extractLsb' 15 1 == 0 && w1.extractLsb' 6 3 == 0 && w1.extractLsb' 0 6 == 0 then
        some (.amoSwp (fGuard w0) (w0.extractLsb' 14 6) (w0.extractLsb' 8 6) (w0.extractLsb' 2 6) (w1.extractLsb' 14 1) (w1.extractLsb' 11 3) (w1.extractLsb' 9 2))
      else none
    | 2 =>
      if w1.extractLsb' 16 16 == 0 && w1.extractLsb' 15 1 == 0 && w1.extractLsb' 6 3 == 0 then
        some (.amoCas (fGuard w0) (w0.extractLsb' 14 6) (w0.extractLsb' 8 6) (w0.extractLsb' 2 6) (w1.extractLsb' 14 1) (w1.extractLsb' 11 3) (w1.extractLsb' 9 2) (w1.extractLsb' 0 6))
      else none
    | _ =>
      if w1.extractLsb' 16 16 == 0 && w1.extractLsb' 15 1 == 0 && w1.extractLsb' 6 3 == 0 && w1.extractLsb' 0 6 == 0 then
        some (.amoAnd (fGuard w0) (w0.extractLsb' 14 6) (w0.extractLsb' 8 6) (w0.extractLsb' 2 6) (w1.extractLsb' 14 1) (w1.extractLsb' 11 3) (w1.extractLsb' 9 2))
      else none
  | 37 =>
    match (fFn w0).toNat with
    | 0 =>
      if w1.extractLsb' 16 16 == 0 && w1.extractLsb' 15 1 == 0 && w1.extractLsb' 6 3 == 0 && w1.extractLsb' 0 6 == 0 then
        some (.amoOr (fGuard w0) (w0.extractLsb' 14 6) (w0.extractLsb' 8 6) (w0.extractLsb' 2 6) (w1.extractLsb' 14 1) (w1.extractLsb' 11 3) (w1.extractLsb' 9 2))
      else none
    | 1 =>
      if w1.extractLsb' 16 16 == 0 && w1.extractLsb' 15 1 == 0 && w1.extractLsb' 6 3 == 0 && w1.extractLsb' 0 6 == 0 then
        some (.amoXor (fGuard w0) (w0.extractLsb' 14 6) (w0.extractLsb' 8 6) (w0.extractLsb' 2 6) (w1.extractLsb' 14 1) (w1.extractLsb' 11 3) (w1.extractLsb' 9 2))
      else none
    | 2 =>
      if w1.extractLsb' 16 16 == 0 && w1.extractLsb' 6 3 == 0 && w1.extractLsb' 0 6 == 0 then
        some (.amoMin (fGuard w0) (w0.extractLsb' 14 6) (w0.extractLsb' 8 6) (w0.extractLsb' 2 6) (w1.extractLsb' 14 1) (w1.extractLsb' 11 3) (w1.extractLsb' 9 2) (w1.extractLsb' 15 1))
      else none
    | _ =>
      if w1.extractLsb' 16 16 == 0 && w1.extractLsb' 6 3 == 0 && w1.extractLsb' 0 6 == 0 then
        some (.amoMax (fGuard w0) (w0.extractLsb' 14 6) (w0.extractLsb' 8 6) (w0.extractLsb' 2 6) (w1.extractLsb' 14 1) (w1.extractLsb' 11 3) (w1.extractLsb' 9 2) (w1.extractLsb' 15 1))
      else none
  | 38 =>
    match (fFn w0).toNat with
    | 0 =>
      if w0.extractLsb' 2 6 == 0 && w1.extractLsb' 25 3 == 0 then
        some (.rldq8 (fGuard w0) (w0.extractLsb' 16 4) (w0.extractLsb' 14 2) (w0.extractLsb' 8 6) (w1.extractLsb' 24 1) (w1.extractLsb' 0 24) (w1.extractLsb' 28 1) (w1.extractLsb' 29 3))
      else none
    | 1 =>
      if w0.extractLsb' 2 6 == 0 && w1.extractLsb' 25 3 == 0 then
        some (.rldq16 (fGuard w0) (w0.extractLsb' 16 4) (w0.extractLsb' 14 2) (w0.extractLsb' 8 6) (w1.extractLsb' 24 1) (w1.extractLsb' 0 24) (w1.extractLsb' 28 1) (w1.extractLsb' 29 3))
      else none
    | 2 =>
      if w0.extractLsb' 2 6 == 0 && w1.extractLsb' 25 3 == 0 then
        some (.rldq32 (fGuard w0) (w0.extractLsb' 16 4) (w0.extractLsb' 14 2) (w0.extractLsb' 8 6) (w1.extractLsb' 24 1) (w1.extractLsb' 0 24) (w1.extractLsb' 28 1) (w1.extractLsb' 29 3))
      else none
    | _ =>
      if w0.extractLsb' 2 6 == 0 && w1.extractLsb' 25 3 == 0 then
        some (.rldq64 (fGuard w0) (w0.extractLsb' 16 4) (w0.extractLsb' 14 2) (w0.extractLsb' 8 6) (w1.extractLsb' 24 1) (w1.extractLsb' 0 24) (w1.extractLsb' 28 1) (w1.extractLsb' 29 3))
      else none
  | 39 =>
    match (fFn w0).toNat with
    | 0 =>
      if w0.extractLsb' 14 6 == 0 && w0.extractLsb' 2 6 == 0 then
        some (.laydef (fGuard w0) (w0.extractLsb' 8 6))
      else none
    | 1 =>
      if w0.extractLsb' 14 6 == 0 && w0.extractLsb' 2 6 == 0 then
        some (.layinv (fGuard w0) (w0.extractLsb' 8 6))
      else none
    | _ => none
  | 40 =>
    match (fFn w0).toNat with
    | 0 =>
      if w0.extractLsb' 2 6 == 0 && w1.extractLsb' 20 12 == 0 && w1.extractLsb' 0 2 == 0 then
        some (.pin (fGuard w0) (w0.extractLsb' 14 6) (w0.extractLsb' 8 6) (w1.extractLsb' 12 8) (w1.extractLsb' 4 8) (w1.extractLsb' 2 2))
      else none
    | 1 =>
      if w0.extractLsb' 14 6 == 0 && w0.extractLsb' 2 6 == 0 && w1.extractLsb' 20 12 == 0 && w1.extractLsb' 0 2 == 0 then
        some (.unpin (fGuard w0) (w0.extractLsb' 8 6) (w1.extractLsb' 12 8) (w1.extractLsb' 4 8) (w1.extractLsb' 2 2))
      else none
    | 2 =>
      if w0.extractLsb' 14 6 == 0 && w0.extractLsb' 2 6 == 0 && w1.extractLsb' 20 12 == 0 && w1.extractLsb' 0 2 == 0 then
        some (.lastuse (fGuard w0) (w0.extractLsb' 8 6) (w1.extractLsb' 12 8) (w1.extractLsb' 4 8) (w1.extractLsb' 2 2))
      else none
    | _ =>
      if w0.extractLsb' 14 6 == 0 && w0.extractLsb' 2 6 == 0 && w1.extractLsb' 20 12 == 0 && w1.extractLsb' 0 2 == 0 then
        some (.stream (fGuard w0) (w0.extractLsb' 8 6) (w1.extractLsb' 12 8) (w1.extractLsb' 4 8) (w1.extractLsb' 2 2))
      else none
  | 41 =>
    match (fFn w0).toNat with
    | 0 =>
      if w0.extractLsb' 14 6 == 0 && w0.extractLsb' 2 6 == 0 && w1.extractLsb' 16 16 == 0 && w1.extractLsb' 6 2 == 0 && w1.extractLsb' 0 2 == 0 then
        some (.pfit (fGuard w0) (w0.extractLsb' 8 6) (w1.extractLsb' 12 4) (w1.extractLsb' 8 4) (w1.extractLsb' 4 2) (w1.extractLsb' 2 2))
      else none
    | 1 =>
      if w0.extractLsb' 2 18 == 0 && w1.extractLsb' 16 16 == 0 && w1.extractLsb' 8 8 == 0 && w1.extractLsb' 6 2 == 0 && w1.extractLsb' 2 2 == 0 && w1.extractLsb' 0 2 == 0 then
        some (.pfitcan (fGuard w0) (w1.extractLsb' 4 2))
      else none
    | _ => none
  | 42 =>
    match (fFn w0).toNat with
    | 0 =>
      if w0.extractLsb' 17 3 == 0 && w1.extractLsb' 20 6 == 0 && w1.extractLsb' 0 7 == 0 then
        some (.copy (fGuard w0) (w0.extractLsb' 14 3) (w0.extractLsb' 8 6) (w0.extractLsb' 2 6) (w1.extractLsb' 26 6) (w1.extractLsb' 19 1) (w1.extractLsb' 13 6) (w1.extractLsb' 10 3) (w1.extractLsb' 7 3))
      else none
    | 1 =>
      if w0.extractLsb' 17 3 == 0 && w1.extractLsb' 0 7 == 0 then
        some (.copyt (fGuard w0) (w0.extractLsb' 14 3) (w0.extractLsb' 8 6) (w0.extractLsb' 2 6) (w1.extractLsb' 26 6) (w1.extractLsb' 19 1) (w1.extractLsb' 13 6) (w1.extractLsb' 10 3) (w1.extractLsb' 7 3) (w1.extractLsb' 20 6))
      else none
    | _ => none
  | 43 =>
    match (fFn w0).toNat with
    | 0 =>
      if w0.extractLsb' 2 6 == 0 && w1.extractLsb' 20 12 == 0 && w1.extractLsb' 0 4 == 0 then
        some (.vrel (fGuard w0) (w0.extractLsb' 14 6) (w0.extractLsb' 8 6) (w1.extractLsb' 12 8) (w1.extractLsb' 4 8))
      else none
    | _ => none
  | 44 =>
    match (fFn w0).toNat with
    | 0 =>
      if w0.extractLsb' 17 3 == 0 && w1.extractLsb' 0 25 == 0 then
        some (.promote (fGuard w0) (w0.extractLsb' 14 3) (w0.extractLsb' 8 6) (w0.extractLsb' 2 6) (w1.extractLsb' 26 6) (w1.extractLsb' 25 1))
      else none
    | _ => none
  | 45 =>
    match (fFn w0).toNat with
    | 0 =>
      if w0.extractLsb' 2 6 == 0 && w1.extractLsb' 0 12 == 0 then
        some (.kvapp (fGuard w0) (w0.extractLsb' 14 6) (w0.extractLsb' 8 6) (w1.extractLsb' 26 6) (w1.extractLsb' 20 6) (w1.extractLsb' 12 8))
      else none
    | _ => none
  | 48 =>
    match (fFn w0).toNat with
    | 0 =>
      if w0.extractLsb' 17 3 == 0 && w0.extractLsb' 2 6 == 0 && w1.extractLsb' 20 12 == 0 && w1.extractLsb' 0 10 == 0 then
        some (.selTopk (fGuard w0) ⟨w0.extractLsb' 14 3, w0.extractLsb' 8 6, w1.extractLsb' 19 1, w1.extractLsb' 13 6, w1.extractLsb' 10 3⟩)
      else none
    | 1 =>
      if w0.extractLsb' 17 3 == 0 && w0.extractLsb' 2 6 == 0 && w1.extractLsb' 20 12 == 0 && w1.extractLsb' 0 10 == 0 then
        some (.selSeg (fGuard w0) ⟨w0.extractLsb' 14 3, w0.extractLsb' 8 6, w1.extractLsb' 19 1, w1.extractLsb' 13 6, w1.extractLsb' 10 3⟩)
      else none
    | _ => none
  | 49 =>
    match (fFn w0).toNat with
    | 0 =>
      if w0.extractLsb' 17 3 == 0 && w0.extractLsb' 2 6 == 0 && w1.extractLsb' 20 12 == 0 && w1.extractLsb' 0 10 == 0 then
        some (.unmSetup (fGuard w0) ⟨w0.extractLsb' 14 3, w0.extractLsb' 8 6, w1.extractLsb' 19 1, w1.extractLsb' 13 6, w1.extractLsb' 10 3⟩)
      else none
    | 1 =>
      if w0.extractLsb' 17 3 == 0 && w0.extractLsb' 2 6 == 0 && w1.extractLsb' 20 12 == 0 && w1.extractLsb' 0 10 == 0 then
        some (.unmReg (fGuard w0) ⟨w0.extractLsb' 14 3, w0.extractLsb' 8 6, w1.extractLsb' 19 1, w1.extractLsb' 13 6, w1.extractLsb' 10 3⟩)
      else none
    | 2 =>
      if w0.extractLsb' 17 3 == 0 && w0.extractLsb' 2 6 == 0 && w1.extractLsb' 20 12 == 0 && w1.extractLsb' 0 10 == 0 then
        some (.unmRound (fGuard w0) ⟨w0.extractLsb' 14 3, w0.extractLsb' 8 6, w1.extractLsb' 19 1, w1.extractLsb' 13 6, w1.extractLsb' 10 3⟩)
      else none
    | _ =>
      if w0.extractLsb' 17 3 == 0 && w0.extractLsb' 2 6 == 0 && w1.extractLsb' 20 12 == 0 && w1.extractLsb' 0 10 == 0 then
        some (.unmFree (fGuard w0) ⟨w0.extractLsb' 14 3, w0.extractLsb' 8 6, w1.extractLsb' 19 1, w1.extractLsb' 13 6, w1.extractLsb' 10 3⟩)
      else none
  | 50 =>
    match (fFn w0).toNat with
    | 0 =>
      if w0.extractLsb' 17 3 == 0 && w0.extractLsb' 2 6 == 0 && w1.extractLsb' 20 12 == 0 && w1.extractLsb' 0 10 == 0 then
        some (.rteSetup (fGuard w0) ⟨w0.extractLsb' 14 3, w0.extractLsb' 8 6, w1.extractLsb' 19 1, w1.extractLsb' 13 6, w1.extractLsb' 10 3⟩)
      else none
    | 1 =>
      if w0.extractLsb' 17 3 == 0 && w0.extractLsb' 2 6 == 0 && w1.extractLsb' 20 12 == 0 && w1.extractLsb' 0 10 == 0 then
        some (.rteCount (fGuard w0) ⟨w0.extractLsb' 14 3, w0.extractLsb' 8 6, w1.extractLsb' 19 1, w1.extractLsb' 13 6, w1.extractLsb' 10 3⟩)
      else none
    | 2 =>
      if w0.extractLsb' 17 3 == 0 && w0.extractLsb' 2 6 == 0 && w1.extractLsb' 20 12 == 0 && w1.extractLsb' 0 10 == 0 then
        some (.rtePlace (fGuard w0) ⟨w0.extractLsb' 14 3, w0.extractLsb' 8 6, w1.extractLsb' 19 1, w1.extractLsb' 13 6, w1.extractLsb' 10 3⟩)
      else none
    | _ =>
      if w0.extractLsb' 17 3 == 0 && w0.extractLsb' 2 6 == 0 && w1.extractLsb' 20 12 == 0 && w1.extractLsb' 0 10 == 0 then
        some (.rteScatter (fGuard w0) ⟨w0.extractLsb' 14 3, w0.extractLsb' 8 6, w1.extractLsb' 19 1, w1.extractLsb' 13 6, w1.extractLsb' 10 3⟩)
      else none
  | 51 =>
    match (fFn w0).toNat with
    | 0 =>
      if w0.extractLsb' 17 3 == 0 && w0.extractLsb' 2 6 == 0 && w1.extractLsb' 20 12 == 0 && w1.extractLsb' 0 10 == 0 then
        some (.rteGather (fGuard w0) ⟨w0.extractLsb' 14 3, w0.extractLsb' 8 6, w1.extractLsb' 19 1, w1.extractLsb' 13 6, w1.extractLsb' 10 3⟩)
      else none
    | _ => none
  | 52 =>
    match (fFn w0).toNat with
    | 0 =>
      if w0.extractLsb' 17 3 == 0 && w0.extractLsb' 2 6 == 0 && w1.extractLsb' 20 12 == 0 && w1.extractLsb' 0 10 == 0 then
        some (.collAr (fGuard w0) ⟨w0.extractLsb' 14 3, w0.extractLsb' 8 6, w1.extractLsb' 19 1, w1.extractLsb' 13 6, w1.extractLsb' 10 3⟩)
      else none
    | 1 =>
      if w0.extractLsb' 17 3 == 0 && w0.extractLsb' 2 6 == 0 && w1.extractLsb' 20 12 == 0 && w1.extractLsb' 0 10 == 0 then
        some (.collAg (fGuard w0) ⟨w0.extractLsb' 14 3, w0.extractLsb' 8 6, w1.extractLsb' 19 1, w1.extractLsb' 13 6, w1.extractLsb' 10 3⟩)
      else none
    | 2 =>
      if w0.extractLsb' 17 3 == 0 && w0.extractLsb' 2 6 == 0 && w1.extractLsb' 20 12 == 0 && w1.extractLsb' 0 10 == 0 then
        some (.collRs (fGuard w0) ⟨w0.extractLsb' 14 3, w0.extractLsb' 8 6, w1.extractLsb' 19 1, w1.extractLsb' 13 6, w1.extractLsb' 10 3⟩)
      else none
    | _ =>
      if w0.extractLsb' 17 3 == 0 && w0.extractLsb' 2 6 == 0 && w1.extractLsb' 20 12 == 0 && w1.extractLsb' 0 10 == 0 then
        some (.collBc (fGuard w0) ⟨w0.extractLsb' 14 3, w0.extractLsb' 8 6, w1.extractLsb' 19 1, w1.extractLsb' 13 6, w1.extractLsb' 10 3⟩)
      else none
  | 53 =>
    match (fFn w0).toNat with
    | 0 =>
      if w0.extractLsb' 17 3 == 0 && w0.extractLsb' 2 6 == 0 && w1.extractLsb' 20 12 == 0 && w1.extractLsb' 0 10 == 0 then
        some (.collA2a (fGuard w0) ⟨w0.extractLsb' 14 3, w0.extractLsb' 8 6, w1.extractLsb' 19 1, w1.extractLsb' 13 6, w1.extractLsb' 10 3⟩)
      else none
    | _ => none
  | 63 =>
    match (fFn w0).toNat with
    | 0 =>
      if w0.extractLsb' 19 1 == 0 && w0.extractLsb' 13 1 == 0 && w0.extractLsb' 5 3 == 0 then
        some (.fencex (fGuard w0) (w0.extractLsb' 14 5) (w0.extractLsb' 8 5) (w0.extractLsb' 2 3))
      else none
    | _ => none
  | _ => none

/-- The control map of R36: the instruction of a word pair, or none. The second word counts only in a two-word format. -/
def decodeC (w0 w1 : Word32) : Option Instr :=
  match (fOp w0).toNat with
  | 32 =>
    match (fFn w0).toNat with
    | 0 =>
      if w0.extractLsb' 2 6 == 0 then
        some (.ld8 (fGuard w0) (w0.extractLsb' 14 6) (w0.extractLsb' 8 6) (w1.extractLsb' 0 32))
      else none
    | 1 =>
      if w0.extractLsb' 2 6 == 0 then
        some (.ld16 (fGuard w0) (w0.extractLsb' 14 6) (w0.extractLsb' 8 6) (w1.extractLsb' 0 32))
      else none
    | 2 =>
      if w0.extractLsb' 2 6 == 0 then
        some (.ld32 (fGuard w0) (w0.extractLsb' 14 6) (w0.extractLsb' 8 6) (w1.extractLsb' 0 32))
      else none
    | _ =>
      if w0.extractLsb' 2 6 == 0 then
        some (.ld64 (fGuard w0) (w0.extractLsb' 14 6) (w0.extractLsb' 8 6) (w1.extractLsb' 0 32))
      else none
  | 33 =>
    match (fFn w0).toNat with
    | 0 =>
      if w0.extractLsb' 2 6 == 0 then
        some (.ldz8 (fGuard w0) (w0.extractLsb' 14 6) (w0.extractLsb' 8 6) (w1.extractLsb' 0 32))
      else none
    | 1 =>
      if w0.extractLsb' 2 6 == 0 then
        some (.ldz16 (fGuard w0) (w0.extractLsb' 14 6) (w0.extractLsb' 8 6) (w1.extractLsb' 0 32))
      else none
    | 2 =>
      if w0.extractLsb' 2 6 == 0 then
        some (.ldz32 (fGuard w0) (w0.extractLsb' 14 6) (w0.extractLsb' 8 6) (w1.extractLsb' 0 32))
      else none
    | _ => none
  | 34 =>
    match (fFn w0).toNat with
    | 0 =>
      if w0.extractLsb' 14 6 == 0 then
        some (.st8 (fGuard w0) (w0.extractLsb' 8 6) (w0.extractLsb' 2 6) (w1.extractLsb' 0 32))
      else none
    | 1 =>
      if w0.extractLsb' 14 6 == 0 then
        some (.st16 (fGuard w0) (w0.extractLsb' 8 6) (w0.extractLsb' 2 6) (w1.extractLsb' 0 32))
      else none
    | 2 =>
      if w0.extractLsb' 14 6 == 0 then
        some (.st32 (fGuard w0) (w0.extractLsb' 8 6) (w0.extractLsb' 2 6) (w1.extractLsb' 0 32))
      else none
    | _ =>
      if w0.extractLsb' 14 6 == 0 then
        some (.st64 (fGuard w0) (w0.extractLsb' 8 6) (w0.extractLsb' 2 6) (w1.extractLsb' 0 32))
      else none
  | 35 =>
    match (fFn w0).toNat with
    | 0 =>
      if w0.extractLsb' 14 6 == 0 && w0.extractLsb' 2 6 == 0 then
        some (.fpush (fGuard w0) (w0.extractLsb' 8 6))
      else none
    | 1 =>
      if w0.extractLsb' 2 18 == 0 then
        some (.fqclose (fGuard w0))
      else none
    | _ => none
  | 36 =>
    match (fFn w0).toNat with
    | 0 =>
      if w0.extractLsb' 14 6 == 0 then
        some (.renq (fGuard w0) (w0.extractLsb' 8 6) (w0.extractLsb' 2 6))
      else none
    | _ => none
  | 37 =>
    match (fFn w0).toNat with
    | 0 =>
      if w0.extractLsb' 2 3 == 0 then
        some (.gbar (fGuard w0) (w0.extractLsb' 14 6) (w0.extractLsb' 8 6) (w0.extractLsb' 5 3))
      else none
    | 1 =>
      if w0.extractLsb' 14 6 == 0 && w0.extractLsb' 2 6 == 0 then
        some (.gleave (fGuard w0) (w0.extractLsb' 8 6))
      else none
    | 2 =>
      if w0.extractLsb' 14 6 == 0 && w0.extractLsb' 2 6 == 0 then
        some (.gjoin (fGuard w0) (w0.extractLsb' 8 6))
      else none
    | _ => some (.gcast (fGuard w0) (w0.extractLsb' 14 6) (w0.extractLsb' 8 6) (w0.extractLsb' 2 6))
  | 38 =>
    match (fFn w0).toNat with
    | 0 =>
      if w0.extractLsb' 2 6 == 0 then
        some (.prack (fGuard w0) (w0.extractLsb' 14 6) (w0.extractLsb' 8 6))
      else none
    | 1 =>
      if w0.extractLsb' 14 6 == 0 then
        some (.hostirq (fGuard w0) (w0.extractLsb' 8 6) (w0.extractLsb' 2 6))
      else none
    | _ => none
  | 63 =>
    match (fFn w0).toNat with
    | 0 =>
      if w0.extractLsb' 19 1 == 0 && w0.extractLsb' 13 1 == 0 && w0.extractLsb' 5 3 == 0 then
        some (.fencex (fGuard w0) (w0.extractLsb' 14 5) (w0.extractLsb' 8 5) (w0.extractLsb' 2 3))
      else none
    | _ => none
  | _ => none

/-- The matrix map of R37: the instruction of a word pair, or none. The second word counts only in a two-word format. -/
def decodeM (w0 w1 : Word32) : Option Instr :=
  match (fOp w0).toNat with
  | 32 => if w1.extractLsb' 0 10 == 0 then some (.cube (fGuard w0) ⟨w0.extractLsb' 18 2, w0.extractLsb' 12 6, w0.extractLsb' 7 5, w0.extractLsb' 2 5, w0.extractLsb' 0 2, w1.extractLsb' 27 5, w1.extractLsb' 21 6, w1.extractLsb' 12 9, w1.extractLsb' 10 2⟩) else none
  | 33 => if w1.extractLsb' 0 10 == 0 then some (.mma (fGuard w0) ⟨w0.extractLsb' 18 2, w0.extractLsb' 12 6, w0.extractLsb' 7 5, w0.extractLsb' 2 5, w0.extractLsb' 0 2, w1.extractLsb' 27 5, w1.extractLsb' 21 6, w1.extractLsb' 12 9, w1.extractLsb' 10 2⟩) else none
  | 34 =>
    match (fFn w0).toNat with
    | 0 =>
      if w0.extractLsb' 2 6 == 0 && w1.extractLsb' 0 15 == 0 then
        some (.ald (fGuard w0) (w0.extractLsb' 14 6) (w0.extractLsb' 8 6) (w1.extractLsb' 29 3) (w1.extractLsb' 26 3) (w1.extractLsb' 25 1) (w1.extractLsb' 24 1) (w1.extractLsb' 23 1) (w1.extractLsb' 15 8))
      else none
    | 1 =>
      if w0.extractLsb' 2 6 == 0 && w1.extractLsb' 0 15 == 0 then
        some (.ast (fGuard w0) (w0.extractLsb' 14 6) (w0.extractLsb' 8 6) (w1.extractLsb' 29 3) (w1.extractLsb' 26 3) (w1.extractLsb' 25 1) (w1.extractLsb' 24 1) (w1.extractLsb' 23 1) (w1.extractLsb' 15 8))
      else none
    | _ => none
  | 35 =>
    match (fFn w0).toNat with
    | 0 =>
      if w0.extractLsb' 2 12 == 0 && w1.extractLsb' 29 3 == 0 && w1.extractLsb' 0 26 == 0 then
        some (.aclr (fGuard w0) (w0.extractLsb' 14 6) (w1.extractLsb' 26 3))
      else none
    | 1 =>
      if w0.extractLsb' 2 6 == 0 && w1.extractLsb' 0 22 == 0 then
        some (.acvt (fGuard w0) (w0.extractLsb' 14 6) (w0.extractLsb' 8 6) (w1.extractLsb' 29 3) (w1.extractLsb' 26 3) (w1.extractLsb' 23 3) (w1.extractLsb' 22 1))
      else none
    | 2 =>
      if w0.extractLsb' 2 6 == 0 && w1.extractLsb' 29 3 == 0 && w1.extractLsb' 0 26 == 0 then
        some (.acopy (fGuard w0) (w0.extractLsb' 14 6) (w0.extractLsb' 8 6) (w1.extractLsb' 26 3))
      else none
    | _ =>
      if w0.extractLsb' 2 6 == 0 && w1.extractLsb' 29 3 == 0 && w1.extractLsb' 0 26 == 0 then
        some (.atrn (fGuard w0) (w0.extractLsb' 14 6) (w0.extractLsb' 8 6) (w1.extractLsb' 26 3))
      else none
  | _ => none

/-- The vector map of R38: the instruction of a word pair, or none. The second word counts only in a two-word format. -/
def decodeV (w0 w1 : Word32) : Option Instr :=
  match (fOp w0).toNat with
  | 32 =>
    match (fFn w0).toNat with
    | 0 => some (.vadd (fGuard w0) ⟨w0.extractLsb' 9 11, w0.extractLsb' 6 3, w0.extractLsb' 3 3, w0.extractLsb' 2 1, w1.extractLsb' 21 11, w1.extractLsb' 10 11, w1.extractLsb' 0 10⟩)
    | 1 => some (.vsub (fGuard w0) ⟨w0.extractLsb' 9 11, w0.extractLsb' 6 3, w0.extractLsb' 3 3, w0.extractLsb' 2 1, w1.extractLsb' 21 11, w1.extractLsb' 10 11, w1.extractLsb' 0 10⟩)
    | 2 => some (.vmul (fGuard w0) ⟨w0.extractLsb' 9 11, w0.extractLsb' 6 3, w0.extractLsb' 3 3, w0.extractLsb' 2 1, w1.extractLsb' 21 11, w1.extractLsb' 10 11, w1.extractLsb' 0 10⟩)
    | _ => some (.vfma (fGuard w0) ⟨w0.extractLsb' 9 11, w0.extractLsb' 6 3, w0.extractLsb' 3 3, w0.extractLsb' 2 1, w1.extractLsb' 21 11, w1.extractLsb' 10 11, w1.extractLsb' 0 10⟩)
  | 33 =>
    match (fFn w0).toNat with
    | 0 => some (.vmin (fGuard w0) ⟨w0.extractLsb' 9 11, w0.extractLsb' 6 3, w0.extractLsb' 3 3, w0.extractLsb' 2 1, w1.extractLsb' 21 11, w1.extractLsb' 10 11, w1.extractLsb' 0 10⟩)
    | 1 => some (.vmax (fGuard w0) ⟨w0.extractLsb' 9 11, w0.extractLsb' 6 3, w0.extractLsb' 3 3, w0.extractLsb' 2 1, w1.extractLsb' 21 11, w1.extractLsb' 10 11, w1.extractLsb' 0 10⟩)
    | 2 => some (.vabs (fGuard w0) ⟨w0.extractLsb' 9 11, w0.extractLsb' 6 3, w0.extractLsb' 3 3, w0.extractLsb' 2 1, w1.extractLsb' 21 11, w1.extractLsb' 10 11, w1.extractLsb' 0 10⟩)
    | _ => some (.vneg (fGuard w0) ⟨w0.extractLsb' 9 11, w0.extractLsb' 6 3, w0.extractLsb' 3 3, w0.extractLsb' 2 1, w1.extractLsb' 21 11, w1.extractLsb' 10 11, w1.extractLsb' 0 10⟩)
  | 34 =>
    match (fFn w0).toNat with
    | 0 => some (.vand (fGuard w0) ⟨w0.extractLsb' 9 11, w0.extractLsb' 6 3, w0.extractLsb' 3 3, w0.extractLsb' 2 1, w1.extractLsb' 21 11, w1.extractLsb' 10 11, w1.extractLsb' 0 10⟩)
    | 1 => some (.vor (fGuard w0) ⟨w0.extractLsb' 9 11, w0.extractLsb' 6 3, w0.extractLsb' 3 3, w0.extractLsb' 2 1, w1.extractLsb' 21 11, w1.extractLsb' 10 11, w1.extractLsb' 0 10⟩)
    | 2 => some (.vxor (fGuard w0) ⟨w0.extractLsb' 9 11, w0.extractLsb' 6 3, w0.extractLsb' 3 3, w0.extractLsb' 2 1, w1.extractLsb' 21 11, w1.extractLsb' 10 11, w1.extractLsb' 0 10⟩)
    | _ => some (.vnot (fGuard w0) ⟨w0.extractLsb' 9 11, w0.extractLsb' 6 3, w0.extractLsb' 3 3, w0.extractLsb' 2 1, w1.extractLsb' 21 11, w1.extractLsb' 10 11, w1.extractLsb' 0 10⟩)
  | 35 =>
    match (fFn w0).toNat with
    | 0 => some (.vshl (fGuard w0) ⟨w0.extractLsb' 9 11, w0.extractLsb' 6 3, w0.extractLsb' 3 3, w0.extractLsb' 2 1, w1.extractLsb' 21 11, w1.extractLsb' 10 11, w1.extractLsb' 0 10⟩)
    | 1 => some (.vshr (fGuard w0) ⟨w0.extractLsb' 9 11, w0.extractLsb' 6 3, w0.extractLsb' 3 3, w0.extractLsb' 2 1, w1.extractLsb' 21 11, w1.extractLsb' 10 11, w1.extractLsb' 0 10⟩)
    | 2 => some (.vsar (fGuard w0) ⟨w0.extractLsb' 9 11, w0.extractLsb' 6 3, w0.extractLsb' 3 3, w0.extractLsb' 2 1, w1.extractLsb' 21 11, w1.extractLsb' 10 11, w1.extractLsb' 0 10⟩)
    | _ => none
  | 36 =>
    match (fFn w0).toNat with
    | 0 => some (.vcmpeq (fGuard w0) ⟨w0.extractLsb' 9 11, w0.extractLsb' 6 3, w0.extractLsb' 3 3, w0.extractLsb' 2 1, w1.extractLsb' 21 11, w1.extractLsb' 10 11, w1.extractLsb' 0 10⟩)
    | 1 => some (.vcmplt (fGuard w0) ⟨w0.extractLsb' 9 11, w0.extractLsb' 6 3, w0.extractLsb' 3 3, w0.extractLsb' 2 1, w1.extractLsb' 21 11, w1.extractLsb' 10 11, w1.extractLsb' 0 10⟩)
    | 2 => some (.vcmple (fGuard w0) ⟨w0.extractLsb' 9 11, w0.extractLsb' 6 3, w0.extractLsb' 3 3, w0.extractLsb' 2 1, w1.extractLsb' 21 11, w1.extractLsb' 10 11, w1.extractLsb' 0 10⟩)
    | _ => some (.vsel (fGuard w0) ⟨w0.extractLsb' 9 11, w0.extractLsb' 6 3, w0.extractLsb' 3 3, w0.extractLsb' 2 1, w1.extractLsb' 21 11, w1.extractLsb' 10 11, w1.extractLsb' 0 10⟩)
  | 37 =>
    match (fFn w0).toNat with
    | 0 => some (.vcvt (fGuard w0) ⟨w0.extractLsb' 9 11, w0.extractLsb' 6 3, w0.extractLsb' 3 3, w0.extractLsb' 2 1, w1.extractLsb' 21 11, w1.extractLsb' 10 11, w1.extractLsb' 0 10⟩)
    | 1 => some (.vrndi (fGuard w0) ⟨w0.extractLsb' 9 11, w0.extractLsb' 6 3, w0.extractLsb' 3 3, w0.extractLsb' 2 1, w1.extractLsb' 21 11, w1.extractLsb' 10 11, w1.extractLsb' 0 10⟩)
    | _ => none
  | 38 =>
    match (fFn w0).toNat with
    | 0 => some (.vrsum (fGuard w0) ⟨w0.extractLsb' 9 11, w0.extractLsb' 6 3, w0.extractLsb' 3 3, w0.extractLsb' 2 1, w1.extractLsb' 21 11, w1.extractLsb' 10 11, w1.extractLsb' 0 10⟩)
    | 1 => some (.vrmax (fGuard w0) ⟨w0.extractLsb' 9 11, w0.extractLsb' 6 3, w0.extractLsb' 3 3, w0.extractLsb' 2 1, w1.extractLsb' 21 11, w1.extractLsb' 10 11, w1.extractLsb' 0 10⟩)
    | 2 => some (.vrmin (fGuard w0) ⟨w0.extractLsb' 9 11, w0.extractLsb' 6 3, w0.extractLsb' 3 3, w0.extractLsb' 2 1, w1.extractLsb' 21 11, w1.extractLsb' 10 11, w1.extractLsb' 0 10⟩)
    | _ => some (.vrargmax (fGuard w0) ⟨w0.extractLsb' 9 11, w0.extractLsb' 6 3, w0.extractLsb' 3 3, w0.extractLsb' 2 1, w1.extractLsb' 21 11, w1.extractLsb' 10 11, w1.extractLsb' 0 10⟩)
  | 39 =>
    match (fFn w0).toNat with
    | 0 => some (.vexp2 (fGuard w0) ⟨w0.extractLsb' 9 11, w0.extractLsb' 6 3, w0.extractLsb' 3 3, w0.extractLsb' 2 1, w1.extractLsb' 21 11, w1.extractLsb' 10 11, w1.extractLsb' 0 10⟩)
    | 1 => some (.vlog2 (fGuard w0) ⟨w0.extractLsb' 9 11, w0.extractLsb' 6 3, w0.extractLsb' 3 3, w0.extractLsb' 2 1, w1.extractLsb' 21 11, w1.extractLsb' 10 11, w1.extractLsb' 0 10⟩)
    | 2 => some (.vrcp (fGuard w0) ⟨w0.extractLsb' 9 11, w0.extractLsb' 6 3, w0.extractLsb' 3 3, w0.extractLsb' 2 1, w1.extractLsb' 21 11, w1.extractLsb' 10 11, w1.extractLsb' 0 10⟩)
    | _ => some (.vrsq (fGuard w0) ⟨w0.extractLsb' 9 11, w0.extractLsb' 6 3, w0.extractLsb' 3 3, w0.extractLsb' 2 1, w1.extractLsb' 21 11, w1.extractLsb' 10 11, w1.extractLsb' 0 10⟩)
  | 40 =>
    match (fFn w0).toNat with
    | 0 => some (.vtanh (fGuard w0) ⟨w0.extractLsb' 9 11, w0.extractLsb' 6 3, w0.extractLsb' 3 3, w0.extractLsb' 2 1, w1.extractLsb' 21 11, w1.extractLsb' 10 11, w1.extractLsb' 0 10⟩)
    | _ => none
  | 41 =>
    match (fFn w0).toNat with
    | 0 => some (.vmov (fGuard w0) ⟨w0.extractLsb' 9 11, w0.extractLsb' 6 3, w0.extractLsb' 3 3, w0.extractLsb' 2 1, w1.extractLsb' 21 11, w1.extractLsb' 10 11, w1.extractLsb' 0 10⟩)
    | 1 => some (.vperm (fGuard w0) ⟨w0.extractLsb' 9 11, w0.extractLsb' 6 3, w0.extractLsb' 3 3, w0.extractLsb' 2 1, w1.extractLsb' 21 11, w1.extractLsb' 10 11, w1.extractLsb' 0 10⟩)
    | 2 => some (.vrot (fGuard w0) ⟨w0.extractLsb' 9 11, w0.extractLsb' 6 3, w0.extractLsb' 3 3, w0.extractLsb' 2 1, w1.extractLsb' 21 11, w1.extractLsb' 10 11, w1.extractLsb' 0 10⟩)
    | _ => none
  | 42 =>
    match (fFn w0).toNat with
    | 0 => some (.vrng (fGuard w0) ⟨w0.extractLsb' 9 11, w0.extractLsb' 6 3, w0.extractLsb' 3 3, w0.extractLsb' 2 1, w1.extractLsb' 21 11, w1.extractLsb' 10 11, w1.extractLsb' 0 10⟩)
    | _ => none
  | 43 =>
    match (fFn w0).toNat with
    | 0 => some (.vdistIp (fGuard w0) ⟨w0.extractLsb' 9 11, w0.extractLsb' 6 3, w0.extractLsb' 3 3, w0.extractLsb' 2 1, w1.extractLsb' 21 11, w1.extractLsb' 10 11, w1.extractLsb' 0 10⟩)
    | 1 => some (.vdistL2 (fGuard w0) ⟨w0.extractLsb' 9 11, w0.extractLsb' 6 3, w0.extractLsb' 3 3, w0.extractLsb' 2 1, w1.extractLsb' 21 11, w1.extractLsb' 10 11, w1.extractLsb' 0 10⟩)
    | 2 => some (.vdistHam (fGuard w0) ⟨w0.extractLsb' 9 11, w0.extractLsb' 6 3, w0.extractLsb' 3 3, w0.extractLsb' 2 1, w1.extractLsb' 21 11, w1.extractLsb' 10 11, w1.extractLsb' 0 10⟩)
    | _ => none
  | 44 =>
    match (fFn w0).toNat with
    | 0 => some (.vlmask (fGuard w0) ⟨w0.extractLsb' 9 11, w0.extractLsb' 6 3, w0.extractLsb' 3 3, w0.extractLsb' 2 1, w1.extractLsb' 21 11, w1.extractLsb' 10 11, w1.extractLsb' 0 10⟩)
    | 1 => some (.viota (fGuard w0) ⟨w0.extractLsb' 9 11, w0.extractLsb' 6 3, w0.extractLsb' 3 3, w0.extractLsb' 2 1, w1.extractLsb' 21 11, w1.extractLsb' 10 11, w1.extractLsb' 0 10⟩)
    | _ => none
  | 45 =>
    match (fFn w0).toNat with
    | 0 => some (.vmovs (fGuard w0) ⟨w0.extractLsb' 9 11, w0.extractLsb' 6 3, w0.extractLsb' 3 3, w0.extractLsb' 2 1, w1.extractLsb' 21 11, w1.extractLsb' 10 11, w1.extractLsb' 0 10⟩)
    | 1 => some (.vins (fGuard w0) ⟨w0.extractLsb' 9 11, w0.extractLsb' 6 3, w0.extractLsb' 3 3, w0.extractLsb' 2 1, w1.extractLsb' 21 11, w1.extractLsb' 10 11, w1.extractLsb' 0 10⟩)
    | _ => none
  | _ => none

/-- The opcodes of the two-word formats I, X, V and C in the map of each kind (R28, R34 to R38). -/
def isTwoWord (k : Kind) (op : Nat) : Bool :=
  if op < 32 then
    op == 2 || op == 4 || op == 8 || op == 9 || op == 16
  else
    match k with
    | .a => op != 39 && op != 63
    | .c => op == 32 || op == 33 || op == 34
    | .m => true
    | .v => true

/-- The instruction of a word pair on a strand of kind `k` (R34 to R38). -/
def decodePair (k : Kind) (w0 w1 : Word32) : Option Instr :=
  if (fOp w0).toNat < 32 then decodeShared w0 w1
  else
    match k with
    | .a => decodeA w0 w1
    | .c => decodeC w0 w1
    | .m => decodeM w0 w1
    | .v => decodeV w0 w1

/-- Every value rule that the decode checks of R39 put on one instruction. -/
def legal (k : Kind) (i : Instr) : Bool := i.wf k

/-! ### Bytes and words -/

/-- The little-endian 32-bit word of four bytes (R4). -/
def word32 (b0 b1 b2 b3 : Byte) : Word32 := b3 ++ b2 ++ b1 ++ b0

/-- The words of a byte string, four bytes each; bytes left over make no word. -/
def wordsOf : List Byte → List Word32
  | b0 :: b1 :: b2 :: b3 :: rest => word32 b0 b1 b2 b3 :: wordsOf rest
  | _ => []

/-- The four bytes of a word as they stand in memory. -/
def bytesOfWord (w : Word32) : List Byte :=
  [w.extractLsb' 0 8, w.extractLsb' 8 8, w.extractLsb' 16 8, w.extractLsb' 24 8]

/-! ### The header -/

/-- The bundle header of R26. -/
structure Header where
  len : BitVec 2
  sync : BitVec 1
  jtag : BitVec 5
  we : BitVec 1
  wflag : BitVec 6
  wcond : BitVec 1
  wval : BitVec 8
  tokmask : BitVec 8
  deriving DecidableEq, Repr, Inhabited

/-- The fields of a header word (R26). -/
def decodeHeader (w : Word32) : Header where
  len := w.extractLsb' 30 2
  sync := w.extractLsb' 29 1
  jtag := w.extractLsb' 24 5
  we := w.extractLsb' 23 1
  wflag := w.extractLsb' 17 6
  wcond := w.extractLsb' 16 1
  wval := w.extractLsb' 8 8
  tokmask := w.extractLsb' 0 8

/-- The header word of its fields. -/
def encodeHeader (h : Header) : Word32 :=
  h.len ++ h.sync ++ h.jtag ++ h.we ++ h.wflag ++ h.wcond ++ h.wval ++ h.tokmask

/-- The number of instruction words of a bundle (R25). -/
def Header.words (h : Header) : Nat := h.len.toNat + 1

/-- R27. -/
def headerOk (h : Header) : Bool :=
  (h.we == 1 || (h.wflag == 0 && h.wcond == 0 && h.wval == 0)) && (h.sync == 1 || h.jtag == 0)

/-! ### What an instruction names as destination, and its classes -/

/-- A destination under R16. -/
inductive Dest where
  | reg (n : Nat)
  | pred (n : Nat)
  | csr (n : Nat)
  | flag (n : Nat)
  deriving DecidableEq, Repr

/-- A scalar destination; `s0` does not count (R16). -/
def dReg (r : BitVec 6) : List Dest := if r == 0 then [] else [.reg r.toNat]

/-- A predicate destination; `p0` does not count. -/
def dPred (p : BitVec 6) : List Dest := if p == 0 then [] else [.pred p.toNat]

/-- The destinations that an instruction names (R16). -/
def destsOf : Instr → List Dest
  | .call _ d _ | .callr _ d _ | .li _ d _ | .lih _ d _ | .csrr _ d _ => dReg d
  | .add _ d _ _ | .sub _ d _ _ | .mul _ d _ _ | .mulh _ d _ _ | .and _ d _ _ | .or _ d _ _ | .xor _ d _ _
  | .andn _ d _ _ | .shl _ d _ _ | .shr _ d _ _ | .sar _ d _ _ | .ror _ d _ _ | .min _ d _ _ | .max _ d _ _
  | .minu _ d _ _ | .maxu _ d _ _ | .div _ d _ _ | .divu _ d _ _ | .rem _ d _ _ | .remu _ d _ _
  | .lea1 _ d _ _ | .lea2 _ d _ _ | .lea4 _ d _ _ | .lea8 _ d _ _ => dReg d
  | .addi _ d _ _ | .andi _ d _ _ | .ori _ d _ _ | .xori _ d _ _ => dReg d
  | .shli _ d _ _ | .shri _ d _ _ | .sari _ d _ _ | .rori _ d _ _ | .sext _ d _ _ | .zext _ d _ _ => dReg d
  | .clz _ d _ | .popc _ d _ | .prack _ d _ => dReg d
  | .qmovPop _ d _ _ | .qpeek _ d _ _ => dReg d
  | .frd _ d _ _ _ => dReg d
  | .ld8 _ d _ _ | .ld16 _ d _ _ | .ld32 _ d _ _ | .ld64 _ d _ _ | .ldz8 _ d _ _ | .ldz16 _ d _ _
  | .ldz32 _ d _ _ => dReg d
  | .amoAdd _ d _ _ _ _ _ | .amoSwp _ d _ _ _ _ _ | .amoAnd _ d _ _ _ _ _ | .amoOr _ d _ _ _ _ _
  | .amoXor _ d _ _ _ _ _ => dReg d
  | .amoCas _ d _ _ _ _ _ _ | .amoMin _ d _ _ _ _ _ _ | .amoMax _ d _ _ _ _ _ _ => dReg d
  | .pin _ d _ _ _ _ => dReg d
  | .vrel _ d _ _ _ => dReg d
  | .kvapp _ d _ _ _ _ => dReg d
  | .vmovs _ w => dReg (w.xfn.extractLsb' 0 6)
  | .cmpeq _ p _ _ | .cmpne _ p _ _ | .cmplt _ p _ _ | .cmpltu _ p _ _ | .cmpge _ p _ _ | .cmpgeu _ p _ _
  | .tst _ p _ _ | .pand _ p _ _ | .por _ p _ _ | .pxor _ p _ _ | .pandn _ p _ _ => dPred p
  | .cmpeqi _ p _ _ | .cmplti _ p _ _ | .cmpltui _ p _ _ | .cmpgei _ p _ _ => dPred p
  | .pnot _ p _ | .pmov _ p _ => dPred p
  | .pset _ p | .pclr _ p => dPred p
  | .csrw _ c _ | .csrs _ c _ | .csrc _ c _ => [.csr c.toNat]
  | .finc _ f _ _ => [.flag f.toNat]
  | .fset _ f _ _ _ | .fadd _ f _ _ _ => [.flag f.toNat]
  | _ => []

/-- The control transfers of R16. -/
def isTransfer : Instr → Bool
  | .halt .. | .trap .. | .eret .. | .br .. | .call .. | .jr .. | .callr .. | .ret .. | .loop .. | .loopi ..
  | .loopp .. | .looppi .. => true
  | _ => false

/-- The fences of R107. -/
def isFence : Instr → Bool
  | .fence .. | .fencex .. | .icsync .. => true
  | _ => false

/-- The scalar accesses of R152 and R231. -/
def isScalarAccess : Instr → Bool
  | .ld8 .. | .ld16 .. | .ld32 .. | .ld64 .. | .ldz8 .. | .ldz16 .. | .ldz32 .. | .st8 .. | .st16 .. | .st32 ..
  | .st64 .. | .ldq8 .. | .ldq16 .. | .ldq32 .. | .ldq64 .. | .rldq8 .. | .rldq16 .. | .rldq32 .. | .rldq64 ..
  | .amoAdd .. | .amoSwp .. | .amoCas .. | .amoAnd .. | .amoOr .. | .amoXor .. | .amoMin .. | .amoMax .. => true
  | _ => false

/-- The atomics. -/
def isAmo : Instr → Bool
  | .amoAdd .. | .amoSwp .. | .amoCas .. | .amoAnd .. | .amoOr .. | .amoXor .. | .amoMin .. | .amoMax .. => true
  | _ => false

/-- The record changes of R152. -/
def isRecordChange : Instr → Bool
  | .laydef .. | .layinv .. => true
  | _ => false

/-- The hints of R152. -/
def isHint : Instr → Bool
  | .pin .. | .unpin .. | .lastuse .. | .stream .. | .pfit .. | .pfitcan .. => true
  | _ => false

/-- The engine commands of opcodes 0x30 to 0x35 (R182). -/
def isEngine : Instr → Bool
  | .selTopk .. | .selSeg .. | .unmSetup .. | .unmReg .. | .unmRound .. | .unmFree .. | .rteSetup .. | .rteCount ..
  | .rtePlace .. | .rteScatter .. | .rteGather .. | .collAr .. | .collAg .. | .collRs .. | .collBc ..
  | .collA2a .. => true
  | _ => false

/-- The commands of R152. -/
def isCommand (i : Instr) : Bool :=
  match i with
  | .copy .. | .copyt .. | .vrel .. | .promote .. => true
  | _ => isEngine i

/-- KVAPP. -/
def isKvapp : Instr → Bool
  | .kvapp .. => true
  | _ => false

/-- FPUSH. -/
def isFpush : Instr → Bool
  | .fpush .. => true
  | _ => false

/-- FQCLOSE. -/
def isFqclose : Instr → Bool
  | .fqclose .. => true
  | _ => false

/-- The system class of R231. -/
def isSystem : Instr → Bool
  | .renq .. | .gbar .. | .gleave .. | .gjoin .. | .gcast .. | .prack .. | .hostirq .. => true
  | _ => false

/-- The M-private instructions (R183). -/
def isMatrix : Instr → Bool
  | .cube .. | .mma .. | .ald .. | .ast .. | .aclr .. | .acvt .. | .acopy .. | .atrn .. => true
  | _ => false

/-- The V-private instructions outside the limited class of R210. -/
def isVecPlain : Instr → Bool
  | .vadd .. | .vsub .. | .vmul .. | .vfma .. | .vmin .. | .vmax .. | .vabs .. | .vneg .. | .vand .. | .vor ..
  | .vxor .. | .vnot .. | .vshl .. | .vshr .. | .vsar .. | .vcmpeq .. | .vcmplt .. | .vcmple .. | .vsel ..
  | .vcvt .. | .vrndi .. | .vmov .. | .vperm .. | .vrot .. | .vlmask .. | .viota .. => true
  | _ => false

/-- Opcodes 0x26, 0x27, 0x28, 0x2A, 0x2B and 0x2D of the V strand (R210). -/
def isVecSpecial : Instr → Bool
  | .vrsum .. | .vrmax .. | .vrmin .. | .vrargmax .. | .vexp2 .. | .vlog2 .. | .vrcp .. | .vrsq .. | .vtanh ..
  | .vrng .. | .vdistIp .. | .vdistL2 .. | .vdistHam .. | .vmovs .. | .vins .. => true
  | _ => false

/-- What R107 keeps out of a bundle that holds a fence. -/
def notWithFence (i : Instr) : Bool :=
  isScalarAccess i || isKvapp i || isFpush i || isFqclose i || isEngine i ||
  match i with
  | .laydef .. | .pin .. | .lastuse .. | .pfit .. | .vrel .. | .cube .. | .mma .. | .ald .. | .ast .. | .renq ..
  | .qmovPush .. | .qmovPop .. | .qpeek .. | .copy .. | .copyt .. | .promote .. | .gbar .. | .gcast ..
  | .hostirq .. => true
  | _ => false

/-! ### The elements that a vector operand selects -/

/-- Row and first bit within the row of lane `j` of an operand in an element width (R132, R133). -/
def laneAt (w : Nat) (f : BitVec 11) (j : Nat) : Nat × Nat :=
  let p := (vPlane f).toNat
  let x := (vIdx f).toNat
  match (vDir f).toNat with
  | 0 => (x, 2048 * p + w * j)
  | 1 => (j, 32 * (64 * p + x))
  | _ => (j, 32 * (64 * p + (j + x) % 64))

/-- The bit spans (row, first bit, length) of the lanes 0 to `n` - 1 of an operand. -/
def spansOf (w : Nat) (f : BitVec 11) (n : Nat) : List (Nat × Nat × Nat) :=
  if vDir f == 0 then
    let a := laneAt w f 0
    [(a.1, a.2, w * n)]
  else
    (List.range n).map fun j =>
      let a := laneAt w f j
      (a.1, a.2, w)

/-- The spans of every lane of a destination operand. -/
def allSpans (e : BitVec 3) (f : BitVec 11) : List (Nat × Nat × Nat) :=
  spansOf (etWidth e) f (if vDir f == 0 then rowLanes e else 64)

/-- The spans that a VCVT writes (R221). -/
def cvtSpans (w : VecWord) : List (Nat × Nat × Nat) :=
  if cvtTo w then allSpans w.etype w.vd
  else
    let wo := etWidth (cvtOv w)
    if vDir w.vd == 0 then
      let a := laneAt wo w.vd (cvtPart w * cvtLanes w)
      [(a.1, a.2, wo * cvtLanes w)]
    else spansOf wo w.vd 64

/-- The spans that a VRNG writes: four consecutive rows or columns (R228). -/
def rngSpans (w : VecWord) : List (Nat × Nat × Nat) :=
  (List.range 4).flatMap fun i => spansOf 32 (w.vd + BitVec.ofNat 11 i) 64

/-- The elements that a V-private instruction writes, fixed by its encoding (R210). -/
def writeSpans : Instr → List (Nat × Nat × Nat)
  | .vmovs .. => []
  | .vcvt _ w => cvtSpans w
  | .vrng _ w => rngSpans w
  | .vrsum _ w | .vrmax _ w | .vrmin _ w | .vrargmax _ w =>
    let a := laneAt (etWidth w.etype) w.vd (redLane w)
    [(a.1, a.2, etWidth w.etype)]
  | .vdistIp _ w | .vdistL2 _ w | .vdistHam _ w => spansOf 32 w.vd (distN w)
  | .vadd _ w | .vsub _ w | .vmul _ w | .vfma _ w | .vmin _ w | .vmax _ w | .vabs _ w | .vneg _ w | .vand _ w
  | .vor _ w | .vxor _ w | .vnot _ w | .vshl _ w | .vshr _ w | .vsar _ w | .vcmpeq _ w | .vcmplt _ w
  | .vcmple _ w | .vsel _ w | .vrndi _ w | .vexp2 _ w | .vlog2 _ w | .vrcp _ w | .vrsq _ w | .vtanh _ w
  | .vmov _ w | .vperm _ w | .vrot _ w | .vlmask _ w | .viota _ w | .vins _ w => allSpans w.etype w.vd
  | _ => []

/-- Two spans that share a bit. -/
def spanMeets (s t : Nat × Nat × Nat) : Bool :=
  s.1 == t.1 && decide (s.2.1 < t.2.1 + t.2.2) && decide (t.2.1 < s.2.1 + s.2.2)

/-- Two span lists that share a bit. -/
def spansMeet (s t : List (Nat × Nat × Nat)) : Bool := s.any fun x => t.any fun y => spanMeets x y

/-! ### Bundle rules -/

/-- The least answer of a list of checks. -/
def leastSome : List (Option Nat) → Option Nat
  | [] => none
  | none :: xs => leastSome xs
  | some n :: xs =>
    match leastSome xs with
    | none => some n
    | some m => some (Nat.min n m)

/-- The position of the member of a class beyond its limit. -/
def overLimit (p : Instr → Bool) (n : Nat) (xs : List (Nat × Instr)) : Option Nat :=
  match (xs.filter fun x => p x.2).drop n with
  | [] => none
  | x :: _ => some x.1

/-- The first instruction after another that conflicts with one before it: the lowest position of a second member of a
conflicting pair (log 11). -/
def laterOf (p : Instr → Instr → Bool) : List (Nat × Instr) → Option Nat
  | [] => none
  | x :: xs => leastSome [(xs.find? fun y => p x.2 y.2).map fun y => y.1, laterOf p xs]

/-- The later of two instructions that name one destination (R16), the lowest such where several pairs do (log 11). -/
def dupDest (xs : List (Nat × Instr)) : Option Nat :=
  laterOf (fun x y => (destsOf x).any fun d => (destsOf y).contains d) xs

/-- The instruction that follows a control transfer (R16). -/
def afterTransfer : List (Nat × Instr) → Option Nat
  | [] => none
  | [_] => none
  | x :: y :: xs => if isTransfer x.2 then some y.1 else afterTransfer (y :: xs)

/-- The later of a fence and an instruction that R107 keeps out. -/
def fenceClash (xs : List (Nat × Instr)) : Option Nat :=
  match xs.find? fun x => isFence x.2, xs.find? fun x => notWithFence x.2 with
  | some f, some n => some (Nat.max f.1 n.1)
  | _, _ => none

/-- KVAPP with another instruction (R152). -/
def kvappClash (xs : List (Nat × Instr)) : Option Nat :=
  match xs with
  | x :: y :: _ =>
    if isKvapp x.2 then some y.1
    else
      match xs.find? fun z => isKvapp z.2 with
      | some z => some z.1
      | none => none
  | _ => none

/-- An FPUSH in a later word than the FQCLOSE (R231). -/
def fpushClash (xs : List (Nat × Instr)) : Option Nat :=
  match xs.find? fun x => isFqclose x.2 with
  | none => none
  | some c =>
    match xs.find? fun x => isFpush x.2 && decide (c.1 < x.1) with
    | some x => some x.1
    | none => none

/-- The later of two V-private instructions that write a common element (R210). -/
def vecClash (xs : List (Nat × Instr)) : Option Nat :=
  laterOf (fun x y => spansMeet (writeSpans x) (writeSpans y)) xs

/-- The bundle rules of R16, R107, R152, R183, R210 and R231: the position of the later of the conflicting
instructions (R40), the lowest where several conflict (log 11), or none. -/
def bundleClash (k : Kind) (xs : List (Nat × Instr)) : Option Nat :=
  leastSome
    ([dupDest xs, overLimit isTransfer 1 xs, afterTransfer xs, fenceClash xs] ++
     match k with
     | .a =>
       [overLimit isScalarAccess 2 xs, overLimit isAmo 1 xs, overLimit isRecordChange 1 xs, overLimit isHint 2 xs,
        overLimit isCommand 1 xs, kvappClash xs]
     | .c =>
       [overLimit isScalarAccess 2 xs, overLimit isFpush 2 xs, overLimit isFqclose 1 xs, fpushClash xs,
        overLimit isSystem 1 xs]
     | .m => [overLimit isMatrix 1 xs]
     | .v => [overLimit (fun i => isVecPlain i || isVecSpecial i) 2 xs, overLimit isVecSpecial 1 xs, vecClash xs])

/-! ### Bundles -/

/-- Why a bundle is refused: an illegal encoding at a word position with the word there (R40), or fewer words
than the header asks for. -/
inductive DecodeError where
  | illegal (word : Nat) (bits : Word32)
  | short
  deriving DecidableEq, Repr

/-- A decoded bundle: its header and its instructions with the positions of their first words. -/
structure Bundle where
  hdr : Header
  items : List (Nat × Instr)
  deriving DecidableEq, Repr

/-- One instruction of a bundle, with the value rules. -/
def decodeLegal (k : Kind) (pos : Nat) (w0 w1 : Word32) : Except DecodeError Instr :=
  match decodePair k w0 w1 with
  | none => .error (.illegal pos w0)
  | some i => if legal k i then .ok i else .error (.illegal pos w0)

/-- The instructions of a bundle in word order; they must exactly fill the words (R25, R39). -/
def decodeItems (k : Kind) : Nat → List Word32 → Except DecodeError (List (Nat × Instr))
  | _, [] => .ok []
  | pos, w0 :: rest =>
    if isTwoWord k (fOp w0).toNat then
      match rest with
      | [] => .error (.illegal pos w0)
      | w1 :: rest' =>
        match decodeLegal k pos w0 w1 with
        | .error e => .error e
        | .ok i =>
          match decodeItems k (pos + 2) rest' with
          | .error e => .error e
          | .ok xs => .ok ((pos, i) :: xs)
    else
      match decodeLegal k pos w0 0 with
      | .error e => .error e
      | .ok i =>
        match decodeItems k (pos + 1) rest with
        | .error e => .error e
        | .ok xs => .ok ((pos, i) :: xs)

/-- The word at a position of a bundle, position 0 being the header. -/
def wordAt (hdr : Word32) (ws : List Word32) (pos : Nat) : Word32 :=
  match pos with
  | 0 => hdr
  | n + 1 => ws.getD n 0

/-- A word that is BRK in the shared map. -/
def isBrkWord (w : Word32) : Bool := fOp w == 0 && fFn w == 2

/-- Second words by which the first word of an instruction is judged while its own second word is not at hand: none, one or
two bits of one, and for a format V word every pair of operand directions with every upper part of `xfn`. A first word that
is legal is legal beside one of them (log 105). -/
def secondWords (k : Kind) (w0 : Word32) : List Word32 :=
  let bits := (List.range 32).map fun i => (1#32 <<< i)
  let plain := 0#32 :: bits ++ bits.flatMap fun x => bits.map fun y => x ||| y
  if k = .v ∧ 32 ≤ (fOp w0).toNat then
    plain ++ (List.range 4).flatMap fun da => (List.range 4).flatMap fun db => (List.range 64).map fun x =>
      BitVec.ofNat 32 (da * 2 ^ 27 + db * 2 ^ 16 + x * 2 ^ 4)
  else plain

/-- The instructions that the words of a bundle at hand can be, each with its position, or the first word that breaks R39; the
words may be cut short. -/
def decodePart (k : Kind) : Nat → List Word32 → Except (Nat × Word32) (List (List (Nat × Instr)))
  | _, [] => .ok [[]]
  | pos, w0 :: rest =>
    if isTwoWord k (fOp w0).toNat then
      match rest with
      | [] =>
        match (secondWords k w0).filterMap fun w1 => (decodeLegal k pos w0 w1).toOption with
        | [] => .error (pos, w0)
        | is => .ok (is.map fun i => [(pos, i)])
      | w1 :: rest' =>
        match decodeLegal k pos w0 w1 with
        | .error _ => .error (pos, w0)
        | .ok i => (decodePart k (pos + 2) rest').map fun xs => xs.map fun x => (pos, i) :: x
    else
      match decodeLegal k pos w0 0 with
      | .error _ => .error (pos, w0)
      | .ok i => (decodePart k (pos + 1) rest).map fun xs => xs.map fun x => (pos, i) :: x

/-- The word at hand that breaks R39 while a later word of the bundle is not: the first illegal instruction, else the later
instruction of a bundle rule that is broken whatever the missing words hold (log 105). -/
def itemsIllegal (k : Kind) (pos : Nat) (ws : List Word32) : Option (Nat × Word32) :=
  match decodePart k pos ws with
  | .error x => some x
  | .ok rs =>
    match rs.map (bundleClash k) with
    | some p :: cs => if cs.all fun c => c == some p then (ws[p - pos]?).map fun w => (p, w) else none
    | _ => none

/-- A whole bundle of a strand of kind `k`, judged in the order of R39. A BRK in the first word ends the decoding there,
whatever its guard reads (R74, log 12). -/
def decodeBundle (k : Kind) (hdr : Word32) (ws : List Word32) : Except DecodeError Bundle :=
  let h := decodeHeader hdr
  if headerOk h = false then .error (.illegal 0 hdr)
  else if ws.length ≠ h.words then .error .short
  else
    let w0 := ws.headD 0
    if isBrkWord w0 then
      match decodeLegal k 1 w0 0 with
      | .error e => .error e
      | .ok i => .ok ⟨h, [(1, i)]⟩
    else
      match decodeItems k 1 ws with
      | .error e => .error e
      | .ok xs =>
        match bundleClash k xs with
        | some p => .error (.illegal p (wordAt hdr ws p))
        | none => .ok ⟨h, xs⟩

/-- A bundle from the bytes at its address: total on any bytes. -/
def decodeBytes (k : Kind) (bs : List Byte) : Except DecodeError Bundle :=
  match wordsOf bs with
  | [] => .error .short
  | hdr :: ws => decodeBundle k hdr (ws.take (decodeHeader hdr).words)

/-! ### The opcode table's numbering -/

/-- The eight bytes of an instruction numbered as the opcode table numbers its bits. -/
def tableBytes (w : Nat) : List Byte := (List.range 8).map fun i => BitVec.ofNat 8 (w >>> (8 * i))

/-- The first kind of a list whose map has an instruction at a word pair, with a format of that many words. -/
def firstKind (two : Bool) (w0 w1 : Word32) : List Kind → Option (Kind × Instr)
  | [] => none
  | k :: ks =>
    if isTwoWord k (fOp w0).toNat == two then
      match decodePair k w0 (if two then w1 else 0) with
      | some i => some (k, i)
      | none => firstKind two w0 w1 ks
    else firstKind two w0 w1 ks

/-- The strand kind that the table's word is read for, and its instruction: a one-word row is sought in the
control map first, a two-word row in the access map first. -/
def tableWord (nbits w : Nat) : Option (Kind × Instr) :=
  match wordsOf (tableBytes w) with
  | [w0, w1] =>
    if nbits ≤ 32 then
      match firstKind false w0 w1 [.c, .a, .m, .v] with
      | some x => some x
      | none => firstKind true w0 w1 [.a, .c, .m, .v]
    else firstKind true w0 w1 [.a, .c, .m, .v]
  | _ => none

/-- What the decoder reads from an instruction whose bits are `w` in the opcode table's numbering. -/
def decodeTableWord (nbits w : Nat) : Option Instr := (tableWord nbits w).map Prod.snd

/-! ### The encoder -/

/-- The encoder: the words of an instruction, from the layouts of R29 to R33 and of the instruction entries.
An event has no words. -/
def encode : Instr → List Word32
  | .nop g =>
    [(0x00#6) ++ g ++ 0#18 ++ (0#2)]
  | .halt g =>
    [(0x00#6) ++ g ++ 0#18 ++ (1#2)]
  | .brk g code =>
    [(0x00#6) ++ g ++ 0#6 ++ (code.extractLsb' 6 6) ++ (code.extractLsb' 0 6) ++ (2#2)]
  | .trap g code =>
    [(0x01#6) ++ g ++ 0#6 ++ (code.extractLsb' 6 6) ++ (code.extractLsb' 0 6) ++ (0#2)]
  | .eret g =>
    [(0x01#6) ++ g ++ 0#18 ++ (1#2)]
  | .icsync g scope =>
    [(0x01#6) ++ g ++ 0#12 ++ 0#3 ++ scope ++ (2#2)]
  | .fence g paths scope =>
    [(0x01#6) ++ g ++ 0#6 ++ 0#1 ++ paths ++ 0#3 ++ scope ++ (3#2)]
  | .br g off =>
    [(0x02#6) ++ g ++ 0#18 ++ (0#2),
      off]
  | .call g rd off =>
    [(0x02#6) ++ g ++ rd ++ 0#12 ++ (1#2),
      off]
  | .jr g ra =>
    [(0x03#6) ++ g ++ 0#6 ++ ra ++ 0#6 ++ (0#2)]
  | .callr g rd ra =>
    [(0x03#6) ++ g ++ rd ++ ra ++ 0#6 ++ (1#2)]
  | .ret g ra =>
    [(0x03#6) ++ g ++ 0#6 ++ ra ++ 0#6 ++ (2#2)]
  | .loop g ra blen =>
    [(0x04#6) ++ g ++ 0#6 ++ ra ++ 0#6 ++ (0#2),
      0#8 ++ blen]
  | .loopi g n blen =>
    [(0x04#6) ++ g ++ 0#6 ++ (n.extractLsb' 6 6) ++ (n.extractLsb' 0 6) ++ (1#2),
      0#8 ++ blen]
  | .loopp g ra stg blen =>
    [(0x04#6) ++ g ++ 0#6 ++ ra ++ 0#6 ++ (2#2),
      stg ++ 0#4 ++ blen]
  | .looppi g n stg blen =>
    [(0x04#6) ++ g ++ 0#6 ++ (n.extractLsb' 6 6) ++ (n.extractLsb' 0 6) ++ (3#2),
      stg ++ 0#4 ++ blen]
  | .add g rd ra rb =>
    [(0x05#6) ++ g ++ rd ++ ra ++ rb ++ (0#2)]
  | .sub g rd ra rb =>
    [(0x05#6) ++ g ++ rd ++ ra ++ rb ++ (1#2)]
  | .mul g rd ra rb =>
    [(0x05#6) ++ g ++ rd ++ ra ++ rb ++ (2#2)]
  | .mulh g rd ra rb =>
    [(0x05#6) ++ g ++ rd ++ ra ++ rb ++ (3#2)]
  | .and g rd ra rb =>
    [(0x06#6) ++ g ++ rd ++ ra ++ rb ++ (0#2)]
  | .or g rd ra rb =>
    [(0x06#6) ++ g ++ rd ++ ra ++ rb ++ (1#2)]
  | .xor g rd ra rb =>
    [(0x06#6) ++ g ++ rd ++ ra ++ rb ++ (2#2)]
  | .andn g rd ra rb =>
    [(0x06#6) ++ g ++ rd ++ ra ++ rb ++ (3#2)]
  | .shl g rd ra rb =>
    [(0x07#6) ++ g ++ rd ++ ra ++ rb ++ (0#2)]
  | .shr g rd ra rb =>
    [(0x07#6) ++ g ++ rd ++ ra ++ rb ++ (1#2)]
  | .sar g rd ra rb =>
    [(0x07#6) ++ g ++ rd ++ ra ++ rb ++ (2#2)]
  | .ror g rd ra rb =>
    [(0x07#6) ++ g ++ rd ++ ra ++ rb ++ (3#2)]
  | .addi g rd ra imm =>
    [(0x08#6) ++ g ++ rd ++ ra ++ 0#6 ++ (0#2),
      imm]
  | .andi g rd ra imm =>
    [(0x08#6) ++ g ++ rd ++ ra ++ 0#6 ++ (1#2),
      imm]
  | .ori g rd ra imm =>
    [(0x08#6) ++ g ++ rd ++ ra ++ 0#6 ++ (2#2),
      imm]
  | .xori g rd ra imm =>
    [(0x08#6) ++ g ++ rd ++ ra ++ 0#6 ++ (3#2),
      imm]
  | .li g rd imm =>
    [(0x09#6) ++ g ++ rd ++ 0#12 ++ (0#2),
      imm]
  | .lih g rd imm =>
    [(0x09#6) ++ g ++ rd ++ 0#12 ++ (1#2),
      imm]
  | .shli g rd ra amt =>
    [(0x0A#6) ++ g ++ rd ++ ra ++ amt ++ (0#2)]
  | .shri g rd ra amt =>
    [(0x0A#6) ++ g ++ rd ++ ra ++ amt ++ (1#2)]
  | .sari g rd ra amt =>
    [(0x0A#6) ++ g ++ rd ++ ra ++ amt ++ (2#2)]
  | .rori g rd ra amt =>
    [(0x0A#6) ++ g ++ rd ++ ra ++ amt ++ (3#2)]
  | .min g rd ra rb =>
    [(0x0B#6) ++ g ++ rd ++ ra ++ rb ++ (0#2)]
  | .max g rd ra rb =>
    [(0x0B#6) ++ g ++ rd ++ ra ++ rb ++ (1#2)]
  | .minu g rd ra rb =>
    [(0x0B#6) ++ g ++ rd ++ ra ++ rb ++ (2#2)]
  | .maxu g rd ra rb =>
    [(0x0B#6) ++ g ++ rd ++ ra ++ rb ++ (3#2)]
  | .div g rd ra rb =>
    [(0x0C#6) ++ g ++ rd ++ ra ++ rb ++ (0#2)]
  | .divu g rd ra rb =>
    [(0x0C#6) ++ g ++ rd ++ ra ++ rb ++ (1#2)]
  | .rem g rd ra rb =>
    [(0x0C#6) ++ g ++ rd ++ ra ++ rb ++ (2#2)]
  | .remu g rd ra rb =>
    [(0x0C#6) ++ g ++ rd ++ ra ++ rb ++ (3#2)]
  | .lea1 g rd ra rb =>
    [(0x0D#6) ++ g ++ rd ++ ra ++ rb ++ (0#2)]
  | .lea2 g rd ra rb =>
    [(0x0D#6) ++ g ++ rd ++ ra ++ rb ++ (1#2)]
  | .lea4 g rd ra rb =>
    [(0x0D#6) ++ g ++ rd ++ ra ++ rb ++ (2#2)]
  | .lea8 g rd ra rb =>
    [(0x0D#6) ++ g ++ rd ++ ra ++ rb ++ (3#2)]
  | .cmpeq g pd ra rb =>
    [(0x0E#6) ++ g ++ pd ++ ra ++ rb ++ (0#2)]
  | .cmpne g pd ra rb =>
    [(0x0E#6) ++ g ++ pd ++ ra ++ rb ++ (1#2)]
  | .cmplt g pd ra rb =>
    [(0x0E#6) ++ g ++ pd ++ ra ++ rb ++ (2#2)]
  | .cmpltu g pd ra rb =>
    [(0x0E#6) ++ g ++ pd ++ ra ++ rb ++ (3#2)]
  | .cmpge g pd ra rb =>
    [(0x0F#6) ++ g ++ pd ++ ra ++ rb ++ (0#2)]
  | .cmpgeu g pd ra rb =>
    [(0x0F#6) ++ g ++ pd ++ ra ++ rb ++ (1#2)]
  | .tst g pd ra rb =>
    [(0x0F#6) ++ g ++ pd ++ ra ++ rb ++ (2#2)]
  | .cmpeqi g pd ra imm =>
    [(0x10#6) ++ g ++ pd ++ ra ++ 0#6 ++ (0#2),
      imm]
  | .cmplti g pd ra imm =>
    [(0x10#6) ++ g ++ pd ++ ra ++ 0#6 ++ (1#2),
      imm]
  | .cmpltui g pd ra imm =>
    [(0x10#6) ++ g ++ pd ++ ra ++ 0#6 ++ (2#2),
      imm]
  | .cmpgei g pd ra imm =>
    [(0x10#6) ++ g ++ pd ++ ra ++ 0#6 ++ (3#2),
      imm]
  | .pand g pd pa pb =>
    [(0x11#6) ++ g ++ pd ++ pa ++ pb ++ (0#2)]
  | .por g pd pa pb =>
    [(0x11#6) ++ g ++ pd ++ pa ++ pb ++ (1#2)]
  | .pxor g pd pa pb =>
    [(0x11#6) ++ g ++ pd ++ pa ++ pb ++ (2#2)]
  | .pandn g pd pa pb =>
    [(0x11#6) ++ g ++ pd ++ pa ++ pb ++ (3#2)]
  | .pnot g pd pa =>
    [(0x12#6) ++ g ++ pd ++ pa ++ 0#6 ++ (0#2)]
  | .pset g pd =>
    [(0x12#6) ++ g ++ pd ++ 0#12 ++ (1#2)]
  | .pclr g pd =>
    [(0x12#6) ++ g ++ pd ++ 0#12 ++ (2#2)]
  | .pmov g pd pa =>
    [(0x12#6) ++ g ++ pd ++ pa ++ 0#6 ++ (3#2)]
  | .qmovPush g cmask lane ra =>
    [(0x13#6) ++ g ++ cmask ++ lane ++ ra ++ 0#6 ++ (0#2)]
  | .qmovPop g rd prod lane =>
    [(0x13#6) ++ g ++ rd ++ 0#2 ++ prod ++ lane ++ 0#6 ++ (1#2)]
  | .qpeek g rd prod lane =>
    [(0x13#6) ++ g ++ rd ++ 0#2 ++ prod ++ lane ++ 0#6 ++ (2#2)]
  | .finc g fl scope ord =>
    [(0x14#6) ++ g ++ fl ++ 0#6 ++ scope ++ ord ++ 0#1 ++ (0#2)]
  | .fset g fl ra scope ord =>
    [(0x14#6) ++ g ++ fl ++ ra ++ scope ++ ord ++ 0#1 ++ (1#2)]
  | .fadd g fl ra scope ord =>
    [(0x14#6) ++ g ++ fl ++ ra ++ scope ++ ord ++ 0#1 ++ (2#2)]
  | .frd g rd fl scope ord =>
    [(0x14#6) ++ g ++ rd ++ fl ++ scope ++ ord ++ 0#1 ++ (3#2)]
  | .csrr g rd csr =>
    [(0x15#6) ++ g ++ rd ++ (csr.extractLsb' 6 6) ++ (csr.extractLsb' 0 6) ++ (0#2)]
  | .csrw g csr rs =>
    [(0x15#6) ++ g ++ rs ++ (csr.extractLsb' 6 6) ++ (csr.extractLsb' 0 6) ++ (1#2)]
  | .csrs g csr rs =>
    [(0x15#6) ++ g ++ rs ++ (csr.extractLsb' 6 6) ++ (csr.extractLsb' 0 6) ++ (2#2)]
  | .csrc g csr rs =>
    [(0x15#6) ++ g ++ rs ++ (csr.extractLsb' 6 6) ++ (csr.extractLsb' 0 6) ++ (3#2)]
  | .sext g rd ra width =>
    [(0x16#6) ++ g ++ rd ++ ra ++ width ++ (0#2)]
  | .zext g rd ra width =>
    [(0x16#6) ++ g ++ rd ++ ra ++ width ++ (1#2)]
  | .clz g rd ra =>
    [(0x16#6) ++ g ++ rd ++ ra ++ 0#6 ++ (2#2)]
  | .popc g rd ra =>
    [(0x16#6) ++ g ++ rd ++ ra ++ 0#6 ++ (3#2)]
  | .ld8 g rd ra off =>
    [(0x20#6) ++ g ++ rd ++ ra ++ 0#6 ++ (0#2),
      off]
  | .ld16 g rd ra off =>
    [(0x20#6) ++ g ++ rd ++ ra ++ 0#6 ++ (1#2),
      off]
  | .ld32 g rd ra off =>
    [(0x20#6) ++ g ++ rd ++ ra ++ 0#6 ++ (2#2),
      off]
  | .ld64 g rd ra off =>
    [(0x20#6) ++ g ++ rd ++ ra ++ 0#6 ++ (3#2),
      off]
  | .ldz8 g rd ra off =>
    [(0x21#6) ++ g ++ rd ++ ra ++ 0#6 ++ (0#2),
      off]
  | .ldz16 g rd ra off =>
    [(0x21#6) ++ g ++ rd ++ ra ++ 0#6 ++ (1#2),
      off]
  | .ldz32 g rd ra off =>
    [(0x21#6) ++ g ++ rd ++ ra ++ 0#6 ++ (2#2),
      off]
  | .st8 g ra rs off =>
    [(0x22#6) ++ g ++ 0#6 ++ ra ++ rs ++ (0#2),
      off]
  | .st16 g ra rs off =>
    [(0x22#6) ++ g ++ 0#6 ++ ra ++ rs ++ (1#2),
      off]
  | .st32 g ra rs off =>
    [(0x22#6) ++ g ++ 0#6 ++ ra ++ rs ++ (2#2),
      off]
  | .st64 g ra rs off =>
    [(0x22#6) ++ g ++ 0#6 ++ ra ++ rs ++ (3#2),
      off]
  | .ldq8 g cmask lane ra zx off =>
    [(0x23#6) ++ g ++ cmask ++ lane ++ ra ++ 0#6 ++ (0#2),
      0#7 ++ zx ++ off]
  | .ldq16 g cmask lane ra zx off =>
    [(0x23#6) ++ g ++ cmask ++ lane ++ ra ++ 0#6 ++ (1#2),
      0#7 ++ zx ++ off]
  | .ldq32 g cmask lane ra zx off =>
    [(0x23#6) ++ g ++ cmask ++ lane ++ ra ++ 0#6 ++ (2#2),
      0#7 ++ zx ++ off]
  | .ldq64 g cmask lane ra zx off =>
    [(0x23#6) ++ g ++ cmask ++ lane ++ ra ++ 0#6 ++ (3#2),
      0#7 ++ zx ++ off]
  | .amoAdd g rd ra rb w scope ord =>
    [(0x24#6) ++ g ++ rd ++ ra ++ rb ++ (0#2),
      0#16 ++ 0#1 ++ w ++ scope ++ ord ++ 0#3 ++ 0#6]
  | .amoSwp g rd ra rb w scope ord =>
    [(0x24#6) ++ g ++ rd ++ ra ++ rb ++ (1#2),
      0#16 ++ 0#1 ++ w ++ scope ++ ord ++ 0#3 ++ 0#6]
  | .amoCas g rd ra rb w scope ord cmp =>
    [(0x24#6) ++ g ++ rd ++ ra ++ rb ++ (2#2),
      0#16 ++ 0#1 ++ w ++ scope ++ ord ++ 0#3 ++ cmp]
  | .amoAnd g rd ra rb w scope ord =>
    [(0x24#6) ++ g ++ rd ++ ra ++ rb ++ (3#2),
      0#16 ++ 0#1 ++ w ++ scope ++ ord ++ 0#3 ++ 0#6]
  | .amoOr g rd ra rb w scope ord =>
    [(0x25#6) ++ g ++ rd ++ ra ++ rb ++ (0#2),
      0#16 ++ 0#1 ++ w ++ scope ++ ord ++ 0#3 ++ 0#6]
  | .amoXor g rd ra rb w scope ord =>
    [(0x25#6) ++ g ++ rd ++ ra ++ rb ++ (1#2),
      0#16 ++ 0#1 ++ w ++ scope ++ ord ++ 0#3 ++ 0#6]
  | .amoMin g rd ra rb w scope ord u =>
    [(0x25#6) ++ g ++ rd ++ ra ++ rb ++ (2#2),
      0#16 ++ u ++ w ++ scope ++ ord ++ 0#3 ++ 0#6]
  | .amoMax g rd ra rb w scope ord u =>
    [(0x25#6) ++ g ++ rd ++ ra ++ rb ++ (3#2),
      0#16 ++ u ++ w ++ scope ++ ord ++ 0#3 ++ 0#6]
  | .rldq8 g cmask lane ra zx off acq scope =>
    [(0x26#6) ++ g ++ cmask ++ lane ++ ra ++ 0#6 ++ (0#2),
      scope ++ acq ++ 0#3 ++ zx ++ off]
  | .rldq16 g cmask lane ra zx off acq scope =>
    [(0x26#6) ++ g ++ cmask ++ lane ++ ra ++ 0#6 ++ (1#2),
      scope ++ acq ++ 0#3 ++ zx ++ off]
  | .rldq32 g cmask lane ra zx off acq scope =>
    [(0x26#6) ++ g ++ cmask ++ lane ++ ra ++ 0#6 ++ (2#2),
      scope ++ acq ++ 0#3 ++ zx ++ off]
  | .rldq64 g cmask lane ra zx off acq scope =>
    [(0x26#6) ++ g ++ cmask ++ lane ++ ra ++ 0#6 ++ (3#2),
      scope ++ acq ++ 0#3 ++ zx ++ off]
  | .laydef g ra =>
    [(0x27#6) ++ g ++ 0#6 ++ ra ++ 0#6 ++ (0#2)]
  | .layinv g ra =>
    [(0x27#6) ++ g ++ 0#6 ++ ra ++ 0#6 ++ (1#2)]
  | .pin g rd rp nrow ncol lvl =>
    [(0x28#6) ++ g ++ rd ++ rp ++ 0#6 ++ (0#2),
      0#12 ++ nrow ++ ncol ++ lvl ++ 0#2]
  | .unpin g rp nrow ncol lvl =>
    [(0x28#6) ++ g ++ 0#6 ++ rp ++ 0#6 ++ (1#2),
      0#12 ++ nrow ++ ncol ++ lvl ++ 0#2]
  | .lastuse g rp nrow ncol lvl =>
    [(0x28#6) ++ g ++ 0#6 ++ rp ++ 0#6 ++ (2#2),
      0#12 ++ nrow ++ ncol ++ lvl ++ 0#2]
  | .stream g rp nrow ncol lvl =>
    [(0x28#6) ++ g ++ 0#6 ++ rp ++ 0#6 ++ (3#2),
      0#12 ++ nrow ++ ncol ++ lvl ++ 0#2]
  | .pfit g ra cnt ld itin lvl =>
    [(0x29#6) ++ g ++ 0#6 ++ ra ++ 0#6 ++ (0#2),
      0#16 ++ cnt ++ ld ++ 0#2 ++ itin ++ lvl ++ 0#2]
  | .pfitcan g itin =>
    [(0x29#6) ++ g ++ 0#18 ++ (1#2),
      0#16 ++ 0#8 ++ 0#2 ++ itin ++ 0#2 ++ 0#2]
  | .copy g tok rs rt bx fe fl scope eng =>
    [(0x2A#6) ++ g ++ 0#3 ++ tok ++ rs ++ rt ++ (0#2),
      bx ++ 0#6 ++ fe ++ fl ++ scope ++ eng ++ 0#7]
  | .copyt g tok rs rt bx fe fl scope eng tr =>
    [(0x2A#6) ++ g ++ 0#3 ++ tok ++ rs ++ rt ++ (1#2),
      bx ++ tr ++ fe ++ fl ++ scope ++ eng ++ 0#7]
  | .vrel g rd rp nrow ncol =>
    [(0x2B#6) ++ g ++ rd ++ rp ++ 0#6 ++ (0#2),
      0#12 ++ nrow ++ ncol ++ 0#4]
  | .promote g tok ra rb dr lu =>
    [(0x2C#6) ++ g ++ 0#3 ++ tok ++ ra ++ rb ++ (0#2),
      dr ++ lu ++ 0#25]
  | .kvapp g rd ra kr vr cnt =>
    [(0x2D#6) ++ g ++ rd ++ ra ++ 0#6 ++ (0#2),
      kr ++ vr ++ cnt ++ 0#12]
  | .selTopk g e =>
    [(0x30#6) ++ g ++ 0#3 ++ e.tok ++ e.sa ++ 0#6 ++ (0#2),
      0#12 ++ e.fe ++ e.fl ++ e.scope ++ 0#10]
  | .selSeg g e =>
    [(0x30#6) ++ g ++ 0#3 ++ e.tok ++ e.sa ++ 0#6 ++ (1#2),
      0#12 ++ e.fe ++ e.fl ++ e.scope ++ 0#10]
  | .unmSetup g e =>
    [(0x31#6) ++ g ++ 0#3 ++ e.tok ++ e.sa ++ 0#6 ++ (0#2),
      0#12 ++ e.fe ++ e.fl ++ e.scope ++ 0#10]
  | .unmReg g e =>
    [(0x31#6) ++ g ++ 0#3 ++ e.tok ++ e.sa ++ 0#6 ++ (1#2),
      0#12 ++ e.fe ++ e.fl ++ e.scope ++ 0#10]
  | .unmRound g e =>
    [(0x31#6) ++ g ++ 0#3 ++ e.tok ++ e.sa ++ 0#6 ++ (2#2),
      0#12 ++ e.fe ++ e.fl ++ e.scope ++ 0#10]
  | .unmFree g e =>
    [(0x31#6) ++ g ++ 0#3 ++ e.tok ++ e.sa ++ 0#6 ++ (3#2),
      0#12 ++ e.fe ++ e.fl ++ e.scope ++ 0#10]
  | .rteSetup g e =>
    [(0x32#6) ++ g ++ 0#3 ++ e.tok ++ e.sa ++ 0#6 ++ (0#2),
      0#12 ++ e.fe ++ e.fl ++ e.scope ++ 0#10]
  | .rteCount g e =>
    [(0x32#6) ++ g ++ 0#3 ++ e.tok ++ e.sa ++ 0#6 ++ (1#2),
      0#12 ++ e.fe ++ e.fl ++ e.scope ++ 0#10]
  | .rtePlace g e =>
    [(0x32#6) ++ g ++ 0#3 ++ e.tok ++ e.sa ++ 0#6 ++ (2#2),
      0#12 ++ e.fe ++ e.fl ++ e.scope ++ 0#10]
  | .rteScatter g e =>
    [(0x32#6) ++ g ++ 0#3 ++ e.tok ++ e.sa ++ 0#6 ++ (3#2),
      0#12 ++ e.fe ++ e.fl ++ e.scope ++ 0#10]
  | .rteGather g e =>
    [(0x33#6) ++ g ++ 0#3 ++ e.tok ++ e.sa ++ 0#6 ++ (0#2),
      0#12 ++ e.fe ++ e.fl ++ e.scope ++ 0#10]
  | .collAr g e =>
    [(0x34#6) ++ g ++ 0#3 ++ e.tok ++ e.sa ++ 0#6 ++ (0#2),
      0#12 ++ e.fe ++ e.fl ++ e.scope ++ 0#10]
  | .collAg g e =>
    [(0x34#6) ++ g ++ 0#3 ++ e.tok ++ e.sa ++ 0#6 ++ (1#2),
      0#12 ++ e.fe ++ e.fl ++ e.scope ++ 0#10]
  | .collRs g e =>
    [(0x34#6) ++ g ++ 0#3 ++ e.tok ++ e.sa ++ 0#6 ++ (2#2),
      0#12 ++ e.fe ++ e.fl ++ e.scope ++ 0#10]
  | .collBc g e =>
    [(0x34#6) ++ g ++ 0#3 ++ e.tok ++ e.sa ++ 0#6 ++ (3#2),
      0#12 ++ e.fe ++ e.fl ++ e.scope ++ 0#10]
  | .collA2a g e =>
    [(0x35#6) ++ g ++ 0#3 ++ e.tok ++ e.sa ++ 0#6 ++ (0#2),
      0#12 ++ e.fe ++ e.fl ++ e.scope ++ 0#10]
  | .fencex g frm dst scope =>
    [(0x3F#6) ++ g ++ 0#1 ++ frm ++ 0#1 ++ dst ++ 0#3 ++ scope ++ (0#2)]
  | .fpush g ra =>
    [(0x23#6) ++ g ++ 0#6 ++ ra ++ 0#6 ++ (0#2)]
  | .fqclose g =>
    [(0x23#6) ++ g ++ 0#18 ++ (1#2)]
  | .renq g ra rb =>
    [(0x24#6) ++ g ++ 0#6 ++ ra ++ rb ++ (0#2)]
  | .gbar g fl ra scope =>
    [(0x25#6) ++ g ++ fl ++ ra ++ scope ++ 0#3 ++ (0#2)]
  | .gleave g ra =>
    [(0x25#6) ++ g ++ 0#6 ++ ra ++ 0#6 ++ (1#2)]
  | .gjoin g ra =>
    [(0x25#6) ++ g ++ 0#6 ++ ra ++ 0#6 ++ (2#2)]
  | .gcast g fl ra rb =>
    [(0x25#6) ++ g ++ fl ++ ra ++ rb ++ (3#2)]
  | .prack g rd ra =>
    [(0x26#6) ++ g ++ rd ++ ra ++ 0#6 ++ (0#2)]
  | .hostirq g ra vec =>
    [(0x26#6) ++ g ++ 0#6 ++ ra ++ vec ++ (1#2)]
  | .cube g c =>
    [(0x20#6) ++ g ++ c.msel ++ c.nsel ++ c.pa ++ c.pb ++ c.gor,
      c.pg ++ c.row0 ++ c.col0 ++ c.amode ++ 0#10]
  | .mma g c =>
    [(0x21#6) ++ g ++ c.msel ++ c.nsel ++ c.pa ++ c.pb ++ c.gor,
      c.pg ++ c.row0 ++ c.col0 ++ c.amode ++ 0#10]
  | .ald g rr rp view rm ftz tr ve minv =>
    [(0x22#6) ++ g ++ rr ++ rp ++ 0#6 ++ (0#2),
      view ++ rm ++ ftz ++ tr ++ ve ++ minv ++ 0#15]
  | .ast g rr rp view rm ftz tr ve minv =>
    [(0x22#6) ++ g ++ rr ++ rp ++ 0#6 ++ (1#2),
      view ++ rm ++ ftz ++ tr ++ ve ++ minv ++ 0#15]
  | .aclr g rd dv =>
    [(0x23#6) ++ g ++ rd ++ 0#12 ++ (0#2),
      0#3 ++ dv ++ 0#26]
  | .acvt g rd ra sv dv rm ftz =>
    [(0x23#6) ++ g ++ rd ++ ra ++ 0#6 ++ (1#2),
      sv ++ dv ++ rm ++ ftz ++ 0#22]
  | .acopy g rd ra dv =>
    [(0x23#6) ++ g ++ rd ++ ra ++ 0#6 ++ (2#2),
      0#3 ++ dv ++ 0#26]
  | .atrn g rd ra dv =>
    [(0x23#6) ++ g ++ rd ++ ra ++ 0#6 ++ (3#2),
      0#3 ++ dv ++ 0#26]
  | .vadd g w =>
    [(0x20#6) ++ g ++ w.vd ++ w.etype ++ w.rm ++ w.ftz ++ (0#2),
      w.va ++ w.vb ++ w.xfn]
  | .vsub g w =>
    [(0x20#6) ++ g ++ w.vd ++ w.etype ++ w.rm ++ w.ftz ++ (1#2),
      w.va ++ w.vb ++ w.xfn]
  | .vmul g w =>
    [(0x20#6) ++ g ++ w.vd ++ w.etype ++ w.rm ++ w.ftz ++ (2#2),
      w.va ++ w.vb ++ w.xfn]
  | .vfma g w =>
    [(0x20#6) ++ g ++ w.vd ++ w.etype ++ w.rm ++ w.ftz ++ (3#2),
      w.va ++ w.vb ++ w.xfn]
  | .vmin g w =>
    [(0x21#6) ++ g ++ w.vd ++ w.etype ++ w.rm ++ w.ftz ++ (0#2),
      w.va ++ w.vb ++ w.xfn]
  | .vmax g w =>
    [(0x21#6) ++ g ++ w.vd ++ w.etype ++ w.rm ++ w.ftz ++ (1#2),
      w.va ++ w.vb ++ w.xfn]
  | .vabs g w =>
    [(0x21#6) ++ g ++ w.vd ++ w.etype ++ w.rm ++ w.ftz ++ (2#2),
      w.va ++ w.vb ++ w.xfn]
  | .vneg g w =>
    [(0x21#6) ++ g ++ w.vd ++ w.etype ++ w.rm ++ w.ftz ++ (3#2),
      w.va ++ w.vb ++ w.xfn]
  | .vand g w =>
    [(0x22#6) ++ g ++ w.vd ++ w.etype ++ w.rm ++ w.ftz ++ (0#2),
      w.va ++ w.vb ++ w.xfn]
  | .vor g w =>
    [(0x22#6) ++ g ++ w.vd ++ w.etype ++ w.rm ++ w.ftz ++ (1#2),
      w.va ++ w.vb ++ w.xfn]
  | .vxor g w =>
    [(0x22#6) ++ g ++ w.vd ++ w.etype ++ w.rm ++ w.ftz ++ (2#2),
      w.va ++ w.vb ++ w.xfn]
  | .vnot g w =>
    [(0x22#6) ++ g ++ w.vd ++ w.etype ++ w.rm ++ w.ftz ++ (3#2),
      w.va ++ w.vb ++ w.xfn]
  | .vshl g w =>
    [(0x23#6) ++ g ++ w.vd ++ w.etype ++ w.rm ++ w.ftz ++ (0#2),
      w.va ++ w.vb ++ w.xfn]
  | .vshr g w =>
    [(0x23#6) ++ g ++ w.vd ++ w.etype ++ w.rm ++ w.ftz ++ (1#2),
      w.va ++ w.vb ++ w.xfn]
  | .vsar g w =>
    [(0x23#6) ++ g ++ w.vd ++ w.etype ++ w.rm ++ w.ftz ++ (2#2),
      w.va ++ w.vb ++ w.xfn]
  | .vcmpeq g w =>
    [(0x24#6) ++ g ++ w.vd ++ w.etype ++ w.rm ++ w.ftz ++ (0#2),
      w.va ++ w.vb ++ w.xfn]
  | .vcmplt g w =>
    [(0x24#6) ++ g ++ w.vd ++ w.etype ++ w.rm ++ w.ftz ++ (1#2),
      w.va ++ w.vb ++ w.xfn]
  | .vcmple g w =>
    [(0x24#6) ++ g ++ w.vd ++ w.etype ++ w.rm ++ w.ftz ++ (2#2),
      w.va ++ w.vb ++ w.xfn]
  | .vsel g w =>
    [(0x24#6) ++ g ++ w.vd ++ w.etype ++ w.rm ++ w.ftz ++ (3#2),
      w.va ++ w.vb ++ w.xfn]
  | .vcvt g w =>
    [(0x25#6) ++ g ++ w.vd ++ w.etype ++ w.rm ++ w.ftz ++ (0#2),
      w.va ++ w.vb ++ w.xfn]
  | .vrndi g w =>
    [(0x25#6) ++ g ++ w.vd ++ w.etype ++ w.rm ++ w.ftz ++ (1#2),
      w.va ++ w.vb ++ w.xfn]
  | .vrsum g w =>
    [(0x26#6) ++ g ++ w.vd ++ w.etype ++ w.rm ++ w.ftz ++ (0#2),
      w.va ++ w.vb ++ w.xfn]
  | .vrmax g w =>
    [(0x26#6) ++ g ++ w.vd ++ w.etype ++ w.rm ++ w.ftz ++ (1#2),
      w.va ++ w.vb ++ w.xfn]
  | .vrmin g w =>
    [(0x26#6) ++ g ++ w.vd ++ w.etype ++ w.rm ++ w.ftz ++ (2#2),
      w.va ++ w.vb ++ w.xfn]
  | .vrargmax g w =>
    [(0x26#6) ++ g ++ w.vd ++ w.etype ++ w.rm ++ w.ftz ++ (3#2),
      w.va ++ w.vb ++ w.xfn]
  | .vexp2 g w =>
    [(0x27#6) ++ g ++ w.vd ++ w.etype ++ w.rm ++ w.ftz ++ (0#2),
      w.va ++ w.vb ++ w.xfn]
  | .vlog2 g w =>
    [(0x27#6) ++ g ++ w.vd ++ w.etype ++ w.rm ++ w.ftz ++ (1#2),
      w.va ++ w.vb ++ w.xfn]
  | .vrcp g w =>
    [(0x27#6) ++ g ++ w.vd ++ w.etype ++ w.rm ++ w.ftz ++ (2#2),
      w.va ++ w.vb ++ w.xfn]
  | .vrsq g w =>
    [(0x27#6) ++ g ++ w.vd ++ w.etype ++ w.rm ++ w.ftz ++ (3#2),
      w.va ++ w.vb ++ w.xfn]
  | .vtanh g w =>
    [(0x28#6) ++ g ++ w.vd ++ w.etype ++ w.rm ++ w.ftz ++ (0#2),
      w.va ++ w.vb ++ w.xfn]
  | .vmov g w =>
    [(0x29#6) ++ g ++ w.vd ++ w.etype ++ w.rm ++ w.ftz ++ (0#2),
      w.va ++ w.vb ++ w.xfn]
  | .vperm g w =>
    [(0x29#6) ++ g ++ w.vd ++ w.etype ++ w.rm ++ w.ftz ++ (1#2),
      w.va ++ w.vb ++ w.xfn]
  | .vrot g w =>
    [(0x29#6) ++ g ++ w.vd ++ w.etype ++ w.rm ++ w.ftz ++ (2#2),
      w.va ++ w.vb ++ w.xfn]
  | .vrng g w =>
    [(0x2A#6) ++ g ++ w.vd ++ w.etype ++ w.rm ++ w.ftz ++ (0#2),
      w.va ++ w.vb ++ w.xfn]
  | .vdistIp g w =>
    [(0x2B#6) ++ g ++ w.vd ++ w.etype ++ w.rm ++ w.ftz ++ (0#2),
      w.va ++ w.vb ++ w.xfn]
  | .vdistL2 g w =>
    [(0x2B#6) ++ g ++ w.vd ++ w.etype ++ w.rm ++ w.ftz ++ (1#2),
      w.va ++ w.vb ++ w.xfn]
  | .vdistHam g w =>
    [(0x2B#6) ++ g ++ w.vd ++ w.etype ++ w.rm ++ w.ftz ++ (2#2),
      w.va ++ w.vb ++ w.xfn]
  | .vlmask g w =>
    [(0x2C#6) ++ g ++ w.vd ++ w.etype ++ w.rm ++ w.ftz ++ (0#2),
      w.va ++ w.vb ++ w.xfn]
  | .viota g w =>
    [(0x2C#6) ++ g ++ w.vd ++ w.etype ++ w.rm ++ w.ftz ++ (1#2),
      w.va ++ w.vb ++ w.xfn]
  | .vmovs g w =>
    [(0x2D#6) ++ g ++ w.vd ++ w.etype ++ w.rm ++ w.ftz ++ (0#2),
      w.va ++ w.vb ++ w.xfn]
  | .vins g w =>
    [(0x2D#6) ++ g ++ w.vd ++ w.etype ++ w.rm ++ w.ftz ++ (1#2),
      w.va ++ w.vb ++ w.xfn]
  | .joinMember .. => []
  | .joinBroken .. => []
  | .joinTimeout .. => []
  | .tokenError .. => []
  | .loadReturn .. => []
  | .atomicResponse .. => []
  | .tileFillArrival .. => []
  | .cubePerform .. => []
  | .aldComplete .. => []
  | .vectorComplete .. => []
  | .tileMissTimeout .. => []
  | .alcoveWriteback .. => []
  | .hallFill .. => []
  | .hallForward .. => []
  | .homeRequest .. => []
  | .homePublication .. => []
  | .homeWriteback .. => []
  | .homeRaise .. => []
  | .requestResend .. => []
  | .slotSwap .. => []
  | .pageWalkComplete .. => []
  | .copytRelease .. => []
  | .copyStart .. => []
  | .copyComplete .. => []
  | .markerRemove .. => []
  | .selectionPerform .. => []
  | .landingPerform .. => []
  | .concoursePerform .. => []
  | .countContribution .. => []
  | .routeTimeout .. => []
  | .collectivePerform .. => []
  | .collContribution .. => []
  | .collectiveTimeout .. => []
  | .engineComplete .. => []
  | .groupArrival .. => []
  | .moduleArrival .. => []
  | .remoteFlagUpdate .. => []
  | .pageMigrationCopy .. => []
  | .pageMigrationSwitch .. => []
  | .pageReturn .. => []
  | .schedulerWalk .. => []
  | .launchTake .. => []
  | .hostLaunchTake .. => []
  | .residencyTimeout .. => []
  | .taskStart .. => []
  | .taskRetire .. => []
  | .launchRetire .. => []
  | .preemptGraceExpiry .. => []
  | .cut .. => []
  | .saveComplete .. => []
  | .taskResume .. => []
  | .faultRecord .. => []
  | .contextFaultStop .. => []
  | .ctxCreate .. => []
  | .ctxDestroy .. => []
  | .lqtailWrite .. => []
  | .nqreadWrite .. => []
  | .tqreadWrite .. => []
  | .ctlStop .. => []
  | .ctlResume .. => []
  | .ctlKill .. => []
  | .ctlInvalidate .. => []
  | .debugWindowAccess .. => []
  | .hostRegisterWrite .. => []
  | .traceSample .. => []
  | .clockStep .. => []
  | .unitFailure .. => []
  | .thermalTrip .. => []
  | .moduleReset .. => []
  | .blackboxRearm => []
  | .firmwareUpdate .. => []
  | .attestationReport .. => []
  | .domainConfig .. => []
  | .hbmRetrain .. => []
  | .retrainRequest .. => []
  | .flitReceive .. => []
  | .laneFecWindow .. => []
  | .laneLockLoss .. => []
  | .linkRetrainDone .. => []
  | .fabricTimeout .. => []
  | .instructionFetch .. => []
  | .writeAcknowledgement .. => []
  | .regionInstructionComplete .. => []
  | .stackRetrainingDone .. => []

/-- The strand kinds in whose maps an instruction stands (R34 to R38); an event stands in none. -/
def Instr.kinds : Instr → List Kind
  | .nop .. | .halt .. | .brk .. | .trap .. | .eret .. | .icsync .. | .fence .. | .br .. | .call .. | .jr ..
  | .callr .. | .ret .. | .loop .. | .loopi .. | .loopp .. | .looppi .. | .add .. | .sub .. | .mul ..
  | .mulh .. | .and .. | .or .. | .xor .. | .andn .. | .shl .. | .shr .. | .sar .. | .ror .. | .addi ..
  | .andi .. | .ori .. | .xori .. | .li .. | .lih .. | .shli .. | .shri .. | .sari .. | .rori .. | .min ..
  | .max .. | .minu .. | .maxu .. | .div .. | .divu .. | .rem .. | .remu .. | .lea1 .. | .lea2 .. | .lea4 ..
  | .lea8 .. | .cmpeq .. | .cmpne .. | .cmplt .. | .cmpltu .. | .cmpge .. | .cmpgeu .. | .tst .. | .cmpeqi ..
  | .cmplti .. | .cmpltui .. | .cmpgei .. | .pand .. | .por .. | .pxor .. | .pandn .. | .pnot .. | .pset ..
  | .pclr .. | .pmov .. | .qmovPush .. | .qmovPop .. | .qpeek .. | .finc .. | .fset .. | .fadd .. | .frd ..
  | .csrr .. | .csrw .. | .csrs .. | .csrc .. | .sext .. | .zext .. | .clz .. | .popc .. => Kind.all
  | .ld8 .. | .ld16 .. | .ld32 .. | .ld64 .. | .ldz8 .. | .ldz16 .. | .ldz32 .. | .st8 .. | .st16 .. | .st32 ..
  | .st64 .. | .ldq8 .. | .ldq16 .. | .ldq32 .. | .ldq64 .. | .amoAdd .. | .amoSwp .. | .amoCas .. | .amoAnd ..
  | .amoOr .. | .amoXor .. | .amoMin .. | .amoMax .. | .rldq8 .. | .rldq16 .. | .rldq32 .. | .rldq64 ..
  | .laydef .. | .layinv .. | .pin .. | .unpin .. | .lastuse .. | .stream .. | .pfit .. | .pfitcan ..
  | .copy .. | .copyt .. | .vrel .. | .promote .. | .kvapp .. | .selTopk .. | .selSeg .. | .unmSetup ..
  | .unmReg .. | .unmRound .. | .unmFree .. | .rteSetup .. | .rteCount .. | .rtePlace .. | .rteScatter ..
  | .rteGather .. | .collAr .. | .collAg .. | .collRs .. | .collBc .. | .collA2a .. | .fencex .. => [.a]
  | .fpush .. | .fqclose .. | .renq .. | .gbar .. | .gleave .. | .gjoin .. | .gcast .. | .prack ..
  | .hostirq .. => [.c]
  | .cube .. | .mma .. | .ald .. | .ast .. | .aclr .. | .acvt .. | .acopy .. | .atrn .. => [.m]
  | .vadd .. | .vsub .. | .vmul .. | .vfma .. | .vmin .. | .vmax .. | .vabs .. | .vneg .. | .vand .. | .vor ..
  | .vxor .. | .vnot .. | .vshl .. | .vshr .. | .vsar .. | .vcmpeq .. | .vcmplt .. | .vcmple .. | .vsel ..
  | .vcvt .. | .vrndi .. | .vrsum .. | .vrmax .. | .vrmin .. | .vrargmax .. | .vexp2 .. | .vlog2 .. | .vrcp ..
  | .vrsq .. | .vtanh .. | .vmov .. | .vperm .. | .vrot .. | .vrng .. | .vdistIp .. | .vdistL2 ..
  | .vdistHam .. | .vlmask .. | .viota .. | .vmovs .. | .vins .. => [.v]
  | .joinMember .. | .joinBroken .. | .joinTimeout .. | .tokenError .. | .loadReturn .. | .atomicResponse ..
  | .tileFillArrival .. | .cubePerform .. | .aldComplete .. | .vectorComplete .. | .tileMissTimeout ..
  | .alcoveWriteback .. | .hallFill .. | .hallForward .. | .homeRequest .. | .homePublication ..
  | .homeWriteback .. | .homeRaise .. | .requestResend .. | .slotSwap .. | .pageWalkComplete ..
  | .copytRelease .. | .copyStart .. | .copyComplete .. | .markerRemove .. | .selectionPerform ..
  | .landingPerform .. | .concoursePerform .. | .countContribution .. | .routeTimeout ..
  | .collectivePerform .. | .collContribution .. | .collectiveTimeout .. | .engineComplete ..
  | .groupArrival .. | .moduleArrival .. | .remoteFlagUpdate .. | .pageMigrationCopy ..
  | .pageMigrationSwitch .. | .pageReturn .. | .schedulerWalk .. | .launchTake .. | .hostLaunchTake ..
  | .residencyTimeout .. | .taskStart .. | .taskRetire .. | .launchRetire .. | .preemptGraceExpiry .. | .cut ..
  | .saveComplete .. | .taskResume .. | .faultRecord .. | .contextFaultStop .. | .ctxCreate .. | .ctxDestroy ..
  | .lqtailWrite .. | .nqreadWrite .. | .tqreadWrite .. | .ctlStop .. | .ctlResume .. | .ctlKill ..
  | .ctlInvalidate .. | .debugWindowAccess .. | .hostRegisterWrite .. | .traceSample .. | .clockStep ..
  | .unitFailure .. | .thermalTrip .. | .moduleReset .. | .blackboxRearm .. | .firmwareUpdate ..
  | .attestationReport .. | .domainConfig .. | .hbmRetrain .. | .retrainRequest .. | .flitReceive ..
  | .laneFecWindow .. | .laneLockLoss .. | .linkRetrainDone .. | .fabricTimeout .. | .instructionFetch ..
  | .writeAcknowledgement .. | .regionInstructionComplete .. | .stackRetrainingDone .. => []

end Sys2Proof
end

