-- ==== Sys2Proof/Machine/Ops.lean ====
section
/-! DEFINITION. The named operations over units, registers, traps, faults, physical memory and translation
that the meanings share (01, 05, 11, 18). Taking a trap and returning from one stand here. -/

namespace Sys2Proof.Machine

/-- What a step answers. -/
abbrev Out := Host.Outcome State Fault Refusal

/-! ### Units -/

/-- The core of a number: 160 × die + 16 × cluster + core. -/
def State.core (s : State) (n : Nat) : Core := tget {} s.cores n

/-- The state with a core replaced. -/
def State.setCore (s : State) (n : Nat) (c : Core) : State := { s with cores := tput s.cores n c }

/-- The cluster of a package number, 10 × die + cluster. -/
def State.cluster (s : State) (n : Nat) : Cluster := tget {} s.clusters n

/-- The state with a cluster replaced. -/
def State.setCluster (s : State) (n : Nat) (c : Cluster) : State := { s with clusters := tput s.clusters n c }

/-- The die of a number. -/
def State.die (s : State) (n : Nat) : Die := tget {} s.dies n

/-- The state with a die replaced. -/
def State.setDie (s : State) (n : Nat) (d : Die) : State := { s with dies := tput s.dies n d }

/-- The cluster of a core number. -/
def coreCluster (n : Nat) : Nat := n / 16

/-- The die of a core number. -/
def coreDie (n : Nat) : Nat := n / 160

/-- The strand of a kind. -/
def Core.strand (c : Core) : Kind → Strand
  | .a => c.a
  | .c => c.c
  | .m => c.m
  | .v => c.v

/-- The core with one strand replaced. -/
def Core.setStrand (c : Core) (k : Kind) (st : Strand) : Core :=
  match k with
  | .a => { c with a := st }
  | .c => { c with c := st }
  | .m => { c with m := st }
  | .v => { c with v := st }

/-- The state with one strand of a core changed. -/
def State.modStrand (s : State) (n : Nat) (k : Kind) (f : Strand → Strand) : State :=
  s.setCore n ((s.core n).setStrand k (f ((s.core n).strand k)))

/-- The state with a core changed. -/
def State.modCore (s : State) (n : Nat) (f : Core → Core) : State := s.setCore n (f (s.core n))

/-- The state with a cluster changed. -/
def State.modCluster (s : State) (n : Nat) (f : Cluster → Cluster) : State := s.setCluster n (f (s.cluster n))

/-- The state with a die changed. -/
def State.modDie (s : State) (n : Nat) (f : Die → Die) : State := s.setDie n (f (s.die n))

/-- `strand.id` of a strand (R14). -/
def strandId (s : State) (n : Nat) (k : Kind) : Word :=
  BitVec.ofNat 64 (s.modNum.toNat * 4096 + (n / 160) * 1024 + (n / 16 % 10) * 64 + (n % 16) * 4 + k.code)

/-- The package cycle counter as a word. -/
def State.counter (s : State) : Word := BitVec.ofNat 64 s.now

/-- A context that is live. -/
def State.ctx? (s : State) (id : BitVec 12) : Option Context := s.ctxs.find? fun c => c.id == id

/-- The state with a live context changed. -/
def State.modCtx (s : State) (id : BitVec 12) (f : Context → Context) : State :=
  { s with ctxs := s.ctxs.map fun c => if c.id == id then f c else c }

/-- A task by its number. -/
def State.task? (s : State) (id : Nat) : Option Task := s.tasks.find? fun t => t.id == id

/-- The state with a task changed. -/
def State.modTask (s : State) (id : Nat) (f : Task → Task) : State :=
  { s with tasks := s.tasks.map fun t => if t.id == id then f t else t }

/-- A launch by its number. -/
def State.launch? (s : State) (id : Nat) : Option Launch := s.launches.find? fun l => l.id == id

/-- The state with a launch changed. -/
def State.modLaunch (s : State) (id : Nat) (f : Launch → Launch) : State :=
  { s with launches := s.launches.map fun l => if l.id == id then f l else l }

/-- A fresh identifier. -/
def State.takeId (s : State) : Nat × State := (s.nextId, { s with nextId := s.nextId + 1 })

/-- A free choice of the device (log 4). -/
def State.takeBool (s : State) : Bool × State := (Config.freeBool s.fresh, { s with fresh := s.fresh + 1 })

/-! ### Scalar registers and predicates (R9 to R11) -/

/-- The physical register of a name (R9). -/
def Strand.physReg (st : Strand) (n : BitVec 6) : Nat :=
  if n.toNat < 32 then n.toNat else 32 + (n.toNat - 32 + st.sbase.toNat) % 32

/-- The physical predicate of a name (R10). -/
def Strand.physPred (st : Strand) (n : BitVec 6) : Nat :=
  if n.toNat < 48 then n.toNat else 48 + (n.toNat - 48 + st.pbase.toNat) % 16

/-- A scalar register as read (R9): `s0` reads as zero. -/
def Strand.reg (st : Strand) (n : BitVec 6) : Word := if n = 0 then 0 else tget 0 st.regs (st.physReg n)

/-- A physical register written; register 0 takes no value (R9). -/
def Strand.setPhys (st : Strand) (p : Nat) (x : Word) : Strand :=
  if p = 0 then st else { st with regs := tset 0 st.regs p x }

/-- A predicate as read (R10): `p0` reads as 1. -/
def Strand.pred (st : Strand) (n : BitVec 6) : Bool := if n = 0 then true else st.preds.getLsbD (st.physPred n)

/-- Predicates with one physical bit written. -/
def setBit64 (x : BitVec 64) (p : Nat) (b : Bool) : BitVec 64 :=
  if b then x ||| (1#64 <<< p) else x &&& ~~~(1#64 <<< p)

/-- A physical predicate written; predicate 0 takes no value (R10). -/
def Strand.setPredPhys (st : Strand) (p : Nat) (b : Bool) : Strand :=
  if p = 0 then st else { st with preds := setBit64 st.preds p b }

/-- One rotation of the windows (R11). -/
def Strand.rotate (st : Strand) : Strand := { st with sbase := st.sbase - 1, pbase := st.pbase - 1 }

/-! ### The acting strand -/

/-- The acting strand as it stood before the cycle: what every source is read from (R5, R16, R20). -/
def State.pre (s : State) : Strand := s.issue.pre.strand s.issue.kind

/-- The acting core as it stands, to which effects are applied. -/
def State.live (s : State) : Core := s.core s.issue.core

/-- The state with the acting core changed. -/
def State.modLive (s : State) (f : Core → Core) : State := s.setCore s.issue.core (f s.live)

/-- The state with the acting strand changed. -/
def State.modActing (s : State) (f : Strand → Strand) : State := s.modStrand s.issue.core s.issue.kind f

/-- A source register of the acting strand. -/
def State.rd (s : State) (n : BitVec 6) : Word := s.pre.reg n

/-- A source predicate of the acting strand. -/
def State.rdPred (s : State) (n : BitVec 6) : Bool := s.pre.pred n

/-- The acting strand with a destination register written, through the window as it stood before the cycle. -/
def State.wr (s : State) (n : BitVec 6) (x : Word) : State :=
  s.modActing fun st => st.setPhys (if n = 0 then 0 else s.pre.physReg n) x

/-- The acting strand with a destination predicate written. -/
def State.wrPred (s : State) (n : BitVec 6) (b : Bool) : State :=
  s.modActing fun st => st.setPredPhys (if n = 0 then 0 else s.pre.physPred n) b

/-- A register that waits for data (R155, R227). -/
def State.isPending (s : State) (n : BitVec 6) : Bool := n != 0 && s.pre.pend.contains (s.pre.physReg n)

/-- The state with the verdict of the bundle in issue. -/
def State.setVerdict (s : State) (v : Verdict) : State := { s with issue := { s.issue with verdict := v } }

/-- The bundle is held back by a condition of R16: it has no effect and waits. -/
def hold (s : State) : Out := .next (s.setVerdict .held)

/-- An instruction under its guard (R10): where the guard reads 0 it has no effect at all. -/
def guarded (g : BitVec 6) (s : State) (f : State → Out) : Out := if s.rdPred g then f s else .next s

/-- The registers that an instruction reads or writes must not be pending (R16, R155). -/
def ready (s : State) (ns : List (BitVec 6)) (x : Out) : Out := if ns.any s.isPending then hold s else x

/-- The acting strand with sticky bits set (R15), which no write of the same bundle undoes (R103). -/
def State.raiseSticky (s : State) (b : BitVec 7) : State :=
  let t := s.modActing fun st => { st with sticky := st.sticky ||| b }
  { t with issue := { t.issue with raised := t.issue.raised ||| b } }

/-! ### Faults and traps (05, 11) -/

/-- The head word of `fq` for a fault record (R268). -/
def Core.fqHead (c : Core) : Word :=
  match c.fq with
  | [] => 0
  | w :: _ => w.w

/-- A fault record posted to the collector of a context (R267). -/
def State.postFault (s : State) (ctx : BitVec 12) (code reason : Nat) (unit pc val fqw : Word) : State :=
  { s with posts := s.posts ++
      [{ code := BitVec.ofNat 8 code, reason := BitVec.ofNat 8 reason, more := 0, ctx := ctx, unit := unit, pc := pc,
         val := val, time := s.counter, fqw := fqw }] }

/-- The strand stopped (R23), with the state that it leaves. -/
def Strand.stop (st : Strand) : Strand :=
  if st.mode = .stopped then st else { st with mode := .stopped, was := st.mode }

/-- A fault that a strand raises: posted, and the strand stops (R267, log 17). -/
def State.strandFault (s : State) (n : Nat) (k : Kind) (code reason : Nat) (pc val fqw : Word) : State :=
  let t := s.postFault (s.core n).ctx code reason (strandId s n k) pc val fqw
  t.modStrand n k Strand.stop

/-- The register `strand.cause` (R121). -/
def causeWord (word : Nat) (post : Bool) (code : Nat) : Word :=
  BitVec.ofNat 64 (word % 8 * 512 + (if post then 256 else 0) + code % 64)

/-- Trap entry through a vector (R124, R125): the saved program counter, cause and value, the trapped state and the
vector, or the double-trap or no-handler fault. `base` is the trapping bundle. -/
def trapEntryVia (vec : Word) (s : State) (n : Nat) (k : Kind) (code : Nat) (tval epcv base : Word) (word : Nat)
    (post : Bool) : State :=
  if ((s.core n).strand k).mode = .trapped then s.strandFault n k 4 0 epcv (BitVec.ofNat 64 code) 0
  else if vec = 0 then s.strandFault n k 5 0 base (BitVec.ofNat 64 code) 0
  else
    s.modStrand n k fun st =>
      { st with epc := epcv, cause := causeWord word post code, tval := tval, mode := .trapped, pc := vec,
                joinSince := none, fetchSince := none }

/-- Trap entry through the strand's vector. -/
def trapEntry (s : State) (n : Nat) (k : Kind) (code : Nat) (tval epcv base : Word) (word : Nat) (post : Bool) :
    State :=
  trapEntryVia ((s.core n).strand k).trapvec s n k code tval epcv base word post

/-- Trap entry after issue (R17): through the vector as it stood before the bundle, whatever the bundle writes into it
(R12, log 95). -/
def trapAfter (s : State) (code : Nat) (tval epcv : Word) : State :=
  trapEntryVia s.pre.trapvec s s.issue.core s.issue.kind code tval epcv s.issue.base s.issue.pos true

/-- Return from a trap (R77): the saved address as it stood before the bundle, and the running state. -/
def trapReturn (s : State) (n : Nat) (k : Kind) (epcv : Word) : State :=
  s.modStrand n k fun st => { st with pc := epcv, mode := .running }

/-- A trap that the instruction at the current position raises at issue (R17, R122): the bundle has no effect, the
trap is entered with the bundle's address saved. -/
def trapAt (s : State) (code : Nat) (tval : Word) : Out :=
  .next ((trapEntry s s.issue.core s.issue.kind code tval s.issue.base s.issue.base s.issue.pos false).setVerdict
    .trapped)

/-- The trap value of an illegal instruction (R40). -/
def illegalTval (word : Nat) (bits : Word32) : Word := BitVec.ofNat 64 (word % 8 * 2 ^ 32) ||| bits.zeroExtend 64

/-- The illegal-instruction trap of the current instruction, whose first word is encoded again for `tval`. -/
def illegalAt (s : State) (i : Instr) : Out := trapAt s 0 (illegalTval s.issue.pos ((encode i).headD 0))

/-- A fault that the instruction at the current position raises at issue (R269): posted, nothing performed. -/
def faultAt (s : State) (code reason : Nat) (val fqw : Word) : Out :=
  .next ((s.strandFault s.issue.core s.issue.kind code reason s.issue.base val fqw).setVerdict .faulted)

/-- The acting strand's program counter moved by a control transfer. -/
def State.jump (s : State) (t : Word) : State :=
  let u := s.modActing fun st => { st with pc := t }
  { u with issue := { u.issue with taken := true } }

/-- The bits that a program counter has (R8). -/
def pcMask : Word := 0x000F_FFFF_FFFF_FFFC

/-- The address after the bundle in issue, B + 4 × (1 + w) (R8). -/
def State.nextPc (s : State) : Word :=
  (s.issue.base + BitVec.ofNat 64 (4 * (1 + s.issue.words))) &&& pcMask

/-! ### Hardware loops (R82, R84) -/

/-- A loop level. -/
def Strand.loop (st : Strand) (n : Nat) : LoopLevel := tget {} st.loops n

/-- The strand with a loop level replaced. -/
def Strand.setLoop (st : Strand) (n : Nat) (l : LoopLevel) : Strand := { st with loops := tset {} st.loops n l }

/-- The `act` bit of a level. -/
def LoopLevel.act (l : LoopLevel) : Bool := l.endReg.getLsbD 63

/-- The `pipe` bit of a level. -/
def LoopLevel.pipe (l : LoopLevel) : Bool := l.endReg.getLsbD 62

/-- The `stg` field of a level. -/
def LoopLevel.stg (l : LoopLevel) : Nat := (l.endReg.extractLsb' 56 4).toNat

/-- The end address of a level. -/
def LoopLevel.endAddr (l : LoopLevel) : Word := l.endReg &&& 0x000F_FFFF_FFFF_FFFC#64

/-- The depth of the stack: the active levels from 0 up to the first inactive one (R82). -/
def Strand.loopDepth (st : Strand) : Nat :=
  if !(st.loop 0).act then 0
  else if !(st.loop 1).act then 1
  else if !(st.loop 2).act then 2
  else if !(st.loop 3).act then 3
  else 4

/-- A level ended. -/
def Strand.endLoop (st : Strand) (n : Nat) : Strand :=
  st.setLoop n { st.loop n with endReg := (st.loop n).endReg &&& 0x7FFF_FFFF_FFFF_FFFF#64 }

/-- A stage predicate written by name (R83, R84). -/
def Strand.setStage (st : Strand) (n : Nat) (b : Bool) : Strand :=
  st.setPredPhys (st.physPred (BitVec.ofNat 6 n)) b

/-- The loop-back check of R84 after a bundle at `base` that took no transfer and whose next sequential address is
`next`: the strand with its loop levels, windows and program counter. `q` has the levels as the bundle found them, by
which the check decides, and `st` is the strand that the check updates after the bundle's own writes (R12, R82, R103,
log 95). `fuel` is the depth left to check. -/
def loopBack (base next : Word) : Nat → Strand → Strand → Strand
  | 0, _, st => { st with pc := next }
  | fuel + 1, q, st =>
    match q.loopDepth with
    | 0 => { st with pc := next }
    | d + 1 =>
      let l := q.loop d
      if l.start ≤ base && base < l.endAddr && next == l.endAddr then
        let st1 := if l.pipe then st.rotate else st
        if l.count = 0 then loopBack base next fuel (q.endLoop d) (st1.endLoop d)
        else
          let st2 := st1.setLoop d { st1.loop d with count := l.count - 1 }
          let st3 := if l.pipe then st2.setStage 48 (decide (l.stg ≤ (l.count - 1).toNat)) else st2
          { st3 with pc := l.start }
      else { st with pc := next }

/-- The innermost active level's body holds an address (R85). -/
def insideLoop (b : Word) (st : Strand) : Bool :=
  match st.loopDepth with
  | 0 => false
  | d + 1 => (st.loop d).start ≤ b && b < (st.loop d).endAddr

/-- The end of the levels that a taken BR or JR leaves (R85), by the levels `q` that its bundle found: from the innermost on up to
the first that contains the target. That an outer level which does not contain it goes on behind that one is the model's choice
(log 96). -/
def leaveLoops (t : Word) : Nat → Strand → Strand → Strand
  | 0, _, st => st
  | fuel + 1, q, st =>
    match q.loopDepth with
    | 0 => st
    | d + 1 =>
      if (q.loop d).start ≤ t && t < (q.loop d).endAddr then st
      else leaveLoops t fuel (q.endLoop d) (st.endLoop d)

/-! ### Physical memory (R344, R349, R350) -/

/-- What an address range holds (R344). -/
inductive MemKind where
  | hbm | far | host
  | peer (m : Nat)
  | unassigned
  deriving DecidableEq, Repr

/-- The range of a physical address (R344, R393, log 18). -/
def memKind (s : State) (pa : Nat) : MemKind :=
  if pa < 0x9000000000 then .hbm
  else if 0x4000000000000 ≤ pa && pa < 0x4000000000000 + min Config.farGiB 4096 * 2 ^ 30 then .far
  else if 0x6000000000000 ≤ pa && pa < 0x7000000000000 then .host
  else if 0x8000000000000 ≤ pa && pa < 0xA000000000000 then
    let m := (pa - 0x8000000000000) / 2 ^ 40
    if m < s.domSize && m != s.modNum.toNat && decide ((pa - 0x8000000000000) % 2 ^ 40 < 0x9000000000) then .peer m
    else .unassigned
  else .unassigned

/-- The size of the granule in which an address stands (R256). -/
def granuleSize (pa : Nat) : Nat := if 0x6000000000000 ≤ pa ∧ pa < 0x7000000000000 then 8 else 32

/-- The address of the granule in which an address stands. -/
def granuleBase (pa : Nat) : Nat := pa - pa % granuleSize pa

/-- The addresses of the granules that an access touches. -/
def granules (pa n : Nat) : List Nat :=
  let k := granuleSize pa
  if n = 0 then [] else (List.range ((pa + n - 1) / k - pa / k + 1)).map fun i => k * (pa / k + i)

/-- The first poisoned granule that an access touches. -/
def poisonIn (s : State) (pa n : Nat) : Option Nat :=
  if s.poison.isEmpty then none else (granules pa n).find? fun g => s.poison.contains g

/-- Some Hennil link of the module is up or in training, so that a route to its peers remains (R400, log 26). -/
def routed (s : State) : Bool := s.dies.any fun d => d.2.ports.any fun p => p.2.st != 0

/-- An address of a peer that no route reaches (R393). -/
def unreachable (s : State) (pa : Nat) : Bool :=
  decide (0x8000000000000 ≤ pa) && memKind s pa != .unassigned && !routed s

/-- The pseudo-channel of a stack at which an address of a 2 MiB slot stands (R345). -/
def hbmChannel (slot pa : Nat) : Nat := 8 * (slot % 4) + Nat.xor (bitsAt pa 8 3) (slot / 4 % 8)

/-- The peer module that an address lies in (R393). -/
def peerOf (s : State) (pa : Nat) : Option Nat :=
  match memKind s pa with
  | .peer m => some m
  | _ => none

/-- The home gallery of a peer's address, of a peer that has exchanged no slots (R345, log 122). -/
def peerGallery (pa : Nat) : Nat :=
  let a := (pa - 0x8000000000000) % 2 ^ 40
  32 * (a / 2 ^ 21 % 12) + hbmChannel (a / 2 ^ 21 / 12) a

/-- A read of bytes: the bytes, or the address that failed: an uncorrectable granule (R349), or a peer that no route
reaches (R393). -/
def readPhys (s : State) (pa n : Nat) : Except Nat (List Byte) :=
  if unreachable s pa then .error pa
  else
    match poisonIn s pa n with
    | some g => .error g
    | none => .ok (readBytes s.mem pa n)

/-- The 256-byte blocks that an access touches. -/
def blocksOf (pa n : Nat) : List Nat :=
  if n = 0 then [] else (List.range ((pa + n - 1) / 256 - pa / 256 + 1)).map fun i => pa / 256 + i

/-- The zero bits after a write through a page with or without `z` (R350). -/
def zerosAfter (mem : List Host.Cell) (z : Bool) (bs : List Nat) (zs : List Nat) : List Nat :=
  bs.foldl
    (fun acc b =>
      let rest := acc.filter fun x => x != b
      if z && (readBytes mem (256 * b) 256).all (fun y => y == 0) then rest ++ [b] else rest)
    zs

/-- A write of bytes with no poison on its way. `z` is the page's attribute of R350. -/
def writeClean (z : Bool) (s : State) (pa : Nat) (bs : List Byte) : State :=
  let m := writeBytes s.mem pa bs
  { s with mem := m, zeros := if z || !s.zeros.isEmpty then zerosAfter m z (blocksOf pa bs.length) s.zeros else s.zeros }

/-- One granule's part of a write: the whole granule clears its poison, a part of a poisoned one is dropped
(R349). The answer names a granule whose part was dropped. -/
def writeGranule (z : Bool) (s : State) (pa : Nat) (bs : List Byte) (g : Nat) : State × Option Nat :=
  let lo := Nat.max pa g
  let hi := Nat.min (pa + bs.length) (g + granuleSize g)
  let part := (bs.drop (lo - pa)).take (hi - lo)
  if s.poison.contains g then
    if hi - lo = granuleSize g then
      (writeClean z { s with poison := s.poison.filter fun x => x != g } lo part, none)
    else (s, some g)
  else (writeClean z s lo part, none)

/-- A write of bytes at their home, granule by granule (R256, R349). -/
def writeHome (z : Bool) (s : State) (pa : Nat) (bs : List Byte) : State × Option Nat :=
  if s.poison.isEmpty then (writeClean z s pa bs, none)
  else
    (granules pa bs.length).foldl
      (fun acc g =>
        let r := writeGranule z acc.1 pa bs g
        (r.1, acc.2.or r.2))
      (s, none)

/-- The bits of the 256-byte lines of a 16 KiB frame that an access touches (R364). -/
def lineBits (frame pa n : Nat) : BitVec 64 :=
  (blocksOf pa n).foldl
    (fun x b => if frame / 256 ≤ b ∧ b < frame / 256 + 64 then x ||| (1#64 <<< (b - frame / 256)) else x) 0

/-- An address inside a 16 KiB frame. -/
def inFrame (frame pa : Nat) : Bool := decide (frame ≤ pa) && decide (pa < frame + 0x4000)

/-- A granule copied to another address, its poison with it (R349). -/
def copyGranule (z : Bool) (s : State) (a b : Nat) : State :=
  if s.poison.contains a then (if s.poison.contains b then s else { s with poison := s.poison ++ [b] })
  else (writeHome z s b (readBytes s.mem a 32)).1

/-- A 256-byte line copied to another address (R364). -/
def copyLine (z : Bool) (s : State) (a b : Nat) : State :=
  (List.range 8).foldl (fun t j => copyGranule z t (a + 32 * j) (b + 32 * j)) s

/-- The lines that a write has touched in one frame brought to another: both then hold the write, and a line that was not
yet copied is copied with it (R364). -/
def copyTouched (z : Bool) (s : State) (a b pa n : Nat) : State :=
  (blocksOf pa n).foldl (fun t i => if inFrame a (256 * i) then copyLine z t (256 * i) (b + (256 * i - a)) else t) s

/-- A write seen by one page move once it is performed where it was addressed (R364, R365): brought to the other frame
while the page is copied, switched or returned, noted once it is resident. -/
def mirrorWrite (z : Bool) (pa : Nat) (bs : List Byte) (acc : State × List PageMove) (m : PageMove) :
    State × List PageMove :=
  let two := m.st == .switching || m.st == .returning
  if (two || m.st == .copying) && inFrame m.old pa then
    (copyTouched z acc.1 m.old m.new pa bs.length,
     acc.2 ++ [{ m with copied := m.copied ||| lineBits m.old pa bs.length }])
  else if two && inFrame m.new pa then
    (copyTouched z acc.1 m.new m.old pa bs.length,
     acc.2 ++ [{ m with copied := m.copied ||| lineBits m.new pa bs.length }])
  else if m.st == .resident && inFrame m.new pa then
    (acc.1, acc.2 ++ [{ m with wrote := m.wrote ||| lineBits m.new pa bs.length }])
  else (acc.1, acc.2 ++ [m])

/-- A write of bytes to physical memory, with the frames of page moves (R349, R364). The answer names a granule whose
part was dropped, or a peer's address that no route reaches. -/
def writePhys (z : Bool) (s : State) (pa : Nat) (bs : List Byte) : State × Option Nat :=
  let r := writeHome z s pa bs
  if unreachable s pa then (s, some pa)
  else if s.moves.isEmpty then r
  else
    let t := s.moves.foldl (mirrorWrite z pa bs) (r.1, [])
    ({ t.1 with moves := t.2 }, r.2)

/-- The fault of an access that failed at an address: fabric-unreachable for a peer without a route (R393, R410), else
the data error `code` of the unit. -/
def State.dataFault (s : State) (ctx : BitVec 12) (code die : Nat) (unit pc : Word) (pa : Nat) : State :=
  if unreachable s pa then s.postFault ctx 0x30 0 (BitVec.ofNat 64 (0x900 + die)) 0 (BitVec.ofNat 64 pa) 0
  else s.postFault ctx code 0 unit pc (BitVec.ofNat 64 pa) 0

/-- The data error of an access that a strand performs at issue: the strand stops. -/
def State.strandData (s : State) (n : Nat) (k : Kind) (pc : Word) (pa : Nat) : State :=
  (s.dataFault (s.core n).ctx 3 (coreDie n) (strandId s n k) pc pa).modStrand n k Strand.stop

/-- The data error of the instruction at the current position. -/
def dataAt (s : State) (pa : Nat) : Out :=
  .next ((s.strandData s.issue.core s.issue.kind s.issue.base pa).setVerdict .faulted)

/-- A read noted by the page moves that are resident (R365). -/
def markRead (s : State) (pa n : Nat) : State :=
  if s.moves.isEmpty then s
  else
    { s with moves := s.moves.map fun m =>
        if m.st == .resident && inFrame m.new pa then { m with read := m.read ||| lineBits m.new pa n } else m }

/-! ### What a reader finds of the writes of others (R253, R254, R414) -/

/-- Who makes an access (R248, R249): its path (0 S, 1 T, 2 B, 3 E, 4 F), the core, task and strand for which it is made,
its number in the order of issue, and the least scope that holds whoever performs it. `place` is a core where the access is
performed, if that is not by the core itself; `rels` are the releases that a write has passed on its way (R255). -/
structure Party where
  path : Nat
  core : Nat
  task : Option Nat
  kind : Kind
  id : Nat
  reach : Nat
  place : Option Nat := none
  rels : List Crossing := []
  deriving DecidableEq, Repr, Inhabited

/-- A core lies within a scope of another (R249). -/
def inScope (a scope b : Nat) : Bool :=
  a == b || (scope == 2 && coreCluster a == coreCluster b) || (scope == 3 && coreDie a == coreDie b) || decide (4 ≤ scope)

/-- A crossing carries to a reader: of its paths, within its scope, and later than it. -/
def Crossing.reaches (x : Crossing) (p : Party) : Bool :=
  x.paths.getLsbD p.path && decide (p.reach ≤ x.scope) && decide (x.since ≤ p.id) && inScope x.core x.scope (p.place.getD p.core)

/-- The cycle in which a task last started; none while it is unknown. -/
def taskStart (s : State) (t : Option Nat) : Option Nat :=
  match t with
  | none => none
  | some i => (s.task? i).map fun t => t.since

/-- A write is carried to a reader (R253): the reader is of its strand or follows it on its own path, a fence or a release has made the
crossing before it, it has found the write already, or the writer's launch retired before the reader's task started (R254,
R414, log 97). -/
def OldWrite.carried (s : State) (p : Party) (w : OldWrite) : Bool :=
  (w.path == p.path && (p.path == 0 || decide (w.id < p.id))) ||
  (w.task == p.task && w.kind == p.kind && (w.path == p.path || w.own.getLsbD p.path)) ||
  (w.seen.any fun x => x.reaches p) || w.met.contains (p.task, p.kind.code, p.path) ||
  (match w.gone, taskStart s p.task with
   | some g, some t => decide (g ≤ t)
   | _, _ => false)

/-- A write has reached a reader: it is carried, or has become visible of itself at a free time (R414, log 97). -/
def OldWrite.reached (s : State) (p : Party) (w : OldWrite) : Bool :=
  w.carried s p || decide (Config.freeArrive w.id p.task p.kind.code p.path ≤ s.now)

/-- Memory with the writes that have not reached a reader undone, newest first; a write that has reached it brings every
earlier one of its granule (R254). `done` are the granules settled. -/
def undoWrites (s : State) (p : Party) : List OldWrite → List Nat → List Host.Cell → List Host.Cell
  | [], _, m => m
  | w :: ws, done, m =>
    if done.contains w.granule then undoWrites s p ws done m
    else if w.reached s p then undoWrites s p ws (w.granule :: done) m
    else undoWrites s p ws done (writeBytes m w.granule w.before)

/-- The state as a reader finds it. -/
def State.asSeen (s : State) (p : Party) : State :=
  if s.hist.all fun w => w.carried s p then s else { s with mem := undoWrites s p s.hist.reverse [] s.mem }

/-- The writes of a range about to be made by a party, noted with the bytes that they replace. -/
def State.noteOld (s : State) (p : Party) (pa n : Nat) : State :=
  if p.task.isNone then s
  else
    (granules pa n).foldl
      (fun t g =>
        { t with nextId := t.nextId + 1, hist := t.hist ++
            [{ id := t.nextId, granule := g, before := readBytes t.mem g (granuleSize g), path := p.path, core := p.core,
               task := p.task, kind := p.kind, cmd := p.id, rels := p.rels.map fun x => (x.core, x.scope), own := 0, gone := none,
               seen := (if p.path = 1 && 2 ≤ p.reach then [⟨p.core, p.reach, 0b01110#5, 0⟩] else []) ++ p.rels }] }) s

/-- The writes of a range found by a party, which goes on finding them (R254). -/
def State.meetWrites (s : State) (p : Party) (pa n : Nat) : State :=
  { s with hist := s.hist.map fun w =>
      if (granules pa n).contains w.granule then { w with met := w.met ++ [(p.task, p.kind.code, p.path)] } else w }

/-- A write made by a party, entering each granule's order (R414). -/
def writeAs (p : Party) (z : Bool) (s : State) (pa : Nat) (bs : List Byte) : State × Option Nat :=
  writePhys z (s.noteOld p pa bs.length) pa bs

/-- The writes that satisfy `q` with a crossing made for them (R253). -/
def State.cross (s : State) (q : OldWrite → Bool) (core scope : Nat) (paths : BitVec 5) : State :=
  { s with hist := s.hist.map fun w => if q w then { w with seen := w.seen ++ [⟨core, scope, paths, s.nextId⟩] } else w }

/-- A line whose data holds writes of a strand that memory does not. -/
def wroteLine (u : Word) (l : TileLine) : Bool := l.unit == u || l.units.contains u

/-- A line with a release that its writes have passed, if a strand made some of them. -/
def TileLine.released (u : Word) (x : Crossing) (l : TileLine) : TileLine :=
  if wroteLine u l && (l.st == .dirty || l.st == .draining) then { l with rels := l.rels ++ [x] } else l

/-- A release by a strand (R101, R253): it covers the strand's writes, those in its core's and hall's lines included, with
those of its engine commands that it has seen done, and carries the ones on paths T, B, E and F to one another's readers. -/
def State.passRelease (s : State) (n : Nat) (k : Kind) (scope : Nat) : State :=
  let x : Crossing := ⟨n, scope, 0b11110#5, s.nextId⟩
  let u := strandId s n k
  let mine := fun (w : OldWrite) =>
    w.core == n && w.task == (s.core n).task && w.kind == k && (decide (w.path ≤ 1) || !w.rels.isEmpty)
  let t := (s.modCore n fun c => { c with alcove := c.alcove.map (TileLine.released u x) }).modCluster (coreCluster n) fun c =>
    { c with hall := c.hall.map (TileLine.released u x) }
  { t with hist := s.hist.map fun w =>
      if mine w then { w with rels := w.rels ++ [(n, scope)], seen := if w.path = 0 then w.seen else w.seen ++ [x] } else w }

/-- The writes that a FENCEX of a strand covers on the paths of a mask (R106): its own, those of its core, and those that
a release has passed whose scope holds the core (log 97). -/
def fenceCovers (n : Nat) (from_ : BitVec 5) (w : OldWrite) : Bool :=
  from_.getLsbD w.path && (w.core == n || w.rels.any fun r => inScope r.1 r.2 n)

/-- What a FENCE leaves: its own strand reads its writes on every path of the mask (R253). -/
def State.ownPaths (s : State) (n : Nat) (k : Kind) (paths : BitVec 5) : State :=
  { s with hist := s.hist.map fun w =>
      if w.core == n && w.task == (s.core n).task && w.kind == k && paths.getLsbD w.path then { w with own := w.own ||| paths }
      else w }

/-! ### Reads under stores that are not yet in memory (R250, R254) -/

/-- Two byte ranges share a byte. -/
def rangesMeet (a n b m : Nat) : Bool := decide (a < b + m) && decide (b < a + n)

/-- Bytes with one byte of a store laid over them. -/
def overlayByte (pa : Nat) (t : OutStore) (i : Nat) (b : Byte) : Byte :=
  if t.pa ≤ pa + i ∧ pa + i < t.pa + t.bytes.length then t.bytes.getD (pa + i - t.pa) b else b

/-- Bytes at an address with a store laid over them. -/
def overlay (pa : Nat) (bs : List Byte) (t : OutStore) : List Byte :=
  (List.range bs.length).map fun i => overlayByte pa t i (bs.getD i 0)

/-- The state as a reader sees it whose visible stores cover a poisoned granule wholly: for it the granule is
written, and so clean (R254, R349). -/
def cleanUnder (s : State) (ts : List OutStore) : State :=
  if s.poison.isEmpty then s
  else
    { s with poison := s.poison.filter fun g =>
        !ts.any fun t => decide (t.pa ≤ g) && decide (g + granuleSize g ≤ t.pa + t.bytes.length) }

/-- A read by a party of bytes under the stores `ts` that it sees before memory does; or the address that failed. -/
def readUnder (s : State) (p : Party) (ts : List OutStore) (pa n : Nat) : Except Nat (List Byte) :=
  match readPhys (cleanUnder (s.asSeen p) ts) pa n with
  | .error g => .error g
  | .ok bs => .ok (ts.foldl (overlay pa) bs)

/-! ### Translation (R283, R357 to R359) -/

/-- What an access asks of a page. -/
inductive Access where
  | read | write | fetch | both
  deriving DecidableEq, Repr

/-- The outcome of a walk or a translation (R359). -/
inductive Trans where
  | ok (pa : Nat) (leaf : Word) (bits : Nat)
  | noMap
  | onDemand (entry : Nat)
  | malformed
  | poisoned (granule : Nat)
  | forbidden
  deriving DecidableEq, Repr

/-- The levels of R357: the lowest address bit and the number of index bits. -/
def walkLevels : List (Nat × Nat) := [(47, 5), (36, 11), (25, 11), (14, 11)]

/-- A leaf of a level whose page has `shift` address bits, all of them assigned (R344, R358, R359). -/
def leafOk (s : State) (e : Nat) (shift : Nat) : Bool :=
  bitsAt e 60 4 == 0 && bitsAt e 8 6 == 0 && bitsAt e 5 2 == 0 && bitsAt e 54 2 != 3 &&
  bitsAt e 14 (shift - 14) == 0 && memKind s (bitsAt e 14 38 * 2 ^ 14) != .unassigned &&
  memKind s (bitsAt e 14 38 * 2 ^ 14 + (2 ^ shift - 1)) == memKind s (bitsAt e 14 38 * 2 ^ 14)

/-- A table entry that is not a leaf: bits 63:52 and 13:1 are reserved (R358). -/
def tableOk (s : State) (e : Nat) : Bool :=
  bitsAt e 52 12 == 0 && bitsAt e 1 13 == 0 && memKind s (bitsAt e 14 38 * 2 ^ 14) != .unassigned

/-- The walk of R357 from a table on. -/
def walkFrom (s : State) (va : Nat) : Nat → List (Nat × Nat) → Trans
  | _, [] => .noMap
  | tbl, (shift, n) :: rest =>
    let addr := tbl + 8 * bitsAt va shift n
    match readPhys s addr 8 with
    | .error g => .poisoned g
    | .ok bs =>
      let e := leNat bs
      if bitsAt e 0 1 = 0 then (if rest.isEmpty && bitsAt e 7 1 = 1 then .onDemand addr else .noMap)
      else if bitsAt e 1 1 = 1 then
        if n = 5 then .malformed
        else if leafOk s e shift then .ok (bitsAt e 14 38 * 2 ^ 14 + va % 2 ^ shift) (BitVec.ofNat 64 e) shift
        else .malformed
      else if rest.isEmpty then .malformed
      else if tableOk s e then walkFrom s va (bitsAt e 14 38 * 2 ^ 14) rest
      else .malformed

/-- The page-table root of a context (R377). -/
def Context.ptroot (c : Context) : Nat := (c.desc.extractLsb' 64 64).toNat

/-- The walk of an address for a context; bits 63:52 set find no mapping (R155). -/
def walk (s : State) (ctx : BitVec 12) (va : Nat) : Trans :=
  if 2 ^ 52 ≤ va then .noMap
  else
    match s.ctx? ctx with
    | none => .noMap
    | some c => walkFrom s va c.ptroot walkLevels

/-- Whether a leaf permits an access (R358). -/
def leafAllows (leaf : Word) : Access → Bool
  | .read => leaf.getLsbD 2
  | .write => leaf.getLsbD 3
  | .fetch => leaf.getLsbD 4
  | .both => leaf.getLsbD 2 && leaf.getLsbD 3

/-- A TLB hit (R283). -/
def tlbHit (s : State) (cl : Nat) (ctx : BitVec 12) (va : Nat) : Option TlbEntry :=
  (s.cluster cl).tlb.find? fun e => e.ctx == ctx && va / 2 ^ e.bits == e.va / 2 ^ e.bits

/-- A translation in a cluster: the TLB first, then a walk of its own (R283, log 7). -/
def lookupVa (s : State) (cl : Nat) (ctx : BitVec 12) (va : Nat) : Trans :=
  match tlbHit s cl ctx va with
  | some e => .ok (bitsAt e.leaf.toNat 14 38 * 2 ^ 14 + va % 2 ^ e.bits) e.leaf e.bits
  | none => walk s ctx va

/-- A translation with its permission (R359). -/
def translate (s : State) (cl : Nat) (ctx : BitVec 12) (va : Nat) (acc : Access) : Trans :=
  match lookupVa s cl ctx va with
  | .ok pa leaf bits => if leafAllows leaf acc then .ok pa leaf bits else .forbidden
  | t => t

/-- The `z` attribute of a leaf (R358). -/
def leafZ (leaf : Word) : Bool := leaf.getLsbD 57

/-- The `lvl` attribute of a leaf. -/
def leafLvl (leaf : Word) : Nat := (leaf.extractLsb' 54 2).toNat

/-- The `wt` attribute of a leaf. -/
def leafWt (leaf : Word) : Bool := leaf.getLsbD 56

/-- The class of a page's default eviction priority (R139, R358): normal 2, evict-first 1, keep 3, stream 0. -/
def leafCls (leaf : Word) : BitVec 2 :=
  match (leaf.extractLsb' 58 2).toNat with
  | 0 => 2
  | 1 => 1
  | 2 => 3
  | _ => 0

/-- A walk-error fault met by the acting strand's access (R285): posted, and the strand stops. -/
def walkErrorAt (s : State) (va : Word) : Out :=
  let t := s.postFault s.live.ctx 0x12 0 0x200 0 va 0
  .next ((t.modActing Strand.stop).setVerdict .faulted)

/-- The translation of a strand's access at issue, with the traps of R155 and the walk-error fault of R285; the
continuation receives the physical address and the leaf. -/
def strandTranslate (s : State) (va : Word) (acc : Access) (f : Nat → Word → Out) : Out :=
  match translate s (coreCluster s.issue.core) s.live.ctx va.toNat acc with
  | .ok pa leaf _ => f pa leaf
  | .noMap => trapAt s 10 va
  | .onDemand _ => trapAt s 10 va
  | .forbidden => trapAt s 11 va
  | .malformed => walkErrorAt s va
  | .poisoned _ => walkErrorAt s va

/-- Bytes of a block as a bit vector. -/
def blockOf (bs : List Byte) : Block := BitVec.ofNat 1024 (leNat bs)

/-- A field of a block: bits `lo` to `lo` + `n` - 1 of the word at a byte offset. -/
def bfield (b : Block) (off lo n : Nat) : Nat := (b.extractLsb' (8 * off + lo) n).toNat

end Sys2Proof.Machine
end

