-- ==== Sys2Proof/Machine/Records.lean ====
section
/-! DEFINITION. Layout records: their fields, the checks of R145 and R177, the tile grid, and the mapping of
elements to memory (R144 to R147), with the reading and writing of elements and tiles through a record. -/

namespace Sys2Proof.Machine

/-! ### Fields (R144) -/

/-- Tensor id. -/
def recTid (r : Block) : BitVec 24 := r.extractLsb' 40 24
/-- Class: 0 ordinary, 1 arena, 2 command, 3 bitmap. -/
def recClass (r : Block) : Nat := (r.extractLsb' 38 2).toNat
/-- Element format in memory. -/
def recEfmt (r : Block) : Nat := (r.extractLsb' 34 4).toNat
/-- Element format in tiles. -/
def recTfmt (r : Block) : Nat := (r.extractLsb' 30 4).toNat
/-- Rank. -/
def recRank (r : Block) : Nat := (r.extractLsb' 26 4).toNat
/-- Dimension spanned by tile rows. -/
def recTdr (r : Block) : Nat := (r.extractLsb' 22 4).toNat
/-- Dimension spanned by tile columns. -/
def recTdc (r : Block) : Nat := (r.extractLsb' 18 4).toNat
/-- log2 of the tile's rows. -/
def recTlr (r : Block) : Nat := (r.extractLsb' 14 4).toNat
/-- Version policy. -/
def recVpol (r : Block) : Nat := (r.extractLsb' 12 2).toNat
/-- Replacement hint. -/
def recHint (r : Block) : Nat := (r.extractLsb' 10 2).toNat
/-- Virtual address of element (0, …, 0). -/
def recBase (r : Block) : Nat := bfield r 8 0 64
/-- Pad element. -/
def recPad (r : Block) : Nat := bfield r 0x10 0 32
/-- Extent of a dimension. -/
def recExt (r : Block) (d : Nat) : Nat := bfield r (0x18 + 4 * d) 0 32
/-- Signed byte stride of a dimension. -/
def recStr (r : Block) (d : Nat) : Int := signedAt 48 (bfield r (0x40 + 6 * d) 0 48)
/-- Tile rows (R145). -/
def recRows (r : Block) : Nat := 2 ^ recTlr r
/-- Tile columns (R145). -/
def recCols (r : Block) : Nat := 32768 / (fmtWidth (recTfmt r) * recRows r)

/-- A product over the dimensions of a record other than `tdr` and `tdc`. -/
def recOuter (r : Block) : Nat :=
  (List.range (recRank r)).foldl (fun a d => if d = recTdr r ∨ d = recTdc r then a else a * recExt r d) 1

/-- Division rounded up. -/
def ceilDiv (a b : Nat) : Nat := if b = 0 then 0 else (a + b - 1) / b

/-- Tile rows of the tensor's grid. -/
def gridRows (r : Block) : Nat := if recRank r = 1 then 1 else ceilDiv (recExt r (recTdr r)) (recRows r)

/-- Tile columns of the tensor's grid. -/
def gridCols (r : Block) : Nat :=
  if recRank r = 1 then ceilDiv (recExt r 0) (recRows r * recCols r) else ceilDiv (recExt r (recTdc r)) (recCols r)

/-- Outer indices of the tensor's grid. -/
def gridOuter (r : Block) : Nat := if recRank r = 1 then 1 else recOuter r

/-- A tile coordinate inside the tensor's grid (R189). -/
def inGrid (r : Block) (outer trow tcol : Nat) : Bool :=
  decide (outer < gridOuter r) && decide (trow < gridRows r) && decide (tcol < gridCols r)

/-! ### Checks (R145, R177) -/

/-- Dimensions at or above the rank are zero, those below have a non-zero extent. -/
def recDimsOk (r : Block) : Bool :=
  (List.range 9).all fun d => if d < recRank r then recExt r d != 0 else recExt r d == 0 && recStr r d == 0

/-- Alignment of base and strides to the element size, for formats of 8 bits or more. -/
def recAlignOk (r : Block) : Bool :=
  let w := fmtWidth (recEfmt r)
  if 8 ≤ w then
    recBase r % (w / 8) == 0 && (List.range (recRank r)).all fun d => recStr r d % ((w / 8 : Nat) : Int) == 0
  else recStr r 0 == 0

/-- The limits of the tile grid. -/
def recGridOk (r : Block) : Bool :=
  if recRank r = 1 then decide (gridCols r ≤ 2 ^ 20)
  else decide (gridRows r ≤ 2 ^ 20) && decide (gridCols r ≤ 2 ^ 20) && decide (recOuter r ≤ 2 ^ 24)

/-- A record that R145 accepts. -/
def recordOk (r : Block) : Bool :=
  let w := fmtWidth (recTfmt r)
  r.extractLsb' 0 10 == 0 && decide (recVpol r ≤ 1) && bfield r 0x14 0 32 == 0 && bfield r 0x3C 0 32 == 0 &&
  bfield r 0x76 0 80 == 0 && fmtWidth (recEfmt r) != 0 && w != 0 &&
  decide (1 ≤ recRank r) && decide (recRank r ≤ 9) &&
  (if recRank r = 1 then recTdr r == 0 && recTdc r == 0
   else recTdr r != recTdc r && decide (recTdr r < recRank r) && decide (recTdc r < recRank r)) &&
  decide (8 ≤ recRows r) && decide (8 ≤ recCols r) && 32768 % (w * recRows r) == 0 &&
  recDimsOk r && recAlignOk r && decide (recBase r < 2 ^ 52) && recGridOk r &&
  decide (recPad r < 2 ^ w) && !(recTfmt r == 9 && recPad r == 2) &&
  (recClass r != 3 || (recEfmt r == 10 && recTfmt r == 10))

/-- The arena rule of R177. -/
def arenaOk (r : Block) : Bool :=
  recClass r != 1 ||
  (recRank r == 3 && recTdr r == 1 && recTdc r == 0 && recEfmt r == recTfmt r && decide (8 ≤ fmtWidth (recEfmt r)))

/-- The record cache after an installation; none when it is full (R145, R148). -/
def installRec (rs : List Block) (r : Block) : Option (List Block) :=
  if rs.any fun x => recTid x == recTid r then
    some (rs.map fun x => if recTid x == recTid r then r else x)
  else if rs.length < 64 then some (rs ++ [r])
  else none

/-- A record by tensor id. -/
def findRec (rs : List Block) (t : BitVec 24) : Option Block := rs.find? fun x => recTid x == t

/-- A record by handle: bits 63:24 set name none (R148). -/
def handleRec (rs : List Block) (h : Word) : Option Block :=
  if h.toNat < 2 ^ 24 then findRec rs (h.extractLsb' 0 24) else none

/-! ### Elements (R146, R147, R168) -/

/-- The indices of the dimensions other than two, taken from an outer index; none when it is too large. -/
def outerIdx (r : Block) : List Nat → Nat → Option (List (Nat × Nat))
  | [], q => if q = 0 then some [] else none
  | d :: ds, q =>
    if d = recTdr r ∨ d = recTdc r then outerIdx r ds q
    else
      match outerIdx r ds (q / recExt r d) with
      | none => none
      | some xs => some ((d, q % recExt r d) :: xs)

/-- The tensor indices of element (i, j) of a tile, as (dimension, index), or none outside the tensor (R146). -/
def tileIdx (r : Block) (outer trow tcol i j : Nat) : Option (List (Nat × Nat)) :=
  let idx :=
    if recRank r = 1 then
      (if trow ≠ 0 ∨ outer ≠ 0 then none else some [(0, (tcol * recRows r + i) * recCols r + j)])
    else
      match outerIdx r (List.range (recRank r)) outer with
      | none => none
      | some xs => some ((recTdr r, trow * recRows r + i) :: (recTdc r, tcol * recCols r + j) :: xs)
  match idx with
  | none => none
  | some xs => if xs.all fun x => decide (x.2 < recExt r x.1) then some xs else none

/-- The virtual address of an element and the bit within its first byte (R49, R146). -/
def elemAddr (r : Block) (idx : List (Nat × Nat)) : Nat × Nat :=
  let w := fmtWidth (recEfmt r)
  let sum : Int := idx.foldl (fun a x => if x.1 = 0 ∧ w < 8 then a else a + (x.2 : Int) * recStr r x.1) 0
  let i0 := match idx.find? fun x => x.1 == 0 with
    | some x => x.2
    | none => 0
  if 8 ≤ w then (intBits 64 ((recBase r : Int) + sum), 0)
  else (intBits 64 ((recBase r : Int) + sum + (i0 * w / 8 : Nat)), i0 * w % 8)

/-- Why an access through a record fails. -/
inductive AccFail where
  | access (va : Nat)
  | walk (va : Nat)
  | data (pa : Nat)
  deriving DecidableEq, Repr

/-- An element of the record's memory format read by address: its bits, or none on an unbacked page (R362). -/
def readElem (s : State) (cl : Nat) (ctx : BitVec 12) (r : Block) (idx : List (Nat × Nat)) :
    Except AccFail (Option Nat) :=
  let a := elemAddr r idx
  let w := fmtWidth (recEfmt r)
  match translate s cl ctx a.1 .read with
  | .ok pa _ _ =>
    match readPhys s pa (ceilDiv w 8) with
    | .error g => .error (.data g)
    | .ok bs => .ok (some (bitsAt (leNat bs) a.2 w))
  | .onDemand _ => .ok none
  | .noMap => .error (.access a.1)
  | .forbidden => .error (.access a.1)
  | .malformed => .error (.walk a.1)
  | .poisoned _ => .error (.walk a.1)

/-- The read of an element noted by the page moves that are resident (R365). -/
def markElem (s : State) (cl : Nat) (ctx : BitVec 12) (r : Block) (idx : List (Nat × Nat)) : State :=
  if s.moves.isEmpty then s
  else
    let a := elemAddr r idx
    match translate s cl ctx a.1 .read with
    | .ok pa _ _ => markRead s pa (ceilDiv (fmtWidth (recEfmt r)) 8)
    | .onDemand _ => s
    | .noMap => s
    | .forbidden => s
    | .malformed => s
    | .poisoned _ => s

/-- An element written by address in the record's memory format; sub-byte neighbours keep their bits (R356). -/
def writeElem (s : State) (cl : Nat) (ctx : BitVec 12) (r : Block) (idx : List (Nat × Nat)) (x : Nat) :
    Except AccFail State :=
  let a := elemAddr r idx
  let w := fmtWidth (recEfmt r)
  match translate s cl ctx a.1 .write with
  | .ok pa leaf _ =>
    let bytes := if 8 ≤ w then leBytes (w / 8) x else leBytes 1 (setBits (readByte s.mem pa).toNat a.2 w x)
    let t := writePhys (leafZ leaf) s pa bytes
    match t.2 with
    | some g => .error (.data g)
    | none => .ok t.1
  | .onDemand _ => .error (.access a.1)
  | .noMap => .error (.access a.1)
  | .forbidden => .error (.access a.1)
  | .malformed => .error (.walk a.1)
  | .poisoned _ => .error (.walk a.1)

/-- The bits of memory that a write of an element covers: the first and their number. -/
def elemBits (s : State) (cl : Nat) (ctx : BitVec 12) (r : Block) (idx : List (Nat × Nat)) : Option (Nat × Nat) :=
  let a := elemAddr r idx
  match translate s cl ctx a.1 .write with
  | .ok pa _ _ => some (8 * pa + a.2, fmtWidth (recEfmt r))
  | .onDemand _ => none
  | .noMap => none
  | .forbidden => none
  | .malformed => none
  | .poisoned _ => none

/-- The granules that the elements of one write touch, noted as about to be written by a party (R257, R414). -/
def State.noteElems (s : State) (p : Party) (cl : Nat) (ctx : BitVec 12) (r : Block) (is : List (List (Nat × Nat))) :
    State :=
  if p.task.isNone then s
  else
    (((is.filterMap (elemBits s cl ctx r)).flatMap fun x =>
      granules (x.1 / 8) (ceilDiv (x.1 % 8 + x.2) 8)).eraseDups).foldl (fun t g => t.noteOld p g 1) s

/-- The state in which the granules that the elements of one write cover together have lost their poison (R349,
log 28). -/
def clearCovered (s : State) (cl : Nat) (ctx : BitVec 12) (r : Block) (is : List (List (Nat × Nat))) : State :=
  if s.poison.isEmpty then s
  else
    let xs := is.filterMap (elemBits s cl ctx r)
    { s with poison := s.poison.filter fun g =>
        !((List.range (8 * granuleSize g)).all fun b => xs.any fun x =>
          decide (x.1 ≤ 8 * g + b) && decide (8 * g + b < x.1 + x.2)) }

/-- The positions of a tile in element order. -/
def tileCells (r : Block) : List (Nat × Nat) :=
  (List.range (recRows r)).flatMap fun i => (List.range (recCols r)).map fun j => (i, j)

/-- One element of a tile in the tile format, gathered through the record (R146, R147, R356). -/
def gatherElem (s : State) (cl : Nat) (ctx : BitVec 12) (r : Block) (outer trow tcol i j : Nat) :
    Except AccFail Nat :=
  match tileIdx r outer trow tcol i j with
  | none => .ok (recPad r)
  | some idx =>
    match readElem s cl ctx r idx with
    | .error e => .error e
    | .ok none => .ok (recPad r)
    | .ok (some x) => .ok (convert (recEfmt r) (recTfmt r) .rne false x).1

/-- The elements of a tile gathered in order into a number, element 0 least significant. -/
def gatherFrom (s : State) (cl : Nat) (ctx : BitVec 12) (r : Block) (outer trow tcol : Nat) :
    List (Nat × Nat) → Except AccFail Nat
  | [] => .ok 0
  | (i, j) :: xs =>
    match gatherElem s cl ctx r outer trow tcol i j with
    | .error e => .error e
    | .ok x =>
      match gatherFrom s cl ctx r outer trow tcol xs with
      | .error e => .error e
      | .ok y => .ok (x + y * 2 ^ fmtWidth (recTfmt r))

/-- A tile gathered from memory (R356). -/
def gatherTile (s : State) (cl : Nat) (ctx : BitVec 12) (r : Block) (outer trow tcol : Nat) : Except AccFail Line :=
  match gatherFrom s cl ctx r outer trow tcol (tileCells r) with
  | .error e => .error e
  | .ok n => .ok (BitVec.ofNat 32768 n)

/-- The reads of a tile's elements noted by the page moves that are resident (R365). -/
def markTile (s : State) (cl : Nat) (ctx : BitVec 12) (r : Block) (outer trow tcol : Nat) : State :=
  if s.moves.isEmpty then s
  else
    (tileCells r).foldl
      (fun t x =>
        match tileIdx r outer trow tcol x.1 x.2 with
        | none => t
        | some idx => markElem t cl ctx r idx) s

/-- Element (i, j) of a tile line (R49, R146). -/
def lineElem (r : Block) (l : Line) (i j : Nat) : Nat :=
  (l.extractLsb' (fmtWidth (recTfmt r) * (i * recCols r + j)) (fmtWidth (recTfmt r))).toNat

/-- An element of an arena on a page not yet backed: where no AST has written the tile it holds the pad, which it reads as
without being written (R177, R362, log 98). -/
def unbackedElem (s : State) (cl : Nat) (ctx : BitVec 12) (r : Block) (idx : List (Nat × Nat)) : Bool :=
  recClass r == 1 &&
  (match translate s cl ctx (elemAddr r idx).1 .write with
   | .onDemand _ => true
   | _ => false)

/-- A tile scattered to memory, element by element; those outside the tensor are dropped (R147, R356). `ast` says that an AST has
written the tile, which no unbacked page can take (R362). -/
def scatterFrom (ast : Bool) (cl : Nat) (ctx : BitVec 12) (r : Block) (outer trow tcol : Nat) (l : Line) :
    List (Nat × Nat) → State → Except AccFail State
  | [], s => .ok s
  | (i, j) :: xs, s =>
    match tileIdx r outer trow tcol i j with
    | none => scatterFrom ast cl ctx r outer trow tcol l xs s
    | some idx =>
      if !ast && unbackedElem s cl ctx r idx then scatterFrom ast cl ctx r outer trow tcol l xs s
      else
        match writeElem s cl ctx r idx (convert (recTfmt r) (recEfmt r) .rne false (lineElem r l i j)).1 with
        | .error e => .error e
        | .ok s' => scatterFrom ast cl ctx r outer trow tcol l xs s'

/-- A tile's write-back to memory (R356), made for a party. -/
def scatterTile (p : Party) (ast : Bool) (s : State) (cl : Nat) (ctx : BitVec 12) (r : Block) (outer trow tcol : Nat) (l : Line) :
    Except AccFail State :=
  let is := (tileCells r).filterMap fun x => tileIdx r outer trow tcol x.1 x.2
  scatterFrom ast cl ctx r outer trow tcol l (tileCells r) (clearCovered (s.noteElems p cl ctx r is) cl ctx r is)

end Sys2Proof.Machine
end

