-- ==== Sys2Proof/Machine/Contexts.lean ====
section
/-! DEFINITION. Contexts as the device keeps them (R377 to R382, R388, R389): the fields of the descriptor,
notifications, trace records, the black box, and the stop of a context. -/

namespace Sys2Proof.Machine

/-! ### The descriptor (R377) -/

/-- A field of a descriptor: bits `lo` to `lo` + `n` - 1 of the word at a byte offset. -/
def Context.field (c : Context) (off lo n : Nat) : Nat := (c.desc.extractLsb' (8 * off + lo) n).toNat

/-- `samp`. -/
def Context.samp (c : Context) : Nat := c.field 0 24 8
/-- `lossless`. -/
def Context.lossless (c : Context) : Bool := c.field 0 23 1 == 1
/-- `tron`. -/
def Context.tron (c : Context) : Bool := c.field 0 22 1 == 1
/-- `brkdbg`. -/
def Context.brkdbg (c : Context) : Bool := c.field 0 21 1 == 1
/-- `pmin`. -/
def Context.pmin (c : Context) : Nat := c.field 0 16 2
/-- `kvfree`. -/
def Context.kvfree (c : Context) : Word := BitVec.ofNat 64 (c.field 0x10 0 64)
/-- `pool`. -/
def Context.pool (c : Context) : Nat := c.field 0x18 0 64
/-- `mirror`. -/
def Context.mirror (c : Context) : Nat := c.field 0x20 0 64
/-- `npool`. -/
def Context.npool (c : Context) : Nat := c.field 0x28 0 10
/-- `lq`. -/
def Context.lq (c : Context) : Nat := c.field 0x30 0 64
/-- `lqsize`. -/
def Context.lqsize (c : Context) : Nat := c.field 0x38 0 13
/-- `nq`. -/
def Context.nq (c : Context) : Nat := c.field 0x40 0 64
/-- `nqsize`. -/
def Context.nqsize (c : Context) : Nat := c.field 0x48 0 64
/-- `tq`. -/
def Context.tq (c : Context) : Nat := c.field 0x50 0 64
/-- `tqsize`. -/
def Context.tqsize (c : Context) : Nat := c.field 0x58 0 64
/-- `frec`. -/
def Context.frec (c : Context) : Nat := c.field 0x60 0 64
/-- `vtr`. -/
def Context.vtr (c : Context) : Nat := c.field 0x68 16 6
/-- `vlq`. -/
def Context.vlq (c : Context) : Nat := c.field 0x68 8 6
/-- `vflt`. -/
def Context.vflt (c : Context) : Nat := c.field 0x68 0 6
/-- The two words of a hardware breakpoint (R387). -/
def Context.bp (c : Context) (b : Nat) : Nat × Nat := (c.field (0x70 + 16 * b) 0 64, c.field (0x78 + 16 * b) 0 64)

/-- A number that is a power of two from 2^lo to 2^hi. -/
def powerIn (lo hi x : Nat) : Bool := (List.range (hi - lo + 1)).any fun i => x == 2 ^ (lo + i)

/-- A host physical address (R344). -/
def hostAddr (x : Nat) : Bool := decide (0x6000000000000 ≤ x) && decide (x < 0x7000000000000)

/-- A breakpoint's reserved bits (R387). -/
def bpOk (b : Nat × Nat) : Bool := bitsAt b.1 52 12 == 0 && bitsAt b.1 0 2 == 0 && bitsAt b.2 4 59 == 0

/-- What R378 asks of a descriptor, its id apart. -/
def descOk (c : Context) : Bool :=
  let z := fun off lo n => c.field off lo n == 0
  z 0 32 32 && z 0 18 3 && z 0 12 4 && (c.samp == 0 || (decide (10 ≤ c.samp) && decide (c.samp ≤ 30))) &&
  c.field 0 0 12 != 0 && c.field 8 0 64 % 256 == 0 && c.field 0x10 0 64 % 64 == 0 &&
  c.pool % 0x10000 == 0 && c.mirror % 0x10000 == 0 && z 0x28 10 54 && decide (c.npool ≤ 640) &&
  c.lq % 64 == 0 && z 0x38 13 51 && powerIn 4 12 c.lqsize &&
  c.nq % 32 == 0 && hostAddr c.nq && powerIn 4 20 c.nqsize &&
  c.tq % 32 == 0 && hostAddr c.tq && powerIn 4 20 c.tqsize &&
  c.frec % 64 == 0 && hostAddr c.frec && z 0x68 22 42 && z 0x68 14 2 && z 0x68 6 2 &&
  ((List.range 4).all fun b => bpOk (c.bp b)) && ((List.range 10).all fun i => z (0xB0 + 8 * i) 0 64)

/-! ### Tasks and their contexts -/

/-- The live context of a number. -/
def State.ctxAt (s : State) (n : Nat) : Option Context := if n < 4096 then s.ctx? (BitVec.ofNat 12 n) else none

/-- The context of a task. -/
def taskCtx (s : State) (t : Task) : Option (BitVec 12) := (s.launch? t.launch).map fun l => l.ctx

/-- The address of a task's context area (R263). -/
def Task.base (t : Task) : Nat := t.area - 1

/-- The virtual address of a byte of an area, in the copy that the save map names (R383). -/
def areaVa (c : Context) (t : Task) (off : Nat) : Nat :=
  if t.map.getLsbD (off / 4096) then c.mirror + (t.base - c.pool) + off else t.base + off

/-- The task belongs to a context. -/
def taskOf (s : State) (ctx : BitVec 12) (t : Task) : Bool := taskCtx s t == some ctx

/-- A task that holds a core (R293). -/
def Task.onCore (t : Task) : Bool :=
  match t.st with
  | .residing => true
  | .starting => true
  | .running => true
  | .stopping => true
  | .saving => true
  | .waiting => false
  | .stopped => false
  | .retired => false
  | .ended => false

/-- The cores that hold tasks of a context. -/
def ctxCores (s : State) (ctx : BitVec 12) : List Nat :=
  (s.tasks.filter fun t => taskOf s ctx t && t.onCore).map fun t => t.core

/-! ### Records to the host (R380, R388, R389) -/

/-- The bytes of words, little-endian (R4). -/
def bytesOf (ws : List Word) : List Byte := ws.flatMap fun w => leBytes 8 w.toNat

/-- A write of words at system scope to a physical address; the address when it cannot be made. -/
def sysWrite (s : State) (pa : Nat) (ws : List Word) : State × Option Nat := writePhys false s pa (bytesOf ws)

/-- The host-access fault (R392). -/
def State.hostAccess (s : State) (ctx : BitVec 12) (addr : Nat) : State :=
  s.postFault ctx 0x3B 0 0x802 0 (BitVec.ofNat 64 addr) 0

/-- A message that leaves the module. -/
def State.send (s : State) (kind : String) (ws : List Word) : State := { s with outbox := s.outbox ++ [⟨kind, ws⟩] }

/-- A notification record written at the ring's write index, and its MSI-X message (R380). The vector is given
plus one; zero stands for the message of kind 4, for which the spec names no vector (log 19). -/
def writeNote (s : State) (c : Context) (vec : Nat) (ws : List Word) : State :=
  let r := sysWrite s (c.nq + 32 * (c.nqwrite.toNat % c.nqsize)) ws
  match r.2 with
  | some _ => r.1.hostAccess c.id (c.nq + 32 * (c.nqwrite.toNat % c.nqsize))
  | none =>
    (r.1.modCtx c.id fun c => { c with nqwrite := c.nqwrite + 1 }).send "msix"
      (if vec = 0 then [] else [BitVec.ofNat 64 (vec - 1)])

/-- The notification ring has room (R380). -/
def Context.noteRoom (c : Context) : Bool := decide ((c.nqwrite - c.nqread).toNat < c.nqsize)

/-- The pending notifications written while the ring has room. -/
def drainNotes (ctx : BitVec 12) : Nat → State → State
  | 0, s => s
  | fuel + 1, s =>
    match s.ctx? ctx with
    | none => s
    | some c =>
      match c.noteq with
      | [] => s
      | (vec, ws) :: rest =>
        if c.noteRoom then
          drainNotes ctx fuel (writeNote (s.modCtx ctx fun c => { c with noteq := rest }) c vec ws)
        else s

/-- A notification posted: written at once if the ring has room, else held (R380). -/
def postNote (s : State) (ctx : BitVec 12) (vec kind sub : Nat) (a b : Word) : State :=
  let ws : List Word :=
    [BitVec.ofNat 64 (kind * 2 ^ 56 + sub % 256 * 2 ^ 48 + ctx.toNat), a, b, s.counter]
  match s.ctx? ctx with
  | none => s
  | some c =>
    drainNotes ctx (c.noteq.length + 1) (s.modCtx ctx fun c => { c with noteq := c.noteq ++ [(vec, ws)] })

/-- A record into the black box (R389): the last 2,048 events, or the overflow count once it is frozen. -/
def bboxPost (s : State) (ws : List Word) : State :=
  if s.bbFrozen then { s with bbOver := s.bbOver + 1 }
  else
    let xs := s.bbox ++ [ws]
    { s with bbox := if 2048 < xs.length then xs.drop 1 else xs }

/-- The trace ring has room (R388). -/
def Context.traceRoom (c : Context) : Bool := decide ((c.tqwrite - c.tqread).toNat < c.tqsize)

/-- A trace record written at the ring's write index, with its MSI-X message (R388). -/
def writeTrace (s : State) (c : Context) (ws : List Word) : State :=
  let r := sysWrite s (c.tq + 32 * (c.tqwrite.toNat % c.tqsize)) ws
  match r.2 with
  | some _ => r.1.hostAccess c.id (c.tq + 32 * (c.tqwrite.toNat % c.tqsize))
  | none =>
    (r.1.modCtx c.id fun c => { c with tqwrite := c.tqwrite + 1 }).send "msix" [BitVec.ofNat 64 c.vtr]

/-- The first word of a trace record. -/
def traceHead (kind sub flag : Nat) (ctx : BitVec 12) : Word :=
  BitVec.ofNat 64 (kind * 2 ^ 56 + sub % 256 * 2 ^ 48 + flag % 256 * 2 ^ 40 + ctx.toNat)

/-- The pending trace records written while the ring has room. -/
def drainTrace (ctx : BitVec 12) : Nat → State → State
  | 0, s => s
  | fuel + 1, s =>
    match s.ctx? ctx with
    | none => s
    | some c =>
      match c.traceq with
      | [] => s
      | (_, ws) :: rest =>
        if c.traceRoom then
          drainTrace ctx fuel (writeTrace (s.modCtx ctx fun c => { c with traceq := rest }) c ws)
        else s

/-- A trace record posted to the context's ring (R388): written, held with the strand it stalls, or dropped and
counted. A record written after drops is preceded by a drop record. -/
def traceRing (s : State) (ctx : BitVec 12) (who : Option (Nat × Kind)) (ws : List Word) : State :=
  match s.ctx? ctx with
  | none => s
  | some c =>
    if !c.tron then s
    else if c.lossless then
      drainTrace ctx (c.traceq.length + 1) (s.modCtx ctx fun c => { c with traceq := c.traceq ++ [(who, ws)] })
    else if !c.traceRoom then
      s.modCtx ctx fun c => { c with tqdrop := c.tqdrop + 1, dropSince := c.dropSince + 1 }
    else if c.dropSince = 0 then writeTrace s c ws
    else
      let s1 := writeTrace (s.modCtx ctx fun c => { c with dropSince := 0 }) c
        [traceHead 6 0 0 ctx, c.dropSince, 0, s.counter]
      match s1.ctx? ctx with
      | none => s1
      | some c1 =>
        if c1.traceRoom then writeTrace s1 c1 ws
        else s1.modCtx ctx fun c => { c with tqdrop := c.tqdrop + 1, dropSince := c.dropSince + 1 }

/-- A trace record of kinds 1 to 5 (R388), with the black box for kinds 2 to 5 (R389). -/
def tracePost (s : State) (ctx : BitVec 12) (who : Option (Nat × Kind)) (kind sub flag : Nat) (a b : Word) : State :=
  let ws : List Word := [traceHead kind sub flag ctx, a, b, s.counter]
  traceRing (if 2 ≤ kind then bboxPost s ws else s) ctx who ws

/-- A module event into the black box (R389), `ctx` 0. -/
def moduleEvent (s : State) (kind : Nat) (a : Word) : State := bboxPost s [traceHead kind 0 0 0, a, 0, s.counter]

/-- A strand with a trace record pending issues nothing (R388). -/
def traceStall (s : State) (n : Nat) (k : Kind) : Bool :=
  match s.ctx? (s.core n).ctx with
  | none => false
  | some c => c.traceq.any fun x => x.1 == some (n, k)

/-- Whether a fault of a context has been posted or recorded. -/
def faulted (s : State) (ctx : BitVec 12) : Bool :=
  (s.posts.any fun p => p.ctx == ctx) ||
  match s.ctx? ctx with
  | none => false
  | some c => c.fault.isSome

/-! ### Stopping a context (R73, R382, R387) -/

/-- A strand of a core that no task holds (R23); its registers stand until the next task starts (R151). -/
def Strand.idle (st : Strand) : Strand := { st with mode := .idle, pend := [], joinSince := none, fetchSince := none, bpSkip := none, was := .running }

/-- A core that no task holds: nothing of the task is under way in it, and what R151 sets at the next start stands until
then. -/
def idleCore (c : Core) : Core :=
  { c with a := c.a.idle, c := c.c.idle, m := c.m.idle, v := c.v.idle, loads := [], stores := [], vops := [], mops := [],
           replay := [], itins := [], pubs := [], lastuse := [], preqPend := false, task := none, kvAt := none, kvRun := none }

/-- A cluster's retention registers cleared whose owning context has no task there any more (R281). -/
def clearRetain (s : State) (cl : Nat) : State :=
  let dead := fun (i : Nat) =>
    let sel := tget 0 (s.cluster cl).retainSel i
    sel.getLsbD 63 && !(ctxCores s (sel.extractLsb' 36 12)).any fun n => coreCluster n == cl
  s.modCluster cl fun c =>
    { c with retainSel := c.retainSel.filter fun x => !dead x.1, retainRng := c.retainRng.filter fun x => !dead x.1 }

/-- A placed task that has not started goes back to waiting and gives up its core. -/
def unplace (s : State) (t : Task) : State :=
  if t.st = .residing ∨ t.st = .starting then
    clearRetain ((s.modCore t.core idleCore).modTask t.id fun t => { t with st := .waiting }) (coreCluster t.core)
  else s

/-- A stop of a context: its running tasks go to their cuts with `why`, those that have not started go back to waiting,
and no launch entry is taken. -/
def stopContext (s : State) (ctx : BitVec 12) (why : Nat) : State :=
  let s1 := s.modCtx ctx fun c =>
    if c.ctl = .running then { c with ctl := .stopping, stopOp := decide (why = 2) } else c
  let s2 := (s1.tasks.filter fun t => taskOf s ctx t).foldl unplace s1
  { s2 with tasks := s2.tasks.map fun t =>
      if taskOf s ctx t && (t.st = .running || t.st = .stopping) then { t with st := .stopping, why := why } else t }

/-- An enabled hardware breakpoint that names a strand kind and address (R387). -/
def breakpointAt (c : Context) (k : Kind) (pc : Word) : Bool :=
  c.brkdbg && (List.range 4).any fun b =>
    bitsAt (c.bp b).2 63 1 == 1 && bitsAt (c.bp b).2 k.code 1 == 1 && (c.bp b).1 == pc.toNat

end Sys2Proof.Machine
end

