-- ==== Sys2Proof/Machine/Flags.lean ====
section
/-! DEFINITION. The core's flags and the wait on them, the copy tokens and the queue lanes (R98 to R101, R111 to
R119), with the sticky bits of the scalar side. -/

namespace Sys2Proof.Machine

/-! ### Flags (R98 to R100) -/

/-- A flag's value. -/
def Core.flag (c : Core) (n : Nat) : Word32 := tget 0 c.flags n

/-- The core with a flag written. -/
def Core.setFlag (c : Core) (n : Nat) (x : Word32) : Core := { c with flags := tset 0 c.flags n x }

/-- The header's flag condition (R26, R115) on the flag values before the cycle. -/
def flagWaitOk (c : Core) (h : Header) : Bool :=
  h.we == 0 ||
  (let x := c.flag h.wflag.toNat
   if h.wcond == 0 then decide (h.wval.toNat ≤ x.toNat) else x.extractLsb' 0 8 == h.wval)

/-! ### Copy tokens (R116 to R119) -/

/-- A token. -/
def Core.tok (c : Core) (n : Nat) : Token := tget {} c.toks n

/-- The core with a token written. -/
def Core.setTok (c : Core) (n : Nat) (t : Token) : Core := { c with toks := tset {} c.toks n t }

/-- The tokens that a mask names. -/
def maskToks (m : BitVec 8) : List Nat := (List.range 8).filter fun i => m.getLsbD i

/-- Some masked token is busy (R117). -/
def tokBusy (c : Core) (m : BitVec 8) : Bool := (maskToks m).any fun i => (c.tok i).count != 0

/-- The masked tokens whose error bit is set. -/
def tokErrs (c : Core) (m : BitVec 8) : List Nat := (maskToks m).filter fun i => (c.tok i).err

/-- A token after an accepted command (R116). -/
def Token.accept (t : Token) : Token := { t with count := t.count + 1 }

/-- A token after a completed command. -/
def Token.complete (t : Token) : Token := { t with count := t.count - 1 }

/-- A token after a rejected COPY, COPYT or PROMOTE: the first reason is kept (R116). -/
def Token.reject (t : Token) (r : BitVec 4) : Token :=
  { t with err := true, reason := if t.err then t.reason else r }

/-- A token after its error was reported (R117). -/
def Token.report (t : Token) : Token := { t with err := false, reason := 0 }

/-- The trap value of a token error: the mask of reported tokens and the first reason (R122). -/
def tokErrTval (c : Core) (ts : List Nat) : Word :=
  BitVec.ofNat 64 ((ts.map fun i => 2 ^ i).sum + (match ts with
    | [] => 0
    | i :: _ => (c.tok i).reason.toNat * 256))

/-! ### Queue lanes (R111 to R114) -/

/-- The key of a lane: producer, consumer, lane number. -/
def laneKey (p c l : Nat) : Nat := 16 * p + 4 * c + l

/-- A lane's entries, head first. -/
def Core.lane (c : Core) (n : Nat) : List LaneEntry := tget [] c.lanes n

/-- The core with a lane replaced. -/
def Core.setLane (c : Core) (n : Nat) (es : List LaneEntry) : Core := { c with lanes := tset [] c.lanes n es }

/-- The consumers that a mask names, as kind codes. -/
def maskKinds (m : BitVec 4) : List Nat := (List.range 4).filter fun i => m.getLsbD i

/-- A lane has room for one more entry, judged on its entries before the cycle and those that this cycle added
(R20, R112). -/
def laneRoom (pre live : Core) (now n : Nat) : Bool :=
  decide ((pre.lane n).length + ((live.lane n).filter fun e => e.born == now).length < 8)

/-- The head of a lane as a pop finds it: filled before the cycle (R20, R22). -/
def laneHead (live : Core) (now n : Nat) : Option Word :=
  match live.lane n with
  | [] => none
  | e :: _ =>
    match e.data with
    | none => none
    | some (x, t) => if t < now then some x else none

/-- The core with a filled entry appended to a lane (R93). -/
def Core.pushLane (c : Core) (now n : Nat) (x : Word) : Core :=
  c.setLane n (c.lane n ++ [{ born := now, load := 0, data := some (x, now) }])

/-- The core with an entry reserved in a lane for a load (R22). -/
def Core.reserveLane (c : Core) (now n load : Nat) : Core :=
  c.setLane n (c.lane n ++ [{ born := now, load := load, data := none }])

/-- The core with every entry that a load reserved filled (R157). -/
def Core.fillLanes (c : Core) (now load : Nat) (x : Word) : Core :=
  { c with lanes := c.lanes.map fun kl =>
      (kl.1, kl.2.map fun e => if e.data.isNone && e.load == load then { e with data := some (x, now) } else e) }

/-- `core.qlvlPC` (R114). -/
def qlvl (c : Core) (p k : Nat) : Word :=
  BitVec.ofNat 64 (((List.range 4).map fun l => (c.lane (laneKey p k l)).length * 16 ^ l).sum)

end Sys2Proof.Machine
end

