-- ==== Sys2Proof/Machine/Fetch.lean ====
section
/-! DEFINITION. A strand's head bundle: fetching its words (R150, R258), decoding it (R39, R74), and judging it
up to the conditions of its instructions (R18, R21, R115, R117, R123), with the wait that a held head leaves
behind (R23, R386). -/

namespace Sys2Proof.Machine

/-! ### Fetch (R150, R258) -/

/-- What a fetch of one word comes to. -/
inductive Fetched where
  | ok (w : Word32) (st : Strand)
  | trap (code : Nat) (va : Word)
  | walk (va : Word)
  | data (granule : Nat) (va : Word)

/-- The lines that an instruction cache of 16 KiB holds at most (R150). -/
def icacheLines : Nat := 256

/-- A strand with a fetched 64-byte line in its cache; when the cache is full its oldest line leaves (log 10). -/
def Strand.cacheLine (st : Strand) (line : Nat) (d : BitVec 512) : Strand :=
  { st with icache := (if st.icache.length < icacheLines then st.icache else st.icache.drop 1) ++ [(line, d)] }

/-- The word of a cached line at an address. -/
def lineWord (d : BitVec 512) (va : Nat) : Word32 := d.extractLsb' (8 * (va % 64)) 32

/-- One instruction word of a core's strand `st`: from its cache, else from memory on path S, with the line that holds it;
a line with an uncorrectable granule is not kept. -/
def fetchWord (s : State) (n : Nat) (st : Strand) (va : Nat) : Fetched :=
  match st.icache.find? fun x => x.1 == va / 64 with
  | some x => .ok (lineWord x.2 va) st
  | none =>
    match translate s (coreCluster n) (s.core n).ctx va .fetch with
    | .ok pa _ _ =>
      let read := fun a k => readUnder s { path := 0, core := n, task := (s.core n).task, kind := .a, id := s.nextId, reach := 0 }
        ((s.core n).stores.filter OutStore.atCore) a k
      (match read (pa / 64 * 64) 64 with
       | .ok bs =>
         let d := BitVec.ofNat 512 (leNat bs)
         .ok (lineWord d va) (st.cacheLine (va / 64) d)
       | .error _ =>
         match read pa 4 with
         | .error g => .data g (BitVec.ofNat 64 va)
         | .ok bs => .ok (BitVec.ofNat 32 (leNat bs)) st)
    | .noMap => .trap 10 (BitVec.ofNat 64 va)
    | .onDemand _ => .trap 10 (BitVec.ofNat 64 va)
    | .forbidden => .trap 11 (BitVec.ofNat 64 va)
    | .malformed => .walk (BitVec.ofNat 64 va)
    | .poisoned _ => .walk (BitVec.ofNat 64 va)

/-- What a fetch of several words comes to: the words before the first that fails, and the failure if one does. -/
structure FetchedAll where
  words : List Word32
  st : Strand
  bad : Option Fetched

/-- The `k` words from an address on. -/
def fetchWords (s : State) (n : Nat) (va : Nat) : Nat → Strand → FetchedAll
  | 0, st => ⟨[], st, none⟩
  | k + 1, st =>
    match fetchWord s n st va with
    | .ok w st1 =>
      let r := fetchWords s n (va + 4) k st1
      ⟨w :: r.words, r.st, r.bad⟩
    | f => ⟨[], st, some f⟩

/-- A failed fetch acted on: the trap at the bundle, or the fault (R122, R269, R285). -/
def fetchFail (s : State) (n : Nat) (k : Kind) (f : Fetched) : State :=
  let pc := ((s.core n).strand k).pc
  match f with
  | .ok _ _ => s
  | .trap code va => trapEntry s n k code va pc pc 0 false
  | .walk va => (s.postFault (s.core n).ctx 0x12 0 0x200 0 va 0).modStrand n k Strand.stop
  | .data g va => s.strandData n k va g

/-! ### Judging a head (R21, R123) -/

/-- What a strand's head comes to before its instructions are tried. -/
inductive Head where
  | settled (s : State)
  | wait (s : State) (cls : Nat) (flag : Nat)
  | go (s : State) (b : Bundle)

/-- The strand may issue: it runs, waits or is in its handler, and its core's task runs, with every saved command re-entered
(R23, R262, R293). -/
def mayIssue (s : State) (n : Nat) (k : Kind) : Bool :=
  let c := s.core n
  (match (c.strand k).mode with
   | .running => true
   | .waiting => true
   | .trapped => true
   | .idle => false
   | .halted => false
   | .stopped => false) &&
  (match c.task with
   | none => false
   | some t =>
     match s.task? t with
     | none => false
     | some t => t.cmds.isEmpty && (t.st == .running || (t.st == .stopping && t.why == 0 && t.cutAt.isNone)))

/-- The member mask of a join tag (R18). -/
def Core.joinMask (c : Core) (t : Nat) : BitVec 4 := tget 0 c.joins t

/-- A member of the mask, another than `k`, has halted. -/
def partnerHalted (c : Core) (m : BitVec 4) (k : Kind) : Bool :=
  Kind.all.any fun j => j != k && m.getLsbD j.code && (c.strand j).mode == .halted

/-- A trap of the header: its position is 0. -/
def headTrap (s : State) (n : Nat) (k : Kind) (code : Nat) (tval : Word) : State :=
  let pc := ((s.core n).strand k).pc
  trapEntry s n k code tval pc pc 0 false

/-- A limit of `lim` × 1,024 cycles that began to count at `since` has passed at the last tick (R143). -/
def limitPassed (now since lim : Nat) : Bool := lim != 0 && decide (lim * 1024 + since ≤ now / 1024 * 1024)

/-- A limit of `core.watchdog` has passed, at a tick that follows the last write of that register (R143). -/
def Core.waitPassed (c : Core) (now since lim : Nat) : Bool :=
  limitPassed now since lim && decide (c.wdSince < now / 1024 * 1024)

/-- The core with the errors of tokens reported (R117). A rejection by the A strand in the same cycle goes before the report of
another strand's trap, which then clears it too: the model's choice (log 123). -/
def reportToks (c : Core) (ts : List Nat) : Core := ts.foldl (fun c i => c.setTok i (c.tok i).report) c

/-- A strand's head judged by R39 on the words `ws` that a fetch has brought, the first failure after them being `bad`. What
the words at hand show to be illegal goes before the failure (R39, R123, log 105); a BRK in the first word needs no other (R74). -/
def judgeWords (s : State) (n : Nat) (k : Kind) (hdr : Word32) (ws : List Word32) (bad : Option Fetched) : Head :=
  let pc := ((s.core n).strand k).pc
  let illegal := fun p w => Head.settled (trapEntry s n k 0 (illegalTval p w) pc pc p false)
  let h := decodeHeader hdr
  let whole := bad.isNone || (!ws.isEmpty && isBrkWord (ws.headD 0))
  if whole then
    match decodeBundle k hdr (ws ++ List.replicate (h.words - ws.length) 0) with
    | .ok b => .go s b
    | .error (.illegal p w) => illegal p w
    | .error .short => .settled s
  else
    match itemsIllegal k 1 ws, bad with
    | some x, _ => illegal x.1 x.2
    | none, some f => .settled (fetchFail s n k f)
    | none, none => .settled s

/-- The decoded head of a strand: its words fetched and judged by R39, or the trap taken. -/
def decodeHead (s : State) (n : Nat) (k : Kind) : Head :=
  let st := (s.core n).strand k
  match fetchWord s n st st.pc.toNat with
  | .ok hdr st1 =>
    if headerOk (decodeHeader hdr) = false then
      .settled (trapEntry s n k 0 (illegalTval 0 hdr) st.pc st.pc 0 false)
    else
      let r := fetchWords s n (st.pc.toNat + 4) (decodeHeader hdr).words st1
      judgeWords (s.modStrand n k fun x => { x with icache := r.st.icache }) n k hdr r.words r.bad
  | f => .settled (fetchFail s n k f)

/-- The join checks that come before the header's waits (R18, R21): the trap's code, if any. -/
def joinTrap (pre : Core) (k : Kind) (h : Header) : Option Nat :=
  if h.sync = 0 then none
  else
    let m := pre.joinMask h.jtag.toNat
    if !m.getLsbD k.code then some 6
    else if partnerHalted pre m k then some 7
    else none

/-- The head of a strand judged up to the conditions of its instructions. `pre` is the core before the cycle. -/
def judgeHead (s : State) (pre : Core) (n : Nat) (k : Kind) : Head :=
  match decodeHead s n k with
  | .settled t => .settled t
  | .wait t c f => .wait t c f
  | .go s1 b =>
    match joinTrap pre k b.hdr with
    | some code => .settled (headTrap s1 n k code (b.hdr.jtag.zeroExtend 64))
    | none =>
      if !flagWaitOk pre b.hdr then .wait s1 1 b.hdr.wflag.toNat
      else if tokBusy pre b.hdr.tokmask then .wait s1 2 0
      else
        match tokErrs pre b.hdr.tokmask with
        | [] => .go s1 b
        | ts =>
          let t := headTrap s1 n k 9 (tokErrTval pre ts)
          .settled (if ((t.core n).strand k).mode = .trapped then t.modCore n fun c => reportToks c ts else t)

/-! ### Waiting and counting (R23, R386) -/

/-- `x` more on a counter of a table. -/
def addCount (t : Tab Word) (i : Nat) (x : Word) : Tab Word := tset 0 t i (tget 0 t i + x)

/-- One cycle counted in a class of R386, with the flag of a failed flag wait. -/
def countHead (s : State) (n : Nat) (k : Kind) (cls : Nat) (flag : Nat := 0) : State :=
  s.modCore n fun c =>
    { c with hcnt := addCount c.hcnt (4 * k.code + cls) 1, fwait := if cls = 1 then addCount c.fwait flag 1 else c.fwait,
             hcls := tput c.hcls k.code (cls, flag) }

/-- The strand waits at its head (R23); a trapped strand stays in its handler. -/
def Strand.hold (st : Strand) : Strand := if st.mode = .running then { st with mode := .waiting } else st

/-- A head held by its own conditions: it waits, the cycle is counted, and a join wait starts over (R21). -/
def waitHead (s : State) (n : Nat) (k : Kind) (cls flag : Nat) : State :=
  countHead (s.modStrand n k fun st => { st.hold with joinSince := none, fetchSince := none }) n k cls flag

/-- A ready joined head whose partner is not: it waits, noted as ready, or its join limit has passed (R21, R143). -/
def waitJoin (s : State) (n : Nat) (k : Kind) (h : Header) : State :=
  let since := ((s.core n).strand k).joinSince.getD s.now
  if (s.core n).waitPassed s.now since (s.core n).joinLimit.toNat then headTrap s n k 8 (h.jtag.zeroExtend 64)
  else
    let t := countHead (s.modStrand n k fun st => { st.hold with joinSince := some since, fetchSince := none }) n k 2
    { t with joinReady := t.joinReady ++ [(n, k)] }

end Sys2Proof.Machine
end

