-- ==== Sys2Proof/Machine/Operands.lean ====
section
/-! DEFINITION. Every operand form: the views, rows, columns, diagonals and broadcasts of the accumulator file
(R131 to R133, R212), regions (R202), the busy marks (R129, R130, R209), register pairs (R33, R152) and the packed
coordinate (R135). -/

namespace Sys2Proof.Machine

/-! ### Cells and elements (R131, R132) -/

/-- The bits of an element that starts at a bit of a row. -/
def accBits (acc : Tab Word32) (row bit w : Nat) : Nat :=
  bitsAt (tget 0 acc (512 * row + bit / 32)).toNat (bit % 32) w

/-- One element written; the other bits of its cell stay (R133). -/
def accSet (acc : Tab Word32) (x : AccWrite) : Tab Word32 :=
  let n := 512 * x.row + x.bit / 32
  tset 0 acc n (BitVec.ofNat 32 (setBits (tget 0 acc n).toNat (x.bit % 32) x.width x.bits))

/-- Elements written in order. -/
def accSetAll (acc : Tab Word32) (xs : List AccWrite) : Tab Word32 := xs.foldl accSet acc

/-! ### Vector operands (R133) -/

/-- Lane `j` of an operand in a view of width `w`: a broadcast gives the low bits of a register of the strand. -/
def laneBits (c : Core) (st : Strand) (w : Nat) (f : BitVec 11) (j : Nat) : Nat :=
  if vDir f == 3 then (st.reg (vIdx f)).toNat % 2 ^ w
  else
    let a := laneAt w f j
    accBits c.acc a.1 a.2 w

/-- The lane count of an operand: a broadcast takes that of a row of the view, in a reduction too, which is the model's choice
(R133, log 15). -/
def lanesOf (e : BitVec 3) (f : BitVec 11) : Nat := (opLanes e f).getD (rowLanes e)

/-- The spans that an operand reads; a broadcast reads none. -/
def readSpans (e : BitVec 3) (f : BitVec 11) : List (Nat × Nat × Nat) := if vDir f == 3 then [] else allSpans e f

/-- The registers that an operand reads. -/
def opRegs (f : BitVec 11) : List (BitVec 6) := if vDir f == 3 then [vIdx f] else []

/-! ### Busy cells (R129) -/

/-- A span widened to whole cells. -/
def cellSpan (s : Nat × Nat × Nat) : Nat × Nat × Nat :=
  let lo := s.2.1 / 32 * 32
  (s.1, lo, (s.2.1 + s.2.2 + 31) / 32 * 32 - lo)

/-- Two span lists that share a cell. -/
def cellsMeet (s t : List (Nat × Nat × Nat)) : Bool := spansMeet (s.map cellSpan) (t.map cellSpan)

/-- The cells that V instructions in progress write. -/
def vecBusy (c : Core) : List (Nat × Nat × Nat) := c.vops.flatMap fun o => o.spans

/-- The cells that M commands in progress or parked write. -/
def matBusy (c : Core) : List (Nat × Nat × Nat) :=
  (c.mops.flatMap fun o => o.spans) ++ c.replay.flatMap fun o => o.spans

/-- The cells that hold back a V instruction: those of earlier V instructions and of the M strand, whose bundle
goes first in a cycle (R130, R209). -/
def busyForV (s : State) : List (Nat × Nat × Nat) := vecBusy s.issue.pre ++ matBusy s.live

/-- The cells that an M bundle reads at issue, noted for the V bundle of the same cycle (R130). -/
def State.readCells (s : State) (xs : List (Nat × Nat × Nat)) : State :=
  { s with issue := { s.issue with mreads := s.issue.mreads ++ xs } }

/-- The cells that hold back an M command (R129). -/
def busyForM (s : State) : List (Nat × Nat × Nat) := vecBusy s.live ++ matBusy s.live

/-! ### Regions (R202) -/

/-- A region register's fields: row, first element column, rows, element columns; none when it breaks R202. -/
structure Region where
  row : Nat
  ecol : Nat
  nrow : Nat
  ncol : Nat
  deriving DecidableEq, Repr

/-- The fields of a region register. -/
def regionOf (x : Word) : Option Region :=
  if x.extractLsb' 43 21 == 0 && x.extractLsb' 30 2 == 0 && x.extractLsb' 19 5 == 0 && x.extractLsb' 6 2 == 0 then
    some { row := (x.extractLsb' 0 6).toNat, ecol := (x.extractLsb' 8 11).toNat,
           nrow := (x.extractLsb' 24 6).toNat + 1, ncol := (x.extractLsb' 32 11).toNat + 1 }
  else none

/-- A region inside the file in a view of width `w` (R202). -/
def regionFits (r : Region) (w : Nat) : Bool :=
  decide (r.row + r.nrow ≤ 64) && decide (r.ecol + r.ncol ≤ 512 * 32 / w)

/-- The bits of element (i, j) of a region. -/
def regionElem (acc : Tab Word32) (r : Region) (w i j : Nat) : Nat := accBits acc (r.row + i) ((r.ecol + j) * w) w

/-- The spans of a region. -/
def regionSpans (r : Region) (w : Nat) : List (Nat × Nat × Nat) :=
  (List.range r.nrow).map fun i => (r.row + i, r.ecol * w, r.ncol * w)

/-- The positions of a region. -/
def regionCells (r : Region) : List (Nat × Nat) :=
  (List.range r.nrow).flatMap fun i => (List.range r.ncol).map fun j => (i, j)

/-- One element of a region written. -/
def regionWrite (r : Region) (w i j x : Nat) : AccWrite :=
  { row := r.row + i, bit := (r.ecol + j) * w, width := w, bits := x }

/-! ### Pairs and coordinates -/

/-- The second register name of a pair whose first is even (R33, R152). -/
def pairOdd (r : BitVec 6) : BitVec 6 := r ||| 1

/-- The even register name of a pair field (R33). -/
def pairEven (j : BitVec 5) : BitVec 6 := j ++ (0 : BitVec 1)

/-- `outer` of a packed coordinate (R135). -/
def coOuter (x : Word) : BitVec 24 := x.extractLsb' 40 24
/-- `trow` of a packed coordinate. -/
def coRow (x : Word) : BitVec 20 := x.extractLsb' 20 20
/-- `tcol` of a packed coordinate. -/
def coCol (x : Word) : BitVec 20 := x.extractLsb' 0 20

/-- A tile's key from its context, record and coordinate. -/
def tileKey (ctx : BitVec 12) (r : Block) (outer trow tcol : Nat) : TileKey :=
  { ctx := ctx, tid := recTid r, outer := BitVec.ofNat 24 outer, trow := BitVec.ofNat 20 trow,
    tcol := BitVec.ofNat 20 tcol }

/-- The packed coordinate of a key. -/
def packKey (k : TileKey) : Word := k.outer ++ k.trow ++ k.tcol

/-- The tiles of a range of R163 in ascending row, then column. -/
def tileRange (x : Word) (nrow ncol : Nat) : List (Nat × Nat × Nat) :=
  (List.range nrow).flatMap fun i =>
    (List.range ncol).map fun j => ((coOuter x).toNat, (coRow x).toNat + i, (coCol x).toNat + j)

end Sys2Proof.Machine
end

