-- ==== Sys2Proof/Machine/Tiles.lean ====
section
/-! DEFINITION. Tile lines in the alcove and the hall, their lookup, replacement and write-back (R134 to R140,
R275 to R282, R415), the home galleries with their directory (R351 to R356), and the reading and writing of
tensor elements by engines (R302). -/

namespace Sys2Proof.Machine

/-! ### Banks and lines (R137, R275) -/

/-- A tile's bank in the alcove. -/
def alcoveBank (k : TileKey) : Nat :=
  (k.tid.extractLsb' 0 4 ^^^ k.tcol.extractLsb' 0 4 ^^^ k.trow.extractLsb' 4 4 ^^^ k.outer.extractLsb' 0 4).toNat

/-- A tile's bank in the hall. -/
def hallBank (k : TileKey) : Nat := (BitVec.ofNat 4 (alcoveBank k) ^^^ k.outer.extractLsb' 4 4).toNat

/-- The line of a tile in a cache. -/
def lineOf (ls : List TileLine) (k : TileKey) : Option TileLine := ls.find? fun l => l.key == k

/-- A cache with the line at a place changed. -/
def modLine (ls : List TileLine) (bank way : Nat) (f : TileLine → TileLine) : List TileLine :=
  ls.map fun l => if l.bank = bank ∧ l.way = way then f l else l

/-- A cache with the line at a place invalid. -/
def dropAtWay (ls : List TileLine) (bank way : Nat) : List TileLine :=
  ls.filter fun l => !(l.bank == bank && l.way == way)

/-- A versioned record. -/
def recVersioned (r : Block) : Bool := recVpol r == 1

/-- A line that may be read (R135, R136). -/
def TileLine.readable (l : TileLine) : Bool := l.st == .clean || l.st == .dirty || l.st == .draining

/-- A version at or after a minimum (R135). -/
def verMeets (ver : BitVec 8) (m : Option (BitVec 8)) : Bool :=
  match m with
  | none => true
  | some m => decide ((ver - m).toNat < 128)

/-- A lookup of R135. -/
def lookupLine (ls : List TileLine) (k : TileKey) (m : Option (BitVec 8)) : Option TileLine :=
  match lineOf ls k with
  | none => none
  | some l => if l.readable && verMeets l.ver m then some l else none

/-! ### Pseudo-LRU trees (R138, R279) -/

/-- The tree after a use of way `w`: every node on the way's path points away from it. Node 1 is the root, `i` has
the children 2`i` and 2`i` + 1, and a set bit points to the upper half. -/
def plruTouch (depth w tree : Nat) : Nat :=
  ((List.range depth).foldl
    (fun (acc : Nat × Nat) d =>
      let b := bitsAt w (depth - 1 - d) 1
      (2 * acc.1 + b, setBits acc.2 (acc.1 - 1) 1 (1 - b)))
    (1, tree)).2

/-- The walk of R138 among the ways for which `ok` holds, from a node that covers `n` = 2^depth ways at `lo`. -/
def plruWalk (tree : Nat) (ok : Nat → Bool) : Nat → Nat → Nat → Nat
  | 0, _, lo => lo
  | depth + 1, node, lo =>
    let half := 2 ^ depth
    let holds := fun (a : Nat) => (List.range half).any fun i => ok (a + i)
    let up := bitsAt tree (node - 1) 1 == 1
    if up then
      (if holds (lo + half) then plruWalk tree ok depth (2 * node + 1) (lo + half)
       else plruWalk tree ok depth (2 * node) lo)
    else
      (if holds lo then plruWalk tree ok depth (2 * node) lo
       else plruWalk tree ok depth (2 * node + 1) (lo + half))

/-- How a fill or a whole-line write finds its way. -/
inductive Pick where
  | free (way : Nat)
  | victim (l : TileLine)
  | none

/-- The lowest class among lines. -/
def lowestClass (ls : List TileLine) : Nat := ls.foldl (fun a l => Nat.min a l.cls.toNat) 3

/-- The choice of R138 in a bank of 2^`depth` ways: the lowest eligible invalid way, else a line of `first`, else by
class and tree among the candidates. Of several lines of `first` the one that stands first in the list is taken, which is the
model's choice (log 121). -/
def pickWay (depth tree : Nat) (bank : List TileLine) (eligible : Nat → Bool) (first cand : TileLine → Bool) : Pick :=
  match (List.range (2 ^ depth)).find? fun w => eligible w && bank.all fun l => l.way != w with
  | some w => .free w
  | none =>
    match bank.find? fun l => eligible l.way && first l with
    | some l => .victim l
    | none =>
      let cs := bank.filter fun l => eligible l.way && cand l
      match cs with
      | [] => .none
      | _ :: _ =>
        let cls := lowestClass cs
        let ds := cs.filter fun l => l.cls.toNat == cls
        let w := plruWalk tree (fun w => ds.any fun l => l.way == w) depth 1 0
        match ds.find? fun l => l.way == w with
        | some l => .victim l
        | none => .none

/-- The lines of a bank. -/
def bankOf (ls : List TileLine) (bank : Nat) : List TileLine := ls.filter fun l => l.bank == bank

/-- A tile that a command in the core has still to read (R138). -/
def neededBy (c : Core) (k : TileKey) : Bool := c.replay.any fun p => p.keys.contains k

/-- The way of a tile in the alcove (R138). -/
def alcovePick (c : Core) (k : TileKey) : Pick :=
  let b := alcoveBank k
  pickWay 4 (tget 0 c.aplru b).toNat (bankOf c.alcove b) (fun _ => true) (fun _ => false)
    fun l => (l.st == .clean || l.st == .dirty) && l.pins == 0 && !neededBy c l.key

/-- The alcove's tree after a use of a line. -/
def touchAlcove (c : Core) (bank way : Nat) : Core :=
  { c with aplru := tset 0 c.aplru bank (BitVec.ofNat 15 (plruTouch 4 way (tget 0 c.aplru bank).toNat)) }

/-! ### Retention (R281, R282) -/

/-- The ways of an active retention register. -/
def retainWays (c : Cluster) (n : Nat) : Nat :=
  if (tget 0 c.retainSel n).getLsbD 63 then ((tget 0 c.retainSel n).extractLsb' 48 8).toNat else 0

/-- The ways that a register holds: below this number … -/
def retainHi (c : Cluster) (n : Nat) : Nat := 256 - ((List.range n).map fun i => retainWays c i).sum

/-- A tile matches a register (R282). -/
def retainMatch (c : Cluster) (n : Nat) (k : TileKey) : Bool :=
  let sel := tget 0 c.retainSel n
  let rng := tget 0 c.retainRng n
  sel.getLsbD 63 && sel.extractLsb' 36 12 == k.ctx && sel.extractLsb' 0 24 == k.tid &&
  rng.extractLsb' 0 24 == k.outer && decide ((rng.extractLsb' 24 20).toNat ≤ k.trow.toNat) &&
  decide (k.trow.toNat ≤ (rng.extractLsb' 44 20).toNat)

/-- The register that holds a way. -/
def wayOwner (c : Cluster) (w : Nat) : Option Nat :=
  (List.range 4).find? fun n => decide (retainHi c (n + 1) ≤ w) && decide (w < retainHi c n)

/-- The ways that are eligible for a tile (R282). -/
def wayEligible (c : Cluster) (k : TileKey) (w : Nat) : Bool :=
  wayOwner c w == (List.range 4).find? fun n => retainMatch c n k

/-- A line in a reserved way that does not match the way's register (R279). -/
def misplaced (c : Cluster) (l : TileLine) : Bool :=
  match wayOwner c l.way with
  | none => false
  | some n => !retainMatch c n l.key

/-- A request has been forwarded to a hall. -/
def ReqStage.isAt (x : ReqStage) (hall : Nat) : Bool :=
  match x with
  | .forwarded h _ => h == hall
  | _ => false

/-- A hall serves a forwarded request for a tile. -/
def forwarding (s : State) (hall : Nat) (k : TileKey) : Bool := s.reqs.any fun r => r.key == k && r.stage.isAt hall

/-- A core of a cluster has a publication of a tile under way whose drain has reached the hall. -/
def publishing (s : State) (cl : Nat) (k : TileKey) : Bool :=
  (List.range 16).any fun i => (s.core (16 * cl + i)).pubs.any fun p => p.key == k && p.drained && recVersioned p.lrec

/-- A hall line that may not leave: it serves a forwarded request (R278), or its publication has still to reach the home, which
the write-back follows (log 124). -/
def heldLine (s : State) (cl : Nat) (k : TileKey) : Bool := forwarding s cl k || publishing s cl k

/-- The way of a tile in a hall (R279). A misplaced line is taken first only when it too is unpinned and free to leave, which is the
model's choice (log 121). -/
def hallPick (s : State) (cl : Nat) (k : TileKey) : Pick :=
  let c := s.cluster cl
  let b := hallBank k
  let idle := fun (l : TileLine) => (l.st == .clean || l.st == .dirty) && l.pins == 0 && !heldLine s cl l.key
  pickWay 8 (tget 0 c.hplru b).toNat (bankOf c.hall b) (wayEligible c k) (fun l => idle l && misplaced c l) idle

/-- The hall's tree after a use of a line. -/
def touchHall (c : Cluster) (bank way : Nat) : Cluster :=
  { c with hplru := tset 0 c.hplru bank (BitVec.ofNat 255 (plruTouch 8 way (tget 0 c.hplru bank).toNat)) }

/-! ### Page attributes of a tile (R139, R277, log 20) -/

/-- The leaf of the page that holds a tile's first element. -/
def tileLeaf (s : State) (cl : Nat) (k : TileKey) (r : Block) : Option Word :=
  match tileIdx r k.outer.toNat k.trow.toNat k.tcol.toNat 0 0 with
  | none => none
  | some idx =>
    match lookupVa s cl k.ctx (elemAddr r idx).1 with
    | .ok _ leaf _ => some leaf
    | .noMap => none
    | .onDemand _ => none
    | .malformed => none
    | .poisoned _ => none
    | .forbidden => none

/-- The `lvl` of a tile's page: 0 both, 1 hall only, 2 none. -/
def tileLvl (s : State) (cl : Nat) (k : TileKey) (r : Block) : Nat :=
  match tileLeaf s cl k r with
  | none => 0
  | some leaf => leafLvl leaf

/-- The `wt` of a tile's page. -/
def tileWt (s : State) (cl : Nat) (k : TileKey) (r : Block) : Bool :=
  match tileLeaf s cl k r with
  | none => false
  | some leaf => leafWt leaf

/-- The class of a fill without a hint (R139). -/
def tileCls (s : State) (cl : Nat) (k : TileKey) (r : Block) : BitVec 2 :=
  match recHint r with
  | 1 => 1
  | 2 => 3
  | 3 => 0
  | _ =>
    match tileLeaf s cl k r with
    | none => 2
    | some leaf => leafCls leaf

/-! ### The directory (R351 to R355) -/

/-- A tile's home gallery. -/
def homeOf (k : TileKey) : Nat :=
  (k.tid.zeroExtend 29 ^^^ k.outer.zeroExtend 29 ^^^ (k.trow.zeroExtend 29 <<< 4) ^^^ (k.tcol.zeroExtend 29 <<< 9)).toNat % 384

/-- A tile without an entry. -/
def noEntry (k : TileKey) : DirEntry := { key := k, nv := 0, req := 0, hv := false, hdie := 0, hcl := 0, pk := false }

/-- A tile's directory entry. -/
def dirOf (s : State) (k : TileKey) : DirEntry := (s.dir.find? fun e => e.key == k).getD (noEntry k)

/-- The sets of a gallery's directory: 1,048,576 entries in 16 ways (R352). -/
def dirSets : Nat := 65536

/-- The set in which a tile's entry stands (R352, log 21). -/
def dirSetOf (k : TileKey) : Nat × Nat := (homeOf k, Config.dirSet k.ctx k.tid k.outer k.trow k.tcol % dirSets)

/-- An entry in the state in which it is removed. -/
def DirEntry.isDefault (e : DirEntry) : Bool := e.nv == 0 && e.req == 0 && !e.hv && !e.pk

/-- The directory with an entry written, or the directory-overflow fault when its set is full (R352, R369). -/
def setDir (s : State) (e : DirEntry) : State :=
  let rest := s.dir.filter fun x => x.key != e.key
  if e.isDefault then { s with dir := rest }
  else if s.dir.any fun x => x.key == e.key then { s with dir := s.dir.map fun x => if x.key == e.key then e else x }
  else if 16 ≤ (s.dir.filter fun x => dirSetOf x.key == dirSetOf e.key).length then
    s.postFault e.key.ctx 0x20 0 (BitVec.ofNat 64 (0x700 + homeOf e.key)) 0 (packKey e.key) 0
  else { s with dir := s.dir ++ [e] }

/-- Dist of R353. -/
def verDist (a b : BitVec 8) : Nat := (a - b).toNat

/-- Meets of R353 for the newest version. -/
def DirEntry.meets (e : DirEntry) (m : Option (BitVec 8)) (free : Bool) : Bool :=
  verMeets e.nv m && (decide (verDist e.nv e.req < 128) || free)

/-- A cluster's package number as die and cluster. -/
def clPlace (cl : Nat) : Nat × Nat := (cl / 10, cl % 10)

/-- The hall that an entry names as holder. -/
def DirEntry.holder (e : DirEntry) : Nat := 10 * e.hdie + e.hcl

/-! ### Faults of fills and write-backs (R199, R356) -/

/-- The head of `fq` where a fill is charged to a CUBE or MMA of the core (R268): one whose bundle is followed by `pc` is in
the replay queue. -/
def fillFqw (c : Core) (pc : Word) : Word := if c.replay.any fun p => p.kind != 2 && p.pc == pc then c.fqHead else 0

/-- The fault of a fill or write-back, posted with the strand that it is charged to: a translation fault names the
bundle after the command, a data error the command's own (R269); `fqw` is the word of R268. -/
def tileFault (s : State) (ctx : BitVec 12) (unit pc base fqw : Word) (f : AccFail) : State :=
  match f with
  | .access va => s.postFault ctx 0x08 0 unit pc (BitVec.ofNat 64 va) fqw
  | .walk va => s.postFault ctx 0x12 0 0x200 0 (BitVec.ofNat 64 va) 0
  | .data pa =>
    if unreachable s pa then s.dataFault ctx 0x03 (unit.extractLsb' 10 2).toNat unit base pa
    else s.postFault ctx 0x03 0 unit base (BitVec.ofNat 64 pa) fqw

/-- The core of a `strand.id` (R14). -/
def unitCore (u : Word) : Nat :=
  160 * (u.extractLsb' 10 2).toNat + 16 * (u.extractLsb' 6 4).toNat + (u.extractLsb' 2 4).toNat

/-- The party of a line's write-back: the strand that wrote it last, on path T, from the cluster's hall (R255). -/
def TileLine.writer (s : State) (l : TileLine) : Party :=
  { path := 1, core := unitCore l.unit, task := (s.core (unitCore l.unit)).task,
    kind := Kind.ofCode (l.unit.extractLsb' 0 2).toNat, id := s.nextId, reach := 2, rels := l.rels }

/-! ### The home's side (R353) -/

/-- The lines that a request has reserved are given up. -/
def dropFilling (s : State) (r : TileReq) : State :=
  let gone := fun (l : TileLine) => !(l.key == r.key && l.st == .filling)
  let t := s.modCluster r.cluster fun c => { c with hall := c.hall.filter gone }
  match r.core with
  | none => t
  | some n => t.modCore n fun c => { c with alcove := c.alcove.filter gone }

/-- The party for which a home reads a tile (R248): of a versioned tensor it finds every write on path T, since a publication
makes the tile whole (R175); of another it may miss those that nothing carried to it before it was asked for (R254, R257). -/
def TileReq.reader (s : State) (r : TileReq) : Party :=
  let id := if recVersioned r.lrec then s.nextId else r.asOf
  match r.core with
  | none => { path := 1, core := 16 * r.cluster, task := none, kind := .m, id := id, reach := 2 }
  | some n =>
    { path := 1, core := n, task := (s.core n).task, id := id, reach := 1, kind := match r.who with
        | some x => x.1
        | none => .m }

/-- The failure of a fill that only a hint asked for has no effect, but where a peer without a route was asked (R393). -/
def endHint (s : State) (r : TileReq) (f : AccFail) : State :=
  dropFilling (match f with
    | .access _ => s
    | .walk _ => s
    | .data pa => if unreachable s pa then s.dataFault r.key.ctx 0x03 (r.cluster / 10) 0 0 pa else s) r

/-- The element data that a home serves from memory (R356). -/
def homeServe (s : State) (r : TileReq) (e : DirEntry) : State × Option TileReq :=
  match gatherTile (s.asSeen (r.reader s)) r.cluster r.key.ctx r.lrec r.key.outer.toNat r.key.trow.toNat r.key.tcol.toNat with
  | .ok d =>
    (markTile s r.cluster r.key.ctx r.lrec r.key.outer.toNat r.key.trow.toNat r.key.tcol.toNat,
     some { r with stage := .toHall e.nv d })
  | .error f =>
    match r.who with
    | none => (endHint s r f, none)
    | some (k, pc, base) =>
      (match r.core with
       | some n => tileFault s r.key.ctx (strandId s n k) pc base (fillFqw (s.core n) pc) f
       | none => tileFault s r.key.ctx 0 pc base 0 f, none)

/-- The forwarding credits that a home keeps for each hall (R366). -/
def forwardCredits : Nat := 2

/-- The requests that a home has forwarded to a hall and that it has not answered. -/
def forwardedTo (s : State) (home hall : Nat) : Nat :=
  (s.reqs.filter fun r => r.stage.isAt hall && homeOf r.key == home).length

/-- A request judged at its home (R353), which forwards only while it holds a credit for the hall (R366). `full` says that
the park buffer cannot take it. -/
def judgeReq (s : State) (r : TileReq) (full : Bool) : State × Option TileReq :=
  if !recVersioned r.lrec then homeServe s r (noEntry r.key)
  else
    let e := dirOf s r.key
    if !e.meets r.minv r.free || (e.hv && decide (forwardCredits ≤ forwardedTo s (homeOf r.key) e.holder)) then
      (if full then (s, some { r with stage := .retry s.now })
       else (setDir s { e with pk := true }, some { r with stage := .parked }))
    else if e.hv then (s, some { r with stage := .forwarded e.holder e.nv })
    else homeServe s r e

/-- The requests with one replaced, or taken out; one that parks goes behind the others, so that the list keeps the order of
parking (R353). -/
def setReq (s : State) (id : Nat) (r : Option TileReq) : State :=
  { s with reqs := match r with
      | some r =>
        if r.stage = .parked then (s.reqs.filter fun q => q.id != id) ++ [r]
        else s.reqs.map fun q => if q.id == id then r else q
      | none => s.reqs.filter fun q => q.id != id }

/-- The parked requests of a tile judged again, in the order in which they parked (R353). -/
def rejudge (s : State) (k : TileKey) : State :=
  let ps := s.reqs.filter fun r => r.key == k && r.stage == .parked
  let t := ps.foldl
    (fun t r =>
      let x := judgeReq t { r with stage := .home } false
      setReq x.1 r.id x.2) s
  let e := dirOf t k
  let still := t.reqs.any fun r => r.key == k && r.stage == .parked
  if e.pk && !still then setDir t { e with pk := false } else t

/-- The parked requests of a home for a hall's tiles judged again once the hall has answered a forwarded request (R366). -/
def rejudgeHall (s : State) (home hall : Nat) : State :=
  ((s.reqs.filter fun r => r.stage == .parked && homeOf r.key == home && (dirOf s r.key).hv && (dirOf s r.key).holder == hall).map
    fun r => r.key).eraseDups.foldl rejudge s

/-! ### Write-backs at the home (R354, R356) -/

/-- A write-back of a tile of version `w` from the hall of a cluster at its home (R354, R356); the tile's parked requests are
judged again (R353). -/
def homeWrite (s : State) (cl : Nat) (l : TileLine) : State :=
  let e := dirOf s l.key
  let fromHolder := e.hv && e.holder == cl
  if recVersioned l.lrec && !fromHolder && (e.hv || e.nv != l.ver) then s
  else
    match scatterTile (l.writer s) l.byAst s cl l.key.ctx l.lrec l.key.outer.toNat l.key.trow.toNat l.key.tcol.toNat l.data with
    | .error f => tileFault s l.key.ctx l.unit l.pc l.base 0 f
    | .ok t => if recVersioned l.lrec then rejudge (if e.hv then setDir t { e with hv := false } else t) l.key else t

/-! ### Write-backs (R278, R415) -/

/-- The hall's line after a write-back of an alcove line, which it holds or has allocated; `old` is the line that it held, whose
writes are owed to the home with the new ones (R255). -/
def hallWritten (l : TileLine) (bank way : Nat) (pins : BitVec 16) (cls : BitVec 2) (st : LineState)
    (old : Option TileLine := none) : TileLine :=
  let x : TileLine := { l with bank := bank, way := way, pins := pins, cls := cls, st := st, keep := false, thru := false }
  if st = .clean then { x with units := [], rels := [], byAst := false }
  else
    match old with
    | none => x
    | some h => { x with units := (l.units ++ h.units).eraseDups, rels := h.rels ++ l.rels, byAst := l.byAst || h.byAst }

/-- The write-back of an alcove line's tile of core `n`: into the hall, or past it to the home (R415), which judges it
by the version `own` of the alcove line (log 27). -/
def writeBack (s : State) (n : Nat) (l : TileLine) (own : BitVec 8) : State :=
  let cl := coreCluster n
  let past := { l with ver := own }
  let b := hallBank l.key
  let wt := tileWt s cl l.key l.lrec
  let st : LineState := if wt then .clean else .dirty
  let cls := if l.thru then tileCls s cl l.key l.lrec else l.cls
  match lineOf (s.cluster cl).hall l.key with
  | some h =>
    if h.readable && !verMeets l.ver (some h.ver) then s
    else
      let t := s.modCluster cl fun c =>
        touchHall { c with hall := modLine c.hall h.bank h.way fun h => hallWritten l h.bank h.way h.pins h.cls st (some h) }
          h.bank h.way
      if wt then homeWrite t cl past else t
  | none =>
    if tileLvl s cl l.key l.lrec = 2 then homeWrite s cl past
    else
      match hallPick s cl l.key with
      | .free w =>
        let t := s.modCluster cl fun c =>
          touchHall { c with hall := c.hall ++ [hallWritten l b w 0 cls st] } b w
        if wt then homeWrite t cl past else t
      | .victim v =>
        let s1 := if v.st = .dirty then homeWrite s cl v else s
        let t := s1.modCluster cl fun c =>
          touchHall { c with hall := dropAtWay c.hall b v.way ++ [hallWritten l b v.way 0 cls st] } b v.way
        if wt then homeWrite t cl past else t
      | .none => homeWrite s cl past

/-- The version that a draining line takes (R370): the one that the publication for which it drains will give, the
publications of the tile ahead of it in the core counted. -/
def pubLabel (s : State) (n : Nat) (k : TileKey) : Option (BitVec 8) :=
  (((s.core n).pubs.filter fun p => p.key == k).findIdx? fun p => !p.drained).map fun i =>
    (dirOf s k).nv + BitVec.ofNat 8 (i + 1)

/-- A line that drains for a publication. -/
def TileLine.forPub (l : TileLine) : Bool := l.st == .draining && l.keep && recVersioned l.lrec

/-- The line as it is written back: one that drains for a publication takes the version that this gives (R370). -/
def asPublished (s : State) (n : Nat) (l : TileLine) : TileLine :=
  if l.forPub then { l with ver := (pubLabel s n l.key).getD l.ver } else l

/-- The first publication of a tile that waits for its drain has it. -/
def markDrained (k : TileKey) : List Publication → List Publication
  | [] => []
  | p :: ps => if p.key = k ∧ p.drained = false then { p with drained := true } :: ps else p :: markDrained k ps

/-- A dirty or draining alcove line written back; it stays clean when it is kept and is dropped otherwise. -/
def drainLine (s : State) (n : Nat) (l : TileLine) (keep : Bool) : State :=
  let t := writeBack s n (asPublished s n l) l.ver
  t.modCore n fun c =>
    { c with
      pubs := if l.forPub then markDrained l.key c.pubs else c.pubs
      alcove :=
        if keep then modLine c.alcove l.bank l.way fun x => { x with st := .clean, keep := false, units := [], rels := [], byAst := false }
        else dropAtWay c.alcove l.bank l.way }

/-- A dirty or draining hall line written back to its home: a draining one leaves, a dirty one stays clean. -/
def drainHallLine (s : State) (cl : Nat) (l : TileLine) : State :=
  let t := homeWrite s cl l
  t.modCluster cl fun c =>
    { c with hall :=
        if l.st = .draining then dropAtWay c.hall l.bank l.way
        else modLine c.hall l.bank l.way fun x => { x with st := .clean, units := [], rels := [], byAst := false } }

/-- The alcove with every clean line of an unversioned tensor dropped (R254): what an acquire at cluster scope or
wider does. -/
def dropUnversioned (c : Core) : Core :=
  { c with alcove := c.alcove.filter fun l => !(l.st == .clean && !recVersioned l.lrec) }

/-! ### Tile requests (R136, R276 to R279, R353) -/

/-- The bit of a core in a hall line's pins (R275). -/
def pinBit (n : Nat) : BitVec 16 := 1#16 <<< (n % 16)

/-- The pins with which a hall line is reserved for a request: those that the line before it had, and that of a PIN. -/
def reqPins (r : TileReq) (old : BitVec 16) : BitVec 16 :=
  match r.core, r.pinBy with
  | none, some n => old ||| pinBit n
  | _, _ => old

/-- A way of the hall reserved for a request that missed there, which goes to the home (R279). Without a way a demand fill
and a PIN wait; the hall fill of an itinerary or of residency gating is dropped, and an alcove fill behind it goes on
without a hall line (R279, R280). -/
def hallReserve (s : State) (r : TileReq) (pins : BitVec 16) : State × Option TileReq :=
  let cl := r.cluster
  let b := hallBank r.key
  let fresh := fun (w : Nat) =>
    ({ bank := b, way := w, key := r.key, ver := 0, cls := r.cls, pins := reqPins r pins, st := .filling, keep := false,
       thru := false, unit := 0, pc := 0, base := 0, lrec := r.lrec, data := 0, fill := r.id } : TileLine)
  match hallPick s cl r.key with
  | .free w =>
    (s.modCluster cl fun c => { c with hall := c.hall ++ [fresh w] }, some { r with stage := .home, line := true, since := s.now })
  | .victim v =>
    let s1 := if v.st = .dirty then homeWrite s cl v else s
    (s1.modCluster cl fun c => { c with hall := dropAtWay c.hall b v.way ++ [fresh v.way] },
     some { r with stage := .home, line := true, since := s.now })
  | .none =>
    if r.itin then (s, r.core.map fun _ => { r with stage := .home, since := s.now }) else (s, some r)

/-- The hall's lookup for a request (R276): served, joined to a fill under way, or sent to the home with a way
reserved; a PIN sets its pin on the line that it finds (R163). A line whose version fails is dropped, a dirty one drained first
(R135). -/
def hallLookup (s : State) (r : TileReq) : State × Option TileReq :=
  let cl := r.cluster
  let lvl := tileLvl s cl r.key r.lrec
  match lookupLine (s.cluster cl).hall r.key r.minv with
  | some l =>
    let t := s.modCluster cl fun c =>
      touchHall { c with hall := modLine c.hall l.bank l.way fun x => { x with pins := reqPins r x.pins } } l.bank l.way
    match r.core with
    | none => (t, none)
    | some _ => (t, some { r with stage := .toCore l.ver l.data })
  | none =>
    if lvl = 2 then (s, some { r with stage := .home, since := s.now })
    else
      match lineOf (s.cluster cl).hall r.key with
      | some l =>
        if l.st = .filling || heldLine s cl r.key then (s, some r)
        else
          let t := if l.st = .clean then s else homeWrite s cl l
          hallReserve (t.modCluster cl fun c => { c with hall := dropAtWay c.hall l.bank l.way }) r l.pins
      | none => hallReserve s r 0

/-- A new request, looked up in the hall at once. -/
def newReq (s : State) (r : TileReq) : State :=
  let i := s.takeId
  let x := hallLookup i.2 { r with id := i.1, asOf := i.1 }
  match x.2 with
  | none => x.1
  | some r => { x.1 with reqs := x.1.reqs ++ [r] }

/-- What an alcove lookup of a command finds. -/
inductive Looked where
  | hit (l : TileLine)
  | missed (s : State)

/-- A request of core `n` for a tile is under way. -/
def requested (s : State) (n : Nat) (k : TileKey) : Bool := s.reqs.any fun r => r.key == k && r.core == some n

/-- A fill that waits for an alcove way (R138), noted once for a tile with the pin that it asks for. -/
def awaitWay (s : State) (r : TileReq) : State :=
  let same := fun (q : TileReq) => q.key == r.key && q.core == r.core && q.stage == .alcove
  if s.reqs.any same then
    { s with reqs := s.reqs.map fun q => if same q then { q with pinBy := q.pinBy.or r.pinBy } else q }
  else
    let i := s.takeId
    { i.2 with reqs := i.2.reqs ++ [{ r with id := i.1, asOf := i.1, stage := .alcove }] }

/-- How a fill of an alcove line is asked for: its minimum version, its class where a hint names one, whether it is the fill
of a partial write, whether it pins the line, the command that it is for, and whether an itinerary started it. -/
structure FillFor where
  minv : Option (BitVec 8) := none
  cls : Option (BitVec 2) := none
  free : Bool := false
  pin : Bool := false
  who : Option (Kind × Word × Word) := none
  itin : Bool := false

/-- A fill of an alcove line started by core `n` (R136, R138): a dirty victim drains, the way is reserved and the
request sent. A page that forbids the alcove passes through a line of class 0 and fills the hall as usual (R139, R277).
Without a candidate a command goes on waiting in the replay queue, and another fill waits by itself. -/
def startFill (s : State) (n : Nat) (k : TileKey) (r : Block) (f : FillFor) : State :=
  let cl := coreCluster n
  let c := s.core n
  let b := alcoveBank k
  let lvl := tileLvl s cl k r
  let cls := f.cls.getD (tileCls s cl k r)
  let line := fun (w id : Nat) =>
    ({ bank := b, way := w, key := k, ver := 0, cls := if lvl = 0 then cls else 0, pins := if f.pin then 1 else 0,
       st := .filling, keep := false, thru := decide (lvl ≠ 0), unit := 0, pc := 0, base := 0, lrec := r, data := 0,
       fill := id } : TileLine)
  let req : TileReq :=
    { id := 0, cluster := cl, core := some n, key := k, lrec := r, minv := f.minv, free := f.free, cls := cls,
      lvl := 1, who := f.who, stage := .hall, itin := f.itin, pinBy := if f.pin then some n else none }
  match alcovePick c k with
  | .free w => newReq (s.setCore n { c with alcove := c.alcove ++ [line w s.nextId] }) req
  | .victim v =>
    let t := if v.st = .dirty then drainLine s n v false else s
    newReq (t.modCore n fun c => { c with alcove := dropAtWay c.alcove b v.way ++ [line v.way t.nextId] }) req
  | .none => if f.who.isSome then s else awaitWay s req

/-- The alcove line of a tile that a command may read: it meets R135 and stands under the command's record (R140). -/
def alcoveHit (c : Core) (k : TileKey) (r : Block) (m : Option (BitVec 8)) : Option TileLine :=
  match lookupLine c.alcove k m with
  | none => none
  | some l => if l.lrec = r then some l else none

/-- A lookup by core `n` that starts a fill on a miss (R135, R136). -/
def lookupTile (s : State) (n : Nat) (k : TileKey) (r : Block) (m : Option (BitVec 8)) (who : Option (Kind × Word × Word)) :
    Looked :=
  let c := s.core n
  match alcoveHit c k r m with
  | some l => .hit l
  | none =>
    match lineOf c.alcove k with
    | none => .missed (startFill s n k r { minv := m, who := who })
    | some l =>
      match l.st with
      | .filling =>
        .missed { s with reqs := s.reqs.map fun q =>
          if q.key == k && q.core == some n then { q with who := q.who.or who, minv := m.or q.minv } else q }
      | .draining => .missed s
      | .clean => .missed (startFill (s.setCore n { c with alcove := dropAtWay c.alcove l.bank l.way }) n k r
        { minv := m, who := who })
      | .dirty =>
        .missed (s.setCore n { c with alcove := modLine c.alcove l.bank l.way fun x =>
          { x with st := .draining, keep := false } })

/-! ### Publications (R174, R354) -/

/-- A hall's dirty line of a tile takes the version that a publication gives, where another core's publication came before it
(R370). -/
def relabel (c : Cluster) (k : TileKey) (v : BitVec 8) : Cluster :=
  { c with hall := c.hall.map fun l =>
      if l.key = k ∧ (l.st = .dirty ∨ l.st = .draining) ∧ verMeets l.ver (some v) = false then { l with ver := v } else l }

/-- A publication at the home (R354): the newest version rises; the holder is the publishing hall when it holds a
dirty line of the tile, which then has that version. -/
def publishTile (s : State) (cl : Nat) (k : TileKey) : State :=
  let e := dirOf s k
  let dirty : Bool := match lineOf (s.cluster cl).hall k with
    | some l => l.st == .dirty || l.st == .draining
    | none => false
  let e1 := { e with nv := e.nv + 1 }
  let t := s.modCluster cl fun c => relabel c k e1.nv
  rejudge (setDir t (if dirty then { e1 with hv := true, hdie := cl / 10, hcl := cl % 10 } else e1)) k

/-- A publication of one tile performed (R174): the line that drains for it passes to the hall, the home counts the version,
and the alcove's clean line takes it. A line written since its drain is not part of it (R175). -/
def performPub (s : State) (n : Nat) (p : Publication) : State :=
  let s1 : State :=
    match lineOf (s.core n).alcove p.key with
    | none => s
    | some l => if !p.drained && l.st == LineState.draining then drainLine s n l true else s
  let s2 := s1.modCore n fun c => { c with pubs := c.pubs.filter fun q => q.id != p.id }
  if !recVersioned p.lrec then s2
  else
    let v := (dirOf s2 p.key).nv + 1
    let s3 := publishTile s2 (coreCluster n) p.key
    s3.modCore n fun c =>
      let c1 := { c with alcove := c.alcove.map fun l => if l.key == p.key && l.st == .clean then { l with ver := v } else l }
      match p.pa with
      | none => c1
      | some (k, phys) =>
        c1.setStrand k { (c1.strand k).setPhys phys (v.zeroExtend 64) with
          pend := (c1.strand k).pend.filter fun x => x != phys }

/-- Every publication of a core performed, in order. -/
def performPubs (s : State) (n : Nat) : State := (s.core n).pubs.foldl (fun t p => performPub t n p) s

/-- Every dirty or draining alcove line for which `p` holds written back, and kept clean; where one drains for a
publication the core's publications go first. -/
def drainAlcove (s : State) (n : Nat) (p : TileLine → Bool) : State :=
  let s1 := if (s.core n).alcove.any fun l => l.forPub && p l then performPubs s n else s
  ((s1.core n).alcove.filter fun l => (l.st == .dirty || l.st == .draining) && p l).foldl
    (fun t l => drainLine t n l (l.st == .dirty || l.keep)) s1

/-- The publications performed whose drains have brought those lines of a hall for which `p` holds: their write-backs follow them
(log 124). -/
def settlePubs (s : State) (cl : Nat) (p : TileLine → Bool) : State :=
  (List.range 16).foldl
    (fun t i =>
      if (t.core (16 * cl + i)).pubs.any fun q => q.drained && recVersioned q.lrec &&
          (t.cluster cl).hall.any fun l => l.key == q.key && p l then performPubs t (16 * cl + i)
      else t) s

/-- Every dirty or draining hall line for which `p` holds written back, after the publications of them. -/
def drainHall (s0 : State) (cl : Nat) (p : TileLine → Bool) : State :=
  let s := settlePubs s0 cl p
  ((s.cluster cl).hall.filter fun l => (l.st == .dirty || l.st == .draining) && p l).foldl
    (fun t l => drainHallLine t cl l) s

/-- A record change (R140): dirty lines of a tensor drained under their record, then every line of it dropped; a fill
under way goes on for the hall alone. -/
def purgeTensor (s : State) (n : Nat) (ctx : BitVec 12) (tid : BitVec 24) : State :=
  let mine := fun (k : TileKey) => k.ctx == ctx && k.tid == tid
  let t := (drainAlcove s n fun l => mine l.key).modCore n fun c =>
    { c with alcove := c.alcove.filter fun l => !mine l.key }
  { t with reqs := t.reqs.map fun r => if r.core = some n ∧ mine r.key then { r with core := none, who := none, pinBy := none } else r }

/-- Fills on their way at an acquire (R254), those for which `q` holds, of unversioned tensors: they read what it carries, and
one whose data was read before it is asked for again. -/
def restartFills (s : State) (q : TileReq → Bool) : State :=
  { s with reqs := s.reqs.map fun r =>
      if recVersioned r.lrec || !q r then r
      else
        { r with asOf := s.nextId, since := s.now, stage := match r.stage with
            | .toHall _ _ => .home
            | .toCore _ _ => .hall
            | st => st } }

/-! ### Elements by engines (R302) -/

/-- The tile that holds an element of a tensor, and the element's place in it (R146). -/
def elemTile (r : Block) (idx : List Nat) : (Nat × Nat × Nat) × Nat × Nat :=
  if recRank r = 1 then
    let x := idx.headD 0
    let per := recRows r * recCols r
    ((0, 0, x / per), x % per / recCols r, x % recCols r)
  else
    let i := idx.getD (recTdr r) 0
    let j := idx.getD (recTdc r) 0
    let o := ((List.range (recRank r)).foldl
      (fun (acc : Nat × Nat) d =>
        if d = recTdr r ∨ d = recTdc r then acc else (acc.1 + acc.2 * idx.getD d 0, acc.2 * recExt r d)) (0, 1)).1
    ((o, i / recRows r, j / recCols r), i % recRows r, j % recCols r)

/-- A tensor index as (dimension, index) pairs. -/
def pairIdx (r : Block) (idx : List Nat) : List (Nat × Nat) :=
  (List.range (recRank r)).map fun d => (d, idx.getD d 0)

/-- The line from which an engine of cluster `cl` reads a tile: its own hall's, for a versioned tile only at the
newest version, else the holder hall's when the newest data is dirty there (R302, R353, log 22). `own` is none
for an engine without a hall. -/
def engineLine (s : State) (own : Option Nat) (k : TileKey) (r : Block) : Option TileLine :=
  let e := dirOf s k
  let near := match own with
    | none => none
    | some cl =>
      match lookupLine (s.cluster cl).hall k none with
      | none => none
      | some l => if recVersioned r && l.ver != e.nv then none else some l
  match near with
  | some l => some l
  | none => if recVersioned r && e.hv then lookupLine (s.cluster e.holder).hall k none else none

/-- An element of a tensor read by an engine, with the format of the bits: its memory format, or the tile format for
the pad of an unbacked page (R362). -/
def engineVal (s : State) (own : Option Nat) (cl : Nat) (ctx : BitVec 12) (r : Block) (idx : List Nat) :
    Except AccFail (Nat × Nat) :=
  let t := elemTile r idx
  match engineLine s own (tileKey ctx r t.1.1 t.1.2.1 t.1.2.2) r with
  | some l => .ok ((convert (recTfmt r) (recEfmt r) .rne false (lineElem r l.data t.2.1 t.2.2)).1, recEfmt r)
  | none =>
    match readElem s cl ctx r (pairIdx r idx) with
    | .error f => .error f
    | .ok none => .ok (recPad r, recTfmt r)
    | .ok (some x) => .ok (x, recEfmt r)

/-- An element of a tensor read by an engine as bits of its memory format. -/
def engineRead (s : State) (own : Option Nat) (cl : Nat) (ctx : BitVec 12) (r : Block) (idx : List Nat) :
    Except AccFail Nat :=
  match engineVal s own cl ctx r idx with
  | .error f => .error f
  | .ok x => .ok (convert x.2 (recEfmt r) .rne false x.1).1

/-- A line with one element replaced. -/
def setLineElem (r : Block) (l : Line) (i j x : Nat) : Line :=
  let w := fmtWidth (recTfmt r)
  BitVec.ofNat 32768 (setBits l.toNat (w * (i * recCols r + j)) w x)

/-- An element of a tensor written by an engine: at its home in memory, and in its own hall's line (R302). -/
def engineWrite (s : State) (own : Option Nat) (cl : Nat) (ctx : BitVec 12) (r : Block) (idx : List Nat) (x : Nat) :
    Except AccFail State :=
  match writeElem s cl ctx r (pairIdx r idx) x with
  | .error f => .error f
  | .ok t =>
    match own with
    | none => .ok t
    | some h =>
      let p := elemTile r idx
      let k := tileKey ctx r p.1.1 p.1.2.1 p.1.2.2
      match lookupLine (t.cluster h).hall k none with
      | none => .ok t
      | some l =>
        .ok (t.modCluster h fun c =>
          { c with hall := modLine c.hall l.bank l.way fun y =>
              { y with data := setLineElem r y.data p.2.1 p.2.2 (convert (recEfmt r) (recTfmt r) .rne false x).1 } })

end Sys2Proof.Machine
end

