-- ==== Sys2Proof/Machine/Order.lean ====
section
/-! DEFINITION. The order of accesses (R101, R105, R106, R248 to R255): the loads and stores of a core that are
still outstanding, what a release performs, what an acquire drops, and the commands a fence waits for (log 8). -/

namespace Sys2Proof.Machine

/-! ### Outstanding accesses (R250) -/

/-- An outstanding load or atomic that must return before a later access of its strand to a range. -/
def olderLoad (c : Core) (k : Kind) (id pa n : Nat) : Bool :=
  c.loads.any fun l => l.strand == k && decide (l.id < id) && rangesMeet l.pa l.size pa n

/-- An outstanding store that must be performed before a later access of a strand to a range: one of its own, or one that is
performed at core scope, which the strand may have seen (R250, R252, R254). -/
def olderStore (c : Core) (k : Kind) (id pa n : Nat) : Bool :=
  c.stores.any fun t => (t.strand == k || t.atCore) && decide (t.id < id) && rangesMeet t.pa t.bytes.length pa n

/-- The strand has loads or atomics outstanding. -/
def hasLoads (c : Core) (k : Kind) : Bool := c.loads.any fun l => l.strand == k

/-- The strand has an acquiring load or atomic outstanding: its later accesses wait (R101). -/
def acquiring (c : Core) (k : Kind) : Bool := c.loads.any fun l => l.strand == k && l.acq.isSome

/-- The stores that a load of strand `k` with number `id` sees before memory does: its strand's earlier ones, and
those of the core that are performed at core scope. -/
def visibleStores (c : Core) (k : Kind) (id : Nat) : List OutStore :=
  c.stores.filter fun t => (t.strand == k && decide (t.id < id)) || t.atCore

/-- The scalar data cache with bytes of a performed store written into its line (R149). -/
def scacheWrite (ls : List (Nat × BitVec 512)) (pa : Nat) (bs : List Byte) : List (Nat × BitVec 512) :=
  ls.map fun l =>
    if l.1 = pa / 64 then (l.1, BitVec.ofNat 512 (setBits l.2.toNat (8 * (pa % 64)) (8 * bs.length) (leNat bs))) else l

/-- A strand as the party of its accesses on path S. -/
def strandParty (s : State) (n : Nat) (k : Kind) (id : Nat) : Party :=
  { path := 0, core := n, task := (s.core n).task, kind := k, id := id, reach := 0 }

/-- A store performed at its home (R396, R414): memory, and the core's scalar line. -/
def performStore (s : State) (n : Nat) (t : OutStore) : State :=
  let r := writeAs (strandParty s n t.strand t.id) t.z s t.pa t.bytes
  let u := r.1.modCore n fun c =>
    { c with stores := c.stores.filter fun x => x.id != t.id, scache := scacheWrite c.scache t.pa t.bytes }
  match r.2 with
  | none => u
  | some g => u.dataFault (s.core n).ctx 3 (coreDie n) (strandId s n t.strand) t.pc g

/-- The stores of a core for which `p` holds performed, in issue order, with those performed at core scope that are older
than one of them: no store overtakes one that its strand may have seen (R252, R254). -/
def flushStores (s : State) (n : Nat) (p : OutStore → Bool) : State :=
  let ts := (s.core n).stores
  let last := ((ts.filter p).map fun t => t.id).foldl Nat.max 0
  (ts.filter fun t => p t || (t.atCore && decide (t.id < last))).foldl (fun t x => performStore t n x) s

/-- The stores of a strand performed at core scope. -/
def coreStores (c : Core) (k : Kind) : Core :=
  { c with stores := c.stores.map fun t => if t.strand = k then { t with atCore := true } else t }

/-! ### Loads and atomics performed (R149, R155 to R160) -/

/-- A core with a register of a strand written by a load and no longer pending (R155). -/
def Core.landReg (c : Core) (k : Kind) (phys : Nat) (x : Word) : Core :=
  c.setStrand k { (c.strand k).setPhys phys x with pend := (c.strand k).pend.filter fun p => p != phys }

/-- The value of loaded bytes, extended to 64 bits. -/
def loadedWord (signed : Bool) (bs : List Byte) : Word :=
  if signed then BitVec.ofInt 64 (signedAt (8 * bs.length) (leNat bs)) else BitVec.ofNat 64 (leNat bs)

/-- The lines that the scalar data cache holds at most (R149). -/
def scacheLines : Nat := 512

/-- The scalar data cache with a line allocated; when it is full its oldest line leaves. -/
def scacheAlloc (ls : List (Nat × BitVec 512)) (line : Nat) (d : BitVec 512) : List (Nat × BitVec 512) :=
  (if ls.length < scacheLines then ls else ls.drop 1) ++ [(line, d)]

/-- The line of a load that misses, read for allocation; a line that holds an uncorrectable granule is not allocated
(log 99). -/
def allocLine (s : State) (p : Party) (c : Core) (pa : Nat) : Core :=
  match readPhys (s.asSeen p) (pa / 64 * 64) 64 with
  | .error _ => c
  | .ok bs => { c with scache := scacheAlloc c.scache (pa / 64) (BitVec.ofNat 512 (leNat bs)) }

/-- The bytes that a load of core `n` finds below the core's stores: the scalar line on a hit, else memory. -/
def loadBase (s : State) (n : Nat) (c : Core) (l : OutLoad) : Except Nat (List Byte) :=
  match (if l.cached then c.scache.find? fun x => x.1 == l.pa / 64 else none) with
  | some x => .ok (leBytes l.size (x.2.toNat / 2 ^ (8 * (l.pa % 64))))
  | none => readPhys (cleanUnder (s.asSeen (strandParty s n l.strand l.id)) (visibleStores c l.strand l.id)) l.pa l.size

/-- The core with a load's result written: its register, or the lane entries that it reserved. -/
def landLoad (c : Core) (now : Nat) (l : OutLoad) (x : Word) : Core :=
  match l.use with
  | .reg k phys => c.landReg k phys x
  | .lanes => c.fillLanes now l.id x
  | .atomic k phys _ _ _ _ => c.landReg k phys x

/-- An outstanding load or atomic taken out of the core's list. -/
def takeLoad (c : Core) (id : Nat) : Core := { c with loads := c.loads.filter fun x => x.id != id }

/-- A load's data error: the fault, its destination left unfilled (R155, R157, R270). -/
def loadError (s : State) (n : Nat) (l : OutLoad) (g : Nat) : State :=
  (s.modCore n fun c => takeLoad c l.id).dataFault (s.core n).ctx 3 (coreDie n) (strandId s n l.strand) l.pc g

/-- A load performed (R155, R157). -/
def performLoad (s : State) (n : Nat) (l : OutLoad) : State :=
  let c := s.core n
  match loadBase s n c l with
  | .error g => loadError s n l g
  | .ok base =>
    let bs := (visibleStores c l.strand l.id).foldl (overlay l.pa) base
    let hit := l.cached && c.scache.any fun x => x.1 == l.pa / 64
    let c1 := if l.cached && l.alloc && !hit then allocLine s (strandParty s n l.strand l.id) c l.pa else c
    let c2 := landLoad (takeLoad c1 l.id) s.now l (loadedWord l.signed bs)
    markRead (s.setCore n c2) l.pa l.size

/-- The new value of an atomic on `n` bits (R159). `op`: 0 ADD, 1 SWP, 2 CAS, 3 AND, 4 OR, 5 XOR, 6 MIN, 7 MAX. -/
def amoNew (op n : Nat) (unsigned : Bool) (old a cmp : Nat) : Option Nat :=
  let less := if unsigned then decide (old % 2 ^ n ≤ a % 2 ^ n) else decide (signedAt n old ≤ signedAt n a)
  match op with
  | 0 => some ((old + a) % 2 ^ n)
  | 1 => some (a % 2 ^ n)
  | 2 => if old % 2 ^ n = cmp % 2 ^ n then some (a % 2 ^ n) else none
  | 3 => some (Nat.land old (a % 2 ^ n))
  | 4 => some (Nat.lor old (a % 2 ^ n))
  | 5 => some (Nat.xor old (a % 2 ^ n))
  | 6 => some (if less then old else a % 2 ^ n)
  | _ => some (if less then a % 2 ^ n else old)

/-- The 256-byte line of an address poisoned (R160, R348). -/
def poisonLine (s : State) (pa : Nat) : State :=
  { s with poison := s.poison ++ (granules (pa / 256 * 256) 256).filter fun g => !s.poison.contains g }

/-- An atomic performed at its home agent (R159, R160): one read and one write, the old value zero-extended. It finds the newest
bytes, which its strand goes on finding (R254, R414). On an uncorrectable error it writes nothing, and the line is poisoned. -/
def performAtomic (s : State) (n : Nat) (l : OutLoad) (op : Nat) (unsigned : Bool) (arg cmp : Word) : State :=
  match readPhys s l.pa l.size with
  | .error g => loadError (if unreachable s l.pa then s else poisonLine s l.pa) n l g
  | .ok bs =>
    let old := leNat bs
    let t :=
      let p := strandParty s n l.strand l.id
      let s1 := s.meetWrites p l.pa l.size
      match amoNew op (8 * l.size) unsigned old arg.toNat cmp.toNat with
      | none => s1
      | some x => (writeAs p l.z s1 l.pa (leBytes l.size x)).1
    markRead (t.modCore n fun c =>
      let d := landLoad (takeLoad c l.id) s.now l (BitVec.ofNat 64 old)
      { d with scache := d.scache.filter fun x => x.1 != l.pa / 64 }) l.pa l.size

/-! ### Engine commands of a core -/

/-- The commands of an engine. -/
def Bte.cmds (b : Bte) : List EngineCmd :=
  b.vest ++ (b.runq.filterMap fun e => match e with
    | .cmd c => some c
    | .marker _ => none) ++ b.act

/-- Every accepted engine command that has not completed, those included that a resumed task has still to re-enter. -/
def allCmds (s : State) : List EngineCmd :=
  (s.clusters.flatMap fun x => (x.2.btes.flatMap fun b => b.2.cmds) ++ x.2.selq ++ x.2.lndq) ++
  (s.dies.flatMap fun x => x.2.rteq ++ x.2.collq) ++
  s.tasks.flatMap fun t => if t.saved then [] else t.cmds

/-- `lnd` and `slot` of a UNM command's place word (R300). -/
def unmLnd (x : Nat) : Nat := bitsAt x 8 6
@[inherit_doc unmLnd] def unmSlot (x : Nat) : Nat := bitsAt x 0 8

/-- What names the place of a command of the Landing or the Concourse: word 8 of a setup's block, word 0 of a registration's or
a count's, else the register. -/
def cmdPlace (c : EngineCmd) : Nat :=
  match c.fn with
  | 0 => bfield c.block 8 0 64
  | 1 => bfield c.block 0 0 64
  | _ => (c.regs.headD 0).toNat

/-- The path of a command, as the bit of a path mask (R104, R182, R248): B 2, E 3, F 4. -/
def EngineCmd.path (c : EngineCmd) : Nat :=
  if c.op < 0x30 then 2 else if c.op < 0x34 then 3 else 4

/-- An engine as the party of a command's accesses: cluster scope holds the block-transfer engines, the selection unit and the
Landing, which may be one of another cluster (R300), die scope the Concourse and the collective unit (R253). -/
def EngineCmd.party (c : EngineCmd) : Party :=
  { path := c.path, core := c.core, task := c.task, kind := .a, id := c.id, reach := if c.op < 0x32 then 2 else 3,
    place := if c.op = 0x31 then some (16 * unmLnd (cmdPlace c)) else none }

/-- What the completion of a command releases of its accesses (R116, R117, R251, R301): at its scope, and at cluster scope at
least for a token wait. -/
def State.passDone (s : State) (c : EngineCmd) : State :=
  let scope := if c.fe || decide (0x30 ≤ c.op) then Nat.max 2 c.scope else 2
  { s with hist := s.hist.map fun w =>
      if w.path == c.path && w.core == c.core && w.task == c.task && w.kind == .a && w.cmd == c.id then
        { w with rels := w.rels ++ [(c.core, scope)], seen := w.seen ++ [⟨c.core, scope, 0b11110#5, s.nextId⟩] }
      else w }

/-- A core's commands on a path are outstanding, a promotion counting on B (R176). -/
def cmdsOn (s : State) (n path : Nat) : Bool :=
  ((allCmds s).any fun c => c.core == n && c.path == path) ||
  (path == 2 && s.moves.any fun m => m.core == n && (m.st == .wait || m.st == .copying || m.st == .switching))

/-! ### Releases and acquires (R101, R251, R255) -/

/-- A hall without its clean lines of unversioned tensors. -/
def dropHallClean (c : Cluster) : Cluster :=
  { c with hall := c.hall.filter fun l => !(l.st == .clean && !recVersioned l.lrec) }

/-- The core's tile lines that an acquire at cluster scope or wider drops (R254), with the fills on their way to the core. -/
def dropCoreTiles (s : State) (n : Nat) : State :=
  restartFills (s.modCore n dropUnversioned) fun r => r.core == some n

/-- The hall lines that an acquire beyond the cluster drops, with the fills on their way to the hall. -/
def dropHallTiles (s : State) (cl : Nat) : State := restartFills (s.modCluster cl dropHallClean) fun r => r.cluster == cl

/-- What an acquire at a scope drops (R149, R254): at cluster scope or wider the core's scalar lines and its clean
lines of unversioned tensors, and beyond the cluster such lines of its hall; fills whose data was read before it are
asked for again. -/
def acquireAt (s : State) (n scope : Nat) : State :=
  if scope < 2 then s
  else
    let t := dropCoreTiles (s.modCore n fun c => { c with scache := [] }) n
    if scope = 2 then t else dropHallTiles t (coreCluster n)

/-- What a satisfied token wait drops (R117, log 23): the core's and its hall's clean lines of unversioned tensors. -/
def tokenAcquire (s : State) (n : Nat) : State := dropHallTiles (dropCoreTiles s n) (coreCluster n)

/-- One outstanding load or atomic of a core performed, with what its acquire drops. An atomic goes behind its strand's earlier
stores to its place and the other strand's that are performed at core scope, which a load may have found (R254). -/
def finishLoad (s : State) (n : Nat) (l : OutLoad) : State :=
  let t :=
    match l.use with
    | .reg _ _ => performLoad s n l
    | .lanes => performLoad s n l
    | .atomic _ _ op u arg cmp =>
      performAtomic (flushStores s n fun x =>
        (if x.strand == l.strand then decide (x.id < l.id) else x.atCore) && rangesMeet x.pa x.bytes.length l.pa l.size)
        n l op u arg cmp
  match l.acq with
  | none => t
  | some scope => acquireAt t n scope

/-- Every outstanding load and atomic of a strand performed, in issue order. -/
def finishLoads (s : State) (n : Nat) (k : Kind) : State :=
  ((s.core n).loads.filter fun l => l.strand == k).foldl (fun t l => finishLoad t n l) s

/-- A hall line whose data must reach the home before a release of strand `u` is performed beyond the cluster: the strand's
own, or one of an unversioned tensor of its context, by which another core's write-back may have replaced it (R249). -/
def coversWrite (u : Word) (ctx : BitVec 12) (l : TileLine) : Bool :=
  wroteLine u l || (l.key.ctx == ctx && !recVersioned l.lrec)

/-- A strand's tile writes performed at a scope (R255): the lines it wrote drained to the hall, beyond the cluster to
the home, and the publications of the A strand performed. -/
def tilesAt (s : State) (n : Nat) (k : Kind) (scope : Nat) : State :=
  if scope < 2 then s
  else
    let u := strandId s n k
    let s1 := if k = .a then performPubs s n else s
    let s2 := drainAlcove s1 n (wroteLine u)
    if scope = 2 then s2 else drainHall s2 (coreCluster n) (coversWrite u (s.core n).ctx)

/-- What a release at a scope performs of the issuing strand's accesses (R101, R255): its loads, its stores, and
the tile lines that it wrote, as far as the scope asks. -/
def releaseAt (s : State) (n : Nat) (k : Kind) (scope : Nat) : State :=
  let s0 := finishLoads s n k
  if scope = 0 then s0
  else if scope = 1 then (s0.modCore n fun c => coreStores c k).passRelease n k scope
  else (tilesAt (flushStores s0 n fun t => t.strand == k) n k scope).passRelease n k scope

/-- The effect of an ordering field: a release first, an acquire after (R101). -/
def ordRelease (ord : BitVec 2) : Bool := ord.getLsbD 1

/-- The ordering field asks for an acquire. -/
def ordAcquire (ord : BitVec 2) : Bool := ord.getLsbD 0

/-- The clusters within a scope of a core (R249). -/
def scopeClusters (n scope : Nat) : List Nat :=
  if scope ≤ 2 then [coreCluster n]
  else if scope = 3 then (List.range 10).map fun i => 10 * coreDie n + i
  else List.range 40

/-! ### At issue -/

/-- A command or fence waits behind an acquiring load of its strand (R101). -/
def memReady (s : State) (x : Out) : Out := if acquiring s.issue.pre s.issue.kind then hold s else x

/-- A release of the M strand waits until its parked commands have performed (log 8). -/
def releasing (s : State) (b : Bool) (f : Out) : Out :=
  if b && s.issue.kind == .m && !s.issue.pre.replay.isEmpty then hold s else f

/-! ### Reads of blocks, records and lists at issue (R153, R161, R248) -/

/-- The bytes that a strand's read at issue finds: memory under its own earlier stores and those of its core that are
performed at core scope; or the address of an uncorrectable granule. -/
def ownBytes (s : State) (pa n : Nat) : Except Nat (List Byte) :=
  readUnder s (strandParty s s.issue.core s.issue.kind s.nextId) (visibleStores s.live s.issue.kind s.nextId) pa n

/-- Bytes of one page read at issue on path S; an uncorrectable error is the data-error fault. -/
def pageRead (s : State) (pa n : Nat) (f : List Byte → Out) : Out :=
  match ownBytes s pa n with
  | .error g => dataAt s g
  | .ok bs => f bs

/-- The stop of an address without a valid mapping, permission apart (R153). -/
def mapStop (s : State) (va : Word) : Option Out :=
  match lookupVa s (coreCluster s.issue.core) s.live.ctx va.toNat with
  | .ok _ _ _ => none
  | .forbidden => none
  | .noMap => some (trapAt s 10 va)
  | .onDemand _ => some (trapAt s 10 va)
  | .malformed => some (walkErrorAt s va)
  | .poisoned _ => some (walkErrorAt s va)

/-- Bytes read at issue on path S from a virtual address, over a page boundary where they cross one: both pages are
translated before the permission of either (R153). -/
def strandRead (s : State) (va : Word) (n : Nat) (f : List Byte → Out) : Out :=
  let m := Nat.min n (0x4000 - va.toNat % 0x4000)
  if m = n then strandTranslate s va .read fun pa _ => pageRead s pa n f
  else
    let vb := va + BitVec.ofNat 64 m
    match (mapStop s va).or (mapStop s vb) with
    | some o => o
    | none =>
      strandTranslate s va .read fun pa _ =>
        strandTranslate s vb .read fun pb _ =>
          pageRead s pa m fun xs => pageRead s pb (n - m) fun ys => f (xs ++ ys)

end Sys2Proof.Machine
end

