-- ==== Sys2Proof/Machine/Hints.lean ====
section
/-! DEFINITION. Layout records (R140, R148, R161) and tile hints (R162 to R165, R280): LAYDEF, LAYINV, PIN, UNPIN,
LASTUSE, STREAM, PFIT and PFITCAN. -/

namespace Sys2Proof.Machine

/-! ### LAYDEF and LAYINV (R161) -/

/-- A record installed in the acting core; a replaced one has its tensor's lines purged first (R140, R148). -/
def installAt (s : State) (n : Nat) (r : Block) (rs : List Block) : State :=
  let t := if (findRec (s.core n).recs (recTid r)).isSome then purgeTensor s n (s.core n).ctx (recTid r) else s
  t.modCore n fun c => { c with recs := rs }

/-- LAYDEF. -/
def execLaydef (g ra : BitVec 6) (s : State) : Out :=
  guarded g s fun s => ready s [ra] (memReady s (
    let ea := s.rd ra
    if ea.toNat % 128 ≠ 0 then trapAt s 1 ea
    else
      strandRead s ea 128 fun bs =>
        let r := blockOf bs
        if recordOk r && arenaOk r then
          match installRec s.live.recs r with
          | none => trapAt s 12 ea
          | some rs => .next (installAt s s.issue.core r rs)
        else trapAt s 12 ea))

/-- LAYINV. -/
def execLayinv (g ra : BitVec 6) (s : State) : Out :=
  guarded g s fun s => ready s [ra] (memReady s (
    match handleRec s.issue.pre.recs (s.rd ra) with
    | none => .next s
    | some r =>
      .next ((purgeTensor s s.issue.core s.live.ctx (recTid r)).modLive fun c =>
        { c with recs := c.recs.filter fun x => recTid x != recTid r })))

/-! ### The range of a hint (R163) -/

/-- The tiles of a hint's range, with their keys, by the records as they stood before the cycle (R16, R20); none for a tile
that is skipped. -/
def hintTiles (s : State) (sa : BitVec 6) (nrow ncol : BitVec 8) : List (Option (TileKey × Block)) :=
  let x := s.rd (pairOdd sa)
  (tileRange x (nrow.toNat + 1) (ncol.toNat + 1)).map fun t =>
    match handleRec s.issue.pre.recs (s.rd sa) with
    | none => none
    | some r =>
      if inGrid r t.1 t.2.1 t.2.2 then some (tileKey s.live.ctx r t.1 t.2.1 t.2.2, r) else none

/-- The alcove's line of a tile changed. -/
def modAlcove (s : State) (n : Nat) (k : TileKey) (f : TileLine → TileLine) : State :=
  s.modCore n fun c => { c with alcove := c.alcove.map fun l => if l.key = k then f l else l }

/-- A hall's line of a tile changed. -/
def modHall (s : State) (cl : Nat) (k : TileKey) (f : TileLine → TileLine) : State :=
  s.modCluster cl fun c => { c with hall := c.hall.map fun l => if l.key = k then f l else l }

/-- The tiles of a bank that are pinned in a cache, those included whose pinned fill waits for a way. -/
def pinnedIn (ls : List TileLine) (waiting : List TileKey) (bankOfKey : TileKey → Nat) (bank : Nat) : Nat :=
  (ls.filter fun l => l.bank == bank && l.pins != 0).length + (waiting.filter fun k => bankOfKey k == bank).length

/-- A tile's line in a cache is pinned by someone. -/
def isPinned (ls : List TileLine) (k : TileKey) : Bool := ls.any fun l => l.key == k && l.pins != 0

/-- The tiles whose pinned fill waits for an alcove way of core `n`. -/
def alcoveWaits (s : State) (n : Nat) : List TileKey :=
  (s.reqs.filter fun r => r.core == some n && r.stage == .alcove && r.pinBy.isSome).map fun r => r.key

/-- The tiles whose pinned fill waits for a way of a hall. -/
def hallWaits (s : State) (cl : Nat) : List TileKey :=
  (s.reqs.filter fun r => r.cluster == cl && r.core.isNone && r.stage == .hall && r.pinBy.isSome).map fun r => r.key

/-! ### PIN and UNPIN -/

/-- A tile pinned in the alcove (R139, R163): the state, and whether it was refused. A fill without a way waits (R138). -/
def pinAlcove (s : State) (n : Nat) (k : TileKey) (r : Block) : State × Bool :=
  let c := s.core n
  let w := alcoveWaits s n
  if tileLvl s (coreCluster n) k r ≠ 0 then (s, true)
  else if !isPinned c.alcove k && !w.contains k && decide (12 ≤ pinnedIn c.alcove w alcoveBank (alcoveBank k)) then (s, true)
  else if (lineOf c.alcove k).isSome then (modAlcove s n k fun l => { l with pins := 1 }, false)
  else (startFill s n k r { pin := true }, false)

/-- A fill of the hall alone (R163, R165, R295), asked for as `f` says. -/
def fillHall (s : State) (cl : Nat) (k : TileKey) (r : Block) (f : FillFor) (pinBy : Option Nat := none) : State :=
  if (lineOf (s.cluster cl).hall k).isSome then s
  else
    newReq s { id := 0, cluster := cl, core := none, key := k, lrec := r, minv := none, free := false,
               cls := f.cls.getD (tileCls s cl k r), lvl := 2, who := none, stage := .hall, itin := f.itin, pinBy := pinBy }

/-- A tile pinned in the hall (R280): the state, and whether it was refused. A fill without a way waits (R279). -/
def pinHall (s : State) (n : Nat) (k : TileKey) (r : Block) : State × Bool :=
  let cl := coreCluster n
  let h := (s.cluster cl).hall
  let w := hallWaits s cl
  if tileLvl s cl k r = 2 then (s, true)
  else if !isPinned h k && !w.contains k && decide (128 ≤ pinnedIn h w hallBank (hallBank k)) then (s, true)
  else (modHall (fillHall s cl k r {} (some n)) cl k fun l => { l with pins := l.pins ||| pinBit n }, false)

/-- One tile of a PIN: the state with the count of refused tiles. -/
def pinTile (n : Nat) (lvl : BitVec 2) (acc : State × Nat) (t : Option (TileKey × Block)) : State × Nat :=
  match t with
  | none => (acc.1, acc.2 + 1)
  | some (k, r) =>
    let a := if lvl.getLsbD 0 then pinAlcove acc.1 n k r else (acc.1, false)
    let h := if lvl.getLsbD 1 then pinHall a.1 n k r else (a.1, false)
    (h.1, if a.2 || h.2 then acc.2 + 1 else acc.2)

/-- PIN. -/
def execPin (g rd rp : BitVec 6) (nrow ncol : BitVec 8) (lvl : BitVec 2) (s : State) : Out :=
  guarded g s fun s => ready s [rd, rp, pairOdd rp] (memReady s (
    let r := (hintTiles s rp nrow ncol).foldl (pinTile s.issue.core lvl) (s, 0)
    .next (r.1.wr rd (BitVec.ofNat 64 r.2))))

/-- The fills asked for by PINs of a core, of a tile where one is given, no longer pin: in the alcove (`hall` false) or in the
hall. -/
def unpinReqs (s : State) (n : Nat) (hall : Bool) (k : Option TileKey) : State :=
  { s with reqs := s.reqs.map fun r =>
      if r.pinBy = some n ∧ r.core.isNone = hall ∧ (k = none ∨ k = some r.key) then { r with pinBy := none } else r }

/-- One tile of an UNPIN. -/
def unpinTile (n : Nat) (lvl : BitVec 2) (s : State) (t : Option (TileKey × Block)) : State :=
  match t with
  | none => s
  | some (k, _) =>
    let s1 := if lvl.getLsbD 0 then unpinReqs (modAlcove s n k fun l => { l with pins := 0 }) n false (some k) else s
    if lvl.getLsbD 1 then
      unpinReqs (modHall s1 (coreCluster n) k fun l => { l with pins := l.pins &&& ~~~pinBit n }) n true (some k)
    else s1

/-- UNPIN. -/
def execUnpin (g rp : BitVec 6) (nrow ncol : BitVec 8) (lvl : BitVec 2) (s : State) : Out :=
  guarded g s fun s => ready s [rp, pairOdd rp] (memReady s (
    .next ((hintTiles s rp nrow ncol).foldl (unpinTile s.issue.core lvl) s)))

/-! ### LASTUSE and STREAM -/

/-- A line after its last use: clean, it leaves; dirty, it drains from this cycle on. -/
def retireLine (now : Nat) (ls : List TileLine) (k : TileKey) : List TileLine :=
  (ls.filter fun l => !(l.key == k && l.st == .clean)).map fun l =>
    if l.key = k ∧ l.st = .dirty then { l with st := .draining, keep := false, since := now } else l

/-- The last use of a tile taken at the levels of a hint. In a hall a dirty line drains once a forwarded request that it serves
has been answered, and a clean one then leaves (R163, R278). -/
def retireTile (s : State) (n : Nat) (k : TileKey) (lvl : BitVec 2) : State :=
  let s1 := if lvl.getLsbD 0 then s.modCore n fun c => { c with alcove := retireLine s.now c.alcove k } else s
  if lvl.getLsbD 1 then
    if forwarding s (coreCluster n) k then modHall s1 (coreCluster n) k fun l => if l.readable then { l with thru := true } else l
    else s1.modCluster (coreCluster n) fun c => { c with hall := retireLine s.now c.hall k }
  else s1

/-- The hall line of a tile whose last use waited for a forwarded request that has been answered (R163, R278). -/
def retireServed (s : State) (hall : Nat) (k : TileKey) : State :=
  if forwarding s hall k || !((s.cluster hall).hall.any fun l => l.key == k && l.thru) then s
  else s.modCluster hall fun c => { c with hall := retireLine s.now c.hall k }

/-- An earlier M command has still to read a tile. -/
def readsBefore (c : Core) (k : TileKey) (bound : Nat) : Bool :=
  c.replay.any fun p => decide (p.id < bound) && p.keys.contains k

/-- One tile of a LASTUSE: at once, or after the M commands issued before the hint. -/
def lastuseTile (n : Nat) (lvl : BitVec 2) (s : State) (t : Option (TileKey × Block)) : State :=
  match t with
  | none => s
  | some (k, _) =>
    if readsBefore (s.core n) k s.nextId then
      s.modCore n fun c => { c with lastuse := c.lastuse ++ [(k, s.nextId, lvl)] }
    else retireTile s n k lvl

/-- LASTUSE. -/
def execLastuse (g rp : BitVec 6) (nrow ncol : BitVec 8) (lvl : BitVec 2) (s : State) : Out :=
  guarded g s fun s => ready s [rp, pairOdd rp] (memReady s (
    .next ((hintTiles s rp nrow ncol).foldl (lastuseTile s.issue.core lvl) s)))

/-- The LASTUSE hints whose earlier commands have all read. -/
def settleLastuse (s : State) (n : Nat) : State :=
  let c := s.core n
  let due := c.lastuse.filter fun x => !readsBefore c x.1 x.2.1
  due.foldl (fun t x => retireTile t n x.1 x.2.2)
    (s.setCore n { c with lastuse := c.lastuse.filter fun x => readsBefore c x.1 x.2.1 })

/-- One tile of a STREAM: class 0 at the named levels. -/
def streamTile (n : Nat) (lvl : BitVec 2) (s : State) (t : Option (TileKey × Block)) : State :=
  match t with
  | none => s
  | some (k, _) =>
    let s1 := if lvl.getLsbD 0 then modAlcove s n k fun l => { l with cls := 0 } else s
    if lvl.getLsbD 1 then modHall s1 (coreCluster n) k fun l => { l with cls := 0 } else s1

/-- STREAM. -/
def execStream (g rp : BitVec 6) (nrow ncol : BitVec 8) (lvl : BitVec 2) (s : State) : Out :=
  guarded g s fun s => ready s [rp, pairOdd rp] (memReady s (
    .next ((hintTiles s rp nrow ncol).foldl (streamTile s.issue.core lvl) s)))

/-! ### PFIT and PFITCAN (R165) -/

/-- The tile that an itinerary's entry names, with its record. -/
def entryTile (c : Core) (e : Word × Word) : Option (TileKey × Block) :=
  match handleRec c.recs e.1 with
  | none => none
  | some r =>
    if inGrid r (coOuter e.2).toNat (coRow e.2).toNat (coCol e.2).toNat then
      some (tileKey c.ctx r (coOuter e.2).toNat (coRow e.2).toNat (coCol e.2).toNat, r)
    else none

/-- The fill of one entry started at each level of its itinerary; an entry without a tile is skipped. The fill of an alcove line
passes through the hall (R280). -/
def startEntry (s : State) (n : Nat) (lvl : BitVec 2) (e : Word × Word) : State :=
  match entryTile (s.core n) e with
  | none => s
  | some (k, r) =>
    let cl := coreCluster n
    let near := lvl.getLsbD 0 && tileLvl s cl k r == 0 && (lineOf (s.core n).alcove k).isNone
    let far := lvl.getLsbD 1 && tileLvl s cl k r != 2
    let s1 := if near then startFill s n k r { itin := true } else s
    let asked := s1.reqs.any fun q => q.key == k && q.cluster == cl && q.stage != .alcove
    if far && !(near && asked) then fillHall s1 cl k r { itin := true } else s1

/-- The entries of an itinerary at some positions started, and the itinerary ended once its last one has been. -/
def startEntries (s : State) (n id : Nat) (is : List Nat) : State :=
  match (s.core n).itins.find? fun t => t.id == id with
  | none => s
  | some t =>
    let new := is.filter fun i => decide (i < t.entries.length) && !t.begun.contains i
    let u := new.foldl (fun s i => startEntry s n t.lvl (t.entries.getD i (0, 0))) s
    let begun := t.begun ++ new
    u.modCore n fun c =>
      { c with itins :=
          if begun.contains (t.entries.length - 1) then c.itins.filter fun x => x.id != id
          else c.itins.map fun x => if x.id = id then { x with begun := begun } else x }

/-- Every itinerary of a core after an M command reads a tile: entry i starts the fill of entry i + `ld` + 1. -/
def advanceItins (s : State) (n : Nat) (k : TileKey) : State :=
  (s.core n).itins.foldl
    (fun s t =>
      let hit := (List.range t.entries.length).filter fun i =>
        match entryTile (s.core n) (t.entries.getD i (0, 0)) with
        | none => false
        | some x => x.1 == k
      startEntries s n t.id (hit.map fun i => i + t.lead + 1))
    s

/-- The entries of an itinerary's list. -/
def itinEntries : Nat → List Byte → List (Word × Word)
  | 0, _ => []
  | n + 1, bs => (BitVec.ofNat 64 (leNat (bs.take 8)), BitVec.ofNat 64 (leNat ((bs.drop 8).take 8))) :: itinEntries n (bs.drop 16)

/-- PFIT. -/
def execPfit (g ra : BitVec 6) (cnt ld : BitVec 4) (itin lvl : BitVec 2) (s : State) : Out :=
  guarded g s fun s => ready s [ra] (memReady s (
    let ea := s.rd ra
    if ea.toNat % 16 ≠ 0 then trapAt s 1 ea
    else
      strandRead s ea (16 * (cnt.toNat + 1)) fun bs =>
        let it : Itinerary :=
          { id := itin.toNat, lvl := lvl, lead := ld.toNat, entries := itinEntries (cnt.toNat + 1) bs, begun := [] }
        let t := s.modLive fun c => { c with itins := (c.itins.filter fun x => x.id != itin.toNat) ++ [it] }
        .next (startEntries t s.issue.core itin.toNat (List.range (ld.toNat + 1)))))

/-- PFITCAN. -/
def execPfitcan (g : BitVec 6) (itin : BitVec 2) (s : State) : Out :=
  guarded g s fun s => .next (s.modLive fun c => { c with itins := c.itins.filter fun x => x.id != itin.toNat })

end Sys2Proof.Machine
end

