-- ==== Sys2Proof/Machine/Cube.lean ====
section
/-! DEFINITION. Cube commands: the format word (R186, R187), legality (R191 to R194), issue and parking (R184, R188 to
R192, R197), the arithmetic (R62 to R67), and the events CUBE_PERFORM and TILE_MISS_TIMEOUT (R143, R198, R199). -/

namespace Sys2Proof.Machine

/-! ### The format word (R186) -/

/-- The field of `n` bits from bit `lo` of a format word. -/
def fwf (w : Word) (lo n : Nat) : Nat := bitsAt w.toNat lo n

/-- The element format codes of A, B and G. -/
def fwA (w : Word) : Nat := fwf w 0 4
@[inherit_doc fwA] def fwB (w : Word) : Nat := fwf w 4 4
@[inherit_doc fwA] def fwG (w : Word) : Nat := fwf w 8 4

/-- The format code of `accfmt`. -/
def fwAcc (w : Word) : Nat :=
  match fwf w 12 2 with
  | 0 => 0
  | 1 => 5
  | 2 => 2
  | _ => 1

/-- The rounding mode. -/
def fwMode (w : Word) : Mode := Mode.ofBits (w.extractLsb' 14 3)
/-- FTZ of the group roundings. -/
def fwFtz (w : Word) : Bool := w.getLsbD 17
/-- A is scaled by SA. -/
def fwEsa (w : Word) : Bool := w.getLsbD 18
/-- B is scaled by SB. -/
def fwEsb (w : Word) : Bool := w.getLsbD 19
/-- The plane and the row of SA, and the first row of SB. -/
def fwSap (w : Word) : Nat := fwf w 20 3
@[inherit_doc fwSap] def fwSar (w : Word) : Nat := fwf w 23 6
@[inherit_doc fwSap] def fwSbr (w : Word) : Nat := fwf w 29 6
/-- The row maps of B and G with their shifts. -/
def fwBmap (w : Word) : Nat := fwf w 35 2
@[inherit_doc fwBmap] def fwBsh (w : Word) : Nat := fwf w 37 4
@[inherit_doc fwBmap] def fwGmap (w : Word) : Nat := fwf w 41 2
@[inherit_doc fwBmap] def fwGsh (w : Word) : Nat := fwf w 43 4
/-- The operands that carry the minimum version: bit 0 A, 1 B, 2 G. -/
def fwVmask (w : Word) : Nat := fwf w 47 3
/-- The minimum version of an operand. -/
def fwMinv (w : Word) (bit : Nat) : Option (BitVec 8) := if w.getLsbD (47 + bit) then some (w.extractLsb' 50 8) else none

/-- The length of the reduction: 512 ÷ the operand width (R62, R193). -/
def fwK (w : Word) : Nat := 512 / fmtWidth (fwA w)

/-- A row map of R187. -/
def rowMap (kind sh k : Nat) : Nat :=
  match kind with
  | 0 => k
  | 1 => k / 2 ^ sh
  | _ => k % 2 ^ sh

/-- A word that keeps R186 and R187, for a G orientation and for `MMA` or `CUBE`. -/
def fwOk (w : Word) (mma : Bool) (gor : Nat) : Bool :=
  fwf w 58 6 == 0 && fwGmap w != 3 && fwBmap w != 3 && decide (fwf w 14 3 ≤ 4) &&
  fmtWidth (fwA w) != 0 && fmtWidth (fwB w) != 0 && fmtWidth (fwG w) != 0 &&
  (gor != 0 || (fwG w == 0 && fwGmap w == 0 && fwGsh w == 0 && !w.getLsbD 49)) &&
  (gor != 1 || (fwGmap w == 0 && fwGsh w == 0)) &&
  (fwVmask w != 0 || fwf w 50 8 == 0) &&
  (fwEsa w || (fwSap w == 0 && fwSar w == 0)) && (fwEsb w || fwSbr w == 0) &&
  !(mma && w.getLsbD 47) &&
  decide (fwGsh w ≤ min 8 (Nat.log2 (fwK w))) && decide (fwBsh w ≤ min 8 (Nat.log2 (fwK w)))

/-- A permitted combination of formats, accumulator and scales (R62, R191). -/
def fwCombo (w : Word) (gor : Nat) : Bool :=
  let a := fwA w
  let b := fwB w
  let g := fwG w
  let acc := fwAcc w
  let scaled := fwEsa w || fwEsb w
  if a == 3 || a == 4 then (b == 3 || b == 4) && acc != 5 && (gor == 0 || g == 3 || g == 4)
  else if a == 1 || a == 2 then b == a && acc != 5 && (gor == 0 || g == a)
  else if a == 0 then b == 0 && acc == 0 && gor == 0
  else if 7 ≤ a && a ≤ 9 then
    b == a && (gor == 0 || g == a) && ((acc == 5 && !scaled) || (acc == 0 && scaled))
  else false

/-- An `afmt` through which `MMA` reads the file (R190). -/
def mmaFmt (a : Nat) : Bool := a ≤ 4 || a == 7

/-! ### The command (R33) -/

/-- The fields of a cube command's words. -/
def cubeOf (w0 w1 : Word32) : CubeWord where
  msel := w0.extractLsb' 18 2
  nsel := w0.extractLsb' 12 6
  pa := w0.extractLsb' 7 5
  pb := w0.extractLsb' 2 5
  gor := w0.extractLsb' 0 2
  pg := w1.extractLsb' 27 5
  row0 := w1.extractLsb' 21 6
  col0 := w1.extractLsb' 12 9
  amode := w1.extractLsb' 10 2

/-- M and N. -/
def cubeM (c : CubeWord) : Nat := 16 * 2 ^ c.msel.toNat
@[inherit_doc cubeM] def cubeN (c : CubeWord) : Nat := 16 * (c.nsel.toNat + 1)

/-- The tiles across N. -/
def cubeAcross (c : CubeWord) : Nat := (cubeN c + 63) / 64

/-- The spans of `Acc` (R194). -/
def outSpans (c : CubeWord) (acc : Nat) : List (Nat × Nat × Nat) :=
  (List.range (cubeM c)).map fun m => (c.row0.toNat + m, 32 * c.col0.toNat, fmtWidth acc * cubeN c)

/-- The output region lies in the file (R194). -/
def outFits (c : CubeWord) (acc : Nat) : Bool :=
  decide (c.row0.toNat + (cubeM c) ≤ 64) && decide (32 * c.col0.toNat + fmtWidth acc * cubeN c ≤ 512 * 32)

/-- The spans of the scale cells (R188). -/
def scaleSpans (c : CubeWord) (w : Word) : List (Nat × Nat × Nat) :=
  (if fwEsa w then [(fwSar w, 2048 * fwSap w, 32 * cubeM c)] else []) ++
  (if fwEsb w then
    (fwSbr w, 0, 32 * min (cubeN c) 512) :: (if 512 < cubeN c then [(fwSbr w + 1, 0, 32 * (cubeN c - 512))] else [])
   else [])

/-- The row and the cell column of an `MMA` origin; none when it breaks R190. -/
def mmaOrigin (x : Word) (m : Nat) : Option (Nat × Nat) :=
  let row := (x.extractLsb' 0 6).toNat
  let col := (x.extractLsb' 16 9).toNat
  if x.extractLsb' 25 39 == 0 && x.extractLsb' 6 10 == 0 && decide (row + m ≤ 64) && decide (col + 16 ≤ 512) then
    some (row, col)
  else none

/-- The spans of an `MMA` A region. -/
def mmaSpans (o : Nat × Nat) (m : Nat) : List (Nat × Nat × Nat) := (List.range m).map fun i => (o.1 + i, 32 * o.2, 512)

/-! ### Legality (R191) -/

/-- The reason of the matrix-operand fault of a cube command (R208); `a`, `b` and `g` are the records of its
operands, `org` the register of an `MMA` origin. -/
def cubeReason (mma : Bool) (c : CubeWord) (w : Word) (a b g : Option Block) (org : Word) : Option Nat :=
  let gor := c.gor.toNat
  let acc := fwAcc w
  let k := fwK w
  let is := fun (o : Option Block) (p : Block → Bool) => match o with
    | none => true
    | some r => p r
  if !fwOk w mma gor then some 1
  else if !(is a fun r => recClass r < 2 && recTfmt r == fwA w) || !(is b fun r => recClass r < 2 && recTfmt r == fwB w) ||
      !(is g fun r => recClass r < 2 && recTfmt r == fwG w) || !fwCombo w gor || (mma && !mmaFmt (fwA w)) then some 2
  else if 512 < cubeN c && fmtWidth acc == 32 then some 3
  else if !(is a fun r => recCols r == k) || !(is b fun r => recRows r == k) ||
      !(is g fun r => if gor = 1 then recCols r == k else recRows r == k) then some 4
  else if !outFits c acc then some 5
  else if fwEsb w && decide (63 < fwSbr w + (cubeN c - 1) / 512) then some 6
  else if mma && (match mmaOrigin org (cubeM c) with
      | none => true
      | some o => spansMeet (mmaSpans o (cubeM c)) (outSpans c acc)) then some 7
  else if !(is a fun r => recVersioned r || !w.getLsbD 47) || !(is b fun r => recVersioned r || !w.getLsbD 48) ||
      !(is g fun r => recVersioned r || !w.getLsbD 49) then some 8
  else none

/-! ### The tiles of a command (R189) -/

/-- A tile that a command looks up: its key, the record and the minimum version. -/
abbrev Want := TileKey × Block × Option (BitVec 8)

/-- The tiles of an operand, `n` across; those wholly outside the tensor are not looked up. -/
def operandWants (ctx : BitVec 12) (r : Block) (x : Word) (n : Nat) (m : Option (BitVec 8)) : List Want :=
  (List.range n).filterMap fun t =>
    if inGrid r (coOuter x).toNat (coRow x).toNat ((coCol x).toNat + t) then
      some (tileKey ctx r (coOuter x).toNat (coRow x).toNat ((coCol x).toNat + t), r, m)
    else none

/-- The tiles that an issued M command looks up (R189, R203). Of an ALD `regs` are its region, handle and coordinate. -/
def Parked.wants (ctx : BitVec 12) (p : Parked) : List Want :=
  let r := fun i => p.recs.getD i 0
  let x := fun i => p.regs.getD i 0
  if p.kind = 2 then operandWants ctx (r 0) (x 2) 1 p.minv
  else
    let c := cubeOf p.w0 p.w1
    (if p.kind = 0 then operandWants ctx (r 0) (x 1) 1 (fwMinv p.fq 0) else []) ++
    operandWants ctx (r 1) (x 3) (cubeAcross c) (fwMinv p.fq 1) ++
    (if c.gor = 0 then [] else operandWants ctx (r 2) (x 5) (if c.gor = 1 then 1 else (cubeAcross c)) (fwMinv p.fq 2))

/-- A tile that may be read. -/
def wantHit (c : Core) (w : Want) : Bool := (alcoveHit c w.1 w.2.1 w.2.2).isSome

/-- An issued command whose tiles may all be read, and which has not raised the tile-miss fault (R199). -/
def parkedReady (c : Core) (p : Parked) : Bool := !p.dead && (p.wants c.ctx).all (wantHit c)

/-- The commands that wait in the replay queue (R141). -/
def parkedCount (c : Core) : Nat := (c.replay.filter fun p => !parkedReady c p).length

/-- One lookup of an M command (R135, R138). -/
def lookWant (n : Nat) (who : Kind × Word × Word) (s : State) (w : Want) : State :=
  match lookupTile s n w.1 w.2.1 w.2.2 (some who) with
  | .hit l => s.modCore n fun c => touchAlcove c l.bank l.way
  | .missed t => t

/-- The lookups of an issued command. -/
def lookWants (s : State) (n : Nat) (p : Parked) : State := (p.wants (s.core n).ctx).foldl (lookWant n (.m, p.pc, p.base)) s

/-- A command issued: in the replay queue until it performs, its tiles looked up. -/
def parkCmd (s : State) (n : Nat) (p : Parked) : State := lookWants (s.modCore n fun c => { c with replay := c.replay ++ [p] }) n p

/-! ### Issue (R184, R188, R192, R197) -/

/-- The cells of a row from a cell column on. -/
def rowCells (acc : Tab Word32) (row col n : Nat) : List Word32 := (List.range n).map fun j => tget 0 acc (512 * row + col + j)

/-- The scale vectors captured with a word (R188): empty where the word does not scale. -/
def captureA (acc : Tab Word32) (c : CubeWord) (w : Word) : List Word32 :=
  if fwEsa w then rowCells acc (fwSar w) (64 * fwSap w) (cubeM c) else []
@[inherit_doc captureA] def captureB (acc : Tab Word32) (c : CubeWord) (w : Word) : List Word32 :=
  if fwEsb w then rowCells acc (fwSbr w) 0 (min (cubeN c) 512) ++ rowCells acc (fwSbr w + 1) 0 (cubeN c - 512) else []

/-- The A region captured by an `MMA`, 16 cells a row. -/
def captureRegion (acc : Tab Word32) (m : Nat) (o : Nat × Nat) : List Word32 :=
  (List.range m).flatMap fun i => rowCells acc (o.1 + i) o.2 16

/-- The registers that a cube command reads; the odd register of an MMA's origin is not read (R190). -/
def cubeRegs (mma : Bool) (c : CubeWord) : List (BitVec 6) :=
  pairEven c.pa :: (if mma then [] else [pairOdd (pairEven c.pa)]) ++ [pairEven c.pb, pairOdd (pairEven c.pb)] ++
  (if c.gor = 0 then [] else [pairEven c.pg, pairOdd (pairEven c.pg)])

/-- The six values that a cube command captures, zero where it uses none (R190, R266). -/
def cubeVals (s : State) (mma : Bool) (c : CubeWord) : List Word :=
  [s.rd (pairEven c.pa), if mma then 0 else s.rd (pairOdd (pairEven c.pa)), s.rd (pairEven c.pb), s.rd (pairOdd (pairEven c.pb))] ++
  (if c.gor = 0 then [0, 0] else [s.rd (pairEven c.pg), s.rd (pairOdd (pairEven c.pg))])

/-- The command of a word and its records, as it issues. -/
def cubeCmd (s : State) (mma : Bool) (i : Instr) (c : CubeWord) (w : Word) (recs : List Block) : Parked :=
  let ws := encode i
  { id := s.nextId, kind := if mma then 1 else 0, w0 := ws.headD 0, w1 := ws.getD 1 0, regs := cubeVals s mma c, fq := w, recs := recs,
    keys := [], minv := none, pc := s.nextPc, base := s.issue.base, sa := captureA s.live.acc c w, sb := captureB s.live.acc c w,
    areg := match (if mma then mmaOrigin (s.rd (pairEven c.pa)) (cubeM c) else none) with
      | none => []
      | some o => captureRegion s.live.acc (cubeM c) o,
    spans := outSpans c (fwAcc w), since := s.now }

/-- The cells that a cube command reads or writes by itself (R192). -/
def cubeCells (mma : Bool) (c : CubeWord) (w : Word) (org : Word) : List (Nat × Nat × Nat) :=
  outSpans c (fwAcc w) ++ scaleSpans c w ++
  (match (if mma then mmaOrigin org (cubeM c) else none) with
   | none => []
   | some o => mmaSpans o (cubeM c))

/-- A legal command with a delivered word: it waits, or issues and pops the word (R192, R197). -/
def cubeStart (mma : Bool) (i : Instr) (c : CubeWord) (w : Word) (recs : List Block) (s : State) : Out :=
  let p0 := cubeCmd s mma i c w recs
  let p := { p0 with keys := (p0.wants s.live.ctx).map fun x => x.1 }
  if cellsMeet (cubeCells mma c w (s.rd (pairEven c.pa))) (busyForM s) then hold s
  else if decide (16 ≤ parkedCount s.live) && !parkedReady s.live p then hold s
  else
    let t := { s.readCells (cubeCells mma c w (s.rd (pairEven c.pa))) with nextId := s.nextId + 1 }
    .next (parkCmd (t.modLive fun x => { x with fq := x.fq.drop 1 }) s.issue.core p)

/-- A handle that names no record raises the record-absent fault (R148, R191). -/
def cubeRec (s : State) (h fq : Word) (f : Block → Out) : Out :=
  match handleRec s.issue.pre.recs h with
  | none => faultAt s 6 0 h fq
  | some r => f r

/-- A cube command with a delivered word, judged by R191; of its records, `pa` is looked for first, then `pb`, then `pg`
(log 107). -/
def cubeJudge (mma : Bool) (i : Instr) (c : CubeWord) (w : Word) (s : State) : Out :=
  let withB := fun (a : Option Block) =>
    cubeRec s (s.rd (pairEven c.pb)) w fun b =>
      let fin := fun (g : Option Block) =>
        match cubeReason mma c w a (some b) g (s.rd (pairEven c.pa)) with
        | some x => faultAt s 7 x 0 w
        | none => cubeStart mma i c w [a.getD 0, b, g.getD 0] s
      if c.gor = 0 then fin none else cubeRec s (s.rd (pairEven c.pg)) w fun g => fin (some g)
  if mma then withB none else cubeRec s (s.rd (pairEven c.pa)) w fun a => withB (some a)

/-- A cube command at the head of the format queue (R184). -/
def cubeIssue (mma : Bool) (i : Instr) (c : CubeWord) (s : State) : Out :=
  match s.issue.pre.fq with
  | [] => if s.issue.pre.fqClosed || s.issue.pre.c.mode == .halted then faultAt s 1 0 0 0 else hold s
  | w :: _ => if w.born < s.now then cubeJudge mma i c w.w s else hold s

/-- CUBE. -/
def execCube (g : BitVec 6) (c : CubeWord) (s : State) : Out :=
  guarded g s fun s => ready s (cubeRegs false c) (cubeIssue false (.cube g c) c s)

/-- MMA. -/
def execMma (g : BitVec 6) (c : CubeWord) (s : State) : Out :=
  guarded g s fun s => ready s (cubeRegs true c) (cubeIssue true (.mma g c) c s)

/-! ### Arithmetic (R64 to R67) -/

/-- The bits of element (i, j) of a tile as a command reads it: the pad where the tile or the element lies outside the tensor
(R147, R189). -/
def tileBits (c : Core) (r : Block) (m : Option (BitVec 8)) (o tr tc i j : Nat) : Nat :=
  if inGrid r o tr tc && (tileIdx r o tr tc i j).isSome then
    match alcoveHit c (tileKey c.ctx r o tr tc) r m with
    | some l => lineElem r l.data i j
    | none => recPad r
  else recPad r

/-- The value of element (i, j) of a tile as a command reads it. -/
def tileVal (c : Core) (r : Block) (m : Option (BitVec 8)) (o tr tc i j : Nat) : Num × BitVec 7 :=
  valOf (recTfmt r) (tileBits c r m o tr tc i j)

/-- A value of the tile at a packed coordinate, `t` tiles to its right. -/
def coordVal (c : Core) (r : Block) (m : Option (BitVec 8)) (x : Word) (t i j : Nat) : Num × BitVec 7 :=
  tileVal c r m (coOuter x).toNat (coRow x).toNat ((coCol x).toNat + t) i j

/-- A[m][k]. -/
def cubeA (c : Core) (p : Parked) (m k : Nat) : Num × BitVec 7 :=
  if p.kind = 1 then
    let w := fmtWidth (fwA p.fq)
    valOf (fwA p.fq) (bitsAt (p.areg.getD (16 * m + k * w / 32) 0).toNat (k * w % 32) w)
  else coordVal c (p.recs.getD 0 0) (fwMinv p.fq 0) (p.regs.getD 1 0) 0 m k

/-- B[k][n]. -/
def cubeB (c : Core) (p : Parked) (k n : Nat) : Num × BitVec 7 :=
  coordVal c (p.recs.getD 1 0) (fwMinv p.fq 1) (p.regs.getD 3 0) (n / 64) (rowMap (fwBmap p.fq) (fwBsh p.fq) k) (n % 64)

/-- Gv of R64 for the orientation `gor`. -/
def cubeG (c : Core) (p : Parked) (gor m k n : Nat) : Num × BitVec 7 :=
  if gor = 1 then coordVal c (p.recs.getD 2 0) (fwMinv p.fq 2) (p.regs.getD 5 0) 0 m k
  else
    coordVal c (p.recs.getD 2 0) (fwMinv p.fq 2) (p.regs.getD 5 0) (n / 64) (rowMap (fwGmap p.fq) (fwGsh p.fq) k) (n % 64)

/-- A scale: 1 where the word does not scale (R63). -/
def scaleVal (xs : List Word32) (i : Nat) : Num := if xs.isEmpty then ofInt 1 else decodeF fF32 (xs.getD i 0).toNat

/-- A product with its sticky bits, times one more factor. -/
def mulSt (x : Num × BitVec 7) (y : Num × BitVec 7) : Num × BitVec 7 :=
  let z := x.1.mul y.1
  (z.1, x.2 ||| y.2 ||| z.2)

/-- A product rounded to Q24 (R67). -/
def toQ24 (x : Num × BitVec 7) : Num × BitVec 7 :=
  let r := roundF fQ24 .rne false x.1
  (decodeF fQ24 r.1, x.2 ||| r.2)

/-- One term of R64. -/
def cubeTerm (c : Core) (p : Parked) (cw : CubeWord) (m n k : Nat) : Num × BitVec 7 :=
  let ab := mulSt (cubeA c p m k) (cubeB c p k n)
  let t :=
    if cw.gor = 0 then ab
    else mulSt (if fmtWidth (fwA p.fq) = 16 then toQ24 ab else ab) (cubeG c p cw.gor.toNat m k n)
  let u := mulSt (mulSt t (scaleVal p.sa m, 0)) (scaleVal p.sb n, 0)
  if cw.amode = 2 then (u.1.neg, u.2) else u

/-- One group: the accumulator's bits after it, with the sticky bits so far (R64 to R66). -/
def cubeGroup (c : Core) (p : Parked) (cw : CubeWord) (m n : Nat) (acc : Nat × BitVec 7) (g : Nat) : Nat × BitVec 7 :=
  let ts := (List.range 16).map fun i => cubeTerm c p cw m n (16 * g + i)
  let a := valOf (fwAcc p.fq) acc.1
  let sum := sumNum (fwMode p.fq == .rdn) (a.1 :: ts.map fun t => t.1)
  let r := roundTo (fwAcc p.fq) (fwMode p.fq) (fwFtz p.fq) sum.1
  (r.1, ts.foldl (fun f t => f ||| t.2) acc.2 ||| sum.2 ||| r.2)

/-- The value from which a cell starts (R64, R195). -/
def cubeStartBits (c : Core) (p : Parked) (cw : CubeWord) (m n : Nat) : Nat :=
  let w := fmtWidth (fwAcc p.fq)
  if cw.amode = 0 then (if fwAcc p.fq = 5 then 0 else 2 ^ (w - 1))
  else accBits c.acc (cw.row0.toNat + m) (32 * cw.col0.toNat + w * n) w

/-- One output cell (R64). -/
def cubeCell (c : Core) (p : Parked) (cw : CubeWord) (m n : Nat) : Nat × BitVec 7 :=
  (List.range (fwK p.fq / 16)).foldl (cubeGroup c p cw m n) (cubeStartBits c p cw m n, 0)

/-- Every output cell with its place and the sticky bits. -/
def cubeResults (c : Core) (p : Parked) : List (AccWrite × BitVec 7) :=
  let cw := cubeOf p.w0 p.w1
  let w := fmtWidth (fwAcc p.fq)
  (List.range (cubeM cw)).flatMap fun m => (List.range (cubeN cw)).map fun n =>
    let x := cubeCell c p cw m n
    ({ row := cw.row0.toNat + m, bit := 32 * cw.col0.toNat + w * n, width := w, bits := x.1 }, x.2)

/-! ### Performing (R197, R198) -/

/-- The core with accumulator elements written and the strand's sticky bits set. -/
def Core.takeResults (c : Core) (k : Kind) (xs : List AccWrite) (f : BitVec 7) : Core :=
  ({ c with acc := accSetAll c.acc xs }).setStrand k { c.strand k with sticky := (c.strand k).sticky ||| f }

/-- A line that may not stay leaves after the last read of it (R139). -/
def dropThru (n : Nat) (s : State) (k : TileKey) : State :=
  if neededBy (s.core n) k then s
  else
    s.modCore n fun c =>
      { c with alcove := (c.alcove.filter fun l => !(l.key == k && l.thru && l.st == .clean)).map fun l =>
          if l.key = k ∧ l.thru ∧ l.st = .dirty then { l with st := .draining, keep := false } else l }

/-- What the reads of a performed M command set going: lines that leave, last uses and itineraries (R139, R163, R165). -/
def afterReads (s : State) (n : Nat) (p : Parked) : State :=
  let s1 := p.keys.foldl (dropThru n) s
  let s2 := settleLastuse s1 n
  p.keys.foldl (fun t k => advanceItins t n k) s2

/-- An M command performed: its cells, its sticky bits, its place in the queue (R197, R198, R203). -/
def finishParked (s : State) (n : Nat) (p : Parked) (xs : List (AccWrite × BitVec 7)) : State :=
  let t := s.modCore n fun c =>
    { c.takeResults .m (xs.map fun x => x.1) (xs.foldl (fun f x => f ||| x.2) 0) with
      replay := c.replay.filter fun q => q.id != p.id }
  afterReads t n p

/-- CUBE_PERFORM (R197): a command whose tiles may all be read performs; another looks them up again. -/
def execCubePerform (core idx : Nat) (s : State) : Out :=
  match (s.core core).replay[idx]? with
  | none => .next s
  | some p =>
    if p.kind = 2 then .next s
    else if parkedReady (s.core core) p then .next (finishParked s core p (cubeResults (s.core core) p))
    else .next (if p.dead then s else lookWants s core p)

/-! ### The tile-miss timeout (R143, R199) -/

/-- The packed coordinate of the first tile that a command misses. -/
def firstMissing (c : Core) (p : Parked) : Word :=
  match (p.wants c.ctx).find? fun w => !wantHit c w with
  | none => 0
  | some w => packKey w.1

/-- TILE_MISS_TIMEOUT. A stopped strand's counts are suspended. The command will not perform any more: its cells keep the
values that they held at issue, and stay busy (R129, R199). -/
def execTileMissTimeout (core idx : Nat) (s : State) : Out :=
  let c := s.core core
  match c.replay[idx]? with
  | none => .next s
  | some p =>
    if c.m.mode == .stopped || p.dead || parkedReady c p || !c.waitPassed s.now p.since c.missLimit.toNat then .next s
    else
      .next ((s.strandFault core .m 2 0 p.pc (firstMissing c p) (if p.kind = 2 then 0 else c.fqHead)).modCore core fun c =>
        { c with replay := c.replay.map fun q => if q.id == p.id then { q with dead := true } else q })

end Sys2Proof.Machine
end

