-- ==== Sys2Proof/Machine/Area.lean ====
section
/-! DEFINITION. The region instructions ACLR, ACVT, ACOPY and ATRN (R205 to R207) and the event
REGION_INSTRUCTION_COMPLETE. -/

namespace Sys2Proof.Machine

/-- A region register that keeps R202 and lies in the file (R207). -/
def areaOf (x : Word) (v : BitVec 3) : Option Region :=
  match regionOf x with
  | none => none
  | some r => if regionFits r (etWidth v) then some r else none

/-- A region instruction issued (R129, R206): its cells are busy until it completes. -/
def areaStart (s : State) (dst : List (Nat × Nat × Nat)) (src : List (Nat × Nat × Nat)) (xs : List (AccWrite × BitVec 7)) :
    Out :=
  if cellsMeet (dst ++ src) (busyForM s) then hold s
  else
    let t : State := { s.readCells src with nextId := s.nextId + 1 }
    .next (t.modLive fun c =>
      { c with mops := c.mops ++
          [{ id := s.nextId, spans := dst, writes := xs.map fun x => x.1, sticky := xs.foldl (fun f x => f ||| x.2) 0,
             reg := none }] })

/-- A region instruction with a source: `f` gives an element of the destination from the source's position and bits. -/
def areaMove (s : State) (rd ra : BitVec 6) (dv sv : BitVec 3) (trn : Bool) (f : Nat → Nat × BitVec 7) : Out :=
  match areaOf (s.rd rd) dv, areaOf (s.rd ra) sv with
  | some d, some a =>
    if (if trn then d.nrow = a.ncol ∧ d.ncol = a.nrow else d.nrow = a.nrow ∧ d.ncol = a.ncol) then
      areaStart s (regionSpans d (etWidth dv)) (regionSpans a (etWidth sv))
        ((regionCells d).map fun x =>
          let e := f (if trn then regionElem s.live.acc a (etWidth sv) x.2 x.1
            else regionElem s.live.acc a (etWidth sv) x.1 x.2)
          (regionWrite d (etWidth dv) x.1 x.2 e.1, e.2))
    else faultAt s 7 10 0 0
  | _, _ => faultAt s 7 10 0 0

/-- ACLR. -/
def execAclr (g rd : BitVec 6) (dv : BitVec 3) (s : State) : Out :=
  guarded g s fun s => ready s [rd] (
    match areaOf (s.rd rd) dv with
    | none => faultAt s 7 10 0 0
    | some d =>
      areaStart s (regionSpans d (etWidth dv)) []
        ((regionCells d).map fun x => (regionWrite d (etWidth dv) x.1 x.2 0, 0)))

/-- ACVT. -/
def execAcvt (g rd ra : BitVec 6) (sv dv rm : BitVec 3) (ftz : BitVec 1) (s : State) : Out :=
  guarded g s fun s => ready s [rd, ra] (
    areaMove s rd ra dv sv false (recode (viewFmt sv) (viewFmt dv) (Mode.ofBits rm) (ftz == 1)))

/-- ACOPY. -/
def execAcopy (g rd ra : BitVec 6) (dv : BitVec 3) (s : State) : Out :=
  guarded g s fun s => ready s [rd, ra] (areaMove s rd ra dv dv false fun x => (x, 0))

/-- ATRN. -/
def execAtrn (g rd ra : BitVec 6) (dv : BitVec 3) (s : State) : Out :=
  guarded g s fun s => ready s [rd, ra] (areaMove s rd ra dv dv true fun x => (x, 0))

/-- A core with a region instruction in progress completed: its cells and its sticky bits. -/
def Core.finishRegion (c : Core) (o : AccOp) : Core :=
  { c.takeResults .m o.writes o.sticky with mops := c.mops.filter fun x => x.id != o.id }

/-- REGION_INSTRUCTION_COMPLETE (R206). -/
def execRegionInstructionComplete (core idx : Nat) (s : State) : Out :=
  match (s.core core).mops[idx]? with
  | none => .next s
  | some o => .next (s.modCore core fun c => c.finishRegion o)

end Sys2Proof.Machine
end

