-- ==== Sys2Proof/Machine/Groups.lean ====
section
/-! DEFINITION. Groups (R239 to R243, R288 to R290, R297, R298, R403, R404): the group table, memberships, barrier
generations, flag updates, and the events that carry them. -/

namespace Sys2Proof.Machine

/-! ### The group table (R288, R289) -/

/-- `v`. -/
def entV (e : BitVec 2048) : Bool := e.getLsbD 63
/-- `xkey`. -/
def entKey (e : BitVec 2048) : BitVec 32 := e.extractLsb' 0 32
/-- `tmask`. -/
def entTasks (e : BitVec 2048) : BitVec 640 := e.extractLsb' 128 640
/-- `pmask`. -/
def entPeers (e : BitVec 2048) : BitVec 512 := e.extractLsb' 768 512

/-- An entry without its reserved bits set. -/
def entReserved (e : BitVec 2048) : Bool :=
  e.extractLsb' 32 31 == 0 && e.extractLsb' 64 64 == 0 && e.extractLsb' 1280 768 == 0

/-- An entry that R289 accepts for a launch of `tasks` tasks. -/
def entOk (s : State) (tasks : Nat) (e : BitVec 2048) : Bool :=
  if entV e then
    entReserved e && entTasks e != 0 && decide ((entTasks e).toNat < 2 ^ tasks) &&
    !(entPeers e).getLsbD s.modNum.toNat && (entKey e == 0 || entPeers e != 0)
  else e == 0

/-- An entry of a launch's table. -/
def Launch.ent (l : Launch) (g : Nat) : BitVec 2048 := l.gtab.getD g 0

/-- An entry lists a task. -/
def entLists (e : BitVec 2048) (task : Nat) : Bool := entV e && (entTasks e).getLsbD task

/-- The modules of a domain entry: its peers and this module (R403). -/
def entMods (s : State) (e : BitVec 2048) : BitVec 512 := entPeers e ||| (1#512 <<< s.modNum.toNat)

/-- What identifies a group. -/
def groupKey (s : State) (l : Launch) (g : Nat) : GroupKey :=
  let e := l.ent g
  if entPeers e = 0 then { domain := false, xkey := 0, mods := 0, launch := l.id, grp := g }
  else { domain := true, xkey := entKey e, mods := entMods s e, launch := 0, grp := 0 }

/-- A group's state. -/
def State.group? (s : State) (k : GroupKey) : Option GroupState := s.groups.find? fun g => g.key == k

/-- The state with a group changed. -/
def State.modGroup (s : State) (k : GroupKey) (f : GroupState → GroupState) : State :=
  { s with groups := s.groups.map fun g => if g.key == k then f g else g }

/-- The tasks of a launch that an entry lists. -/
def listed (s : State) (l : Launch) (g : Nat) : List Task :=
  s.tasks.filter fun t => t.launch == l.id && entLists (l.ent g) t.index

/-- The groups of which a task is a member from its start: the first four whose entries list it (R290). -/
def firstGroups (l : Launch) (index : Nat) : List Nat :=
  ((List.range l.gtab.length).filter fun g => entLists (l.ent g) index).take 4

/-- The extent of a group as a scope: domain, or the narrowest unit that holds the cores of its tasks (R290). -/
def extentOf (s : State) (l : Launch) (g : Nat) : Nat :=
  if entPeers (l.ent g) != 0 then 6
  else
    let cs := (listed s l g).map fun t => t.core
    match cs with
    | [] => 2
    | c :: rest =>
      if rest.all fun d => coreCluster d == coreCluster c then 2
      else if rest.all fun d => coreDie d == coreDie c then 3
      else 4

/-- A context has a launch with a group. -/
def ctxHasGroup (s : State) (ctx : BitVec 12) (k : GroupKey) : Bool :=
  s.launches.any fun l => l.ctx == ctx && (List.range l.gtab.length).any fun g => entV (l.ent g) && groupKey s l g == k

/-- The state of a group that a placement forms or finds (R290, R403): its members and its extent. -/
def formGroup (l : Launch) (s : State) (g : Nat) : State :=
  let k := groupKey s l g
  let ms := ((listed s l g).filter fun t => (firstGroups l t.index).contains g).map fun t => t.id
  match s.group? k with
  | some _ => s.modGroup k fun x => { x with scope := extentOf s l g }
  | none =>
    { s with groups := s.groups ++
        [{ key := k, cluster := l.cluster, gen := 0, members := ms, arrived := [], joiners := [], next := [],
           scope := extentOf s l g, gone := [], sent := false, mods := [] }] }

/-- The groups of a launch formed at a placement of its tasks. -/
def formGroups (s : State) (l : Launch) : State :=
  ((List.range l.gtab.length).filter fun g => entV (l.ent g)).foldl (formGroup l) s

/-! ### Flag updates (R100, R242, R243, R261) -/

/-- A flag of a core raised by a release of a scope beyond the core: where it reaches beyond the cluster, the core's hall keeps
no line of unversioned data from before it (R241, R253, R254, log 23). -/
def flagAt (s : State) (core flag : Nat) (x : Word32) (scope : Nat) : State :=
  let t := s.modCore core fun c => c.setFlag flag (c.flag flag + x)
  if scope ≤ 2 then t else dropHallTiles t (coreCluster core)

/-- A flag update sent to a task with a release of a scope. -/
def sendFlag (s : State) (task flag : Nat) (x : Word32) (scope : Nat) : State :=
  { s with fmsgs := s.fmsgs ++ [{ task := some task, core := 0, flag := flag, add := x, scope := scope }] }

/-- Whether a task has a core on which its flags stand: it has started and is not saved. -/
def Task.live (t : Task) : Bool := t.st == .running || t.st == .stopping

/-- The physical address of a task's saved flag (R263), with the attribute of its page. -/
def savedFlagAt (s : State) (t : Task) (flag : Nat) : Option (Nat × Bool) :=
  match (taskCtx s t).bind s.ctx? with
  | none => none
  | some c =>
    match lookupVa s (coreCluster t.core) c.id (areaVa c t (0x1380 + 4 * flag)) with
    | .ok pa leaf _ => some (pa, leafZ leaf)
    | .forbidden => none
    | .noMap => none
    | .onDemand _ => none
    | .malformed => none
    | .poisoned _ => none

/-- A flag update applied to a saved task (R243, R261): in its area, or, while its area cannot be written, kept with it
(log 58). -/
def savedFlag (s : State) (t : Task) (flag : Nat) (x : Word32) : State :=
  let keep := s.modTask t.id fun t => { t with flagsIn := t.flagsIn ++ [(flag, x)] }
  match savedFlagAt s t flag with
  | none => keep
  | some (pa, z) =>
    match readPhys s pa 4 with
    | .error _ => keep
    | .ok bs => (writePhys z s pa (leBytes 4 (leNat bs + x.toNat))).1

/-- The flags of a saved task still stand on its core: its save has not written the block that holds them. -/
def Task.flagsHeld (t : Task) : Bool := t.st == .saving && !t.ackd.getLsbD 1

/-- A flag update applied to a task: to its core, or to its saved flags; none where it has neither yet. One of a release beyond
the cluster is noted with the task, so that the hall of a cluster in which it resumes keeps no data from before it. -/
def applyFlag (s0 : State) (task flag : Nat) (x : Word32) (scope : Nat) : Option State :=
  let s := if scope ≤ 2 then s0 else s0.modTask task fun t => { t with farFlag := true }
  match s.task? task with
  | none => some s
  | some t =>
    match t.st with
    | .retired => some s
    | .ended => some s
    | _ =>
      if t.live || (t.saved && t.flagsHeld) then some (flagAt s t.core flag x scope)
      else if t.saved then some (savedFlag s t flag x)
      else none

/-- REMOTE_FLAG_UPDATE: an update reaches its task, after the earlier ones sent to the same task. The order in which the updates
of two issuers reach a task is the model's choice: that of their sending (R242, log 120). -/
def execRemoteFlagUpdate (idx : Nat) (s : State) : Out :=
  match s.fmsgs[idx]? with
  | none => .next s
  | some m =>
    match m.task with
    | none => .next { s with fmsgs := dropAt s.fmsgs idx }
    | some t =>
      if (s.fmsgs.take idx).any fun x => x.task == some t then .next s
      else
        match applyFlag s t m.flag m.add m.scope with
        | none => .next s
        | some u => .next { u with fmsgs := dropAt u.fmsgs idx }

/-! ### Generations (R241, R297, R404) -/

/-- Every member of the pending generation has arrived or left. -/
def GroupState.localDone (g : GroupState) : Bool := g.members.all fun m => g.arrived.any fun a => a.1 == m

/-- The other modules of a domain group. -/
def otherMods (s : State) (k : GroupKey) : List Nat :=
  (List.range 512).filter fun m => k.mods.getLsbD m && m != s.modNum.toNat

/-- Every other module has arrived at a generation, or its launch has retired, whose tasks count as having left (R403). -/
def GroupState.modsDone (s : State) (g : GroupState) : Bool :=
  !g.key.domain || (g.sent && (otherMods s g.key).all fun m => g.mods.contains (m, g.gen) || g.gone.contains m)

/-- A generation completed: the arrivers' flags rise, as updates on their way to the cores (R100, R298); the joiners and their
arrivals count for the next one. -/
def completeGen (s : State) (g : GroupState) : State :=
  let t := g.arrived.foldl (fun s a => sendFlag s a.1 a.2 1 g.scope) s
  t.modGroup g.key fun x =>
    { x with gen := x.gen + 1, members := x.members ++ x.joiners, joiners := [], arrived := x.next, next := [],
             sent := false, doneAt := some s.now, mods := x.mods.filter fun m => decide (x.gen < m.2) }

/-- A set of modules as words. -/
def modsWords (mods : BitVec 512) : List Word := (List.range 8).map fun i => mods.extractLsb' (64 * i) 64

/-- A group of which a member has faulted, or whose context has ended: no generation of it completes (R297). -/
def groupDead (s : State) (k : GroupKey) : Bool :=
  !s.launches.any fun l => ctxHasGroup s l.ctx k && !faulted s l.ctx

/-- The module arrival of a domain group sent once its local part is complete (R404). -/
def sendModule (s : State) (g : GroupState) : State :=
  if g.key.domain && g.localDone && !g.sent then
    (s.modGroup g.key fun x => { x with sent := true }).send "module-arrival"
      ([g.key.xkey.zeroExtend 64, BitVec.ofNat 64 (g.gen + 1)] ++ modsWords g.key.mods)
  else s

/-- A group's pending generation completed when nothing is missing. A group without members that no arrival concerns
stays as it is. -/
def settleGroup (s : State) (k : GroupKey) : Nat → State
  | 0 => s
  | fuel + 1 =>
    match s.group? k with
    | none => s
    | some g =>
      if groupDead s k then s
      else
      let t := sendModule s g
      match t.group? k with
      | none => t
      | some h =>
        if h.localDone && h.modsDone t && (!h.arrived.isEmpty || h.key.domain || !h.joiners.isEmpty) then
          settleGroup (completeGen t h) k fuel
        else t

/-- An arrival recorded: at the pending generation, or at the next one for a task that joined meanwhile. -/
def GroupState.arrive (g : GroupState) (task flag : Nat) : GroupState :=
  if g.joiners.contains task then { g with next := g.next ++ [(task, flag)] }
  else { g with arrived := g.arrived ++ [(task, flag)] }

/-- A leave recorded: it counts for the pending generation without a flag; an arrival made before it stands. -/
def GroupState.leave (g : GroupState) (task : Nat) : GroupState :=
  { g with members := g.members.filter fun m => m != task, joiners := g.joiners.filter fun m => m != task }

/-- A join recorded: the task counts from the next generation on, which has just become the pending one where the last arrival
came in the same cycle (R297). -/
def GroupState.join (g : GroupState) (now task : Nat) : GroupState :=
  if g.doneAt = some now then { g with members := g.members ++ [task] } else { g with joiners := g.joiners ++ [task] }

/-- A message applied to a group's state. -/
def GroupState.apply (g : GroupState) (now : Nat) (m : GroupMsg) : GroupState :=
  match m.what with
  | 0 => g.arrive m.task m.flag
  | 1 => g.leave m.task
  | _ => g.join now m.task

/-- A message taken by the scheduler that keeps a group. -/
def takeMsg (s : State) (m : GroupMsg) : State := settleGroup (s.modGroup m.key fun g => g.apply s.now m) m.key 3

/-- An event of a group told to its scheduler: at once in a group of one cluster, else by a message (R298). -/
def tellGroup (s : State) (m : GroupMsg) : State :=
  match s.group? m.key with
  | none => s
  | some g => if g.scope = 2 then takeMsg s m else { s with gmsgs := s.gmsgs ++ [m] }

/-- A task has arrived at the pending generation of a group, or is on its way to it. -/
def hasArrived (s : State) (k : GroupKey) (task : Nat) : Bool :=
  (match s.group? k with
   | none => false
   | some g => g.arrived.any (fun a => a.1 == task) || g.next.any fun a => a.1 == task) ||
  s.gmsgs.any fun m => m.key == k && m.task == task && m.what == 0

/-- GROUP_ARRIVAL (R298): a message reaches the scheduler, after the task's earlier ones. -/
def execGroupArrival (idx : Nat) (s : State) : Out :=
  match s.gmsgs[idx]? with
  | none => .next s
  | some m =>
    if (s.gmsgs.take idx).any fun x => x.key == m.key && x.task == m.task then .next s
    else .next (takeMsg { s with gmsgs := dropAt s.gmsgs idx } m)

/-- A task leaves every group of which it is a member (R241, R293). -/
def leaveAll (s : State) (l : Launch) (t : Task) : State :=
  (t.grps.foldl (fun s g => tellGroup s { key := groupKey s l g, task := t.id, what := 1, flag := 0 }) s).modTask t.id
    fun t => { t with grps := [] }

/-- A domain group that has ended on every module is forgotten, with its sequences and contributions: one formed anew under its
key starts at 0 (R403, R408). -/
def endGroups (s : State) : State :=
  let ended := fun (g : GroupState) =>
    g.key.domain && g.gone.contains s.modNum.toNat && (otherMods s g.key).all fun m => g.gone.contains m
  let keys := (s.groups.filter ended).map fun g => g.key
  if keys.isEmpty then s
  else
    { s with
      groups := s.groups.filter fun g => !ended g
      colls := s.colls.filter fun m => !keys.contains m.group
      collSeqs := s.collSeqs.filter fun x => !keys.contains x.1
      dies := s.dies.map fun d => (d.1, { d.2 with held := d.2.held.filter fun m => !keys.contains m.group }) }

/-- A launch has a domain entry with a cross-package key. -/
def Launch.hasKey (l : Launch) (xkey : BitVec 32) : Bool :=
  l.gtab.any fun e => entV e && entPeers e != 0 && entKey e == xkey

/-- The fabric-group fault in every context with an entry of the key (R403, R410); `cl` is the cluster whose die's
collective unit reports it. -/
def fabricGroup (s : State) (xkey : BitVec 32) (cl : Nat) : State :=
  (((s.launches.filter fun l => l.hasKey xkey).map fun l => l.ctx).eraseDups).foldl
    (fun t ctx => t.postFault ctx 0x34 0 (BitVec.ofNat 64 (0xA00 + cl / 10)) 0 (xkey.zeroExtend 64) 0) s

/-- A message of a peer for a group that is not formed here yet, held. -/
def State.holdEarly (s : State) (m : EarlyMsg) : State := { s with early := s.early ++ [m] }

/-- A launch here has an entry of the key whose set of modules is another (R403). -/
def otherMods? (s : State) (xkey : BitVec 32) (mods : BitVec 512) : Option Launch :=
  s.launches.find? fun l => l.gtab.any fun e => entV e && entPeers e != 0 && entKey e == xkey && entMods s e != mods

/-- MODULE_ARRIVAL (R404): arrival at generation `gen` − 1; 0 says that the module's launch has retired (log 24). A set of
modules in the sender's entry other than the group's is the fabric-group fault (R403). An arrival for a group
that is not formed here yet is held. -/
def execModuleArrival (xkey : BitVec 32) (sender : PeerModule) (gen : Nat) (s : State) : Out :=
  let mods := sender.mods
  let module := sender.num
  let early : EarlyMsg := { xkey := xkey, cast := false, mods := mods, module := module, gen := gen }
  match s.groups.find? fun g => g.key.domain && g.key.xkey == xkey with
  | none =>
    (match otherMods? s xkey mods with
     | some l => .next (fabricGroup s xkey l.cluster)
     | none => .next (if mods.getLsbD s.modNum.toNat then s.holdEarly early else s))
  | some g =>
    if module = s.modNum.toNat ∨ 512 ≤ module then .next s
    else if mods ≠ g.key.mods ∨ g.key.mods.getLsbD module = false then .next (fabricGroup s xkey g.cluster)
    else if g.gone.contains module then .next (s.holdEarly early)
    else if gen = 0 then
      .next (settleGroup (endGroups (s.modGroup g.key fun x => { x with gone := x.gone ++ [module] })) g.key 3)
    else if g.mods.contains (module, gen - 1) ∨ gen - 1 < g.gen then .next s
    else .next (settleGroup (s.modGroup g.key fun x => { x with mods := x.mods ++ [(module, gen - 1)] }) g.key 3)

/-- A GCAST of a peer module: its addition goes to the members on this module (R404), once the group is formed here. -/
def peerCast (s : State) (xkey : BitVec 32) (flag : Nat) (x : Word32) : State :=
  match s.groups.find? fun g => g.key.domain && g.key.xkey == xkey with
  | none => s.holdEarly { xkey := xkey, cast := true, flag := flag, add := x }
  | some g => (g.members ++ g.joiners).foldl (fun s t => sendFlag s t (flag % 64) x 6) s

/-- One message that peers sent before, taken. -/
def takeEarly (s : State) (m : EarlyMsg) : State :=
  if m.cast then peerCast s m.xkey m.flag m.add
  else
    match execModuleArrival m.xkey { num := m.module, mods := m.mods } m.gen s with
    | .next t => t
    | .fault _ => s
    | .refused _ => s

/-- What peers sent before a launch's domain groups were formed here, taken in order. -/
def joinEarly (s : State) (l : Launch) : State :=
  let mine := s.early.filter fun m => l.hasKey m.xkey
  mine.foldl takeEarly { s with early := s.early.filter fun m => !l.hasKey m.xkey }

/-! ### The acting task -/

/-- The acting task with its launch. -/
def actingTask (s : State) : Option (Task × Launch) :=
  match s.live.task with
  | none => none
  | some i =>
    match s.task? i with
    | none => none
    | some t =>
      match s.launch? t.launch with
      | none => none
      | some l => some (t, l)

/-- The group that a register value names for the acting task, a member of it; none where R240 traps. -/
def memberOf (s : State) (v : Word) : Option (Task × Launch × Nat) :=
  match actingTask s with
  | none => none
  | some (t, l) => if v.toNat < 256 ∧ t.grps.contains v.toNat then some (t, l, v.toNat) else none

/-- The extent of a group as it was fixed at placement (R290). -/
def groupExtent (s : State) (l : Launch) (g : Nat) : Nat :=
  match s.group? (groupKey s l g) with
  | none => extentOf s l g
  | some x => x.scope

end Sys2Proof.Machine
end

