-- ==== Sys2Proof/Machine/Copy.lean ====
section
/-! DEFINITION. Block copies (R166 to R172) and the queues of the block-transfer engines (R329 to R332); what every
engine command shares: its room, its acceptance and its completion (R116, R182, R260, R301); and the markers of an
invalidation (R284). -/

namespace Sys2Proof.Machine

/-! ### Commands -/

/-- The accepted commands of a core that have not begun (R260). -/
def unbegun (s : State) (n : Nat) : Nat := ((allCmds s).filter fun c => c.core == n && !c.begun).length

/-- A command that names a token may be accepted: the token's count is below 63 and the core holds fewer than 64
commands that have not begun (R116, R260). -/
def cmdRoom (s : State) (tok : BitVec 3) : Bool :=
  (s.live.tok tok.toNat).count != 63 && decide (unbegun s s.issue.core < 64)

/-- The acting core with a token changed. -/
def State.modTok (s : State) (tok : BitVec 3) (f : Token → Token) : State :=
  s.modLive fun c => c.setTok tok.toNat (f (c.tok tok.toNat))

/-- A command completed (R116, R301): its token falls by one and its flag, if it names one, rises by one, a release of its
accesses, before which no line of unversioned data stays clean in the core's hall (R253, R254). -/
def completeCmd (s : State) (c : EngineCmd) : State :=
  if (s.core c.core).task = c.task then
    let t := (s.passDone c).modCore c.core fun x =>
      let y := x.setTok c.tok (x.tok c.tok).complete
      if c.fe then y.setFlag c.flag (y.flag c.flag + 1) else y
    if c.fe then dropHallTiles t (coreCluster c.core) else t
  else s

/-- A command of the acting core as it is accepted: `i` gives its words, `regs` the values that it read. -/
def mkCmd (s : State) (id op fn : Nat) (i : Instr) (tok : BitVec 3) (fe : BitVec 1) (fl : BitVec 6) (scope : BitVec 3)
    (regs : List Word) (block : Block) (recs : List Block) : EngineCmd :=
  let ws := encode i
  { id := id, core := s.issue.core, ctx := s.live.ctx, task := s.live.task, op := op, fn := fn, w0 := ws.headD 0,
    w1 := ws.getD 1 0, tok := tok.toNat, eng := 0, fe := fe == 1, flag := fl.toNat, scope := scope.toNat, time := 0,
    regs := regs, block := block, recs := recs, begun := false, done := false, failed := false, seq := 0, since := s.now }

/-! ### Engines (R329) -/

/-- A block-transfer engine. -/
def State.bte (s : State) (cl e : Nat) : Bte := tget {} (s.cluster cl).btes e

/-- The state with a block-transfer engine changed. -/
def State.modBte (s : State) (cl e : Nat) (f : Bte → Bte) : State :=
  s.modCluster cl fun c => { c with btes := tset {} c.btes e (f (tget {} c.btes e)) }

/-- The commands of a run queue, markers left out. -/
def runCount (b : Bte) : Nat := (b.runq.filter fun e => match e with
  | .cmd _ => true
  | .marker _ => false).length

/-- The released commands that wait at the front of a vestibule. -/
def releasedCount (b : Bte) (now : Nat) : Nat := (b.vest.filter fun c => decide (c.since ≤ now)).length

/-- The run queue has room for a command that arrives: released ones take it first (R329, R332). -/
def runRoom (b : Bte) (now : Nat) : Bool := decide (runCount b + releasedCount b now < 16)

/-- The vestibule has room for a command that arrives: those whose time has come leave it as far as the run queue has room
(R329, R331). -/
def vestRoom (b : Bte) (now : Nat) : Bool :=
  decide (b.vest.length - Nat.min (16 - runCount b) (releasedCount b now) < 64)

/-- A vestibule with a command in time order, after those of the same time (R171). -/
def vestInsert (c : EngineCmd) : List EngineCmd → List EngineCmd
  | [] => [c]
  | x :: xs => if x.since ≤ c.since then x :: vestInsert c xs else c :: x :: xs

/-! ### The checks of R170 -/

/-- A 32-bit field of a box descriptor for a dimension: `off` 0x08 `sorg`, 0x2C `dorg`, 0x50 `bext` (R167). -/
def boxField (b : Block) (off d : Nat) : Nat := bfield b (off + 4 * d) 0 32

/-- `nd`. -/
def boxNd (b : Block) : Nat := bfield b 0 0 4

/-- A descriptor that is valid for two records. -/
def boxOk (b src dst : Block) : Bool :=
  bfield b 0 4 60 == 0 && bfield b 0x74 0 96 == 0 && boxNd b != 0 && decide (boxNd b ≤ 9) &&
  boxNd b == recRank src && boxNd b == recRank dst &&
  (List.range 9).all fun d =>
    if d < boxNd b then boxField b 0x50 d != 0
    else boxField b 0x08 d == 0 && boxField b 0x2C d == 0 && boxField b 0x50 d == 0

/-- A sub-byte record's box starts and ends on bytes. -/
def boxAligned (r : Block) (org ext : Nat) : Bool :=
  let w := fmtWidth (recEfmt r)
  decide (8 ≤ w) || (org * w % 8 == 0 && ext * w % 8 == 0)

/-! ### The elements of a box and their pages -/

/-- The indices of a box of extents, dimension 0 fastest. -/
def boxIdx : List Nat → List (List Nat)
  | [] => [[]]
  | e :: es => (boxIdx es).flatMap fun t => (List.range e).map fun x => x :: t

/-- The values of a descriptor's field for its dimensions. -/
def boxList (b : Block) (off : Nat) : List Nat := (List.range (boxNd b)).map fun d => boxField b off d

/-- Two index lists added. -/
def addIdx (a b : List Nat) : List Nat := a.zipWith (· + ·) b

/-- An index lies outside a record's extents. -/
def outside (r : Block) (i : List Nat) : Bool := (List.range (recRank r)).any fun d => decide (recExt r d ≤ i.getD d 0)

/-- The virtual addresses of the bytes that a box of a record touches, its origin at offset `off` of the descriptor. -/
def boxBytes (b r : Block) (off : Nat) : List Nat :=
  (boxIdx (boxList b 0x50)).flatMap fun x =>
    let i := addIdx (boxList b off) x
    if outside r i then []
    else (List.range (ceilDiv (fmtWidth (recEfmt r)) 8)).map fun j => (elemAddr r (pairIdx r i)).1 + j

/-- The bytes that a copy reads. -/
def copyReads (c : EngineCmd) : List Nat := boxBytes c.block (c.recs.getD 0 0) 0x08

/-- The bytes that a copy writes. -/
def copyWrites (c : EngineCmd) : List Nat := boxBytes c.block (c.recs.getD 1 0) 0x2C

/-- The mapping of a page that a command entering a run queue finds (R172). -/
def pageMap (s : State) (cl : Nat) (ctx : BitVec 12) (page : Nat) : Option TlbEntry :=
  match lookupVa s cl ctx (0x4000 * page) with
  | .ok _ leaf bits => some { ctx := ctx, va := 0x4000 * page, bits := bits, leaf := leaf }
  | .noMap => none
  | .onDemand _ => none
  | .malformed => none
  | .poisoned _ => none
  | .forbidden => none

/-- A copy with the mappings of its pages as it enters the run queue. -/
def admitted (s : State) (cl : Nat) (c : EngineCmd) : EngineCmd :=
  { c with maps := (((copyReads c ++ copyWrites c).map fun a => a / 0x4000).eraseDups).filterMap (pageMap s cl c.ctx) }

/-! ### Arrival and release (R171, R329, R332) -/

/-- The commands of a vestibule whose time has come released, as far as the run queue has room. -/
def releaseDue (s : State) (cl e : Nat) : State :=
  let b := s.bte cl e
  let k := Nat.min (16 - runCount b) (releasedCount b s.now)
  if k = 0 then s
  else
    s.modBte cl e fun b =>
      { b with vest := b.vest.drop k, runq := b.runq ++ (b.vest.take k).map fun c => .cmd (admitted s cl c) }

/-- A command arriving at an engine: released commands take the run queue's room first; a COPY goes to its tail, a COPYT into
the vestibule, late when its time has passed and released at once when its time has come (R171, R329, R332). -/
def arrive (s : State) (cl : Nat) (c : EngineCmd) : State :=
  let t := releaseDue s cl c.eng
  if c.fn = 0 then t.modBte cl c.eng fun b => { b with runq := b.runq ++ [.cmd (admitted s cl c)] }
  else
    releaseDue (t.modBte cl c.eng fun b =>
      { b with vest := vestInsert { c with since := Nat.max c.time s.now } b.vest,
               late := if c.time < s.now then b.late + 1 else b.late }) cl c.eng

/-- The first failing check of a copy, as its reason code; `time` is given for a COPYT. -/
def copyReason (s : State) (src dst : Option Block) (b : Block) (time : Option Nat) : Option (BitVec 4) :=
  match src, dst with
  | none, _ => some 1
  | some _, none => some 2
  | some x, some y =>
    if !boxOk b x y then some 3
    else if (List.range (boxNd b)).any fun d => decide (recExt y d < boxField b 0x2C d + boxField b 0x50 d) then some 4
    else if !boxAligned x (boxField b 0x08 0) (boxField b 0x50 0) || !boxAligned y (boxField b 0x2C 0) (boxField b 0x50 0)
    then some 5
    else if recClass x == 2 || recClass y == 2 then some 6
    else
      match time with
      | none => none
      | some t => if s.now + 2 ^ 40 < t then some 7 else none

/-! ### COPY and COPYT at issue (R168) -/

/-- A copy as it issues: `eng` its engine, `fn` 0 for COPY and 1 for COPYT, `time` its not-before time. -/
def copyIssue (i : Instr) (fn : Nat) (tok : BitVec 3) (rs rt bx : BitVec 6) (fe : BitVec 1) (fl : BitVec 6)
    (scope eng : BitVec 3) (time : Option Word) (s : State) : Out :=
  memReady s (
    let cl := coreCluster s.issue.core
    let e := s.bte cl eng.toNat
    if !cmdRoom s tok || (if fn = 0 then !runRoom e s.now else !vestRoom e s.now) then hold s
    else
      let a := s.rd bx
      if a.toNat % 8 ≠ 0 then trapAt s 1 a
      else
        strandRead s a 128 fun bs =>
          let b := blockOf bs
          let src := handleRec s.issue.pre.recs (s.rd rs)
          let dst := handleRec s.issue.pre.recs (s.rd rt)
          match copyReason s src dst b (time.map fun t => t.toNat) with
          | some r => .next (s.modTok tok fun t => t.reject r)
          | none =>
            let x := s.takeId
            let c := { mkCmd s x.1 0x2A fn i tok fe fl scope ([s.rd rs, s.rd rt, a] ++ time.toList) b
                         (src.toList ++ dst.toList) with
                       eng := eng.toNat, time := (time.map fun t => t.toNat).getD 0 }
            .next (arrive (x.2.modTok tok Token.accept) cl c))

/-- COPY. -/
def execCopy (g : BitVec 6) (tok : BitVec 3) (rs rt bx : BitVec 6) (fe : BitVec 1) (fl : BitVec 6) (scope eng : BitVec 3)
    (s : State) : Out :=
  guarded g s fun s => ready s [rs, rt, bx] (
    copyIssue (.copy g tok rs rt bx fe fl scope eng) 0 tok rs rt bx fe fl scope eng none s)

/-- COPYT. -/
def execCopyt (g : BitVec 6) (tok : BitVec 3) (rs rt bx : BitVec 6) (fe : BitVec 1) (fl : BitVec 6)
    (scope eng : BitVec 3) (tr : BitVec 6) (s : State) : Out :=
  guarded g s fun s => ready s [rs, rt, bx, tr] (
    copyIssue (.copyt g tok rs rt bx fe fl scope eng tr) 1 tok rs rt bx fe fl scope eng (some (s.rd tr)) s)

/-! ### Performing a copy (R168, R169) -/

/-- The value that a copy writes for a source index, in the destination's format. -/
def copyValue (s : State) (cl : Nat) (ctx : BitVec 12) (src dst : Block) (si : List Nat) : Except AccFail Nat :=
  if outside src si then .ok (convert (recTfmt src) (recEfmt dst) .rne false (recPad src)).1
  else
    match engineVal s (some cl) cl ctx src si with
    | .error f => .error f
    | .ok x => .ok (convert x.2 (recEfmt dst) .rne false x.1).1

/-- One element copied, from what the command found before it began, `s0`, or, where its own writes have changed the source,
from what it finds now, `v`: either value (R168, log 4). -/
def copyElem (s0 : State) (cl : Nat) (c : EngineCmd) (v s : State) (x : List Nat) : Except AccFail (State × State) :=
  let src := c.recs.getD 0 0
  let dst := c.recs.getD 1 0
  let si := addIdx (boxList c.block 0x08) x
  let di := addIdx (boxList c.block 0x2C) x
  match copyValue s0 cl c.ctx src dst si, copyValue v cl c.ctx src dst si with
  | .error f, _ => .error f
  | _, .error f => .error f
  | .ok a, .ok b =>
    let s := if outside src si then s else markElem s cl c.ctx src (pairIdx src si)
    let t := if a = b then (true, s) else s.takeBool
    let y := if t.1 then a else b
    match engineWrite v (some cl) cl c.ctx dst di y, engineWrite t.2 (some cl) cl c.ctx dst di y with
    | .error f, _ => .error f
    | _, .error f => .error f
    | .ok v, .ok s => .ok (v, s)

/-- The elements of a copy in order. -/
def copyFrom (s0 : State) (cl : Nat) (c : EngineCmd) : List (List Nat) → State → State → Except AccFail State
  | [], _, s => .ok s
  | x :: xs, v, s =>
    match copyElem s0 cl c v s x with
    | .error f => .error f
    | .ok t => copyFrom s0 cl c xs t.1 t.2

/-- The mappings that an engine's commands ahead of its markers still use, those that the first marker's invalidation removed
from the TLB; none without a marker (R172, R330). A later marker's are those of pages that were walked again after it. -/
def oldMappings (s : State) (cl e : Nat) : Option (List TlbEntry) :=
  let ms := (s.bte cl e).runq.filterMap fun x =>
    match x with
    | .cmd _ => none
    | .marker id => some id
  ms.head?.map fun id =>
    match s.invals.find? fun v => v.id == id with
    | none => []
    | some v => tget [] v.old cl

/-- A whole copy, under the mappings that it sees: it reads what has reached its engine on path B, and its writes enter the
order of their granules (R248, R253, R414), all in one step (log 108). -/
def copyAll (s : State) (cl : Nat) (c : EngineCmd) : Except AccFail State :=
  let is := boxIdx (boxList c.block 0x50)
  let dst := c.recs.getD 1 0
  let ds := is.map fun x => pairIdx dst (addIdx (boxList c.block 0x2C) x)
  let v := s.asSeen c.party
  copyFrom v cl c is (clearCovered v cl c.ctx dst ds) (clearCovered (s.noteElems c.party cl c.ctx dst ds) cl c.ctx dst ds)

/-- A whole copy: a command ahead of a marker uses the mapping before the invalidation (R172), that of the entries taken from
the TLB, else the one with which it entered the run queue. -/
def performCopy (s : State) (cl : Nat) (c : EngineCmd) : Except AccFail State :=
  match oldMappings s cl c.eng with
  | none => copyAll s cl c
  | some es =>
    match copyAll (s.modCluster cl fun x => { x with tlb := es ++ c.maps ++ x.tlb }) cl c with
    | .error f => .error f
    | .ok t => .ok (t.modCluster cl fun x => { x with tlb := (s.cluster cl).tlb })

/-! ### Copies of one strand that overlap (R250, log 101) -/

/-- Two copies touch a byte that one of them writes. -/
def copiesMeet (a b : EngineCmd) : Bool :=
  ((copyWrites a).any fun x => (copyWrites b).contains x || (copyReads b).contains x) ||
  (copyReads a).any fun x => (copyWrites b).contains x

/-- The earlier copies of a copy's strand, by issue, that overlap it and have still to be performed (R250). -/
def olderCopies (s : State) (c : EngineCmd) : List EngineCmd :=
  (allCmds s).filter fun d =>
    d.op == 0x2A && !d.done && d.core == c.core && d.task == c.task && decide (d.id < c.id) && copiesMeet d c

/-- The four commands in progress of an engine all wait for copies that have not begun: none of them could start behind these,
so they wait for them no longer (R171, R172, R330, log 101). -/
def engineStuck (s : State) (cl e : Nat) : Bool :=
  let b := s.bte cl e
  decide (4 ≤ b.act.length) && b.act.all fun x => !x.done && (olderCopies s x).any fun d => !d.begun

/-- A copy has still to wait for an earlier one of its strand. -/
def olderCopy (s : State) (cl : Nat) (c : EngineCmd) : Bool :=
  (olderCopies s c).any fun d => d.begun || !engineStuck s cl c.eng

/-- The fault of a copy or a promotion (R285). -/
def copyFault (s : State) (ctx : BitVec 12) (cl eng : Nat) (f : AccFail) : State :=
  match f with
  | .access va => s.postFault ctx 0x10 0 (BitVec.ofNat 64 (0x100 + eng)) 0 (BitVec.ofNat 64 va) 0
  | .walk va => s.postFault ctx 0x12 0 0x200 0 (BitVec.ofNat 64 va) 0
  | .data pa => s.dataFault ctx 0x11 (cl / 10) (BitVec.ofNat 64 (0x100 + eng)) 0 pa

/-! ### The engines' events -/

/-- COPYT_RELEASE (R171, R329): the commands of the vestibule whose time has come, as far as the run queue has room. -/
def execCopytRelease (cl e : Nat) (s : State) : Out := .next (releaseDue s cl e)

/-- COPY_START (R330): the command at the head begins; an access that cannot be made is found here and faults (R285). -/
def execCopyStart (cl e : Nat) (s0 : State) : Out :=
  let s := releaseDue s0 cl e
  let b := s.bte cl e
  match b.runq with
  | .cmd c :: rest =>
    if 4 ≤ b.act.length then .next s
    else
      let t := s.modBte cl e fun b => { b with runq := rest, act := b.act ++ [{ c with begun := true }] }
      match performCopy s cl c with
      | .ok _ => .next t
      | .error f =>
        .next ((copyFault t c.ctx cl e f).modBte cl e fun b =>
          { b with act := b.act.map fun x => if x.id = c.id then { x with failed := true } else x })
  | _ => .next s

/-- A performed command completed: its token and flag. -/
def endCopy (s : State) (cl e : Nat) (c : EngineCmd) : State :=
  completeCmd (s.modBte cl e fun b => { b with act := b.act.filter fun x => x.id != c.id }) c

/-- A command in progress performed, then completed; one whose access fails faults and stays. `slow` leaves the completion to
another turn: till then each reader of its writes finds each granule from before the copy or from after it (R256, R257). -/
def finishCopy (slow : Bool) (s : State) (cl e : Nat) (c : EngineCmd) : State :=
  let mark := fun (f : EngineCmd → EngineCmd) (s : State) =>
    s.modBte cl e fun b => { b with act := b.act.map fun x => if x.id = c.id then f x else x }
  match performCopy s cl c with
  | .ok t =>
    let y := if slow then t.takeBool else (false, t)
    if y.1 then mark (fun x => { x with done := true }) y.2 else endCopy y.2 cl e c
  | .error f => mark (fun x => { x with failed := true }) (copyFault s c.ctx cl e f)

/-- COPY_COMPLETE (R168): a command is performed, and completed at once or, by a free choice, by another such event (log 4,
log 108). A command that has faulted does not complete, nor one that overlaps an earlier one of its strand (R250). -/
def execCopyComplete (cl e idx : Nat) (s : State) : Out :=
  match (s.bte cl e).act[idx]? with
  | none => .next s
  | some c =>
    .next (if c.failed || olderCopy s cl c then s else if c.done then endCopy s cl e c else finishCopy true s cl e c)

/-! ### Invalidations (R284, R330) -/

/-- An invalidation of a context's mappings: TLB entries removed, markers behind every queue. -/
def startInval (s : State) (ctx : BitVec 12) (notify : Bool) : State :=
  let x := s.takeId
  let all := (List.range 40).flatMap fun cl => (List.range 8).map fun e => 8 * cl + e
  let t := all.foldl
    (fun t i => (releaseDue t (i / 8) (i % 8)).modBte (i / 8) (i % 8) fun b => { b with runq := b.runq ++ [.marker x.1] }) x.2
  { t with clusters := t.clusters.map fun c => (c.1, { c.2 with tlb := c.2.tlb.filter fun e => e.ctx != ctx }),
           invals := t.invals ++ [{ id := x.1, ctx := ctx, left := all, notify := notify,
                                    old := (t.clusters.map fun c => (c.1, c.2.tlb.filter fun e => e.ctx == ctx)).filter
                                      fun c => !c.2.isEmpty }] }

/-- A marker gone from an engine; with the last one the invalidation completes (R382: a kind-4 notification). -/
def markerGone (s : State) (id i : Nat) : State :=
  match s.invals.find? fun v => v.id == id with
  | none => s
  | some v =>
    let left := v.left.filter fun x => x != i
    if left.isEmpty then
      let t := { s with invals := s.invals.filter fun x => x.id != id }
      if v.notify then postNote t v.ctx 0 4 4 0 0 else t
    else { s with invals := s.invals.map fun x => if x.id = id then { x with left := left } else x }

/-- MARKER_REMOVE: the marker at the head leaves once every command that began before it has completed. -/
def execMarkerRemove (cl e : Nat) (s : State) : Out :=
  let b := s.bte cl e
  match b.runq with
  | .marker id :: rest =>
    if b.act.isEmpty then .next (markerGone (s.modBte cl e fun b => { b with runq := rest }) id (8 * cl + e)) else .next s
  | _ => .next s

end Sys2Proof.Machine
end

