-- ==== Sys2Proof/Machine/Selection.lean ====
section
/-! DEFINITION. What the engines of opcodes 0x30 to 0x35 share (R182, R299 to R302): acceptance, tensor elements, faults
and completion; with the selection unit (R303 to R307), SEL.TOPK, SEL.SEG, SELECTION_PERFORM and ENGINE_COMPLETE. -/

namespace Sys2Proof.Machine

/-! ### Acceptance (R300) -/

/-- The engine-reject trap with a reason code (R122, R300). -/
def engineReject (s : State) (reason : Nat) : Out := trapAt s 15 (BitVec.ofNat 64 reason)

/-- An operand block of `n` bytes read at issue (R300). -/
def engineBlock (s : State) (a : Word) (n : Nat) (f : Block → Out) : Out :=
  if a.toNat % n ≠ 0 then trapAt s 1 a else strandRead s a n fun bs => f (blockOf bs)

/-- A command accepted: its token rises and `put` places it in its engine's queue (R300). -/
def engineAccept (s : State) (op fn : Nat) (i : Instr) (e : EngineWord) (block : Block) (recs : List Block)
    (put : EngineCmd → State → State) : Out :=
  let x := s.takeId
  let c := mkCmd s x.1 op fn i e.tok e.fe e.fl e.scope [s.rd e.sa] block recs
  .next (put c (x.2.modTok e.tok Token.accept))

/-- The commands that an engine's queue holds (R300). -/
def engineDepth : Nat := 32

/-- A tensor-id word without its reserved bits (R307, R316, R341, R409). -/
def tidOk (b : Block) (off : Nat) : Bool := bfield b off 24 40 == 0

/-- The record that a tensor-id word names. -/
def tidRec (rs : List Block) (b : Block) (off : Nat) : Option Block := findRec rs (BitVec.ofNat 24 (bfield b off 0 24))

/-- Every record of a list is there and keeps a rule. -/
def allRecs (rs : List (Option Block)) (p : Block → Bool) : Bool :=
  rs.all fun o => match o with
    | none => false
    | some r => p r

/-! ### Elements and faults (R302, R318) -/

/-- A function mapped over a list until an access fails. -/
def mapE {α β : Type} (f : α → Except AccFail β) : List α → Except AccFail (List β)
  | [] => .ok []
  | x :: xs =>
    match f x with
    | .error e => .error e
    | .ok y =>
      match mapE f xs with
      | .error e => .error e
      | .ok ys => .ok (y :: ys)

/-- State changes made in order until an access fails. -/
def foldE {α : Type} (f : State → α → Except AccFail State) : List α → State → Except AccFail State
  | [], s => .ok s
  | x :: xs, s =>
    match f s x with
    | .error e => .error e
    | .ok t => foldE f xs t

/-- Elements of a tensor read by an engine of a cluster for a party: what has reached it (R253, R414). -/
def readElems (p : Party) (s : State) (cl : Nat) (ctx : BitVec 12) (r : Block) (is : List (List Nat)) :
    Except AccFail (List Nat) :=
  mapE (engineRead (s.asSeen p) (some cl) cl ctx r) is

/-- The state in which elements of a tensor are about to be written by a party (R349, R414). -/
def openElems (p : Party) (cl : Nat) (ctx : BitVec 12) (r : Block) (is : List (List Nat)) (s : State) : State :=
  clearCovered (s.noteElems p cl ctx r (is.map (pairIdx r))) cl ctx r (is.map (pairIdx r))

/-- Elements of a tensor written by an engine of a cluster for a party, in order. -/
def writeElems (p : Party) (cl : Nat) (ctx : BitVec 12) (r : Block) (xs : List (List Nat × Nat)) (s : State) :
    Except AccFail State :=
  foldE (fun t x => engineWrite t (some cl) cl ctx r x.1 x.2) xs (openElems p cl ctx r (xs.map fun x => x.1) s)

/-- The reads of elements noted by the page moves that are resident (R365). -/
def markElems (s : State) (cl : Nat) (ctx : BitVec 12) (r : Block) (is : List (List Nat)) : State :=
  if s.moves.isEmpty then s else is.foldl (fun t i => markElem t cl ctx r (pairIdx r i)) s

/-- Bytes at a virtual address read by an engine. -/
def engineBytes (s : State) (cl : Nat) (ctx : BitVec 12) (va n : Nat) : Except AccFail (List Byte) :=
  match translate s cl ctx va .read with
  | .ok pa _ _ =>
    (match readPhys s pa n with
     | .error g => .error (.data g)
     | .ok bs => .ok bs)
  | .onDemand _ => .error (.access va)
  | .noMap => .error (.access va)
  | .forbidden => .error (.access va)
  | .malformed => .error (.walk va)
  | .poisoned _ => .error (.walk va)

/-- Bytes at a virtual address written by an engine; they do not cross a page. -/
def enginePut (cl : Nat) (ctx : BitVec 12) (va : Nat) (bs : List Byte) (s : State) : Except AccFail State :=
  match translate s cl ctx va .write with
  | .ok pa leaf _ =>
    let t := writePhys (leafZ leaf) s pa bs
    (match t.2 with
     | some g => .error (.data g)
     | none => .ok t.1)
  | .onDemand _ => .error (.access va)
  | .noMap => .error (.access va)
  | .forbidden => .error (.access va)
  | .malformed => .error (.walk va)
  | .poisoned _ => .error (.walk va)

/-- Bytes at a virtual address read by an engine for a party: what has reached it. -/
def engineBytesAs (p : Party) (s : State) (cl : Nat) (ctx : BitVec 12) (va n : Nat) : Except AccFail (List Byte) :=
  engineBytes (s.asSeen p) cl ctx va n

/-- Bytes at a virtual address written by an engine for a party, entering the order of their granules. -/
def enginePutAs (p : Party) (cl : Nat) (ctx : BitVec 12) (va : Nat) (bs : List Byte) (s : State) : Except AccFail State :=
  match translate s cl ctx va .write with
  | .ok pa _ _ => enginePut cl ctx va bs (s.noteOld p pa bs.length)
  | _ => enginePut cl ctx va bs s

/-- The die of an engine's unit number: a cluster's below 0x600, else a die's. -/
def unitDie (unit : Nat) : Nat := if unit < 0x600 then unit % 0x100 / 10 else unit % 0x100

/-- An engine's fault: `code` for an access, `code` + 1 for an uncorrectable error (R318, R343). -/
def engineFault (s : State) (ctx : BitVec 12) (unit code : Nat) (f : AccFail) : State :=
  match f with
  | .access va => s.postFault ctx code 0 (BitVec.ofNat 64 unit) 0 (BitVec.ofNat 64 va) 0
  | .walk va => s.postFault ctx 0x12 0 0x200 0 (BitVec.ofNat 64 va) 0
  | .data pa => s.dataFault ctx (code + 1) (unitDie unit) (BitVec.ofNat 64 unit) 0 pa

/-- A command of a queue changed. -/
def modCmd (q : List EngineCmd) (id : Nat) (f : EngineCmd → EngineCmd) : List EngineCmd :=
  q.map fun c => if c.id = id then f c else c

/-- A command begun and performed. -/
def EngineCmd.perform (c : EngineCmd) : EngineCmd := { c with begun := true, done := true }

/-- A command that has raised a fault. -/
def EngineCmd.fail (c : EngineCmd) : EngineCmd := { c with begun := true, failed := true }

/-- A unit's command changed in whichever queue holds it. -/
def State.modEngineCmd (s : State) (id : Nat) (f : EngineCmd → EngineCmd) : State :=
  { s with
    clusters := s.clusters.map fun x => (x.1, { x.2 with selq := modCmd x.2.selq id f, lndq := modCmd x.2.lndq id f })
    dies := s.dies.map fun x => (x.1, { x.2 with rteq := modCmd x.2.rteq id f, collq := modCmd x.2.collq id f }) }

/-- A unit's command taken out of whichever queue holds it. -/
def State.dropEngineCmd (s : State) (id : Nat) : State :=
  { s with
    clusters := s.clusters.map fun x =>
      (x.1, { x.2 with selq := x.2.selq.filter fun c => c.id != id, lndq := x.2.lndq.filter fun c => c.id != id })
    dies := s.dies.map fun x =>
      (x.1, { x.2 with rteq := x.2.rteq.filter fun c => c.id != id, collq := x.2.collq.filter fun c => c.id != id }) }

/-! ### Commands of one strand that may overlap (R250, log 101) -/

/-- The records of a Landing slot, and of a Concourse session, by number. -/
def slotRecs (s : State) (lnd n : Nat) : List Block :=
  ((s.cluster lnd).slots.filter fun l => l.num == n).flatMap fun l => l.recs ++ l.accRecs
@[inherit_doc slotRecs] def sessRecs (s : State) (die n : Nat) : List Block :=
  ((s.die die).sessions.filter fun x => x.num == n).flatMap fun x => x.recs

/-- The records of a session that RTE.COUNT, RTE.PLACE, RTE.SCATTER and RTE.GATHER read or write. -/
def routeUses (c : EngineCmd) : List Nat :=
  if c.op = 0x33 then [1, 2, 4, 5, 6]
  else
    match c.fn with
    | 1 => [0, 7]
    | 2 => [0, 6, 7, 8]
    | _ => [2, 3, 6]

/-- The records through which a command of path E or F reads and writes. -/
def cmdRecs (s : State) (c : EngineCmd) : List Block :=
  if c.op = 0x31 then c.recs ++ slotRecs s (bitsAt (cmdPlace c) 8 6) (bitsAt (cmdPlace c) 0 8)
  else if (c.op = 0x32 ∧ c.fn ≠ 0) ∨ c.op = 0x33 then
    let rs := sessRecs s (coreDie c.core) ((c.regs.headD 0).toNat % 16)
    (routeUses c).filterMap fun i => rs[i]?
  else c.recs

/-- The addresses between which a tensor lies. -/
def recHull (r : Block) : Int × Int :=
  (List.range (recRank r)).foldl
    (fun h d =>
      let x := ((recExt r d : Int) - 1) * recStr r d
      if x < 0 then (h.1 + x, h.2) else (h.1, h.2 + x))
    ((recBase r : Int), (recBase r : Int) + (max (fmtWidth (recEfmt r) / 8) 1 : Nat))

/-- Two hulls may share a byte. -/
def hullsMeet (a b : Int × Int) : Bool := decide (a.1 < b.2) && decide (b.1 < a.2)

/-- The bytes of an address range as a hull. -/
def byteHull (a n : Nat) : Int × Int := ((a : Int), ((a + n : Nat) : Int))

/-- What a command reads or writes beside its own tensors: a setup's expert table, the result record of a placement or of a
round, and the rows of the ranks that an RTE.SCATTER or RTE.GATHER reaches on this module (R312, R335, R337, R338). -/
def cmdExtra (s : State) (c : EngineCmd) : List (Int × Int) :=
  let n := (c.regs.headD 0).toNat % 16
  let mine := (s.die (coreDie c.core)).sessions.filter fun x => x.num == n
  let ranks := fun (i : Nat) =>
    ((s.dies.flatMap fun d => d.2.sessions).filter fun y => y.num == n && mine.any fun x => x.group == y.group).flatMap
      fun y => (y.recs[i]?.map recHull).toList
  if c.op = 0x33 then ranks 4
  else if c.op = 0x32 then
    match c.fn with
    | 0 => if bfield c.block 0 9 1 = 1 then [] else [byteHull (bfield c.block 0x50 0 64) (16 * (bfield c.block 0 32 12 + 1))]
    | 1 => []
    | 2 => mine.map fun x => byteHull (bfield x.block 0x58 0 64) 32
    | _ => ranks 3
  else if c.op = 0x31 ∧ c.fn = 2 then
    ((s.cluster (unmLnd (cmdPlace c))).slots.filter fun l => l.num == unmSlot (cmdPlace c)).flatMap fun l =>
      [byteHull (bfield l.block 0x40 0 64) 32, byteHull (bfield l.accBlock 0x40 0 64) 32]
  else []

/-- The hulls of all that a command reads and writes. -/
def cmdHulls (s : State) (c : EngineCmd) : List (Int × Int) := (cmdRecs s c).map recHull ++ cmdExtra s c

/-- An earlier command of the same strand on the same path, by whichever unit, whose tensors this one's may overlap, has still to
be performed (R250). -/
def olderOverlap (s : State) (c : EngineCmd) : Bool :=
  (allCmds s).any fun d =>
    d.core == c.core && d.task == c.task && decide (d.id < c.id) && d.path == c.path && !d.done &&
      (cmdHulls s d).any fun a => (cmdHulls s c).any fun b => hullsMeet a b

/-- What comes of a command's performing: its effects, or its fault. -/
def settleCmd (s : State) (c : EngineCmd) (unit code : Nat) (r : Except AccFail State) : State :=
  match r with
  | .ok t => t.modEngineCmd c.id EngineCmd.perform
  | .error f => (engineFault s c.ctx unit code f).modEngineCmd c.id EngineCmd.fail

/-! ### Ranking (R303) -/

/-- A key ranks below another: a smaller number, or a NaN below a number. -/
def keyBelow (x y : Num) : Bool := (x.isNaN && !y.isNaN) || x.lt y

/-- A candidate put into a ranking, after those that it does not outrank. -/
def rankInsert (x : Nat × Num) : List (Nat × Num) → List (Nat × Num)
  | [] => [x]
  | y :: ys => if keyBelow y.2 x.2 then x :: y :: ys else y :: rankInsert x ys

/-- Candidates in ascending index ranked from best to worst. -/
def rankKeys (xs : List (Nat × Num)) : List Nat := (xs.foldl (fun acc x => rankInsert x acc) []).map fun x => x.1

/-- The key of the fill (R303). -/
def fillKey (f : Nat) : Nat := if f = 0 then 0x7FC00000 else if f = 2 then 0x7FC0 else 0x80000000

/-- A key as it is written: a NaN is canonical. -/
def keyOut (f x : Nat) : Nat :=
  match fmtFloat f with
  | none => x
  | some t => if (decodeF t x).isNaN then canonNaN t else x

/-! ### Operand blocks (R304, R305) -/

/-- A mask selects the eligible candidates; indices come from a payload. -/
def selMe (b : Block) : Bool := bfield b 0 59 1 == 1
@[inherit_doc selMe] def selPe (b : Block) : Bool := bfield b 0 58 1 == 1

/-- The results per segment, the candidates per segment and the segments of a command. -/
def selK (fn : Nat) (b : Block) : Nat := if fn = 0 then bfield b 0 32 11 else bfield b 0 48 5
@[inherit_doc selK] def selLen (fn : Nat) (b : Block) : Nat := if fn = 0 then bfield b 0 0 17 else bfield b 0 32 11
@[inherit_doc selK] def selSegs (fn : Nat) (b : Block) : Nat := if fn = 0 then 1 else bfield b 0 0 17

/-- The element of candidate `i`, and of result `j`, of segment `g`. -/
def selIn (b : Block) (g i : Nat) : List Nat := [bfield b 0x10 0 32 + i, bfield b 0x10 32 32 + g]
@[inherit_doc selIn] def selOut (b : Block) (g j : Nat) : List Nat := [bfield b 0x28 0 32 + j, bfield b 0x28 32 32 + g]

/-- The index of candidate `i` (R304, R305). -/
def selIdx (fn : Nat) (b : Block) (i : Nat) : Nat := if fn = 0 then bfield b 0x10 0 32 + i else i

/-- Check 0x1 of R307. -/
def selBlockOk (fn : Nat) (b : Block) : Bool :=
  bfield b 0 60 4 == 0 &&
  (if fn = 0 then bfield b 0 43 15 == 0 && bfield b 0 17 15 == 0
   else bfield b 0 53 6 == 0 && bfield b 0 43 5 == 0 && bfield b 0 17 15 == 0 && bfield b 0x38 0 64 == 0) &&
  [0x08, 0x18, 0x20, 0x30].all (tidOk b) && (fn != 0 || tidOk b 0x38) &&
  (selMe b || bfield b 0x30 0 64 == 0) && (fn != 0 || selPe b || bfield b 0x38 0 64 == 0) &&
  decide (1 ≤ selK fn b) && decide (selK fn b ≤ (if fn = 0 then 1024 else 16)) &&
  decide (1 ≤ selLen fn b) && decide (selLen fn b ≤ (if fn = 0 then 65536 else 1024)) &&
  decide (1 ≤ selSegs fn b) && decide (selSegs fn b ≤ 65536)

/-- The records that a selection names: key, key output, index output, mask and payload; the last two where used. -/
def selRecs (fn : Nat) (b : Block) (rs : List Block) : List (Option Block) :=
  [tidRec rs b 0x08, tidRec rs b 0x18, tidRec rs b 0x20] ++
  (if selMe b then [tidRec rs b 0x30] else []) ++ (if fn = 0 && selPe b then [tidRec rs b 0x38] else [])

/-- The mask and the payload record of a command, where used. -/
def selMask? (b : Block) (rs : List Block) : Option Block := if selMe b then tidRec rs b 0x30 else none
@[inherit_doc selMask?] def selPay? (fn : Nat) (b : Block) (rs : List Block) : Option Block :=
  if fn = 0 && selPe b then tidRec rs b 0x38 else none

/-- A rank that a command takes. -/
def selRank (fn : Nat) (r : Block) : Bool := recRank r == 2 || (fn == 0 && recRank r == 1)

/-- A rectangle of `n` by `m` elements from an element on lies in a tensor; a rank-1 tensor has row 0 alone. -/
def boxIn (r : Block) (o : List Nat) (n m : Nat) : Bool :=
  decide (o.headD 0 + n ≤ recExt r 0) &&
  (if recRank r = 1 then o.getD 1 0 == 0 else decide (o.getD 1 0 + m ≤ recExt r 1))

/-- The first reason to reject a selection command (R307). -/
def selReason (fn : Nat) (b : Block) (rs : List Block) : Option Nat :=
  let k := tidRec rs b 0x08
  let o := tidRec rs b 0x18
  let i := tidRec rs b 0x20
  let m := (selMask? b rs).toList
  let p := (selPay? fn b rs).toList
  if !selBlockOk fn b then some 1
  else if !allRecs (selRecs fn b rs) (fun _ => true) then some 2
  else if !allRecs [k] (fun r => recEfmt r == 0 || recEfmt r == 2 || recEfmt r == 5) ||
      !allRecs [o] (fun r => some (recEfmt r) == k.map recEfmt) ||
      !allRecs ([i] ++ p.map some) (fun r => recEfmt r == 5 || recEfmt r == 11) ||
      !allRecs (m.map some) (fun r => recClass r == 3) ||
      !allRecs ([k, o, i] ++ p.map some) (fun r => recClass r == 0) ||
      !allRecs (selRecs fn b rs) (selRank fn) then some 3
  else if !allRecs ([k] ++ m.map some ++ p.map some) (fun r => boxIn r (selIn b 0 0) (selLen fn b) (selSegs fn b)) ||
      !allRecs [o, i] (fun r => boxIn r (selOut b 0 0) (selK fn b) (selSegs fn b)) then some 4
  else none

/-! ### Issue -/

/-- A selection command at issue. -/
def selIssue (i : Instr) (fn : Nat) (e : EngineWord) (s : State) : Out :=
  memReady s (
    if !cmdRoom s e.tok || decide (engineDepth ≤ (s.cluster (coreCluster s.issue.core)).selq.length) then hold s
    else
      engineBlock s (s.rd e.sa) 64 fun b =>
        match selReason fn b s.issue.pre.recs with
        | some r => engineReject s r
        | none =>
          engineAccept s 0x30 fn i e b ((selRecs fn b s.issue.pre.recs).filterMap id) fun c t =>
            t.modCluster (coreCluster c.core) fun q => { q with selq := q.selq ++ [c] })

/-- SEL.TOPK. -/
def execSelTopk (g : BitVec 6) (e : EngineWord) (s : State) : Out :=
  guarded g s fun s => ready s [e.sa] (selIssue (.selTopk g e) 0 e s)

/-- SEL.SEG. -/
def execSelSeg (g : BitVec 6) (e : EngineWord) (s : State) : Out :=
  guarded g s fun s => ready s [e.sa] (selIssue (.selSeg g e) 1 e s)

/-! ### Performing (R306) -/

/-- The results of one segment: key and index of every place. -/
def selResults (fn : Nat) (b : Block) (efmt : Nat) (keys : List Nat) (elig : List Bool) (pay : Option (List Nat)) :
    List (Nat × Nat) :=
  let cs := ((List.range keys.length).filter fun i => elig.getD i true).map fun i => (i, (valOf efmt (keys.getD i 0)).1)
  let order := rankKeys cs
  (List.range (selK fn b)).map fun j =>
    match order[j]? with
    | none => (fillKey efmt, 0xFFFFFFFF)
    | some i =>
      (keyOut efmt (keys.getD i 0), match pay with
        | none => selIdx fn b i
        | some ps => ps.getD i 0)

/-- What one segment reads: its results. -/
def selSegment (s : State) (cl : Nat) (c : EngineCmd) (g : Nat) : Except AccFail (List (Nat × Nat)) := do
  let b := c.block
  let is := (List.range (selLen c.fn b)).map (selIn b g)
  let r := c.recs.getD 0 0
  let keys ← readElems c.party s cl c.ctx r is
  let elig ← (if selMe b then readElems c.party s cl c.ctx (c.recs.getD 3 0) is else .ok (is.map fun _ => 1))
  let pay ← (if c.fn = 0 ∧ selPe b then
      (readElems c.party s cl c.ctx (c.recs.getD (if selMe b then 4 else 3) 0) is).map some else .ok none)
  .ok (selResults c.fn b (recEfmt r) keys (elig.map fun x => x == 1) pay)

/-- A selection performed: every read before any write, each result's key before its index (R306). -/
def performSelection (s : State) (cl : Nat) (c : EngineCmd) : Except AccFail State := do
  let b := c.block
  let gs := List.range (selSegs c.fn b)
  let rows ← mapE (selSegment s cl c) gs
  let out := (rows.mapIdx fun g row => row.mapIdx fun j x => (selOut b g j, x)).flatten
  let s1 := markElems s cl c.ctx (c.recs.getD 0 0) (gs.flatMap fun g => (List.range (selLen c.fn b)).map (selIn b g))
  let ko := c.recs.getD 1 0
  let io := c.recs.getD 2 0
  let is := out.map fun x => x.1
  foldE
    (fun t x => do
      let u ← engineWrite t (some cl) cl c.ctx ko x.1 x.2.1
      engineWrite u (some cl) cl c.ctx io x.1 x.2.2)
    out (openElems c.party cl c.ctx io is (openElems c.party cl c.ctx ko is s1))

/-- SELECTION_PERFORM (R301, R306): the unit performs its first command, once the one before it has completed. -/
def execSelectionPerform (cl : Nat) (s : State) : Out :=
  match (s.cluster cl).selq with
  | [] => .next s
  | c :: _ => .next (if c.begun || olderOverlap s c then s else settleCmd s c (0x400 + cl) 0x14 (performSelection s cl c))

/-! ### Completion (R301) -/

/-- The commands of the engines that have been performed and not completed. -/
def doneCmds (s : State) : List EngineCmd := (allCmds s).filter fun c => decide (0x30 ≤ c.op) && c.done && !c.failed

/-- The Landing slot of a completed round: done where nothing remains masked (R308). -/
def endRound (s : State) (c : EngineCmd) : State :=
  if c.op = 0x31 ∧ c.fn = 2 then
    let x := (c.regs.headD 0).toNat
    s.modCluster (bitsAt x 8 6) fun q =>
      { q with slots := q.slots.map fun l =>
          if l.num = bitsAt x 0 8 ∧ l.st = .rounding then { l with st := if l.mask = 0 then .done else .ready } else l }
  else s

/-- The free slots of Landings that no queued command names leave the lists (R308). -/
def tidySlots (s : State) : State :=
  { s with clusters := s.clusters.map fun x =>
      (x.1, { x.2 with slots := x.2.slots.filter fun l =>
        !(l.st == .free && l.owner.isNone) || x.2.lndq.any fun c => bitsAt (cmdPlace c) 0 8 == l.num }) }

/-- The rows that a command has sent to peers and that are not acknowledged (R339). -/
def owesAcks (s : State) (c : EngineCmd) : Bool :=
  c.op == 0x32 && c.fn == 3 &&
    (s.die (coreDie c.core)).sessions.any fun x => x.num == (c.regs.headD 0).toNat % 16 && x.owed != 0

/-- ENGINE_COMPLETE: the raises of a round are performed first, and the rows of a scatter are acknowledged. -/
def execEngineComplete (idx : Nat) (s : State) : Out :=
  match (doneCmds s)[idx]? with
  | none => .next s
  | some c =>
    .next (if (s.raises.any fun r => r.cmd == c.id) || owesAcks s c then s
      else completeCmd (tidySlots (endRound (s.dropEngineCmd c.id) c)) c)

end Sys2Proof.Machine
end

