-- ==== Sys2Proof/Machine/Concourse.lean ====
section
/-! DEFINITION. The Concourse (R333 to R343, R411): RTE.SETUP, RTE.COUNT, RTE.PLACE, RTE.SCATTER and RTE.GATHER, and the
events CONCOURSE_PERFORM, COUNT_CONTRIBUTION and ROUTE_TIMEOUT. -/

namespace Sys2Proof.Machine

/-! ### The setup block (R335) -/

/-- The tokens, choices, experts and ranks of a setup. -/
def rteT (b : Block) : Nat := bfield b 0 48 16 + 1
@[inherit_doc rteT] def rteK (b : Block) : Nat := bfield b 0 44 4 + 1
@[inherit_doc rteT] def rteE (b : Block) : Nat := bfield b 0 32 12 + 1
@[inherit_doc rteT] def rteNr (b : Block) : Nat := bfield b 0 21 11 + 1

/-- The rank, `free`, `resid`, the session, the group and the limit of a setup. -/
def rteRank (b : Block) : Nat := bfield b 0 10 11
@[inherit_doc rteRank] def rteFree (b : Block) : Bool := bfield b 0 9 1 == 1
@[inherit_doc rteRank] def rteResid (b : Block) : Bool := bfield b 0 8 1 == 1
@[inherit_doc rteRank] def rteSess (b : Block) : Nat := bfield b 0 0 4
@[inherit_doc rteRank] def rteGrp (b : Block) : Nat := bfield b 8 56 8
@[inherit_doc rteRank] def rteTmo (b : Block) : Nat := bfield b 8 32 24

/-- The addresses of the expert table and the result record. -/
def rteTab (b : Block) : Nat := bfield b 0x50 0 64
@[inherit_doc rteTab] def rteRec (b : Block) : Nat := bfield b 0x58 0 64

/-- The records of a setup: choices, weights, input, buffer, expert output, output, inverse, counts, dropped. -/
def rteRecs (b : Block) (rs : List Block) : List (Option Block) :=
  [0x08, 0x10, 0x18, 0x20, 0x28, 0x30, 0x38, 0x40, 0x48].map (tidRec rs b)

/-- D: the length of an input row. -/
def rteDim (recs : List Block) : Nat := recExt (recs.getD 2 0) 0

/-! ### The checks of R341 -/

/-- Check 0x1 of a setup. -/
def routeBlockOk (b : Block) : Bool :=
  if rteFree b then b.extractLsb' 10 1014 == 0 && b.extractLsb' 4 5 == 0
  else
    bfield b 0 4 4 == 0 && [0x10, 0x18, 0x20, 0x28, 0x30, 0x38, 0x40, 0x48].all (tidOk b) && bfield b 0x60 0 256 == 0 &&
    decide (rteRank b < rteNr b) && bfield b 8 24 8 != 0

/-- A format of 32-bit integers, of weights, of rows. -/
def idFmt (f : Nat) : Bool := f == 5 || f == 11
@[inherit_doc idFmt] def weightFmt (f : Nat) : Bool := f == 0 || f == 2
@[inherit_doc idFmt] def rowFmt (f : Nat) : Bool := f ≤ 4

/-- A record whose format and extents are as R335 asks. -/
def routeRec (r : Block) (f : Nat → Bool) (e0 e1 : Nat) : Bool :=
  recClass r == 0 && recRank r == 2 && f (recEfmt r) && decide (e0 ≤ recExt r 0) && decide (e1 ≤ recExt r 1)

/-- Check 0x3 of a setup. -/
def routeRecsOk (b : Block) (recs : List Block) : Bool :=
  let r := fun i => recs.getD i 0
  let d := rteDim recs
  routeRec (r 0) idFmt (rteK b) (rteT b) && routeRec (r 1) weightFmt (rteK b) (rteT b) &&
  routeRec (r 2) rowFmt 0 (rteT b) && routeRec (r 3) rowFmt 0 0 && routeRec (r 4) rowFmt 0 0 &&
  routeRec (r 5) rowFmt 0 (rteT b) && recExt (r 3) 0 == d && recExt (r 4) 0 == d && recExt (r 5) 0 == d &&
  routeRec (r 6) idFmt (2 * rteK b) (rteT b) && routeRec (r 7) idFmt (rteE b) 4 && routeRec (r 8) idFmt 4 0

/-- A die's session. -/
def findSession (d : Die) (n : Nat) : Option Session := d.sessions.find? fun x => x.num == n

/-- A session's owner. -/
def sessOwner (s : State) (die n : Nat) : Option (BitVec 12) :=
  match findSession (s.die die) n with
  | none => none
  | some x => x.owner

/-- The first reason to reject an RTE.SETUP. -/
def routeReason (s : State) (b : Block) : Option Nat :=
  let owned := (sessOwner s (coreDie s.issue.core) (rteSess b)).any fun o => o != s.live.ctx
  if !routeBlockOk b then some 1
  else if rteFree b then (if owned then some 5 else none)
  else
    let rs := rteRecs b s.issue.pre.recs
    if !allRecs rs (fun _ => true) then some 2
    else if !routeRecsOk b (rs.filterMap id) then some 3
    else if rteTab b % 16 ≠ 0 ∨ 2 ^ 52 ≤ rteTab b ∨ rteRec b % 32 ≠ 0 ∨ 2 ^ 52 ≤ rteRec b then some 4
    else if owned then some 5
    else if (memberOf s (BitVec.ofNat 64 (rteGrp b))).isNone then some 6
    else none

/-- The session that a command names. -/
def cmdSess (c : EngineCmd) : Nat := if c.op = 0x32 ∧ c.fn = 0 then rteSess c.block else (c.regs.headD 0).toNat % 16

/-- The block of the last setup accepted for a session. -/
def acceptedSetup (d : Die) (n : Nat) : Block :=
  match (d.rteq.filter fun c => c.op == 0x32 && c.fn == 0 && cmdSess c == n).getLast? with
  | some c => c.block
  | none =>
    match findSession d n with
    | none => 0
    | some x => x.block

/-- The first reason to reject a command of a session that is accepted in the states `ok` (R333). -/
def sessReason (s : State) (x : Word) (ok : SessState → Bool) : Option Nat :=
  let d := s.die (coreDie s.issue.core)
  if x.extractLsb' 4 60 != 0 then some 1
  else
    match findSession d x.toNat with
    | none => some 5
    | some y =>
      if y.owner != some s.live.ctx || !ok y.accState then some 5
      else if (memberOf s (BitVec.ofNat 64 (rteGrp (acceptedSetup d x.toNat)))).isNone then some 6
      else none

/-! ### Issue -/

/-- A session without performed state. -/
def emptySession (n : Nat) : Session where
  num := n
  owner := none
  home := 0
  accState := .free
  st := .free
  block := 0
  recs := []
  group := default
  table := []
  seq := 0
  counts := []

/-- The die with a session listed. -/
def withSession (d : Die) (n : Nat) : Die :=
  if (findSession d n).isSome then d else { d with sessions := d.sessions ++ [emptySession n] }

/-- The state with a session changed, which is listed from then on. -/
def State.modSession (s : State) (die n : Nat) (f : Session → Session) : State :=
  s.modDie die fun q =>
    let d := withSession q n
    { d with sessions := d.sessions.map fun x => if x.num = n then f x else x }

/-- A Concourse command accepted into its die's queue; `acc` is what the acceptance leaves in the session. -/
def routeAccept (i : Instr) (op fn : Nat) (e : EngineWord) (n : Nat) (b : Block) (recs : List Block)
    (acc : Session → Session) (s : State) : Out :=
  engineAccept s op fn i e b recs fun c t =>
    (t.modDie (coreDie c.core) fun d => { d with rteq := d.rteq ++ [c] }).modSession (coreDie c.core) n acc

/-- A Concourse command waits for its queue, or is judged. -/
def routeIssue (s : State) (tok : BitVec 3) (f : State → Out) : Out :=
  memReady s (
    if !cmdRoom s tok || decide (engineDepth ≤ (s.die (coreDie s.issue.core)).rteq.length) then hold s else f s)

/-- RTE.SETUP. -/
def execRteSetup (g : BitVec 6) (e : EngineWord) (s : State) : Out :=
  guarded g s fun s => ready s [e.sa] (routeIssue s e.tok fun s =>
    engineBlock s (s.rd e.sa) 128 fun b =>
      match routeReason s b with
      | some r => engineReject s r
      | none =>
        let rs := if rteFree b then [] else (rteRecs b s.issue.pre.recs).filterMap id
        routeAccept (.rteSetup g e) 0x32 0 e (rteSess b) b rs
          (fun x =>
            if rteFree b then { x with owner := none, accState := .free }
            else { x with owner := some s.live.ctx, accState := .set }) s)

/-- A command of a session. -/
def sessIssue (i : Instr) (op fn : Nat) (e : EngineWord) (ok : SessState → Bool) (next : SessState) (s : State) : Out :=
  routeIssue s e.tok fun s =>
    match sessReason s (s.rd e.sa) ok with
    | some r => engineReject s r
    | none => routeAccept i op fn e (s.rd e.sa).toNat 0 [] (fun x => { x with accState := next }) s

/-- RTE.COUNT. -/
def execRteCount (g : BitVec 6) (e : EngineWord) (s : State) : Out :=
  guarded g s fun s => ready s [e.sa] (
    sessIssue (.rteCount g e) 0x32 1 e (fun a => a == .set || a == .placed) .counted s)

/-- RTE.PLACE. -/
def execRtePlace (g : BitVec 6) (e : EngineWord) (s : State) : Out :=
  guarded g s fun s => ready s [e.sa] (sessIssue (.rtePlace g e) 0x32 2 e (fun a => a == .counted) .placed s)

/-- RTE.SCATTER. -/
def execRteScatter (g : BitVec 6) (e : EngineWord) (s : State) : Out :=
  guarded g s fun s => ready s [e.sa] (sessIssue (.rteScatter g e) 0x32 3 e (fun a => a == .placed) .placed s)

/-- RTE.GATHER. -/
def execRteGather (g : BitVec 6) (e : EngineWord) (s : State) : Out :=
  guarded g s fun s => ready s [e.sa] (sessIssue (.rteGather g e) 0x33 0 e (fun a => a == .placed) .placed s)

/-! ### Performing -/

/-- Why a Concourse command stops (R343); an access that fails in the owner's Concourse names its die. -/
inductive RouteStop where
  | acc (die : Option Nat) (f : AccFail)
  | table (e : Nat)
  | mismatch (rank : Nat)
  deriving DecidableEq, Repr

/-- An access's failure as a command's. -/
def liftAcc {α : Type} (x : Except AccFail α) : Except RouteStop α :=
  match x with
  | .error f => .error (.acc none f)
  | .ok y => .ok y

/-- The failure of an access by the Concourse of another die. -/
def liftAt {α : Type} (die : Nat) (x : Except AccFail α) : Except RouteStop α :=
  match x with
  | .error f => .error (.acc (some die) f)
  | .ok y => .ok y

/-- The fault of a Concourse command (R343). -/
def routeFault (s : State) (ctx : BitVec 12) (die : Nat) (f : RouteStop) : State :=
  match f with
  | .acc d f => engineFault s ctx (0x600 + d.getD die) 0x18 f
  | .table e => s.postFault ctx 0x1A 0 (BitVec.ofNat 64 (0x600 + die)) 0 (BitVec.ofNat 64 e) 0
  | .mismatch r => s.postFault ctx 0x1B 0 (BitVec.ofNat 64 (0x600 + die)) 0 (BitVec.ofNat 64 r) 0

/-- Rows that a session has sent to peers and that they have not acknowledged, and those that it has asked them for. -/
def owedRows (s : State) (die n : Nat) : Nat :=
  match findSession (s.die die) n with
  | none => 0
  | some x => x.owed + x.asked.length

/-- A Concourse command with the scope at which it completes (R339): for all but RTE.SETUP and RTE.PLACE the extent of the
session's group, where that is wider than its own. -/
def routeCmd (s : State) (c : EngineCmd) (x : Session) : EngineCmd :=
  if c.op = 0x32 ∧ (c.fn = 0 ∨ c.fn = 2) then c
  else
    match s.group? x.group with
    | none => c
    | some g => { c with scope := Nat.max c.scope g.scope }

/-- What comes of a Concourse command's performing: it is done once every row that it sent to a peer is acknowledged and every
row that it asked for has come (R338, R339). -/
def settleRoute (s : State) (die : Nat) (c : EngineCmd) (r : Except RouteStop State) : State :=
  match r with
  | .ok t => t.modEngineCmd c.id fun d => { d with begun := true, done := owedRows t die (cmdSess c) == 0, scope := c.scope }
  | .error f => (routeFault s c.ctx die f).modEngineCmd c.id EngineCmd.fail

/-- The group of a command's task by its number. -/
def cmdGroup (s : State) (c : EngineCmd) (g : Nat) : GroupKey :=
  match c.task.bind s.task? with
  | none => default
  | some t =>
    match s.launch? t.launch with
    | none => default
    | some l => groupKey s l g

/-- An expert-table entry that R335 accepts. -/
def entryOk (b : Block) (recs : List Block) (e : List Byte) : Bool :=
  let owner := leNat (e.take 4)
  let top := leNat ((e.drop 8).take 4) + leNat ((e.drop 4).take 4)
  decide (owner < rteNr b) && leNat ((e.drop 12).take 4) == 0 &&
  (owner != rteRank b || (decide (top ≤ recExt (recs.getD 3 0) 1) && decide (top ≤ recExt (recs.getD 4 0) 1)))

/-- The expert table read and judged: owner, capacity and first row of each expert. -/
def readTable (s : State) (cl : Nat) (c : EngineCmd) : Except RouteStop (List (Nat × Nat × Nat)) := do
  let es ← liftAcc (mapE (fun i => engineBytesAs c.party s cl c.ctx (rteTab c.block + 16 * i) 16) (List.range (rteE c.block)))
  match (List.range es.length).find? fun i => !entryOk c.block c.recs (es.getD i []) with
  | some i => .error (.table i)
  | none => .ok (es.map fun e => (leNat (e.take 4), leNat ((e.drop 4).take 4), leNat ((e.drop 8).take 4)))

/-- A session freed: it leaves, unless a setup has been accepted behind it (R333). -/
def freeSession (s : State) (die n : Nat) : State :=
  s.modDie die fun d =>
    { d with sessions := (d.sessions.filter fun x => !(x.num == n && x.owner.isNone)).map fun x =>
        if x.num = n then { emptySession n with owner := x.owner, accState := x.accState } else x }

/-- A setup performed (R335). -/
def performRouteSetup (s : State) (die : Nat) (c : EngineCmd) : Except RouteStop State :=
  if rteFree c.block then .ok (freeSession s die (rteSess c.block))
  else do
    let tab ← readTable s (coreCluster c.core) c
    .ok (s.modSession die (rteSess c.block) fun x =>
      { x with home := coreCluster c.core, st := .set, block := c.block, recs := c.recs,
               group := cmdGroup s c (rteGrp c.block), table := tab, seq := 0, counts := [] })

/-- The choices of a session in order: token, choice number. -/
def choiceList (b : Block) : List (Nat × Nat) :=
  (List.range (rteT b)).flatMap fun t => (List.range (rteK b)).map fun j => (t, j)

/-- The expert ids of a session's choices, in order. -/
def readChoices (s : State) (x : Session) (c : EngineCmd) : Except RouteStop (List Nat) :=
  liftAcc (readElems c.party s x.home c.ctx (x.recs.getD 0 0) ((choiceList x.block).map fun y => [y.2, y.1]))

/-- The number of choices of each expert. -/
def countIds (n : Nat) (ids : List Nat) : List Nat := (List.range n).map fun e => (ids.filter fun i => i == e).length

/-- Two contributions of one rank for one sequence number. -/
def sameCount (x y : CountMsg) : Bool := x.group == y.group && x.sess == y.sess && x.seq == y.seq && x.rank == y.rank

/-- A contribution that reaches a die (R336, R340, R411): a second one is discarded; for a count that the session has
performed, one of a rank that the session does not have shows another shape; any other is held, as is one that reaches a session
of another context. -/
def takeCount (m : CountMsg) (s : State) (die : Nat) : State :=
  if (s.die die).held.any fun x => sameCount x m then s
  else
    match (s.die die).sessions.find? fun x =>
        x.num == m.sess && x.group == m.group && x.st != .free && decide (m.seq ≤ x.seq) &&
          x.owner.any fun o => ctxHasGroup s o m.group with
    | none => s.modDie die fun d => { d with held := d.held ++ [m] }
    | some x =>
      match x.owner with
      | none => s
      | some ctx => if m.rank < rteNr x.block then s else routeFault s ctx die (.mismatch m.rank)

/-- A die takes part in a group through a session: it has the session, or a member of the group stands there; while a member has
not been placed, any die may still become its rank's (log 119). -/
def rankDie (s : State) (k : GroupKey) (n die : Nat) : Bool :=
  ((s.die die).sessions.any fun x => x.num == n && x.group == k && x.st != .free) ||
  match s.group? k with
  | none => true
  | some g => (g.members ++ g.joiners).any fun i => match s.task? i with
    | none => false
    | some t => t.st == .waiting && !t.saved || coreDie t.core == die

/-- A contribution sent to every rank: to those of this module, and to the other modules of a domain group. -/
def sendCount (s : State) (m : CountMsg) : State :=
  let t := ((List.range 4).filter (rankDie s m.group m.sess)).foldl (takeCount m) s
  if m.group.domain then
    t.send "count" ([m.group.xkey.zeroExtend 64, BitVec.ofNat 64 m.sess, BitVec.ofNat 64 m.seq, BitVec.ofNat 64 m.rank,
      BitVec.ofNat 64 m.experts, BitVec.ofNat 64 m.choices, BitVec.ofNat 64 m.ranks, BitVec.ofNat 64 m.dim] ++
      m.counts.map fun x => BitVec.ofNat 64 x)
  else t

/-- The contributions that a waiting count has received. -/
def countsFor (s : State) (die : Nat) (x : Session) (seq : Nat) : List CountMsg :=
  (s.die die).held.filter fun m => m.group == x.group && m.sess == x.num && m.seq == seq

/-- A contribution of the session's own shape (R336). -/
def countShape (x : Session) (m : CountMsg) : Bool :=
  m.experts == rteE x.block && m.choices == rteK x.block && m.ranks == rteNr x.block && m.dim == rteDim x.recs

/-- The counts of an expert over the ranks below one. -/
def countBelow (ms : List CountMsg) (n e : Nat) : Nat :=
  ((ms.filter fun m => decide (m.rank < n)).map fun m => m.counts.getD e 0).sum

/-- Elements (e, row) of the counts tensor. -/
def cntRow (x : Session) (row : Nat) (f : Nat → Nat) : List (List Nat × Nat) :=
  (List.range (rteE x.block)).map fun e => ([e, row], f e)

/-- A count that waits: it ends in a fault on a contribution of another shape, and performs once every rank's has come
(R336). -/
def settleCount (s : State) (die : Nat) (c : EngineCmd) (x : Session) : State :=
  let ms := countsFor s die x c.seq
  match ms.find? fun m => !countShape x m with
  | some m => settleRoute s die c (.error (.mismatch m.rank))
  | none =>
    if !((List.range (rteNr x.block)).all fun r => ms.any fun m => m.rank == r) then s
    else
      let own := (ms.find? fun m => m.rank == rteRank x.block).map fun m => m.counts
      let ws := cntRow x 0 (fun e => (own.getD []).getD e 0) ++ cntRow x 2 fun e => countBelow ms (rteNr x.block) e
      settleRoute s die c (do
        let t ← liftAcc (writeElems c.party x.home c.ctx (x.recs.getD 7 0) ws s)
        .ok ((t.modSession die x.num fun y => { y with st := .counted, seq := c.seq, counts := ms }).modDie die fun d =>
          { d with held := d.held.filter fun m => !(m.group == x.group && m.sess == x.num && m.seq == c.seq) }))

/-- A count that begins to wait: its contribution is sent (R336). -/
def startCount (s : State) (die : Nat) (c : EngineCmd) (x : Session) : State :=
  match readChoices s x c with
  | .error f => settleRoute s die c (.error f)
  | .ok ids =>
    let b := x.block
    let m : CountMsg :=
      { group := x.group, sess := x.num, seq := x.seq + 1, rank := rteRank b, experts := rteE b, choices := rteK b,
        ranks := rteNr b, dim := rteDim x.recs, counts := countIds (rteE b) ids }
    let c1 := { c with seq := x.seq + 1, since := s.now }
    let s1 := markElems s x.home c.ctx (x.recs.getD 0 0) ((choiceList b).map fun y => [y.2, y.1])
    settleCount ((sendCount s1 m).modEngineCmd c.id fun _ => c1) die c1 x

/-- A placement's course: rows used by each expert, and each choice with its row or the reason of its drop. -/
structure Placing where
  used : Tab Nat
  out : List (Nat × Nat × Nat × Except Nat Nat)

/-- One choice placed (R337). -/
def placeChoice (x : Session) (p : Placing) (y : (Nat × Nat) × Nat) : Placing :=
  let e := y.2
  if rteE x.block ≤ e then { p with out := p.out ++ [(y.1.1, y.1.2, e, .error 2)] }
  else
    let g := countBelow x.counts (rteRank x.block) e + tget 0 p.used e
    let ent := x.table.getD e (0, 0, 0)
    { used := tset 0 p.used e (tget 0 p.used e + 1),
      out := p.out ++ [(y.1.1, y.1.2, e, if ent.2.1 ≤ g then .error 1 else .ok (ent.2.2 + g))] }

/-- What a placement writes to the inverse tensor for a choice. -/
def invWrites (y : Nat × Nat × Nat × Except Nat Nat) : List (List Nat × Nat) :=
  match y.2.2.2 with
  | .error why => [([2 * y.2.1, y.1], 0xFFFFFFFF), ([2 * y.2.1 + 1, y.1], why)]
  | .ok row => [([2 * y.2.1, y.1], y.2.2.1), ([2 * y.2.1 + 1, y.1], row)]

/-- The dropped choices of a placement: token, choice, expert, reason. -/
def dropsOf (p : Placing) : List (Nat × Nat × Nat × Nat) :=
  p.out.filterMap fun y => match y.2.2.2 with
    | .error why => some (y.1, y.2.1, y.2.2.1, why)
    | .ok _ => none

/-- A placement performed (R337). -/
def performPlace (s : State) (die : Nat) (c : EngineCmd) (x : Session) : Except RouteStop State := do
  let b := x.block
  let ids ← readChoices s x c
  let p := ((choiceList b).zip ids).foldl (placeChoice x) { used := [], out := [] }
  let drops := dropsOf p
  let kept := drops.take (recExt (x.recs.getD 8 0) 1)
  let total := fun e => countBelow x.counts (rteNr b) e
  let s0 := markElems s x.home c.ctx (x.recs.getD 0 0) ((choiceList b).map fun y => [y.2, y.1])
  let s1 ← liftAcc (writeElems c.party x.home c.ctx (x.recs.getD 6 0) (p.out.flatMap invWrites) s0)
  let s2 ← liftAcc (writeElems c.party x.home c.ctx (x.recs.getD 7 0)
    (cntRow x 1 (countBelow x.counts (rteRank b)) ++
      cntRow x 3 fun e => min (total e) (x.table.getD e (0, 0, 0)).2.1) s1)
  let s3 ← liftAcc (writeElems c.party x.home c.ctx (x.recs.getD 8 0)
    (kept.mapIdx fun i y => [([0, i], y.1), ([1, i], y.2.1), ([2, i], y.2.2.1), ([3, i], y.2.2.2)]).flatten s2)
  let n := rteT b * rteK b
  let s4 ← liftAcc (enginePutAs c.party x.home c.ctx (rteRec b)
    (leBytes 4 n ++ leBytes 4 (n - drops.length) ++ leBytes 4 drops.length ++ leBytes 4 kept.length ++ leBytes 8 s.now ++
      leBytes 8 0) s3)
  .ok (s4.modSession die x.num fun y => { y with st := .placed })

/-- The session of an owner rank on this module, with its die (R338). -/
def rankSession (s : State) (x : Session) (rank : Nat) : Option (Nat × Session) :=
  (s.dies.flatMap fun d => d.2.sessions.map fun y => (d.1, y)).find? fun y =>
    y.2.num == x.num && y.2.group == x.group && y.2.st != .free && rteRank y.2.block == rank

/-- The Concourse that serves a command's access at an owner's session. -/
def ownerParty (c : EngineCmd) (o : Session) : Party := { c.party with place := some (16 * o.home) }

/-- The `inv` pairs of a session, in the order of its choices. -/
def readInv (s : State) (x : Session) (c : EngineCmd) : Except RouteStop (List ((Nat × Nat) × Nat × Nat)) := do
  let r := x.recs.getD 6 0
  let es ← liftAcc (readElems c.party s x.home c.ctx r ((choiceList x.block).map fun y => [2 * y.2, y.1]))
  let rows ← liftAcc (readElems c.party s x.home c.ctx r ((choiceList x.block).map fun y => [2 * y.2 + 1, y.1]))
  .ok ((choiceList x.block).zip (es.zip rows))

/-- An element of a rank-2 tensor lies in it. -/
def inRec (r : Block) (i : List Nat) : Bool := decide (i.headD 0 < recExt r 0) && decide (i.getD 1 0 < recExt r 1)

/-- The elements of a row as its owner's session takes them: converted by RNE with FTZ 0, those outside its `buf` dropped
(R338). -/
def rowWrites (o : Session) (fmt row : Nat) (vals : List Nat) : List (List Nat × Nat) :=
  let buf := o.recs.getD 3 0
  (vals.mapIdx fun d v => ([d, row], (convert fmt (recEfmt buf) .rne false v).1)).filter fun w => inRec buf w.1

/-- One row scattered to its owner (R338): through the session on this module, or sent to a peer, whose answer is owed. -/
def scatterRow (die : Nat) (c : EngineCmd) (x : Session) (s : State) (y : (Nat × Nat) × Nat × Nat) :
    Except RouteStop State := do
  if rteE x.block ≤ y.2.1 then .ok s
  else
    let owner := (x.table.getD y.2.1 (0, 0, 0)).1
    let xin := x.recs.getD 2 0
    let is := (List.range (rteDim x.recs)).map fun d => [d, y.1.1]
    let vs ← liftAcc (readElems c.party s x.home c.ctx xin is)
    let s1 := markElems s x.home c.ctx xin is
    match rankSession s x owner with
    | some (d, o) =>
      liftAt d (writeElems (ownerParty c o) o.home c.ctx (o.recs.getD 3 0) (rowWrites o (recEfmt xin) y.2.2 vs) s1)
    | none =>
      if x.group.domain then
        .ok ((s1.modSession die x.num fun z => { z with owed := z.owed + 1 }).send "row"
          ([x.group.xkey.zeroExtend 64, BitVec.ofNat 64 x.num, BitVec.ofNat 64 (rteRank x.block), BitVec.ofNat 64 owner,
            BitVec.ofNat 64 y.2.2, BitVec.ofNat 64 (recEfmt xin)] ++ vs.map fun v => BitVec.ofNat 64 v))
      else .error (.mismatch owner)

/-- Every row scattered. -/
def scatterRows (die : Nat) (c : EngineCmd) (x : Session) : List ((Nat × Nat) × Nat × Nat) → State → Except RouteStop State
  | [], s => .ok s
  | y :: ys, s =>
    match scatterRow die c x s y with
    | .error f => .error f
    | .ok t => scatterRows die c x ys t

/-- The elements of a row of an owner's session that a gather reads, as their bits and their format; those outside the tensor are
the pad (R147, R338). -/
def ownerElem (s : State) (p : Party) (ctx : BitVec 12) (o : Session) (row d : Nat) : Except AccFail (Nat × Nat) :=
  let r := o.recs.getD 4 0
  if inRec r [d, row] then engineVal (s.asSeen p) (some o.home) o.home ctx r [d, row] else .ok (recPad r, recTfmt r)

/-- The row of a peer's rank that a gather has received. -/
def peerGot (x : Session) (owner row : Nat) : Option (List (Nat × Nat)) :=
  (x.got.find? fun y => y.1 == owner && y.2.1 == row).map fun y => y.2.2

/-- An element of an expert-output row (R338): through the owner's session, or of the row that its module has sent. -/
def gatherVal (s : State) (c : EngineCmd) (x : Session) (owner row d : Nat) : Except RouteStop Num :=
  match rankSession s x owner with
  | some (die, o) =>
    (liftAt die (ownerElem s (ownerParty c o) c.ctx o row d)).map fun v => (valOf v.2 v.1).1
  | none =>
    match peerGot x owner row with
    | some vs => .ok (valOf (vs.getD d (0, 0)).2 (vs.getD d (0, 0)).1).1
    | none => .error (.mismatch owner)

/-- The terms of one output element (R338). -/
def gatherTerms (s : State) (c : EngineCmd) (x : Session) (d : Nat) :
    List ((Nat × Nat) × Nat × Nat) → Except RouteStop (List Num)
  | [] => .ok []
  | y :: ys =>
    if rteE x.block ≤ y.2.1 then gatherTerms s c x d ys
    else do
      let cw := x.recs.getD 1 0
      let w ← liftAcc (engineRead (s.asSeen c.party) (some x.home) x.home c.ctx cw [y.1.2, y.1.1])
      let v ← gatherVal s c x (x.table.getD y.2.1 (0, 0, 0)).1 y.2.2 d
      let rest ← gatherTerms s c x d ys
      .ok (((valOf (recEfmt cw) w).1.mul v).1 :: rest)

/-- One output element (R338). -/
def gatherElemAt (s : State) (c : EngineCmd) (x : Session) (inv : List ((Nat × Nat) × Nat × Nat)) (t d : Nat) :
    Except RouteStop Nat := do
  let xin := x.recs.getD 2 0
  let own ← (if rteResid x.block then
      (liftAcc (engineRead (s.asSeen c.party) (some x.home) x.home c.ctx xin [d, t])).map fun v =>
        [(valOf (recEfmt xin) v).1]
    else .ok [])
  let ts ← gatherTerms s c x d (inv.filter fun y => y.1.1 == t)
  .ok (roundTo (recEfmt (x.recs.getD 5 0)) .rne false (sumNum false (own ++ ts)).1).1

/-- The output elements in order, each read before any is written. -/
def gatherAll (s : State) (c : EngineCmd) (x : Session) (inv : List ((Nat × Nat) × Nat × Nat)) :
    List (Nat × Nat) → Except RouteStop (List (List Nat × Nat))
  | [] => .ok []
  | (t, d) :: ys => do
    let v ← gatherElemAt s c x inv t d
    let rest ← gatherAll s c x inv ys
    .ok (([d, t], v) :: rest)

/-- A gather's sums formed and written, from the `inv` pairs that it has read (R338). -/
def gatherRows (s : State) (c : EngineCmd) (x : Session) (inv : List ((Nat × Nat) × Nat × Nat)) : Except RouteStop State := do
  let ws ← gatherAll s c x inv
    ((List.range (rteT x.block)).flatMap fun t => (List.range (rteDim x.recs)).map fun d => (t, d))
  liftAcc (writeElems c.party x.home c.ctx (x.recs.getD 5 0) ws s)

/-- The rows that a gather needs from ranks on other modules, as owner rank and row, once each. -/
def peerNeeds (s : State) (x : Session) (inv : List ((Nat × Nat) × Nat × Nat)) : List (Nat × Nat) :=
  ((inv.filter fun y => decide (y.2.1 < rteE x.block)).map fun y => ((x.table.getD y.2.1 (0, 0, 0)).1, y.2.2)).eraseDups.filter
    fun y => (rankSession s x y.1).isNone

/-- `inv` pairs as numbers that a command keeps, and back. -/
def packInv (inv : List ((Nat × Nat) × Nat × Nat)) : List Nat := inv.flatMap fun y => [y.1.1, y.1.2, y.2.1, y.2.2]
@[inherit_doc packInv] def unpackInv : List Nat → List ((Nat × Nat) × Nat × Nat)
  | a :: b :: c :: d :: xs => ((a, b), c, d) :: unpackInv xs
  | _ => []

/-- Requests sent for rows of ranks on other modules. -/
def askPeers (x : Session) (ys : List (Nat × Nat)) (s : State) : State :=
  ys.foldl (fun t y => t.send "ask" [x.group.xkey.zeroExtend 64, BitVec.ofNat 64 x.num, BitVec.ofNat 64 (rteRank x.block),
    BitVec.ofNat 64 y.1, BitVec.ofNat 64 y.2]) s

/-- A gather performed (R338): rows of ranks on other modules are asked for first, and the sums formed once they are there. -/
def performGather (s : State) (die : Nat) (c : EngineCmd) (x : Session) : Except RouteStop State := do
  let inv ← readInv s x c
  match peerNeeds s x inv with
  | [] => gatherRows s c x inv
  | y :: ys =>
    if x.group.domain then
      .ok ((askPeers x (y :: ys) (s.modSession die x.num fun z => { z with asked := y :: ys, got := [] })).modEngineCmd c.id
        fun d => { d with result := packInv inv })
    else .error (.mismatch y.1)

/-- A scatter performed (R338). -/
def performScatter (s : State) (die : Nat) (c : EngineCmd) (x : Session) : Except RouteStop State := do
  let inv ← readInv s x c
  scatterRows die c x inv s

/-! ### Events -/

/-- The first command of a session. -/
def sessHead (s : State) (die n : Nat) : Option EngineCmd := (s.die die).rteq.find? fun c => cmdSess c == n

/-- The next command of a session performed, or a count that waits begun. -/
def performRoute (s : State) (die : Nat) (c : EngineCmd) : State :=
  if c.op = 0x32 ∧ c.fn = 0 then settleRoute s die c (performRouteSetup s die c)
  else
    match findSession (s.die die) (cmdSess c) with
    | none => s
    | some x =>
      if x.st = .free then s
      else
      let c := routeCmd s c x
      if c.op = 0x33 then settleRoute s die c (performGather s die c x)
      else
        match c.fn with
        | 1 => if c.seq = 0 then startCount s die c x else settleCount s die c x
        | 2 => settleRoute s die c (performPlace s die c x)
        | _ => settleRoute s die c (performScatter s die c x)

/-- CONCOURSE_PERFORM: the first command of a session, once those before it have completed (R334). -/
def execConcoursePerform (die sess : Nat) (s : State) : Out :=
  match sessHead s die sess with
  | none => .next s
  | some c => .next (if c.begun || olderOverlap s c then s else performRoute s die c)

/-- A count that waits for contributions. -/
def waitingCount (s : State) (die sess : Nat) : Option (EngineCmd × Session) :=
  match sessHead s die sess, findSession (s.die die) sess with
  | some c, some x => if c.op = 0x32 ∧ c.fn = 1 ∧ c.seq ≠ 0 ∧ c.begun = false then some (routeCmd s c x, x) else none
  | _, _ => none

/-- COUNT_CONTRIBUTION: a contribution of another module's rank is taken, held or discarded (R336, R411). -/
def execCountContribution (die : Nat) (msg : CountMsg) (s : State) : Out :=
  if !msg.group.domain || decide (4 ≤ die) then .next s
  else
    let t := takeCount msg s die
    match waitingCount t die msg.sess with
    | none => .next t
    | some (c, x) => .next (settleCount t die c x)

/-- The session of a rank of a domain group on this module, with its die and context, by the group's key (R338, R411). -/
def keySession (s : State) (xkey : BitVec 32) (n rank : Nat) : Option (Nat × Session × BitVec 12) :=
  (s.dies.flatMap fun d => d.2.sessions.map fun y => (d.1, y)).findSome? fun y =>
    if y.2.num == n && y.2.group.domain && y.2.group.xkey == xkey && y.2.st != .free && rteRank y.2.block == rank then
      y.2.owner.map fun o => (y.1, y.2, o)
    else none

/-- The Concourse of a session as the party that serves a peer. -/
def peerParty (s : State) (x : Session) : Party :=
  { path := 3, core := 16 * x.home, task := none, kind := .a, id := s.nextId, reach := 3 }

/-- A row that a rank on another module scattered (R338, R339): the owner's Concourse writes it through its own session's `buf`
record and its home cluster, and answers (log 111). -/
def takePeerRow (s : State) (xkey : BitVec 32) (n src owner row fmt : Nat) (vals : List Nat) : State :=
  let answer := fun (t : State) (ok : Bool) =>
    t.send "row-answer" [xkey.zeroExtend 64, BitVec.ofNat 64 n, BitVec.ofNat 64 src, BitVec.ofNat 64 owner,
      if ok then 1 else 0]
  match keySession s xkey n owner with
  | none => answer s false
  | some (die, x, ctx) =>
    match writeElems (peerParty s x) x.home ctx (x.recs.getD 3 0) (rowWrites x fmt row vals) s with
    | .ok t => answer t true
    | .error f => engineFault s ctx (0x600 + die) 0x18 f

/-- The request of a rank on another module for a row (R338): the owner's Concourse reads it through its own session's `yout`
record, and answers with each element's bits and format. -/
def takePeerAsk (s : State) (xkey : BitVec 32) (n src owner row : Nat) : State :=
  let head := fun (ok : Word) =>
    [xkey.zeroExtend 64, BitVec.ofNat 64 n, BitVec.ofNat 64 src, BitVec.ofNat 64 owner, BitVec.ofNat 64 row, ok]
  match keySession s xkey n owner with
  | none => s.send "row-values" (head 0)
  | some (die, x, ctx) =>
    match mapE (ownerElem s (peerParty s x) ctx x row) (List.range (rteDim x.recs)) with
    | .ok vs => s.send "row-values" (head 1 ++ vs.flatMap fun v => [BitVec.ofNat 64 v.1, BitVec.ofNat 64 v.2])
    | .error f => engineFault s ctx (0x600 + die) 0x18 f

/-- The answer of a peer to a row that a rank's scatter sent: acknowledged (R339), or, where the owner rank has no such
session, the route-mismatch fault (R338). -/
def takePeerAck (s : State) (xkey : BitVec 32) (n rank owner : Nat) (ok : Bool) : State :=
  match keySession s xkey n rank with
  | none => s
  | some (die, x, _) =>
    match sessHead s die n with
    | none => s
    | some c =>
      if x.owed = 0 ∨ c.begun = false ∨ c.done = true ∨ c.failed = true ∨ (rankSession s x owner).isSome = true ∨
          (x.table.all fun e => e.1 != owner) = true then s
      else if ok then
        (s.modSession die n fun y => { y with owed := y.owed - 1 }).modEngineCmd c.id fun d => { d with done := x.owed == 1 }
      else (routeFault s c.ctx die (.mismatch owner)).modEngineCmd c.id EngineCmd.fail

/-- The answer of a peer to a gather's request for a row (R338): with the last one the sums are formed. -/
def takePeerVals (s : State) (xkey : BitVec 32) (n rank owner row : Nat) (ok : Bool) (vals : List (Nat × Nat)) : State :=
  match keySession s xkey n rank with
  | none => s
  | some (die, x, _) =>
    match sessHead s die n with
    | none => s
    | some c =>
      if c.begun = false ∨ c.done = true ∨ c.failed = true ∨ x.asked.contains (owner, row) = false then s
      else if !ok then (routeFault s c.ctx die (.mismatch owner)).modEngineCmd c.id EngineCmd.fail
      else
        let y := { x with asked := x.asked.filter fun a => a != (owner, row), got := x.got ++ [(owner, row, vals)] }
        let t := s.modSession die n fun _ => y
        if y.asked.isEmpty then settleRoute t die c (gatherRows t c y (unpackInv c.result)) else t

/-- ROUTE_TIMEOUT (R336). -/
def execRouteTimeout (die sess : Nat) (s : State) : Out :=
  match waitingCount s die sess with
  | none => .next s
  | some (c, x) =>
    let ms := countsFor s die x c.seq
    match (List.range (rteNr x.block)).find? fun r => ms.all fun m => m.rank != r with
    | none => .next s
    | some r =>
      if limitPassed s.now c.since (rteTmo x.block) then
        .next ((s.postFault c.ctx 0x1C 0 (BitVec.ofNat 64 (0x600 + die)) 0 (BitVec.ofNat 64 r) 0).modEngineCmd c.id
          EngineCmd.fail)
      else .next s

end Sys2Proof.Machine
end

