-- ==== Sys2Proof/Machine/Collective.lean ====
section
/-! DEFINITION. The collective unit (R405 to R409): COLL.AR, COLL.AG, COLL.RS, COLL.BC and COLL.A2A, and the events
COLLECTIVE_PERFORM, COLL_CONTRIBUTION and COLLECTIVE_TIMEOUT. -/

namespace Sys2Proof.Machine

/-! ### Ranks (R403) -/

/-- The tasks that a group's entry lists on this module, in ascending index. -/
def listedIdx (e : BitVec 2048) : List Nat := if entV e then (List.range 640).filter fun i => (entTasks e).getLsbD i else []

/-- The tasks that a group lists on the modules below a number, other modules by `Config.peerTasks` (log 24). -/
def ranksBelow (s : State) (e : BitVec 2048) (n : Nat) : Nat :=
  ((List.range n).map fun m =>
    if m = s.modNum.toNat then (listedIdx e).length
    else if (entPeers e).getLsbD m then Config.peerTasks (entKey e) m else 0).sum

/-- The number of ranks of a group. -/
def rankCount (s : State) (e : BitVec 2048) : Nat :=
  if entPeers e = 0 then (listedIdx e).length else ranksBelow s e 512

/-- A task's rank: ascending module, then ascending task index. -/
def rankOf (s : State) (e : BitVec 2048) (index : Nat) : Nat :=
  (if entPeers e = 0 then 0 else ranksBelow s e s.modNum.toNat) + ((listedIdx e).filter fun i => decide (i < index)).length

/-! ### The operand block (R406) -/

/-- The group, the operation, the root and the element count of a command. -/
def collGrp (b : Block) : Nat := bfield b 0 56 8
@[inherit_doc collGrp] def collRop (b : Block) : Nat := bfield b 0 52 4
@[inherit_doc collGrp] def collRoot (b : Block) : Nat := bfield b 0 32 16
@[inherit_doc collGrp] def collN (b : Block) : Nat := bfield b 0 0 28

/-- The first source and destination elements, and the limit. -/
def collSorg (b : Block) : Nat := bfield b 0x18 0 32
@[inherit_doc collSorg] def collDorg (b : Block) : Nat := bfield b 0x18 32 32
@[inherit_doc collSorg] def collTmo (b : Block) : Nat := bfield b 0x20 0 24

/-- A command that reduces: COLL.AR (0) and COLL.RS (2). Commands are numbered 0 AR, 1 AG, 2 RS, 3 BC, 4 A2A. -/
def collReduces (k : Nat) : Bool := k == 0 || k == 2

/-- The source elements that a rank reads (R407). -/
def collReads (k n p : Nat) (root : Bool) : Nat :=
  match k with
  | 0 => n
  | 1 => n
  | 2 => p * n
  | 3 => if root then n else 0
  | _ => p * n

/-- The destination elements that a rank writes (R407). -/
def collWrites (k n p : Nat) : Nat :=
  match k with
  | 1 => p * n
  | 4 => p * n
  | _ => n

/-! ### The checks of R409 -/

/-- A format of a collective. -/
def collFmt (f : Nat) : Bool := f == 0 || f == 1 || f == 2 || f == 5 || f == 11

/-- Check 0x1. -/
def collBlockOk (k : Nat) (b : Block) (p : Nat) : Bool :=
  bfield b 0 48 4 == 0 && bfield b 0 28 4 == 0 && tidOk b 8 && tidOk b 0x10 && bfield b 0x20 24 40 == 0 &&
  bfield b 0x28 0 192 == 0 && collN b != 0 && (if collReduces k then decide (collRop b ≤ 2) else collRop b == 0) &&
  (if k = 3 then decide (collRoot b < p) else collRoot b == 0)

/-- Check 0x3. -/
def collRecsOk (k : Nat) (src dst : Block) : Bool :=
  ([src, dst].all fun r => recClass r == 0 && recRank r == 1 && collFmt (recEfmt r)) &&
  (!collReduces k || (decide (recEfmt src ≤ 2) == decide (recEfmt dst ≤ 2)))

/-- The first reason to reject a collective command, for a group of `p` ranks and the issuing rank `r`. -/
def collReason (s : State) (k : Nat) (b : Block) (p r : Nat) : Option Nat :=
  if !collBlockOk k b p then some 1
  else
    match tidRec s.issue.pre.recs b 8, tidRec s.issue.pre.recs b 0x10 with
    | some src, some dst =>
      if !collRecsOk k src dst then some 3
      else if decide (recExt src 0 < collSorg b + collReads k (collN b) p (r == collRoot b)) && collReads k (collN b) p (r == collRoot b) != 0 ||
          decide (recExt dst 0 < collDorg b + collWrites k (collN b) p) then some 4
      else if (memberOf s (BitVec.ofNat 64 (collGrp b))).isNone then some 5
      else none
    | _, _ => some 2

/-! ### Issue (R405, R408) -/

/-- The entry of the acting task's launch for a group, with the task's index. -/
def actingEntry (s : State) (g : Nat) : BitVec 2048 × Nat :=
  match actingTask s with
  | none => (0, 0)
  | some (t, l) => (l.ent g, t.index)

/-- The next sequence number of a rank in a group. -/
def collNext (s : State) (k : GroupKey) (r : Nat) : Nat :=
  match s.collSeqs.find? fun x => x.1 == k && x.2.1 == r with
  | none => 0
  | some x => x.2.2

/-- The state with a rank's next sequence number. -/
def setCollNext (s : State) (k : GroupKey) (r n : Nat) : State :=
  { s with collSeqs := (s.collSeqs.filter fun x => !(x.1 == k && x.2.1 == r)) ++ [(k, r, n)] }

/-- A collective command at issue: `k` numbers the command. -/
def collIssue (i : Instr) (k : Nat) (e : EngineWord) (s : State) : Out :=
  memReady s (
    if !cmdRoom s e.tok || decide (engineDepth ≤ (s.die (coreDie s.issue.core)).collq.length) then hold s
    else
      engineBlock s (s.rd e.sa) 64 fun b =>
        let x := actingEntry s (collGrp b)
        let r := rankOf s x.1 x.2
        match collReason s k b (rankCount s x.1) r with
        | some why => engineReject s why
        | none =>
          engineAccept s (if k = 4 then 0x35 else 0x34) (k % 4) i e b
            [(tidRec s.issue.pre.recs b 8).getD 0, (tidRec s.issue.pre.recs b 0x10).getD 0] fun c t =>
              let key := cmdGroup s c (collGrp b)
              let n := collNext s key r
              (setCollNext t key r (n + 1)).modDie (coreDie c.core) fun d => { d with collq := d.collq ++ [{ c with seq := n }] })

/-- COLL.AR. -/
def execCollAr (g : BitVec 6) (e : EngineWord) (s : State) : Out :=
  guarded g s fun s => ready s [e.sa] (collIssue (.collAr g e) 0 e s)

/-- COLL.AG. -/
def execCollAg (g : BitVec 6) (e : EngineWord) (s : State) : Out :=
  guarded g s fun s => ready s [e.sa] (collIssue (.collAg g e) 1 e s)

/-- COLL.RS. -/
def execCollRs (g : BitVec 6) (e : EngineWord) (s : State) : Out :=
  guarded g s fun s => ready s [e.sa] (collIssue (.collRs g e) 2 e s)

/-- COLL.BC. -/
def execCollBc (g : BitVec 6) (e : EngineWord) (s : State) : Out :=
  guarded g s fun s => ready s [e.sa] (collIssue (.collBc g e) 3 e s)

/-- COLL.A2A. -/
def execCollA2a (g : BitVec 6) (e : EngineWord) (s : State) : Out :=
  guarded g s fun s => ready s [e.sa] (collIssue (.collA2a g e) 4 e s)

/-! ### Performing (R407, R408) -/

/-- What a command is matched and performed by: its number, group, ranks and own rank. -/
structure CollView where
  k : Nat
  key : GroupKey
  p : Nat
  r : Nat
  deriving DecidableEq, Repr

/-- The view of a command. -/
def collView (s : State) (c : EngineCmd) : CollView :=
  let e := match c.task.bind s.task? with
    | none => ((0 : BitVec 2048), 0)
    | some t =>
      match s.launch? t.launch with
      | none => (0, 0)
      | some l => (l.ent (collGrp c.block), t.index)
  { k := if c.op = 0x35 then 4 else c.fn, key := cmdGroup s c (collGrp c.block), p := rankCount s e.1, r := rankOf s e.1 e.2 }

/-- A read or write of a collective: it names no hall (R255). -/
def collCluster (c : EngineCmd) : Nat := coreCluster c.core

/-- The contribution of a command (R407). -/
def collMsg (s : State) (c : EngineCmd) (v : CollView) : Except AccFail CollMsg := do
  let b := c.block
  let src := c.recs.getD 0 0
  let is := (List.range (collReads v.k (collN b) v.p (v.r == collRoot b))).map fun i => [collSorg b + i]
  let vs ← mapE (engineRead (s.asSeen c.party) none (collCluster c) c.ctx src) is
  .ok { group := v.key, seq := c.seq, rank := v.r, cmd := v.k, rop := collRop b, root := collRoot b, n := collN b,
        sfmt := recEfmt src, dfmt := recEfmt (c.recs.getD 1 0), values := vs.map fun x => BitVec.ofNat 32 x }

/-- A contribution taken unless one of its rank is there already (R408). -/
def holdColl (s : State) (m : CollMsg) : State :=
  if s.colls.any fun x => x.group == m.group && x.seq == m.seq && x.rank == m.rank then s
  else { s with colls := s.colls ++ [m] }

/-- A contribution sent: to this module's units and to those of the other modules of a domain group. -/
def sendColl (s : State) (m : CollMsg) : State :=
  let t := holdColl s m
  if m.group.domain then
    t.send "collective" ([m.group.xkey.zeroExtend 64, BitVec.ofNat 64 m.seq, BitVec.ofNat 64 m.rank,
      BitVec.ofNat 64 (m.cmd * 2 ^ 60 + m.rop * 2 ^ 52 + m.root * 2 ^ 32 + m.n), BitVec.ofNat 64 (m.sfmt * 16 + m.dfmt)] ++
      m.values.map fun x => x.zeroExtend 64)
  else t

/-- The contributions to a command that have arrived. -/
def collsFor (s : State) (c : EngineCmd) (v : CollView) : List CollMsg :=
  s.colls.filter fun m => m.group == v.key && m.seq == c.seq

/-- A contribution of the command's own shape (R408). -/
def collShape (c : EngineCmd) (v : CollView) (m : CollMsg) : Bool :=
  m.cmd == v.k && m.rop == collRop c.block && m.root == collRoot c.block && m.n == collN c.block &&
  m.sfmt == recEfmt (c.recs.getD 0 0) && m.dfmt == recEfmt (c.recs.getD 1 0)

/-- A value of a rank's contribution. -/
def collValue (ms : List CollMsg) (q i : Nat) : Nat :=
  match ms.find? fun m => m.rank == q with
  | none => 0
  | some m => (m.values.getD i 0).toNat

/-- `Red` of R407 over values in the source format. -/
def collRed (rop sf df : Nat) (xs : List Nat) : Nat :=
  let vs := xs.map fun x => (valOf sf x).1
  let v := match rop with
    | 0 => (sumNum false vs).1
    | 1 => vs.foldl Num.max .nan
    | _ => vs.foldl Num.min .nan
  (roundTo df .rne false v).1

/-- What a command writes: destination elements and their bits (R407); a NaN that it moves becomes the canonical one (R51, R60). -/
def collResults (b : Block) (v : CollView) (sf df : Nat) (ms : List CollMsg) : List (List Nat × Nat) :=
  let n := collN b
  let move := fun x => (recode sf df .rne false x).1
  let red := fun (off i : Nat) => collRed (collRop b) sf df ((List.range v.p).map fun q => collValue ms q (off + i))
  match v.k with
  | 0 => (List.range n).map fun i => ([collDorg b + i], red 0 i)
  | 1 => (List.range v.p).flatMap fun q => (List.range n).map fun i => ([collDorg b + q * n + i], move (collValue ms q i))
  | 2 => (List.range n).map fun i => ([collDorg b + i], red (v.r * n) i)
  | 3 => (List.range n).map fun i => ([collDorg b + i], move (collValue ms (collRoot b) i))
  | _ =>
    (List.range v.p).flatMap fun q =>
      (List.range n).map fun i => ([collDorg b + q * n + i], move (collValue ms q (v.r * n + i)))

/-- A fault of the collective unit with a rank as its value (R410). -/
def collFault (s : State) (c : EngineCmd) (code rank : Nat) : State :=
  (s.postFault c.ctx code 0 (BitVec.ofNat 64 (0xA00 + coreDie c.core)) 0 (BitVec.ofNat 64 rank) 0).modEngineCmd c.id
    EngineCmd.fail

/-- A command that waits: it ends in a fault on a contribution of another shape, and performs once every rank's has
come (R408). -/
def settleColl (s : State) (c : EngineCmd) : State :=
  let v := collView s c
  let ms := collsFor s c v
  match ms.find? fun m => !collShape c v m with
  | some m => collFault s c 0x32 m.rank
  | none =>
    if !((List.range v.p).all fun q => ms.any fun m => m.rank == q) then s
    else
      let dst := c.recs.getD 1 0
      let scope := match s.group? v.key with
        | none => c.scope
        | some g => Nat.max c.scope g.scope
      let s0 := s.modEngineCmd c.id fun d => { d with scope := scope }
      let ws := collResults c.block v (recEfmt (c.recs.getD 0 0)) (recEfmt dst) ms
      settleCmd s0 c (0xA00 + coreDie c.core) 0x14
        (foldE (fun t x => engineWrite t none (collCluster c) c.ctx dst x.1 x.2) ws
          (openElems c.party (collCluster c) c.ctx dst (ws.map fun x => x.1) s0))

/-- A command that begins: it reads its source and sends its contribution (R408). -/
def startColl (s : State) (c : EngineCmd) : State :=
  let v := collView s c
  match collMsg s c v with
  | .error f => settleCmd s c (0xA00 + coreDie c.core) 0x14 (.error f)
  | .ok m =>
    let is := (List.range m.values.length).map fun i => [collSorg c.block + i]
    let s1 := markElems s (collCluster c) c.ctx (c.recs.getD 0 0) is
    let c1 := { c with begun := true, since := s.now }
    settleColl ((sendColl s1 m).modEngineCmd c.id fun _ => c1) c1

/-- COLLECTIVE_PERFORM: a command of a die's unit begins, after the earlier ones of its strand that it may overlap (R250), or
goes on once its contributions have arrived. -/
def execCollectivePerform (die idx : Nat) (s : State) : Out :=
  match (s.die die).collq[idx]? with
  | none => .next s
  | some c =>
    .next (if c.done || c.failed then s else if c.begun then settleColl s c else if olderOverlap s c then s else startColl s c)

/-- COLL_CONTRIBUTION: a contribution of another module's rank (R408). -/
def execCollContribution (msg : CollMsg) (s : State) : Out :=
  if !msg.group.domain then .next s
  else
    let t := holdColl s msg
    .next (((t.dies.flatMap fun d => d.2.collq).filter fun c => c.begun && !c.done && !c.failed).foldl
      (fun u c =>
        let v := collView u c
        if v.key = msg.group ∧ c.seq = msg.seq then settleColl u c else u) t)

/-- COLLECTIVE_TIMEOUT (R408). -/
def execCollectiveTimeout (die idx : Nat) (s : State) : Out :=
  match (s.die die).collq[idx]? with
  | none => .next s
  | some c =>
    if c.done || c.failed || !c.begun || !limitPassed s.now c.since (collTmo c.block) then .next s
    else
      let v := collView s c
      let ms := collsFor s c v
      match (List.range v.p).find? fun q => ms.all fun m => m.rank != q with
      | none => .next s
      | some q => .next (collFault s c 0x33 q)

end Sys2Proof.Machine
end

