-- ==== Sys2Proof/Machine/Control.lean ====
section
/-! DEFINITION. Halting, breakpoints, software traps, branches and calls (R72 to R80), and the hardware loops (R81 to R86). -/

namespace Sys2Proof.Machine

/-! ### Halting and traps (R73 to R78) -/

/-- The bundle's control transfer is taken without moving the program counter further. -/
def State.take (s : State) : State := { s with issue := { s.issue with taken := true } }

/-- NOP (R73). -/
def execNop (_g : BitVec 6) (s : State) : Out := .next s

/-- HALT (R73, R75): the strand stands past its bundle, halted. -/
def execHalt (g : BitVec 6) (s : State) : Out :=
  guarded g s fun s => .next ((s.jump s.nextPc).modActing fun st => { st with mode := .halted })

/-- The context's debug setting sends breakpoints to the debugger (R73, R377). -/
def debugBreaks (s : State) : Bool :=
  match s.ctx? s.live.ctx with
  | none => false
  | some c => c.brkdbg

/-- BRK (R73): the breakpoint trap, or the context's stop with this bundle at the strand's head. -/
def execBrk (g : BitVec 6) (code : BitVec 12) (s : State) : Out :=
  guarded g s fun s =>
    if debugBreaks s then .next ((stopContext s s.live.ctx 3).setVerdict .faulted)
    else trapAt s 3 (code.zeroExtend 64)

/-- TRAP (R73, R84): the loop-back check, then the software trap after issue. -/
def execTrap (g : BitVec 6) (code : BitVec 12) (s : State) : Out :=
  guarded g s fun s =>
    let t := s.modActing fun st => loopBack s.issue.base s.nextPc 5 s.pre st
    let go := (t.live.strand s.issue.kind).pc
    .next (trapAfter t 4 (code.zeroExtend 64) go).take

/-- ERET (R77, R78). -/
def execEret (g : BitVec 6) (s : State) : Out :=
  guarded g s fun s =>
    if s.pre.mode = .trapped then .next (trapReturn s s.issue.core s.issue.kind s.pre.epc).take
    else illegalAt s (.eret g)

/-! ### Branches and calls (R80, R85) -/

/-- The target checks of R80, then the transfer. -/
def transferTo (s : State) (t : Word) (f : State → State) : Out :=
  if t.extractLsb' 0 2 != 0 then trapAt s 1 t
  else if t.extractLsb' 52 12 != 0 then trapAt s 2 t
  else .next ((f s).jump t)

/-- The loop levels that a taken BR or JR of a bundle in the innermost body leaves are ended (R85, log 96). -/
def leaveFor (t : Word) (s : State) : State :=
  if insideLoop s.issue.base s.pre then s.modActing fun st => leaveLoops t 5 s.pre st else s

/-- The target of an offset from the bundle's header (R80). -/
def offTarget (s : State) (off : BitVec 32) : Word := s.issue.base + off.signExtend 64

/-- BR. -/
def execBr (g : BitVec 6) (off : BitVec 32) (s : State) : Out :=
  guarded g s fun s => transferTo s (offTarget s off) (leaveFor (offTarget s off))

/-- CALL. -/
def execCall (g rd : BitVec 6) (off : BitVec 32) (s : State) : Out :=
  guarded g s fun s => ready s [rd] (transferTo s (offTarget s off) fun s => s.wr rd s.nextPc)

/-- JR. -/
def execJr (g ra : BitVec 6) (s : State) : Out :=
  guarded g s fun s => ready s [ra] (transferTo s (s.rd ra) (leaveFor (s.rd ra)))

/-- CALLR. -/
def execCallr (g rd ra : BitVec 6) (s : State) : Out :=
  guarded g s fun s => ready s [rd, ra] (transferTo s (s.rd ra) fun s => s.wr rd s.nextPc)

/-- RET. -/
def execRet (g ra : BitVec 6) (s : State) : Out :=
  guarded g s fun s => ready s [ra] (transferTo s (s.rd ra) id)

/-! ### Loop instructions (R83) -/

/-- The end register of a level (R82). -/
def loopEnd (e : Word) (pipe : Bool) (stg : BitVec 4) : Word :=
  (e &&& 0x000F_FFFF_FFFF_FFFC#64) ||| 0x8000_0000_0000_0000#64 ||| (stg.zeroExtend 64 <<< 56) |||
  (if pipe then 0x4000_0000_0000_0000#64 else 0)

/-- The strand with every stage predicate 0 but p48, by name (R83). -/
def Strand.setStages (st : Strand) : Strand :=
  ((List.range 16).foldl (fun x j => x.setStage (48 + j) false) st).setStage 48 true

/-- The same by the names that a base `b` selects (log 95). -/
def Strand.setStagesAt (st : Strand) (b : BitVec 4) : Strand :=
  { ({ st with pbase := b }).setStages with pbase := st.pbase }

/-- A loop set up with a count `n`, `stg` given for a pipelined one; a plain one leaves the level's `stg` as it stands (R83). -/
def enterLoop (s : State) (n : Nat) (stg : Option (BitVec 4)) (blen : BitVec 24) : Out :=
  let start := s.nextPc
  let e := start + BitVec.ofNat 64 (4 * blen.toNat)
  if n = 0 then .next (s.jump (e &&& pcMask))
  else
    let d := s.pre.loopDepth
    if d = 4 then trapAt s 5 0
    else
      match stg with
      | none =>
        .next ((s.modActing fun st =>
          st.setLoop d { start := start, endReg := loopEnd e false (BitVec.ofNat 4 (st.loop d).stg), count := BitVec.ofNat 64 (n - 1) }).jump start)
      | some x =>
        .next ((s.modActing fun st =>
          (st.setLoop d { start := start, endReg := loopEnd e true x,
                          count := BitVec.ofNat 64 (Nat.min (n + x.toNat - 1) (2 ^ 64 - 1)) }).setStagesAt s.pre.pbase).jump start)

/-- LOOP. -/
def execLoop (g ra : BitVec 6) (blen : BitVec 24) (s : State) : Out :=
  guarded g s fun s => ready s [ra] (enterLoop s (s.rd ra).toNat none blen)

/-- LOOPI. -/
def execLoopi (g : BitVec 6) (n : BitVec 12) (blen : BitVec 24) (s : State) : Out :=
  guarded g s fun s => enterLoop s n.toNat none blen

/-- LOOPP. -/
def execLoopp (g ra : BitVec 6) (stg : BitVec 4) (blen : BitVec 24) (s : State) : Out :=
  guarded g s fun s => ready s [ra] (enterLoop s (s.rd ra).toNat (some stg) blen)

/-- LOOPPI. -/
def execLooppi (g : BitVec 6) (n : BitVec 12) (stg : BitVec 4) (blen : BitVec 24) (s : State) : Out :=
  guarded g s fun s => enterLoop s n.toNat (some stg) blen

end Sys2Proof.Machine
end

