-- ==== Sys2Proof/Machine/Sched.lean ====
section
/-! DEFINITION. What the scheduler and the registers that show it need to know of units, launches and waiting
tasks (R247, R291, R292, R296). -/

namespace Sys2Proof.Machine

/-- A core that exists and is not mapped out (R385). -/
def coreWorks (s : State) (n : Nat) : Bool := decide (n < 640) && !s.mapped.contains n

/-- A working core that holds no task. -/
def coreFree (s : State) (n : Nat) : Bool := coreWorks s n && (s.core n).task.isNone

/-- A core claimed by a launch until its victims' saves complete (R294). -/
def coreClaimed (s : State) (n : Nat) : Bool := s.claims.any fun c => c.1 == n

/-- A cluster with a working core. -/
def clusterWorks (s : State) (cl : Nat) : Bool := (List.range 16).any fun i => coreWorks s (16 * cl + i)

/-- A die with a working core. -/
def dieWorks (s : State) (d : Nat) : Bool := (List.range 10).any fun i => clusterWorks s (10 * d + i)

/-- The lowest priority number that a context's launches may hold. -/
def ctxPmin (s : State) (ctx : BitVec 12) : Nat :=
  match s.ctx? ctx with
  | none => 0
  | some c => c.pmin

/-- The effective priority of a launch whose waiting began at `arrival` (R291). -/
def eprio (s : State) (l : Launch) (arrival : Nat) : Nat :=
  Nat.max (ctxPmin s l.ctx) (l.prio.toNat - (s.now - arrival) / 2 ^ 20)

/-- An entry of the choice order: a launch, the oldest arrival of its tasks that wait, and these tasks (log 100). -/
structure Waiting where
  launch : Launch
  arrival : Nat
  tasks : List Task

/-- The tasks of a launch that wait to be placed. -/
def waitingTasks (s : State) (l : Launch) : List Task := s.tasks.filter fun t => t.launch == l.id && t.st == .waiting

/-- The entry of the choice order for a launch with waiting tasks (R291, R292, log 100). -/
def waitingOf (s : State) (l : Launch) : List Waiting :=
  match waitingTasks s l with
  | [] => []
  | t :: ts => [{ launch := l, arrival := ts.foldl (fun a u => Nat.min a u.arrival) t.arrival, tasks := t :: ts }]

/-- The waiting launches that a cluster's scheduler keeps. -/
def waitingAt (s : State) (cl : Nat) : List Waiting :=
  (s.launches.filter fun l => l.cluster == cl).flatMap fun l => waitingOf s l

/-- The number of waiting launches of a scheduler at an effective priority, saturating (R296). -/
def waitCount (s : State) (cl p : Nat) : Nat :=
  Nat.min 255 ((waitingAt s cl).filter fun w => eprio s w.launch w.arrival == p).length

end Sys2Proof.Machine
end

