-- ==== Sys2Proof/Machine/Csr.lean ====
section
/-! DEFINITION. The control and status registers: what each reads as, which bits a write may set, and CSRR, CSRW,
CSRS and CSRC (R3, R11 to R15, R18, R82, R102, R103, R114, R118, R119, R120, R142, R148, R185, R244, R247, R281,
R295, R296, R317, R331, R342, R368, R386, R401). -/

namespace Sys2Proof.Machine

/-! ### Reading -/

/-- `strand.rot` (R11). -/
def Strand.rot (st : Strand) : Word := (st.pbase.zeroExtend 64 <<< 8) ||| st.sbase.zeroExtend 64

/-- A register of a loop level (R82). -/
def LoopLevel.part (l : LoopLevel) (i : Nat) : Word :=
  match i with
  | 0 => l.start
  | 1 => l.endReg
  | _ => l.count

/-- A strand's own register (R13). -/
def strandCsr (st : Strand) (id : Word) (n : Nat) : Word :=
  if n = 0x000 then id
  else if n = 0x001 then st.sticky.zeroExtend 64
  else if n = 0x002 then st.rot
  else if n = 0x010 then st.trapvec
  else if n = 0x011 then st.epc
  else if n = 0x012 then st.cause
  else if n = 0x013 then st.tval
  else (st.loop ((n - 0x20) / 4)).part (n % 4)

/-- `core.tok` (R118). -/
def tokWord (c : Core) : Word :=
  BitVec.ofNat 64 (((List.range 8).map fun i =>
    ((c.tok i).count % 64 + (if (c.tok i).err then 128 else 0)) * 256 ^ i).sum)

/-- `core.tokwhy` (R119). -/
def tokWhy (c : Core) : Word := BitVec.ofNat 64 (((List.range 8).map fun i => (c.tok i).reason.toNat * 16 ^ i).sum)

/-- `core.watchdog` (R142). -/
def watchdog (c : Core) : Word := BitVec.ofNat 64 (c.missLimit.toNat * 2 ^ 24 + c.joinLimit.toNat)

/-- `core.fq` (R185). -/
def fqWord (c : Core) : Word := BitVec.ofNat 64 ((if c.fqClosed then 32 else 0) + c.fq.length)

/-- `core.ctx` (R244). -/
def ctxWord (c : Core) : Word := BitVec.ofNat 64 (c.prio.toNat * 2 ^ 12 + c.ctx.toNat)

/-- `core.preq` (R244). -/
def preqWord (c : Core) : Word := BitVec.ofNat 64 (c.preqPrio.toNat * 2 + (if c.preqPend then 1 else 0))

/-- A core's register. -/
def coreCsr (c : Core) (n : Nat) : Word :=
  if n < 0x120 then (c.joinMask (n - 0x100)).zeroExtend 64
  else if n < 0x130 then qlvl c ((n - 0x120) / 4) (n % 4)
  else if n = 0x130 then tokWord c
  else if n = 0x131 then tokWhy c
  else if n = 0x140 then watchdog c
  else if n = 0x141 then BitVec.ofNat 64 c.recs.length
  else if n = 0x150 then fqWord c
  else if n = 0x151 then c.fqHead
  else if n = 0x160 then ctxWord c
  else if n = 0x161 then c.arg
  else if n = 0x162 then preqWord c
  else if n = 0x163 then c.pgrace.zeroExtend 64
  else if n < 0x180 then tget 0 c.hcnt (n - 0x170)
  else tget 0 c.fwait (n - 0x180)

/-- `cluster.queues` (R296). -/
def queuesWord (s : State) (cl : Nat) : Word :=
  let free := ((List.range 16).filter fun i => coreFree s (16 * cl + i) && !coreClaimed s (16 * cl + i)).length
  let renq := (tget [] (s.cluster cl).renq 16).length
  BitVec.ofNat 64 (free * 2 ^ 40 + renq * 2 ^ 32 + waitCount s cl 3 * 2 ^ 24 + waitCount s cl 2 * 2 ^ 16 +
    waitCount s cl 1 * 2 ^ 8 + waitCount s cl 0)

/-- The commands of a run queue, markers left out. -/
def Bte.runCmds (b : Bte) : Nat := (b.runq.filter fun e => match e with
  | .cmd _ => true
  | .marker _ => false).length

/-- The commands of a vestibule that have a place in the run queue, their time having come (R171, R329). -/
def Bte.due (b : Bte) (now : Nat) : Nat := Nat.min (16 - b.runCmds) (b.vest.filter fun c => decide (c.since ≤ now)).length

/-- `cluster.bteN` (R331) in a cycle. -/
def bteWord (b : Bte) (now : Nat) : Word :=
  BitVec.ofNat 64 (b.late.toNat * 2 ^ 32 + (b.vest.length - b.due now) * 2 ^ 16 + (b.runCmds + b.due now) * 2 ^ 8 +
    b.act.length)

/-- A cluster's register in a cycle; `queues` is the word of `cluster.queues`. -/
def clusterCsr (c : Cluster) (now : Nat) (queues : Word) (n : Nat) : Word :=
  if n = 0x400 then c.restime.zeroExtend 64
  else if n = 0x401 then queues
  else if n = 0x402 then BitVec.ofNat 64 c.selq.length
  else if n = 0x403 then BitVec.ofNat 64 ((256 - (c.slots.filter fun x => x.st != .setting && x.st != .free).length) * 2 ^ 16 + c.lndq.length)
  else if n < 0x410 then bteWord (tget {} c.btes (n - 0x404)) now
  else if n % 2 = 0 then tget 0 c.retainSel ((n - 0x410) / 2)
  else tget 0 c.retainRng ((n - 0x410) / 2)

/-- `die.hnlN` (R401). -/
def portWord (p : Port) : Word := p.repl ++ p.corr ++ p.lret ++ (0 : BitVec 4) ++ p.width ++ p.st

/-- `pkg.promo` (R368). -/
def promoWord (s : State) (c : Context) : Word :=
  let waits := (s.moves.filter fun m => m.ctx == c.id && m.st == .wait).length
  BitVec.ofNat 64 (c.promoLate.toNat * 2 ^ 32 + Nat.min waits 0xFFFF * 2 ^ 16 + c.stash.length)

/-- `pkg.promo` of a context. -/
def promoOf (s : State) (ctx : BitVec 12) : Word :=
  match s.ctx? ctx with
  | none => 0
  | some c => promoWord s c

/-- A register of the die and package; `promo` is the word of `pkg.promo`. -/
def dieCsr (s : State) (d : Die) (promo : Word) (ctx : BitVec 12) (n : Nat) : Word :=
  if n = 0x600 then BitVec.ofNat 64 ((16 - (d.sessions.filter fun x => x.st != .free).length) * 2 ^ 16 + d.rteq.length)
  else if n = 0x620 then
    (match s.ctx? ctx with
     | none => 0
     | some c => c.kvfree &&& 0x000F_FFFF_FFFF_FFC0#64)
  else if n = 0x621 then promo
  else if n = 0x622 then s.swaps.zeroExtend 64
  else portWord (tget {} d.ports (n - 0x630))

/-- A capability register (R247). -/
def capCsr (s : State) (n : Nat) : Word :=
  BitVec.ofNat 64 (
    if n = 0xC00 then 0x4640
    else if n = 0xC01 then
      ((List.range 640).filter fun i => coreWorks s i).length * 2 ^ 32 +
      ((List.range 40).filter fun i => clusterWorks s i).length * 2 ^ 16 +
      ((List.range 4).filter fun i => dieWorks s i).length
    else if n = 0xC02 then (((List.range 40).filter fun i => clusterWorks s i).map fun i => 2 ^ i).sum
    else if n = 0xC03 then s.clock
    else if n = 0xC04 then Nat.min Config.farGiB 4096
    else if n = 0xC10 then 64
    else if n = 0xC14 then 8
    else 32)

/-- A register as the acting strand reads it at issue: as it stood before the cycle (R12, R16, R20). -/
def csrRead (s : State) (n : Nat) : Word :=
  let core := s.issue.core
  if n < 0x100 then strandCsr s.pre (strandId s core s.issue.kind) n
  else if n < 0x400 then coreCsr s.issue.pre n
  else if n < 0x600 then clusterCsr s.issue.preCl s.now s.issue.preQueues n
  else if n < 0xC00 then dieCsr s s.issue.preDie s.issue.prePromo s.issue.pre.ctx n
  else capCsr s n

/-! ### Writing -/

/-- The bits that a register has (R3): a write may set no other. -/
def csrMask (n : Nat) : Word :=
  if n = 0x001 then 0x7F
  else if n = 0x002 then 0xF1F
  else if n = 0x010 then 0x000F_FFFF_FFFF_FFFC
  else if n = 0x011 then 0x000F_FFFF_FFFF_FFFC
  else if n = 0x012 then 0xF3F
  else if n = 0x013 then 0xFFFF_FFFF_FFFF_FFFF
  else if n < 0x100 then
    (if n % 4 = 0 then 0x000F_FFFF_FFFF_FFFC else if n % 4 = 1 then 0xCF0F_FFFF_FFFF_FFFC else 0xFFFF_FFFF_FFFF_FFFF)
  else if n < 0x120 then 0xF
  else if n = 0x140 then 0x0000_FFFF_FFFF_FFFF
  else if n = 0x163 then 0xFFFF
  else if n % 2 = 0 then 0x80FF_FFF0_00FF_FFFF
  else 0xFFFF_FFFF_FFFF_FFFF

/-- A loop level with one of its registers written. -/
def LoopLevel.setPart (l : LoopLevel) (i : Nat) (x : Word) : LoopLevel :=
  match i with
  | 0 => { l with start := x }
  | 1 => { l with endReg := x }
  | _ => { l with count := x }

/-- A strand with one of its own registers written (R13). The sticky bits that the bundle's other instructions raise are
set after the write (R103). -/
def writeStrandCsr (raised : BitVec 7) (st : Strand) (n : Nat) (x : Word) : Strand :=
  if n = 0x001 then { st with sticky := x.extractLsb' 0 7 ||| raised }
  else if n = 0x002 then { st with sbase := x.extractLsb' 0 5, pbase := x.extractLsb' 8 4 }
  else if n = 0x010 then { st with trapvec := x }
  else if n = 0x011 then { st with epc := x }
  else if n = 0x012 then { st with cause := x }
  else if n = 0x013 then { st with tval := x }
  else st.setLoop ((n - 0x20) / 4) ((st.loop ((n - 0x20) / 4)).setPart (n % 4) x)

/-- A core with one of its registers written: a join mask, with the pairing count started over (R19), the watchdog or
the grace. -/
def writeCoreCsr (now : Nat) (c : Core) (n : Nat) (x : Word) : Core :=
  if n < 0x120 then
    { c with joins := tset 0 c.joins (n - 0x100) (x.extractLsb' 0 4), pairs := tset 0 c.pairs (n - 0x100) 0 }
  else if n = 0x140 then { c with missLimit := x.extractLsb' 24 24, joinLimit := x.extractLsb' 0 24, wdSince := now }
  else { c with pgrace := x.extractLsb' 0 16 }

/-- `ways` of a retention register that counts: zero while it is not active. -/
def selWays (x : Word) : Nat := if x.getLsbD 63 then (x.extractLsb' 48 8).toNat else 0

/-- A range register whose last row is not below its first. -/
def rngOk (x : Word) : Bool := decide ((x.extractLsb' 24 20).toNat ≤ (x.extractLsb' 44 20).toNat)

/-- A write of a retention register (R281): none where it traps. -/
def writeRetain (c : Cluster) (ctx : BitVec 12) (n : Nat) (x : Word) : Option Cluster :=
  let i := (n - 0x410) / 2
  let sel := tget 0 c.retainSel i
  if sel.getLsbD 63 && sel.extractLsb' 36 12 != ctx then none
  else if n % 2 = 0 then
    let owner := if x.getLsbD 63 then ctx else sel.extractLsb' 36 12
    let y := (x &&& 0x80FF_0000_00FF_FFFF#64) ||| (owner.zeroExtend 64 <<< 36)
    let others := (((List.range 4).filter fun j => j != i).map fun j => selWays (tget 0 c.retainSel j)).sum
    if x.getLsbD 63 && (selWays x == 0 || !rngOk (tget 0 c.retainRng i)) then none
    else if 192 < others + selWays x then none
    else some { c with retainSel := tset 0 c.retainSel i y }
  else if sel.getLsbD 63 && !rngOk x then none
  else some { c with retainRng := tset 0 c.retainRng i x }

/-- A write by the acting strand (R3, R12): none where it raises the illegal-instruction trap. -/
def csrWrite (s : State) (n : Nat) (x : Word) : Option State :=
  if x &&& ~~~(csrMask n) != 0 then none
  else if n < 0x100 then some (s.modActing fun st => writeStrandCsr s.issue.raised st n x)
  else if n < 0x400 then some (s.modLive fun c => writeCoreCsr s.now c n x)
  else
    match writeRetain (s.cluster (coreCluster s.issue.core)) s.live.ctx n x with
    | none => none
    | some c => some (s.setCluster (coreCluster s.issue.core) c)

/-! ### The instructions (R103) -/

/-- An access of `strand.sticky` on the V strand waits until every earlier V-private instruction has completed (R215). -/
def stickyReady (s : State) (n : BitVec 12) (x : Out) : Out :=
  if s.issue.kind == .v && n == 1 && !s.issue.pre.vops.isEmpty then hold s else x

/-- The write of a CSR instruction, or its trap. -/
def csrUpdate (s : State) (i : Instr) (n : BitVec 12) (x : Word) : Out :=
  match csrWrite s n.toNat x with
  | none => illegalAt s i
  | some t => .next t

/-- CSRR. -/
def execCsrr (g rd : BitVec 6) (csr : BitVec 12) (s : State) : Out :=
  guarded g s fun s => ready s [rd] (stickyReady s csr (.next (s.wr rd (csrRead s csr.toNat))))

/-- CSRW. -/
def execCsrw (g : BitVec 6) (csr : BitVec 12) (rs : BitVec 6) (s : State) : Out :=
  guarded g s fun s => ready s [rs] (stickyReady s csr (csrUpdate s (.csrw g csr rs) csr (s.rd rs)))

/-- CSRS. -/
def execCsrs (g : BitVec 6) (csr : BitVec 12) (rs : BitVec 6) (s : State) : Out :=
  guarded g s fun s => ready s [rs] (stickyReady s csr (
    csrUpdate s (.csrs g csr rs) csr (csrRead s csr.toNat ||| s.rd rs)))

/-- CSRC. -/
def execCsrc (g : BitVec 6) (csr : BitVec 12) (rs : BitVec 6) (s : State) : Out :=
  guarded g s fun s => ready s [rs] (stickyReady s csr (
    csrUpdate s (.csrc g csr rs) csr (csrRead s csr.toNat &&& ~~~(s.rd rs))))

end Sys2Proof.Machine
end

