-- ==== Sys2Proof/Machine/CtlStrand.lean ====
section
/-! DEFINITION. The private instructions of the C strand: FPUSH and FQCLOSE (R232 to R234), RENQ (R235 to R237), GBAR,
GLEAVE, GJOIN and GCAST (R239 to R242), PRACK (R245) and HOSTIRQ (R246). -/

namespace Sys2Proof.Machine

/-! ### The format queue (R233, R234) -/

/-- The format queue has room for one more word, judged on its words before the cycle and those pushed in it. -/
def fqRoom (s : State) : Bool :=
  decide (s.issue.pre.fq.length + (s.live.fq.filter fun w => w.born == s.now).length < 16)

/-- FPUSH. -/
def execFpush (g ra : BitVec 6) (s : State) : Out :=
  guarded g s fun s => ready s [ra] (
    if !fqRoom s then hold s
    else if s.issue.pre.fqClosed then illegalAt s (.fpush g ra)
    else .next (s.modLive fun c => { c with fq := c.fq ++ [{ w := s.rd ra, born := s.now }] }))

/-- FQCLOSE. -/
def execFqclose (g : BitVec 6) (s : State) : Out :=
  guarded g s fun s => .next (s.modLive fun c => { c with fqClosed := true })

/-! ### RENQ (R235 to R237) -/

/-- The queue that a target names: its cluster and its place there, 0 to 15 for a core, 16 for the scheduler; none for
a reserved bit or a unit that does not exist or is mapped out. -/
def renqTarget (s : State) (t : Word) : Option (Nat × Nat) :=
  let cl := 10 * (t.extractLsb' 10 2).toNat + (t.extractLsb' 6 4).toNat
  let core := (t.extractLsb' 2 4).toNat
  if t.extractLsb' 13 51 != 0 || t.extractLsb' 0 2 != 0 || decide (10 ≤ (t.extractLsb' 6 4).toNat) then none
  else if t.getLsbD 12 then (if core = 0 ∧ clusterWorks s cl = true then some (cl, 16) else none)
  else if coreWorks s (16 * cl + core) then some (cl, core)
  else none

/-- A RENQ queue. -/
def renqOf (s : State) (q : Nat × Nat) : List RenqEntry := tget [] (s.cluster q.1).renq q.2

/-- A RENQ queue replaced. -/
def setRenq (s : State) (q : Nat × Nat) (es : List RenqEntry) : State :=
  s.modCluster q.1 fun c => { c with renq := tset [] c.renq q.2 es }

/-- The priority of the launch of the acting task. -/
def launchPrio (s : State) : BitVec 2 :=
  match actingTask s with
  | none => 0
  | some x => x.2.prio

/-- The target's queue is full. -/
def renqFull (s : State) (t : Option (Nat × Nat)) : Bool :=
  match t with
  | none => false
  | some q => decide (16 ≤ (renqOf s q).length)

/-- RENQ. -/
def execRenq (g ra rb : BitVec 6) (s : State) : Out :=
  guarded g s fun s => ready s [ra, rb] (memReady s (
    let a := s.rd ra
    let t := renqTarget s (s.rd rb)
    if renqFull s t then hold s
    else if a.toNat % 256 ≠ 0 then trapAt s 1 a
    else
      strandTranslate s a .read fun _ _ =>
        match t with
        | none => trapAt s 11 a
        | some q =>
          let u := releaseAt s s.issue.core s.issue.kind 4
          .next (setRenq u q (renqOf u q ++
            [{ addr := a, core := s.issue.core, task := s.live.task, ctx := s.live.ctx, prio := launchPrio s }]))))

/-! ### Group instructions (R240 to R242) -/

/-- GBAR: the release at the wider of the scope and the group's extent, then the arrival. -/
def execGbar (g fl ra : BitVec 6) (scope : BitVec 3) (s : State) : Out :=
  guarded g s fun s => ready s [ra] (memReady s (
    match memberOf s (s.rd ra) with
    | none => trapAt s 14 (s.rd ra)
    | some (t, l, i) =>
      let k := groupKey s l i
      if hasArrived s k t.id then hold s
      else
        let u := releaseAt s s.issue.core s.issue.kind (Nat.max scope.toNat (groupExtent s l i))
        .next (tellGroup u { key := k, task := t.id, what := 0, flag := fl.toNat })))

/-- GLEAVE. -/
def execGleave (g ra : BitVec 6) (s : State) : Out :=
  guarded g s fun s => ready s [ra] (
    match memberOf s (s.rd ra) with
    | none => trapAt s 14 (s.rd ra)
    | some (t, l, i) =>
      .next ((tellGroup s { key := groupKey s l i, task := t.id, what := 1, flag := 0 }).modTask t.id fun t =>
        { t with grps := t.grps.filter fun x => x != i }))

/-- GJOIN. -/
def execGjoin (g ra : BitVec 6) (s : State) : Out :=
  guarded g s fun s => ready s [ra] (
    let v := s.rd ra
    match actingTask s with
    | none => trapAt s 14 v
    | some (t, l) =>
      if 256 ≤ v.toNat ∨ entLists (l.ent v.toNat) t.index = false then trapAt s 14 v
      else if t.grps.contains v.toNat then .next s
      else if 4 ≤ t.grps.length then trapAt s 14 v
      else
        .next ((tellGroup s { key := groupKey s l v.toNat, task := t.id, what := 2, flag := 0 }).modTask t.id fun t =>
          { t with grps := t.grps ++ [v.toNat] }))

/-- The current members of a group on this module. -/
def membersOf (s : State) (k : GroupKey) : List Nat :=
  (s.tasks.filter fun t =>
    match s.launch? t.launch with
    | none => false
    | some l => t.grps.any fun g => groupKey s l g == k).map fun t => t.id

/-- GCAST: the release at the group's extent, then one update for each member, on this module and on its peers. -/
def execGcast (g fl ra rb : BitVec 6) (s : State) : Out :=
  guarded g s fun s => ready s [ra, rb] (memReady s (
    match memberOf s (s.rd ra) with
    | none => trapAt s 14 (s.rd ra)
    | some (_, l, i) =>
      let k := groupKey s l i
      let x := (s.rd rb).extractLsb' 0 32
      let u := releaseAt s s.issue.core s.issue.kind (groupExtent s l i)
      let v := (membersOf u k).foldl (fun s t => sendFlag s t fl.toNat x (groupExtent s l i)) u
      .next (if k.domain then
        v.send "gcast" [k.xkey.zeroExtend 64, fl.zeroExtend 64, x.zeroExtend 64] else v)))

/-! ### Pre-emption and the host (R244 to R246) -/

/-- PRACK: with a pre-emption requested, the task stops at a cut behind this bundle. -/
def execPrack (g rd ra : BitVec 6) (s : State) : Out :=
  guarded g s fun s => ready s [rd, ra] (
    if s.issue.pre.preqPend then
      let t := (s.wr rd 1).modLive fun c => { c with afileDead := (s.rd ra).getLsbD 0 }
      match s.live.task with
      | none => .next t
      | some i => .next (t.modTask i fun x => { x with st := .stopping, why := 1 })
    else .next (s.wr rd 0))

/-- The notification ring of a context takes a record at once (R246, R380). -/
def noteReady (s : State) (ctx : BitVec 12) : Bool :=
  match s.ctx? ctx with
  | none => true
  | some c => c.noteRoom && c.noteq.isEmpty

/-- HOSTIRQ. -/
def execHostirq (g ra vec : BitVec 6) (s : State) : Out :=
  guarded g s fun s => ready s [ra] (memReady s (
    if !noteReady s s.live.ctx then hold s
    else
      let u := releaseAt s s.issue.core s.issue.kind 7
      .next (postNote u s.live.ctx (vec.toNat + 1) 2 vec.toNat (s.rd ra) (strandId s s.issue.core s.issue.kind))))

end Sys2Proof.Machine
end

