-- ==== Sys2Proof/Machine/Landing.lean ====
section
/-! DEFINITION. The Landing (R308 to R318): UNM.SETUP, UNM.REG, UNM.ROUND, UNM.FREE and LANDING_PERFORM. -/

namespace Sys2Proof.Machine

/-! ### The setup block (R309) -/

/-- `len`, `amt`, `cmin`, `cmax` and `mode` of a setup. -/
def unmLen (b : Block) : Nat := bfield b 0 48 16
@[inherit_doc unmLen] def unmAmt (b : Block) : Nat := bfield b 0 32 16
@[inherit_doc unmLen] def unmMin (b : Block) : Nat := bfield b 0 16 16
@[inherit_doc unmLen] def unmMax (b : Block) : Nat := bfield b 0 0 16
@[inherit_doc unmLen] def unmMode (b : Block) : Nat := bfield b 8 14 1

/-- `srow` and the address of the result record. -/
def unmRow (b : Block) : Nat := bfield b 0x38 0 32
@[inherit_doc unmRow] def unmRec (b : Block) : Nat := bfield b 0x40 0 64

/-- The records of a setup: mask, token, candidate, confidence and dirty map. -/
def unmRecs (b : Block) (rs : List Block) : List (Option Block) := [0x10, 0x18, 0x20, 0x28, 0x30].map (tidRec rs b)

/-! ### Slots (R308) -/

/-- A listed slot. -/
def findSlot (c : Cluster) (n : Nat) : Option LandingSlot := c.slots.find? fun l => l.num == n

/-- A slot without performed state. -/
def emptySlot (n : Nat) : LandingSlot where
  num := n
  owner := none
  accBlock := 0
  accRecs := []
  accRegs := []
  block := 0
  recs := []
  mask := 0
  round := 0
  groups := []
  st := .setting

/-- The cluster with a slot listed. -/
def withSlot (c : Cluster) (n : Nat) : Cluster :=
  if (findSlot c n).isSome then c else { c with slots := c.slots ++ [emptySlot n] }

/-- The state with a slot changed, which is listed from then on. -/
def State.modSlot (s : State) (lnd n : Nat) (f : LandingSlot → LandingSlot) : State :=
  s.modCluster lnd fun q =>
    let c := withSlot q n
    { c with slots := c.slots.map fun l => if l.num = n then f l else l }

/-- A slot's owner (R308). -/
def slotOwner (s : State) (lnd n : Nat) : Option (BitVec 12) :=
  match findSlot (s.cluster lnd) n with
  | none => none
  | some l => l.owner

/-! ### The checks of R316 -/

/-- A setup's check 0x1 but for the rank rule. -/
def setupBlockOk (s : State) (b : Block) : Bool :=
  bfield b 8 15 49 == 0 && [0x10, 0x18, 0x20, 0x28, 0x30].all (tidOk b) && bfield b 0x38 32 32 == 0 &&
  bfield b 0x48 0 448 == 0 && decide (1 ≤ unmLen b) && decide (unmLen b ≤ 8192) && decide (unmMin b ≤ 8192) &&
  decide (unmMax b ≤ 8192) && decide (unmMin b ≤ unmMax b) && (unmMode b == 0 || decide (unmAmt b ≤ 8192)) &&
  clusterWorks s (unmLnd (bfield b 8 0 64))

/-- An integer format of 8 to 32 bits. -/
def intFmt (f : Nat) : Bool := (5 ≤ f && f ≤ 7) || (11 ≤ f && f ≤ 13)

/-- Check 0x3 of a setup on its records. -/
def setupRecsOk (m t c f d : Block) : Bool :=
  recClass m == 3 && recClass d == 3 && recEfmt t == recEfmt c && intFmt (recEfmt t) &&
  (recEfmt f == 0 || recEfmt f == 2 || recEfmt f == 5) &&
  decide (recRank m ≤ 2) && recRank t == recRank m && recRank c == recRank m && recRank f == recRank m &&
  recRank d == recRank m + 1

/-- Check 0x4 of a setup on its records. -/
def setupFits (b m t c f d : Block) : Bool :=
  ([m, t, c, f, d].all fun r => decide (unmLen b ≤ recExt r 0)) &&
  (recRank m == 1 || (([m, t, c, f].all fun r => decide (unmRow b < recExt r 1)) && decide (unmRow b < recExt d 2)))

/-- The first reason to reject an UNM.SETUP. -/
def setupReason (s : State) (b : Block) : Option Nat :=
  let rs := unmRecs b s.issue.pre.recs
  let rank1 := allRecs (rs.take 4) fun r => recRank r == 1
  if !setupBlockOk s b || (rank1 && unmRow b != 0) then some 1
  else
    match rs with
    | [some m, some t, some c, some f, some d] =>
      if !setupRecsOk m t c f d then some 3
      else if !setupFits b m t c f d then some 4
      else if (slotOwner s (unmLnd (bfield b 8 0 64)) (unmSlot (bfield b 8 0 64))).any fun o => o != s.live.ctx then some 5
      else if unmRec b % 32 ≠ 0 ∨ 2 ^ 52 ≤ unmRec b then some 6
      else none
    | _ => some 2

/-- The pair of a registration. -/
def regPair (b : Block) : BitVec 24 × BitVec 24 := (BitVec.ofNat 24 (bfield b 8 0 24), BitVec.ofNat 24 (bfield b 0x10 0 24))

/-- `grp` and `radius` of a registration. -/
def regGrp (b : Block) : Nat := bfield b 0 32 4
@[inherit_doc regGrp] def regRadius (b : Block) : Nat := bfield b 0 16 16

/-- The pairs that a slot's accepted registrations list in a group. -/
def regList (l : LandingSlot) (g : Nat) : List (BitVec 24 × BitVec 24) :=
  (l.accRegs.filter fun x => x.1 == g).map fun x => x.2

/-- The first reason to reject an UNM.REG. -/
def regReason (s : State) (b : Block) : Option Nat :=
  let x := bfield b 0 0 64
  let slot := findSlot (s.cluster (unmLnd x)) (unmSlot x)
  if bfield b 0 36 28 != 0 || bfield b 0 14 2 != 0 || !tidOk b 8 || bfield b 0x10 24 40 != 0 || bfield b 0x18 0 64 != 0 ||
      decide (8191 < regRadius b) || !clusterWorks s (unmLnd x) then some 1
  else
    match tidRec s.issue.pre.recs b 8 with
    | none => some 2
    | some r =>
      if !recVersioned r || recRank r == 1 || recClass r == 2 || recClass r == 3 then some 3
      else if (slot.any fun l => l.owner.isSome && decide (recExt (l.accRecs.getD 4 0) 1 ≤ regGrp b)) ||
          decide (gridOuter r ≤ bfield b 0x10 0 24) then some 4
      else
        match slot with
        | none => some 5
        | some l =>
          if l.owner != some s.live.ctx then some 5
          else if !(regList l (regGrp b)).contains (regPair b) && decide (8 ≤ (regList l (regGrp b)).length) then some 7
          else none

/-- The first reason to reject an UNM.ROUND or an UNM.FREE with a slot register. -/
def slotReason (s : State) (x : Word) : Option Nat :=
  if x.extractLsb' 14 50 != 0 || !clusterWorks s (unmLnd x.toNat) then some 1
  else if slotOwner s (unmLnd x.toNat) (unmSlot x.toNat) != some s.live.ctx then some 5
  else none

/-! ### Issue -/

/-- A Landing command accepted into the queue of its Landing (R300); `acc` is what the acceptance leaves in the slot. -/
def landingAccept (i : Instr) (fn : Nat) (e : EngineWord) (lnd n : Nat) (b : Block) (recs : List Block)
    (acc : LandingSlot → LandingSlot) (s : State) : Out :=
  engineAccept s 0x31 fn i e b recs fun c t =>
    (t.modCluster lnd fun q => { q with lndq := q.lndq ++ [c] }).modSlot lnd n acc

/-- A Landing command at issue. -/
def landingIssue (s : State) (tok : BitVec 3) (f : State → Out) : Out := memReady s (if !cmdRoom s tok then hold s else f s)

/-- A Landing command judged: it waits while the queue of the Landing that it names is full, before a reason to reject it
counts (R123, R300); then it is rejected, or accepted. -/
def landingJudge (s : State) (lnd : Nat) (reason : Option Nat) (f : Out) : Out :=
  if engineDepth ≤ (s.cluster lnd).lndq.length then hold s
  else
    match reason with
    | some r => engineReject s r
    | none => f

/-- UNM.SETUP. Its block names its Landing, so the room there is judged last (log 114). -/
def execUnmSetup (g : BitVec 6) (e : EngineWord) (s : State) : Out :=
  guarded g s fun s => ready s [e.sa] (landingIssue s e.tok fun s =>
    engineBlock s (s.rd e.sa) 128 fun b =>
      let x := bfield b 8 0 64
      let rs := (unmRecs b s.issue.pre.recs).filterMap id
      landingJudge s (unmLnd x) (setupReason s b)
        (landingAccept (.unmSetup g e) 0 e (unmLnd x) (unmSlot x) b rs
          (fun l => { l with owner := some s.live.ctx, accBlock := b, accRecs := rs, accRegs := [] }) s))

/-- UNM.REG. -/
def execUnmReg (g : BitVec 6) (e : EngineWord) (s : State) : Out :=
  guarded g s fun s => ready s [e.sa] (landingIssue s e.tok fun s =>
    engineBlock s (s.rd e.sa) 32 fun b =>
      let x := bfield b 0 0 64
      landingJudge s (unmLnd x) (regReason s b)
        (landingAccept (.unmReg g e) 1 e (unmLnd x) (unmSlot x) b (tidRec s.issue.pre.recs b 8).toList
          (fun l =>
            if (regList l (regGrp b)).contains (regPair b) then l
            else { l with accRegs := l.accRegs ++ [(regGrp b, regPair b)] }) s))

/-- UNM.ROUND. -/
def execUnmRound (g : BitVec 6) (e : EngineWord) (s : State) : Out :=
  guarded g s fun s => ready s [e.sa] (landingIssue s e.tok fun s =>
    let x := s.rd e.sa
    landingJudge s (unmLnd x.toNat) (slotReason s x)
      (landingAccept (.unmRound g e) 2 e (unmLnd x.toNat) (unmSlot x.toNat) 0 [] id s))

/-- UNM.FREE. -/
def execUnmFree (g : BitVec 6) (e : EngineWord) (s : State) : Out :=
  guarded g s fun s => ready s [e.sa] (landingIssue s e.tok fun s =>
    let x := s.rd e.sa
    landingJudge s (unmLnd x.toNat) (slotReason s x)
      (landingAccept (.unmFree g e) 3 e (unmLnd x.toNat) (unmSlot x.toNat) 0 []
        (fun l => { l with owner := none, accBlock := 0, accRecs := [], accRegs := [] }) s))

/-! ### Performing (R309 to R312) -/

/-- The slot that a command names. -/
def cmdSlot (c : EngineCmd) : Nat := unmSlot (cmdPlace c)

/-- The element of a position. -/
def posElem (b : Block) (x : Nat) : List Nat := [x, unmRow b]

/-- The element of a position in a row of the dirty map. -/
def dirtyElem (b : Block) (x g : Nat) : List Nat := [x, g, unmRow b]

/-- A number from its bits, bit 0 first. -/
def bitsNum : List Nat → Nat
  | [] => 0
  | x :: xs => x % 2 + 2 * bitsNum xs

/-- A setup performed: the slot's state replaced, its mask read (R309). -/
def performSetup (s : State) (lnd : Nat) (c : EngineCmd) : Except AccFail State := do
  let b := c.block
  let is := (List.range (unmLen b)).map (posElem b)
  let bits ← readElems c.party s lnd c.ctx (c.recs.getD 0 0) is
  let m : BitVec 8192 := BitVec.ofNat 8192 (bitsNum bits)
  .ok ((markElems s lnd c.ctx (c.recs.getD 0 0) is).modSlot lnd (cmdSlot c) fun l =>
    { l with block := b, recs := c.recs, mask := m, round := 0, groups := [], st := if m = 0 then .done else .ready })

/-- A group's registrations with one more (R310). -/
def addReg (gs : List LayerGroup) (b r : Block) : List LayerGroup :=
  let n := regGrp b
  let e := ((regPair b).1, (regPair b).2, r)
  if gs.any fun g => g.num == n then
    gs.map fun g =>
      if g.num = n then
        { g with radius := regRadius b,
                 tensors := if g.tensors.any fun t => t.1 == e.1 && t.2.1 == e.2.1 then g.tensors else g.tensors ++ [e] }
      else g
  else gs ++ [{ num := n, radius := regRadius b, tensors := [e] }]

/-- The number of positions that a round commits (R312). -/
def commitCount (b : Block) (mc : Nat) : Nat :=
  let c := if unmMode b = 0 then (unmAmt b * mc + 65535) / 65536 else unmAmt b
  min (min (max c (unmMin b)) (unmMax b)) mc

/-- The positions that a group's radius makes dirty (R312). -/
def dirtySet (len radius : Nat) (cs : List Nat) : List Nat :=
  (List.range len).filter fun y => cs.any fun x => decide (y ≤ x + radius) && decide (x ≤ y + radius)

/-- The tiles that a group raises (R312). -/
def groupRaises (ctx : BitVec 12) (g : LayerGroup) (ds : List Nat) : List (TileKey × Block) :=
  g.tensors.flatMap fun t =>
    let r := t.2.2
    ((List.range (gridRows r)).filter fun row => ds.any fun y => y / recRows r == row).flatMap fun row =>
      (List.range (gridCols r)).map fun u => (tileKey ctx r t.2.1.toNat row u, r)

/-- The result record of a round (R312). -/
def roundRecord (s : State) (ncom nrem round nraise : Nat) : List Byte :=
  leBytes 4 ncom ++ leBytes 4 nrem ++ leBytes 4 round ++ leBytes 4 nraise ++ leBytes 8 s.now ++ leBytes 8 0

/-- A round on a slot up to its raises, which are sent to their homes (R312); its result record comes after them. -/
def performRound (s : State) (lnd : Nat) (c : EngineCmd) (l : LandingSlot) : Except AccFail State := do
  let b := l.block
  let rec4 := fun i => l.recs.getD i 0
  let ms := (List.range (unmLen b)).filter fun x => l.mask.getLsbD x
  let n := commitCount b ms.length
  let conf ← readElems c.party s lnd c.ctx (rec4 3) (ms.map (posElem b))
  let order := rankKeys ((ms.zip conf).map fun x => (x.1, (valOf (recEfmt (rec4 3)) x.2).1))
  let cs := order.take n
  let cand ← readElems c.party s lnd c.ctx (rec4 2) (cs.map (posElem b))
  let mask : BitVec 8192 := BitVec.ofNat 8192 (bitsNum ((List.range (unmLen b)).map fun x =>
    if l.mask.getLsbD x && !cs.contains x then 1 else 0))
  let s1 := markElems (markElems s lnd c.ctx (rec4 3) (ms.map (posElem b))) lnd c.ctx (rec4 2) (cs.map (posElem b))
  let s2 ← writeElems c.party lnd c.ctx (rec4 1) ((cs.map (posElem b)).zip cand) s1
  let s3 ← writeElems c.party lnd c.ctx (rec4 0)
    ((List.range (unmLen b)).map fun x => (posElem b x, if mask.getLsbD x then 1 else 0)) s2
  let dirty := l.groups.map fun g => (g, dirtySet (unmLen b) g.radius cs)
  let s4 ← writeElems c.party lnd c.ctx (rec4 4)
    ((dirty.filter fun d => d.1.num < recExt (rec4 4) 1).flatMap fun d =>
      (List.range (unmLen b)).map fun y => (dirtyElem b y d.1.num, if d.2.contains y then 1 else 0)) s3
  let rs := dirty.flatMap fun d => groupRaises c.ctx d.1 d.2
  let s5 : State :=
    { s4 with raises := s4.raises ++ rs.map fun x => { key := x.1, lrec := x.2, cluster := lnd, cmd := c.id } }
  .ok ((s5.modSlot lnd l.num fun l => { l with mask := mask, round := l.round + 1, st := .rounding }).modEngineCmd c.id fun c =>
    { c with begun := true, result := [n, ms.length - n, (l.round.toNat + 1) % 2 ^ 32, rs.length] })

/-- A round whose raises are all performed writes its result record, and is performed (R312, R320). -/
def recordRound (s : State) (lnd : Nat) (c : EngineCmd) : State :=
  if s.raises.any fun r => r.cmd == c.id then s
  else
    match findSlot (s.cluster lnd) (cmdSlot c) with
    | none => s
    | some l =>
      let n := fun i => c.result.getD i 0
      settleCmd s c (0x500 + lnd) 0x14
        (enginePutAs c.party lnd c.ctx (unmRec l.block) (roundRecord s (n 0) (n 1) (n 2) (n 3)) s)

/-- A free performed (R308, R311): the slot is free; it stays listed while commands accepted behind the free are queued. -/
def performFree (s : State) (lnd n : Nat) : State :=
  s.modSlot lnd n fun l =>
    { emptySlot n with owner := l.owner, accBlock := l.accBlock, accRecs := l.accRecs, accRegs := l.accRegs,
                       st := if l.owner.isNone then .free else .setting }

/-- A Landing command performed; a round goes on to its result record. -/
def performLanding (s : State) (lnd : Nat) (c : EngineCmd) : State :=
  let settle := settleCmd s c (0x500 + lnd) 0x14
  match c.fn with
  | 0 => settle (performSetup s lnd c)
  | 1 => settle (.ok (s.modSlot lnd (cmdSlot c) fun l => { l with groups := addReg l.groups c.block (c.recs.getD 0 0) }))
  | 2 =>
    (match findSlot (s.cluster lnd) (cmdSlot c) with
     | none => settle (.ok s)
     | some l =>
       match performRound s lnd c l with
       | .error f => settle (.error f)
       | .ok t =>
         match (t.cluster lnd).lndq.find? fun d => d.id == c.id with
         | none => t
         | some d => recordRound t lnd d)
  | _ => settle (.ok (performFree s lnd (cmdSlot c)))

/-- LANDING_PERFORM (R301): the first command of a slot, once those before it have completed; or the result record of a round
whose raises have been performed. -/
def execLandingPerform (lnd slot : Nat) (s : State) : Out :=
  match (s.cluster lnd).lndq.find? fun c => cmdSlot c == slot with
  | none => .next s
  | some c =>
    .next (if !c.begun then (if olderOverlap s c then s else performLanding s lnd c)
      else if !c.done && !c.failed then recordRound s lnd c
      else s)

end Sys2Proof.Machine
end

