-- ==== Sys2Proof/Machine/Frames.lean ====
section
/-! DEFINITION. The free list of frames (R360, R361), promotions (R176, R364) and returns (R365) of pages. -/

namespace Sys2Proof.Machine

/-! ### Page-table entries (R357, R358) -/

/-- The physical address of the level-3 entry of an address, where valid tables lead to one. -/
def pteFrom (s : State) (va : Nat) : Nat → List (Nat × Nat) → Option Nat
  | _, [] => none
  | tbl, (shift, n) :: rest =>
    let addr := tbl + 8 * bitsAt va shift n
    if rest.isEmpty then some addr
    else
      match readPhys s addr 8 with
      | .error _ => none
      | .ok bs =>
        let e := leNat bs
        if bitsAt e 0 2 = 1 then pteFrom s va (bitsAt e 14 38 * 2 ^ 14) rest else none

/-- The physical address of the level-3 entry of an address of a context. -/
def pteAddr (s : State) (ctx : BitVec 12) (va : Nat) : Option Nat :=
  match s.ctx? ctx with
  | none => none
  | some c => pteFrom s va c.ptroot walkLevels

/-- An entry with a frame put into it. -/
def pteWithFrame (e frame : Nat) : Nat := setBits e 14 38 (frame / 2 ^ 14)

/-- An entry backed by a frame (R362): `v`, `leaf`, `r` and `w` set, its other attributes kept. -/
def pteBacked (e frame : Nat) : Nat := setBits (pteWithFrame e frame) 0 4 15

/-- The state with the 8-byte table entry of an address of a context written; the walk-error fault where its granule holds an
uncorrectable error, since a part write of it is dropped (R285, R349). -/
def writePte (s : State) (ctx : BitVec 12) (va addr e : Nat) : State :=
  let r := writePhys false s addr (leBytes 8 e)
  match r.2 with
  | none => r.1
  | some _ => s.postFault ctx 0x12 0 0x200 0 (BitVec.ofNat 64 va) 0

/-- An entry as it stands in memory. -/
def readPte (s : State) (addr : Nat) : Nat := leNat (readBytes s.mem addr 8)

/-! ### The free list (R360, R361) -/

/-- The control block as it is read: its physical address, `ring`, `size`, `head` and `tail`. -/
structure FreeList where
  pa : Nat
  ring : Nat
  size : Nat
  head : Word
  tail : Word

/-- What R360 asks of a control block. -/
def freeListOk (b : Block) : Bool :=
  bfield b 0 0 64 % 8 == 0 && powerIn 4 20 (bfield b 8 0 32) && bfield b 0x0C 0 32 == 0 && bfield b 0x20 0 256 == 0 &&
  decide ((BitVec.ofNat 64 (bfield b 0x18 0 64) - BitVec.ofNat 64 (bfield b 0x10 0 64)).toNat ≤ bfield b 8 0 32)

/-- The control block of a context: none without one, or the address that the arena-backing fault names. -/
def freeList (s : State) (cl : Nat) (c : Context) : Except Nat (Option FreeList) :=
  let va := c.kvfree.toNat
  if va = 0 then .ok none
  else
    match translate s cl c.id va .read with
    | .ok pa _ _ =>
      (match readPhys s pa 64 with
       | .error _ => .error va
       | .ok bs =>
         let b := blockOf bs
         if freeListOk b then
           .ok (some { pa := pa, ring := bfield b 0 0 64, size := bfield b 8 0 32,
                       head := BitVec.ofNat 64 (bfield b 0x10 0 64), tail := BitVec.ofNat 64 (bfield b 0x18 0 64) })
         else .error va)
    | .noMap => .error va
    | .onDemand _ => .error va
    | .forbidden => .error va
    | .malformed => .error va
    | .poisoned _ => .error va

/-- The frames that a ring supplies. -/
def ringCount (f : Option FreeList) : Nat :=
  match f with
  | none => 0
  | some f => (f.tail - f.head).toNat

/-- The frames that a KVAPP entry which has begun has still to take: it found them available, and takes them one at a time
(R373, log 118). -/
def KvRun.owed (r : KvRun) : Nat := r.pages.length - (if r.frame.isSome then 1 else 0)

/-- The frames of a context that entries in progress have still to take. -/
def framesOwed (s : State) (ctx : BitVec 12) : Nat :=
  (s.cores.map fun c => if c.2.ctx == ctx then (c.2.kvRun.map KvRun.owed).getD 0 else 0).sum

/-- The frames available to a context. -/
def framesFree (s : State) (cl : Nat) (c : Context) : Except Nat Nat :=
  match freeList s cl c with
  | .error va => .error va
  | .ok f => .ok (c.stash.length + ringCount f - framesOwed s c.id)

/-- A well-formed ring entry: a frame in HBM, every other bit zero. -/
def frameOk (e : Nat) : Bool := e % 2 ^ 14 == 0 && decide (e < 0x9000000000)

/-- The entry at a ring's head: the frame, or the address that the fault names. One that cannot be read is taken as malformed,
which is the model's choice (R361, log 123). -/
def ringEntry (s : State) (cl : Nat) (ctx : BitVec 12) (f : FreeList) : Except Nat Nat :=
  let va := f.ring + 8 * (f.head.toNat % f.size)
  match translate s cl ctx va .read with
  | .ok pa _ _ =>
    (match readPhys s pa 8 with
     | .error _ => .error va
     | .ok bs => if frameOk (leNat bs) then .ok (leNat bs) else .error va)
  | .noMap => .error va
  | .onDemand _ => .error va
  | .forbidden => .error va
  | .malformed => .error va
  | .poisoned _ => .error va

/-- The state without what caches and readers keep of a frame's former page: its scalar lines in every core, and with `all` the
writes of it that some reader has not found (R363). -/
def forgetFrame (all : Bool) (s : State) (frame : Nat) : State :=
  { s with
    cores := s.cores.map fun c => (c.1, { c.2 with scache := c.2.scache.filter fun l => !inFrame frame (64 * l.1) })
    hist := if all then s.hist.filter fun w => !inFrame frame w.granule else s.hist }

/-- A frame in the hands of a new page (R363). -/
def freshFrame (x : Nat × State) : Nat × State := (x.1, forgetFrame true x.2 x.1)

/-- The writes of a page with the page in another frame: what a reader finds does not change with the frame (R364, R365). The
scalar lines of the frame that it leaves go. -/
def movePage (s : State) (a b : Nat) : State :=
  let t := forgetFrame false s a
  { t with hist := t.hist.map fun w => if inFrame a w.granule then { w with granule := w.granule - a + b } else w }

/-- A frame taken: from the stash first, then from the ring; none when there is no frame. -/
def takeFrame (s : State) (cl : Nat) (c : Context) : Except Nat (Option (Nat × State)) :=
  match freeList s cl c with
  | .error va => .error va
  | .ok f =>
    match c.stash with
    | x :: rest => .ok (some (freshFrame (x, s.modCtx c.id fun c => { c with stash := rest })))
    | [] =>
      match f with
      | none => .ok none
      | some f =>
        if f.head = f.tail then .ok none
        else
          match ringEntry s cl c.id f with
          | .error va => .error va
          | .ok x => .ok (some (freshFrame (x, (writePhys false s (f.pa + 0x10) (leBytes 8 (f.head + 1).toNat)).1)))

/-- A frame taken by who has none to come: none while every frame is owed to an entry in progress. -/
def takeSpare (s : State) (cl : Nat) (c : Context) : Except Nat (Option (Nat × State)) :=
  match framesFree s cl c with
  | .ok 0 => .ok none
  | _ => takeFrame s cl c

/-- A frame put back: into the stash, or into the host's reclaim queue when the stash is full. -/
def stashFrame (s : State) (ctx : BitVec 12) (x : Nat) : State :=
  s.modCtx ctx fun c =>
    if c.stash.length < 256 then { c with stash := c.stash ++ [x] } else { c with reclaim := c.reclaim ++ [x] }

/-- The arena-backing fault (R369). -/
def State.arenaFault (s : State) (ctx : BitVec 12) (va : Nat) : State :=
  s.postFault ctx 0x21 0 0x7FF 0 (BitVec.ofNat 64 va) 0

/-! ### PROMOTE (R176, R364) -/

/-- The range of a promotion is aligned, and neither empty nor longer than 2^40. -/
def promoteOk (a len : Word) : Bool :=
  a.toNat % 0x4000 == 0 && len.toNat % 0x4000 == 0 && len != 0 && decide (len.toNat ≤ 2 ^ 40)

/-- The far-tier frame of a page that a promotion moves: a 16 KiB leaf without `fix`. -/
def promotable (s : State) (cl : Nat) (ctx : BitVec 12) (va : Nat) : Option Nat :=
  match lookupVa s cl ctx va with
  | .ok pa leaf bits =>
    if bits = 14 ∧ memKind s pa = .far ∧ leaf.getLsbD 52 = false then some pa else none
  | .noMap => none
  | .onDemand _ => none
  | .malformed => none
  | .poisoned _ => none
  | .forbidden => none

/-- The fault that a promotion meets at a page (R285): the walk-error fault, or the copy-access fault of a page that is not
mapped or forbids the read of a move; such a page is left as it is, as is one that is to be backed on demand (R176, log 39). -/
def promoteFault (s : State) (cl : Nat) (ctx : BitVec 12) (va : Nat) : Option FaultRec :=
  let rec_ := fun (code : BitVec 8) (unit : Word) =>
    ({ code := code, reason := 0, more := 0, ctx := ctx, unit := unit, pc := 0, val := BitVec.ofNat 64 va, time := s.counter,
       fqw := 0 } : FaultRec)
  match lookupVa s cl ctx va with
  | .malformed => some (rec_ 0x12 0x200)
  | .poisoned _ => some (rec_ 0x12 0x200)
  | .ok _ leaf _ => if leaf.getLsbD 2 then none else some (rec_ 0x10 0x100)
  | .noMap => some (rec_ 0x10 0x100)
  | .onDemand _ => none
  | .forbidden => none

/-- The pages of a range. -/
def pagesOf (a len : Nat) : List Nat := (List.range (len / 0x4000)).map fun i => a + 0x4000 * i

/-- The moves that a promotion asks for, numbered from `id`. -/
def promoteMoves (s : State) (tok : BitVec 3) (id cmd deadline : Nat) (lu : Bool) (vas : List Nat) : List PageMove :=
  vas.zipIdx.filterMap fun x =>
    match promotable s (coreCluster s.issue.core) s.live.ctx x.1 with
    | none => none
    | some pa =>
      some { id := id + x.2, ctx := s.live.ctx, core := s.issue.core, task := s.live.task, tok := tok.toNat, cmd := cmd,
             va := x.1, old := pa, new := 0, lu := lu, deadline := deadline, st := .wait, copied := 0, read := 0,
             wrote := 0, inval := none }

/-- A move that completes is counted late when its deadline has passed, and so is a promotion without a page to move
(R176, R364, R368). -/
def countLate (s : State) (ctx : BitVec 12) (deadline : Nat) : State :=
  if deadline ≠ 0 ∧ deadline < s.now then s.modCtx ctx fun c => { c with promoLate := c.promoLate + 1 } else s

/-- PROMOTE: an accepted range asks for its moves; one without a page to move completes at once. -/
def promoteAccepted (s : State) (tok : BitVec 3) (a len : Nat) (deadline : Word) (lu : Bool) : State :=
  let cl := coreCluster s.issue.core
  let vas := pagesOf a len
  let ms := promoteMoves s tok (s.nextId + 1) s.nextId deadline.toNat lu vas
  let t := match vas.findSome? fun v => promoteFault s cl s.live.ctx v with
    | none => s
    | some f => { s with posts := s.posts ++ [f] }
  if ms.isEmpty then countLate t s.live.ctx deadline.toNat
  else { t.modTok tok Token.accept with moves := t.moves ++ ms, nextId := t.nextId + 1 + vas.length }

/-- PROMOTE. -/
def execPromote (g : BitVec 6) (tok : BitVec 3) (ra rb dr : BitVec 6) (lu : BitVec 1) (s : State) : Out :=
  guarded g s fun s => ready s [ra, rb, dr] (memReady s (
    if (s.live.tok tok.toNat).count = 63 then hold s
    else if !promoteOk (s.rd ra) (s.rd rb) then .next (s.modTok tok fun t => t.reject 8)
    else .next (promoteAccepted s tok (s.rd ra).toNat (s.rd rb).toNat (s.rd dr) (lu == 1))))

/-! ### Moves (R364, R365) -/

/-- The state with one move replaced. -/
def setMove (s : State) (m : PageMove) : State := { s with moves := s.moves.map fun x => if x.id = m.id then m else x }

/-- The `z` attribute of a move's page. -/
def moveZ (s : State) (m : PageMove) : Bool :=
  match lookupVa s (coreCluster m.core) m.ctx m.va with
  | .ok _ leaf _ => leafZ leaf
  | .noMap => false
  | .onDemand _ => false
  | .malformed => false
  | .poisoned _ => false
  | .forbidden => false

/-- The lines of a frame named by a map copied to another frame. -/
def copyLines (z : Bool) (s : State) (a b : Nat) (lines : Nat → Bool) : State :=
  (List.range 64).foldl (fun t i => if lines i then copyLine z t (a + 256 * i) (b + 256 * i) else t) s

/-- No load, store or atomic that was translated to a frame is outstanding in any core, so that none reaches the frame once
its page has left it (R364, R365). -/
def frameIdle (s : State) (frame : Nat) : Bool :=
  s.cores.all fun c => (c.2.loads.all fun l => !inFrame frame l.pa) && c.2.stores.all fun t => !inFrame frame t.pa

/-- The leaf of a move's page rewritten to a frame, with its `lu` bit. -/
def moveLeaf (s : State) (m : PageMove) (frame : Nat) (lu : Bool) : State :=
  match pteAddr s m.ctx m.va with
  | none => s
  | some p => writePte s m.ctx m.va p (setBits (pteWithFrame (readPte s p) frame) 53 1 (if lu then 1 else 0))

/-- The leaf switched and the context's mappings invalidated; the move waits for the invalidation. -/
def switchMove (s : State) (m : PageMove) (frame : Nat) (lu : Bool) (st : MoveState) : State :=
  let id := s.nextId
  let t := startInval (moveLeaf s m frame lu) m.ctx false
  setMove t { m with st := st, inval := some id }

/-- The invalidation that a move waits for has completed. -/
def invalDone (s : State) (m : PageMove) : Bool :=
  match m.inval with
  | none => true
  | some i => !(s.invals.any fun v => v.id == i)

/-- The moves of a command that are not resident yet. -/
def movesLeft (s : State) (cmd : Nat) : Bool :=
  s.moves.any fun m => m.cmd == cmd && (m.st == .wait || m.st == .copying || m.st == .switching)

/-- A move that completes is counted when it is late; the promotion whose pages are all resident completes, and its token falls
by one. -/
def promoteDone (s : State) (m : PageMove) : State :=
  let t := countLate s m.ctx m.deadline
  if movesLeft t m.cmd then t
  else
    if m.task.isSome && (t.core m.core).task == m.task then t.modCore m.core fun c => c.setTok m.tok (c.tok m.tok).complete
    else t

/-- Another move of the same page is under way. -/
def pageMoving (s : State) (m : PageMove) : Bool :=
  s.moves.any fun x => x.id != m.id && x.ctx == m.ctx && x.va == m.va &&
    (x.st == .copying || x.st == .switching || x.st == .returning)

/-- A move taken out of the list. -/
def dropMove (s : State) (m : PageMove) : State := { s with moves := s.moves.filter fun x => x.id != m.id }

/-- The state with the fault that a promotion meets at a page posted. -/
def promotePost (s : State) (cl : Nat) (ctx : BitVec 12) (va : Nat) : State :=
  match promoteFault s cl ctx va with
  | none => s
  | some f => { s with posts := s.posts ++ [f] }

/-- A waiting move takes a frame, the moves of a context in order; without one it goes on waiting. A page that another
move has brought to HBM meanwhile needs none, and one that is no longer mapped raises its fault. -/
def startMove (s : State) (m : PageMove) : State :=
  match s.moves.find? fun x => x.ctx == m.ctx && x.st == .wait with
  | none => s
  | some f =>
    if f.id ≠ m.id ∨ pageMoving s m = true then s
    else if promotable s (coreCluster m.core) m.ctx m.va ≠ some m.old then
      promoteDone (dropMove (promotePost s (coreCluster m.core) m.ctx m.va) m) m
    else
      match s.ctx? m.ctx with
      | none => s
      | some c =>
        match takeSpare s (coreCluster m.core) c with
        | .error va => s.arenaFault m.ctx va
        | .ok none => s
        | .ok (some x) => setMove x.2 { m with new := x.1, st := .copying }

/-- PAGE_MIGRATION_COPY: a waiting move takes its frame, and a copying one copies its lines and enters switching. -/
def execPageMigrationCopy (idx : Nat) (s : State) : Out :=
  match s.moves[idx]? with
  | none => .next s
  | some m =>
    match m.st with
    | .wait => .next (startMove s m)
    | .copying =>
      let t := copyLines (moveZ s m) s m.old m.new fun i => !m.copied.getLsbD i
      .next (switchMove t { m with copied := 0xFFFF_FFFF_FFFF_FFFF#64 } m.new m.lu .switching)
    | _ => .next s

/-- PAGE_MIGRATION_SWITCH: the invalidation has completed, no access to the old frame is outstanding, and the page is resident.
One without `lu` is done with its far frame, which goes back to the module's far pool. -/
def execPageMigrationSwitch (idx : Nat) (s : State) : Out :=
  match s.moves[idx]? with
  | none => .next s
  | some m =>
    if m.st = .switching ∧ invalDone s m = true ∧ frameIdle s m.old = true then
      let t := movePage s m.old m.new
      .next (promoteDone
        (if m.lu then setMove t { m with st := .resident, inval := none, read := 0, wrote := 0 }
         else { dropMove t m with farPool := s.farPool ++ [m.old] }) m)
    else .next s

/-- PAGE_RETURN (R365): once every line has been read, the lines written are copied back and the leaf switched; when
the invalidation has completed and no access to the HBM frame is outstanding, it goes to the stash. -/
def execPageReturn (idx : Nat) (s : State) : Out :=
  match s.moves[idx]? with
  | none => .next s
  | some m =>
    match m.st with
    | .resident =>
      if m.read = 0xFFFF_FFFF_FFFF_FFFF#64 then
        .next (switchMove (copyLines (moveZ s m) s m.new m.old fun i => m.wrote.getLsbD i) m m.old false .returning)
      else .next s
    | .returning =>
      if invalDone s m && frameIdle s m.new then
        .next (stashFrame (dropMove (movePage s m.new m.old) m) m.ctx m.new)
      else .next s
    | _ => .next s

end Sys2Proof.Machine
end

