-- ==== Sys2Proof/Machine/Kvapp.lean ====
section
/-! DEFINITION. KVAPP (R177 to R181, R362, R373): a batch of key and value rows appended to two arenas, entry by
entry, each wholly or not at all. -/

namespace Sys2Proof.Machine

/-! ### Entries (R178) -/

/-- An entry from its 32 bytes. -/
def kvEntry (bs : List Byte) : KvEntry :=
  let b := blockOf bs
  { slot := bfield b 0 0 32, zero := bfield b 4 0 32, lenp := bfield b 8 0 64, ksrc := bfield b 0x10 0 64,
    vsrc := bfield b 0x18 0 64 }

/-- What stops a batch: a trap after issue with its code and value, or a fault. -/
inductive KvStop where
  | trap (code : Nat) (val : Nat)
  | walk (va : Nat)
  | data (granule : Nat)
  | arena (va : Nat)

/-- The row size of an arena (R177). -/
def rowBytes (r : Block) : Nat := recExt r 0 * fmtWidth (recEfmt r) / 8

/-- The address of a row (R177). -/
def rowAddr (r : Block) (slot x : Nat) : Nat :=
  intBits 64 ((recBase r : Int) + (slot : Int) * recStr r 2 + (x : Int) * recStr r 1)

/-! ### Addresses and pages -/

/-- The pieces of a byte range within one page each: address and length. -/
def pieces (va n : Nat) : List (Nat × Nat) :=
  if n = 0 then []
  else (List.range ((va + n - 1) / 0x4000 - va / 0x4000 + 1)).map fun i =>
    let lo := Nat.max va ((va / 0x4000 + i) * 0x4000)
    (lo, Nat.min (va + n) ((va / 0x4000 + i + 1) * 0x4000) - lo)

/-- The first stop of a list of checks. -/
def firstStop (xs : List (Option KvStop)) : Option KvStop := xs.findSome? id

/-- The first piece of a byte range without a valid mapping (R153). `ond` says that a page to be backed on demand is no
failure. -/
def mapFail (s : State) (cl : Nat) (ctx : BitVec 12) (va n : Nat) (ond : Bool) : Option KvStop :=
  (pieces va n).findSome? fun p => match lookupVa s cl ctx p.1 with
    | .noMap => some (KvStop.trap 10 p.1)
    | .onDemand _ => if ond then none else some (KvStop.trap 10 p.1)
    | .malformed => some (KvStop.walk p.1)
    | .poisoned _ => some (KvStop.walk p.1)
    | .ok _ _ _ => none
    | .forbidden => none

/-- The first piece of a byte range whose page forbids the access. -/
def permFail (s : State) (cl : Nat) (ctx : BitVec 12) (va n : Nat) (acc : Access) : Option KvStop :=
  (pieces va n).findSome? fun p => match translate s cl ctx p.1 acc with
    | .forbidden => some (KvStop.trap 11 p.1)
    | _ => none

/-- The first failure of a byte range: no valid mapping before permission (R153). -/
def rangeStop (s : State) (cl : Nat) (ctx : BitVec 12) (va n : Nat) (acc : Access) (ond : Bool) : Option KvStop :=
  firstStop [mapFail s cl ctx va n ond, permFail s cl ctx va n acc]

/-- A misaligned address. -/
def alignStop (va n : Nat) : Option KvStop := if va % n = 0 then none else some (.trap 1 va)

/-- The table entries of the pages to be backed that a byte range touches, with an address in each page. -/
def unbacked (s : State) (cl : Nat) (ctx : BitVec 12) (va n : Nat) : List (Nat × Nat) :=
  (pieces va n).filterMap fun p => match translate s cl ctx p.1 .write with
    | .onDemand e => some (e, p.1)
    | _ => none

/-- Pages named once each, in order. -/
def onePerPage (xs : List (Nat × Nat)) : List (Nat × Nat) :=
  xs.foldl (fun acc x => if acc.any fun y => y.1 == x.1 then acc else acc ++ [x]) []

/-- A leaf written by compare-and-write (R362): only while the entry has `v` 0; else the frame goes back. -/
def writeLeaf (ctx : BitVec 12) (va : Nat) (s : State) (e frame : Nat) : State :=
  if readPte s e % 2 = 0 then writePte s ctx va e (pteBacked (readPte s e) frame) else stashFrame s ctx frame

/-! ### Rows and lengths on path T (R128, R181, R255) -/

/-- The A strand as the party of a KVAPP's accesses of rows and length words. -/
def kvParty (s : State) (n : Nat) : Party :=
  { path := 1, core := n, task := (s.core n).task, kind := .a, id := s.nextId, reach := 1 }

/-- The elements of a line as they stand in memory: the address of the first bit, the width and the bits. -/
def memElems (l : TileLine) : List ((Nat × Nat) × Nat × Nat × Nat) :=
  (tileCells l.lrec).filterMap fun x =>
    (tileIdx l.lrec l.key.outer.toNat l.key.trow.toNat l.key.tcol.toNat x.1 x.2).map fun idx =>
      let a := elemAddr l.lrec idx
      (x, 8 * a.1 + a.2, fmtWidth (recEfmt l.lrec),
       (convert (recTfmt l.lrec) (recEfmt l.lrec) .rne false (lineElem l.lrec l.data x.1 x.2)).1)

/-- Bytes at an address with a line's elements laid over them. -/
def underLine (va len : Nat) (x : Nat) (l : TileLine) : Nat :=
  (memElems l).foldl
    (fun y e =>
      let lo := Nat.max e.2.1 (8 * va)
      let hi := Nat.min (e.2.1 + e.2.2.1) (8 * (va + len))
      if lo < hi then setBits y (lo - 8 * va) (hi - lo) (e.2.2.2 / 2 ^ (lo - e.2.1)) else y) x

/-- A line with the bytes of an address put into those of its elements that they touch. -/
def lineTakes (va : Nat) (bs : List Byte) (l : TileLine) : TileLine :=
  let d := (memElems l).foldl
    (fun d e =>
      let lo := Nat.max e.2.1 (8 * va)
      let hi := Nat.min (e.2.1 + e.2.2.1) (8 * (va + bs.length))
      if lo < hi then
        let x := setBits e.2.2.2 (lo - e.2.1) (hi - lo) (leNat bs / 2 ^ (lo - 8 * va))
        setLineElem l.lrec d e.1.1 e.1.2 (convert (recEfmt l.lrec) (recTfmt l.lrec) .rne false x).1
      else d) l.data
  { l with data := d }

/-- A line of a context that may be read. -/
def TileLine.serves (ctx : BitVec 12) (l : TileLine) : Bool := l.key.ctx == ctx && l.readable

/-- The bits of a byte range that a line's elements hold, as a mask. -/
def lineMask (va len : Nat) (x : Nat) (l : TileLine) : Nat :=
  (memElems l).foldl
    (fun y e =>
      let lo := Nat.max e.2.1 (8 * va)
      let hi := Nat.min (e.2.1 + e.2.2.1) (8 * (va + len))
      if lo < hi then setBits y (lo - 8 * va) (hi - lo) (2 ^ (hi - lo) - 1) else y) x

/-- A line holds a byte of a range. -/
def lineHolds (va len : Nat) (l : TileLine) : Bool := lineMask va len 0 l != 0

/-- The lines of core `n`'s hall and alcove that may hold an address, the alcove's last. -/
def nearLines (s : State) (n : Nat) (ctx : BitVec 12) : List TileLine :=
  ((s.cluster (coreCluster n)).hall.filter (TileLine.serves ctx)) ++ (s.core n).alcove.filter (TileLine.serves ctx)

/-- Bytes read through a translation, page by page: the alcove's, then the hall's, then memory's. -/
def readRange (s : State) (n : Nat) (ctx : BitVec 12) : List (Nat × Nat) → Except KvStop (List Byte)
  | [] => .ok []
  | p :: ps =>
    match translate s (coreCluster n) ctx p.1 .read with
    | .ok pa _ _ =>
      (match readPhys (s.asSeen (kvParty s n)) pa p.2 with
       | .error g => .error (.data g)
       | .ok bs =>
         match readRange s n ctx ps with
         | .error e => .error e
         | .ok cs => .ok (leBytes p.2 ((nearLines s n ctx).foldl (underLine p.1 p.2) (leNat bs)) ++ cs))
    | _ => .error (.trap 10 p.1)

/-- The use of the lines that a read or a write of a range hits (R138, R279). -/
def touchRange (s : State) (n : Nat) (ctx : BitVec 12) (va len : Nat) : State :=
  let hit := fun (l : TileLine) => l.serves ctx && lineHolds va len l
  (s.modCore n fun c => (c.alcove.filter hit).foldl (fun c l => touchAlcove c l.bank l.way) c).modCluster (coreCluster n)
    fun c => (c.hall.filter hit).foldl (fun c l => touchHall c l.bank l.way) c

/-- A line that a KVAPP of core `n` has written: dirty, or draining where its page keeps it out of the alcove, and of the class
that a write without a hint gives it (R136, R139). -/
def kvWrote (s : State) (n : Nat) (l : TileLine) : TileLine :=
  { l with st := if l.thru then .draining else .dirty, keep := false, unit := strandId s n .a, pc := s.nextPc,
           base := s.issue.base, units := (strandId s n .a :: l.units).eraseDups,
           cls := if l.thru then 0 else tileCls s (coreCluster n) l.key l.lrec }

/-- Bytes written through a translation, page by page, past the alcove: into memory and the hall's lines that hold them. -/
def writeRange (n : Nat) (ctx : BitVec 12) : List (Nat × Nat) → List Byte → State → Except KvStop State
  | [], _, s => .ok s
  | p :: ps, bs, s =>
    match translate s (coreCluster n) ctx p.1 .write with
    | .ok pa leaf _ =>
      let t := writeAs (kvParty s n) (leafZ leaf) s pa (bs.take p.2)
      (match t.2 with
       | some g => .error (.data g)
       | none =>
         writeRange n ctx ps (bs.drop p.2)
           (t.1.modCluster (coreCluster n) fun c =>
             { c with hall := c.hall.map fun l => if l.serves ctx then lineTakes p.1 (bs.take p.2) l else l }))
    | _ => .error (.trap 10 p.1)

/-- A write of a length word waits: a line that holds it drains or fills (R136). -/
def lenWaits (s : State) (n : Nat) (ctx : BitVec 12) (va : Nat) : Bool :=
  ((s.cluster (coreCluster n)).hall ++ (s.core n).alcove).any fun l =>
    l.key.ctx == ctx && l.st != .clean && l.st != .dirty && lineHolds va 4 l

/-- A length word written (R128, R136): into the alcove lines that hold it, which become dirty, and past the alcove where they
do not hold all of it. -/
def writeLen (s : State) (n : Nat) (ctx : BitVec 12) (va x : Nat) : Except KvStop State :=
  let bs := leBytes 4 x
  let hit := fun (l : TileLine) => l.serves ctx && lineHolds va 4 l
  let t := (touchRange s n ctx va 4).modCore n fun c =>
    { c with alcove := c.alcove.map fun l => if hit l then kvWrote s n (lineTakes va bs l) else l }
  if ((s.core n).alcove.filter hit).foldl (lineMask va 4) 0 = 2 ^ 32 - 1 then .ok t
  else writeRange n ctx (pieces va 4) bs t

/-- The elements of a row with the tiles that hold them and their places there. -/
def rowElems (ctx : BitVec 12) (r : Block) (slot x : Nat) : List (TileKey × Nat × Nat × Nat) :=
  (List.range (recExt r 0)).map fun i =>
    let p := elemTile r [i, x, slot]
    (tileKey ctx r p.1.1 p.1.2.1 p.1.2.2, p.2.1, p.2.2, i)

/-- The tiles of a row. -/
def rowTiles (ctx : BitVec 12) (r : Block) (slot x : Nat) : List TileKey :=
  ((rowElems ctx r slot x).map fun e => e.1).eraseDups

/-- The alcove has a line of a tile that a row may be written to (R136): clean or dirty, under the record. -/
def rowLine (s : State) (n : Nat) (k : TileKey) (r : Block) : Bool :=
  match lineOf (s.core n).alcove k with
  | none => false
  | some l => (l.st == .clean || l.st == .dirty) && l.lrec == r

/-- A tile of a row asked for where the alcove has no line of it under the record (R136, R140): a line that fills or drains is
waited for. -/
def fetchRow (n : Nat) (r : Block) (s : State) (k : TileKey) : State :=
  let ask := fun (s : State) => startFill s n k r { free := true, who := some (.a, s.nextPc, s.issue.base) }
  match lineOf (s.core n).alcove k with
  | none => ask s
  | some l =>
    match l.st with
    | .clean => ask (s.modCore n fun c => { c with alcove := dropAtWay c.alcove l.bank l.way })
    | .dirty => s.modCore n fun c => { c with alcove := modLine c.alcove l.bank l.way fun x =>
        { x with st := .draining, keep := false } }
    | .filling => s
    | .draining => s

/-- The line data of a tile with the elements that a row has there. -/
def rowData (ctx : BitVec 12) (r : Block) (slot x : Nat) (bs : List Byte) (k : TileKey) (d : Line) : Line :=
  let w := fmtWidth (recEfmt r)
  ((rowElems ctx r slot x).filter fun e => e.1 == k).foldl
    (fun d e => setLineElem r d e.2.1 e.2.2.1 (bitsAt (leNat bs) (e.2.2.2 * w) w)) d

/-- A row's elements in a tile written into its alcove line, which becomes dirty and counts as used (R136, R138). -/
def rowIntoLine (n : Nat) (ctx : BitVec 12) (r : Block) (slot x : Nat) (bs : List Byte) (s : State) (k : TileKey) : State :=
  s.modCore n fun c =>
    match lineOf c.alcove k with
    | none => c
    | some l =>
      touchAlcove { c with alcove := c.alcove.map fun l =>
        if l.key = k then kvWrote s n { l with data := rowData ctx r slot x bs k l.data } else l } l.bank l.way

/-- A row's tiles written in turn, as bits, until one has no line (R179); the tiles that are left. -/
def writeTiles (n : Nat) (ctx : BitVec 12) (r : Block) (slot x : Nat) (bs : List Byte) :
    List TileKey → State → State × List TileKey
  | [], s => (s, [])
  | k :: ks, s =>
    if rowLine s n k r then writeTiles n ctx r slot x bs ks (rowIntoLine n ctx r slot x bs s k)
    else (fetchRow n r s k, k :: ks)

/-! ### One entry (R179) -/

/-- The checks of an entry once its length `x` is known: alignment, the translations of every address, then the permissions
(R153). No multiple is stated for the destination rows (log 102). -/
def rowStops (s : State) (cl : Nat) (ctx : BitVec 12) (kr vr : Block) (e : KvEntry) (x : Nat) : Option KvStop :=
  if recExt kr 2 ≤ e.slot ∨ recExt vr 2 ≤ e.slot ∨ recExt kr 1 ≤ x ∨ recExt vr 1 ≤ x then
    some (.trap 11 (rowAddr kr e.slot x))
  else
    firstStop [alignStop e.ksrc 32, alignStop e.vsrc 32,
      mapFail s cl ctx e.ksrc (rowBytes kr) false, mapFail s cl ctx e.vsrc (rowBytes vr) false,
      mapFail s cl ctx (rowAddr kr e.slot x) (rowBytes kr) true, mapFail s cl ctx (rowAddr vr e.slot x) (rowBytes vr) true,
      permFail s cl ctx e.ksrc (rowBytes kr) .read, permFail s cl ctx e.vsrc (rowBytes vr) .read,
      permFail s cl ctx (rowAddr kr e.slot x) (rowBytes kr) .write,
      permFail s cl ctx (rowAddr vr e.slot x) (rowBytes vr) .write]

/-- The pages that an entry has to back. -/
def entryPages (s : State) (cl : Nat) (ctx : BitVec 12) (kr vr : Block) (slot x : Nat) : List (Nat × Nat) :=
  onePerPage (unbacked s cl ctx (rowAddr kr slot x) (rowBytes kr) ++ unbacked s cl ctx (rowAddr vr slot x) (rowBytes vr))

/-- What one entry comes to: processed, stopped, or waiting for a line or between a frame and its leaf. -/
inductive KvStep where
  | done (s : State)
  | stop (s : State) (f : KvStop)
  | wait (s : State)

/-- An entry of core `n` in progress. -/
def State.setRun (s : State) (n : Nat) (r : Option KvRun) : State := s.modCore n fun c => { c with kvRun := r }

/-- The core's entry given up and its frame in hand given back (R361). -/
def dropRun (s : State) (n : Nat) (ctx : BitVec 12) : State :=
  match (s.core n).kvRun with
  | none => s
  | some r =>
    match r.frame with
    | none => s.setRun n none
    | some x => stashFrame (s.setRun n none) ctx x

/-- Where the backing of an entry's pages stands: every leaf written, stopped, or with a frame or a page still to come. -/
inductive KvPages where
  | backed (s : State)
  | stop (s : State) (f : KvStop)
  | wait (s : State) (ps : List (Nat × Nat)) (frame : Option Nat)

/-- An entry's pages backed in order, each leaf written before the next frame is taken (R362, R373). A page that another KVAPP
has backed takes no frame. `slow` lets another agent come between a frame and its leaf, by a free choice (log 4). -/
def backPages (slow : Bool) (cl : Nat) (ctx : BitVec 12) : List (Nat × Nat) → Option Nat → State → KvPages
  | [], _, s => .backed s
  | p :: ps, some x, s => backPages slow cl ctx ps none (writeLeaf ctx p.2 s p.1 x)
  | p :: ps, none, s =>
    if readPte s p.1 % 2 = 1 then backPages slow cl ctx ps none s
    else
      match s.ctx? ctx with
      | none => .backed s
      | some c =>
        match takeFrame s cl c with
        | .error va => .stop s (.arena va)
        | .ok none => .wait s (p :: ps) none
        | .ok (some y) =>
          let z := if slow then y.2.takeBool else (false, y.2)
          if z.1 then .wait z.2 (p :: ps) (some y.1) else backPages slow cl ctx ps none (writeLeaf ctx p.2 z.2 p.1 y.1)

/-- The end of an entry: its length word written, after its rows (R179). -/
def lenRun (s : State) (n : Nat) (ctx : BitVec 12) (r : KvRun) : KvStep :=
  if lenWaits s n ctx r.e.lenp then .wait (s.setRun n (some r))
  else
    match writeLen s n ctx r.e.lenp (r.x + 1) with
    | .error f => .stop s f
    | .ok t => .done t

/-- The value row of an entry, then its length word. -/
def valueRun (s : State) (n : Nat) (ctx : BitVec 12) (r : KvRun) : KvStep :=
  let y := writeTiles n ctx r.vrec r.e.slot r.x r.bytes r.left s
  if y.2.isEmpty then lenRun y.1 n ctx { r with left := [] } else .wait (y.1.setRun n (some { r with left := y.2 }))

/-- The rows of an entry: the key row, then the value row, whose source is read when the key row is written (R179). -/
def rowsRun (s : State) (n : Nat) (ctx : BitVec 12) (r : KvRun) : KvStep :=
  if r.value then valueRun s n ctx r
  else
    let y := writeTiles n ctx r.krec r.e.slot r.x r.bytes r.left s
    if !y.2.isEmpty then .wait (y.1.setRun n (some { r with left := y.2 }))
    else
      match readRange y.1 n ctx (pieces r.e.vsrc (rowBytes r.vrec)) with
      | .error f => .stop y.1 f
      | .ok vs =>
        valueRun (touchRange y.1 n ctx r.e.vsrc (rowBytes r.vrec)) n ctx
          { r with value := true, bytes := vs, left := rowTiles ctx r.vrec r.e.slot r.x }

/-- An entry that has begun goes on: its pages are backed, its rows moved and its length word written, as far as the lines that
it needs are there. A fault leaves the pages that were backed before it (R373). -/
def goOn (s : State) (n : Nat) (ctx : BitVec 12) (r : KvRun) : KvStep :=
  match backPages true (coreCluster n) ctx r.pages r.frame (s.setRun n none) with
  | .stop t f => .stop t f
  | .wait t ps x => .wait (t.setRun n (some { r with pages := ps, frame := x }))
  | .backed t => rowsRun t n ctx { r with pages := [], frame := none }

/-- An entry whose checks have passed begins: its source rows are readable, and its key row is read. -/
def beginRun (s : State) (n : Nat) (ctx : BitVec 12) (kr vr : Block) (e : KvEntry) (x : Nat) (ps : List (Nat × Nat)) : KvStep :=
  match readRange s n ctx (pieces e.ksrc (rowBytes kr)), readRange s n ctx (pieces e.vsrc (rowBytes vr)) with
  | .error f, _ => .stop s f
  | .ok _, .error f => .stop s f
  | .ok ks, .ok _ =>
    goOn (touchRange s n ctx e.ksrc (rowBytes kr)) n ctx
      { e := e, x := x, krec := kr, vrec := vr, pages := ps, bytes := ks, left := rowTiles ctx kr e.slot x }

/-- The frames that an entry needs are there. -/
def framesFor (s : State) (cl : Nat) (ctx : BitVec 12) (n b : Nat) : Option KvStop :=
  if n = 0 then none
  else
    match s.ctx? ctx with
    | none => none
    | some c =>
      match framesFree s cl c with
      | .error va => some (.arena va)
      | .ok m => if m < n then some (.trap 13 b) else none

/-- Entry `b` begun, its bytes given. -/
def kvStep (s : State) (n : Nat) (ctx : BitVec 12) (kr vr : Block) (ea b : Nat) (e : KvEntry) : KvStep :=
  let cl := coreCluster n
  if e.zero ≠ 0 then .stop s (.trap 1 ea)
  else if e.slot = 0xFFFFFFFF then .done s
  else
    match firstStop [alignStop e.lenp 4, rangeStop s cl ctx e.lenp 4 .both false] with
    | some f => .stop s f
    | none =>
      match readRange s n ctx (pieces e.lenp 4) with
      | .error f => .stop s f
      | .ok bs =>
        let t := touchRange s n ctx e.lenp 4
        match rowStops t cl ctx kr vr e (leNat bs) with
        | some f => .stop t f
        | none =>
          let ps := entryPages t cl ctx kr vr e.slot (leNat bs)
          match framesFor t cl ctx ps.length b with
          | some f => .stop t f
          | none => beginRun t n ctx kr vr e (leNat bs) ps

/-- The bytes of entry `b`, read on path S. -/
def kvRead (s : State) (n : Nat) (ctx : BitVec 12) (ea : Nat) : Except KvStop KvEntry :=
  match rangeStop s (coreCluster n) ctx ea 32 .read false with
  | some f => .error f
  | none =>
    match translate s (coreCluster n) ctx ea .read with
    | .ok pa _ _ =>
      (match ownBytes s pa 32 with
       | .error g => .error (.data g)
       | .ok bs => .ok (kvEntry bs))
    | _ => .error (.trap 10 ea)

/-- Where a batch stands: through, stopped at an entry, or going on with an entry in a later cycle. -/
inductive KvEnd where
  | all
  | stop (b : Nat) (f : KvStop)
  | pause (b : Nat)

/-- Entry `b` of a batch: the one that has begun goes on, else it is read and begun; with whether it is only padding. -/
def kvEntryAt (s : State) (n : Nat) (ctx : BitVec 12) (kr vr : Block) (tbl b : Nat) : KvStep × Bool :=
  match (s.core n).kvRun with
  | some r => (goOn s n ctx r, false)
  | none =>
    match kvRead s n ctx (tbl + 32 * b) with
    | .error f => (.stop s f, false)
    | .ok e => (kvStep s n ctx kr vr (tbl + 32 * b) b e, e.slot == 0xFFFFFFFF)

/-- The entries from `b` on. After one that was appended the batch may go on in a later cycle: a free choice (R259, log 109). -/
def kvFrom (n : Nat) (ctx : BitVec 12) (kr vr : Block) (tbl : Nat) : Nat → Nat → State → State × KvEnd
  | 0, _, s => (s, .all)
  | fuel + 1, b, s =>
    let z := kvEntryAt s n ctx kr vr tbl b
    match z.1 with
    | .stop t f => (t, .stop b f)
    | .wait t => (t, .pause b)
    | .done t =>
      if fuel = 0 ∨ z.2 = true then kvFrom n ctx kr vr tbl fuel (b + 1) t
      else
        let y := t.takeBool
        if y.1 then (y.2, .pause (b + 1)) else kvFrom n ctx kr vr tbl fuel (b + 1) y.2

/-! ### The cut (R259) -/

/-- The requests of a cluster for tiles that a write past their lines has changed, asked again. -/
def reask (s : State) (cl : Nat) (ks : List TileKey) : State :=
  { s with reqs := s.reqs.map fun r =>
      if r.cluster == cl && ks.contains r.key then
        { r with asOf := s.nextId, stage := match r.stage with
            | .toHall _ _ => .home
            | .toCore _ _ => .hall
            | st => st }
      else r }

/-- A row written at once: its tiles' alcove lines are written back and dropped, and it goes past the alcove. -/
def rowPast (s : State) (n : Nat) (ctx : BitVec 12) (r : Block) (slot x : Nat) (bs : List Byte) : Except KvStop State :=
  let ks := rowTiles ctx r slot x
  let t := (drainAlcove s n fun l => ks.contains l.key).modCore n fun c =>
    { c with alcove := c.alcove.filter fun l => !(ks.contains l.key && l.readable) }
  match writeRange n ctx (pieces (rowAddr r slot x) (rowBytes r)) bs t with
  | .error f => .error f
  | .ok u => .ok (reask u (coreCluster n) ks)

/-- The rest of an entry's rows and its length word written at once, the alcove being written back. -/
def restRun (s : State) (n : Nat) (ctx : BitVec 12) (r : KvRun) : Except KvStop State :=
  let value := fun (t : State) (vs : List Byte) =>
    match rowPast t n ctx r.vrec r.e.slot r.x vs with
    | .error f => .error f
    | .ok u => writeRange n ctx (pieces r.e.lenp 4) (leBytes 4 (r.x + 1)) (drainAlcove u n fun l => lineHolds r.e.lenp 4 l)
  if r.value then value s r.bytes
  else
    match rowPast s n ctx r.krec r.e.slot r.x r.bytes with
    | .error f => .error f
    | .ok t =>
      match readRange t n ctx (pieces r.e.vsrc (rowBytes r.vrec)) with
      | .error f => .error f
      | .ok vs => value t vs

/-- A stop that an entry meets at a cut: its fault is posted. -/
def kvFault (s : State) (n : Nat) (ctx : BitVec 12) (f : KvStop) : State :=
  match f with
  | .arena va => s.arenaFault ctx va
  | .data g => s.dataFault ctx 3 (coreDie n) (strandId s n .a) ((s.core n).kvAt.getD 0) g
  | .walk va => s.postFault ctx 0x12 0 0x200 0 (BitVec.ofNat 64 va) 0
  | .trap _ _ => s

/-- The entry that a KVAPP of a core has begun completed at a cut, and no KVAPP in progress (R259): its index register
names the next entry. -/
def finishKv (s : State) (n : Nat) : State :=
  let ended := fun (t : State) => t.modCore n fun c => { c with kvAt := none }
  match (s.core n).kvRun with
  | none => ended s
  | some r =>
    let ctx := (s.core n).ctx
    match backPages false (coreCluster n) ctx r.pages r.frame (s.setRun n none) with
    | .stop t f => ended (kvFault t n ctx f)
    | .wait t _ _ => ended t
    | .backed t =>
      match restRun t n ctx r with
      | .error f => ended (kvFault t n ctx f)
      | .ok u => ended (u.modStrand n .a fun st => st.setPhys r.idx (tget 0 st.regs r.idx + 1))

/-! ### The instruction -/

/-- A record of class arena by handle. -/
def arenaRec (rs : List Block) (h : Word) : Option Block :=
  match handleRec rs h with
  | none => none
  | some r => if recClass r = 1 then some r else none

/-- A KVAPP that is no longer in progress: no entry has begun. -/
def kvOver (s : State) : State := (dropRun s s.issue.core s.live.ctx).modLive fun c => { c with kvAt := none }

/-- The end of a stopped batch: the index in `s[dst]`, then the trap after issue or the fault. -/
def kvStopped (s : State) (rd : BitVec 6) (b : Nat) (f : KvStop) : Out :=
  let t := (kvOver s).wr rd (BitVec.ofNat 64 b)
  match f with
  | .trap code val => .next (trapAfter t code (BitVec.ofNat 64 val) s.issue.base).take
  | .walk va => walkErrorAt t (BitVec.ofNat 64 va)
  | .data g => dataAt t g
  | .arena va => .next (((t.arenaFault s.live.ctx va).modActing Strand.stop).setVerdict .faulted)

/-- A batch that goes on in a later cycle: the next entry in `s[dst]`, the head still the bundle (R180, R259). -/
def kvPaused (s : State) (rd : BitVec 6) (b : Nat) : State :=
  let p := if rd = 0 then 0 else s.pre.physReg rd
  let t := (s.wr rd (BitVec.ofNat 64 b)).modLive fun c =>
    { c with kvAt := some s.issue.base, kvRun := c.kvRun.map fun r => { r with idx := p } }
  { t with issue := { t.issue with taken := true, paused := true } }

/-- KVAPP. -/
def execKvapp (g rd ra kr vr : BitVec 6) (cnt : BitVec 8) (s : State) : Out :=
  guarded g s fun s => ready s [rd, ra, kr, vr] (memReady s (
    match arenaRec s.issue.pre.recs (s.rd kr), arenaRec s.issue.pre.recs (s.rd vr) with
    | none, _ => faultAt s 6 0 (s.rd kr) 0
    | some _, none => faultAt s 6 0 (s.rd vr) 0
    | some x, some y =>
      let tbl := s.rd ra
      if tbl.toNat % 32 ≠ 0 then trapAt s 1 tbl
      else
        let b := (s.rd rd).toNat
        let r := kvFrom s.issue.core s.live.ctx x y tbl.toNat (cnt.toNat + 1 - b) b s
        match r.2 with
        | .all => .next ((kvOver r.1).wr rd (BitVec.ofNat 64 (cnt.toNat + 1)))
        | .pause i => .next (kvPaused r.1 rd i)
        | .stop i f => kvStopped r.1 rd i f))

end Sys2Proof.Machine
end

