-- ==== Sys2Proof/Machine/Launches.lean ====
section
/-! DEFINITION. Launch records (R286, R287), slot-table images (R326, R327), the taking of a RENQ entry (R238) and of a
host launch-ring entry (R379), and their status words. -/

namespace Sys2Proof.Machine

/-! ### Reading -/

/-- Bytes at virtual addresses, page by page; `fuel` bounds the pages. -/
def readVa (s : State) (cl : Nat) (ctx : BitVec 12) : Nat → Nat → Nat → Except AccFail (List Byte)
  | 0, _, _ => .ok []
  | fuel + 1, va, n =>
    if n = 0 then .ok []
    else
      let k := Nat.min n (0x4000 - va % 0x4000)
      match engineBytes s cl ctx va k with
      | .error f => .error f
      | .ok bs =>
        match readVa s cl ctx fuel (va + k) (n - k) with
        | .error f => .error f
        | .ok cs => .ok (bs ++ cs)

/-- A list cut into `k` pieces of `n` bytes. -/
def cutBytes (n : Nat) : Nat → List Byte → List (List Byte)
  | 0, _ => []
  | k + 1, bs => bs.take n :: cutBytes n k (bs.drop n)

/-! ### The launch record (R286) -/

/-- A field of a launch record. -/
def lfield (r : BitVec 4096) (off lo n : Nat) : Nat := (r.extractLsb' (8 * off + lo) n).toNat
/-- `tasks`. -/
def lTasks (r : BitVec 4096) : Nat := lfield r 0 38 10
/-- `prio`. -/
def lPrio (r : BitVec 4096) : Nat := lfield r 0 36 2
/-- `place`. -/
def lPlace (r : BitVec 4096) : Bool := lfield r 0 35 1 == 1
/-- `nrec`. -/
def lNrec (r : BitVec 4096) : Nat := lfield r 0 30 5
/-- `nres`. -/
def lNres (r : BitVec 4096) : Nat := lfield r 0 26 4
/-- `ngrp`. -/
def lNgrp (r : BitVec 4096) : Nat := lfield r 0 17 9
/-- The entry address of a strand kind. -/
def lEntry (r : BitVec 4096) (k : Kind) : Nat := lfield r (0x10 + 8 * k.code) 0 64
/-- `clmask` names a cluster. -/
def lCluster (r : BitVec 4096) (cl : Nat) : Bool := bitsAt (lfield r 0x30 0 64) cl 1 == 1
/-- `cores`. -/
def lCores (r : BitVec 4096) : Nat := lfield r 0x38 0 64
/-- `gtab`. -/
def lGtab (r : BitVec 4096) : Nat := lfield r 0x40 0 64
/-- `slots`. -/
def lSlots (r : BitVec 4096) : Nat := lfield r 0x48 0 64
/-- `ctxbase`. -/
def lCtxbase (r : BitVec 4096) : Nat := lfield r 0x50 0 64
/-- The address of an initial record. -/
def lRec (r : BitVec 4096) (i : Nat) : Nat := lfield r (0x60 + 8 * i) 0 64
/-- A residency tile: its handle and its packed coordinate. -/
def lRes (r : BitVec 4096) (i : Nat) : Word × Word :=
  (BitVec.ofNat 64 (lfield r (0xE0 + 16 * i) 0 64), BitVec.ofNat 64 (lfield r (0xE8 + 16 * i) 0 64))

/-- What R287 asks of the record's own fields, its address included. -/
def launchFieldsOk (r : BitVec 4096) (lrec : Nat) : Bool :=
  let z := fun off lo n => lfield r off lo n == 0
  lrec % 64 == 0 && z 0 48 16 && z 0 0 17 && z 0x08 0 64 && z 0x30 40 24 && z 0x58 0 64 && z 0x160 0 1280 &&
  decide (1 ≤ lTasks r) && decide (lTasks r ≤ 640) && decide (lNrec r ≤ 16) && decide (lNres r ≤ 8) &&
  decide (lNgrp r ≤ 256) &&
  (Kind.all.all fun k => lEntry r k % 4 == 0 && decide (lEntry r k < 2 ^ 52)) &&
  lCores r % 2 == 0 && (lPlace r || lCores r == 0) && lGtab r % 256 == 0 && (decide (0 < lNgrp r) || lGtab r == 0) &&
  lSlots r % 64 == 0 && lCtxbase r % 0x10000 == 0 &&
  ((List.range 16).all fun i => if i < lNrec r then lRec r i % 128 == 0 else lRec r i == 0) &&
  (List.range 8).all fun i => decide (i < lNres r) || lRes r i == (0, 0)

/-- The parts that a record names: the core list, the group table, the initial records, and the image with its header. -/
structure LaunchParts where
  list : List Nat
  gtab : List (BitVec 2048)
  recs : List Block
  head : List Byte
  secs : List (List Byte)

/-- The sections that an image's header counts, within their limits. -/
def imageSecs (head : List Byte) : Nat :=
  let n := leNat (head.take 8)
  if n ≤ 720 then n else 0

/-- The slot-table image read: its header and its sections. -/
def readImage (s : State) (cl : Nat) (ctx : BitVec 12) (va : Nat) : Except AccFail (List Byte × List (List Byte)) :=
  if va = 0 then .ok ([], [])
  else
    match readVa s cl ctx 2 va 64 with
    | .error f => .error f
    | .ok h =>
      match readVa s cl ctx 30 (va + 64) (520 * imageSecs h) with
      | .error f => .error f
      | .ok bs => .ok (h, cutBytes 520 (imageSecs h) bs)

/-- The initial records that a record can name: it has places for 16. -/
def lReads (r : BitVec 4096) : Nat := Nat.min (lNrec r) 16

/-- The parts of a launch read. -/
def readParts (s : State) (cl : Nat) (ctx : BitVec 12) (r : BitVec 4096) : Except AccFail LaunchParts := do
  let cs ← if lPlace r then readVa s cl ctx 2 (lCores r) (2 * lTasks r) else .ok []
  let g ← readVa s cl ctx 6 (lGtab r) (256 * lNgrp r)
  let rs ← (List.range (lReads r)).mapM fun i => readVa s cl ctx 2 (lRec r i) 128
  let img ← readImage s cl ctx (lSlots r)
  return { list := if lPlace r then (cutBytes 2 (lTasks r) cs).map leNat else [],
           gtab := (cutBytes 256 (lNgrp r) g).map fun b => BitVec.ofNat 2048 (leNat b),
           recs := rs.map blockOf, head := img.1, secs := img.2 }

/-! ### Slot-table images (R325 to R327) -/

/-- The field of a slot entry for an output. -/
def slotField (e : BitVec 16) (o : Nat) : Nat := (e.extractLsb' (3 * o) 3).toNat

/-- A port of router (y, x) is present (R321). -/
def portPresent (router p : Nat) : Bool :=
  match p with
  | 0 => true
  | 1 => decide (0 < router / 18)
  | 2 => decide (router % 18 < 17)
  | 3 => decide (router / 18 < 9)
  | 4 => decide (0 < router % 18)
  | _ => false

/-- An entry of a router that R327 accepts: present ports only, no input to itself, no input to two outputs. -/
def slotEntryOk (router : Nat) (e : BitVec 16) : Bool :=
  !e.getLsbD 15 &&
  (List.range 5).all fun o =>
    slotField e o == 7 ||
    (portPresent router o && portPresent router (slotField e o) && slotField e o != o &&
     (List.range 5).all fun p => p == o || slotField e p != slotField e o)

/-- Each output is unclaimed once in every aligned group of eight slots (R325). -/
def slotGroupsOk (es : List (BitVec 16)) : Bool :=
  (List.range 32).all fun j => (List.range 5).all fun o => ((es.drop (8 * j)).take 8).any fun e => slotField e o == 7

/-- The router id of a section. -/
def secRouter (sec : List Byte) : Nat := leNat (sec.take 8)

/-- The entries of a section. -/
def secEntries (sec : List Byte) : List (BitVec 16) := (cutBytes 2 256 (sec.drop 8)).map fun b => BitVec.ofNat 16 (leNat b)

/-- A section that R327 accepts for a launch. -/
def sectionOk (r : BitVec 4096) (sec : List Byte) : Bool :=
  let id := secRouter sec
  decide (id < 1024) && decide (id % 256 < 180) && lCluster r (10 * (id / 256) + id % 256 / 18) &&
  ((secEntries sec).all fun e => slotEntryOk (id % 256) e) && slotGroupsOk (secEntries sec)

/-- An image that R327 accepts. -/
def imageOk (r : BitVec 4096) (p : LaunchParts) : Bool :=
  lSlots r == 0 ||
  (decide (1 ≤ leNat (p.head.take 8)) && decide (leNat (p.head.take 8) ≤ 720) && (p.head.drop 8).all (fun b => b == 0) &&
   (p.secs.all fun x => sectionOk r x) && decide ((p.secs.map secRouter).Nodup))

/-- The entries of an image with their places in the module's slot tables: 256 × (180 × die + router) + slot. -/
def imageEntries (p : LaunchParts) : List (Nat × BitVec 16) :=
  p.secs.flatMap fun x =>
    (secEntries x).zipIdx.map fun e => (256 * (180 * (secRouter x / 256) + secRouter x % 256) + e.2, e.1)

/-! ### Deciding a launch (R238, R287) -/

/-- The core that a list entry names, when it exists and works. -/
def listCore (s : State) (e : Nat) : Option Nat :=
  let n := 160 * bitsAt e 8 2 + 16 * bitsAt e 4 4 + bitsAt e 0 4
  if e < 1024 ∧ bitsAt e 4 4 < 10 ∧ coreWorks s n then some n else none

/-- The working cores of the clusters of a mask, in the order of R292. -/
def maskCores (s : State) (r : BitVec 4096) : List Nat :=
  (List.range 640).filter fun n => lCluster r (coreCluster n) && coreWorks s n

/-- What R287 and R327 ask of the parts. -/
def launchPartsOk (s : State) (r : BitVec 4096) (p : LaunchParts) : Bool :=
  (if lPlace r then
     (p.list.all fun e => (listCore s e).isSome) && decide ((p.list.map fun e => listCore s e).Nodup)
   else !(maskCores s r).isEmpty && decide (lTasks r ≤ (maskCores s r).length)) &&
  (p.gtab.all fun e => entOk s (lTasks r) e) && (p.recs.all fun x => recordOk x && arenaOk x) && imageOk r p

/-- Why a launch is rejected: the low digit of its status, or a part that cannot be read. -/
inductive LaunchErr where
  | status (n : Nat)
  | unread (f : AccFail)

/-- The cores of the tasks where the placement names them: the explicit list, or the core of a core target. -/
def launchCores (s : State) (p : LaunchParts) (target : Option Nat) : List Nat :=
  match target with
  | some n => [n]
  | none => p.list.filterMap fun e => listCore s e

/-- A core target takes a launch of one task whose placement does not exclude the core. -/
def targetOk (s : State) (r : BitVec 4096) (p : LaunchParts) (target : Option Nat) : Bool :=
  match target with
  | none => true
  | some n =>
    lTasks r == 1 && if lPlace r then p.list.map (listCore s) == [some n] else lCluster r (coreCluster n)

/-- A launch record read and decided: a part that cannot be read decides before every other defect (R287). -/
def judgeLaunch (s : State) (cl : Nat) (ctx : BitVec 12) (lrec : Nat) (target : Option Nat) :
    Except LaunchErr (BitVec 4096 × LaunchParts) :=
  match readVa s cl ctx 2 lrec 512 with
  | .error f => .error (.unread f)
  | .ok bs =>
    let r := BitVec.ofNat 4096 (leNat bs)
    match readParts s cl ctx r with
    | .error f => .error (.unread f)
    | .ok p =>
      if !launchFieldsOk r lrec || !launchPartsOk s r p then .error (.status 2)
      else if !targetOk s r p target then .error (.status 3)
      else .ok (r, p)

/-! ### Status words -/

/-- A rejection's status word. -/
def rejected (n : Nat) : Word := BitVec.ofNat 64 (2 ^ 63 + n)

/-- The walk-error fault of a part that cannot be read, if a walk failed (R285). -/
def walkFault (s : State) (ctx : BitVec 12) (f : AccFail) : State :=
  match f with
  | .walk va => s.postFault ctx 0x12 0 0x200 0 (BitVec.ofNat 64 va) 0
  | .access _ => s
  | .data _ => s

/-- A status word written to `notify`, or the host-access fault (R238). At an address that is no multiple of 8, for which the spec
gives no outcome, the eight bytes from there on are written: the model's choice (log 123). -/
def putStatus (s : State) (cl : Nat) (ctx : BitVec 12) (notify v : Word) : State :=
  if notify = 0 then s
  else
    match enginePut cl ctx notify.toNat (leBytes 8 v.toNat) s with
    | .ok t => t
    | .error _ => s.hostAccess ctx notify.toNat

/-- The notification of a host launch's status (R379, R380). -/
def noteStatus (s : State) (ctx : BitVec 12) (tag : Option Word) (v : Word) : State :=
  match tag with
  | none => s
  | some x =>
    match s.ctx? ctx with
    | none => s
    | some c => postNote s ctx (c.vlq + 1) 1 0 v x

/-- The flag of a command block raised in the issuing task (R238). -/
def statusFlag (s : State) (fe : Option FlagTarget) : State :=
  match fe with
  | none => s
  | some f =>
    match f.task with
    | none => s
    | some t => sendFlag s t f.flag 1 4

/-! ### Accepting a launch -/

/-- What the source of a launch says of it besides its record. -/
structure LaunchSource where
  ctx : BitVec 12
  cluster : Nat
  prio : BitVec 2
  arg : Word
  notify : Word
  fe : Option FlagTarget
  fwhen : Bool
  tag : Option Word
  target : Option Nat

/-- A task of a launch as it is taken. -/
def newTask (s : State) (launch index : Nat) (r : BitVec 4096) : Task where
  id := launch + 1 + index
  launch := launch
  index := index
  st := .waiting
  core := 0
  since := s.now
  arrival := s.now
  saved := false
  area := if lCtxbase r = 0 then 0 else lCtxbase r + index * 0x50000 + 1
  cutAt := none
  why := 0
  map := 0
  ackd := 0
  grps := []
  flagsIn := []
  cmds := []
  parked := []

/-- A launch queued with its tasks waiting. -/
def queueLaunch (s0 : State) (x : LaunchSource) (r : BitVec 4096) (p : LaunchParts) : State :=
  let id := s0.nextId
  let keys := (p.gtab.filter fun e => entV e && entPeers e != 0).map fun e =>
    ({ domain := true, xkey := entKey e, mods := entMods s0 e, launch := 0, grp := 0 } : GroupKey)
  let s := if keys.isEmpty then s0 else s0.modCtx x.ctx fun c => { c with xgroups := (c.xgroups ++ keys).eraseDups }
  { s with
    nextId := id + 1 + lTasks r
    launches := s.launches ++
      [{ id := id, ctx := x.ctx, recBits := r, recs := p.recs, cores := launchCores s p x.target, gtab := p.gtab,
         slotImg := imageEntries p, slotsOn := false, prio := x.prio, arrival := s.now, cluster := x.cluster,
         arg := x.arg, notify := x.notify, fe := x.fe, fwhen := x.fwhen, tag := x.tag, ran := [] }]
    tasks := s.tasks ++ (List.range (lTasks r)).map fun i => newTask s id i r }

/-- A group with the key of an entry stands on this module for another set of modules (R403). -/
def otherSet (s : State) (e : BitVec 2048) : Bool :=
  entV e && entPeers e != 0 &&
  ((s.groups.any fun g => g.key.domain && g.key.xkey == entKey e && g.key.mods != entMods s e) ||
   (s.early.any fun m => !m.cast && m.xkey == entKey e && m.mods != entMods s e) ||
   s.launches.any fun l => l.gtab.any fun f =>
     entV f && entPeers f != 0 && entKey f == entKey e && entMods s f != entMods s e)

/-- The fabric-group faults that a queued launch's entries raise. -/
def checkSets (s : State) (cl : Nat) (gtab : List (BitVec 2048)) : State :=
  (gtab.filter fun e => otherSet s e).foldl (fun t e => fabricGroup t (entKey e) cl) s

/-- A launch decided: queued, or its rejection reported (R238, R379). -/
def decideLaunch (s : State) (x : LaunchSource) (lrec : Nat) : State :=
  let report := fun (t : State) (v : Word) => noteStatus (putStatus t x.cluster x.ctx x.notify v) x.ctx x.tag v
  match judgeLaunch s x.cluster x.ctx lrec x.target with
  | .error (.status n) => statusFlag (report s (rejected n)) x.fe
  | .error (.unread f) => statusFlag (report (walkFault s x.ctx f) (rejected 4)) x.fe
  | .ok (r, p) =>
    let prio := BitVec.ofNat 2 (Nat.max x.prio.toNat (lPrio r))
    let t := report (checkSets (queueLaunch s { x with prio := prio } r p) x.cluster p.gtab) 1
    if x.fwhen then t else statusFlag t x.fe

/-! ### LAUNCH_TAKE (R236, R238) -/

/-- A command block without a reserved bit set, of the one kind. -/
def commandOk (b : BitVec 2048) : Bool :=
  let f := fun off lo n => (b.extractLsb' (8 * off + lo) n).toNat
  f 0 56 8 == 1 && f 0 24 32 == 0 && f 0 0 16 == 0 && (f 0 23 1 == 1 || f 0 17 6 == 0) && f 0x20 0 1792 == 0

/-- What a command block says of its launch. -/
def blockSource (b : BitVec 2048) (cl : Nat) (target : Option Nat) (e : RenqEntry) : LaunchSource :=
  let w := fun off => (b.extractLsb' (8 * off) 64 : Word)
  { ctx := e.ctx, cluster := cl, prio := e.prio, arg := w 0x10, notify := w 0x18,
    fe := if b.getLsbD 23 then some { core := e.core, flag := (b.extractLsb' 17 6).toNat, task := e.task } else none,
    fwhen := b.getLsbD 16, tag := none, target := target }

/-- A command block that cannot be read as a whole (R238): where its first granule, with `notify` and `fe`, can be read, the
rejection is reported there (log 49). -/
def unreadEntry (s : State) (cl : Nat) (target : Option Nat) (e : RenqEntry) (f : AccFail) : State :=
  let t := walkFault s e.ctx f
  match engineBytes s cl e.ctx e.addr.toNat 32 with
  | .error _ => t
  | .ok bs =>
    let x := blockSource (BitVec.ofNat 2048 (leNat bs)) cl target e
    statusFlag (putStatus t cl e.ctx x.notify (rejected 4)) x.fe

/-- An entry of a RENQ queue taken: its block read and decided. -/
def takeEntry (s : State) (cl : Nat) (target : Option Nat) (e : RenqEntry) : State :=
  match engineBytes s cl e.ctx e.addr.toNat 256 with
  | .error f => unreadEntry s cl target e f
  | .ok bs =>
    let b := BitVec.ofNat 2048 (leNat bs)
    let x := blockSource b cl target e
    if commandOk b then decideLaunch s x (b.extractLsb' 64 64).toNat
    else statusFlag (putStatus s cl e.ctx x.notify (rejected 1)) x.fe

/-- LAUNCH_TAKE: the head of a queue of a cluster, 0 to 15 a core's and 16 the scheduler's. A stopped context's entry
waits; that of a context that has ended is dropped. -/
def execLaunchTake (cluster queue : Nat) (s : State) : Out :=
  match renqOf s (cluster, queue) with
  | [] => .next s
  | e :: rest =>
    let t := setRenq s (cluster, queue) rest
    match s.ctx? e.ctx with
    | none => .next t
    | some c =>
      match c.ctl with
      | .ended => .next t
      | .stopping => .next s
      | .stopped => .next s
      | .running => .next (takeEntry t cluster (if queue = 16 then none else some (16 * cluster + queue)) e)

/-! ### HOST_LAUNCH_TAKE (R379) -/

/-- An entry of the launch ring decided. -/
def takeRing (s : State) (c : Context) (cl : Nat) (b : BitVec 512) : State :=
  let w := fun off => (b.extractLsb' (8 * off) 64 : Word)
  let x : LaunchSource :=
    { ctx := c.id, cluster := cl, prio := BitVec.ofNat 2 c.pmin, arg := 0, notify := w 8, fe := none, fwhen := false,
      tag := some (w 0x10), target := none }
  if b.extractLsb' (8 * 0x18) 320 = 0 then decideLaunch s x (w 0).toNat
  else noteStatus (putStatus s cl c.id x.notify (rejected 1)) c.id x.tag (rejected 1)

/-- HOST_LAUNCH_TAKE: the entry at `lqhead`, taken by a working cluster's scheduler while the context runs, the ring is
consistent and the notification ring has room. -/
def execHostLaunchTake (ctx cluster : Nat) (s : State) : Out :=
  match s.ctxAt ctx with
  | none => .next s
  | some c =>
    let n := (c.lqtail - c.lqhead).toNat
    if n = 0 || decide (c.lqsize < n) || c.ctl != .running || c.fault.isSome || !noteReady s c.id ||
      decide (40 ≤ cluster) || !clusterWorks s cluster then .next s
    else
      let va := c.lq + 64 * (c.lqhead.toNat % c.lqsize)
      match engineBytes s cluster c.id va 64 with
      | .error f => .next ((walkFault s c.id f).hostAccess c.id va)
      | .ok bs =>
        .next (takeRing (s.modCtx c.id fun c => { c with lqhead := c.lqhead + 1 }) c cluster (BitVec.ofNat 512 (leNat bs)))

end Sys2Proof.Machine
end

