-- ==== Sys2Proof/Machine/Placement.lean ====
section
/-! DEFINITION. The scheduler's walk (R291, R292, R294), slot-table images in the routers (R328), context areas of the
save pool (R379, R383), residency (R295), and the start of a task (R151, R290). -/

namespace Sys2Proof.Machine

/-! ### Orders -/

/-- An element put into a sorted list behind those that do not come after it. -/
def insertBy {α : Type} (before : α → α → Bool) (x : α) : List α → List α
  | [] => [x]
  | y :: ys => if before x y then x :: y :: ys else y :: insertBy before x ys

/-- A list sorted; what `before` does not separate keeps its order. -/
def sortBy {α : Type} (before : α → α → Bool) (xs : List α) : List α := xs.foldl (fun ys x => insertBy before x ys) []

/-- The choice order of R291. -/
def chosenBefore (s : State) (a b : Waiting) : Bool :=
  let p := eprio s a.launch a.arrival
  let q := eprio s b.launch b.arrival
  decide (p < q) || (p == q && decide (a.arrival < b.arrival))

/-! ### Slot tables (R323, R328) -/

/-- The routers' entry at a place. -/
def slotEntry (s : State) (k : Nat) : BitVec 16 := tget 0x7FFF s.slotTables k

/-- The state with an entry of the routers replaced. -/
def setSlotEntry (s : State) (k : Nat) (e : BitVec 16) : State := { s with slotTables := tset 0x7FFF s.slotTables k e }

/-- The bits of the outputs that an entry claims. -/
def claimedBits (e : BitVec 16) : BitVec 16 :=
  (List.range 5).foldl (fun m o => if slotField e o = 7 then m else m ||| (7#16 <<< (3 * o))) 0

/-- An image claims an output that a loaded image has claimed in the same slot. -/
def slotClash (s : State) (l : Launch) : Bool :=
  !l.slotsOn && l.slotImg.any fun x => claimedBits x.2 &&& claimedBits (slotEntry s x.1) != 0

/-- A launch's image loaded. -/
def loadSlots (s : State) (l : Launch) : State :=
  if l.slotsOn then s
  else
    (l.slotImg.foldl (fun t x => setSlotEntry t x.1 (slotEntry t x.1 &&& x.2)) s).modLaunch l.id fun l =>
      { l with slotsOn := true }

/-- A launch's image removed. -/
def dropSlots (s : State) (l : Launch) : State :=
  if l.slotsOn then
    (l.slotImg.foldl (fun t x => setSlotEntry t x.1 (slotEntry t x.1 ||| claimedBits x.2)) s).modLaunch l.id fun l =>
      { l with slotsOn := false }
  else s

/-- The images of a context's launches of which no task is placed and some are pre-empted removed (R328). -/
def dropIdleSlots (s : State) (ctx : BitVec 12) : State :=
  (s.launches.filter fun l => l.ctx == ctx &&
      (s.tasks.any fun t => t.launch == l.id && t.saved) && !s.tasks.any fun t => t.launch == l.id && t.onCore).foldl dropSlots s

/-! ### Context areas (R379, R383) -/

/-- The tasks of a launch that have no context area yet. -/
def needArea (s : State) (l : Launch) : List Task := s.tasks.filter fun t => t.launch == l.id && t.area == 0 && t.st != .retired

/-- The free areas of a context's pool, lowest first, each one more than its address. -/
def freeAreas (s : State) (c : Context) : List Nat :=
  let used := (s.tasks.filter fun t => taskOf s c.id t).map fun t => t.area
  ((List.range c.npool).map fun i => c.pool + i * 0x50000 + 1).filter fun a => !used.contains a

/-- The tasks of a launch given the lowest free areas in order of their index. -/
def giveAreas (s : State) (c : Context) (l : Launch) : State :=
  ((needArea s l).zip (freeAreas s c)).foldl (fun t x => t.modTask x.1.id fun y => { y with area := x.2 }) s

/-! ### What a launch waits for -/

/-- A gang launch: its group table lists two of its tasks in one entry (R292). -/
def isGang (l : Launch) : Bool :=
  l.gtab.any fun e => entV e && decide (2 ≤ ((List.range 640).filter fun i => (entTasks e).getLsbD i).length)

/-- A launch that has been placed before. -/
def placedBefore (s : State) (l : Launch) : Bool :=
  s.tasks.any fun t => t.launch == l.id && (t.st != .waiting || t.saved)

/-- A launch whose entry names a key of a domain group that an earlier launch formed waits until that has ended
(R403). -/
def domainHeld (s : State) (l : Launch) : Bool :=
  !placedBefore s l &&
  l.gtab.any fun e => entV e && entPeers e != 0 && s.groups.any fun g => g.key.domain && g.key.xkey == entKey e

/-- A launch that may be placed now. -/
def mayPlace (s : State) (c : Context) (l : Launch) : Bool :=
  c.ctl == .running && c.fault.isNone && !domainHeld s l && !slotClash s l &&
  decide ((needArea s l).length ≤ (freeAreas s c).length)

/-! ### Placing (R292, R295) -/

/-- The working cores that a task of a launch may take, lowest first. -/
def usableCores (s : State) (l : Launch) (t : Task) : List Nat :=
  if l.cores.isEmpty then maskCores s l.recBits else (l.cores.drop t.index).take 1 |>.filter fun n => coreWorks s n

/-- Tasks paired with cores out of a list of free ones, each with its lowest. -/
def pairUp (s : State) (l : Launch) : List Nat → List Task → List (Task × Nat)
  | _, [] => []
  | free, t :: ts =>
    match (usableCores s l t).find? fun n => free.contains n with
    | none => pairUp s l free ts
    | some n => (t, n) :: pairUp s l (free.filter fun m => m != n) ts

/-- A task placed on a core: it holds the core, at the effective priority of its launch. -/
def seatTask (l : Launch) (prio : Nat) (s : State) (x : Task × Nat) : State :=
  (s.modCore x.2 fun c => { c with task := some x.1.id, ctx := l.ctx, prio := BitVec.ofNat 2 prio }).modTask x.1.id
    fun t => { t with st := .residing, core := x.2, since := s.now }

/-- The record cache of a task's start: the initial records, a later one replacing an earlier one (R151). -/
def startRecs (l : Launch) : List Block := l.recs.foldl (fun rs r => (installRec rs r).getD rs) []

/-- The residency tiles of a launch that a record names and whose grid holds them (R295). -/
def residency (l : Launch) : List (TileKey × Block) :=
  (List.range (lNres l.recBits)).filterMap fun i =>
    let x := lRes l.recBits i
    match handleRec (startRecs l) x.1 with
    | none => none
    | some r =>
      if inGrid r (coOuter x.2).toNat (coRow x.2).toNat (coCol x.2).toNat then
        some (tileKey l.ctx r (coOuter x.2).toNat (coRow x.2).toNat (coCol x.2).toNat, r)
      else none

/-- The residency tiles asked for in a cluster's hall, at class 3; a hall without a way drops one (R279). -/
def fetchResidency (l : Launch) (s : State) (cl : Nat) : State :=
  (residency l).foldl (fun t x => fillHall t cl x.1 x.2 { cls := some 3, itin := true }) s

/-- Tasks of a launch placed on their cores: areas, image, groups and residency with them. -/
def placeAll (s : State) (c : Context) (l : Launch) (prio : Nat) (ps : List (Task × Nat)) : State :=
  if ps.isEmpty then s
  else
    let cls := (ps.map fun p => coreCluster p.2).eraseDups
    let t := ps.foldl (seatTask l prio) (loadSlots (giveAreas s c l) l)
    let u := joinEarly (formGroups t l) l
    (cls.foldl (fetchResidency l) u).modLaunch l.id fun l => { l with ran := (l.ran ++ cls).eraseDups }

/-! ### Pre-emption (R294) -/

/-- A task that is stopping or saving. -/
def Task.leaving (t : Task) : Bool := t.st == .stopping || t.st == .saving

/-- A core that another waiting launch claims. -/
def claimedElsewhere (s : State) (l : Launch) (n : Nat) : Bool :=
  s.claims.any fun c => c.1 == n && c.2 != l.id &&
    s.tasks.any fun t => t.launch == c.2 && t.st == .waiting

/-- The order in which victims are taken. -/
def victimBefore (s : State) (a b : Task) : Bool :=
  let p := (s.core a.core).prio
  let q := (s.core b.core).prio
  decide (q < p) || (p == q && (decide (b.since < a.since) || (a.since == b.since && decide (b.core < a.core))))

/-- The running tasks that a victim brings with it: its launch's in a gang, else itself. -/
def withGang (s : State) (t : Task) : List Task :=
  match s.launch? t.launch with
  | none => [t]
  | some l => if isGang l then s.tasks.filter fun u => u.launch == l.id && u.st == .running else [t]

/-- Victims taken in order until enough of them stand on usable cores; none if there are not enough. -/
def takeVictims (s : State) (cores : List Nat) (need : Nat) : List Task → List Task → Option (List Task)
  | got, [] => if need ≤ (got.filter fun t => cores.contains t.core).length then some got else none
  | got, t :: ts =>
    if need ≤ (got.filter fun t => cores.contains t.core).length then some got
    else
      let more := (withGang s t).filter fun u => !(got.any fun v => v.id == u.id)
      takeVictims s cores need (got ++ more) ts

/-- A pre-emption requested of a task (R244). -/
def requestStop (prio : Nat) (s : State) (t : Task) : State :=
  (s.modTask t.id fun x => { x with st := .stopping, why := 0, cutAt := none }).modCore t.core fun c =>
    { c with preqPend := true, preqPrio := BitVec.ofNat 2 prio, preqSince := s.now }

/-- The victims of a launch that still needs `need` of its usable cores: the tasks that are already stopping count once,
then running ones of lower priority are taken. -/
def preempt (s : State) (l : Launch) (prio need : Nat) (cores : List Nat) : State :=
  let already := s.tasks.filter fun t => t.leaving && cores.contains t.core && !claimedElsewhere s l t.core
  let cands := sortBy (victimBefore s)
    (s.tasks.filter fun t => t.st == .running && cores.contains t.core && decide (prio < (s.core t.core).prio.toNat))
  match takeVictims s cores (need - already.length) [] cands with
  | none => s
  | some vs =>
    let t := vs.foldl (requestStop prio) s
    { t with claims := t.claims ++
        ((already ++ vs.filter fun v => cores.contains v.core).map fun v => (v.core, l.id)).filter fun c =>
          !t.claims.contains c }

/-! ### SCHEDULER_WALK (R292) -/

/-- A walk so far: the state and the cores claimed, each with its launch. -/
structure Walk where
  s : State
  claimed : List (Nat × Nat)

/-- One entry of the choice order. -/
def walkEntry (w : Walk) (e : Waiting) : Walk :=
  let l := e.launch
  let s := w.s
  let ts := e.tasks
  match s.ctx? l.ctx with
  | none => w
  | some c =>
    if ts.isEmpty || !mayPlace s c l then w
    else
      let prio := eprio s l e.arrival
      let usable := (ts.flatMap fun t => usableCores s l t).eraseDups
      let free := usable.filter fun n => coreFree s n && !(w.claimed.any fun x => x.1 == n)
      let all := pairUp s l free ts
      let ps := if isGang l && decide (all.length < ts.length) then [] else all
      let t := placeAll s c l prio ps
      let left := ts.length - ps.length
      if left = 0 then { w with s := t }
      else
        let mine := (free.filter fun n => coreFree t n).take left
        { s := if mine.length < left then preempt t l prio (left - mine.length) usable else t,
          claimed := w.claimed ++ mine.map fun n => (n, l.id) }

/-- The claims after a walk of a cluster's scheduler: those of other schedulers, those on victims' cores, and the walk's
own. -/
def claimsAfter (s : State) (cl : Nat) (mine : List (Nat × Nat)) : List (Nat × Nat) :=
  (s.claims.filter fun c =>
    (match s.launch? c.2 with
     | none => false
     | some l => l.cluster != cl || !coreFree s c.1)) ++ mine

/-- SCHEDULER_WALK: one walk of a cluster's scheduler. -/
def execSchedulerWalk (cluster : Nat) (s : State) : Out :=
  if 40 ≤ cluster then .next s
  else
    let w := (sortBy (chosenBefore s) (waitingAt s cluster)).foldl walkEntry { s := s, claimed := [] }
    .next { w.s with claims := claimsAfter w.s cluster w.claimed }

/-! ### Residency and start (R151, R293, R295) -/

/-- Every residency tile of a launch is readable in a hall. -/
def resident (s : State) (cl : Nat) (l : Launch) : Bool :=
  (residency l).all fun x =>
    match lineOf (s.cluster cl).hall x.1 with
    | none => false
    | some v => v.readable

/-- RESIDENCY_TIMEOUT: a residing task starts once the limit has passed since its placement. -/
def execResidencyTimeout (task : Nat) (s : State) : Out :=
  match s.task? task with
  | none => .next s
  | some t =>
    if t.st = .residing ∧ limitPassed s.now t.since (s.cluster (coreCluster t.core)).restime.toNat = true then
      .next (s.modTask task fun t => { t with st := .starting })
    else .next s

/-- A placed task whose residency has ended. -/
def readyToStart (s : State) (t : Task) (l : Launch) : Bool :=
  t.st == .starting ||
  (t.st == .residing &&
   ((s.cluster (coreCluster t.core)).restime == 0 || resident s (coreCluster t.core) l))

/-- The core as R151 sets it for a task: its alcove keeps the lines of other contexts and the clean ones of versioned
tensors. -/
def startCore (c : Core) (l : Launch) (prio : BitVec 2) (task : Nat) : Core :=
  { alcove := c.alcove.filter fun v => v.key.ctx != l.ctx || recVersioned v.lrec
    aplru := c.aplru
    recs := startRecs l
    ctx := l.ctx
    prio := prio
    arg := l.arg
    task := some task }

/-- The core's strands set to fetch from the entries of a launch. -/
def enterStrands (c : Core) (l : Launch) : Core :=
  Kind.all.foldl
    (fun c k => c.setStrand k { mode := .running, pc := BitVec.ofNat 64 (lEntry l.recBits k) }) c

/-- TASK_START: the core takes the task-start state, the task its memberships, and the strands run. -/
def execTaskStart (task : Nat) (s : State) : Out :=
  match s.task? task with
  | none => .next s
  | some t =>
    match s.launch? t.launch with
    | none => .next s
    | some l =>
      if !readyToStart s t l || t.saved then .next s
      else
        let u := (s.modCore t.core fun c => enterStrands (startCore c l c.prio task) l).modTask task fun t =>
          { t with st := .running, since := s.now, why := 0, cutAt := none, grps := firstGroups l t.index }
        .next (tracePost u l.ctx (some (t.core, .a)) 3 0 0 (strandId s t.core .a) 0)

end Sys2Proof.Machine
end

