-- ==== Sys2Proof/Machine/Retire.lean ====
section
/-! DEFINITION. Retirement of tasks and launches (R116, R293), and what completes a stop of a context or resumes it
(R382). -/

namespace Sys2Proof.Machine

/-! ### Stops that complete (R382) -/

/-- The stopped tasks of a context back in the choice order, and the resume reported. -/
def resumeContext (s : State) (ctx : BitVec 12) : State :=
  let t := s.modCtx ctx fun c => { c with ctl := .running, resumePend := false, stopOp := false }
  postNote
    { t with tasks := t.tasks.map fun x => if taskOf t ctx x && x.st == .stopped then { x with st := .waiting } else x }
    ctx 0 4 2 0 0

/-- A stopping context none of whose tasks holds a core is stopped: a stop by the host is reported, and a resume that
came meanwhile takes effect, unless a kill or a fault goes before it. -/
def settleStop (s : State) (ctx : BitVec 12) : State :=
  match s.ctx? ctx with
  | none => s
  | some c =>
    let s := dropIdleSlots s ctx
    if c.ctl = .stopping ∧ (ctxCores s ctx).isEmpty = true then
      let t := s.modCtx ctx fun c => { c with ctl := .stopped }
      let u := if c.stopOp then postNote t ctx 0 4 1 0 0 else t
      if c.resumePend && !c.killOp && !faulted s ctx then resumeContext u ctx else u
    else s

/-! ### TASK_RETIRE (R293) -/

/-- The retirement condition of a task's core. -/
def Core.finished (c : Core) : Bool :=
  (Kind.all.all fun k => (c.strand k).mode == .halted) &&
  ((List.range 8).all fun i => (c.tok i).count == 0) &&
  c.loads.isEmpty && c.vops.isEmpty && c.mops.isEmpty && c.replay.isEmpty && c.pubs.isEmpty

/-- A core's pins in its hall cleared, and those of the fills that it asked for (R280). -/
def clearPins (s : State) (n : Nat) : State :=
  (unpinReqs (unpinReqs s n false none) n true none).modCluster (coreCluster n) fun c =>
    { c with hall := c.hall.map fun v => { v with pins := v.pins &&& ~~~(1#16 <<< (n % 16)) } }

/-- What a core's task leaves in memory and in the hall: its stores performed, its dirty lines written back, its pins
cleared, a frame that a KVAPP still held given back; the core is then idle. -/
def vacate (s : State) (n : Nat) : State :=
  let u := dropRun s n (s.core n).ctx
  let t := clearPins (drainAlcove (flushStores u n fun _ => true) n fun _ => true) n
  t.modCore n fun c => idleCore { c with alcove := c.alcove.map fun v => { v with pins := 0 } }

/-- A task retired: it leaves its groups and gives up its core. -/
def retireTask (s : State) (t : Task) (l : Launch) : State :=
  let u := leaveAll (vacate s t.core) l t
  let v := clearRetain (u.modTask t.id fun t => { t with st := .retired, area := 0 }) (coreCluster t.core)
  tracePost v l.ctx (some (t.core, .a)) 4 0 0 (strandId s t.core .a) 0

/-- TASK_RETIRE: the condition holds; a token error that was never reported is a fault instead (R116). -/
def execTaskRetire (task : Nat) (s : State) : Out :=
  match s.task? task with
  | none => .next s
  | some t =>
    match s.launch? t.launch with
    | none => .next s
    | some l =>
      let c := s.core t.core
      if t.st ≠ .running ∨ c.finished = false then .next s
      else
        match tokErrs c 0xFF with
        | [] => .next (settleStop (retireTask s t l) l.ctx)
        | es => .next (s.strandFault t.core .a 0x0A 0 0 (tokErrTval c es) 0)

/-! ### LAUNCH_RETIRE (R293, R403) -/

/-- The dirty hall lines of a context in the clusters that ran a launch, written back. -/
def drainRan (s : State) (l : Launch) : State := l.ran.foldl (fun t cl => drainHall t cl fun v => v.key.ctx == l.ctx) s

/-- A launch's groups ended: those of the module are forgotten, the domain ones know that this module has retired, and
its peers are told (log 24). -/
def endLaunchGroups (s : State) (l : Launch) : State :=
  let keys := ((List.range l.gtab.length).filter fun g => entV (l.ent g)).map fun g => groupKey s l g
  let t := { s with groups :=
    (s.groups.filter fun g => g.key.domain || !keys.contains g.key).map fun g =>
      if keys.contains g.key && !g.gone.contains s.modNum.toNat then { g with gone := g.gone ++ [s.modNum.toNat] } else g }
  endGroups ((keys.filter fun k => k.domain).foldl
    (fun t k => t.send "module-arrival" ([k.xkey.zeroExtend 64, 0] ++ modsWords k.mods)) t)

/-- Sequence numbers and contributions of a launch's groups that have ended forgotten. -/
def forgetGroups (s : State) (l : Launch) : State :=
  let keys := ((List.range l.gtab.length).filter fun g => entV (l.ent g)).map fun g => groupKey s l g
  let keep := fun (k : GroupKey) => !keys.contains k || s.groups.any fun g => g.key == k
  { s with colls := s.colls.filter fun m => keep m.group, collSeqs := s.collSeqs.filter fun x => keep x.1 }

/-- A launch gone with its tasks. -/
def dropLaunch (s : State) (l : Launch) : State :=
  { s with launches := s.launches.filter fun x => x.id != l.id, tasks := s.tasks.filter fun t => t.launch != l.id,
           claims := s.claims.filter fun c => c.2 != l.id }

/-- The writes that every reader to come receives forgotten, with the earlier ones of their granules (R254). -/
def dropHist (s : State) (settled : OldWrite → Bool) : State :=
  { s with hist := s.hist.filter fun w =>
      !s.hist.any fun v => v.granule == w.granule && decide (w.id ≤ v.id) && settled v }

/-- The writes of a launch marked as carried to every task that starts from now on (R414); those that every started task
receives are forgotten. -/
def retireWrites (s : State) (l : Launch) : State :=
  let mine := fun (w : OldWrite) => w.task.any fun i => s.tasks.any fun t => t.id == i && t.launch == l.id
  let t := { s with hist := s.hist.map fun w => if mine w && w.gone.isNone then { w with gone := some s.now } else w }
  dropHist t fun w =>
    match w.gone with
    | none => false
    | some g => t.tasks.all fun x => x.launch == l.id || !(x.live || x.saved) || decide (g ≤ x.since)

/-- A clean hall line of an unversioned tensor that no longer agrees with memory. -/
def staleLine (s : State) (cl : Nat) (v : TileLine) : Bool :=
  v.st == .clean && !recVersioned v.lrec &&
    match gatherTile s cl v.key.ctx v.lrec v.key.outer.toNat v.key.trow.toNat v.key.tcol.toNat with
    | .ok d => d != v.data
    | .error _ => true

/-- The halls without the stale lines of a context, so that no task that starts later reads data from before the retirement
(R414, log 112); the residency of tasks that are placed is asked for again. -/
def freshHalls (s : State) (ctx : BitVec 12) : State :=
  let t := restartFills
    { s with clusters := s.clusters.map fun x => (x.1, { x.2 with hall := x.2.hall.filter fun v =>
        !(v.key.ctx == ctx && staleLine s x.1 v) }) }
    fun r => r.key.ctx == ctx
  (t.tasks.filter fun x => taskOf t ctx x && x.st == .residing).foldl
    (fun u x => match u.launch? x.launch with
      | none => u
      | some l => fetchResidency l u (coreCluster x.core)) t

/-- LAUNCH_RETIRE: with every task retired, the hall lines are written back, and only then the status and the
completion are written. A write-back that faults leaves the launch to its context's stop. -/
def execLaunchRetire (launch : Nat) (s : State) : Out :=
  match s.launch? launch with
  | none => .next s
  | some l =>
    if !(s.tasks.all fun t => t.launch != l.id || t.st == .retired) then .next s
    else
      let t0 := drainRan s l
      if faulted t0 l.ctx then .next t0
      else
        let t := retireWrites (freshHalls t0 l.ctx) l
        let u := noteStatus (putStatus t l.cluster l.ctx l.notify 2) l.ctx l.tag 2
        let v := if l.fwhen then statusFlag u l.fe else u
        .next (dropLaunch (forgetGroups (endLaunchGroups (dropSlots v l) l) l) l)

end Sys2Proof.Machine
end

