-- ==== Sys2Proof/Machine/Transfer.lean ====
section
/-! DEFINITION. Accumulator transfers: ALD and AST (R201 to R204) and the event ALD_COMPLETE. -/

namespace Sys2Proof.Machine

/-! ### Regions of a transfer (R202 to R204) -/

/-- The region of a transfer: its origin with the size of the tile, or of its transpose; none when the register breaks
R202. -/
def transferRegion (x : Word) (r : Block) (tr : Bool) : Option Region :=
  match regionOf x with
  | none => none
  | some g =>
    if g.nrow = 1 ∧ g.ncol = 1 then
      some (if tr then { g with nrow := recCols r, ncol := recRows r } else { g with nrow := recRows r, ncol := recCols r })
    else none

/-- The conditions of R204: the region, or none for the matrix-operand fault with reason 0x9. -/
def transferOk (store : Bool) (x : Word) (r : Block) (view : BitVec 3) (tr : Bool) (ve : Bool) : Option Region :=
  let t := recTfmt r
  if (store && (t == 8 || t == 9 || t == 10)) || recClass r == 2 || (ve && !recVersioned r) ||
      decide (64 < (if tr then recCols r else recRows r)) then none
  else
    match transferRegion x r tr with
    | none => none
    | some g => if regionFits g (etWidth view) then some g else none

/-- The version operand of a transfer. -/
def verOpt (ve : BitVec 1) (minv : BitVec 8) : Option (BitVec 8) := if ve = 1 then some minv else none

/-! ### ALD -/

/-- The command of an ALD as it issues (R203, R266). -/
def aldCmd (s : State) (i : Instr) (rr rp : BitVec 6) (r : Block) (m : Option (BitVec 8)) (spans : List (Nat × Nat × Nat)) :
    Parked :=
  let ws := encode i
  { id := s.nextId, kind := 2, w0 := ws.headD 0, w1 := ws.getD 1 0, regs := [s.rd rr, s.rd rp, s.rd (pairOdd rp)], fq := 0,
    recs := [r], keys := [], minv := m, pc := s.nextPc, base := s.issue.base, sa := [], sb := [], areg := [],
    spans := spans, since := s.now }

/-- A legal ALD: it waits, or issues (R129, R141, R203). -/
def aldStart (i : Instr) (rr rp : BitVec 6) (r : Block) (m : Option (BitVec 8)) (spans : List (Nat × Nat × Nat)) (s : State) :
    Out :=
  let p0 := aldCmd s i rr rp r m spans
  let p := { p0 with keys := (p0.wants s.live.ctx).map fun x => x.1 }
  if cellsMeet spans (busyForM s) then hold s
  else if decide (16 ≤ parkedCount s.live) && !parkedReady s.live p then hold s
  else .next (parkCmd { s with nextId := s.nextId + 1 } s.issue.core p)

/-- ALD. -/
def execAld (g rr rp : BitVec 6) (view rm : BitVec 3) (ftz tr ve : BitVec 1) (minv : BitVec 8) (s : State) : Out :=
  guarded g s fun s => ready s [rr, rp, pairOdd rp] (
    match handleRec s.issue.pre.recs (s.rd rp) with
    | none => faultAt s 6 0 (s.rd rp) 0
    | some r =>
      match transferOk false (s.rd rr) r view (tr == 1) (ve == 1) with
      | none => faultAt s 7 9 0 0
      | some d =>
        aldStart (.ald g rr rp view rm ftz tr ve minv) rr rp r (verOpt ve minv) (regionSpans d (etWidth view)) s)

/-- The elements of the tile of an ALD in the view, with their places and sticky bits (R203). -/
def aldResults (c : Core) (p : Parked) : List (AccWrite × BitVec 7) :=
  let r := p.recs.getD 0 0
  let view := p.w1.extractLsb' 29 3
  let tr := p.w1.getLsbD 24
  let co := p.regs.getD 2 0
  match transferRegion (p.regs.getD 0 0) r tr with
  | none => []
  | some d =>
    (tileCells r).map fun x =>
      let e := tileBits c r p.minv (coOuter co).toNat (coRow co).toNat (coCol co).toNat x.1 x.2
      let y := convert (recTfmt r) (viewFmt view) (Mode.ofBits (p.w1.extractLsb' 26 3)) (p.w1.getLsbD 25) e
      (if tr then regionWrite d (etWidth view) x.2 x.1 y.1 else regionWrite d (etWidth view) x.1 x.2 y.1, y.2)

/-- ALD_COMPLETE (R203). -/
def execAldComplete (core idx : Nat) (s : State) : Out :=
  match (s.core core).replay[idx]? with
  | none => .next s
  | some p =>
    if p.kind ≠ 2 then .next s
    else if parkedReady (s.core core) p then .next (finishParked s core p (aldResults (s.core core) p))
    else .next (if p.dead then s else lookWants s core p)

/-! ### AST -/

/-- The elements of the tile that an AST writes, as bits of the tile format, with their sticky bits (R203). -/
def astElem (acc : Tab Word32) (r : Block) (view rm : BitVec 3) (ftz tr : Bool) (d : Region) (x : Nat × Nat) : Nat × BitVec 7 :=
  let e := if tr then regionElem acc d (etWidth view) x.2 x.1 else regionElem acc d (etWidth view) x.1 x.2
  convert (viewFmt view) (recTfmt r) (Mode.ofBits rm) ftz e

/-- Elements packed into a line, element 0 least significant. -/
def packElems (w : Nat) : List (Nat × BitVec 7) → Nat
  | [] => 0
  | x :: xs => x.1 + packElems w xs * 2 ^ w

/-- A tile that an earlier M command has found and has still to read (R198, R250, log 25). -/
def foundBy (c : Core) (k : TileKey) : Bool :=
  c.replay.any fun p => (p.wants c.ctx).any fun w => w.1 == k && wantHit c w

/-- The line of a whole-tile write in a way (R136, R139). -/
def writtenLine (s : State) (n : Nat) (k : TileKey) (r : Block) (way : Nat) (pins : BitVec 16) (ver : BitVec 8) (data : Line) :
    TileLine :=
  let lvl := tileLvl s (coreCluster n) k r
  { bank := alcoveBank k, way := way, key := k, ver := ver,
    cls := if lvl = 0 then tileCls s (coreCluster n) k r else 0, pins := pins,
    st := if lvl = 0 then .dirty else .draining, keep := false, thru := decide (lvl ≠ 0), unit := strandId s n s.issue.kind,
    pc := s.nextPc, base := s.issue.base, lrec := r, data := data, byAst := true }

/-- A line put into the alcove in the place of any line of its way; what the tile's writes before it were still owed goes on
with it (R255). -/
def putLine (s : State) (n : Nat) (l : TileLine) : State :=
  s.modCore n fun c =>
    let x : TileLine := match lineOf c.alcove l.key with
      | none => { l with units := [l.unit] }
      | some o => { l with units := (l.unit :: o.units).eraseDups, rels := o.rels }
    touchAlcove { c with alcove := dropAtWay c.alcove l.bank l.way ++ [x] } l.bank l.way

/-- A whole-tile write that takes a way of its own (R138); none where no way is a candidate. -/
def allocWrite (s : State) (n : Nat) (k : TileKey) (r : Block) (ver : BitVec 8) (data : Line) : Option State :=
  match alcovePick (s.core n) k with
  | .free w => some (putLine s n (writtenLine s n k r w 0 ver data))
  | .victim v =>
    let t := if v.st = .dirty then drainLine s n v false else s
    some (putLine t n (writtenLine t n k r v.way 0 ver data))
  | .none => none

/-- The whole-tile write of an AST (R203); none where it waits for a line or a way. -/
def storeTile (s : State) (n : Nat) (k : TileKey) (r : Block) (m : Option (BitVec 8)) (data : Line) : Option State :=
  match lineOf (s.core n).alcove k with
  | none => allocWrite s n k r (m.getD 0) data
  | some l =>
    match l.st with
    | .draining => none
    | .filling => some (putLine s n (writtenLine s n k r l.way l.pins (m.getD 0) data))
    | .clean => some (putLine s n (writtenLine s n k r l.way l.pins (m.getD l.ver) data))
    | .dirty =>
      if m.getD l.ver = l.ver then some (putLine s n (writtenLine s n k r l.way l.pins l.ver data))
      else allocWrite (drainLine s n l false) n k r (m.getD 0) data

/-- AST. -/
def execAst (g rr rp : BitVec 6) (view rm : BitVec 3) (ftz tr ve : BitVec 1) (minv : BitVec 8) (s : State) : Out :=
  guarded g s fun s => ready s [rr, rp, pairOdd rp] (
    match handleRec s.issue.pre.recs (s.rd rp) with
    | none => faultAt s 6 0 (s.rd rp) 0
    | some r =>
      match transferOk true (s.rd rr) r view (tr == 1) (ve == 1) with
      | none => faultAt s 7 9 0 0
      | some d =>
        let co := s.rd (pairOdd rp)
        let k := tileKey s.live.ctx r (coOuter co).toNat (coRow co).toNat (coCol co).toNat
        if cellsMeet (regionSpans d (etWidth view)) (busyForM s) || foundBy s.live k then hold s
        else
          let es := (tileCells r).map (astElem s.live.acc r view rm (ftz == 1) (tr == 1) d)
          match storeTile s s.issue.core k r (verOpt ve minv) (BitVec.ofNat 32768 (packElems (fmtWidth (recTfmt r)) es)) with
          | none => hold s
          | some t => .next ((t.readCells (regionSpans d (etWidth view))).raiseSticky (es.foldl (fun f x => f ||| x.2) 0)))

end Sys2Proof.Machine
end

