-- ==== Sys2Proof/Machine/Special.lean ====
section
/-! DEFINITION. The special functions (R68 to R70, R225): the exact value of each function enclosed between two
neighbours of a fine binary grid, from which its one correct rounding follows. A value that lies strictly between
the grid points M and M + 1 is represented by M + 1/2: no value of an element format and no midpoint of two lies
between them, so both round alike. -/

namespace Sys2Proof.Machine

/-- A quotient rounded down or up. -/
def divDir (up : Bool) (a b : Nat) : Nat := if up then (a + b - 1) / b else a / b

/-- ln 2 × 2^p rounded in a direction, by the series of 1/(n 2^n). -/
def ln2Series (up : Bool) (p : Nat) : Nat → Nat → Nat → Nat
  | 0, _, acc => if up then acc + 2 else acc
  | fuel + 1, n, acc => ln2Series up p fuel (n + 1) (acc + divDir up (2 ^ p) (n * 2 ^ n))

/-- e^y × 2^p for 0 ≤ y ≤ 1 given as y × 2^p, by its series, in a direction. -/
def expSeries (up : Bool) (p y : Nat) : Nat → Nat → Nat → Nat → Nat
  | 0, _, t, acc => if up then acc + t + t + 2 else acc
  | fuel + 1, n, t, acc => expSeries up p y fuel (n + 1) (divDir up (t * y) (n * 2 ^ p)) (acc + t)

/-- The number of terms that reach a precision. -/
def expTerms (p : Nat) : Nat := p / 3 + 10

/-- e^y × 2^p, 0 ≤ y ≤ 1. -/
def expFix (up : Bool) (p y : Nat) : Nat := expSeries up p y (expTerms p) 1 (2 ^ p) 0

/-- The working precisions tried in turn. -/
def precisions : List Nat := [96, 192, 384, 768]

/-- The first pair of equal answers of two directions over the precisions. -/
def settle (f : Bool → Nat → Nat) : List Nat → Nat
  | [] => f false 1024
  | p :: ps => if f false p = f true p then f false p else settle f ps

/-- The grid point below 2^fr × 2^40, 0 < fr < 1, fr = a / 2^k. -/
def exp2Grid (a k : Nat) : Nat :=
  settle
    (fun up p =>
      let y := divDir up (a * ln2Series up p (p + 4) 1 0) (2 ^ k)
      expFix up p y / 2 ^ (p - 40))
    precisions

/-- The result of a function: its value or the representative of its cell, and whether the value is exact. -/
abbrev FnVal := Num × Bool

/-- The representative of the cell above a grid point M × 2^e. -/
def cell (neg : Bool) (m : Nat) (e : Int) : FnVal := (.fin neg (2 * m + 1) (e - 1), false)

/-- 2^x for a finite x (R68). -/
def fnExp2 (neg : Bool) (m : Nat) (e : Int) : FnVal :=
  if m = 0 then (.fin false 1 0, true)
  else if 10 ≤ (Nat.log2 m : Int) + e then
    (.fin false 1 (if neg then -2000 else 2000), false)
  else if 0 ≤ e then
    let i : Int := (m * 2 ^ e.toNat : Nat)
    (.fin false 1 (if neg then -i else i), true)
  else
    let k := (-e).toNat
    let q := m / 2 ^ k
    let r := m % 2 ^ k
    if r = 0 then (.fin false 1 (if neg then -(q : Int) else q), true)
    else if neg then cell false (exp2Grid (2 ^ k - r) k) (-(q : Int) - 1 - 40)
    else cell false (exp2Grid r k) ((q : Int) - 40)

/-- The binary digits of log2 of t × 2^−p, 1 ≤ t × 2^−p < 2, by repeated squaring, in a direction. -/
def logDigits (up : Bool) (p : Nat) : Nat → Nat → Nat → Nat
  | 0, _, acc => acc
  | fuel + 1, t, acc =>
    let u := divDir up (t * t) (2 ^ p)
    if 2 ^ (p + 1) ≤ u then logDigits up p fuel (divDir up u 2) (2 * acc + 1) else logDigits up p fuel u (2 * acc)

/-- log2 x for a finite x above zero (R68). -/
def fnLog2 (m : Nat) (e : Int) : FnVal :=
  let g := Nat.log2 m
  let i : Int := (g : Int) + e
  if m = 2 ^ g then (ofInt i, true)
  else
    let d := settle (fun up p => logDigits up p 64 (divDir up (m * 2 ^ p) (2 ^ g)) 0) precisions
    let v : Int := i * 2 ^ 64 + d
    if 0 ≤ v then cell false v.toNat (-64) else cell true (-v - 1).toNat (-64)

/-- The odd part of a number and the exponent taken out. -/
def oddPart : Nat → Nat → Int → Nat × Int
  | 0, m, e => (m, e)
  | fuel + 1, m, e => if m % 2 = 0 then oddPart fuel (m / 2) (e + 1) else (m, e)

/-- 1 ÷ x for a finite x that is not zero (R68). -/
def fnRcp (neg : Bool) (m : Nat) (e : Int) : FnVal :=
  let o := oddPart 64 m e
  if o.1 = 1 then (.fin neg 1 (-o.2), true)
  else
    let k := Nat.log2 o.1 + 48
    cell neg (2 ^ k / o.1) (-o.2 - k)

/-- The integer square root, digit by digit. -/
def sqrtDigits (n : Nat) : Nat → Nat → Nat
  | 0, r => if (r + 1) * (r + 1) ≤ n then r + 1 else r
  | b + 1, r => sqrtDigits n b (if (r + 2 ^ (b + 1)) * (r + 2 ^ (b + 1)) ≤ n then r + 2 ^ (b + 1) else r)

/-- 1 ÷ √x for a finite x above zero (R68). -/
def fnRsq (m : Nat) (e : Int) : FnVal :=
  let o := oddPart 64 m e
  let m' := if o.2 % 2 = 0 then o.1 else 2 * o.1
  let h : Int := if o.2 % 2 = 0 then o.2 / 2 else (o.2 - 1) / 2
  if m' = 1 then (.fin false 1 (-h), true)
  else cell false (sqrtDigits (2 ^ 128 / m') 64 0) (-h - 64)

/-- A value squared `n` times at a precision, in a direction. -/
def squareTimes (up : Bool) (p : Nat) : Nat → Nat → Nat
  | 0, x => x
  | n + 1, x => squareTimes up p n (divDir up (x * x) (2 ^ p))

/-- The grid point below tanh(u / 2^k) × 2^64 for 0 < u / 2^k < 32. -/
def tanhGrid (u k : Nat) : Nat :=
  settle
    (fun up p =>
      let y := divDir up (u * 2 ^ p) (2 ^ k * 32)
      let x := squareTimes up p 6 (expFix up p y)
      divDir false ((x - 2 ^ p) * 2 ^ 64) (x + 2 ^ p))
    precisions

/-- tanh x for a finite x that is not zero (R68). -/
def fnTanh (neg : Bool) (m : Nat) (e : Int) : FnVal :=
  let lg : Int := (Nat.log2 m : Int) + e
  if lg < -13 then (.fin neg (m * 2 ^ 40 - 1) (e - 40), false)
  else if 5 ≤ lg then (.fin neg (2 ^ 64 - 1) (-64), false)
  else if 0 ≤ e then cell neg (tanhGrid (m * 2 ^ e.toNat) 0) (-64)
  else cell neg (tanhGrid m (-e).toNat) (-64)

/-- The special functions. -/
inductive SpecialFn where
  | exp2 | log2 | rcp | rsq | tanh
  deriving DecidableEq, Repr

/-- The special operands of R69: the result and the sticky bits, or nothing where R68 applies. -/
def specialOperand (fn : SpecialFn) (x : Num) : Option (Num × BitVec 7) :=
  match fn, x with
  | _, .nan => some (.nan, 0)
  | .exp2, .inf true => some (.fin false 0 0, 0)
  | .exp2, .inf false => some (.inf false, 0)
  | .exp2, .fin .. => none
  | .log2, .inf true => some (.nan, skNv)
  | .log2, .inf false => some (.inf false, 0)
  | .log2, .fin neg m _ => if m = 0 then some (.inf true, skDz) else if neg then some (.nan, skNv) else none
  | .rcp, .inf neg => some (.fin neg 0 0, 0)
  | .rcp, .fin neg m _ => if m = 0 then some (.inf neg, skDz) else none
  | .rsq, .inf true => some (.nan, skNv)
  | .rsq, .inf false => some (.fin false 0 0, 0)
  | .rsq, .fin neg m _ => if m = 0 then some (.inf neg, skDz) else if neg then some (.nan, skNv) else none
  | .tanh, .inf neg => some (.fin neg 1 0, 0)
  | .tanh, .fin neg m _ => if m = 0 then some (.fin neg 0 0, 0) else none

/-- The exact value of a function, or its cell, at a finite operand. -/
def specialValue (fn : SpecialFn) (neg : Bool) (m : Nat) (e : Int) : FnVal :=
  match fn with
  | .exp2 => fnExp2 neg m e
  | .log2 => fnLog2 m e
  | .rcp => fnRcp neg m e
  | .rsq => fnRsq m e
  | .tanh => fnTanh neg m e

/-- A value below the smallest normal of a format in magnitude. -/
def Num.tiny (t : FFmt) : Num → Bool
  | .fin _ m e => decide ((Nat.log2 m : Int) + e < 1 - (t.bias : Int)) && m != 0
  | _ => false

/-- A special function of a lane (R68 to R70): the F32 value correctly rounded, then rounded into the view, and the
sticky bits judged on the final result. -/
def special (fn : SpecialFn) (t : FFmt) (ftz : Bool) (x : Nat) : Nat × BitVec 7 :=
  let v := decodeF t x
  match specialOperand fn v with
  | some r => ((roundF t .rne false r.1).1, r.2)
  | none =>
    match v with
    | .fin neg m e =>
      let y := specialValue fn neg m e
      let f32 := (roundF fF32 .rne false y.1).1
      let out := (roundF t .rne ftz (decodeF fF32 f32)).1
      let z := decodeF t out
      let same := y.2 && z.eqv y.1
      (out, (if same then 0 else skNx) ||| (if z.isInf false || z.isInf true then skOf else 0) |||
        (if y.1.tiny t && !same then skUf else 0))
    | _ => (canonNaN t, 0)

end Sys2Proof.Machine
end

