-- ==== Sys2Proof/Machine/Vector.lean ====
section
/-! DEFINITION. What the V-private instructions share (R209, R212, R215): the lanes of their operands, issue and
completion; with the element-wise arithmetic, the bitwise operations, the comparisons and the conversions (R216 to
R223), and the event VECTOR_COMPLETE. -/

namespace Sys2Proof.Machine

/-! ### Issue and completion (R209, R215) -/

/-- A V-private instruction issued: it waits for its registers and cells, then stands in progress with what it writes.
`dst` is the scalar destination of a VMOVS (R227). -/
def vecIssue (s : State) (regs : List (BitVec 6)) (reads writes : List (Nat × Nat × Nat)) (xs : List AccWrite)
    (f : BitVec 7) (dst : Option (BitVec 6 × Word)) : Out :=
  ready s regs (
    if cellsMeet (reads ++ writes) (busyForV s) || cellsMeet writes s.issue.mreads then hold s
    else
      let reg := match dst with
        | none => none
        | some (d, x) => if d = 0 then none else some (s.pre.physReg d, x)
      let t : State := { s with nextId := s.nextId + 1 }
      let u := match reg with
        | none => t
        | some (p, _) => t.modActing fun st => { st with pend := st.pend ++ [p] }
      .next (u.modLive fun c =>
        { c with vops := c.vops ++ [{ id := s.nextId, spans := writes, writes := xs, sticky := f, reg := reg }] }))

/-- A core with a V instruction in progress completed: its cells, its sticky bits, its scalar result. -/
def Core.finishVec (c : Core) (o : AccOp) : Core :=
  let d := { c.takeResults .v o.writes o.sticky with vops := c.vops.filter fun x => x.id != o.id }
  match o.reg with
  | none => d
  | some (p, x) => d.landReg .v p x

/-- VECTOR_COMPLETE (R209, R215, R227). -/
def execVectorComplete (core idx : Nat) (s : State) : Out :=
  match (s.core core).vops[idx]? with
  | none => .next s
  | some o => .next (s.modCore core fun c => c.finishVec o)

/-! ### Lanes (R133, R212) -/

/-- The lanes of a destination operand (R32). -/
def dstLanes (w : VecWord) : Nat := lanesOf w.etype w.vd

/-- Lane `j` of a source operand in the view of the instruction. -/
def srcLane (s : State) (w : VecWord) (f : BitVec 11) (j : Nat) : Nat := laneBits s.live s.pre (etWidth w.etype) f j

/-- A write of lane `j` of an operand in a view of width `n`. -/
def laneWrite (n : Nat) (f : BitVec 11) (j x : Nat) : AccWrite :=
  let a := laneAt n f j
  { row := a.1, bit := a.2, width := n, bits := x }

/-- The sticky bits of results together. -/
def allSticky (xs : List (Nat × BitVec 7)) : BitVec 7 := xs.foldl (fun f x => f ||| x.2) 0

/-- An instruction that writes every lane of `vd` from the lanes of its operands: `f` gives lane `j` from the bits of
`va`, `vb` and the old `vd`; `reads` names the operands that it reads. -/
def vecLanes (s : State) (w : VecWord) (reads : List (BitVec 11)) (f : Nat → Nat → Nat → Nat × BitVec 7) : Out :=
  let ys := (List.range (dstLanes w)).map fun j => f (srcLane s w w.va j) (srcLane s w w.vb j) (srcLane s w w.vd j)
  vecIssue s (reads.flatMap opRegs) (reads.flatMap (readSpans w.etype)) (allSpans w.etype w.vd)
    (ys.mapIdx fun j y => laneWrite (etWidth w.etype) w.vd j y.1) (allSticky ys) none

/-- A lane's exact value in the view. -/
def laneVal (w : VecWord) (x : Nat) : Num := (valOf (viewFmt w.etype) x).1

/-- A result rounded into the view by the vector word (R216). -/
def laneRound (w : VecWord) (x : Num × BitVec 7) : Nat × BitVec 7 :=
  let r := roundTo (viewFmt w.etype) (Mode.ofBits w.rm) (w.ftz == 1) x.1
  (r.1, x.2 ||| r.2)

/-- A number that the view represents, as bits; no flag. -/
def laneExact (w : VecWord) (x : Num) : Nat × BitVec 7 := ((roundTo (viewFmt w.etype) .rne false x).1, 0)

/-- An exact integer in an integer view: clamped, or modulo 2^w (R217). -/
def laneInt (w : VecWord) (x : Int) : Nat × BitVec 7 :=
  let n := etWidth w.etype
  if w.xfn.getLsbD 0 then roundTo (viewFmt w.etype) .rne false (ofInt x) else (intBits n x, 0)

/-- A lane read as a signed integer. -/
def laneSigned (w : VecWord) (x : Nat) : Int := signedAt (etWidth w.etype) x

/-- The rounding mode of the vector word is RDN. -/
def isRdn (w : VecWord) : Bool := Mode.ofBits w.rm == .rdn

/-! ### Arithmetic (R216 to R218) -/

/-- VADD. -/
def execVadd (g : BitVec 6) (w : VecWord) (s : State) : Out :=
  guarded g s fun s => vecLanes s w [w.va, w.vb] fun a b _ =>
    if isIntView w.etype then laneInt w (laneSigned w a + laneSigned w b)
    else laneRound w (sumNum (isRdn w) [laneVal w a, laneVal w b])

/-- VSUB. -/
def execVsub (g : BitVec 6) (w : VecWord) (s : State) : Out :=
  guarded g s fun s => vecLanes s w [w.va, w.vb] fun a b _ =>
    if isIntView w.etype then laneInt w (laneSigned w a - laneSigned w b)
    else laneRound w (sumNum (isRdn w) [laneVal w a, (laneVal w b).neg])

/-- VMUL. -/
def execVmul (g : BitVec 6) (w : VecWord) (s : State) : Out :=
  guarded g s fun s => vecLanes s w [w.va, w.vb] fun a b _ =>
    if isIntView w.etype then laneInt w (laneSigned w a * laneSigned w b)
    else laneRound w ((laneVal w a).mul (laneVal w b))

/-- VFMA. -/
def execVfma (g : BitVec 6) (w : VecWord) (s : State) : Out :=
  guarded g s fun s => vecLanes s w [w.va, w.vb, w.vd] fun a b d =>
    if isIntView w.etype then laneInt w (laneSigned w a * laneSigned w b + laneSigned w d)
    else
      let p := (laneVal w a).mul (laneVal w b)
      let x := sumNum (isRdn w) [p.1, laneVal w d]
      laneRound w (x.1, p.2 ||| x.2)

/-- VMIN. -/
def execVmin (g : BitVec 6) (w : VecWord) (s : State) : Out :=
  guarded g s fun s => vecLanes s w [w.va, w.vb] fun a b _ => laneExact w ((laneVal w a).min (laneVal w b))

/-- VMAX. -/
def execVmax (g : BitVec 6) (w : VecWord) (s : State) : Out :=
  guarded g s fun s => vecLanes s w [w.va, w.vb] fun a b _ => laneExact w ((laneVal w a).max (laneVal w b))

/-- A number without its sign. -/
def Num.abs : Num → Num
  | .nan => .nan
  | .inf _ => .inf false
  | .fin _ m e => .fin false m e

/-- VABS. -/
def execVabs (g : BitVec 6) (w : VecWord) (s : State) : Out :=
  guarded g s fun s => vecLanes s w [w.va] fun a _ _ =>
    if isIntView w.etype then laneInt w (laneSigned w a).natAbs else laneExact w (laneVal w a).abs

/-- VNEG. -/
def execVneg (g : BitVec 6) (w : VecWord) (s : State) : Out :=
  guarded g s fun s => vecLanes s w [w.va] fun a _ _ =>
    if isIntView w.etype then laneInt w (-laneSigned w a) else laneExact w (laneVal w a).neg

/-! ### Bits and shifts (R219) -/

/-- VAND. -/
def execVand (g : BitVec 6) (w : VecWord) (s : State) : Out :=
  guarded g s fun s => vecLanes s w [w.va, w.vb] fun a b _ => (Nat.land a b, 0)

/-- VOR. -/
def execVor (g : BitVec 6) (w : VecWord) (s : State) : Out :=
  guarded g s fun s => vecLanes s w [w.va, w.vb] fun a b _ => (Nat.lor a b, 0)

/-- VXOR. -/
def execVxor (g : BitVec 6) (w : VecWord) (s : State) : Out :=
  guarded g s fun s => vecLanes s w [w.va, w.vb] fun a b _ => (Nat.xor a b, 0)

/-- VNOT. -/
def execVnot (g : BitVec 6) (w : VecWord) (s : State) : Out :=
  guarded g s fun s => vecLanes s w [w.va] fun a _ _ => (2 ^ etWidth w.etype - 1 - a, 0)

/-- VSHL. -/
def execVshl (g : BitVec 6) (w : VecWord) (s : State) : Out :=
  guarded g s fun s => vecLanes s w [w.va, w.vb] fun a b _ =>
    (if b < etWidth w.etype then a * 2 ^ b % 2 ^ etWidth w.etype else 0, 0)

/-- VSHR. -/
def execVshr (g : BitVec 6) (w : VecWord) (s : State) : Out :=
  guarded g s fun s => vecLanes s w [w.va, w.vb] fun a b _ => (if b < etWidth w.etype then a / 2 ^ b else 0, 0)

/-- VSAR. -/
def execVsar (g : BitVec 6) (w : VecWord) (s : State) : Out :=
  guarded g s fun s => vecLanes s w [w.va, w.vb] fun a b _ =>
    (intBits (etWidth w.etype) (laneSigned w a / (2 ^ min b (etWidth w.etype) : Nat)), 0)

/-! ### Comparison and selection (R220) -/

/-- All ones or all zeros in a lane. -/
def laneMask (w : VecWord) (b : Bool) : Nat × BitVec 7 := (if b then 2 ^ etWidth w.etype - 1 else 0, 0)

/-- VCMPEQ. -/
def execVcmpeq (g : BitVec 6) (w : VecWord) (s : State) : Out :=
  guarded g s fun s => vecLanes s w [w.va, w.vb] fun a b _ => laneMask w ((laneVal w a).eqv (laneVal w b))

/-- VCMPLT. -/
def execVcmplt (g : BitVec 6) (w : VecWord) (s : State) : Out :=
  guarded g s fun s => vecLanes s w [w.va, w.vb] fun a b _ => laneMask w ((laneVal w a).lt (laneVal w b))

/-- VCMPLE. -/
def execVcmple (g : BitVec 6) (w : VecWord) (s : State) : Out :=
  guarded g s fun s => vecLanes s w [w.va, w.vb] fun a b _ =>
    laneMask w ((laneVal w a).lt (laneVal w b) || (laneVal w a).eqv (laneVal w b))

/-- VSEL. -/
def execVsel (g : BitVec 6) (w : VecWord) (s : State) : Out :=
  guarded g s fun s =>
    let ys := (List.range (dstLanes w)).map fun j =>
      if srcLane s w (selMask w) j = 0 then srcLane s w w.vb j else srcLane s w w.va j
    vecIssue s (opRegs w.va ++ opRegs w.vb)
      (readSpans w.etype w.va ++ readSpans w.etype w.vb ++ allSpans w.etype (selMask w)) (allSpans w.etype w.vd)
      (ys.mapIdx fun j y => laneWrite (etWidth w.etype) w.vd j y) 0 none

/-! ### Conversion (R221 to R223) -/

/-- The lane of the narrower operand of a VCVT that stands for lane `j` (R221). -/
def cvtLaneO (w : VecWord) (j : Nat) : Nat := if vDir (cvtO w) == 0 then cvtPart w * cvtLanes w + j else j

/-- The spans that a VCVT reads. -/
def cvtReads (w : VecWord) : List (Nat × Nat × Nat) :=
  if vDir w.va == 3 then []
  else if cvtTo w then
    (let n := etWidth (cvtOv w)
     (List.range (cvtLanes w)).map fun j =>
       let a := laneAt n w.va (cvtLaneO w j)
       (a.1, a.2, n))
  else allSpans w.etype w.va

/-- VCVT. -/
def execVcvt (g : BitVec 6) (w : VecWord) (s : State) : Out :=
  guarded g s fun s =>
    let sv := if cvtTo w then cvtOv w else w.etype
    let dv := if cvtTo w then w.etype else cvtOv w
    let ys := (List.range (cvtLanes w)).map fun j =>
      convert (viewFmt sv) (viewFmt dv) (Mode.ofBits w.rm) (w.ftz == 1)
        (laneBits s.live s.pre (etWidth sv) w.va (if cvtTo w then cvtLaneO w j else j))
    vecIssue s (opRegs w.va) (cvtReads w) (cvtSpans w)
      (ys.mapIdx fun j y => laneWrite (etWidth dv) w.vd (if cvtTo w then j else cvtLaneO w j) y.1) (allSticky ys) none

/-- The integer of a value in the same format (R223). -/
def roundIntegral (md : Mode) : Num → Num × BitVec 7
  | .fin neg m e =>
    let r := roundInt md neg m e
    (.fin neg r.1.natAbs 0, if r.2 then skNx else 0)
  | x => (x, 0)

/-- VRNDI. -/
def execVrndi (g : BitVec 6) (w : VecWord) (s : State) : Out :=
  guarded g s fun s => vecLanes s w [w.va] fun a _ _ =>
    let r := roundIntegral (Mode.ofBits w.rm) (laneVal w a)
    ((laneExact w r.1).1, r.2)

/-! ### Special functions (R225) -/

/-- A special function of every lane. -/
def vecSpecial (fn : SpecialFn) (s : State) (w : VecWord) : Out :=
  vecLanes s w [w.va] fun a _ _ =>
    match fmtFloat (viewFmt w.etype) with
    | some t => special fn t (w.ftz == 1) a
    | none => (a, 0)

/-- VEXP2. -/
def execVexp2 (g : BitVec 6) (w : VecWord) (s : State) : Out := guarded g s fun s => vecSpecial .exp2 s w

/-- VLOG2. -/
def execVlog2 (g : BitVec 6) (w : VecWord) (s : State) : Out := guarded g s fun s => vecSpecial .log2 s w

/-- VRCP. -/
def execVrcp (g : BitVec 6) (w : VecWord) (s : State) : Out := guarded g s fun s => vecSpecial .rcp s w

/-- VRSQ. -/
def execVrsq (g : BitVec 6) (w : VecWord) (s : State) : Out := guarded g s fun s => vecSpecial .rsq s w

/-- VTANH. -/
def execVtanh (g : BitVec 6) (w : VecWord) (s : State) : Out := guarded g s fun s => vecSpecial .tanh s w

end Sys2Proof.Machine
end

