-- ==== Sys2Proof/Machine/Saves.lean ====
section
/-! DEFINITION. The cut (R259 to R261), the context area (R263 to R266), saves with their deadlines and mirrors (R383,
R384), and the resume of a saved task (R262). -/

namespace Sys2Proof.Machine

/-! ### Where an area stands (R263, R383, R384) -/

/-- The task's area lies in the save pool of its context, so that it has a mirror. -/
def inPool (s : State) (t : Task) : Bool :=
  match s.launch? t.launch with
  | none => false
  | some l => lCtxbase l.recBits == 0

/-- The stack on which an address of a context lies (R345). -/
def stackAt (s : State) (cl : Nat) (ctx : BitVec 12) (va : Nat) : Option Nat :=
  match lookupVa s cl ctx va with
  | .ok pa _ _ => if memKind s pa = .hbm then some (pa / 2 ^ 21 % 12) else none
  | .noMap => none
  | .onDemand _ => none
  | .malformed => none
  | .poisoned _ => none
  | .forbidden => none

/-- The blocks that a save writes: the accumulator file's only when it is saved, and the command part as far as its
records reach. -/
def saveBlocks (afile : Bool) (last : Nat) : List Nat :=
  (List.range ((last + 4095) / 4096)).filter fun b => afile || decide (b < 5) || decide (37 ≤ b)

/-- The end of an area with so many parked-command and engine-command records. -/
def areaEnd (npark neng : Nat) : Nat := 0x25000 + 0x2300 * npark + 0x200 * neng

/-! ### The image of a save (R263 to R266) -/

/-- Words at consecutive offsets. -/
def wordsAt (off : Nat) (ws : List Word) : List (Nat × Word) := ws.zipIdx.map fun x => (off + 8 * x.2, x.1)

/-- Pairs of 32-bit values as words, the first value low. -/
def packHalves : List Word32 → List Word
  | [] => []
  | [x] => [x.zeroExtend 64]
  | x :: y :: rest => (y ++ x) :: packHalves rest

/-- The words of a 128-byte block. -/
def blockWords (b : Block) : List Word := (List.range 16).map fun i => b.extractLsb' (64 * i) 64

/-- The state that a strand leaves or has left for the stop (R23, R265). -/
def Strand.savedMode (st : Strand) : StrandMode := if st.mode = .stopped then st.was else st.mode

/-- The state of a strand as R265 numbers it. -/
def modeCode (m : StrandMode) : Nat :=
  match m with
  | .running => 0
  | .waiting => 1
  | .trapped => 2
  | .halted => 3
  | .idle => 0
  | .stopped => 0

/-- The state that a number of R265 gives. -/
def modeOf (n : Nat) : StrandMode :=
  match n with
  | 0 => .running
  | 1 => .waiting
  | 2 => .trapped
  | _ => .halted

/-- A strand block (R265). -/
def strandImage (k : Kind) (st : Strand) : List (Nat × Word) :=
  let base := 0x100 + 0x400 * k.code
  wordsAt base [st.pc, BitVec.ofNat 64 (modeCode st.savedMode)] ++
  wordsAt (base + 0x10) ((List.range 64).map fun i => tget 0 st.regs i) ++
  wordsAt (base + 0x210) [st.preds, st.rot, st.sticky.zeroExtend 64, st.trapvec, st.epc, st.cause, st.tval] ++
  wordsAt (base + 0x248) ((List.range 4).flatMap fun i => [(st.loop i).start, (st.loop i).endReg, (st.loop i).count])

/-- The place of a lane in the area (R263). -/
def laneOffset (p c l : Nat) : Nat := 0x2000 + 0x50 * (4 * (3 * p + c - (if p < c then 1 else 0)) + l)

/-- The lanes as producer, consumer and number. -/
def allLanes : List (Nat × Nat × Nat) :=
  (List.range 4).flatMap fun p => ((List.range 4).filter fun c => c != p).flatMap fun c =>
    (List.range 4).map fun l => (p, c, l)

/-- A lane's occupancy and entries. -/
def laneImage (c : Core) (x : Nat × Nat × Nat) : List (Nat × Word) :=
  let es := (c.lane (laneKey x.1 x.2.1 x.2.2)).filterMap fun e => e.data.map fun d => d.1
  wordsAt (laneOffset x.1 x.2.1 x.2.2) (BitVec.ofNat 64 es.length :: es)

/-- A task's arrivals at a group that are still on their way, with their flags. -/
def arrivalsSent (s : State) (k : GroupKey) (task : Nat) : List (Nat × Nat) :=
  (s.gmsgs.filter fun m => m.key == k && m.task == task && m.what == 0).map fun m => (task, m.flag)

/-- A membership as R263 saves it: the group, its generation, and the arrival with its flag. -/
def groupImage (s : State) (t : Task) (l : Launch) (g : Nat) : List Word :=
  let k := groupKey s l g
  match s.group? k with
  | none => [BitVec.ofNat 64 g, 0, 0, 0]
  | some x =>
    let a := (x.arrived ++ x.next ++ arrivalsSent s k t.id).find? fun a => a.1 == t.id
    [BitVec.ofNat 64 g, BitVec.ofNat 64 x.gen, if a.isSome then 1 else 0, BitVec.ofNat 64 (a.getD (0, 0)).2]

/-- The registers of a parked command in the order of R266: an ALD's handle and coordinate come before its region. -/
def parkRegs (p : Parked) : List Word :=
  if p.kind = 2 then [p.regs.getD 1 0, p.regs.getD 2 0, p.regs.getD 0 0] else p.regs

/-- A parked-command record (R266). -/
def parkImage (off : Nat) (p : Parked) : List (Nat × Word) :=
  wordsAt off ([BitVec.ofNat 64 p.kind, p.w1 ++ p.w0] ++ parkRegs p) ++ [(off + 0x40, p.fq)] ++
  wordsAt (off + 0x80) (p.recs.flatMap blockWords) ++ wordsAt (off + 0x200) (packHalves p.sa) ++
  wordsAt (off + 0x300) (packHalves p.sb) ++ wordsAt (off + 0x1300) (packHalves p.areg)

/-- The first word of an engine-command record. -/
def cmdHead (c : EngineCmd) : Word := BitVec.ofNat 64 (c.op * 256 + c.fn * 64 + c.eng * 8 + c.tok)

/-- The records and the block in an engine-command record: a copy's records and descriptor, or the operand block. -/
def cmdBlocks (c : EngineCmd) : List Block := if c.op = 0x2A then [c.recs.getD 0 0, c.recs.getD 1 0, c.block] else [c.block]

/-- An engine-command record (R266). -/
def cmdImage (off : Nat) (c : EngineCmd) : List (Nat × Word) :=
  wordsAt off ([cmdHead c, BitVec.ofNat 64 c.time, c.w1 ++ c.w0] ++ c.regs) ++
  wordsAt (off + 0x80) ((cmdBlocks c).flatMap blockWords)

/-- The header (R264). -/
def headerImage (s : State) (t : Task) (afile : Bool) : List Word :=
  [0x0001BC11, strandId s t.core .a, BitVec.ofNat 64 (t.cutAt.getD 0),
   BitVec.ofNat 64 (t.cmds.length * 2 ^ 24 + (s.core t.core).recs.length * 2 ^ 17 + t.parked.length * 2 ^ 12 +
     t.why * 2 ^ 8 + (if afile then 1 else 0))]

/-- The words of a task's area that are not zero. -/
def areaImage (s : State) (t : Task) (l : Launch) (afile : Bool) : List (Nat × Word) :=
  let c := s.core t.core
  wordsAt 0 (headerImage s t afile) ++
  (Kind.all.flatMap fun k => strandImage k (c.strand k)) ++
  wordsAt 0x1100 ((List.range 32).map fun i => (c.joinMask i).zeroExtend 64) ++
  wordsAt 0x1200 (packHalves ((List.range 32).map fun i => BitVec.ofNat 32 (tget 0 c.pairs i))) ++
  wordsAt 0x1280 [watchdog c, c.pgrace.zeroExtend 64, fqWord c, tokWord c, tokWhy c] ++
  wordsAt 0x1300 (c.fq.map fun w => w.w) ++
  wordsAt 0x1380 (packHalves ((List.range 64).map fun i => c.flag i)) ++
  wordsAt 0x1480 (t.grps.flatMap fun g => groupImage s t l g) ++
  (allLanes.flatMap fun x => laneImage c x) ++
  wordsAt 0x3000 (c.recs.flatMap blockWords) ++
  (if afile then wordsAt 0x5000 (packHalves ((List.range 32768).map fun i => tget 0 c.acc i)) else []) ++
  (t.parked.zipIdx.flatMap fun x => parkImage (0x25000 + 0x2300 * x.2) x.1) ++
  (t.cmds.zipIdx.flatMap fun x => cmdImage (areaEnd t.parked.length x.2) x.1)

/-- A word of an image. -/
def imageWord (img : List (Nat × Word)) (off : Nat) : Word := ((img.find? fun x => x.1 == off).map fun x => x.2).getD 0

/-- The bytes of a block of an image, up to the area's end. -/
def imageBlock (img : List (Nat × Word)) (last b : Nat) : List Byte :=
  ((List.range 512).flatMap fun i => leBytes 8 (imageWord img (4096 * b + 8 * i)).toNat).take (last - 4096 * b)

/-! ### CUT (R259) -/

/-- Every load, store, V instruction, region instruction and publication of a core completed, and the M commands whose
tiles may be read performed. -/
def completeCore (s : State) (n : Nat) : State :=
  let t := flushStores (Kind.all.foldl (fun t k => finishLoads t n k) s) n fun _ => true
  let u := t.modCore n fun c => c.mops.foldl Core.finishRegion (c.vops.foldl Core.finishVec c)
  performPubs
    ((u.core n).replay.foldl
      (fun v p =>
        if parkedReady (v.core n) p then
          finishParked v n p (if p.kind = 2 then aldResults (v.core n) p else cubeResults (v.core n) p)
        else v) u) n

/-- The commands of a task that have not begun, in acceptance order. -/
def withdrawn (s : State) (task : Nat) : List EngineCmd :=
  sortBy (fun a b => decide (a.id < b.id)) ((allCmds s).filter fun c => c.task == some task && !c.begun)

/-- Commands for which `p` holds taken out of a block-transfer engine. -/
def Bte.remove (b : Bte) (p : EngineCmd → Bool) : Bte :=
  { b with
    vest := b.vest.filter fun c => !p c
    runq := b.runq.filter fun e => match e with
      | .cmd c => !p c
      | .marker _ => true
    act := b.act.filter fun c => !p c }

/-- Commands for which `p` holds taken out of every queue. -/
def removeCmds (s : State) (p : EngineCmd → Bool) : State :=
  { s with
    clusters := s.clusters.map fun x =>
      (x.1, { x.2 with btes := x.2.btes.map fun b => (b.1, b.2.remove p), selq := x.2.selq.filter fun c => !p c,
                       lndq := x.2.lndq.filter fun c => !p c })
    dies := s.dies.map fun x =>
      (x.1, { x.2 with rteq := x.2.rteq.filter fun c => !p c, collq := x.2.collq.filter fun c => !p c }) }

/-- The promotions of a task go on by themselves and count as complete (R259). -/
def releaseMoves (s : State) (n task : Nat) : State :=
  let mine := s.moves.filter fun m => m.task == some task
  let busy := mine.filter fun m => movesLeft s m.cmd
  let cmds := (busy.map fun m => (m.cmd, m.tok)).eraseDups
  let t := cmds.foldl (fun t x => t.modCore n fun c => c.setTok x.2 (c.tok x.2).complete) s
  { t with moves := t.moves.map fun m => if m.task = some task then { m with task := none } else m }

/-- The tiles at the cut: fills go on for the hall alone, dirty lines are written back, the context's lines leave the
alcove and the pins end. -/
def leaveTiles (s : State) (n : Nat) (ctx : BitVec 12) : State :=
  let t := { s with reqs := s.reqs.map fun r => if r.core = some n then { r with core := none, who := none } else r }
  let u := clearPins (drainAlcove t n fun _ => true) n
  u.modCore n fun c => { c with alcove := c.alcove.filter fun v => v.key.ctx != ctx, itins := [], lastuse := [] }

/-- An M or V instruction is in progress or parked (R245). -/
def Core.computing (c : Core) : Bool := !(c.vops.isEmpty && c.mops.isEmpty && c.replay.isEmpty)

/-- The trace records of a stop, one for each strand (R388). -/
def traceStop (s : State) (t : Task) (ctx : BitVec 12) : State :=
  Kind.all.foldl
    (fun u k => tracePost u ctx (some (t.core, k)) 2 t.why 0 (strandId u t.core k) ((u.core t.core).strand k).pc) s

/-- The strands whose heads have matched a breakpoint and not issued since (R387). -/
def heldMatches (c : Core) : List (Kind × Word) :=
  Kind.all.filterMap fun k => match (c.strand k).bpSkip with
    | none => none
    | some pc => if (c.strand k).pc = pc then some (k, pc) else none

/-- The least scope that holds whoever performs a path's reads for a strand (R248, R253). -/
def pathReach : Nat → Nat
  | 0 => 0
  | 1 => 1
  | 4 => 3
  | _ => 2

/-- What a task's strands have been carried goes on reaching them wherever they resume (R253, R262). -/
def keepMet (s : State) (n task : Nat) : State :=
  let ps := Kind.all.flatMap fun k => (List.range 5).map fun p =>
    ({ path := p, core := n, task := some task, kind := k, id := s.nextId, reach := pathReach p } : Party)
  { s with hist := s.hist.map fun w =>
      { w with met := w.met ++ (ps.filter fun p => w.seen.any fun x => x.reaches p).map fun p => (p.task, p.kind.code, p.path) } }

/-- A task's writes go on being those of the core on which it resumes (R253, R262). -/
def rehome (s : State) (n task : Nat) : State :=
  { s with hist := s.hist.map fun w => if w.task = some task then { w with core := n } else w }

/-- The task after its cut: its withdrawn and parked commands stand with it, and a dead accumulator file is skipped or
saved, as the device chooses (R245, log 4). The deadline counts from the cut: the end of the grace of a pre-emption, else the CUT
event, which is the model's choice (R383, log 123). -/
def saveTask (s : State) (t : Task) : State :=
  let cmds := withdrawn s t.id
  let dead := (s.core t.core).afileDead && !(s.core t.core).computing
  let x := if dead then s.takeBool else (false, s)
  let r := finishKv (completeCore x.2 t.core) t.core
  let u := keepMet (releaseMoves (removeCmds r fun c => c.task == some t.id && !c.begun) t.core t.id) t.core t.id
  let parked := (u.core t.core).replay
  (u.modCore t.core fun c => { c with replay := [], afileDead := x.1 }).modTask t.id fun y =>
    { y with st := .saving, saved := true, cutAt := some (y.cutAt.getD s.now), cmds := cmds, parked := parked,
             map := 0, ackd := 0, matched := y.matched ++ heldMatches (s.core t.core) }

/-- The context-save fault (R285): the task ends with its context. -/
def contextSave (s : State) (t : Task) (ctx : BitVec 12) : State :=
  (s.postFault ctx 0x13 0 (BitVec.ofNat 64 (0x300 + t.core % 16)) 0 (BitVec.ofNat 64 t.base) 0).modTask t.id fun y =>
    { y with st := .ended }

/-- The failure of a save or a restore acted on: a walk or data error has its own fault. -/
def areaFault (s : State) (t : Task) (ctx : BitVec 12) (f : AccFail) : State :=
  match f with
  | .access _ => contextSave s t ctx
  | .walk va =>
    (s.postFault ctx 0x12 0 0x200 0 (BitVec.ofNat 64 va) 0).modTask t.id fun y => { y with st := .ended }
  | .data pa =>
    (s.dataFault ctx 3 (coreDie t.core) (strandId s t.core .a) 0 pa).modTask t.id fun y => { y with st := .ended }

/-- The first failure of the pages that a save will write. -/
def areaUnwritable (s : State) (t : Task) (ctx : BitVec 12) (last : Nat) : Option AccFail :=
  (saveBlocks true last).findSome? fun b =>
    match translate s (coreCluster t.core) ctx (t.base + 4096 * b) .write with
    | .ok _ _ _ => none
    | .malformed => some (.walk (t.base + 4096 * b))
    | .poisoned _ => some (.walk (t.base + 4096 * b))
    | .noMap => some (.access (t.base + 4096 * b))
    | .onDemand _ => some (.access (t.base + 4096 * b))
    | .forbidden => some (.access (t.base + 4096 * b))

/-- A stopping task whose strands issue no more, and none of whose begun commands is still in progress. -/
def atCut (s : State) (t : Task) : Bool :=
  t.st == .stopping && (t.why != 0 || t.cutAt.isSome) && !((allCmds s).any fun c => c.task == some t.id && c.begun)

/-- PREEMPT_GRACE_EXPIRY (R244): a pre-empted task without grace left stops where it stands. -/
def execPreemptGraceExpiry (task : Nat) (s : State) : Out :=
  match s.task? task with
  | none => .next s
  | some t =>
    let c := s.core t.core
    if t.st = .stopping ∧ t.why = 0 ∧ t.cutAt = none ∧
        (c.pgrace = 0 ∨ limitPassed s.now c.preqSince c.pgrace.toNat = true) then
      .next (s.modTask task fun t => { t with cutAt := some s.now })
    else .next s

/-- CUT: what was issued is completed or withdrawn, the tiles are written back, and the save begins. -/
def execCut (task : Nat) (s : State) : Out :=
  match s.task? task with
  | none => .next s
  | some t =>
    match s.launch? t.launch with
    | none => .next s
    | some l =>
      if !atCut s t then .next s
      else
        let u := leaveTiles (saveTask s t) t.core l.ctx
        match u.task? task with
        | none => .next u
        | some t1 =>
          let v := traceStop u t1 l.ctx
          match areaUnwritable v t1 l.ctx (areaEnd t1.parked.length t1.cmds.length) with
          | none => .next v
          | some f => .next (areaFault v t1 l.ctx f)

/-- The strands of tasks that issue no more stopped (R23): a pre-emption, a PRACK or a debug stop has taken them. -/
def stopStrands (s : State) : State :=
  (s.tasks.filter fun t => t.st == .stopping && (t.why != 0 || t.cutAt.isSome)).foldl
    (fun u t => u.modCore t.core fun c => { c with a := c.a.stop, c := c.c.stop, m := c.m.stop, v := c.v.stop }) s

/-! ### Saves (R383, R384) -/

/-- A saving task as its blocks go to memory. -/
structure Save where
  t : Task
  c : Context
  img : List (Nat × Word)
  last : Nat
  blocks : List Nat

/-- The save of a task in progress. -/
def saveOf (s : State) (t : Task) : Option Save :=
  match s.launch? t.launch with
  | none => none
  | some l =>
    match s.ctx? l.ctx with
    | none => none
    | some c =>
      let afile := !(s.core t.core).afileDead
      let last := areaEnd t.parked.length t.cmds.length
      some { t := t, c := c, img := areaImage s t l afile, last := last, blocks := saveBlocks afile last }

/-- A save has a deadline (R383): the context's `pdl` as it stands now, which a write during the save changes; that is the model's
choice (log 123). -/
def Save.timed (v : Save) : Bool := v.c.pdl != 0

/-- The deadline has passed. -/
def Save.late (v : Save) (now : Nat) : Bool := v.timed && decide (v.t.cutAt.getD 0 + v.c.pdl.toNat * 1024 < now)

/-- The stack to which a block of a save goes. -/
def blockStack (s : State) (v : Save) (b : Nat) : Option Nat :=
  stackAt s (coreCluster v.t.core) v.c.id (areaVa v.c v.t (4096 * b))

/-- A block of a save written to its copy. -/
def writeBlock (v : Save) (b : Nat) (s : State) : Except AccFail State :=
  enginePut (coreCluster v.t.core) v.c.id (areaVa v.c v.t (4096 * b)) (imageBlock v.img v.last b) s

/-- Blocks of a save written in order. -/
def writeBlocks (v : Save) : List Nat → State → Except AccFail State
  | [], s => .ok s
  | b :: bs, s =>
    match writeBlock v b s with
    | .error f => .error f
    | .ok t => writeBlocks v bs t

/-- A stack is being retrained. -/
def retraining (s : State) (stack : Nat) : Bool := (tget {} s.hbm stack : Stack).retraining

/-- A save without a deadline, or without a mirror, waits for the stacks that are being retrained. -/
def saveParked (s : State) (v : Save) : Bool :=
  v.blocks.any fun b =>
    !v.t.ackd.getLsbD b &&
    match blockStack s v b with
    | none => false
    | some k => retraining s k

/-- A save with a deadline holds every stack that its area reaches, written or not (R384). -/
def stackHeld (s : State) (stack : Nat) : Bool :=
  s.tasks.any fun t => t.st == .saving &&
    match saveOf s t with
    | none => false
    | some v => v.timed && (List.range 80).any fun b =>
        stackAt s (coreCluster v.t.core) v.c.id (v.t.base + 4096 * b) == some stack

/-- The requested retrainings that no save holds any more begin. -/
def startRetrains (s : State) : State :=
  (List.range 12).foldl
    (fun t k =>
      let x : Stack := tget {} t.hbm k
      if x.pending && !stackHeld t k then
        moduleEvent { t with hbm := tset {} t.hbm k { x with pending := false, retraining := true } } 8 (BitVec.ofNat 64 k)
      else t) s

/-- A save that fails: it ends in its fault and holds no stack any more (R268, R384). -/
def failSave (s : State) (t : Task) (ctx : BitVec 12) (f : AccFail) : State := startRetrains (areaFault s t ctx f)

/-- The core of a saved task given up: the task waits, or is stopped; an image without a placed task leaves the
routers (R328). -/
def endSave (s : State) (v : Save) : State :=
  let t := (s.modCore v.t.core idleCore).modTask v.t.id fun y =>
    { y with st := if 2 ≤ y.why then .stopped else .waiting, arrival := s.now, ackd := 0 }
  let u := if v.late s.now then t.modCtx v.c.id fun c => { c with late := c.late + 1 } else t
  startRetrains (settleStop (clearRetain u (coreCluster v.t.core)) v.c.id)

/-- SAVE_COMPLETE: the blocks that the stacks have not acknowledged are written and the save ends. -/
def execSaveComplete (task : Nat) (s : State) : Out :=
  match s.task? task with
  | none => .next s
  | some t =>
    match saveOf s t with
    | none => .next s
    | some v =>
      if t.st ≠ .saving ∨ saveParked s v = true then .next s
      else
        match writeBlocks v (v.blocks.filter fun b => !t.ackd.getLsbD b) s with
        | .ok u => .next (endSave u v)
        | .error f => .next (failSave s t v.c.id f)

/-! ### Retraining (R384) -/

/-- A bit of an 80-bit map set. -/
def setBit80 (x : BitVec 80) (b : Nat) : BitVec 80 := x ||| (1#80 <<< b)

/-- One block of a timed save at a forced retraining: acknowledged already, a free choice (log 4), or redirected to the
mirror, whose own stack must not be failing. -/
def redirectBlock (stack : Nat) (t : Task) (s : State) (b : Nat) : State :=
  match s.task? t.id with
  | none => s
  | some t1 =>
    match saveOf s t1 with
    | none => s
    | some v =>
      if t1.st ≠ .saving ∨ t1.ackd.getLsbD b = true ∨ blockStack s v b ≠ some stack then s
      else
        let x := s.takeBool
        if x.1 then
          match writeBlock v b x.2 with
          | .ok u => u.modTask t.id fun y => { y with ackd := setBit80 y.ackd b }
          | .error f => areaFault x.2 t1 v.c.id f
        else
          let t2 := { t1 with map := setBit80 t1.map b }
          match stackAt x.2 (coreCluster t1.core) v.c.id (areaVa v.c t2 (4096 * b)) with
          | none => x.2.modTask t.id fun y => { y with map := t2.map }
          | some k =>
            if k = stack ∨ retraining x.2 k = true then contextSave x.2 t1 v.c.id
            else x.2.modTask t.id fun y => { y with map := t2.map }

/-- A save with a deadline redirected off a stack. -/
def redirectSave (stack : Nat) (s : State) (t : Task) : State :=
  match saveOf s t with
  | none => s
  | some v => if t.st = .saving ∧ v.timed = true ∧ inPool s t = true then v.blocks.foldl (redirectBlock stack t) s else s

/-- HBM_RETRAIN: link errors force a stack's retraining, which begins at once. -/
def execHbmRetrain (stack : Nat) (s : State) : Out :=
  if 12 ≤ stack ∨ retraining s stack = true then .next s
  else
    let t := s.tasks.foldl (redirectSave stack) s
    .next (startRetrains (moduleEvent
      { t with hbm := tset {} t.hbm stack { (tget {} t.hbm stack : Stack) with retraining := true, pending := false } } 8
      (BitVec.ofNat 64 stack)))

/-- RETRAIN_REQUEST: a data-rate change waits until every holding save completes. -/
def execRetrainRequest (stack : Nat) (s : State) : Out :=
  if 12 ≤ stack ∨ retraining s stack = true then .next s
  else .next (startRetrains { s with hbm := tset {} s.hbm stack { (tget {} s.hbm stack : Stack) with pending := true } })

/-- STACK_RETRAINING_DONE: the writes that parked on the stack may complete. -/
def execStackRetrainingDone (stack : Nat) (s : State) : Out :=
  if 12 ≤ stack then .next s
  else .next { s with hbm := tset {} s.hbm stack { (tget {} s.hbm stack : Stack) with retraining := false } }

/-! ### TASK_RESUME (R262, R264) -/

/-- A word of a task's area as memory holds it. -/
def areaWord (s : State) (c : Context) (t : Task) (off : Nat) : Word :=
  match engineBytes s (coreCluster t.core) c.id (areaVa c t off) 8 with
  | .ok bs => BitVec.ofNat 64 (leNat bs)
  | .error _ => 0

/-- The first failure of reading the area up to `last`. -/
def areaUnreadable (s : State) (c : Context) (t : Task) (afile : Bool) (last : Nat) : Option AccFail :=
  (saveBlocks afile last).findSome? fun b =>
    match engineBytes s (coreCluster t.core) c.id (areaVa c t (4096 * b)) (Nat.min 4096 (last - 4096 * b)) with
    | .ok _ => none
    | .error f => some f

/-- What R264 asks of a header. -/
def areaHeaderOk (w : Nat → Word) : Bool :=
  w 0 == 0x0001BC11 && (w 0x18).extractLsb' 31 33 == 0 && (w 0x18).extractLsb' 10 2 == 0 && (w 0x18).extractLsb' 1 7 == 0 &&
  decide (((w 0x18).extractLsb' 24 7).toNat ≤ 64) && decide (((w 0x18).extractLsb' 17 7).toNat ≤ 64) &&
  decide (((w 0x18).extractLsb' 12 5).toNat ≤ 16) && ((List.range 28).all fun i => w (0x20 + 8 * i) == 0)

/-- Consecutive words. -/
def wordsFrom (w : Nat → Word) (off n : Nat) : List Word := (List.range n).map fun i => w (off + 8 * i)

/-- Consecutive 32-bit values. -/
def halvesFrom (w : Nat → Word) (off n : Nat) : List Word32 :=
  (List.range n).map fun i => (w (off + 4 * (i - i % 2))).extractLsb' (32 * (i % 2)) 32

/-- A 128-byte block. -/
def blockFrom (w : Nat → Word) (off : Nat) : Block :=
  BitVec.ofNat 1024 (leNat ((wordsFrom w off 16).flatMap fun x => leBytes 8 x.toNat))

/-- A sparse table of a list of values. -/
def tabOf {α : Type} [DecidableEq α] (d : α) (xs : List α) : Tab α :=
  (xs.zipIdx.filter fun x => decide (x.1 ≠ d)).map fun x => (x.2, x.1)

/-- A strand restored from its block (R265); bits that a register does not have read as zero (R3), and reserved fields of the
block are ignored (log 103). -/
def loadStrand (w : Nat → Word) (k : Kind) : Strand :=
  let b := 0x100 + 0x400 * k.code
  let csr := fun (n off : Nat) => w (b + off) &&& csrMask n
  { mode := modeOf ((w (b + 8)).toNat % 8)
    pc := w b &&& pcMask
    regs := (tabOf 0 (wordsFrom w (b + 0x10) 64)).filter fun x => x.1 != 0
    preds := w (b + 0x210)
    sbase := (w (b + 0x218)).extractLsb' 0 5
    pbase := (w (b + 0x218)).extractLsb' 8 4
    sticky := (w (b + 0x220)).extractLsb' 0 7
    trapvec := csr 0x010 0x228
    epc := csr 0x011 0x230
    cause := csr 0x012 0x238
    tval := csr 0x013 0x240
    loops := tabOf {} ((List.range 4).map fun i =>
      ({ start := csr 0x020 (0x248 + 24 * i), endReg := csr 0x021 (0x250 + 24 * i), count := csr 0x022 (0x258 + 24 * i) } :
        LoopLevel)) }

/-- A token restored from `core.tok` and `core.tokwhy`. -/
def loadToken (tok why : Word) (i : Nat) : Token :=
  { count := (tok.extractLsb' (8 * i) 6).toNat, err := tok.getLsbD (8 * i + 7), reason := why.extractLsb' (4 * i) 4 }

/-- A lane restored. -/
def loadLane (now : Nat) (w : Nat → Word) (c : Core) (x : Nat × Nat × Nat) : Core :=
  let o := laneOffset x.1 x.2.1 x.2.2
  c.setLane (laneKey x.1 x.2.1 x.2.2)
    ((wordsFrom w (o + 8) (Nat.min 8 (w o).toNat)).map fun v => { born := now, load := 0, data := some (v, now) })

/-- The core of a resumed task: the start state, then every item of the area (R262, step 1). -/
def loadCore (s : State) (c : Core) (w : Nat → Word) : Core :=
  let h := w 0x18
  let fq := w 0x1290
  let d : Core :=
    { c with
      a := loadStrand w .a
      c := loadStrand w .c
      m := loadStrand w .m
      v := loadStrand w .v
      joins := tabOf 0 ((wordsFrom w 0x1100 32).map fun x => x.extractLsb' 0 4)
      pairs := tabOf 0 ((halvesFrom w 0x1200 32).map fun x => x.toNat)
      missLimit := (w 0x1280).extractLsb' 24 24
      joinLimit := (w 0x1280).extractLsb' 0 24
      pgrace := (w 0x1288).extractLsb' 0 16
      fq := (wordsFrom w 0x1300 (Nat.min 16 (fq.toNat % 32))).map fun x => { w := x, born := s.now }
      fqClosed := fq.getLsbD 5
      toks := tabOf {} ((List.range 8).map fun i => loadToken (w 0x1298) (w 0x12A0) i)
      flags := tabOf 0 (halvesFrom w 0x1380 64)
      recs := (List.range (h.extractLsb' 17 7).toNat).map fun i => blockFrom w (0x3000 + 128 * i)
      acc := if h.getLsbD 0 then tabOf 0 (halvesFrom w 0x5000 32768) else [] }
  allLanes.foldl (loadLane s.now w) d

/-- A saved parked command as its record stands in the area. -/
def loadParked (now : Nat) (w : Nat → Word) (off : Nat) (p : Parked) : Parked :=
  let kind := Nat.min 2 ((w off).toNat % 4)
  let rs := wordsFrom w (off + 0x10) (if kind = 2 then 3 else 6)
  { p with
    kind := kind
    w0 := (w (off + 8)).extractLsb' 0 32
    w1 := (w (off + 8)).extractLsb' 32 32
    regs := if kind = 2 then [rs.getD 2 0, rs.getD 0 0, rs.getD 1 0] else rs
    fq := w (off + 0x40)
    recs := p.recs.zipIdx.map fun x => blockFrom w (off + 0x80 + 128 * x.2)
    sa := halvesFrom w (off + 0x200) p.sa.length
    sb := halvesFrom w (off + 0x300) p.sb.length
    areg := halvesFrom w (off + 0x1300) p.areg.length
    since := now }

/-- A saved engine command as its record stands in the area, on its new core. -/
def loadCmd (s : State) (w : Nat → Word) (off core id : Nat) (c : EngineCmd) : EngineCmd :=
  let op := ((w off).extractLsb' 8 8).toNat
  { c with
    id := id
    core := core
    op := op
    fn := ((w off).extractLsb' 6 2).toNat
    eng := ((w off).extractLsb' 3 3).toNat
    tok := ((w off).extractLsb' 0 3).toNat
    time := (w (off + 8)).toNat
    w0 := (w (off + 0x10)).extractLsb' 0 32
    w1 := (w (off + 0x10)).extractLsb' 32 32
    regs := wordsFrom w (off + 0x18) c.regs.length
    block := blockFrom w (off + (if op = 0x2A then 0x180 else 0x80))
    recs := if op = 0x2A then [blockFrom w (off + 0x80), blockFrom w (off + 0x100)] else c.recs
    since := s.now }

/-- The engine of a saved command has room for it (R300, R329, R334, R405). -/
def engineRoom (s : State) (c : EngineCmd) : Bool :=
  let cl := coreCluster c.core
  let d := s.die (coreDie c.core)
  if c.op = 0x2A then (if c.fn = 0 then runRoom (s.bte cl c.eng) s.now else vestRoom (s.bte cl c.eng) s.now)
  else if c.op = 0x30 then decide ((s.cluster cl).selq.length < engineDepth)
  else if c.op = 0x31 then decide ((s.cluster (unmLnd (cmdPlace c))).lndq.length < engineDepth)
  else if c.op = 0x34 ∨ c.op = 0x35 then decide (d.collq.length < engineDepth)
  else decide (d.rteq.length < engineDepth)

/-- The state of a session after a command is accepted for it (R333). -/
def acceptState (c : EngineCmd) (a : SessState) : SessState :=
  if c.op = 0x33 then a
  else
    match c.fn with
    | 0 => if rteFree c.block then .free else .set
    | 1 => .counted
    | 2 => .placed
    | _ => a

/-- What the acceptance of a Concourse command leaves in its session on the die that it re-enters (R262, R333, log 64). -/
def reaccept (c : EngineCmd) (x : Session) : Session :=
  if x.owner.any fun o => o != c.ctx then x
  else if c.op = 0x32 ∧ c.fn = 0 then { x with owner := if rteFree c.block then none else some c.ctx, accState := acceptState c x.accState }
  else if x.owner.isNone then x
  else { x with accState := acceptState c x.accState }

/-- A saved command re-entered into its engine (R262, step 2): a Landing command into the Landing that it names (R300). -/
def reenter (s : State) (c : EngineCmd) : State :=
  let cl := coreCluster c.core
  let die := coreDie c.core
  if c.op = 0x2A then arrive s cl c
  else if c.op = 0x30 then s.modCluster cl fun x => { x with selq := x.selq ++ [c] }
  else if c.op = 0x31 then s.modCluster (unmLnd (cmdPlace c)) fun x => { x with lndq := x.lndq ++ [c] }
  else if c.op = 0x34 ∨ c.op = 0x35 then s.modDie die fun x => { x with collq := x.collq ++ [c] }
  else (s.modDie die fun x => { x with rteq := x.rteq ++ [c] }).modSession die (cmdSess c) (reaccept c)

/-- Saved commands re-entered in their order as far as there is room, with those that are left. -/
def reenterFrom : List EngineCmd → State → State × List EngineCmd
  | [], s => (s, [])
  | c :: cs, s => if engineRoom s c then reenterFrom cs (reenter s c) else (s, c :: cs)

/-- The saved commands of a resumed task re-entered as far as there is room. -/
def reenterTask (s : State) (t : Task) : State :=
  if t.saved || t.cmds.isEmpty then s
  else
    let r := reenterFrom t.cmds s
    r.1.modTask t.id fun y => { y with cmds := r.2 }

/-- Every resumed task's saved commands re-entered as far as there is room, in ascending order of the core (R262, R329). -/
def reenterAll (s : State) : State := (sortBy (fun a b => decide (a.core < b.core)) s.tasks).foldl reenterTask s

/-- A group's state with a task's arrival as a slot gives it: the one at the pending generation, where it has arrived there, else
the one that it makes now (R243). -/
def GroupState.withArrival (g : GroupState) (task : Nat) (flag : Option Nat) : GroupState :=
  let now := g.arrived.any fun a => a.1 == task
  let h := if now then { g with arrived := g.arrived.filter fun a => a.1 != task }
    else { g with next := g.next.filter fun a => a.1 != task }
  match flag with
  | none => h
  | some f => if now then { h with arrived := h.arrived ++ [(task, f)] } else h.arrive task f

/-- A group slot of an area loaded (R262, R263, log 60): the arrival counts while the generation that it names is the pending
one; one that is still on its way stands. -/
def loadSlot (w : Nat → Word) (l : Launch) (task : Nat) (s : State) (i : Nat) : State :=
  let o := 0x1480 + 32 * i
  let k := groupKey s l (w o).toNat
  match s.group? k with
  | none => s
  | some x =>
    if (w (o + 8)).toNat ≠ x.gen ∨ (arrivalsSent s k task).isEmpty = false then s
    else
      settleGroup (s.modGroup k fun g =>
        g.withArrival task (if (w (o + 16)).getLsbD 0 then some ((w (o + 24)).toNat % 64) else none)) k 3

/-- The group number of a slot, where the launch's table lists the task there. -/
def slotGroup (w : Nat → Word) (l : Launch) (index : Nat) (x : Nat × Nat) : Nat :=
  let g := (w (0x1480 + 32 * x.2)).toNat
  if g < 256 ∧ entLists (l.ent g) index = true then g else x.1

/-- The strands whose heads a hardware breakpoint stopped pass it once, where those are still their heads (R387). -/
def passBreaks (ks : List (Kind × Word)) (x : Core) : Core :=
  ks.foldl (fun x k => x.setStrand k.1 { x.strand k.1 with bpSkip := if (x.strand k.1).pc = k.2 then some k.2 else none }) x

/-- A task restored on its core from an area that may be read (R262): every item loaded, the commands re-entered in order, the
M commands parked afresh. -/
def restoreTask (s : State) (t : Task) (l : Launch) (c : Context) : State :=
  let w := areaWord s c t
  let npark := Nat.min ((w 0x18).extractLsb' 12 5).toNat t.parked.length
  let neng := Nat.min ((w 0x18).extractLsb' 24 7).toNat t.cmds.length
  let c1 := loadCore s (startCore (s.core t.core) l (s.core t.core).prio t.id) w
  let c2 := t.flagsIn.foldl (fun x f => x.setFlag f.1 (x.flag f.1 + f.2)) c1
  let c3 := passBreaks t.matched c2
  let cmds := (t.cmds.take neng).zipIdx.map fun x =>
    loadCmd s w (areaEnd ((w 0x18).extractLsb' 12 5).toNat x.2) t.core (s.nextId + x.2) x.1
  let grps := t.grps.zipIdx.map (slotGroup w l t.index)
  let u := { s.setCore t.core c3 with nextId := s.nextId + neng }.modTask t.id fun y =>
    { y with st := .running, saved := false, since := s.now, why := 0, cutAt := none, grps := grps, flagsIn := [], cmds := cmds,
             parked := [], matched := [] }
  let fresh := fun (u : State) => if t.farFlag then dropHallTiles u (coreCluster t.core) else u
  let v := fresh (rehome (reenterAll ((List.range grps.length).foldl (loadSlot w l t.id) u)) t.core t.id)
  ((t.parked.take npark).zipIdx.map fun x => loadParked s.now w (0x25000 + 0x2300 * x.2) x.1).foldl
    (fun v p => parkCmd v t.core p) v

/-- TASK_RESUME: a saved task whose placement's residency has ended is restored, or its area's fault is raised. -/
def execTaskResume (task : Nat) (s : State) : Out :=
  match s.task? task with
  | none => .next s
  | some t =>
    match s.launch? t.launch with
    | none => .next s
    | some l =>
      match s.ctx? l.ctx with
      | none => .next s
      | some c =>
        if !readyToStart s t l || !t.saved then .next s
        else
          match areaUnreadable s c t false 0x1000 with
          | some f => .next (areaFault s t l.ctx f)
          | none =>
            let w := areaWord s c t
            let last := areaEnd ((w 0x18).extractLsb' 12 5).toNat ((w 0x18).extractLsb' 24 7).toNat
            if !areaHeaderOk w then
              .next ((s.postFault l.ctx 9 0 (strandId s t.core .a) 0 (BitVec.ofNat 64 t.base) 0).modTask task fun y =>
                { y with st := .ended })
            else
              match areaUnreadable s c t ((w 0x18).getLsbD 0) last with
              | some f => .next (areaFault s t l.ctx f)
              | none => .next (restoreTask s t l c)

end Sys2Proof.Machine
end

