-- ==== Sys2Proof/Machine/Faulting.lean ====
section
/-! DEFINITION. What a fault comes to (R267, R268, R381): its record at the collector, the stop of its context, and the
report to the host. -/

namespace Sys2Proof.Machine

/-! ### FAULT_RECORD (R268, R389) -/

/-- A fault record as the host reads it (R268). -/
def FaultRec.words (f : FaultRec) : List Word :=
  [f.code ++ f.reason ++ f.more ++ (0 : BitVec 20) ++ f.ctx, f.unit, f.pc, f.val, f.time, f.fqw, 0, 0]

/-- The record of a context written to its slot at system scope, or the host-access fault. -/
def writeFrec (s : State) (c : Context) (f : FaultRec) : State :=
  let r := sysWrite s c.frec f.words
  match r.2 with
  | none => r.1
  | some _ => r.1.hostAccess c.id c.frec

/-- A first fault kept: traced, written into the black box, which freezes (R388, R389). -/
def keepFault (s : State) (c : Context) (f : FaultRec) : State :=
  let t := tracePost (s.modCtx c.id fun c => { c with fault := some f }) c.id none 5 f.reason.toNat 0 f.unit f.pc
  { t with bbFrozen := true }

/-- A later fault only counted; the host's copy follows once it has been written. -/
def countFault (s : State) (c : Context) (f : FaultRec) : State :=
  let g := { f with more := if f.more = 0xFFFF then f.more else f.more + 1 }
  let t := s.modCtx c.id fun c => { c with fault := some g }
  if c.ctl = .ended then writeFrec t c g else t

/-- A posted record taken by the collector of its context; that of a context which is not live is dropped. -/
def collect (s : State) (f : FaultRec) : State :=
  match s.ctx? f.ctx with
  | none => s
  | some c =>
    match c.fault with
    | none => keepFault s c f
    | some g => countFault s c g

/-- FAULT_RECORD: a posted record reaches the collector. -/
def execFaultRecord (idx : Nat) (s : State) : Out :=
  match s.posts[idx]? with
  | none => .next s
  | some f => .next (collect { s with posts := dropAt s.posts idx } f)

/-! ### CONTEXT_FAULT_STOP (R267) -/

/-- The granules in which two memories differ. -/
def changedGranules (m n : List Host.Cell) : List Nat :=
  (((m ++ n).map fun c => granuleBase c.1).eraseDups).filter fun g =>
    readBytes m g (granuleSize g) != readBytes n g (granuleSize g)

/-- A granule of discarded writes: it keeps its earlier value or takes the written one, a free choice (log 4). -/
def mixGranule (s0 s : State) (g : Nat) : State :=
  let x := s.takeBool
  if x.1 then x.2
  else
    let t := writeClean false x.2 g (readBytes s0.mem g (granuleSize g))
    if s0.poison.contains g && !t.poison.contains g then { t with poison := t.poison ++ [g] } else t

/-- The tile lines of a context in a list that have not reached memory. -/
def unwritten (ls : List TileLine) (ctx : BitVec 12) : List TileLine :=
  ls.filter fun v => v.key.ctx == ctx && (v.st == .dirty || v.st == .draining)

/-- The context's writes that are under way, all performed. -/
def flushContext (s : State) (ctx : BitVec 12) : State :=
  let a := (ctxCores s ctx).foldl (fun t n => flushStores t n fun _ => true) s
  let b := s.cores.foldl (fun t x => (unwritten x.2.alcove ctx).foldl (fun t v => homeWrite t (coreCluster x.1) v) t) a
  s.clusters.foldl (fun t x => (unwritten x.2.hall ctx).foldl (fun t v => homeWrite t x.1 v) t) b

/-- The writes under way discarded: each granule that they concern keeps its value or takes the new one. -/
def discardWrites (s : State) (ctx : BitVec 12) : State :=
  let t := { flushContext s ctx with posts := s.posts }
  (changedGranules s.mem t.mem).foldl (mixGranule s) t

/-- The launches of a context. -/
def ctxLaunches (s : State) (ctx : BitVec 12) : List Launch := s.launches.filter fun l => l.ctx == ctx

/-- The groups of a context's launches that end with it: those of one module. A domain group lasts until the launches of
all its modules have retired (R403), which an ended one never does. -/
def ctxGroups (s : State) (ctx : BitVec 12) : List GroupKey :=
  ((ctxLaunches s ctx).flatMap fun l =>
    ((List.range l.gtab.length).filter fun g => entV (l.ent g)).map fun g => groupKey s l g).filter fun k => !k.domain

/-- The domain groups of the launches that a context has taken: its held contributions go with it (R411). -/
def domainGroups (s : State) (ctx : BitVec 12) : List GroupKey :=
  match s.ctx? ctx with
  | none => []
  | some c => c.xgroups

/-- A slot or a session of another context's commands stays, without what the context that ends had accepted for it. -/
def LandingSlot.disown (l : LandingSlot) (ctx : BitVec 12) : LandingSlot :=
  if l.owner = some ctx then { l with owner := none, accBlock := 0, accRecs := [], accRegs := [] } else l

/-- A cluster without what a context holds in it; `named` says that a command of another context, queued or withdrawn, names a
slot (R308). -/
def Cluster.purge (c : Cluster) (ctx : BitVec 12) (named : Nat → Bool) : Cluster :=
  let cmds := c.lndq.filter fun x => x.ctx == ctx
  { c with
    hall := c.hall.filter fun v => v.key.ctx != ctx
    slots := (c.slots.filter fun l =>
      named l.num || (l.owner != some ctx && !(l.owner.isNone && cmds.any fun x => cmdSlot x == l.num))).map fun l => l.disown ctx
    renq := c.renq.map fun q => (q.1, q.2.filter fun e => e.ctx != ctx) }

/-- A die without what a context holds in it; `gone` are the groups whose contributions end with it, and `named` says that a
command of another context names a session. -/
def Die.purge (d : Die) (ctx : BitVec 12) (gone : List GroupKey) (named : Nat → Bool) : Die :=
  let cmds := d.rteq.filter fun x => x.ctx == ctx
  { d with
    sessions := (d.sessions.filter fun x =>
      named x.num || (x.owner != some ctx && !(x.owner.isNone && cmds.any fun c => cmdSess c == x.num))).map fun x =>
        if x.owner = some ctx then { x with owner := none, accState := .free } else x
    held := d.held.filter fun m => !gone.contains m.group }

/-- The commands of other contexts, queued or withdrawn. -/
def otherCmds (s : State) (ctx : BitVec 12) : List EngineCmd :=
  (allCmds s ++ s.tasks.flatMap fun t => t.cmds).filter fun c => c.ctx != ctx

/-- The units without what a context holds in them. -/
def purgeUnits (s : State) (ctx : BitVec 12) : State :=
  let gone := ctxGroups s ctx
  let others := otherCmds s ctx
  removeCmds
    { s with
      cores := s.cores.map fun x => (x.1, { x.2 with alcove := x.2.alcove.filter fun v => v.key.ctx != ctx })
      clusters := s.clusters.map fun x => (x.1, x.2.purge ctx fun n => others.any fun c => c.op == 0x31 && cmdSlot c == n && unmLnd (cmdPlace c) == x.1)
      dies := s.dies.map fun x => (x.1, x.2.purge ctx (gone ++ domainGroups s ctx) fun n =>
        others.any fun c => (c.op == 0x32 || c.op == 0x33) && cmdSess c == n && coreDie c.core == x.1)
      reqs := s.reqs.filter fun r => r.key.ctx != ctx
      raises := s.raises.filter fun r => r.key.ctx != ctx
      moves := s.moves.filter fun m => m.ctx != ctx
      dir := s.dir.filter fun e => e.key.ctx != ctx
      groups := s.groups.filter fun g => !gone.contains g.key
      gmsgs := s.gmsgs.filter fun m => !gone.contains m.key
      colls := s.colls.filter fun m => !gone.contains m.group
      collSeqs := s.collSeqs.filter fun x => !gone.contains x.1 }
    fun c => c.ctx == ctx

/-- A task's core freed, if it holds one, with the pins that it set (R280). -/
def freeCore (s : State) (t : Task) : State :=
  if (s.core t.core).task = some t.id then (clearPins s t.core).modCore t.core idleCore else s

/-- The launches and tasks of a context gone. -/
def dropTasks (s : State) (ctx : BitVec 12) : State :=
  let ts := s.tasks.filter fun t => taskOf s ctx t
  let t := (ctxLaunches s ctx).foldl dropSlots (ts.foldl freeCore s)
  let u := dropHist { t with fmsgs := t.fmsgs.filter fun m => !(ts.any fun x => m.task == some x.id) } fun w =>
    ts.any fun x => w.task == some x.id
  let v := (ctxLaunches u ctx).foldl dropLaunch u
  (v.clusters.map fun x => x.1).foldl clearRetain v

/-- A context stopped for good: its writes under way discarded, its work dropped, its state ended; a stack that one of its saves
held is held no longer (R384). -/
def endContext (s : State) (ctx : BitVec 12) : State :=
  (startRetrains (dropTasks (purgeUnits (discardWrites s ctx) ctx) ctx)).modCtx ctx fun c =>
    { c with ctl := .ended, resumePend := false, stopOp := false }

/-- The report of a context's fault (R381), with the completion of a kill (R382). -/
def reportFault (s : State) (c : Context) (f : FaultRec) : State :=
  let t := postNote (writeFrec s c f) c.id (c.vflt + 1) 3 0 (f.code.zeroExtend 64) f.unit
  if c.killOp then postNote t c.id 0 4 3 0 0 else t

/-- A faulted context stopped and reported. -/
def stopFaulted (s : State) (c : Context) : State :=
  match c.fault with
  | none => s
  | some f => reportFault (endContext s c.id) c f

/-- CONTEXT_FAULT_STOP. -/
def execContextFaultStop (ctx : Nat) (s : State) : Out :=
  match s.ctxAt ctx with
  | none => .next s
  | some c => .next (if c.ctl = .ended then s else stopFaulted s c)

end Sys2Proof.Machine
end

