-- ==== Sys2Proof/Machine/HostSide.lean ====
section
/-! DEFINITION. What the host does to the module (R376 to R382, R387, R388): contexts created and destroyed, the
doorbell pages, the control ops, the debug window, and the samples that a traced context yields. -/

namespace Sys2Proof.Machine

/-! ### Contexts (R378) -/

/-- A context as a descriptor makes it live. -/
def newContext (desc : BitVec 2048) : Context where
  id := desc.extractLsb' 0 12
  desc := desc
  lqtail := 0
  lqhead := 0
  nqread := 0
  nqwrite := 0
  tqread := 0
  tqwrite := 0
  tqdrop := 0
  dropSince := 0
  late := 0
  pdl := 0
  ctl := .running
  resumePend := false
  stopOp := false
  killOp := false
  stash := []
  reclaim := []
  promoLate := 0
  fault := none
  noteq := []
  traceq := []

/-- `mod.ctxsts` after a command, which is no longer under way. -/
def setCtxsts (s : State) (result : Nat) (ctx : BitVec 12) : State :=
  { s with modctxsts := BitVec.ofNat 64 (result * 2 ^ 56 + ctx.toNat), ctxcmd := none }

/-- A command may run: none is under way, or it is the one that was written (R376): its op and its descriptor's address. -/
def cmdRuns (s : State) (op addr : Nat) : Bool :=
  match s.ctxcmd with
  | none => true
  | some v => bitsAt v.toNat 60 4 == op && bitsAt v.toNat 8 44 == addr / 256

/-- A write of `mod.ctxcmd` (R376): dropped while a command is under way, and for a reserved op; else the command is under way
and `mod.ctxsts` reads busy, until the device has carried it out (log 110). -/
def writeCtxcmd (s : State) (v : Word) : State :=
  let op := bitsAt v.toNat 60 4
  if s.ctxcmd.isSome || !(op == 1 || op == 2) then s
  else { s with ctxcmd := some v, modctxsts := BitVec.ofNat 64 (2 ^ 56) }

/-- The descriptor at a physical address of HBM; bits 7:0 of the address are no part of it. -/
def readDesc (s : State) (addr : Nat) : Option (BitVec 2048) :=
  let a := addr - addr % 256
  if 0x9000000000 ≤ a then none
  else
    match readPhys s a 256 with
    | .error _ => none
    | .ok bs => some (BitVec.ofNat 2048 (leNat bs))

/-- CTX_CREATE. -/
def execCtxCreate (addr : Nat) (s : State) : Out :=
  if !cmdRuns s 1 addr then .next s
  else
    match readDesc s addr with
    | none => .next (setCtxsts s 0x81 0)
    | some d =>
      let c := newContext d
      if !descOk c then .next (setCtxsts s 0x81 c.id)
      else
        match s.ctx? c.id with
        | some _ => .next (setCtxsts s 0x82 c.id)
        | none => .next (setCtxsts { s with ctxs := s.ctxs ++ [c] } 0 c.id)

/-- The host-abort fault's record (R392). -/
def hostAbort (s : State) (ctx : BitVec 12) : FaultRec :=
  { code := 0x3A, reason := 0, more := 0, ctx := ctx, unit := 0x801, pc := 0, val := 0, time := s.counter, fqw := 0 }

/-- A context killed on the spot, for its destruction: the abort recorded, the context ended and reported. -/
def abortContext (s : State) (c : Context) : State :=
  if c.ctl = .ended then s
  else
    let t := collect s (hostAbort s c.id)
    match t.ctx? c.id with
    | none => t
    | some d => stopFaulted t d

/-- A context's id freed: nothing of it stays in the device. -/
def freeContext (s : State) (ctx : BitVec 12) : State :=
  { s with
    ctxs := s.ctxs.filter fun c => c.id != ctx
    posts := s.posts.filter fun f => f.ctx != ctx
    invals := s.invals.filter fun v => v.ctx != ctx
    clusters := s.clusters.map fun x => (x.1, { x.2 with tlb := x.2.tlb.filter fun e => e.ctx != ctx }) }

/-- CTX_DESTROY: the context that the descriptor names is ended as a kill ends it, and its id is freed. -/
def execCtxDestroy (addr : Nat) (s : State) : Out :=
  if !cmdRuns s 2 addr then .next s
  else
    match readDesc s addr with
    | none => .next (setCtxsts s 0x81 0)
    | some d =>
      let id := d.extractLsb' 0 12
      match s.ctx? id with
      | none => .next (setCtxsts s 0x83 id)
      | some c => .next (setCtxsts (freeContext (abortContext s c) id) 0 id)

/-! ### Doorbells (R379, R380, R388) -/

/-- `lqtail` written. -/
def writeLqtail (s : State) (ctx : Nat) (v : Word) : State :=
  match s.ctxAt ctx with
  | none => s
  | some c => s.modCtx c.id fun c => { c with lqtail := v }

/-- `nqread` written: room in the notification ring, and what has waited for it. -/
def writeNqread (s : State) (ctx : Nat) (v : Word) : State :=
  match s.ctxAt ctx with
  | none => s
  | some c => drainNotes c.id (c.noteq.length + 1) (s.modCtx c.id fun c => { c with nqread := v })

/-- `tqread` written: room in the trace ring, and what has waited for it. -/
def writeTqread (s : State) (ctx : Nat) (v : Word) : State :=
  match s.ctxAt ctx with
  | none => s
  | some c => drainTrace c.id (c.traceq.length + 1) (s.modCtx c.id fun c => { c with tqread := v })

/-- LQTAIL_WRITE. -/
def execLqtailWrite (ctx : Nat) (v : BitVec 64) (s : State) : Out := .next (writeLqtail s ctx v)

/-- NQREAD_WRITE. -/
def execNqreadWrite (ctx : Nat) (v : BitVec 64) (s : State) : Out := .next (writeNqread s ctx v)

/-- TQREAD_WRITE. -/
def execTqreadWrite (ctx : Nat) (v : BitVec 64) (s : State) : Out := .next (writeTqread s ctx v)

/-! ### Control ops (R382) -/

/-- A control op on a context that no kill or fault, pending ones included, goes before. -/
def ctlOn (s : State) (ctx : Nat) (f : Context → State) : State :=
  match s.ctxAt ctx with
  | none => s
  | some c => if c.ctl = .ended ∨ c.killOp = true ∨ faulted s c.id = true then s else f c

/-- Op 1: a stop, dropped unless the context runs. -/
def ctlStop (s : State) (ctx : Nat) : State :=
  ctlOn s ctx fun c => if c.ctl = .running then settleStop (stopContext s c.id 2) c.id else s

/-- Op 2: a resume, dropped while the context runs; one that comes while it is stopping waits for the stop. -/
def ctlResume (s : State) (ctx : Nat) : State :=
  ctlOn s ctx fun c =>
    match c.ctl with
    | .running => s
    | .stopping => s.modCtx c.id fun c => { c with resumePend := true }
    | .stopped => resumeContext s c.id
    | .ended => s

/-- Op 3: the host-abort fault is raised in the context. -/
def ctlKill (s : State) (ctx : Nat) : State :=
  match s.ctxAt ctx with
  | none => s
  | some c =>
    if c.ctl = .ended then s
    else { s.modCtx c.id fun c => { c with killOp := true, resumePend := false } with posts := s.posts ++ [hostAbort s c.id] }

/-- Op 4: every translation of the context is invalidated. -/
def ctlInvalidate (s : State) (ctx : Nat) : State := ctlOn s ctx fun c => startInval s c.id true

/-- CTL_STOP. -/
def execCtlStop (ctx : Nat) (s : State) : Out := .next (ctlStop s ctx)

/-- CTL_RESUME. -/
def execCtlResume (ctx : Nat) (s : State) : Out := .next (ctlResume s ctx)

/-- CTL_KILL. -/
def execCtlKill (ctx : Nat) (s : State) : Out := .next (ctlKill s ctx)

/-- CTL_INVALIDATE. -/
def execCtlInvalidate (ctx : Nat) (s : State) : Out := .next (ctlInvalidate s ctx)

/-- A write of `ctl`: its op performed; ops 0 and 5 to 15 are dropped. -/
def writeCtl (s : State) (ctx : Nat) (v : Word) : State :=
  match bitsAt v.toNat 0 4 with
  | 1 => ctlStop s ctx
  | 2 => ctlResume s ctx
  | 3 => ctlKill s ctx
  | 4 => ctlInvalidate s ctx
  | _ => s

/-! ### Registers and the debug window (R376, R382, R384) -/

/-- The saved task of a context whose area holds an address of the pool. -/
def areaTask (s : State) (c : Context) (va : Nat) : Option Task :=
  s.tasks.find? fun t => taskOf s c.id t && t.saved && decide (0 < t.area) && decide (t.base ≤ va) && decide (va < t.base + 0x50000)

/-- The virtual address that the debug window shows at an offset: in the pool, or in the mirror where the save map of
the task whose area it is names that copy. -/
def windowVa (s : State) (c : Context) (off : Nat) : Nat :=
  let va := c.pool + s.dbgaddr.toNat + off
  match areaTask s c va with
  | none => va
  | some t => areaVa c t (va - t.base)

/-- The context that the window shows: stopped, with the offset in its pool. -/
def windowCtx (s : State) (off : Nat) : Option Context :=
  match s.ctx? (s.dbgctx.extractLsb' 0 12) with
  | none => none
  | some c =>
    if c.ctl = .stopped ∧ off < 2048 ∧ off % 8 = 0 ∧ s.dbgaddr.toNat + off + 8 ≤ c.npool * 0x50000 then some c else none

/-- 8 bytes of the debug window as they read, zero where it shows nothing. -/
def windowRead (s : State) (off : Nat) : Word :=
  match windowCtx s off with
  | none => 0
  | some c =>
    match engineBytes s 0 c.id (windowVa s c off) 8 with
    | .ok bs => BitVec.ofNat 64 (leNat bs)
    | .error _ => 0

/-- 8 bytes written through the debug window, at system scope. -/
def windowWrite (s : State) (off : Nat) (v : Word) : State :=
  match windowCtx s off with
  | none => s
  | some c =>
    match enginePut 0 c.id (windowVa s c off) (leBytes 8 v.toNat) s with
    | .ok t => t
    | .error _ => s

/-- DEBUG_WINDOW_ACCESS: 8 bytes read or written at system scope; what is read leaves the module. -/
def execDebugWindowAccess (wr : Bool) (off : Nat) (v : BitVec 64) (s : State) : Out :=
  .next (if wr then windowWrite s off v else s.send "window" [windowRead s off])

/-- A write of a module register (R376); a reserved or read-only offset drops it. -/
def writeModReg (s : State) (off : Nat) (v : Word) : State :=
  if off = 0x08 then writeCtxcmd s v
  else if off = 0x18 then { s with dbgaddr := v &&& 0x000F_FFFF_FFFF_F800#64 }
  else if off = 0x20 then { s with dbgctx := v &&& 0xFFF#64 }
  else s

/-- A write of a doorbell page's register (R382). -/
def writeDoorbell (s : State) (ctx off : Nat) (v : Word) : State :=
  if off = 0 then writeLqtail s ctx v
  else if off = 0x10 then writeNqread s ctx v
  else if off = 0x20 then writeTqread s ctx v
  else if off = 0x40 then writeCtl s ctx v
  else if off = 0x48 then
    match s.ctxAt ctx with
    | none => s
    | some c => s.modCtx c.id fun c => { c with pdl := v }
  else s

/-- HOST_REGISTER_WRITE: a write of a BAR (R376). -/
def execHostRegisterWrite (bar off : Nat) (v : BitVec 64) (s : State) : Out :=
  .next (if bar = 0 then writeModReg s off v
    else if bar = 2 then writeDoorbell s (off / 4096) (off % 4096) v
    else if bar = 4 then windowWrite s off v
    else s)

/-! ### TRACE_SAMPLE (R386, R388) -/

/-- The class of a strand's head in the counter cycle, with its flag (R386, log 68). -/
def sampleClass (s : State) (n : Nat) (k : Kind) : Nat × Nat := tget (3, 0) (s.core n).hcls k.code

/-- The sample of one strand that runs. -/
def sampleStrand (ctx : BitVec 12) (s : State) (x : Nat × Kind) : State :=
  if mayIssue s x.1 x.2 then
    let y := sampleClass s x.1 x.2
    tracePost s ctx (some x) 1 y.1 y.2 (strandId s x.1 x.2) ((s.core x.1).strand x.2).pc
  else s

/-- TRACE_SAMPLE: at a multiple of the sample interval, one sample for each strand of the context, in ascending
`strand.id`; the samples of one cycle are taken once. -/
def execTraceSample (ctx : Nat) (s : State) : Out :=
  match s.ctxAt ctx with
  | none => .next s
  | some c =>
    if c.tron && c.samp != 0 && s.now % 2 ^ c.samp == 0 && c.sampled != some s.now then
      .next (((sortBy (fun a b => decide (a < b)) (ctxCores s c.id)).flatMap fun n => Kind.all.map fun k => (n, k)).foldl
        (sampleStrand c.id) (s.modCtx c.id fun c => { c with sampled := some s.now }))
    else .next s

end Sys2Proof.Machine
end

