-- ==== Sys2Proof/Machine/Joins.lean ====
section
/-! DEFINITION. What a strand meets at its head besides its instructions, as events of their own: the join traps (R18,
R21), the token-error trap (R117), and an instruction fetch (R150, R258). An issue turn judges the same. -/

namespace Sys2Proof.Machine

/-- A strand that may try its head now. -/
def atHead (s : State) (n : Nat) (k : Kind) : Bool := decide (n < 640) && mayIssue s n k && !traceStall s n k

/-- A strand's head, decoded, and the trap of a join check if the head meets the wanted one (R18, R21). -/
def joinEvent (code : Nat) (s : State) (n : Nat) (k : Kind) : State :=
  if !atHead s n k then s
  else
    match decodeHead s n k with
    | .settled _ => s
    | .wait _ _ _ => s
    | .go t b =>
      if joinTrap (s.core n) k b.hdr = some code then headTrap t n k code (b.hdr.jtag.zeroExtend 64) else s

/-- JOIN_MEMBER (R18): a joined bundle of a tag of which the strand is no member. -/
def execJoinMember (n : Nat) (k : Kind) (s : State) : Out := .next (joinEvent 6 s n k)

/-- JOIN_BROKEN (R21): a joined bundle of which a member has halted. -/
def execJoinBroken (n : Nat) (k : Kind) (s : State) : Out := .next (joinEvent 7 s n k)

/-- A strand that waits at a joined bundle past the join limit takes the trap: the last issue turn of its core found its
bundle ready as a whole and a partner not (R21). -/
def joinLate (s : State) (n : Nat) (k : Kind) : State :=
  match ((s.core n).strand k).joinSince with
  | none => s
  | some since =>
    if !s.joinReady.contains (n, k) || !(s.core n).waitPassed s.now since (s.core n).joinLimit.toNat then s
    else
      match judgeHead s (s.core n) n k with
      | .settled _ => s
      | .wait _ _ _ => s
      | .go t b => if b.hdr.sync = 0 then s else headTrap t n k 8 (b.hdr.jtag.zeroExtend 64)

/-- JOIN_TIMEOUT (R21, R143): a member has waited for a partner past the join limit. -/
def execJoinTimeout (n : Nat) (k : Kind) (s : State) : Out := .next (if atHead s n k then joinLate s n k else s)

/-- The token wait of a decoded head reported (R117): no masked token busy and one in error, once the flag wait holds. -/
def tokenLate (s : State) (n : Nat) (k : Kind) : State :=
  match decodeHead s n k with
  | .settled _ => s
  | .wait _ _ _ => s
  | .go t b =>
    if (joinTrap (s.core n) k b.hdr).isSome || !flagWaitOk (s.core n) b.hdr || tokBusy (s.core n) b.hdr.tokmask ||
      (tokErrs (s.core n) b.hdr.tokmask).isEmpty then s
    else
      match judgeHead s (s.core n) n k with
      | .settled u => u
      | .wait _ _ _ => t
      | .go _ _ => t

/-- TOKEN_ERROR (R117). -/
def execTokenError (n : Nat) (k : Kind) (s : State) : Out := .next (if atHead s n k then tokenLate s n k else s)

/-- A fetch that is not at the strand's head: it brings a word into the cache, or nothing. -/
def prefetch (s : State) (n : Nat) (k : Kind) (va : Nat) : State :=
  match fetchWord s n ((s.core n).strand k) va with
  | .ok _ st => s.modStrand n k fun x => { x with icache := st.icache }
  | .trap _ _ => s
  | .walk _ => s
  | .data _ _ => s

/-- A fetch at the strand's head: the bundle's words come into the cache, or the trap or the fault is taken. -/
def fetchHead (s : State) (n : Nat) (k : Kind) : State :=
  match decodeHead s n k with
  | .settled t => t
  | .wait t _ _ => t
  | .go t _ => t

/-- INSTRUCTION_FETCH (R150, R258): a fetch by a strand that runs, at its head or ahead of it. -/
def execInstructionFetch (n : Nat) (k : Kind) (va : Nat) (s : State) : Out :=
  if !atHead s n k then .next s
  else if va = ((s.core n).strand k).pc.toNat then .next (fetchHead s n k)
  else .next (if va % 4 = 0 then prefetch s n k va else s)

end Sys2Proof.Machine
end

