-- ==== Sys2Proof/Machine/Links.lean ====
section
/-! DEFINITION. The Hennil links (R394, R399 to R401) and the requests to peers that end without a response (R398,
R400). -/

namespace Sys2Proof.Machine

/-! ### Ports -/

/-- A port of a die. -/
def State.port (s : State) (die port : Nat) : Port := tget {} (s.die die).ports port

/-- The state with a port replaced. -/
def State.setPort (s : State) (die port : Nat) (p : Port) : State :=
  s.modDie die fun d => { d with ports := tset {} d.ports port p }

/-- The port exists (R401). -/
def isPort (die port : Nat) : Bool := decide (die < 4) && decide (port < 5)

/-- Lane retirement (R400). -/
def retireLane (p : Port) (lane : Nat) : Port := { p with lret := p.lret ||| (1#8 <<< lane) }

/-- The width that the retired lanes leave (R400), as the field of R401: 0 down, 1 x4, 2 x8. -/
def widthOf (lret : BitVec 8) : BitVec 2 :=
  if lret = 0 then 2 else if lret.extractLsb' 0 4 = 0 ∨ lret.extractLsb' 4 4 = 0 then 1 else 0

/-- The black-box event of a retired lane (R389): die, port and lane. -/
def laneEvent (die port : Nat) (s : State) (lane : Nat) : State :=
  moduleEvent s 9 (BitVec.ofNat 64 (die * 2 ^ 16 + port * 2 ^ 8 + lane))

/-- A route has changed: the requests to peers made from now on wait for the earlier ones to the same peer (R397). -/
def routeChange (s : State) : State := { s with routeMark := s.nextId }

/-- Lanes of a port retired, each with its event; the link is retrained when one of them is newly retired. -/
def retireLanes (s : State) (die port : Nat) (lanes : List Nat) : State :=
  let p := s.port die port
  let new := (lanes.filter fun i => decide (i < 8) && !p.lret.getLsbD i).eraseDups
  if new.isEmpty then s
  else
    let q := new.foldl retireLane p
    new.foldl (laneEvent die port) (routeChange (s.setPort die port { q with st := if p.st = 0 then 0 else 1 }))

/-! ### FLIT_RECEIVE (R399) -/

/-- A flit sent, or sent again: its port and its sequence number. -/
def emitFlit (die port : Nat) (s : State) (seq : BitVec 12) : State :=
  s.send "flit-out" [BitVec.ofNat 64 (8 * die + port), seq.zeroExtend 64]

/-- The flits that a sender keeps for replay (R399). -/
def replayRoom : Nat := 1024

/-- The flits that the port has sent since the last flit came in: how many is a free choice (log 4), as far as the replay buffer
has room for them. -/
def sendFlits (die port : Nat) : Nat → State → Port → State × Port
  | 0, s, p => (s, p)
  | fuel + 1, s, p =>
    if replayRoom ≤ p.replayBuf.length then (s, p)
    else
      let x := s.takeBool
      if x.1 then
        sendFlits die port fuel (emitFlit die port x.2 p.txSeq)
          { p with txSeq := p.txSeq + 1, replayBuf := p.replayBuf ++ [p.txSeq] }
      else (x.2, p)

/-- The flits that stay in the replay buffer after an acknowledgement. -/
def afterAck (buf : List (BitVec 12)) (ack : BitVec 12) : List (BitVec 12) :=
  if buf.contains ack then (buf.dropWhile fun x => x != ack).drop 1 else buf

/-- The corrected bursts of a flit counted (R400, R401). -/
def countBursts (p : Port) (lanes : List Nat) : Port :=
  let ls := lanes.filter fun i => decide (i < 8)
  { p with corr := p.corr + BitVec.ofNat 32 ls.length,
           win := ls.foldl (fun w i => tset 0 w i (tget 0 w i + 1)) p.win }

/-- A flit whose CRC holds: its acknowledgement, its `nak`, which replays what is left, and its own place in the
sequence. -/
def takeFlit (p : Port) (f : FlitMsg) : Port :=
  let buf := afterAck p.replayBuf f.ack
  { p with replayBuf := buf, repl := if f.nak then p.repl + BitVec.ofNat 16 buf.length else p.repl,
           rxSeq := if f.seq = p.rxSeq then p.rxSeq + 1 else p.rxSeq }

/-- The number of the window of corrections in which a cycle lies (R400). -/
def windowOf (now : Nat) : Nat := now / 2 ^ 30

/-- A window that is over: its lanes with too many corrections are retired, and the counts start over (R400). -/
def closeWindow (s : State) (die port : Nat) : State :=
  let p := s.port die port
  if p.winNo = windowOf s.now then s
  else
    retireLanes (s.setPort die port { p with win := [], winNo := windowOf s.now }) die port
      ((List.range 8).filter fun i => decide (2 ^ 20 < tget 0 p.win i))

/-- FLIT_RECEIVE: FEC first, CRC second; a flit in sequence is delivered with its credit returns, one with a bad CRC is answered
with `nak`, and a `nak` that comes in has the flits from there on sent again. -/
def execFlitReceive (die port : Nat) (flit : FlitMsg) (s0 : State) : Out :=
  let s := if isPort die port then closeWindow s0 die port else s0
  let p := s.port die port
  if !isPort die port || p.st != 2 then .next s
  else
    let x := sendFlits die port replayRoom s (countBursts p flit.corrected)
    if flit.crcOk then
      let q := takeFlit x.2 flit
      let t := x.1.setPort die port q
      let u := if flit.nak then q.replayBuf.foldl (emitFlit die port) t else t
      .next (if flit.seq = p.rxSeq then
        u.send "flit" (flit.credits.zeroExtend 64 ::
          flit.payload.flatMap fun w => (List.range 4).map fun i => w.extractLsb' (64 * i) 64) else u)
    else .next ((x.1.setPort die port x.2).send "nak" [flit.seq.zeroExtend 64])

/-! ### Lanes and retraining (R400) -/

/-- LANE_FEC_WINDOW: the end of a window. -/
def execLaneFecWindow (die port : Nat) (s : State) : Out := .next (if isPort die port then closeWindow s die port else s)

/-- LANE_LOCK_LOSS: a lane of a link that is up or in training. -/
def execLaneLockLoss (die port lane : Nat) (s : State) : Out :=
  .next (if isPort die port && (s.port die port).st != 0 then retireLanes s die port [lane] else s)

/-! ### Requests to peers (R393, R398, R400) -/

/-- The physical address of a virtual one where it lies in a peer. -/
def peerAt (s : State) (cl : Nat) (ctx : BitVec 12) (va : Nat) : Option Nat :=
  match lookupVa s cl ctx va with
  | .ok pa _ _ => if (peerOf s pa).isSome then some pa else none
  | _ => none

/-- The first address of a tile that lies in a peer. -/
def tilePeer (s : State) (cl : Nat) (k : TileKey) (r : Block) : Option Nat :=
  (List.range (recRows r * recCols r)).findSome? fun x =>
    (tileIdx r k.outer.toNat k.trow.toNat k.tcol.toNat (x / recCols r) (x % recCols r)).bind fun idx =>
      peerAt s cl k.ctx (elemAddr r idx).1

/-- The first address of a command that lies in a peer: a copy's bytes, or the pages that an engine's tensors may touch. -/
def cmdPeer (s : State) (c : EngineCmd) : Option Nat :=
  let cl := coreCluster c.core
  if c.path = 2 then (copyReads c ++ copyWrites c).findSome? fun va => peerAt s cl c.ctx va
  else
    (cmdHulls s c).findSome? fun h =>
      let p := h.1.toNat / 2 ^ 14
      (List.range (h.2.toNat / 2 ^ 14 + 1 - p)).findSome? fun i => peerAt s cl c.ctx (Nat.max h.1.toNat ((p + i) * 2 ^ 14))

/-- The unit that performs a command of path E or F: a selection unit, a Landing slot, a Concourse session or a collective unit. -/
def cmdUnit (c : EngineCmd) : Nat × Nat :=
  if c.op = 0x30 then (0, coreCluster c.core)
  else if c.op = 0x31 then (1, cmdPlace c % 2 ^ 14)
  else if c.op < 0x34 then (2, 16 * coreDie c.core + cmdPlace c % 16)
  else (3, coreDie c.core)

/-- A command whose accesses are under way: a copy that has begun, or the first of its unit. -/
def cmdActive (s : State) (c : EngineCmd) : Bool :=
  !c.done && !c.failed &&
  if c.path = 2 then c.begun
  else !((allCmds s).any fun d => decide (d.id < c.id) && d.path != 2 && !d.done && cmdUnit d == cmdUnit c)

/-- What of a core waits for a peer: a scalar access, a command, a tile's fill, a hall line's write-back, or a fetch. -/
inductive PeerWait where
  | load (l : OutLoad)
  | store (t : OutStore)
  | cmd (c : EngineCmd) (pa : Nat)
  | fill (r : TileReq) (pa : Nat)
  | line (l : TileLine) (pa : Nat)
  | fetch (since pa : Nat)
  deriving DecidableEq, Repr

/-- The physical address that is waited for. -/
def PeerWait.pa : PeerWait → Nat
  | .load l => l.pa
  | .store t => t.pa
  | .cmd _ pa => pa
  | .fill _ pa => pa
  | .line _ pa => pa
  | .fetch _ pa => pa

/-- The context of a request of a core. -/
def PeerWait.ctx (w : PeerWait) (s : State) (n : Nat) : BitVec 12 :=
  match w with
  | .load _ => (s.core n).ctx
  | .store _ => (s.core n).ctx
  | .cmd c _ => c.ctx
  | .fill r _ => r.key.ctx
  | .line l _ => l.key.ctx
  | .fetch _ _ => (s.core n).ctx

/-- The cycle in which the request was made. -/
def PeerWait.since : PeerWait → Nat
  | .load l => l.since
  | .store t => t.since
  | .cmd c _ => c.since
  | .fill r _ => r.since
  | .line l _ => l.since
  | .fetch n _ => n

/-- The fetches of a core's heads that wait for a peer. -/
def fetchWaits (s : State) (n : Nat) : List PeerWait :=
  Kind.all.filterMap fun k =>
    ((s.core n).strand k).fetchSince.bind fun since =>
      (peerAt s (coreCluster n) (s.core n).ctx ((s.core n).strand k).pc.toNat).map fun pa => .fetch since pa

/-- What of a core may wait for a peer: its loads, its stores, its commands, the fills and write-backs that it asked for, and its
fetches. A fill of the hall alone counts for the cluster's first core. -/
def peerWaits (s : State) (n : Nat) : List PeerWait :=
  let cl := coreCluster n
  (s.core n).loads.map .load ++ (s.core n).stores.map .store ++
  ((allCmds s).filter fun c => c.core == n && cmdActive s c).filterMap (fun c => (cmdPeer s c).map fun pa => .cmd c pa) ++
  (s.reqs.filter fun r => r.stage == .home && r.core.getD (16 * r.cluster) == n).filterMap
    (fun r => (tilePeer s r.cluster r.key r.lrec).map fun pa => .fill r pa) ++
  ((s.cluster cl).hall.filter fun l => l.st == .draining && unitCore l.unit == n).filterMap
    (fun l => (tilePeer s cl l.key l.lrec).map fun pa => .line l pa) ++
  fetchWaits s n

/-- The fabric-unreachable faults after a route went away: one in each context with a request to a peer (R400). -/
def unreachableFaults (s : State) : State :=
  s.ctxs.foldl
    (fun t c =>
      match (List.range 640).findSome? fun n =>
          ((peerWaits s n).find? fun w => w.ctx s n == c.id && unreachable s w.pa).map fun w => (n, w.pa) with
      | none => t
      | some (n, pa) => t.postFault c.id 0x30 0 (BitVec.ofNat 64 (0x900 + coreDie n)) 0 (BitVec.ofNat 64 pa) 0) s

/-! ### LINK_RETRAIN_DONE (R400) -/

/-- Some port of the module has a property. -/
def anyPort (s : State) (f : Port → Bool) : Bool := (List.range 20).any fun i => f (s.port (i / 5) (i % 5))

/-- LINK_RETRAIN_DONE: a training link comes back at the width that its lanes leave, or goes down. A module whose links
are all down at bring-up forms a domain of its own (R394). -/
def execLinkRetrainDone (die port : Nat) (lost : List Nat) (s : State) : Out :=
  let p := s.port die port
  if !isPort die port || p.st != 1 then .next s
  else
    let t := retireLanes s die port lost
    let q := t.port die port
    let w := widthOf q.lret
    let u := routeChange (t.setPort die port { q with width := w, st := if w = 0 then 0 else 2, been := q.been || w != 0 })
    if routed u then .next u
    else if !anyPort u Port.been then .next { u with modNum := 0, domSize := 1 }
    else .next (unreachableFaults u)

/-! ### DOMAIN_CONFIG (R394) -/

/-- A configuration that the management controller accepts. -/
def domainOk (size number : Nat) (others : List Nat) : Bool :=
  decide (1 ≤ size) && decide (size ≤ 512) && decide (number < size) && (others.all fun m => decide (m < size)) &&
  decide ((number :: others).Nodup)

/-- Every link of the module in training. -/
def bringUp (s : State) : State :=
  (List.range 20).foldl (fun t i => t.setPort (i / 5) (i % 5) { t.port (i / 5) (i % 5) with st := 1 }) s

/-- The links have been brought up since the reset, whatever has come of it (R394). -/
def broughtUp (s : State) : Bool := anyPort s fun p => p.st != 0 || p.lret != 0 || p.been

/-- DOMAIN_CONFIG: the number and the size taken once until the next reset and the links brought up, or the configuration
refused. -/
def execDomainConfig (size number : Nat) (others : List Nat) (s : State) : Out :=
  if broughtUp s || !domainOk size number others then .next s
  else .next (bringUp { s with modNum := BitVec.ofNat 9 number, domSize := size })

/-! ### FABRIC_TIMEOUT (R398) -/

/-- The fabric-timeout fault of a request of a core (R410). -/
def fabricLate (s : State) (ctx : BitVec 12) (n pa : Nat) : State :=
  s.postFault ctx 0x31 0 (BitVec.ofNat 64 (0x900 + coreDie n)) 0 (BitVec.ofNat 64 pa) 0

/-- A peer's request without a response for 2^24 cycles. -/
def requestLate (s : State) (pa since : Nat) : Bool :=
  decide (0x8000000000000 ≤ pa) && memKind s pa != .unassigned && decide (2 ^ 24 ≤ s.now - since)

/-- A command that ends in a fault: a copy stays with its engine. -/
def failCmd (s : State) (c : EngineCmd) : State :=
  if c.path = 2 then
    s.modBte (coreCluster c.core) c.eng fun b => { b with act := b.act.map fun x => if x.id = c.id then x.fail else x }
  else s.modEngineCmd c.id EngineCmd.fail

/-- What has waited for a peer no longer does: a load's destination stays pending or unfilled, a write is not made. -/
def PeerWait.giveUp (w : PeerWait) (n : Nat) (s : State) : State :=
  match w with
  | .load l => s.modCore n fun c => takeLoad c l.id
  | .store t => s.modCore n fun c => { c with stores := c.stores.filter fun x => x.id != t.id }
  | .cmd c _ => failCmd s c
  | .fill r _ => setReq (dropFilling s r) r.id none
  | .line l _ => s.modCluster (coreCluster n) fun c => { c with hall := dropAtWay c.hall l.bank l.way }
  | .fetch _ _ => s

/-- FABRIC_TIMEOUT: what of a core has waited 2^24 cycles for a peer ends in the fault. -/
def execFabricTimeout (core idx : Nat) (s : State) : Out :=
  match (peerWaits s core)[idx]? with
  | none => .next s
  | some w => .next (if requestLate s w.pa w.since then fabricLate (w.giveUp core s) (w.ctx s core) core w.pa else s)

end Sys2Proof.Machine
end

