-- ==== Sys2Proof/Machine/LoadStore.lean ====
section
/-! DEFINITION. Scalar loads and stores (R154, R155), queued and remote loads (R156, R157) and atomics (R158 to
R160), as they issue; and the events that perform them. -/

namespace Sys2Proof.Machine

/-! ### Addresses (R155) -/

/-- The effective address of a scalar access, with its checks; the continuation receives address, physical address and
leaf. -/
def scalarAccess (s : State) (ea : Word) (size : Nat) (acc : Access) (f : Nat → Word → Out) : Out :=
  if ea.toNat % size ≠ 0 then trapAt s 1 ea else strandTranslate s ea acc f

/-- The page may be held in the core (R149, R358). -/
def coreCaches (leaf : Word) : Bool := leafLvl leaf == 0

/-- A physical destination of a load; register 0 takes no value (R9). -/
def loadDest (s : State) (rd : BitVec 6) : Nat := if rd = 0 then 0 else s.pre.physReg rd

/-- The acting strand with a register waiting for data (R155). -/
def State.pendReg (s : State) (phys : Nat) : State :=
  if phys = 0 then s else s.modActing fun st => { st with pend := st.pend ++ [phys] }

/-- An outstanding load added to the acting core. -/
def addLoad (s : State) (f : Nat → OutLoad) : State :=
  let i := s.takeId
  i.2.modLive fun c => { c with loads := c.loads ++ [f i.1] }

/-! ### LD, LDZ and ST -/

/-- A load of `size` bytes into a register. -/
def loadReg (g rd ra : BitVec 6) (off : BitVec 32) (size : Nat) (signed : Bool) (s : State) : Out :=
  guarded g s fun s => ready s [rd, ra] (
    let ea := s.rd ra + off.signExtend 64
    scalarAccess s ea size .read fun pa leaf =>
      let phys := loadDest s rd
      .next ((addLoad s fun id =>
        { id := id, use := .reg s.issue.kind phys, strand := s.issue.kind, va := ea.toNat, pa := pa, size := size,
          signed := signed, cached := coreCaches leaf, alloc := coreCaches leaf, z := leafZ leaf, acq := none,
          pc := s.issue.base, since := s.now }).pendReg phys))

/-- A store of `size` bytes. -/
def storeReg (g ra rs : BitVec 6) (off : BitVec 32) (size : Nat) (s : State) : Out :=
  guarded g s fun s => ready s [ra, rs] (
    let ea := s.rd ra + off.signExtend 64
    scalarAccess s ea size .write fun pa leaf =>
      let i := s.takeId
      .next (i.2.modLive fun c => { c with stores := c.stores ++
        [{ id := i.1, strand := s.issue.kind, pa := pa, bytes := leBytes size (s.rd rs).toNat, z := leafZ leaf,
           atCore := false, pc := s.issue.base, since := s.now }] }))

/-- LD.8. -/
def execLd8 (g rd ra : BitVec 6) (off : BitVec 32) (s : State) : Out := loadReg g rd ra off 1 true s

/-- LD.16. -/
def execLd16 (g rd ra : BitVec 6) (off : BitVec 32) (s : State) : Out := loadReg g rd ra off 2 true s

/-- LD.32. -/
def execLd32 (g rd ra : BitVec 6) (off : BitVec 32) (s : State) : Out := loadReg g rd ra off 4 true s

/-- LD.64. -/
def execLd64 (g rd ra : BitVec 6) (off : BitVec 32) (s : State) : Out := loadReg g rd ra off 8 true s

/-- LDZ.8. -/
def execLdz8 (g rd ra : BitVec 6) (off : BitVec 32) (s : State) : Out := loadReg g rd ra off 1 false s

/-- LDZ.16. -/
def execLdz16 (g rd ra : BitVec 6) (off : BitVec 32) (s : State) : Out := loadReg g rd ra off 2 false s

/-- LDZ.32. -/
def execLdz32 (g rd ra : BitVec 6) (off : BitVec 32) (s : State) : Out := loadReg g rd ra off 4 false s

/-- ST.8. -/
def execSt8 (g ra rs : BitVec 6) (off : BitVec 32) (s : State) : Out := storeReg g ra rs off 1 s

/-- ST.16. -/
def execSt16 (g ra rs : BitVec 6) (off : BitVec 32) (s : State) : Out := storeReg g ra rs off 2 s

/-- ST.32. -/
def execSt32 (g ra rs : BitVec 6) (off : BitVec 32) (s : State) : Out := storeReg g ra rs off 4 s

/-- ST.64. -/
def execSt64 (g ra rs : BitVec 6) (off : BitVec 32) (s : State) : Out := storeReg g ra rs off 8 s

/-! ### LDQ and RLDQ -/

/-- The lanes that a load of the A strand names. -/
def loadKeys (cmask : BitVec 4) (lane : BitVec 2) : List Nat := (maskKinds cmask).map fun c => laneKey 0 c lane.toNat

/-- The loads into lanes that are outstanding (R22). -/
def laneLoads (c : Core) : Nat := (c.loads.filter fun l => l.use == .lanes).length

/-- The most loads into lanes that may be outstanding (R22). -/
def laneLoadLimit : Nat := 64

/-- Every lane of a list has room for one more reservation (R22, R112). -/
def laneRooms (s : State) (ks : List Nat) : Bool := ks.all fun k => laneRoom s.issue.pre s.live s.now k

/-- A load of `size` bytes into lanes; `remote` for RLDQ, which never uses the scalar data cache. What it reserves is taken
before its address is judged, so that a later instruction of the bundle finds the room that is left (R16, R123); a bundle
that traps gives it back (R17, R22). -/
def loadLanes (g : BitVec 6) (cmask : BitVec 4) (lane : BitVec 2) (ra : BitVec 6) (zx : BitVec 1) (off : BitVec 24)
    (size : Nat) (remote : Bool) (acq : Option Nat) (s : State) : Out :=
  guarded g s fun s => ready s [ra] (
    let ks := loadKeys cmask lane
    if laneLoadLimit ≤ laneLoads s.live || !laneRooms s ks then hold s
    else
      let ea := s.rd ra + off.signExtend 64
      let i := s.takeId
      let reserved := fun (pa : Nat) (leaf : Word) =>
        i.2.modLive fun c =>
          let cached := !remote && coreCaches leaf
          let c1 := { c with loads := c.loads ++
            [{ id := i.1, use := .lanes, strand := s.issue.kind, va := ea.toNat, pa := pa, size := size,
               signed := zx == 0, cached := cached, alloc := cached, z := leafZ leaf, acq := acq, pc := s.issue.base,
               since := s.now }] }
          ks.foldl (fun c k => c.reserveLane s.now k i.1) c1
      scalarAccess (reserved 0 0) ea size .read fun pa leaf => .next (reserved pa leaf))

/-- The scope of an acquiring RLDQ. -/
def acqOf (acq : BitVec 1) (scope : BitVec 3) : Option Nat := if acq = 1 then some scope.toNat else none

/-- LDQ.8. -/
def execLdq8 (g : BitVec 6) (cmask : BitVec 4) (lane : BitVec 2) (ra : BitVec 6) (zx : BitVec 1) (off : BitVec 24)
    (s : State) : Out := loadLanes g cmask lane ra zx off 1 false none s

/-- LDQ.16. -/
def execLdq16 (g : BitVec 6) (cmask : BitVec 4) (lane : BitVec 2) (ra : BitVec 6) (zx : BitVec 1) (off : BitVec 24)
    (s : State) : Out := loadLanes g cmask lane ra zx off 2 false none s

/-- LDQ.32. -/
def execLdq32 (g : BitVec 6) (cmask : BitVec 4) (lane : BitVec 2) (ra : BitVec 6) (zx : BitVec 1) (off : BitVec 24)
    (s : State) : Out := loadLanes g cmask lane ra zx off 4 false none s

/-- LDQ.64. -/
def execLdq64 (g : BitVec 6) (cmask : BitVec 4) (lane : BitVec 2) (ra : BitVec 6) (zx : BitVec 1) (off : BitVec 24)
    (s : State) : Out := loadLanes g cmask lane ra zx off 8 false none s

/-- RLDQ.8. -/
def execRldq8 (g : BitVec 6) (cmask : BitVec 4) (lane : BitVec 2) (ra : BitVec 6) (zx : BitVec 1) (off : BitVec 24)
    (acq : BitVec 1) (scope : BitVec 3) (s : State) : Out := loadLanes g cmask lane ra zx off 1 true (acqOf acq scope) s

/-- RLDQ.16. -/
def execRldq16 (g : BitVec 6) (cmask : BitVec 4) (lane : BitVec 2) (ra : BitVec 6) (zx : BitVec 1) (off : BitVec 24)
    (acq : BitVec 1) (scope : BitVec 3) (s : State) : Out := loadLanes g cmask lane ra zx off 2 true (acqOf acq scope) s

/-- RLDQ.32. -/
def execRldq32 (g : BitVec 6) (cmask : BitVec 4) (lane : BitVec 2) (ra : BitVec 6) (zx : BitVec 1) (off : BitVec 24)
    (acq : BitVec 1) (scope : BitVec 3) (s : State) : Out := loadLanes g cmask lane ra zx off 4 true (acqOf acq scope) s

/-- RLDQ.64. -/
def execRldq64 (g : BitVec 6) (cmask : BitVec 4) (lane : BitVec 2) (ra : BitVec 6) (zx : BitVec 1) (off : BitVec 24)
    (acq : BitVec 1) (scope : BitVec 3) (s : State) : Out := loadLanes g cmask lane ra zx off 8 true (acqOf acq scope) s

/-! ### Atomics -/

/-- The operations that a memory supports (R160). -/
def amoSupported (s : State) (pa op : Nat) : Bool := memKind s pa != .host || decide (op ≤ 2)

/-- An atomic as it issues: its release first, then the request to the home agent. -/
def atomicOp (g rd ra rb : BitVec 6) (w : BitVec 1) (scope : BitVec 3) (ord : BitVec 2) (op : Nat) (unsigned : Bool)
    (cmp : BitVec 6) (s : State) : Out :=
  guarded g s fun s => ready s [rd, ra, rb, cmp] (
    let ea := s.rd ra
    let size := if w = 1 then 8 else 4
    scalarAccess s ea size .both fun pa leaf =>
      if !amoSupported s pa op then trapAt s 11 ea
      else
        let phys := loadDest s rd
        let s1 := if ordRelease ord then releaseAt s s.issue.core s.issue.kind scope.toNat else s
        .next ((addLoad s1 fun id =>
          { id := id, use := .atomic s.issue.kind phys op unsigned (s.rd rb) (s.rd cmp), strand := s.issue.kind,
            va := ea.toNat, pa := pa, size := size, signed := false, cached := false, alloc := false, z := leafZ leaf,
            acq := if ordAcquire ord then some scope.toNat else none, pc := s.issue.base, since := s.now }).pendReg
          phys))

/-- AMO.ADD. -/
def execAmoAdd (g rd ra rb : BitVec 6) (w : BitVec 1) (scope : BitVec 3) (ord : BitVec 2) (s : State) : Out :=
  atomicOp g rd ra rb w scope ord 0 false 0 s

/-- AMO.SWP. -/
def execAmoSwp (g rd ra rb : BitVec 6) (w : BitVec 1) (scope : BitVec 3) (ord : BitVec 2) (s : State) : Out :=
  atomicOp g rd ra rb w scope ord 1 false 0 s

/-- AMO.AND. -/
def execAmoAnd (g rd ra rb : BitVec 6) (w : BitVec 1) (scope : BitVec 3) (ord : BitVec 2) (s : State) : Out :=
  atomicOp g rd ra rb w scope ord 3 false 0 s

/-- AMO.OR. -/
def execAmoOr (g rd ra rb : BitVec 6) (w : BitVec 1) (scope : BitVec 3) (ord : BitVec 2) (s : State) : Out :=
  atomicOp g rd ra rb w scope ord 4 false 0 s

/-- AMO.XOR. -/
def execAmoXor (g rd ra rb : BitVec 6) (w : BitVec 1) (scope : BitVec 3) (ord : BitVec 2) (s : State) : Out :=
  atomicOp g rd ra rb w scope ord 5 false 0 s

/-- AMO.CAS. -/
def execAmoCas (g rd ra rb : BitVec 6) (w : BitVec 1) (scope : BitVec 3) (ord : BitVec 2) (cmp : BitVec 6) (s : State) :
    Out := atomicOp g rd ra rb w scope ord 2 false cmp s

/-- AMO.MIN. -/
def execAmoMin (g rd ra rb : BitVec 6) (w : BitVec 1) (scope : BitVec 3) (ord : BitVec 2) (u : BitVec 1) (s : State) :
    Out := atomicOp g rd ra rb w scope ord 6 (u == 1) 0 s

/-- AMO.MAX. -/
def execAmoMax (g rd ra rb : BitVec 6) (w : BitVec 1) (scope : BitVec 3) (ord : BitVec 2) (u : BitVec 1) (s : State) :
    Out := atomicOp g rd ra rb w scope ord 7 (u == 1) 0 s

/-! ### Their completion (R155, R159, R396) -/

/-- The load asks its home: the scalar data cache does not hold its line (R149). -/
def OutLoad.asks (c : Core) (l : OutLoad) : Bool := !(l.cached && c.scache.any fun x => x.1 == l.pa / 64)

/-- An earlier request of the core goes before one to a peer (R397): it goes to the same unit there, or a route has changed
between the two. -/
def behindPeer (s : State) (c : Core) (id pa : Nat) : Bool :=
  match peerOf s pa with
  | none => false
  | some m =>
    let before := fun (i a : Nat) => decide (i < id) && peerOf s a == some m &&
      (peerGallery a == peerGallery pa || (decide (i < s.routeMark) && decide (s.routeMark ≤ id)))
    (c.loads.any fun l => l.asks c && before l.id l.pa) || c.stores.any fun t => before t.id t.pa

/-- A load or atomic may be performed: no older overlapping access of its strand, no older acquire and no request to its peer
that goes before it is still outstanding (R101, R250, R397). -/
def loadReady (s : State) (c : Core) (l : OutLoad) : Bool :=
  !olderLoad c l.strand l.id l.pa l.size &&
  !(c.loads.any fun x => x.strand == l.strand && decide (x.id < l.id) && x.acq.isSome) &&
  !(l.asks c && behindPeer s c l.id l.pa)

/-- A store may be performed: no older overlapping access of its strand, no older acquire and no request to its peer that goes
before it is outstanding. -/
def storeReady (s : State) (c : Core) (t : OutStore) : Bool :=
  !olderStore c t.strand t.id t.pa t.bytes.length && !olderLoad c t.strand t.id t.pa t.bytes.length &&
  !(c.loads.any fun x => x.strand == t.strand && decide (x.id < t.id) && x.acq.isSome) && !behindPeer s c t.id t.pa

/-- An atomic, as distinct from a load. -/
def OutLoad.isAtomic (l : OutLoad) : Bool :=
  match l.use with
  | .reg _ _ => false
  | .lanes => false
  | .atomic _ _ _ _ _ _ => true

/-- LOAD_RETURN. -/
def execLoadReturn (core idx : Nat) (s : State) : Out :=
  match (s.core core).loads[idx]? with
  | none => .next s
  | some l => .next (if !l.isAtomic && loadReady s (s.core core) l then finishLoad s core l else s)

/-- ATOMIC_RESPONSE. -/
def execAtomicResponse (core idx : Nat) (s : State) : Out :=
  match (s.core core).loads[idx]? with
  | none => .next s
  | some l => .next (if l.isAtomic && loadReady s (s.core core) l then finishLoad s core l else s)

/-- WRITE_ACKNOWLEDGEMENT. -/
def execWriteAcknowledgement (core idx : Nat) (s : State) : Out :=
  match (s.core core).stores[idx]? with
  | none => .next s
  | some t => .next (if storeReady s (s.core core) t then performStore s core t else s)

end Sys2Proof.Machine
end

