-- ==== Sys2Proof/Machine/Module.lean ====
section
/-! DEFINITION. The module around its contexts: clock, units and reset (R385), the black box (R389), the security root
(R390), the thermal trip (R391), slot swaps (R346, R347), page walks (R283), and what a host read of a register returns
(R376, R382). -/

namespace Sys2Proof.Machine

/-! ### CLOCK_STEP, UNIT_FAILURE, MODULE_RESET (R385) -/

/-- CLOCK_STEP: the arithmetic clock in steps of 0.05 GHz above 0.5 GHz. -/
def execClockStep (n : Nat) (s : State) : Out :=
  .next (if n ≤ 10 then moduleEvent { s with clock := n } 7 (BitVec.ofNat 64 n) else s)

/-- The cores of a unit: units 0 to 639 are the cores, 640 to 679 the clusters and 680 to 683 the dies. -/
def unitCores (u : Nat) : List Nat :=
  if u < 640 then [u]
  else if u < 680 then (List.range 16).map fun i => 16 * (u - 640) + i
  else if u < 684 then (List.range 160).map fun i => 160 * (u - 680) + i
  else []

/-- A context has work on a unit: a task on one of its cores, a command that one of its cores issued, or one in the Landing of a
cluster of it (R300). -/
def workOn (s : State) (u : Nat) (ctx : BitVec 12) : Bool :=
  (s.tasks.any fun t => taskOf s ctx t && t.onCore && (unitCores u).contains t.core) ||
  ((allCmds s).any fun c => c.ctx == ctx && (unitCores u).contains c.core) ||
  (decide (640 ≤ u) && s.clusters.any fun x => (unitCores u).contains (16 * x.1) && x.2.lndq.any fun c => c.ctx == ctx)

/-- UNIT_FAILURE: a working core, cluster or die fails: the unit-failure fault in every context with work on it, and its cores
are mapped out at the next reset. -/
def execUnitFailure (unit : Nat) (s : State) : Out :=
  let new := (unitCores unit).filter fun n => coreWorks s n && !s.failed.contains n
  match new with
  | [] => .next s
  | _ =>
    let id := strandId s ((unitCores unit).headD 0) .a
    let t := moduleEvent { s with failed := s.failed ++ new } 10 id
    .next ((s.ctxs.filter fun c => c.ctl != .ended && workOn s unit c.id).foldl
      (fun t c => t.postFault c.id 0x38 0 id 0 0 0) t)

/-- The memory outside the module: host memory and the peers'. -/
def outsideMem (m : List Host.Cell) : List Host.Cell := m.filter fun c => decide (0x6000000000000 ≤ c.1)

/-- MODULE_RESET: the state after reset, with the failed units mapped out. What is outside the module stays, the
installed firmware stays, and the black box stays over a warm reset. -/
def execModuleReset (warm : Bool) (s : State) : Out :=
  let r : State :=
    { State.reset with
      agenda := s.agenda
      turns := s.turns
      fresh := s.fresh
      nextId := s.nextId
      outbox := s.outbox
      mem := outsideMem s.mem
      poison := s.poison.filter fun g => decide (0x6000000000000 ≤ g)
      mapped := (s.mapped ++ s.failed).eraseDups
      fwVersion := s.fwVersion
      rollback := s.rollback }
  let t : State := if warm then { r with bbox := s.bbox, bbFrozen := s.bbFrozen, bbOver := s.bbOver } else r
  .next (moduleEvent t 11 (if warm then 1 else 0))

/-! ### BLACKBOX_REARM (R389) -/

/-- BLACKBOX_REARM: the management controller reads the events and their overflow count, and events are recorded
again. -/
def execBlackboxRearm (s : State) : Out :=
  .next { s.send "blackbox" (s.bbOver.zeroExtend 64 :: s.bbox.flatten) with bbFrozen := false, bbOver := 0 }

/-! ### FIRMWARE_UPDATE, ATTESTATION_REPORT (R390) -/

/-- FIRMWARE_UPDATE: installed only when both signatures verify and the rollback number is not below the stored one. -/
def execFirmwareUpdate (edOk mlOk : Bool) (rollback : Nat) (version : BitVec 32) (s : State) : Out :=
  .next (if edOk && mlOk && decide (s.rollback ≤ rollback) then { s with fwVersion := version, rollback := rollback } else s)

/-- `mod.id` (R376). -/
def modId (s : State) : Word := s.fwVersion ++ (0 : BitVec 7) ++ s.modNum ++ 0x4640#16

/-- What an attestation report holds: the nonce, `mod.id`, `cap.units`, `cap.clmask` and the measurements of the firmware. -/
def reportWords (s : State) (nonce : BitVec 256) : List Word :=
  ((List.range 4).map fun i => nonce.extractLsb' (64 * i) 64) ++ [modId s, capCsr s 0xC01, capCsr s 0xC02] ++
  Config.measurements s.fwVersion

/-- ATTESTATION_REPORT: the report leaves the module with both signatures (log 71). -/
def execAttestationReport (nonce : BitVec 256) (s : State) : Out :=
  .next (s.send "attestation" (reportWords s nonce ++ Config.signatures (reportWords s nonce)))

/-! ### THERMAL_TRIP (R391, R392) -/

/-- THERMAL_TRIP: a die at 110 °C or more; the temperature is in tenths of a degree. -/
def execThermalTrip (die temp : Nat) (s : State) : Out :=
  if 4 ≤ die ∨ temp < 1100 then .next s
  else
    .next { (s.ctxs.filter fun c => c.ctl != .ended).foldl
      (fun t c => t.postFault c.id 0x39 0 (BitVec.ofNat 64 (0x800 + die)) 0 (BitVec.ofNat 64 temp) 0) s with bbFrozen := true }

/-! ### SLOT_SWAP (R346, R347) -/

/-- The slot at which a slot of a stack stands (R345, R347). -/
def remapSlot (entries : List (Nat × Nat)) (q : Nat) : Nat :=
  match entries.find? fun e => e.1 == q || e.2 == q with
  | none => q
  | some e => if e.1 = q then e.2 else e.1

/-- A remap table after two slots are exchanged: a pair that stands in it is taken out; none where a slot would stand
in two entries or the table is full. -/
def swapEntries (entries : List (Nat × Nat)) (a b : Nat) : Option (List (Nat × Nat)) :=
  if entries.any fun e => e == (a, b) || e == (b, a) then some (entries.filter fun e => e != (a, b) && e != (b, a))
  else if (entries.any fun e => e.1 == a || e.2 == a || e.1 == b || e.2 == b) || decide (256 ≤ entries.length) then none
  else some (entries ++ [(a, b)])

/-- The 2 MiB slots of a stack. -/
def stackSlots : Nat := 24576

/-- SLOT_SWAP: two slots of different octets exchange their placements; physical addresses keep their contents. -/
def execSlotSwap (stack slotA slotB : Nat) (s : State) : Out :=
  let x : Stack := tget {} s.hbm stack
  if 12 ≤ stack ∨ stackSlots ≤ slotA ∨ stackSlots ≤ slotB ∨ remapSlot x.remap slotA % 4 = remapSlot x.remap slotB % 4 then
    .next s
  else
    match swapEntries x.remap slotA slotB with
    | none => .next s
    | some es => .next { s with hbm := tset {} s.hbm stack { x with remap := es }, swaps := s.swaps + 1 }

/-- Where an address of HBM lies (R345): its gallery and its channel-local address. -/
def galleryOf (s : State) (pa : Nat) : Nat × Nat :=
  let r := pa / 2 ^ 21
  let q := remapSlot (tget {} s.hbm (r % 12) : Stack).remap (r / 12)
  (32 * (r % 12) + hbmChannel q pa, q / 4 * 2 ^ 18 + bitsAt pa 11 10 * 256 + pa % 256)

/-- Where a channel-local address stands in its channel's DRAM (R345). -/
structure DramPos where
  column : Nat
  bank : Nat
  bankgroup : Nat
  row : Nat
  deriving DecidableEq, Repr

/-- The DRAM position of a channel-local address (R345). -/
def dramPos (l : Nat) : DramPos where
  column := l % 2 ^ 11
  bank := bitsAt l 11 2
  bankgroup := bitsAt l 13 2
  row := l / 2 ^ 15

/-- The CXL link of a far-tier address (R363). -/
def farLink (pa : Nat) : Nat := bitsAt pa 12 3

/-- The home agent of an address (R344, R345, R363, R395). -/
inductive HomeAgent where
  | gallery (g : Nat)
  | farPort (die : Nat)
  | host
  | peer (module : Nat)
  | none
  deriving DecidableEq, Repr

/-- The home agent of an address: of HBM its gallery, of the far tier the port of its link's die. -/
def homeAgent (s : State) (pa : Nat) : HomeAgent :=
  match memKind s pa with
  | .hbm => .gallery (galleryOf s pa).1
  | .far => .farPort (farLink pa / 2)
  | .host => .host
  | .peer m => .peer m
  | .unassigned => .none

/-! ### PAGE_WALK_COMPLETE (R283) -/

/-- The entries that a TLB holds at most. -/
def tlbEntries : Nat := 2048

/-- PAGE_WALK_COMPLETE: a walk that finds a mapping enters the cluster's TLB; in a full one an old entry leaves. The
accesses that waited on the walk find its result by themselves, faults included (log 7). -/
def execPageWalkComplete (cluster ctx va : Nat) (s : State) : Out :=
  match s.ctxAt ctx with
  | none => .next s
  | some c =>
    if 40 ≤ cluster ∨ (tlbHit s cluster c.id va).isSome = true then .next s
    else
      match walk s c.id va with
      | .ok _ leaf bits =>
        .next (s.modCluster cluster fun x =>
          { x with tlb := (if x.tlb.length < tlbEntries then x.tlb else x.tlb.drop 1) ++
              [{ ctx := c.id, va := va / 2 ^ bits * 2 ^ bits, bits := bits, leaf := leaf }] })
      | .noMap => .next s
      | .onDemand _ => .next s
      | .malformed => .next s
      | .poisoned _ => .next s
      | .forbidden => .next s

/-! ### Host reads (R376, R382) -/

/-- The code of a control state. -/
def ctlCode (c : CtlState) : Nat :=
  match c with
  | .running => 0
  | .stopping => 1
  | .stopped => 2
  | .ended => 3

/-- A module register as a host reads it; a reserved offset reads zero. -/
def modRead (s : State) (off : Nat) : Word :=
  if off = 0 then modId s
  else if off = 0x10 then s.modctxsts
  else if off = 0x18 then s.dbgaddr
  else if off = 0x20 then s.dbgctx
  else if off = 0x28 then BitVec.ofNat 64 (Nat.min Config.farGiB 4096)
  else if 0x100 ≤ off ∧ off < 0x160 ∧ off % 8 = 0 then (tget {} s.hbm ((off - 0x100) / 8) : Stack).ecc
  else 0

/-- A register of a context's doorbell page as a host reads it. -/
def doorbellRead (c : Context) (off : Nat) : Word :=
  if off = 0 then c.lqtail
  else if off = 8 then c.lqhead
  else if off = 0x18 then c.nqwrite
  else if off = 0x28 then c.tqwrite
  else if off = 0x30 then c.tqdrop
  else if off = 0x38 then c.late
  else if off = 0x40 then BitVec.ofNat 64 (ctlCode c.ctl)
  else if off = 0x48 then c.pdl
  else 0

/-- A host read of a BAR. -/
def hostRead (s : State) (bar off : Nat) : Word :=
  if bar = 0 then modRead s off
  else if bar = 2 then
    match s.ctxAt (off / 4096) with
    | none => 0
    | some c => doorbellRead c (off % 4096)
  else if bar = 4 then windowRead s off
  else 0

end Sys2Proof.Machine
end

