-- ==== Sys2Proof/Machine/Publish.lean ====
section
/-! DEFINITION. Version publication (R173 to R175, R370) and the events of tile lines, halls and homes: fills,
forwards, requests, write-backs, publications and raises (R136, R276 to R279, R313, R352 to R356, R415). -/

namespace Sys2Proof.Machine

/-! ### VREL (R174) -/

/-- The tiles of a range that lie in the tensor's grid, in order (R163, R174). -/
def rangeKeys (s : State) (r : Block) (x : Word) (nrow ncol : BitVec 8) : List TileKey :=
  ((tileRange x (nrow.toNat + 1) (ncol.toNat + 1)).filter fun t => inGrid r t.1 t.2.1 t.2.2).map fun t =>
    tileKey s.live.ctx r t.1 t.2.1 t.2.2

/-- Step 1 of R174: a dirty line of a tile begins to drain, and is kept. -/
def beginDrain (n : Nat) (s : State) (k : TileKey) : State :=
  modAlcove s n k fun l =>
    if l.st = .dirty ∨ l.st = .draining then { l with st := .draining, keep := true } else l

/-- A tile's line has to drain for a new publication (R370): it is dirty, or drains for none yet. -/
def drainsFor (c : Core) (k : TileKey) : Bool :=
  match lineOf c.alcove k with
  | none => false
  | some l => l.st == .dirty || (l.st == .draining && !(c.pubs.any fun p => p.key == k && !p.drained))

/-- A publication sent for a tile; the first one carries the register that its version goes to. `pre` is the core as it stood
before the drains began. -/
def addPub (pre : Core) (n : Nat) (r : Block) (s : State) (x : TileKey × Option (Kind × Nat)) : State :=
  let i := s.takeId
  i.2.modCore n fun c =>
    { c with pubs := c.pubs ++ [{ id := i.1, key := x.1, lrec := r, pa := x.2, drained := !drainsFor pre x.1 }] }

/-- The destination given to the first tile of a list. -/
def pubList (ks : List TileKey) (pa : Option (Kind × Nat)) : List (TileKey × Option (Kind × Nat)) :=
  match ks with
  | [] => []
  | k :: ks => (k, pa) :: ks.map fun k => (k, none)

/-- A register of the acting strand, which waits for data unless it is register 0. -/
def State.awaitReg (s : State) (rd : BitVec 6) : State × Option (Kind × Nat) :=
  if rd = 0 then (s, none)
  else
    let p := s.pre.physReg rd
    (s.modActing fun st => { st with pend := st.pend ++ [p] }, some (s.issue.kind, p))

/-- VREL. -/
def execVrel (g rd rp : BitVec 6) (nrow ncol : BitVec 8) (s : State) : Out :=
  guarded g s fun s => ready s [rd, rp, pairOdd rp] (memReady s (
    let h := s.rd rp
    match handleRec s.issue.pre.recs h with
    | none => faultAt s 6 0 h 0
    | some r =>
      let n := s.issue.core
      let ks := rangeKeys s r (s.rd (pairOdd rp)) nrow ncol
      let t := ks.foldl (beginDrain n) s
      if !recVersioned r || ks.isEmpty then .next (t.wr rd 0)
      else
        let u := t.awaitReg rd
        .next ((pubList ks u.2).foldl (addPub s.live n r) u.1)))

/-- A publication's drain has still to reach the hall (R354). -/
def awaitsDrain (c : Core) (p : Publication) : Bool :=
  !p.drained && c.alcove.any fun l => l.key == p.key && l.st == .draining

/-- HOME_PUBLICATION (R354): a core's publications reach their homes in the order in which they were made, each after its drain
has reached the hall. -/
def execHomePublication (core idx : Nat) (s : State) : Out :=
  match (s.core core).pubs with
  | [] => .next s
  | p :: _ => .next (if idx = 0 ∧ awaitsDrain (s.core core) p = false then performPub s core p else s)

/-! ### Alcove and hall lines -/

/-- ALCOVE_WRITEBACK (R415). -/
def execAlcoveWriteback (core idx : Nat) (s : State) : Out :=
  match (s.core core).alcove[idx]? with
  | none => .next s
  | some l => .next (if l.st = .draining then drainLine s core l l.keep else s)

/-- A fill's data in the hall line that waits for it. -/
def fillHallLine (c : Cluster) (l : TileLine) (r : TileReq) (ver : BitVec 8) (data : Line) : Cluster :=
  touchHall { c with hall := modLine c.hall l.bank l.way fun x =>
    { x with st := .clean, ver := ver, data := data, lrec := r.lrec, cls := r.cls } } l.bank l.way

/-- A request that goes on to its core, or ends when it fills the hall alone. -/
def toCore (r : TileReq) (ver : BitVec 8) (data : Line) : Option TileReq :=
  match r.core with
  | none => none
  | some _ => some { r with stage := .toCore ver data }

/-- A fill that waits for an alcove way tries again, or ends where the tile has come meanwhile (R138). -/
def retryFill (s : State) (r : TileReq) : State :=
  let t := setReq s r.id none
  match r.core with
  | none => t
  | some n =>
    if (lineOf (t.core n).alcove r.key).isSome then
      modAlcove t n r.key fun l => if r.pinBy.isSome then { l with pins := 1 } else l
    else
      startFill t n r.key r.lrec
        { minv := r.minv, cls := some r.cls, free := r.free, pin := r.pinBy.isSome, who := r.who, itin := r.itin }

/-- The line of a cache that waits for a request (R136). -/
def fillingLine (ls : List TileLine) (r : TileReq) : Option TileLine :=
  ls.find? fun l => l.key == r.key && l.st == .filling && l.fill == r.id

/-- A hall line that a fill's data must give way to: the tile's line completed otherwise, or the loss of the line that was reserved
for it (R278). -/
def fillStale (c : Cluster) (r : TileReq) : Bool :=
  r.line || c.hall.any fun l => l.key == r.key && l.st != .filling

/-- HALL_FILL (R138, R277 to R279): a request that waits for a way tries again, and a tile that arrives completes its line,
unless a write-back has completed it: then the data is discarded and the request is looked up again. -/
def execHallFill (idx : Nat) (s : State) : Out :=
  match s.reqs[idx]? with
  | none => .next s
  | some r =>
    match r.stage with
    | .hall =>
      let x := hallLookup s r
      .next (setReq x.1 r.id x.2)
    | .alcove => .next (retryFill s r)
    | .toHall ver data =>
      (match fillingLine (s.cluster r.cluster).hall r with
       | some l => .next (setReq (s.modCluster r.cluster fun c => fillHallLine c l r ver data) r.id (toCore r ver data))
       | none =>
         if fillStale (s.cluster r.cluster) r then
           let x := hallLookup s { r with stage := .hall, line := false }
           .next (setReq x.1 r.id x.2)
         else .next (setReq s r.id (toCore r ver data)))
    | _ => .next s

/-- TILE_FILL_ARRIVAL (R136): the line that waits for the request becomes clean; where a whole-line write has completed it, the
data is discarded (R203). -/
def execTileFillArrival (idx : Nat) (s : State) : Out :=
  match s.reqs[idx]? with
  | none => .next s
  | some r =>
    match r.stage with
    | .toCore ver data =>
      let t := setReq s r.id none
      (match r.core with
       | none => .next t
       | some n =>
         match fillingLine (s.core n).alcove r with
         | none => .next t
         | some l =>
           .next (t.modCore n fun c =>
             touchAlcove { c with alcove := modLine c.alcove l.bank l.way fun x =>
               { x with st := .clean, ver := ver, data := data, lrec := r.lrec } } l.bank l.way))
    | _ => .next s

/-- HALL_FORWARD (R276): the hall serves a forwarded request with the version that was the newest when the home forwarded it
(log 121), or answers that it does not hold the tile. Its credit is free again (R366), and a last use that waited for it is taken
(R163). -/
def execHallForward (idx : Nat) (s : State) : Out :=
  match s.reqs[idx]? with
  | none => .next s
  | some r =>
    match r.stage with
    | .forwarded hall nv =>
      let t := setReq s r.id (some { r with stage := match lookupLine (s.cluster hall).hall r.key r.minv with
        | some l => .toHall nv l.data
        | none => .waitClean })
      .next (rejudgeHall (retireServed t hall r.key) (homeOf r.key) hall)
    | _ => .next s

/-! ### The home -/

/-- HOME_REQUEST (R353). `full` says that the park buffer has no room. -/
def execHomeRequest (idx : Nat) (full : Bool) (s : State) : Out :=
  match s.reqs[idx]? with
  | none => .next s
  | some r =>
    match r.stage with
    | .home =>
      let x := judgeReq s r full
      .next (setReq x.1 r.id x.2)
    | .waitClean =>
      if (dirOf s r.key).hv then .next s
      else
        let x := homeServe s r (dirOf s r.key)
        .next (setReq x.1 r.id x.2)
    | _ => .next s

/-- REQUEST_RESEND (R353): no sooner than 256 cycles after the retry. -/
def execRequestResend (idx : Nat) (s : State) : Out :=
  match s.reqs[idx]? with
  | none => .next s
  | some r =>
    match r.stage with
    | .retry t => .next (if t + 256 ≤ s.now then setReq s r.id (some { r with stage := .home, since := s.now }) else s)
    | _ => .next s

/-- HOME_WRITEBACK (R354): a draining hall line is written back to its home, after a forwarded request that it serves (R278) and
after its publication. A dirty line begins to drain only for a cause (R136, R276), and the one that leaves for another is written
back in the same turn. -/
def execHomeWriteback (cl idx : Nat) (s : State) : Out :=
  match (s.cluster cl).hall[idx]? with
  | none => .next s
  | some l =>
    .next (if l.st = .draining ∧ heldLine s cl l.key = false then drainHallLine s cl l else s)

/-! ### Raises (R313) -/

/-- A line of a raised tile that fails against its required version. -/
def TileLine.failsReq (l : TileLine) (k : TileKey) (req : BitVec 8) : Bool :=
  l.key == k && l.readable && !verMeets l.ver (some req)

/-- A command that issued before a number has still to read a tile. -/
def readsTile (c : Core) (k : TileKey) (before : Nat) : Bool := c.replay.any fun p => decide (p.id < before) && p.keys.contains k

/-- An alcove line of a raised tile dealt with: drained when dirty and then dropped, once the commands that issued before the
raise have read it. -/
def raiseAlcove (k : TileKey) (req : BitVec 8) (before : Nat) (s : State) (n : Nat) : State :=
  match lineOf (s.core n).alcove k with
  | none => s
  | some l =>
    if !l.failsReq k req || readsTile (s.core n) k before then s
    else
      let t := if l.st = .clean then s else drainLine s n l true
      t.modCore n fun c => { c with alcove := dropAtWay c.alcove l.bank l.way }

/-- A hall line of a raised tile dealt with. -/
def raiseHall (s : State) (cl : Nat) (k : TileKey) (req : BitVec 8) : State :=
  match lineOf (s.cluster cl).hall k with
  | none => s
  | some l =>
    if !l.failsReq k req then s
    else
      let t := if l.st = .clean then s else homeWrite s cl l
      t.modCluster cl fun c => { c with hall := dropAtWay c.hall l.bank l.way }

/-- A tile on its way to the cluster at a version that fails is asked for again. -/
def raiseReq (now cl : Nat) (k : TileKey) (req : BitVec 8) (r : TileReq) : TileReq :=
  if r.cluster = cl ∧ r.key = k ∧ r.free = false then
    match r.stage with
    | .forwarded _ _ => { r with stage := .home, since := now }
    | .waitClean => { r with stage := .home, since := now }
    | .toHall v _ => if verMeets v (some req) then r else { r with stage := .home, since := now }
    | .toCore v _ => if verMeets v (some req) then r else { r with stage := .home, since := now }
    | .alcove => r
    | .hall => r
    | .home => r
    | .parked => r
    | .retry _ => r
  else r

/-- The cores of a cluster. -/
def clusterCores (cl : Nat) : List Nat := (List.range 16).map fun i => 16 * cl + i

/-- The lines of a raised tile in the cluster of its Landing dealt with, those excepted that commands issued before the raise
have still to read. -/
def dealRaise (s : State) (x : Raise) (before : Nat) : State :=
  let req := (dirOf s x.key).req
  raiseHall ((clusterCores x.cluster).foldl (raiseAlcove x.key req before) s) x.cluster x.key req

/-- The home takes a raise: the required version is set again, and parked requests and tiles on their way are judged by it. -/
def takeRaise (s : State) (x : Raise) : State :=
  let e := dirOf s x.key
  let req := e.nv + 1
  let t := dealRaise (setDir s { e with req := req }) x s.nextId
  let u := { t with reqs := t.reqs.map (raiseReq s.now x.cluster x.key req) }
  rejudge ((List.range 40).foldl (fun u h => retireServed u h x.key) u) x.key

/-- A line that a raise has still to deal with. -/
def raiseWaits (s : State) (x : Raise) : Bool :=
  (clusterCores x.cluster).any fun n => (s.core n).alcove.any fun l => l.failsReq x.key (dirOf s x.key).req

/-- HOME_RAISE (R313): a raise reaches its home, or deals with a line for which it waited; it is performed, and leaves, once
every line has been dealt with. -/
def execHomeRaise (idx : Nat) (s : State) : Out :=
  match s.raises[idx]? with
  | none => .next s
  | some x =>
    let t := match x.since with
      | none => takeRaise s x
      | some before => dealRaise s x before
    .next (if raiseWaits t x then
        { t with raises := t.raises.mapIdx fun i y => if i = idx then { x with since := some (x.since.getD s.nextId) } else y }
      else { t with raises := dropAt t.raises idx })

end Sys2Proof.Machine
end

