-- ==== Sys2Proof/Machine/Scalar.lean ====
section
/-! DEFINITION. Scalar integer arithmetic (R87 to R89), comparisons and predicate logic (R90, R91). -/

namespace Sys2Proof.Machine

/-! ### The operations (R88, R89) -/

/-- MULH. -/
def mulHigh (a b : Word) : Word := (BitVec.ofInt 128 (a.toInt * b.toInt)).extractLsb' 64 64

/-- The shift amount of a register shift: bits 5:0. -/
def shAmt (b : Word) : Nat := b.toNat % 64

/-- DIV: rounded towards zero; by zero it gives -1. -/
def divS (a b : Word) : Word := if b = 0 then BitVec.allOnes 64 else BitVec.ofInt 64 (a.toInt.tdiv b.toInt)

/-- REM: the sign of `a`; by zero it gives `a`. -/
def remS (a b : Word) : Word := if b = 0 then a else BitVec.ofInt 64 (a.toInt.tmod b.toInt)

/-- DIVU: by zero it gives 2^64 - 1. -/
def divU (a b : Word) : Word := if b = 0 then BitVec.allOnes 64 else BitVec.ofNat 64 (a.toNat / b.toNat)

/-- REMU: by zero it gives `a`. -/
def remU (a b : Word) : Word := if b = 0 then a else BitVec.ofNat 64 (a.toNat % b.toNat)

/-- CLZ. -/
def clz (a : Word) : Word := BitVec.ofNat 64 (if a = 0 then 64 else 63 - a.toNat.log2)

/-- POPC. -/
def popc (a : Word) : Word := BitVec.ofNat 64 ((List.range 64).countP fun i => a.getLsbD i)

/-- The width of a SEXT or ZEXT code (R87). -/
def extWidth (c : BitVec 6) : Nat := if c = 0 then 8 else if c = 1 then 16 else 32

/-- SEXT. -/
def sextOf (c : BitVec 6) (a : Word) : Word := BitVec.ofInt 64 (signedAt (extWidth c) a.toNat)

/-- ZEXT. -/
def zextOf (c : BitVec 6) (a : Word) : Word := BitVec.ofNat 64 (a.toNat % 2 ^ extWidth c)

/-- The sign-extended immediate (R30). -/
def immOf (i : BitVec 32) : Word := i.signExtend 64

/-! ### The forms (R87, R90) -/

/-- Two registers and a result. -/
def aluRR (g rd ra rb : BitVec 6) (f : Word → Word → Word) (s : State) : Out :=
  guarded g s fun s => ready s [rd, ra, rb] (.next (s.wr rd (f (s.rd ra) (s.rd rb))))

/-- One register and a result. -/
def aluR (g rd ra : BitVec 6) (f : Word → Word) (s : State) : Out :=
  guarded g s fun s => ready s [rd, ra] (.next (s.wr rd (f (s.rd ra))))

/-- Two registers and a predicate. -/
def cmpRR (g pd ra rb : BitVec 6) (f : Word → Word → Bool) (s : State) : Out :=
  guarded g s fun s => ready s [ra, rb] (.next (s.wrPred pd (f (s.rd ra) (s.rd rb))))

/-- One register and a predicate. -/
def cmpR (g pd ra : BitVec 6) (f : Word → Bool) (s : State) : Out :=
  guarded g s fun s => ready s [ra] (.next (s.wrPred pd (f (s.rd ra))))

/-- Predicates and a predicate. -/
def predOp (g pd : BitVec 6) (b : State → Bool) (s : State) : Out := guarded g s fun s => .next (s.wrPred pd (b s))

/-! ### Arithmetic and logic -/

/-- ADD. -/
def execAdd (g rd ra rb : BitVec 6) (s : State) : Out := aluRR g rd ra rb (fun a b => a + b) s

/-- SUB. -/
def execSub (g rd ra rb : BitVec 6) (s : State) : Out := aluRR g rd ra rb (fun a b => a - b) s

/-- MUL. -/
def execMul (g rd ra rb : BitVec 6) (s : State) : Out := aluRR g rd ra rb (fun a b => a * b) s

/-- MULH. -/
def execMulh (g rd ra rb : BitVec 6) (s : State) : Out := aluRR g rd ra rb (fun a b => mulHigh a b) s

/-- AND. -/
def execAnd (g rd ra rb : BitVec 6) (s : State) : Out := aluRR g rd ra rb (fun a b => a &&& b) s

/-- OR. -/
def execOr (g rd ra rb : BitVec 6) (s : State) : Out := aluRR g rd ra rb (fun a b => a ||| b) s

/-- XOR. -/
def execXor (g rd ra rb : BitVec 6) (s : State) : Out := aluRR g rd ra rb (fun a b => a ^^^ b) s

/-- ANDN. -/
def execAndn (g rd ra rb : BitVec 6) (s : State) : Out := aluRR g rd ra rb (fun a b => a &&& ~~~b) s

/-- SHL. -/
def execShl (g rd ra rb : BitVec 6) (s : State) : Out := aluRR g rd ra rb (fun a b => a <<< shAmt b) s

/-- SHR. -/
def execShr (g rd ra rb : BitVec 6) (s : State) : Out := aluRR g rd ra rb (fun a b => a >>> shAmt b) s

/-- SAR. -/
def execSar (g rd ra rb : BitVec 6) (s : State) : Out := aluRR g rd ra rb (fun a b => a.sshiftRight (shAmt b)) s

/-- ROR. -/
def execRor (g rd ra rb : BitVec 6) (s : State) : Out := aluRR g rd ra rb (fun a b => a.rotateRight (shAmt b)) s

/-- ADDI. -/
def execAddi (g rd ra : BitVec 6) (i : BitVec 32) (s : State) : Out := aluR g rd ra (fun a => a + immOf i) s

/-- ANDI. -/
def execAndi (g rd ra : BitVec 6) (i : BitVec 32) (s : State) : Out := aluR g rd ra (fun a => a &&& immOf i) s

/-- ORI. -/
def execOri (g rd ra : BitVec 6) (i : BitVec 32) (s : State) : Out := aluR g rd ra (fun a => a ||| immOf i) s

/-- XORI. -/
def execXori (g rd ra : BitVec 6) (i : BitVec 32) (s : State) : Out := aluR g rd ra (fun a => a ^^^ immOf i) s

/-- LI. -/
def execLi (g rd : BitVec 6) (i : BitVec 32) (s : State) : Out :=
  guarded g s fun s => ready s [rd] (.next (s.wr rd (immOf i)))

/-- LIH: bits 63:32 replaced, bits 31:0 unchanged. -/
def execLih (g rd : BitVec 6) (i : BitVec 32) (s : State) : Out :=
  aluR g rd rd (fun a => i ++ a.extractLsb' 0 32) s

/-- SHLI. -/
def execShli (g rd ra amt : BitVec 6) (s : State) : Out := aluR g rd ra (fun a => a <<< amt.toNat) s

/-- SHRI. -/
def execShri (g rd ra amt : BitVec 6) (s : State) : Out := aluR g rd ra (fun a => a >>> amt.toNat) s

/-- SARI. -/
def execSari (g rd ra amt : BitVec 6) (s : State) : Out := aluR g rd ra (fun a => a.sshiftRight amt.toNat) s

/-- RORI. -/
def execRori (g rd ra amt : BitVec 6) (s : State) : Out := aluR g rd ra (fun a => a.rotateRight amt.toNat) s

/-- MIN. -/
def execMin (g rd ra rb : BitVec 6) (s : State) : Out := aluRR g rd ra rb (fun a b => if a.toInt ≤ b.toInt then a else b) s

/-- MAX. -/
def execMax (g rd ra rb : BitVec 6) (s : State) : Out := aluRR g rd ra rb (fun a b => if a.toInt ≤ b.toInt then b else a) s

/-- MINU. -/
def execMinu (g rd ra rb : BitVec 6) (s : State) : Out := aluRR g rd ra rb (fun a b => if a ≤ b then a else b) s

/-- MAXU. -/
def execMaxu (g rd ra rb : BitVec 6) (s : State) : Out := aluRR g rd ra rb (fun a b => if a ≤ b then b else a) s

/-- DIV. -/
def execDiv (g rd ra rb : BitVec 6) (s : State) : Out := aluRR g rd ra rb (fun a b => divS a b) s

/-- DIVU. -/
def execDivu (g rd ra rb : BitVec 6) (s : State) : Out := aluRR g rd ra rb (fun a b => divU a b) s

/-- REM. -/
def execRem (g rd ra rb : BitVec 6) (s : State) : Out := aluRR g rd ra rb (fun a b => remS a b) s

/-- REMU. -/
def execRemu (g rd ra rb : BitVec 6) (s : State) : Out := aluRR g rd ra rb (fun a b => remU a b) s

/-- LEA.1. -/
def execLea1 (g rd ra rb : BitVec 6) (s : State) : Out := aluRR g rd ra rb (fun a b => a + b) s

/-- LEA.2. -/
def execLea2 (g rd ra rb : BitVec 6) (s : State) : Out := aluRR g rd ra rb (fun a b => a + b * 2) s

/-- LEA.4. -/
def execLea4 (g rd ra rb : BitVec 6) (s : State) : Out := aluRR g rd ra rb (fun a b => a + b * 4) s

/-- LEA.8. -/
def execLea8 (g rd ra rb : BitVec 6) (s : State) : Out := aluRR g rd ra rb (fun a b => a + b * 8) s

/-- SEXT. -/
def execSext (g rd ra width : BitVec 6) (s : State) : Out := aluR g rd ra (sextOf width) s

/-- ZEXT. -/
def execZext (g rd ra width : BitVec 6) (s : State) : Out := aluR g rd ra (zextOf width) s

/-- CLZ. -/
def execClz (g rd ra : BitVec 6) (s : State) : Out := aluR g rd ra clz s

/-- POPC. -/
def execPopc (g rd ra : BitVec 6) (s : State) : Out := aluR g rd ra popc s

/-! ### Comparisons (R91) -/

/-- CMPEQ. -/
def execCmpeq (g pd ra rb : BitVec 6) (s : State) : Out := cmpRR g pd ra rb (fun a b => a == b) s

/-- CMPNE. -/
def execCmpne (g pd ra rb : BitVec 6) (s : State) : Out := cmpRR g pd ra rb (fun a b => a != b) s

/-- CMPLT. -/
def execCmplt (g pd ra rb : BitVec 6) (s : State) : Out := cmpRR g pd ra rb (fun a b => decide (a.toInt < b.toInt)) s

/-- CMPLTU. -/
def execCmpltu (g pd ra rb : BitVec 6) (s : State) : Out := cmpRR g pd ra rb (fun a b => decide (a < b)) s

/-- CMPGE. -/
def execCmpge (g pd ra rb : BitVec 6) (s : State) : Out := cmpRR g pd ra rb (fun a b => decide (b.toInt ≤ a.toInt)) s

/-- CMPGEU. -/
def execCmpgeu (g pd ra rb : BitVec 6) (s : State) : Out := cmpRR g pd ra rb (fun a b => decide (b ≤ a)) s

/-- TST. -/
def execTst (g pd ra rb : BitVec 6) (s : State) : Out := cmpRR g pd ra rb (fun a b => a &&& b != 0) s

/-- CMPEQI. -/
def execCmpeqi (g pd ra : BitVec 6) (i : BitVec 32) (s : State) : Out := cmpR g pd ra (fun a => a == immOf i) s

/-- CMPLTI. -/
def execCmplti (g pd ra : BitVec 6) (i : BitVec 32) (s : State) : Out := cmpR g pd ra (fun a => decide (a.toInt < (immOf i).toInt)) s

/-- CMPLTUI. -/
def execCmpltui (g pd ra : BitVec 6) (i : BitVec 32) (s : State) : Out := cmpR g pd ra (fun a => decide (a < immOf i)) s

/-- CMPGEI. -/
def execCmpgei (g pd ra : BitVec 6) (i : BitVec 32) (s : State) : Out := cmpR g pd ra (fun a => decide ((immOf i).toInt ≤ a.toInt)) s

/-! ### Predicate logic (R91) -/

/-- PAND. -/
def execPand (g pd pa pb : BitVec 6) (s : State) : Out := predOp g pd (fun s => s.rdPred pa && s.rdPred pb) s

/-- POR. -/
def execPor (g pd pa pb : BitVec 6) (s : State) : Out := predOp g pd (fun s => s.rdPred pa || s.rdPred pb) s

/-- PXOR. -/
def execPxor (g pd pa pb : BitVec 6) (s : State) : Out := predOp g pd (fun s => s.rdPred pa ^^ s.rdPred pb) s

/-- PANDN. -/
def execPandn (g pd pa pb : BitVec 6) (s : State) : Out := predOp g pd (fun s => s.rdPred pa && !s.rdPred pb) s

/-- PNOT. -/
def execPnot (g pd pa : BitVec 6) (s : State) : Out := predOp g pd (fun s => !s.rdPred pa) s

/-- PSET. -/
def execPset (g pd : BitVec 6) (s : State) : Out := predOp g pd (fun _ => true) s

/-- PCLR. -/
def execPclr (g pd : BitVec 6) (s : State) : Out := predOp g pd (fun _ => false) s

/-- PMOV. -/
def execPmov (g pd pa : BitVec 6) (s : State) : Out := predOp g pd (fun s => s.rdPred pa) s

end Sys2Proof.Machine
end

