-- ==== Sys2Proof/Machine/Sync.lean ====
section
/-! DEFINITION. Queue moves (R92 to R96), flags (R97 to R101), fences and instruction-cache synchronisation (R104 to
R110). -/

namespace Sys2Proof.Machine

/-! ### Queue moves (R93) -/

/-- The lanes that a push of the acting strand names. -/
def pushKeys (s : State) (cmask : BitVec 4) (lane : BitVec 2) : List Nat :=
  (maskKinds cmask).map fun c => laneKey s.issue.kind.code c lane.toNat

/-- The lane that a pop of the acting strand names. -/
def popKey (s : State) (prod lane : BitVec 2) : Nat := laneKey prod.toNat s.issue.kind.code lane.toNat

/-- Every lane of a list has room for one entry (R112). -/
def roomFor (s : State) (ks : List Nat) : Bool := ks.all fun k => laneRoom s.issue.pre s.live s.now k

/-- QMOV, push. -/
def execQmovPush (g : BitVec 6) (cmask : BitVec 4) (lane : BitVec 2) (ra : BitVec 6) (s : State) : Out :=
  guarded g s fun s => ready s [ra] (
    let ks := pushKeys s cmask lane
    if roomFor s ks then .next (s.modLive fun c => ks.foldl (fun c k => c.pushLane s.now k (s.rd ra)) c)
    else hold s)

/-- The cycle in which the head of a lane was pushed. -/
def headBorn (c : Core) (key : Nat) : Nat := ((c.lane key).map fun e => e.born).headD 0

/-- The parked commands that strand `k` has observed by popping an entry that the M strand pushed in cycle `born` (R106). -/
def Core.observed (c : Core) (k : Kind) (prod : BitVec 2) (born : Nat) : Core :=
  if prod = 2 then
    { c with replay := c.replay.map fun p => if p.since < born then { p with seenBy := p.seenBy ||| (1#4 <<< k.code) } else p }
  else c

/-- QMOV, pop. -/
def execQmovPop (g rd : BitVec 6) (prod lane : BitVec 2) (s : State) : Out :=
  guarded g s fun s => ready s [rd] (
    let k := popKey s prod lane
    match laneHead s.live s.now k with
    | none => hold s
    | some x => .next ((s.modLive fun c => (c.observed s.issue.kind prod (headBorn c k)).setLane k ((c.lane k).drop 1)).wr rd x))

/-- QPEEK: the head as it stood before the bundle. -/
def execQpeek (g rd : BitVec 6) (prod lane : BitVec 2) (s : State) : Out :=
  guarded g s fun s => ready s [rd] (
    match laneHead s.issue.pre s.now (popKey s prod lane) with
    | none => hold s
    | some x => .next (s.wr rd x))

/-! ### Flags (R99 to R101) -/

/-- A flag operation: the release, the operation, the acquire. -/
def flagOp (s : State) (scope : BitVec 3) (ord : BitVec 2) (f : State → State) : Out :=
  releasing s (ordRelease ord) (
    let n := s.issue.core
    let s1 := if ordRelease ord then releaseAt s n s.issue.kind scope.toNat else s
    let s2 := f s1
    .next (if ordAcquire ord then acquireAt s2 n scope.toNat else s2))

/-- A flag of the acting core changed. -/
def State.modFlag (s : State) (fl : BitVec 6) (f : Word32 → Word32) : State :=
  s.modLive fun c => c.setFlag fl.toNat (f (c.flag fl.toNat))

/-- FINC. -/
def execFinc (g fl : BitVec 6) (scope : BitVec 3) (ord : BitVec 2) (s : State) : Out :=
  guarded g s fun s => flagOp s scope ord fun s => s.modFlag fl fun x => x + 1

/-- FSET. -/
def execFset (g fl ra : BitVec 6) (scope : BitVec 3) (ord : BitVec 2) (s : State) : Out :=
  guarded g s fun s => ready s [ra] (flagOp s scope ord fun s => s.modFlag fl fun _ => (s.rd ra).extractLsb' 0 32)

/-- FADD. -/
def execFadd (g fl ra : BitVec 6) (scope : BitVec 3) (ord : BitVec 2) (s : State) : Out :=
  guarded g s fun s => ready s [ra] (flagOp s scope ord fun s => s.modFlag fl fun x => x + (s.rd ra).extractLsb' 0 32)

/-- FRD: the value before every update of the cycle (R100). -/
def execFrd (g rd fl : BitVec 6) (scope : BitVec 3) (ord : BitVec 2) (s : State) : Out :=
  guarded g s fun s => ready s [rd] (flagOp s scope ord fun s => s.wr rd ((s.issue.pre.flag fl.toNat).zeroExtend 64))

/-! ### Fences (R105, R106) -/

/-- A path of a mask (R104): 0 S, 1 T, 2 B, 3 E, 4 F. -/
def onPath (m : BitVec 5) (p : Nat) : Bool := m.getLsbD p

/-- A fence waits: the A strand's commands on a masked path, the M strand's parked commands for T. -/
def fenceWaits (s : State) (m : BitVec 5) : Bool :=
  (s.issue.kind == .a && [2, 3, 4].any fun p => onPath m p && cmdsOn s s.issue.core p) ||
  (s.issue.kind == .m && onPath m 1 && !s.issue.pre.replay.isEmpty)

/-- A FENCEX waits besides for the M strand's parked commands that its strand has observed through a queue (R106). -/
def fencexWaits (s : State) (m : BitVec 5) : Bool :=
  fenceWaits s m || (onPath m 1 && s.issue.pre.replay.any fun p => p.seenBy.getLsbD s.issue.kind.code && !p.dead)

/-- A strand's accesses on path S performed at a scope (R105, R149). -/
def pathSAt (s : State) (n : Nat) (k : Kind) (scope : Nat) : State :=
  let s1 := finishLoads s n k
  if scope < 2 then s1.modCore n fun c => coreStores c k else flushStores s1 n fun t => t.strand == k

/-- The scalar data cache emptied (R149). -/
def emptyScache (s : State) (n : Nat) : State := s.modCore n fun c => { c with scache := [] }

/-- The core's writes on path T performed for a reader (R106, R253): drained to the hall, and to the home for a scope
beyond the cluster or a reader on path S. -/
def crossTiles (s : State) (n : Nat) (scope : Nat) (toS : Bool) : State :=
  let s1 := performPubs s n
  if scope < 2 && !toS then s1
  else
    let s2 := drainAlcove s1 n fun _ => true
    if scope = 2 && !toS then s2 else drainHall s2 (coreCluster n) fun l => l.key.ctx == (s.core n).ctx

/-- Stale clean lines dropped for the readers of tiles within a scope, and their fills asked for again (R106, R253). -/
def dropStale (s : State) (n scope : Nat) : State :=
  (scopeClusters n scope).foldl (fun t cl => if t.clusters.any fun x => x.1 == cl then dropHallTiles t cl else t)
    (dropCoreTiles s n)

/-- What a FENCE over several paths does besides for its own strand's reads (R253): its stores and tiles reach memory, and
the stale lines of its core and hall leave. -/
def fenceOwn (s : State) (n : Nat) (k : Kind) (m : BitVec 5) (scope : Nat) : State :=
  let s1 := if onPath m 0 then flushStores s n fun t => t.strand == k else s
  let s2 := if onPath m 1 then crossTiles s1 n scope (onPath m 0 || onPath m 3 || onPath m 4) else s1
  dropStale (s2.ownPaths n k m) n 2

/-- What FENCE does once nothing holds it. -/
def fenceEffect (s : State) (n : Nat) (k : Kind) (m : BitVec 5) (scope : Nat) : State :=
  let s1 := if onPath m 0 then emptyScache (pathSAt s n k scope) n else s
  let s2 := if onPath m 1 then tilesAt s1 n k scope else s1
  if m = 1 ∨ m = 2 ∨ m = 4 ∨ m = 8 ∨ m = 16 then s2 else fenceOwn s2 n k m scope

/-- FENCE. -/
def execFence (g : BitVec 6) (paths : BitVec 5) (scope : BitVec 3) (s : State) : Out :=
  guarded g s fun s =>
    if fenceWaits s paths then hold s
    else .next (fenceEffect s s.issue.core s.issue.kind paths scope.toNat)

/-- What FENCEX does once nothing holds it. The loads of both scalar strands are performed, since one that the strand has
observed through a queue is covered (R106). -/
def fencexEffect (s : State) (n : Nat) (k : Kind) (x y : BitVec 5) (scope : Nat) : State :=
  let s1 :=
    if onPath x 0 then
      let t := finishLoads (finishLoads s n k) n (if k = .a then .c else .a)
      if scope < 2 then t.modCore n fun c => coreStores (coreStores c .a) .c else flushStores t n fun _ => true
    else s
  let s2 := if onPath x 0 && y != 1 then flushStores s1 n fun _ => true else s1
  let s3 := if onPath x 1 then crossTiles s2 n scope (onPath y 0) else s2
  let s4 := if onPath y 0 && (decide (2 ≤ scope) || onPath x 1) then emptyScache s3 n else s3
  let s5 := if y != 1 && x != 2 then dropStale s4 n scope else s4
  s5.cross (fenceCovers n x) n scope y

/-- FENCEX. -/
def execFencex (g : BitVec 6) (frm dst : BitVec 5) (scope : BitVec 3) (s : State) : Out :=
  guarded g s fun s =>
    if fencexWaits s frm then hold s
    else .next (fencexEffect s s.issue.core s.issue.kind frm dst scope.toNat)

/-! ### ICSYNC (R109) -/

/-- A core within a scope of another. -/
def coreInScope (n scope m : Nat) : Bool :=
  if scope ≤ 1 then m == n
  else if scope = 2 then coreCluster m == coreCluster n
  else if scope = 3 then coreDie m == coreDie n
  else true

/-- A core whose strands hold no cached instruction. -/
def dropCode (c : Core) : Core :=
  { c with a := { c.a with icache := [] }, c := { c.c with icache := [] }, m := { c.m with icache := [] },
           v := { c.v with icache := [] } }

/-- The instruction caches within a scope discarded. -/
def icsyncAt (s : State) (n : Nat) (k : Kind) (scope : Nat) : State :=
  if scope = 0 then s.modStrand n k fun st => { st with icache := [] }
  else { s with cores := s.cores.map fun x => if coreInScope n scope x.1 then (x.1, dropCode x.2) else x }

/-- The copies' writes that an ICSYNC of a strand brings to fetch (R109, R258): its own commands', and those that a release has
passed whose scope holds its core. -/
def icsyncCovers (s : State) (n : Nat) (k : Kind) (w : OldWrite) : Bool :=
  w.path == 2 && ((w.core == n && w.task == (s.core n).task && w.kind == k) || w.rels.any fun r => inScope r.1 r.2 n)

/-- ICSYNC: the strand's stores first, then the crossing of the covered copies to fetch and the discard. -/
def execIcsync (g : BitVec 6) (scope : BitVec 3) (s : State) : Out :=
  guarded g s fun s =>
    if fenceWaits s 5 then hold s
    else
      let s1 := fenceEffect s s.issue.core s.issue.kind 5 scope.toNat
      let s2 := flushStores s1 s.issue.core fun t => t.strand == s.issue.kind || t.atCore
      .next (icsyncAt (s2.cross (icsyncCovers s2 s.issue.core s.issue.kind) s.issue.core scope.toNat 1) s.issue.core s.issue.kind
        scope.toNat)

end Sys2Proof.Machine
end

