-- ==== Sys2Proof/Machine/VecData.lean ====
section
/-! DEFINITION. The reductions, moves, scalar exchange, random numbers, distances, length masks and lane indices of the
V strand (R224, R226 to R230). -/

namespace Sys2Proof.Machine

/-! ### Reductions (R224) -/

/-- A reduction: lane `lane` of `vd` from every lane of `va`, a broadcast `va` having the lanes of a row (log 15). -/
def vecReduce (s : State) (w : VecWord) (f : List Nat → Nat × BitVec 7) : Out :=
  let y := f ((List.range (lanesOf w.etype w.va)).map (srcLane s w w.va))
  let x := laneWrite (etWidth w.etype) w.vd (redLane w) y.1
  vecIssue s (opRegs w.va) (readSpans w.etype w.va) [(x.row, x.bit, x.width)] [x] y.2 none

/-- VRSUM. -/
def execVrsum (g : BitVec 6) (w : VecWord) (s : State) : Out :=
  guarded g s fun s => vecReduce s w fun xs => laneRound w (sumNum (isRdn w) (xs.map (laneVal w)))

/-- The maximum of values by R52; NaN for none and for NaN alone. -/
def maxOf (xs : List Num) : Num := xs.foldl Num.max .nan

/-- VRMAX. -/
def execVrmax (g : BitVec 6) (w : VecWord) (s : State) : Out :=
  guarded g s fun s => vecReduce s w fun xs => laneExact w (maxOf (xs.map (laneVal w)))

/-- VRMIN. -/
def execVrmin (g : BitVec 6) (w : VecWord) (s : State) : Out :=
  guarded g s fun s => vecReduce s w fun xs => laneExact w ((xs.map (laneVal w)).foldl Num.min .nan)

/-- VRARGMAX. -/
def execVrargmax (g : BitVec 6) (w : VecWord) (s : State) : Out :=
  guarded g s fun s => vecReduce s w fun xs =>
    let vs := xs.map (laneVal w)
    let m := maxOf vs
    ((vs.findIdx? fun v => !v.isNaN && !v.below m).getD 0, 0)

/-! ### Moves (R226) -/

/-- VMOV. -/
def execVmov (g : BitVec 6) (w : VecWord) (s : State) : Out :=
  guarded g s fun s => vecLanes s w [w.va] fun a _ _ => (a, 0)

/-- An instruction whose lane `j` takes the lane of `va` that `f` names. -/
def vecPick (s : State) (w : VecWord) (reads : List (BitVec 11)) (f : Nat → Nat) : Out :=
  let ys := (List.range (dstLanes w)).map fun j => srcLane s w w.va (f j)
  vecIssue s (reads.flatMap opRegs) (reads.flatMap (readSpans w.etype)) (allSpans w.etype w.vd)
    (ys.mapIdx fun j y => laneWrite (etWidth w.etype) w.vd j y) 0 none

/-- VPERM. -/
def execVperm (g : BitVec 6) (w : VecWord) (s : State) : Out :=
  guarded g s fun s => vecPick s w [w.va, w.vb] fun j => srcLane s w w.vb j % dstLanes w

/-- VROT. -/
def execVrot (g : BitVec 6) (w : VecWord) (s : State) : Out :=
  guarded g s fun s => vecPick s w [w.va] fun j => (j + (w.xfn.extractLsb' 0 8).toNat) % dstLanes w

/-! ### Scalar exchange (R227) -/

/-- VMOVS. -/
def execVmovs (g : BitVec 6) (w : VecWord) (s : State) : Out :=
  guarded g s fun s =>
    let n := etWidth w.etype
    let x := srcLane s w w.va ((s.rd (vIdx w.vb)).toNat % lanesOf w.etype w.va)
    let y : Word := if w.xfn.getLsbD 6 then BitVec.ofInt 64 (signedAt n x) else BitVec.ofNat 64 x
    let sd : BitVec 6 := w.xfn.extractLsb' 0 6
    vecIssue s (opRegs w.va ++ [vIdx w.vb, sd]) (readSpans w.etype w.va) [] [] 0 (some (sd, y))

/-- VINS. -/
def execVins (g : BitVec 6) (w : VecWord) (s : State) : Out :=
  guarded g s fun s =>
    let n := etWidth w.etype
    let x := laneWrite n w.vd ((s.rd (vIdx w.vb)).toNat % dstLanes w) ((s.rd (vIdx w.va)).toNat % 2 ^ n)
    vecIssue s [vIdx w.va, vIdx w.vb] [] [(x.row, x.bit, x.width)] [x] 0 none

/-! ### Random numbers (R228) -/

/-- One round of Philox 4×32 on a counter with its keys. -/
def philoxRound (k0 k1 : Nat) (c : Nat × Nat × Nat × Nat) : Nat × Nat × Nat × Nat :=
  let p := 0xD2511F53 * c.1
  let q := 0xCD9E8D57 * c.2.2.1
  (Nat.xor (Nat.xor (q / 2 ^ 32) c.2.1) k0, q % 2 ^ 32, Nat.xor (Nat.xor (p / 2 ^ 32) c.2.2.2) k1, p % 2 ^ 32)

/-- The ten rounds of R228. -/
def philox (k0 k1 n strm : Nat) : List Nat :=
  let c := (List.range 10).foldl
    (fun c i => philoxRound ((k0 + i * 0x9E3779B9) % 2 ^ 32) ((k1 + i * 0xBB67AE85) % 2 ^ 32) c)
    (bitsAt n 0 32, bitsAt n 32 32, bitsAt n 64 32, strm)
  [c.1, c.2.1, c.2.2.1, c.2.2.2]

/-- VRNG. -/
def execVrng (g : BitVec 6) (w : VecWord) (s : State) : Out :=
  guarded g s fun s =>
    let cb : BitVec 6 := w.xfn.extractLsb' 0 6
    let k0 := (s.rd (vIdx w.va)).toNat % 2 ^ 32
    let k1 := (s.rd (vIdx w.vb)).toNat % 2 ^ 32
    vecIssue s [vIdx w.va, vIdx w.vb, cb] [] (rngSpans w)
      ((List.range 64).flatMap fun j =>
        (philox k0 k1 ((s.rd cb).toNat * 64 + j) (w.xfn.extractLsb' 6 4).toNat).mapIdx fun i y =>
          laneWrite 32 (w.vd + BitVec.ofNat 11 i) j y)
      0 none

/-! ### Distances (R229) -/

/-- Element `i` of row `r` of a plane in the operand format. -/
def distElem (s : State) (w : VecWord) (f : BitVec 11) (r i : Nat) : Nat :=
  let n := etWidth (distOf w)
  accBits s.live.acc ((vIdx f).toNat + r) (2048 * (vPlane f).toNat + n * i) n

/-- The spans that a VDIST reads: the query and the candidates. -/
def distReads (w : VecWord) : List (Nat × Nat × Nat) :=
  ((vIdx w.va).toNat, 2048 * (vPlane w.va).toNat, 2048) ::
  (List.range (distN w)).map fun t => ((vIdx w.vb).toNat + t, 2048 * (vPlane w.vb).toNat, 2048)

/-- A VDIST: `f` gives the term of two elements' values with its sticky bits, and the sum is rounded once. -/
def vecDist (s : State) (w : VecWord) (f : Num → Num → Num × BitVec 7) : Out :=
  let val := fun x => (valOf (viewFmt (distOf w)) x).1
  let ys := (List.range (distN w)).map fun t =>
    let ts := (List.range (2048 / etWidth (distOf w))).map fun i =>
      f (val (distElem s w w.va 0 i)) (val (distElem s w w.vb t i))
    let x := sumNum (isRdn w) (ts.map fun y => y.1)
    laneRound w (x.1, ts.foldl (fun a y => a ||| y.2) x.2)
  vecIssue s [] (distReads w) (spansOf 32 w.vd (distN w)) (ys.mapIdx fun j y => laneWrite 32 w.vd j y.1) (allSticky ys) none

/-- VDIST.IP. -/
def execVdistIp (g : BitVec 6) (w : VecWord) (s : State) : Out := guarded g s fun s => vecDist s w Num.mul

/-- The square of an exact difference (R229). -/
def sqDiff (a c : Num) : Num × BitVec 7 :=
  let d := sumNum false [a, c.neg]
  let q := d.1.mul d.1
  (q.1, d.2 ||| q.2)

/-- VDIST.L2. -/
def execVdistL2 (g : BitVec 6) (w : VecWord) (s : State) : Out := guarded g s fun s => vecDist s w sqDiff

/-- The number of ones among the low bits of a number. -/
def onesIn (n x : Nat) : Nat := ((List.range n).filter fun i => x.testBit i).length

/-- VDIST.HAM. -/
def execVdistHam (g : BitVec 6) (w : VecWord) (s : State) : Out :=
  guarded g s fun s =>
    let ys := (List.range (distN w)).map fun t =>
      ((List.range 256).map fun i => onesIn 8 (Nat.xor (distElem s w w.va 0 i) (distElem s w w.vb t i))).sum
    vecIssue s [] (distReads w) (spansOf 32 w.vd (distN w)) (ys.mapIdx fun j y => laneWrite 32 w.vd j y) 0 none

/-! ### Length masks and lane indices (R230) -/

/-- An instruction whose lanes come from scalar registers and the lane number. -/
def vecIndex (s : State) (w : VecWord) (regs : List (BitVec 6)) (f : Nat → Nat × BitVec 7) : Out :=
  let ys := (List.range (dstLanes w)).map f
  vecIssue s regs [] (allSpans w.etype w.vd) (ys.mapIdx fun j y => laneWrite (etWidth w.etype) w.vd j y.1) (allSticky ys) none

/-- VLMASK. -/
def execVlmask (g : BitVec 6) (w : VecWord) (s : State) : Out :=
  guarded g s fun s => vecIndex s w [vIdx w.va, vIdx w.vb] fun j =>
    laneMask w (decide ((s.rd (vIdx w.vb)).toNat + j < (s.rd (vIdx w.va)).toNat))

/-- VIOTA. -/
def execViota (g : BitVec 6) (w : VecWord) (s : State) : Out :=
  guarded g s fun s => vecIndex s w [vIdx w.va] fun j => laneRound w (ofInt ((s.rd (vIdx w.va)).toInt + j), 0)

end Sys2Proof.Machine
end

