-- ==== Sys2Proof/Machine/Dispatch.lean ====
section
/-! DEFINITION. What each instruction and event does: one arm per constructor, one meaning per arm. -/

namespace Sys2Proof.Machine

def exec (i : Instr) (s : State) : Host.Outcome State Fault Refusal :=
  match i with
  | .nop g => Sys2Proof.Machine.execNop g s
  | .halt g => Sys2Proof.Machine.execHalt g s
  | .brk g code => Sys2Proof.Machine.execBrk g code s
  | .trap g code => Sys2Proof.Machine.execTrap g code s
  | .eret g => Sys2Proof.Machine.execEret g s
  | .icsync g scope => Sys2Proof.Machine.execIcsync g scope s
  | .fence g paths scope => Sys2Proof.Machine.execFence g paths scope s
  | .br g off => Sys2Proof.Machine.execBr g off s
  | .call g rd off => Sys2Proof.Machine.execCall g rd off s
  | .jr g ra => Sys2Proof.Machine.execJr g ra s
  | .callr g rd ra => Sys2Proof.Machine.execCallr g rd ra s
  | .ret g ra => Sys2Proof.Machine.execRet g ra s
  | .loop g ra blen => Sys2Proof.Machine.execLoop g ra blen s
  | .loopi g n blen => Sys2Proof.Machine.execLoopi g n blen s
  | .loopp g ra stg blen => Sys2Proof.Machine.execLoopp g ra stg blen s
  | .looppi g n stg blen => Sys2Proof.Machine.execLooppi g n stg blen s
  | .add g rd ra rb => Sys2Proof.Machine.execAdd g rd ra rb s
  | .sub g rd ra rb => Sys2Proof.Machine.execSub g rd ra rb s
  | .mul g rd ra rb => Sys2Proof.Machine.execMul g rd ra rb s
  | .mulh g rd ra rb => Sys2Proof.Machine.execMulh g rd ra rb s
  | .and g rd ra rb => Sys2Proof.Machine.execAnd g rd ra rb s
  | .or g rd ra rb => Sys2Proof.Machine.execOr g rd ra rb s
  | .xor g rd ra rb => Sys2Proof.Machine.execXor g rd ra rb s
  | .andn g rd ra rb => Sys2Proof.Machine.execAndn g rd ra rb s
  | .shl g rd ra rb => Sys2Proof.Machine.execShl g rd ra rb s
  | .shr g rd ra rb => Sys2Proof.Machine.execShr g rd ra rb s
  | .sar g rd ra rb => Sys2Proof.Machine.execSar g rd ra rb s
  | .ror g rd ra rb => Sys2Proof.Machine.execRor g rd ra rb s
  | .addi g rd ra imm => Sys2Proof.Machine.execAddi g rd ra imm s
  | .andi g rd ra imm => Sys2Proof.Machine.execAndi g rd ra imm s
  | .ori g rd ra imm => Sys2Proof.Machine.execOri g rd ra imm s
  | .xori g rd ra imm => Sys2Proof.Machine.execXori g rd ra imm s
  | .li g rd imm => Sys2Proof.Machine.execLi g rd imm s
  | .lih g rd imm => Sys2Proof.Machine.execLih g rd imm s
  | .shli g rd ra amt => Sys2Proof.Machine.execShli g rd ra amt s
  | .shri g rd ra amt => Sys2Proof.Machine.execShri g rd ra amt s
  | .sari g rd ra amt => Sys2Proof.Machine.execSari g rd ra amt s
  | .rori g rd ra amt => Sys2Proof.Machine.execRori g rd ra amt s
  | .min g rd ra rb => Sys2Proof.Machine.execMin g rd ra rb s
  | .max g rd ra rb => Sys2Proof.Machine.execMax g rd ra rb s
  | .minu g rd ra rb => Sys2Proof.Machine.execMinu g rd ra rb s
  | .maxu g rd ra rb => Sys2Proof.Machine.execMaxu g rd ra rb s
  | .div g rd ra rb => Sys2Proof.Machine.execDiv g rd ra rb s
  | .divu g rd ra rb => Sys2Proof.Machine.execDivu g rd ra rb s
  | .rem g rd ra rb => Sys2Proof.Machine.execRem g rd ra rb s
  | .remu g rd ra rb => Sys2Proof.Machine.execRemu g rd ra rb s
  | .lea1 g rd ra rb => Sys2Proof.Machine.execLea1 g rd ra rb s
  | .lea2 g rd ra rb => Sys2Proof.Machine.execLea2 g rd ra rb s
  | .lea4 g rd ra rb => Sys2Proof.Machine.execLea4 g rd ra rb s
  | .lea8 g rd ra rb => Sys2Proof.Machine.execLea8 g rd ra rb s
  | .cmpeq g pd ra rb => Sys2Proof.Machine.execCmpeq g pd ra rb s
  | .cmpne g pd ra rb => Sys2Proof.Machine.execCmpne g pd ra rb s
  | .cmplt g pd ra rb => Sys2Proof.Machine.execCmplt g pd ra rb s
  | .cmpltu g pd ra rb => Sys2Proof.Machine.execCmpltu g pd ra rb s
  | .cmpge g pd ra rb => Sys2Proof.Machine.execCmpge g pd ra rb s
  | .cmpgeu g pd ra rb => Sys2Proof.Machine.execCmpgeu g pd ra rb s
  | .tst g pd ra rb => Sys2Proof.Machine.execTst g pd ra rb s
  | .cmpeqi g pd ra imm => Sys2Proof.Machine.execCmpeqi g pd ra imm s
  | .cmplti g pd ra imm => Sys2Proof.Machine.execCmplti g pd ra imm s
  | .cmpltui g pd ra imm => Sys2Proof.Machine.execCmpltui g pd ra imm s
  | .cmpgei g pd ra imm => Sys2Proof.Machine.execCmpgei g pd ra imm s
  | .pand g pd pa pb => Sys2Proof.Machine.execPand g pd pa pb s
  | .por g pd pa pb => Sys2Proof.Machine.execPor g pd pa pb s
  | .pxor g pd pa pb => Sys2Proof.Machine.execPxor g pd pa pb s
  | .pandn g pd pa pb => Sys2Proof.Machine.execPandn g pd pa pb s
  | .pnot g pd pa => Sys2Proof.Machine.execPnot g pd pa s
  | .pset g pd => Sys2Proof.Machine.execPset g pd s
  | .pclr g pd => Sys2Proof.Machine.execPclr g pd s
  | .pmov g pd pa => Sys2Proof.Machine.execPmov g pd pa s
  | .qmovPush g cmask lane ra => Sys2Proof.Machine.execQmovPush g cmask lane ra s
  | .qmovPop g rd prod lane => Sys2Proof.Machine.execQmovPop g rd prod lane s
  | .qpeek g rd prod lane => Sys2Proof.Machine.execQpeek g rd prod lane s
  | .finc g fl scope ord => Sys2Proof.Machine.execFinc g fl scope ord s
  | .fset g fl ra scope ord => Sys2Proof.Machine.execFset g fl ra scope ord s
  | .fadd g fl ra scope ord => Sys2Proof.Machine.execFadd g fl ra scope ord s
  | .frd g rd fl scope ord => Sys2Proof.Machine.execFrd g rd fl scope ord s
  | .csrr g rd csr => Sys2Proof.Machine.execCsrr g rd csr s
  | .csrw g csr rs => Sys2Proof.Machine.execCsrw g csr rs s
  | .csrs g csr rs => Sys2Proof.Machine.execCsrs g csr rs s
  | .csrc g csr rs => Sys2Proof.Machine.execCsrc g csr rs s
  | .sext g rd ra width => Sys2Proof.Machine.execSext g rd ra width s
  | .zext g rd ra width => Sys2Proof.Machine.execZext g rd ra width s
  | .clz g rd ra => Sys2Proof.Machine.execClz g rd ra s
  | .popc g rd ra => Sys2Proof.Machine.execPopc g rd ra s
  | .ld8 g rd ra off => Sys2Proof.Machine.execLd8 g rd ra off s
  | .ld16 g rd ra off => Sys2Proof.Machine.execLd16 g rd ra off s
  | .ld32 g rd ra off => Sys2Proof.Machine.execLd32 g rd ra off s
  | .ld64 g rd ra off => Sys2Proof.Machine.execLd64 g rd ra off s
  | .ldz8 g rd ra off => Sys2Proof.Machine.execLdz8 g rd ra off s
  | .ldz16 g rd ra off => Sys2Proof.Machine.execLdz16 g rd ra off s
  | .ldz32 g rd ra off => Sys2Proof.Machine.execLdz32 g rd ra off s
  | .st8 g ra rs off => Sys2Proof.Machine.execSt8 g ra rs off s
  | .st16 g ra rs off => Sys2Proof.Machine.execSt16 g ra rs off s
  | .st32 g ra rs off => Sys2Proof.Machine.execSt32 g ra rs off s
  | .st64 g ra rs off => Sys2Proof.Machine.execSt64 g ra rs off s
  | .ldq8 g cmask lane ra zx off => Sys2Proof.Machine.execLdq8 g cmask lane ra zx off s
  | .ldq16 g cmask lane ra zx off => Sys2Proof.Machine.execLdq16 g cmask lane ra zx off s
  | .ldq32 g cmask lane ra zx off => Sys2Proof.Machine.execLdq32 g cmask lane ra zx off s
  | .ldq64 g cmask lane ra zx off => Sys2Proof.Machine.execLdq64 g cmask lane ra zx off s
  | .amoAdd g rd ra rb w scope ord => Sys2Proof.Machine.execAmoAdd g rd ra rb w scope ord s
  | .amoSwp g rd ra rb w scope ord => Sys2Proof.Machine.execAmoSwp g rd ra rb w scope ord s
  | .amoCas g rd ra rb w scope ord cmp => Sys2Proof.Machine.execAmoCas g rd ra rb w scope ord cmp s
  | .amoAnd g rd ra rb w scope ord => Sys2Proof.Machine.execAmoAnd g rd ra rb w scope ord s
  | .amoOr g rd ra rb w scope ord => Sys2Proof.Machine.execAmoOr g rd ra rb w scope ord s
  | .amoXor g rd ra rb w scope ord => Sys2Proof.Machine.execAmoXor g rd ra rb w scope ord s
  | .amoMin g rd ra rb w scope ord u => Sys2Proof.Machine.execAmoMin g rd ra rb w scope ord u s
  | .amoMax g rd ra rb w scope ord u => Sys2Proof.Machine.execAmoMax g rd ra rb w scope ord u s
  | .rldq8 g cmask lane ra zx off acq scope => Sys2Proof.Machine.execRldq8 g cmask lane ra zx off acq scope s
  | .rldq16 g cmask lane ra zx off acq scope => Sys2Proof.Machine.execRldq16 g cmask lane ra zx off acq scope s
  | .rldq32 g cmask lane ra zx off acq scope => Sys2Proof.Machine.execRldq32 g cmask lane ra zx off acq scope s
  | .rldq64 g cmask lane ra zx off acq scope => Sys2Proof.Machine.execRldq64 g cmask lane ra zx off acq scope s
  | .laydef g ra => Sys2Proof.Machine.execLaydef g ra s
  | .layinv g ra => Sys2Proof.Machine.execLayinv g ra s
  | .pin g rd rp nrow ncol lvl => Sys2Proof.Machine.execPin g rd rp nrow ncol lvl s
  | .unpin g rp nrow ncol lvl => Sys2Proof.Machine.execUnpin g rp nrow ncol lvl s
  | .lastuse g rp nrow ncol lvl => Sys2Proof.Machine.execLastuse g rp nrow ncol lvl s
  | .stream g rp nrow ncol lvl => Sys2Proof.Machine.execStream g rp nrow ncol lvl s
  | .pfit g ra cnt ld itin lvl => Sys2Proof.Machine.execPfit g ra cnt ld itin lvl s
  | .pfitcan g itin => Sys2Proof.Machine.execPfitcan g itin s
  | .copy g tok rs rt bx fe fl scope eng => Sys2Proof.Machine.execCopy g tok rs rt bx fe fl scope eng s
  | .copyt g tok rs rt bx fe fl scope eng tr => Sys2Proof.Machine.execCopyt g tok rs rt bx fe fl scope eng tr s
  | .vrel g rd rp nrow ncol => Sys2Proof.Machine.execVrel g rd rp nrow ncol s
  | .promote g tok ra rb dr lu => Sys2Proof.Machine.execPromote g tok ra rb dr lu s
  | .kvapp g rd ra kr vr cnt => Sys2Proof.Machine.execKvapp g rd ra kr vr cnt s
  | .selTopk g e => Sys2Proof.Machine.execSelTopk g e s
  | .selSeg g e => Sys2Proof.Machine.execSelSeg g e s
  | .unmSetup g e => Sys2Proof.Machine.execUnmSetup g e s
  | .unmReg g e => Sys2Proof.Machine.execUnmReg g e s
  | .unmRound g e => Sys2Proof.Machine.execUnmRound g e s
  | .unmFree g e => Sys2Proof.Machine.execUnmFree g e s
  | .rteSetup g e => Sys2Proof.Machine.execRteSetup g e s
  | .rteCount g e => Sys2Proof.Machine.execRteCount g e s
  | .rtePlace g e => Sys2Proof.Machine.execRtePlace g e s
  | .rteScatter g e => Sys2Proof.Machine.execRteScatter g e s
  | .rteGather g e => Sys2Proof.Machine.execRteGather g e s
  | .collAr g e => Sys2Proof.Machine.execCollAr g e s
  | .collAg g e => Sys2Proof.Machine.execCollAg g e s
  | .collRs g e => Sys2Proof.Machine.execCollRs g e s
  | .collBc g e => Sys2Proof.Machine.execCollBc g e s
  | .collA2a g e => Sys2Proof.Machine.execCollA2a g e s
  | .fencex g frm dst scope => Sys2Proof.Machine.execFencex g frm dst scope s
  | .fpush g ra => Sys2Proof.Machine.execFpush g ra s
  | .fqclose g => Sys2Proof.Machine.execFqclose g s
  | .renq g ra rb => Sys2Proof.Machine.execRenq g ra rb s
  | .gbar g fl ra scope => Sys2Proof.Machine.execGbar g fl ra scope s
  | .gleave g ra => Sys2Proof.Machine.execGleave g ra s
  | .gjoin g ra => Sys2Proof.Machine.execGjoin g ra s
  | .gcast g fl ra rb => Sys2Proof.Machine.execGcast g fl ra rb s
  | .prack g rd ra => Sys2Proof.Machine.execPrack g rd ra s
  | .hostirq g ra vec => Sys2Proof.Machine.execHostirq g ra vec s
  | .cube g c => Sys2Proof.Machine.execCube g c s
  | .mma g c => Sys2Proof.Machine.execMma g c s
  | .ald g rr rp view rm ftz tr ve minv => Sys2Proof.Machine.execAld g rr rp view rm ftz tr ve minv s
  | .ast g rr rp view rm ftz tr ve minv => Sys2Proof.Machine.execAst g rr rp view rm ftz tr ve minv s
  | .aclr g rd dv => Sys2Proof.Machine.execAclr g rd dv s
  | .acvt g rd ra sv dv rm ftz => Sys2Proof.Machine.execAcvt g rd ra sv dv rm ftz s
  | .acopy g rd ra dv => Sys2Proof.Machine.execAcopy g rd ra dv s
  | .atrn g rd ra dv => Sys2Proof.Machine.execAtrn g rd ra dv s
  | .vadd g w => Sys2Proof.Machine.execVadd g w s
  | .vsub g w => Sys2Proof.Machine.execVsub g w s
  | .vmul g w => Sys2Proof.Machine.execVmul g w s
  | .vfma g w => Sys2Proof.Machine.execVfma g w s
  | .vmin g w => Sys2Proof.Machine.execVmin g w s
  | .vmax g w => Sys2Proof.Machine.execVmax g w s
  | .vabs g w => Sys2Proof.Machine.execVabs g w s
  | .vneg g w => Sys2Proof.Machine.execVneg g w s
  | .vand g w => Sys2Proof.Machine.execVand g w s
  | .vor g w => Sys2Proof.Machine.execVor g w s
  | .vxor g w => Sys2Proof.Machine.execVxor g w s
  | .vnot g w => Sys2Proof.Machine.execVnot g w s
  | .vshl g w => Sys2Proof.Machine.execVshl g w s
  | .vshr g w => Sys2Proof.Machine.execVshr g w s
  | .vsar g w => Sys2Proof.Machine.execVsar g w s
  | .vcmpeq g w => Sys2Proof.Machine.execVcmpeq g w s
  | .vcmplt g w => Sys2Proof.Machine.execVcmplt g w s
  | .vcmple g w => Sys2Proof.Machine.execVcmple g w s
  | .vsel g w => Sys2Proof.Machine.execVsel g w s
  | .vcvt g w => Sys2Proof.Machine.execVcvt g w s
  | .vrndi g w => Sys2Proof.Machine.execVrndi g w s
  | .vrsum g w => Sys2Proof.Machine.execVrsum g w s
  | .vrmax g w => Sys2Proof.Machine.execVrmax g w s
  | .vrmin g w => Sys2Proof.Machine.execVrmin g w s
  | .vrargmax g w => Sys2Proof.Machine.execVrargmax g w s
  | .vexp2 g w => Sys2Proof.Machine.execVexp2 g w s
  | .vlog2 g w => Sys2Proof.Machine.execVlog2 g w s
  | .vrcp g w => Sys2Proof.Machine.execVrcp g w s
  | .vrsq g w => Sys2Proof.Machine.execVrsq g w s
  | .vtanh g w => Sys2Proof.Machine.execVtanh g w s
  | .vmov g w => Sys2Proof.Machine.execVmov g w s
  | .vperm g w => Sys2Proof.Machine.execVperm g w s
  | .vrot g w => Sys2Proof.Machine.execVrot g w s
  | .vrng g w => Sys2Proof.Machine.execVrng g w s
  | .vdistIp g w => Sys2Proof.Machine.execVdistIp g w s
  | .vdistL2 g w => Sys2Proof.Machine.execVdistL2 g w s
  | .vdistHam g w => Sys2Proof.Machine.execVdistHam g w s
  | .vlmask g w => Sys2Proof.Machine.execVlmask g w s
  | .viota g w => Sys2Proof.Machine.execViota g w s
  | .vmovs g w => Sys2Proof.Machine.execVmovs g w s
  | .vins g w => Sys2Proof.Machine.execVins g w s
  | .joinMember core k => Sys2Proof.Machine.execJoinMember core k s
  | .joinBroken core k => Sys2Proof.Machine.execJoinBroken core k s
  | .joinTimeout core k => Sys2Proof.Machine.execJoinTimeout core k s
  | .tokenError core k => Sys2Proof.Machine.execTokenError core k s
  | .loadReturn core idx => Sys2Proof.Machine.execLoadReturn core idx s
  | .atomicResponse core idx => Sys2Proof.Machine.execAtomicResponse core idx s
  | .tileFillArrival idx => Sys2Proof.Machine.execTileFillArrival idx s
  | .cubePerform core idx => Sys2Proof.Machine.execCubePerform core idx s
  | .aldComplete core idx => Sys2Proof.Machine.execAldComplete core idx s
  | .vectorComplete core idx => Sys2Proof.Machine.execVectorComplete core idx s
  | .tileMissTimeout core idx => Sys2Proof.Machine.execTileMissTimeout core idx s
  | .alcoveWriteback core idx => Sys2Proof.Machine.execAlcoveWriteback core idx s
  | .hallFill idx => Sys2Proof.Machine.execHallFill idx s
  | .hallForward idx => Sys2Proof.Machine.execHallForward idx s
  | .homeRequest idx full => Sys2Proof.Machine.execHomeRequest idx full s
  | .homePublication core idx => Sys2Proof.Machine.execHomePublication core idx s
  | .homeWriteback cluster idx => Sys2Proof.Machine.execHomeWriteback cluster idx s
  | .homeRaise idx => Sys2Proof.Machine.execHomeRaise idx s
  | .requestResend idx => Sys2Proof.Machine.execRequestResend idx s
  | .slotSwap stack slotA slotB => Sys2Proof.Machine.execSlotSwap stack slotA slotB s
  | .pageWalkComplete cluster ctx va => Sys2Proof.Machine.execPageWalkComplete cluster ctx va s
  | .copytRelease cluster eng => Sys2Proof.Machine.execCopytRelease cluster eng s
  | .copyStart cluster eng => Sys2Proof.Machine.execCopyStart cluster eng s
  | .copyComplete cluster eng idx => Sys2Proof.Machine.execCopyComplete cluster eng idx s
  | .markerRemove cluster eng => Sys2Proof.Machine.execMarkerRemove cluster eng s
  | .selectionPerform cluster => Sys2Proof.Machine.execSelectionPerform cluster s
  | .landingPerform cluster slot => Sys2Proof.Machine.execLandingPerform cluster slot s
  | .concoursePerform die sess => Sys2Proof.Machine.execConcoursePerform die sess s
  | .countContribution die msg => Sys2Proof.Machine.execCountContribution die msg s
  | .routeTimeout die sess => Sys2Proof.Machine.execRouteTimeout die sess s
  | .collectivePerform die idx => Sys2Proof.Machine.execCollectivePerform die idx s
  | .collContribution msg => Sys2Proof.Machine.execCollContribution msg s
  | .collectiveTimeout die idx => Sys2Proof.Machine.execCollectiveTimeout die idx s
  | .engineComplete idx => Sys2Proof.Machine.execEngineComplete idx s
  | .groupArrival idx => Sys2Proof.Machine.execGroupArrival idx s
  | .moduleArrival xkey module gen => Sys2Proof.Machine.execModuleArrival xkey module gen s
  | .remoteFlagUpdate idx => Sys2Proof.Machine.execRemoteFlagUpdate idx s
  | .pageMigrationCopy idx => Sys2Proof.Machine.execPageMigrationCopy idx s
  | .pageMigrationSwitch idx => Sys2Proof.Machine.execPageMigrationSwitch idx s
  | .pageReturn idx => Sys2Proof.Machine.execPageReturn idx s
  | .schedulerWalk cluster => Sys2Proof.Machine.execSchedulerWalk cluster s
  | .launchTake cluster queue => Sys2Proof.Machine.execLaunchTake cluster queue s
  | .hostLaunchTake ctx cluster => Sys2Proof.Machine.execHostLaunchTake ctx cluster s
  | .residencyTimeout task => Sys2Proof.Machine.execResidencyTimeout task s
  | .taskStart task => Sys2Proof.Machine.execTaskStart task s
  | .taskRetire task => Sys2Proof.Machine.execTaskRetire task s
  | .launchRetire launch => Sys2Proof.Machine.execLaunchRetire launch s
  | .preemptGraceExpiry task => Sys2Proof.Machine.execPreemptGraceExpiry task s
  | .cut task => Sys2Proof.Machine.execCut task s
  | .saveComplete task => Sys2Proof.Machine.execSaveComplete task s
  | .taskResume task => Sys2Proof.Machine.execTaskResume task s
  | .faultRecord idx => Sys2Proof.Machine.execFaultRecord idx s
  | .contextFaultStop ctx => Sys2Proof.Machine.execContextFaultStop ctx s
  | .ctxCreate addr => Sys2Proof.Machine.execCtxCreate addr s
  | .ctxDestroy addr => Sys2Proof.Machine.execCtxDestroy addr s
  | .lqtailWrite ctx v => Sys2Proof.Machine.execLqtailWrite ctx v s
  | .nqreadWrite ctx v => Sys2Proof.Machine.execNqreadWrite ctx v s
  | .tqreadWrite ctx v => Sys2Proof.Machine.execTqreadWrite ctx v s
  | .ctlStop ctx => Sys2Proof.Machine.execCtlStop ctx s
  | .ctlResume ctx => Sys2Proof.Machine.execCtlResume ctx s
  | .ctlKill ctx => Sys2Proof.Machine.execCtlKill ctx s
  | .ctlInvalidate ctx => Sys2Proof.Machine.execCtlInvalidate ctx s
  | .debugWindowAccess wr off v => Sys2Proof.Machine.execDebugWindowAccess wr off v s
  | .hostRegisterWrite bar off v => Sys2Proof.Machine.execHostRegisterWrite bar off v s
  | .traceSample ctx => Sys2Proof.Machine.execTraceSample ctx s
  | .clockStep n => Sys2Proof.Machine.execClockStep n s
  | .unitFailure core => Sys2Proof.Machine.execUnitFailure core s
  | .thermalTrip die temp => Sys2Proof.Machine.execThermalTrip die temp s
  | .moduleReset warm => Sys2Proof.Machine.execModuleReset warm s
  | .blackboxRearm => Sys2Proof.Machine.execBlackboxRearm s
  | .firmwareUpdate edOk mlOk rollback version => Sys2Proof.Machine.execFirmwareUpdate edOk mlOk rollback version s
  | .attestationReport nonce => Sys2Proof.Machine.execAttestationReport nonce s
  | .domainConfig size number others => Sys2Proof.Machine.execDomainConfig size number others s
  | .hbmRetrain stack => Sys2Proof.Machine.execHbmRetrain stack s
  | .retrainRequest stack => Sys2Proof.Machine.execRetrainRequest stack s
  | .flitReceive die port flit => Sys2Proof.Machine.execFlitReceive die port flit s
  | .laneFecWindow die port => Sys2Proof.Machine.execLaneFecWindow die port s
  | .laneLockLoss die port lane => Sys2Proof.Machine.execLaneLockLoss die port lane s
  | .linkRetrainDone die port lost => Sys2Proof.Machine.execLinkRetrainDone die port lost s
  | .fabricTimeout core idx => Sys2Proof.Machine.execFabricTimeout core idx s
  | .instructionFetch core k va => Sys2Proof.Machine.execInstructionFetch core k va s
  | .writeAcknowledgement core idx => Sys2Proof.Machine.execWriteAcknowledgement core idx s
  | .regionInstructionComplete core idx => Sys2Proof.Machine.execRegionInstructionComplete core idx s
  | .stackRetrainingDone stack => Sys2Proof.Machine.execStackRetrainingDone stack s

end Sys2Proof.Machine
end

