-- ==== Sys2Proof/Machine/Cycle.lean ====
section
/-! DEFINITION. One cycle of a core in which some of its strands try to issue their head bundles (R16, R17, R19 to
R21, R123, R126, R387), and the other turns of the machine. -/

namespace Sys2Proof.Machine

/-! ### One bundle -/

/-- What the instructions of a bundle come to, tried from the state at its start. -/
inductive Tried where
  | next (s : State)
  | held
  | bad (pos : Nat) (i : Instr) (t : State)
  | halt (o : Out)

/-- The state in which the instruction at a position is tried. -/
def State.atPos (s : State) (pos : Nat) : State :=
  { s with issue := { s.issue with pos := pos, verdict := .performing } }

/-- The lane entries and load slots of the core in issue taken from another state. -/
def State.withSlots (s t : State) : State := s.modLive fun c => { c with lanes := t.live.lanes, loads := t.live.loads }

/-- The same with the word of a trapping FPUSH, which takes its place in the format queue (R123, R233). -/
def State.withRoom (s t : State) (i : Instr) : State :=
  match i with
  | .fpush _ _ => (s.withSlots t).modLive fun c => { c with fq := c.fq ++ [{ w := 0, born := s.now }] }
  | _ => s.withSlots t

/-- The instructions of a bundle tried in word order (R16, R123). A held one holds the bundle; else the first one
that traps or faults is the bundle's: the state that it came to is kept. What such a one reserved counts for the conditions of
those behind it (R123). An illegal instruction found only here takes its place in word order (log 105). -/
def tryItems : List (Nat × Instr) → Bool → Option (Nat × Instr × State) → State → Tried
  | [], true, _, _ => .held
  | [], false, some x, _ => .bad x.1 x.2.1 x.2.2
  | [], false, none, s => .next s
  | (pos, i) :: xs, held, bad, s =>
    match exec i (s.atPos pos) with
    | .fault r => .halt (.fault r)
    | .refused r => .halt (.refused r)
    | .next t =>
      match t.issue.verdict with
      | .performing => tryItems xs held bad t
      | .held => tryItems xs true bad s
      | .trapped => tryItems xs held (bad.or (some (pos, i, t))) (s.withRoom t i)
      | .faulted => tryItems xs held (bad.or (some (pos, i, t))) (s.withRoom t i)

/-- The state before a bundle with nothing but the trap or the fault that one of its instructions came to in `t` (R17). -/
def cancelTo (s0 t : State) : State :=
  let st := (t.core t.issue.core).strand t.issue.kind
  let u := s0.modActing fun x =>
    if t.issue.verdict = .faulted then { x with mode := st.mode, was := st.was }
    else
      { x with mode := st.mode, was := st.was, pc := if st.mode = .trapped then x.trapvec else x.pc, epc := st.epc,
               cause := st.cause, tval := st.tval }
  { u with posts := t.posts, issue := t.issue }

/-- The bundle's instruction that traps or faults taken alone, so that no other has an effect (R17); one that does so only
beside an earlier instruction of its bundle leaves nothing but its trap. `t` is what it came to in the bundle. -/
def trapAlone (s0 t : State) (pos : Nat) (i : Instr) : Out :=
  match exec i (s0.atPos pos) with
  | .fault r => .fault r
  | .refused r => .refused r
  | .next u =>
    match u.issue.verdict with
    | .trapped => .next (u.withSlots s0)
    | .faulted => .next (u.withSlots s0)
    | .performing => .next (cancelTo s0 t)
    | .held => .next (cancelTo s0 t)

/-- The strand after its bundle: past it, or back in a loop (R8, R84); a taken transfer has set the program
counter already. -/
def advance (s : State) : State :=
  let t :=
    if s.issue.taken then s
    else s.modActing fun st => loopBack s.issue.base s.nextPc 5 (s.issue.pre.strand s.issue.kind) st
  t.modActing fun st => { st with joinSince := none, fetchSince := none, bpSkip := if st.bpSkip = some s.issue.base then none else st.bpSkip }

/-- The state in which a strand's bundle is tried: its position, the strand running, and what a satisfied token wait
acquires (R117). -/
def openBundle (s : State) (pre : Core) (n : Nat) (k : Kind) (b : Bundle) : State :=
  let u : State :=
    { s with issue :=
        { s.issue with
          core := n, kind := k, base := ((s.core n).strand k).pc, words := b.hdr.words, pos := 1, pre := pre,
          taken := false, verdict := .performing, raised := 0, paused := false } }
  let v := if b.hdr.tokmask = 0 then u else tokenAcquire u n
  v.modStrand n k fun st => if st.mode = .waiting then { st with mode := .running } else st

/-- What a strand's attempt to issue comes to. -/
inductive Attempt where
  | settled (s : State)
  | wait (s : State) (cls flag : Nat)
  | trapping (s : State) (h : Header) (t : State)
  | ready (s : State) (h : Header) (t : State)
  | halt (o : Out)

/-- A KVAPP in progress at the strand's head (R259). -/
def kvGoing (pre : Core) (k : Kind) (b : Bundle) : Bool :=
  k == .a && pre.kvAt == some pre.a.pc && b.items.any fun x => match x.2 with
    | .kvapp _ _ _ _ _ _ => true
    | _ => false

/-- The head judged; the header's waits are over for a KVAPP that has begun. -/
def judgeGoing (s : State) (pre : Core) (n : Nat) (k : Kind) : Head :=
  match judgeHead s pre n k with
  | .settled t => .settled t
  | .go t b => .go t b
  | .wait t cls flag =>
    match decodeHead s n k with
    | .go s1 b => if kvGoing pre k b then .go s1 b else .wait t cls flag
    | .wait u c f => .wait u c f
    | .settled u => .settled u

/-- The task of a core notes that a hardware breakpoint has stopped one of its strands (R387). -/
def matchBreak (s : State) (n : Nat) (k : Kind) : State :=
  match (s.core n).task with
  | none => s
  | some i => s.modTask i fun t => { t with matched := t.matched ++ [(k, ((s.core n).strand k).pc)] }

/-- A bundle whose conditions hold: the debugger's breakpoint stops the context before it (R387), a KVAPP that goes on in a
later cycle leaves the strand at its head (R259), and any other bundle has issued. -/
def finishItems (s1 t : State) (n : Nat) (k : Kind) (h : Header) : Attempt :=
  let st := (s1.core n).strand k
  let stop := match s1.ctx? (s1.core n).ctx with
    | none => none
    | some c => if breakpointAt c k st.pc && st.bpSkip != some st.pc then some c.id else none
  match stop with
  | some id => .settled (matchBreak (stopContext s1 id 3) n k)
  | none => if t.issue.paused then .trapping s1 h t else .ready s1 h (advance t)

/-- A strand that a trace record stalls: it waits, for its flag if that wait fails too (R386, R388). -/
def stalled (s : State) (pre : Core) (n : Nat) (k : Kind) : Attempt :=
  match decodeHead s n k with
  | .go t b => if flagWaitOk pre b.hdr then .wait t 2 0 else .wait t 1 b.hdr.wflag.toNat
  | .wait _ _ _ => .wait s 2 0
  | .settled _ => .wait s 2 0

/-- A strand's attempt in the cycle. Of `trapping` and `ready`, the first state is the one before the bundle and
the second the one after it. -/
def attempt (s : State) (pre : Core) (n : Nat) (k : Kind) : Attempt :=
  if traceStall s n k then stalled s pre n k
  else
    match judgeGoing s pre n k with
    | .settled t => .settled t
    | .wait t cls flag => .wait t cls flag
    | .go s1 b =>
      let s0 := openBundle s1 pre n k b
      match tryItems b.items false none s0 with
      | .halt o => .halt o
      | .held => .wait s1 2 0
      | .bad pos i t =>
        match trapAlone s0 t pos i with
        | .fault r => .halt (.fault r)
        | .refused r => .halt (.refused r)
        | .next u => .trapping s1 b.hdr u
      | .next t => finishItems s1 t n k b.hdr

/-! ### One cycle -/

/-- What a strand did in the cycle. -/
inductive Did where
  | issued | trapped | able
  deriving DecidableEq, Repr

/-- A joined strand's part in the cycle: its kind, its tag, what it did. -/
abbrev Part := Kind × Nat × Did

/-- A cycle's course so far. -/
structure Course where
  s : State
  parts : List Part
  stop : Option Out

/-- One strand's turn within the cycle; a barred joined strand only waits. -/
def turnOf (pre : Core) (n : Nat) (barred : List Kind) (c : Course) (k : Kind) : Course :=
  if c.stop.isSome then c
  else
    match attempt c.s pre n k with
    | .halt o => { c with stop := some o }
    | .settled t => { c with s := countHead t n k 2 }
    | .wait t cls flag => { c with s := waitHead t n k cls flag }
    | .trapping s1 h u =>
      let t := countHead u n k 2
      if h.sync = 0 then { c with s := t }
      else if barred.contains k then
        { c with s := waitJoin s1 n k h, parts := c.parts ++ [(k, h.jtag.toNat, .able)] }
      else { c with s := t, parts := c.parts ++ [(k, h.jtag.toNat, .trapped)] }
    | .ready s1 h t =>
      let u := countHead t n k 0
      if h.sync = 0 then { c with s := u }
      else if barred.contains k then
        { c with s := waitJoin s1 n k h, parts := c.parts ++ [(k, h.jtag.toNat, .able)] }
      else { c with s := u, parts := c.parts ++ [(k, h.jtag.toNat, .issued)] }

/-- A joined strand may do what it did: issue only with every member of its tag, and trap only where every member
was able to issue (R19, R126). -/
def partOk (pre : Core) (ps : List Part) (p : Part) : Bool :=
  let ms := Kind.all.filter fun j => (pre.joinMask p.2.1).getLsbD j.code
  match p.2.2 with
  | .able => true
  | .issued => ms.all fun j => ps.contains (j, p.2.1, .issued)
  | .trapped => ms.all fun j => ps.any fun q => q.1 == j && q.2.1 == p.2.1

/-- The pairing counts after the cycle (R19). A joined bundle that issues in the very cycle of a write to its tag's `core.joinT`
counts in the restarted count, which is the model's choice (log 123). -/
def countPairs (n : Nat) (ps : List Part) (s : State) : State :=
  let tags := ((ps.filter fun p => p.2.2 == .issued).map fun p => p.2.1).eraseDups
  tags.foldl (fun t j => t.modCore n fun c => { c with pairs := tset 0 c.pairs j (tget 0 c.pairs j + 1) }) s

/-- The cycle, tried again with those joined strands barred that may not do what they did. -/
def cycleFrom (s : State) (pre : Core) (n : Nat) (ks : List Kind) : Nat → List Kind → Out
  | 0, _ => .next s
  | fuel + 1, barred =>
    let c := ks.foldl (turnOf pre n barred) { s := s, parts := [], stop := none }
    match c.stop with
    | some o => o
    | none =>
      match (c.parts.filter fun p => !partOk pre c.parts p).map fun p => p.1 with
      | [] => .next { countPairs n c.parts c.s with issue := {} }
      | ks' => cycleFrom s pre n ks fuel (barred ++ ks')

/-- The number of cores of the module (R14). -/
def coreCount : Nat := 640

/-- What the instructions of a core's cycle read of its cluster, its die and the package: their state before the cycle (R12,
R20). -/
def startIssue (s : State) (n : Nat) : Issue :=
  { preCl := s.cluster (coreCluster n), preDie := s.die (coreDie n), preQueues := queuesWord s (coreCluster n),
    prePromo := promoOf s (s.core n).ctx }

/-- What a strand's attempt would come to in the next cycle. -/
def tryHead (s : State) (n : Nat) (k : Kind) : Attempt :=
  attempt { s with now := s.now + 1, issue := startIssue s n } (s.core n) n k

/-- A strand's bundle could issue in the next cycle as a member of a tag. -/
def ableIn (s : State) (n tag : Nat) (k : Kind) : Bool :=
  mayIssue s n k &&
  match tryHead s n k with
  | .ready _ h _ => h.sync != 0 && h.jtag.toNat == tag
  | .trapping _ h _ => h.sync != 0 && h.jtag.toNat == tag
  | .wait _ _ _ => false
  | .settled _ => false
  | .halt _ => false

/-- A strand's head bundle has been fetched: it has been tried, or its words are cached (R386). -/
def headFetched (st : Strand) : Bool :=
  st.mode == .waiting ||
  match st.icache.find? fun x => x.1 == st.pc.toNat / 64 with
  | none => false
  | some x =>
    let last := st.pc.toNat + 4 * (decodeHeader (lineWord x.2 st.pc.toNat)).words
    st.icache.any fun y => y.1 == last / 64

/-- A strand's head in the next cycle, in which it does not try to issue: its class of R386 with its flag, and the cycle from
which its join wait counts (R21). A head that could issue, or would trap, is held back by what the order of turns stands for
(log 16). -/
def idleHead (s : State) (n : Nat) (k : Kind) : Nat × Nat × Option Nat :=
  let st := (s.core n).strand k
  let joined := fun (h : Header) =>
    if h.sync = 0 then none
    else if (Kind.all.filter fun j => ((s.core n).joinMask h.jtag.toNat).getLsbD j.code).all (ableIn s n h.jtag.toNat) then
      st.joinSince
    else some (st.joinSince.getD (s.now + 1))
  if !headFetched st then (3, 0, none)
  else
    match tryHead s n k with
    | .wait _ cls flag => (cls, flag, none)
    | .ready _ h _ => (2, 0, joined h)
    | .trapping _ h _ => (2, 0, joined h)
    | .settled _ => (2, 0, none)
    | .halt _ => (2, 0, none)

/-- One strand's idle cycles counted in their class; a join wait whose bundle is not ready starts over, and a head that has not
been fetched waits for its fetch. -/
def idleStrand (s : State) (n d : Nat) (c : Core) (k : Kind) : Core :=
  if d = 0 ∨ mayIssue s n k = false then c
  else
    let x := idleHead s n k
    let since := if x.1 = 3 then some ((c.strand k).fetchSince.getD (s.now + 1)) else none
    { c.setStrand k { c.strand k with joinSince := x.2.2, fetchSince := since } with
      hcnt := addCount c.hcnt (4 * k.code + x.1) (BitVec.ofNat 64 d)
      fwait := if x.1 = 1 then addCount c.fwait x.2.1 (BitVec.ofNat 64 d) else c.fwait
      hcls := tput c.hcls k.code (x.1, x.2.1) }

/-- Cycles in which the strands of a core do not try to issue, counted in their classes (R386). -/
def idleCounts (s : State) (n : Nat) (d : Kind → Nat) (c : Core) : Core :=
  Kind.all.foldl (fun c k => idleStrand s n (d k) c k) c

/-- Time that passes: each strand of each core has so many cycles in which it does not try to issue. -/
def passTime (s : State) (d : Nat → Kind → Nat) : State :=
  { s with cores := s.cores.map fun x => (x.1, idleCounts s x.1 (d x.1) x.2) }

/-- The state at the start of a core's cycle in which the strands of a mask try to issue: time has gone on, and the
write-backs of the cycle come after those of the core (log 4). -/
def openCycle (s : State) (n : Nat) (kinds : BitVec 4) (dt : Nat) : State :=
  let u := passTime s fun m k => if m = n ∧ kinds.getLsbD k.code = true then dt else dt + 1
  let t := { s with cores := u.cores, now := s.now + dt + 1, phase := 1100 + n, joinReady := [] }
  { t with issue := startIssue t n }

/-- A cycle of a core in which the strands of a mask that may issue try to, in the order A, C, M, V (R100, R130). Which ones
may is decided before the cycle (R20). -/
def issueTurn (s : State) (n : Nat) (kinds : BitVec 4) (dt : Nat) : Out :=
  if coreCount ≤ n then .fault .noSuchUnit
  else
    let s1 := openCycle s n kinds dt
    cycleFrom s1 (s1.core n) n (Kind.all.filter fun k => kinds.getLsbD k.code && mayIssue s1 n k) 5 []

/-! ### The other turns -/

/-- The state after a granule meets an uncorrectable error (R349). -/
def poisonAt (s : State) (addr : Nat) : State :=
  if s.poison.contains (granuleBase addr) then s else { s with poison := s.poison ++ [granuleBase addr] }

/-- A corrected error counted for its stack, modulo 2^64 (R349, R376). -/
def correctedAt (s : State) (stack : Nat) : State :=
  { s with hbm := tset {} s.hbm (stack % 12) { tget {} s.hbm (stack % 12) with ecc := (tget {} s.hbm (stack % 12)).ecc + 1 } }

/-- The core whose alcove an event may write back. -/
def drainingCore (s : State) (i : Instr) : Option Nat :=
  match i with
  | .alcoveWriteback core _ => some core
  | .cubePerform core _ => some core
  | .taskRetire task => (s.task? task).map fun t => t.core
  | .cut task => (s.task? task).map fun t => t.core
  | .preemptGraceExpiry task => (s.task? task).map fun t => t.core
  | .hallFill idx =>
    (s.reqs[idx]?).bind fun r => match r.stage with
      | .alcove => r.core
      | _ => none
  | _ => none

/-- The place of an event among those of one cycle (R278, R355): publications, then raises, then write-backs, those of alcoves in
ascending core number, then requests; none for an event that the spec does not order. -/
def eventClass (s : State) (i : Instr) : Option Nat :=
  match i with
  | .homePublication _ _ => some 1000
  | .homeRaise _ => some 1001
  | .homeWriteback _ _ => some 1900
  | .homeRequest _ _ => some 3000
  | .requestResend _ => some 3000
  | _ => (drainingCore s i).map fun n => 1100 + n

/-- The state `d` cycles later, in which no strand tries to issue. -/
def State.later (s : State) (d : Nat) : State :=
  { s with cores := (passTime s fun _ _ => d).cores, now := s.now + d, issue := {} }

/-- The state at an event: `dt` cycles later, and a cycle later than that for one that may no longer take place in its cycle. -/
def State.enter (s : State) (dt : Nat) (cls : Option Nat) : State :=
  match cls with
  | none => { (if dt = 0 then { s with issue := {} } else s.later dt) with phase := if dt = 0 then s.phase else 0 }
  | some p =>
    if dt = 0 ∧ s.phase ≤ p then { s with phase := p, issue := {} } else { s.later (Nat.max dt 1) with phase := p }

/-- An event: one that carries an instruction's words is none. Only a join timeout uses what the last issue turn noted of the
joined strands (R21). -/
def eventTurn (i : Instr) (dt : Nat) (s : State) : Out :=
  let t := s.enter dt (eventClass s i)
  if (encode i).isEmpty then
    exec i (match i with
      | .joinTimeout _ _ => t
      | _ => { t with joinReady := [] })
  else .next s

/-- What the outside or a storage cell does. -/
def outsideTurn (t : Turn) (s : State) : State :=
  match t with
  | .issue _ _ _ => s
  | .event _ _ => s
  | .poison addr => if memKind s addr = .unassigned then s else poisonAt s addr
  | .corrected stack => correctedAt s stack
  | .outside addr b => if memKind s addr = .unassigned then s else (writePhys false s addr [b]).1
  | .dropLine n addr =>
    if coreCount ≤ n then s else s.modCore n fun c => { c with scache := c.scache.filter fun l => l.1 != addr }
  | .dropWord n k addr =>
    if coreCount ≤ n then s
    else s.modStrand n k fun st => { st with icache := st.icache.filter fun w => w.1 != addr / 64 }
  | .dropTlb cl ctx va =>
    if 40 ≤ cl then s
    else s.modCluster cl fun c => { c with tlb := c.tlb.filter fun e => e.ctx.toNat != ctx || e.va != va }
  | .peerCast xkey flag add => peerCast s xkey flag add
  | .setRestime cl v => if 40 ≤ cl then s else s.modCluster cl fun c => { c with restime := v }
  | .peerRow xkey n src owner row fmt vals => takePeerRow s xkey n src owner row fmt vals
  | .peerAck xkey n rank owner ok => takePeerAck s xkey n rank owner ok
  | .peerAsk xkey n src owner row => takePeerAsk s xkey n src owner row
  | .peerVals xkey n rank owner row ok vals => takePeerVals s xkey n rank owner row ok vals

/-- What a turn leaves to be done at once: the strands of tasks that issue no more stop (R23), and saved commands re-enter their
engines as far as there is room (R262, R329). -/
def afterTurn (s : State) : State := reenterAll (stopStrands s)

/-- The next states of a turn with what it leaves to be done. -/
def settleTurn (o : Out) : Out :=
  match o with
  | .next s => .next (afterTurn s)
  | .fault f => .fault f
  | .refused r => .refused r

/-- One turn of the machine. -/
def runTurn (t : Turn) (s : State) : Out :=
  match t with
  | .issue n kinds dt => settleTurn (issueTurn s n kinds dt)
  | .event i dt => settleTurn (eventTurn i dt s)
  | t => .next (afterTurn { outsideTurn t s with joinReady := [] })

/-- The next turn: the head of the agenda, or a free one (log 4). -/
def nextTurn (s : State) : Turn × State :=
  match s.agenda with
  | t :: ts => (t, { s with agenda := ts })
  | [] => (Config.freeTurn s.turns, { s with turns := s.turns + 1 })

/-- One step of the module. -/
def stepOnce (s : State) : Out := runTurn (nextTurn s).1 (nextTurn s).2

end Sys2Proof.Machine
end

