-- ==== Sys2Proof/Machine/Place.lean ====
section
/-! DEFINITION. The state in which a given instruction is the next to be fetched (log 5): one live context whose
page tables map the first 64 GiB onto themselves, one running task on core 0, and the instruction's bundle in
memory at the strand's program counter. -/

namespace Sys2Proof.Machine

/-- Where the placed bundle stands. -/
def placePc : Nat := 0x4000

/-- The root table of the placed context, and its level-1 table. -/
def placeRoot : Nat := 0x100000

/-- The level-1 table of the placed context. -/
def placeTable : Nat := 0x104000

/-- The placed context. -/
def placeCtx : Context where
  id := 1
  desc := BitVec.ofNat 2048 (1 + placeRoot * 2 ^ 64)
  lqtail := 0
  lqhead := 0
  nqread := 0
  nqwrite := 0
  tqread := 0
  tqwrite := 0
  tqdrop := 0
  dropSince := 0
  late := 0
  pdl := 0
  ctl := .running
  resumePend := false
  stopOp := false
  killOp := false
  stash := []
  reclaim := []
  promoLate := 0
  fault := none
  noteq := []
  traceq := []

/-- The placed launch, of one task. -/
def placeLaunch (id : Nat) : Launch where
  id := id
  ctx := 1
  recBits := BitVec.ofNat 4096 (2 ^ 38)
  recs := []
  cores := [0]
  gtab := []
  slotImg := []
  slotsOn := false
  prio := 0
  arrival := 0
  cluster := 0
  arg := 0
  notify := 0
  fe := none
  fwhen := false
  tag := none
  ran := [0]

/-- The placed task, running on core 0. -/
def placeTask (id launch : Nat) : Task where
  id := id
  launch := launch
  index := 0
  st := .running
  core := 0
  since := 0
  arrival := 0
  saved := false
  area := 0
  cutAt := none
  why := 0
  map := 0
  ackd := 0
  grps := []
  flagsIn := []
  cmds := []
  parked := []

/-- The bytes of a bundle of `n` words whose instruction has the bytes `bs` (R4, R26). -/
def placeBytes (n : Nat) (bs : List Byte) : List Byte := leBytes 4 ((n - 1) * 2 ^ 30) ++ bs.take (4 * n)

/-- The memory with the page tables and the bundle. -/
def placeMem (m : List Host.Cell) (bs : List Byte) : List Host.Cell :=
  writeBytes (writeBytes (writeBytes m placePc bs) placeRoot (leBytes 8 (placeTable + 1))) placeTable (leBytes 8 0x1F)

/-- The instruction of the table's word `w` placed where the next step fetches. -/
def placeWord (s : State) (nbits w : Nat) : State :=
  let k := match tableWord nbits w with
    | some x => x.1
    | none => .a
  let n := if isTwoWord k (fOp (BitVec.ofNat 32 w)).toNat then 2 else 1
  let c := s.core 0
  let st : Strand := { c.strand k with mode := .running, pc := BitVec.ofNat 64 placePc, icache := [] }
  let c1 : Core := { c.setStrand k st with ctx := 1, task := some (s.nextId + 1) }
  { s.setCore 0 c1 with
    mem := placeMem s.mem (placeBytes n (tableBytes (w % 2 ^ nbits)))
    ctxs := placeCtx :: s.ctxs.filter fun c => c.id != 1
    launches := placeLaunch s.nextId :: s.launches
    tasks := placeTask (s.nextId + 1) s.nextId :: s.tasks
    nextId := s.nextId + 2
    agenda := .issue 0 (BitVec.ofNat 4 (2 ^ k.code)) 0 :: s.agenda }

end Sys2Proof.Machine
end

