-- ==== Sys2Proof/Machine/Step.lean ====
section
/-! DEFINITION. The step, and the placing of one instruction where the step fetches next. -/

namespace Sys2Proof.Machine

/-- One step: the next turn of the module (log 4). -/
def step (s : State) : Host.Outcome State Fault Refusal := stepOnce s

/-- The state with one instruction placed where the next step fetches it (log 5). -/
def State.withFetchWord (s : State) (nbits w : Nat) : State := placeWord s nbits w

end Sys2Proof.Machine
end

