-- ==== Sys2Proof/Safety.lean ====
section
/-! DEFINITION. The terms in which claims are made: the invariant of every state, the acting strand, what lets an
instruction run, and what a step may change (the frames). -/

namespace Sys2Proof

open Sys2Proof.Machine

/-- A program counter as R8 has it: bits 63:52 and 1:0 are zero. -/
def pcOk (x : Word) : Bool := x.extractLsb' 52 12 == 0 && x.extractLsb' 0 2 == 0

/-- Memory stands in its canonical form. -/
def Inv (s : State) : Prop := Memory.wf s.mem = true

/-- A run that has not stopped. -/
def Safe (o : Out) : Prop := ∃ s, o = .next s

/-! ### The acting strand -/

/-- The acting strand as it stands. -/
def act (s : State) : Strand := s.live.strand s.issue.kind

/-- The physical register that a destination name reaches; 0 for `s0`, which takes no value (R9, R11). -/
def destReg (s : State) (rd : BitVec 6) : Nat := if rd = 0 then 0 else s.pre.physReg rd

/-- The physical predicate that a destination name reaches; 0 for `p0` (R10). -/
def destPred (s : State) (pd : BitVec 6) : Nat := if pd = 0 then 0 else s.pre.physPred pd

/-- The guard reads 1 and none of the named registers waits for data (R10, R16, R155). -/
def Runs (s : State) (g : BitVec 6) (ns : List (BitVec 6)) : Prop :=
  s.rdPred g = true ∧ ∀ n ∈ ns, s.isPending n = false

/-! ### Frames -/

/-- Everything outside the cores is as it was, every byte of memory among it, and so is the bundle in issue but for
what has been decided about it. -/
def OutsideKept (s t : State) : Prop :=
  { t with cores := s.cores, issue := s.issue } = s ∧ (∀ a, readByte t.mem a = readByte s.mem a) ∧
  t.issue.core = s.issue.core ∧ t.issue.kind = s.issue.kind ∧ t.issue.pre = s.issue.pre ∧ t.issue.base = s.issue.base ∧
  t.issue.words = s.issue.words ∧ t.issue.pos = s.issue.pos

/-- Only the acting core may differ. -/
def CoreKept (s t : State) : Prop := OutsideKept s t ∧ ∀ n, n ≠ s.issue.core → t.core n = s.core n

/-- Only the acting strand may differ: the other strands, and all that the strands of its core share, are as they
were. -/
def StrandKept (s t : State) : Prop := CoreKept s t ∧ t.live.setStrand s.issue.kind (act s) = s.live

/-- One physical scalar register of the acting strand took a value, register 0 none, and nothing else changed. -/
def RegWritten (s t : State) (p : Nat) (x : Word) : Prop :=
  StrandKept s t ∧ t.issue = s.issue ∧ { act t with regs := (act s).regs } = act s ∧
  (p = 0 → (act t).regs = (act s).regs) ∧ (p ≠ 0 → tget 0 (act t).regs p = x) ∧
  ∀ q, q ≠ p → tget 0 (act t).regs q = tget 0 (act s).regs q

/-- One physical predicate of the acting strand took a value, predicate 0 none, and nothing else changed. -/
def PredWritten (s t : State) (p : Nat) (b : Bool) : Prop :=
  StrandKept s t ∧ t.issue = s.issue ∧ { act t with preds := (act s).preds } = act s ∧
  (p = 0 → (act t).preds = (act s).preds) ∧ (p ≠ 0 → p < 64 → (act t).preds.getLsbD p = b) ∧
  ∀ q, q ≠ p → (act t).preds.getLsbD q = (act s).preds.getLsbD q

/-- An instruction completes, and its one effect is a scalar register that takes a value. -/
def GivesReg (i : Instr) (s : State) (rd : BitVec 6) (x : Word) : Prop :=
  ∃ t, exec i s = .next t ∧ RegWritten s t (destReg s rd) x

/-- An instruction completes, and its one effect is a predicate that takes a value. -/
def GivesPred (i : Instr) (s : State) (pd : BitVec 6) (b : Bool) : Prop :=
  ∃ t, exec i s = .next t ∧ PredWritten s t (destPred s pd) b

/-- The acting strand's program counter moved by a taken transfer, and nothing else changed. -/
def Jumped (s t : State) (target : Word) : Prop :=
  StrandKept s t ∧ act t = { act s with pc := target } ∧ t.issue = { s.issue with taken := true }

/-- The acting strand has a handler and is not in it, so that a trap enters it (R124, R125). -/
def HasHandler (s : State) : Prop := (act s).mode ≠ .trapped ∧ (act s).trapvec ≠ 0

/-- The acting strand entered its handler at issue (R17, R121, R124): the bundle's address, the cause with the word's
position and the trap value saved, the trapped state, the vector, and nothing else changed. -/
def Trapped (s t : State) (code : Nat) (tval : Word) : Prop :=
  StrandKept s t ∧ t.issue = { s.issue with verdict := .trapped } ∧
  act t = { act s with epc := s.issue.base, cause := causeWord s.issue.pos false code, tval := tval, mode := .trapped,
                       pc := (act s).trapvec, joinSince := none, fetchSince := none }

/-- An instruction raises a trap at issue. -/
def TrapsWith (i : Instr) (s : State) (code : Nat) (tval : Word) : Prop :=
  HasHandler s → ∃ t, exec i s = .next t ∧ Trapped s t code tval

/-! ### Faults, reads and commands at issue -/

/-- The acting strand raised a fault at issue (R267, R269): one record posted, the strand stopped, and nothing else
changed. -/
def Faulted (s t : State) (code reason : Nat) (val : Word) : Prop :=
  (∃ r, t.posts = s.posts ++ [r] ∧ r.code.toNat = code ∧ r.reason.toNat = reason ∧ r.val = val ∧ r.ctx = s.live.ctx ∧
    r.pc = s.issue.base ∧ r.unit = strandId s s.issue.core s.issue.kind ∧ r.time = s.counter) ∧
  t.issue = { s.issue with verdict := .faulted } ∧ { t with posts := s.posts, cores := s.cores, issue := s.issue } = s ∧
  (∀ n, n ≠ s.issue.core → t.core n = s.core n) ∧ t.live.setStrand s.issue.kind (act s) = s.live ∧
  act t = (act s).stop

/-- An instruction raises a fault at issue. -/
def FaultsWith (i : Instr) (s : State) (code reason : Nat) (val : Word) : Prop :=
  ∃ t, exec i s = .next t ∧ Faulted s t code reason val

/-- No acquiring load of the acting strand is outstanding, so that its memory instructions may go on (R101). -/
def MayAccess (s : State) : Prop := acquiring s.issue.pre s.issue.kind = false

/-- The bytes that a read at issue finds at a virtual address, over one page or two (R153). -/
def ReadsAt (s : State) (va : Word) (n : Nat) (bs : List Byte) : Prop :=
  let tr := fun (x : Word) => translate s (coreCluster s.issue.core) s.live.ctx x.toNat .read
  let m := Nat.min n (0x4000 - va.toNat % 0x4000)
  ∃ pa leaf bits xs, tr va = .ok pa leaf bits ∧ ownBytes s pa m = .ok xs ∧ (m = n → bs = xs) ∧
    (m ≠ n → ∃ pb leaf' bits' ys, tr (va + BitVec.ofNat 64 m) = .ok pb leaf' bits' ∧ ownBytes s pb (n - m) = .ok ys ∧
      bs = xs ++ ys)

/-- Of every core but one nothing differs but tile lines: a write-back may let a fill fail that waits at the same home. -/
def OthersKept (s t : State) (n : Nat) : Prop := ∀ m, m ≠ n → { t.core m with alcove := (s.core m).alcove } = s.core m

/-- The strands of every core are as they were, of the other cores all but tile lines, and so is the bundle in issue. -/
def StrandsKept (s t : State) : Prop :=
  t.issue = s.issue ∧ OthersKept s t s.issue.core ∧ ∀ k, t.live.strand k = s.live.strand k

/-- Neither a core's alcove nor its hall holds a line that has still to be written back. -/
def CleanAt (s : State) (n : Nat) : Prop :=
  (∀ l ∈ (s.core n).alcove, l.st ≠ .dirty ∧ l.st ≠ .draining) ∧
  ∀ l ∈ (s.cluster (coreCluster n)).hall, l.st ≠ .dirty ∧ l.st ≠ .draining

/-- No line of the acting core or of its hall has still to be written back, so that no instruction needs to write one
back. -/
def CleanLines (s : State) : Prop := CleanAt s s.issue.core

/-- No line of the acting core's alcove drains for a publication. -/
def NoDrains (s : State) : Prop := ∀ l ∈ s.live.alcove, l.forPub = false

/-- Nothing but the tile lines of the acting core and of its hall may differ. -/
def LinesKept (s t : State) : Prop :=
  { t with cores := s.cores, clusters := s.clusters } = s ∧ (∀ n, n ≠ s.issue.core → t.core n = s.core n) ∧
  { t.live with alcove := s.live.alcove } = s.live ∧
  (∀ n, n ≠ coreCluster s.issue.core → t.cluster n = s.cluster n) ∧
  { t.cluster (coreCluster s.issue.core) with hall := (s.cluster (coreCluster s.issue.core)).hall } =
    s.cluster (coreCluster s.issue.core)

/-- One of the acting core's tokens took a value; its other tokens and everything else of the cores are as they were. -/
def TokIs (s t : State) (n : Nat) (x : Token) : Prop :=
  t.issue = s.issue ∧ (∀ m, m ≠ s.issue.core → t.core m = s.core m) ∧ { t.live with toks := s.live.toks } = s.live ∧
  t.live.tok n = x ∧ ∀ m, m ≠ n → t.live.tok m = s.live.tok m

/-- A command as it is accepted (R168, R300): who issued it, what it names, and what was read at issue. -/
def CmdOf (s : State) (c : EngineCmd) (op fn : Nat) (tok : BitVec 3) (fe : BitVec 1) (fl : BitVec 6) (scope : BitVec 3)
    (regs : List Word) (block : Block) (recs : List Block) : Prop :=
  c.id = s.nextId ∧ c.core = s.issue.core ∧ c.ctx = s.live.ctx ∧ c.task = s.live.task ∧ c.op = op ∧ c.fn = fn ∧
  c.tok = tok.toNat ∧ c.fe = (fe == 1) ∧ c.flag = fl.toNat ∧ c.scope = scope.toNat ∧ c.regs = regs ∧ c.block = block ∧
  c.recs = recs ∧ c.begun = false ∧ c.done = false ∧ c.failed = false ∧ c.since = s.now

/-- A tile that a list of a hint's tiles names. -/
def named (ts : List (Option (TileKey × Block))) (k : TileKey) : Bool :=
  ts.any fun x => match x with
    | none => false
    | some y => y.1 == k

/-! ### Accumulator instructions in progress -/

/-- A V-private instruction under a true guard (R209, R215): with its registers there, it is held while a cell that it
reads or writes is busy or one that it writes is read by the M bundle of the cycle (R130); else it stands in progress
with the elements that it will write, its sticky bits and its scalar result, whose register waits, and nothing else
changes. -/
def VecStarts (i : Instr) (s : State) (regs : List (BitVec 6)) (reads writes : List (Nat × Nat × Nat))
    (xs : List AccWrite) (f : BitVec 7) (reg : Option (Nat × Word)) : Prop :=
  (∀ n ∈ regs, s.isPending n = false) →
  let waits := cellsMeet (reads ++ writes) (busyForV s) || cellsMeet writes s.issue.mreads
  (waits = true → exec i s = .next (s.setVerdict .held)) ∧
  (waits = false → ∃ t, exec i s = .next t ∧
    CoreKept { s with nextId := s.nextId + 1 } t ∧ t.issue = s.issue ∧
    t.live.vops = s.live.vops ++ [{ id := s.nextId, spans := writes, writes := xs, sticky := f, reg := reg }] ∧
    ({ t.live with vops := s.live.vops } : Core).setStrand s.issue.kind (act s) = s.live ∧
    act t = { act s with pend := (act s).pend ++ reg.toList.map fun x => x.1 })

/-- A V-private instruction that writes lane `j` of `vd` with `f j`, for every lane, and keeps the sticky bits together. -/
def LanesStart (i : Instr) (s : State) (w : VecWord) (reads : List (BitVec 11)) (f : Nat → Nat × BitVec 7) : Prop :=
  VecStarts i s (reads.flatMap opRegs) (reads.flatMap (readSpans w.etype)) (allSpans w.etype w.vd)
    ((List.range (dstLanes w)).map fun j => laneWrite (etWidth w.etype) w.vd j (f j).1)
    ((List.range (dstLanes w)).foldl (fun a j => a ||| (f j).2) 0) none

/-- A region instruction in progress (R206): its cells are busy, the cells that it reads are noted for
the V bundle of the cycle (R130), and nothing else has changed. -/
def RegionStarts (i : Instr) (s : State) (dst src : List (Nat × Nat × Nat)) (xs : List AccWrite) (f : BitVec 7) : Prop :=
  (cellsMeet (dst ++ src) (busyForM s) = true → exec i s = .next (s.setVerdict .held)) ∧
  (cellsMeet (dst ++ src) (busyForM s) = false → ∃ t, exec i s = .next t ∧
    CoreKept { s with nextId := s.nextId + 1 } t ∧ t.issue = { s.issue with mreads := s.issue.mreads ++ src } ∧
    t.live = { s.live with mops := s.live.mops ++ [{ id := s.nextId, spans := dst, writes := xs, sticky := f, reg := none }] })

/-- A piece of an accumulator write that lies within one cell of the file (R131, R132). -/
def InCell (x : AccWrite) : Prop := 0 < x.width ∧ x.bit % 32 + x.width ≤ 32 ∧ x.bit < 16384

/-- Two pieces that share no bit. -/
def Apart (x y : AccWrite) : Prop := x.row ≠ y.row ∨ x.bit + x.width ≤ y.bit ∨ y.bit + y.width ≤ x.bit

/-! ### Events -/

/-- Every byte of memory reads as it did. -/
def MemKept (s t : State) : Prop := ∀ a, readByte t.mem a = readByte s.mem a

/-- Every strand of every core, its registers with it, is as it was. -/
def AllStrands (s t : State) : Prop := ∀ n k, (t.core n).strand k = (s.core n).strand k

/-- One fault record was posted (R268). -/
def Posted (s t : State) (ctx : BitVec 12) (code : Nat) (unit val : Word) : Prop :=
  ∃ r, t.posts = s.posts ++ [r] ∧ r.code.toNat = code ∧ r.reason = 0 ∧ r.ctx = ctx ∧ r.unit = unit ∧ r.val = val ∧
    r.time = s.counter

/-- Nothing but one strand of one core may differ. -/
def OneStrand (s t : State) (n : Nat) (k : Kind) : Prop :=
  { t with cores := s.cores } = s ∧ (∀ m, m ≠ n → t.core m = s.core m) ∧
  (t.core n).setStrand k ((s.core n).strand k) = s.core n

/-- A strand's head raised a trap (R17, R121, R124, R125): with a handler the strand enters it, the address of its head
and cause and value saved; a strand that is in its handler raises the double-trap fault, one without a handler the
no-handler fault, and it stops. Nothing else differs but lines that the fetch has cached, and the core's tokens. -/
def HeadTraps (s t : State) (n : Nat) (k : Kind) (code : Nat) (tval : Word) : Prop :=
  let st := (s.core n).strand k
  { t with cores := s.cores, posts := s.posts } = s ∧ (∀ m, m ≠ n → t.core m = s.core m) ∧
  { (t.core n).setStrand k st with toks := (s.core n).toks } = s.core n ∧
  ∃ ic,
    (st.mode ≠ .trapped → st.trapvec ≠ 0 → t.posts = s.posts ∧ (t.core n).strand k =
      { st with icache := ic, epc := st.pc, cause := causeWord 0 false code, tval := tval, mode := .trapped,
                pc := st.trapvec, joinSince := none, fetchSince := none }) ∧
    (st.mode = .trapped → Posted s t (s.core n).ctx 4 (strandId s n k) (BitVec.ofNat 64 code) ∧
      (t.core n).strand k = ({ st with icache := ic } : Strand).stop) ∧
    (st.mode ≠ .trapped → st.trapvec = 0 → Posted s t (s.core n).ctx 5 (strandId s n k) (BitVec.ofNat 64 code) ∧
      (t.core n).strand k = ({ st with icache := ic } : Strand).stop)

/-- A core's flag and token after a command of its task completes (R116, R301): the token falls by one, the flag that
the command names rises by one, and nothing else of any core differs. -/
def CmdEnds (s t : State) (c : EngineCmd) : Prop :=
  (∀ m, m ≠ c.core → t.core m = s.core m) ∧
  { t.core c.core with toks := (s.core c.core).toks, flags := (s.core c.core).flags } = s.core c.core ∧
  (∀ i, (t.core c.core).tok i = if i = c.tok then ((s.core c.core).tok i).complete else (s.core c.core).tok i) ∧
  ∀ i, (t.core c.core).flag i =
    if c.fe = true ∧ i = c.flag then (s.core c.core).flag i + 1 else (s.core c.core).flag i

/-- A page of a cluster's TLB that lets a context write at an address. -/
def MayWrite (s : State) (cl : Nat) (ctx : BitVec 12) (va : Nat) : Prop :=
  ∃ e, tlbHit s cl ctx va = some e ∧ e.leaf.getLsbD 3 = true

end Sys2Proof
end

