-- ==== Sys2Proof/Certificates/Slice0/Obligations.lean ====
section
/-! DEFINITION. The statements for the provers, each a proposition of its own; its docstring names the rules of the
spec that it formalises. -/

open Sys2Proof Sys2Proof.Machine

/-- Every scalar arithmetic instruction writes the result of R88 (R88). -/
def Obligations.ScalarResults : Prop :=
  ∀ (s : State) (g rd ra rb amt : BitVec 6) (imm : BitVec 32),
    (Runs s g [rd, ra, rb] →
      GivesReg (.add g rd ra rb) s rd (s.rd ra + s.rd rb) ∧ GivesReg (.sub g rd ra rb) s rd (s.rd ra - s.rd rb) ∧
      GivesReg (.mul g rd ra rb) s rd (s.rd ra * s.rd rb) ∧
      GivesReg (.mulh g rd ra rb) s rd (((s.rd ra).signExtend 128 * (s.rd rb).signExtend 128).extractLsb' 64 64) ∧
      GivesReg (.and g rd ra rb) s rd (s.rd ra &&& s.rd rb) ∧ GivesReg (.or g rd ra rb) s rd (s.rd ra ||| s.rd rb) ∧
      GivesReg (.xor g rd ra rb) s rd (s.rd ra ^^^ s.rd rb) ∧ GivesReg (.andn g rd ra rb) s rd (s.rd ra &&& ~~~s.rd rb) ∧
      GivesReg (.shl g rd ra rb) s rd (s.rd ra <<< (s.rd rb).extractLsb' 0 6) ∧
      GivesReg (.shr g rd ra rb) s rd (s.rd ra >>> (s.rd rb).extractLsb' 0 6) ∧
      GivesReg (.sar g rd ra rb) s rd ((s.rd ra).sshiftRight' ((s.rd rb).extractLsb' 0 6)) ∧
      GivesReg (.ror g rd ra rb) s rd ((s.rd ra).rotateRight ((s.rd rb).extractLsb' 0 6).toNat) ∧
      GivesReg (.min g rd ra rb) s rd (if (s.rd ra).slt (s.rd rb) then s.rd ra else s.rd rb) ∧
      GivesReg (.max g rd ra rb) s rd (if (s.rd ra).slt (s.rd rb) then s.rd rb else s.rd ra) ∧
      GivesReg (.minu g rd ra rb) s rd (if (s.rd ra).ult (s.rd rb) then s.rd ra else s.rd rb) ∧
      GivesReg (.maxu g rd ra rb) s rd (if (s.rd ra).ult (s.rd rb) then s.rd rb else s.rd ra) ∧
      (s.rd rb ≠ 0 →
        GivesReg (.div g rd ra rb) s rd ((s.rd ra).sdiv (s.rd rb)) ∧ GivesReg (.rem g rd ra rb) s rd ((s.rd ra).srem (s.rd rb)) ∧
        GivesReg (.divu g rd ra rb) s rd ((s.rd ra).udiv (s.rd rb)) ∧ GivesReg (.remu g rd ra rb) s rd ((s.rd ra).umod (s.rd rb))) ∧
      GivesReg (.lea1 g rd ra rb) s rd (s.rd ra + s.rd rb * 1) ∧ GivesReg (.lea2 g rd ra rb) s rd (s.rd ra + s.rd rb * 2) ∧
      GivesReg (.lea4 g rd ra rb) s rd (s.rd ra + s.rd rb * 4) ∧ GivesReg (.lea8 g rd ra rb) s rd (s.rd ra + s.rd rb * 8)) ∧
    (Runs s g [rd, ra] →
      GivesReg (.addi g rd ra imm) s rd (s.rd ra + imm.signExtend 64) ∧ GivesReg (.andi g rd ra imm) s rd (s.rd ra &&& imm.signExtend 64) ∧
      GivesReg (.ori g rd ra imm) s rd (s.rd ra ||| imm.signExtend 64) ∧ GivesReg (.xori g rd ra imm) s rd (s.rd ra ^^^ imm.signExtend 64) ∧
      GivesReg (.shli g rd ra amt) s rd (s.rd ra <<< amt) ∧ GivesReg (.shri g rd ra amt) s rd (s.rd ra >>> amt) ∧
      GivesReg (.sari g rd ra amt) s rd ((s.rd ra).sshiftRight' amt) ∧ GivesReg (.rori g rd ra amt) s rd ((s.rd ra).rotateRight amt.toNat) ∧
      GivesReg (.sext g rd ra 0) s rd (((s.rd ra).extractLsb' 0 8).signExtend 64) ∧
      GivesReg (.sext g rd ra 1) s rd (((s.rd ra).extractLsb' 0 16).signExtend 64) ∧
      GivesReg (.sext g rd ra 2) s rd (((s.rd ra).extractLsb' 0 32).signExtend 64) ∧
      GivesReg (.zext g rd ra 0) s rd (((s.rd ra).extractLsb' 0 8).zeroExtend 64) ∧
      GivesReg (.zext g rd ra 1) s rd (((s.rd ra).extractLsb' 0 16).zeroExtend 64) ∧
      GivesReg (.zext g rd ra 2) s rd (((s.rd ra).extractLsb' 0 32).zeroExtend 64) ∧
      (∃ n, n ≤ 64 ∧ GivesReg (.clz g rd ra) s rd (BitVec.ofNat 64 n) ∧ (∀ i, 64 - n ≤ i → (s.rd ra).getLsbD i = false) ∧
        (n < 64 → (s.rd ra).getLsbD (63 - n) = true)) ∧
      GivesReg (.popc g rd ra) s rd (BitVec.ofNat 64 ((List.finRange 64).filter fun i => (s.rd ra).getLsb i).length)) ∧
    (Runs s g [rd] →
      GivesReg (.li g rd imm) s rd (imm.signExtend 64) ∧ GivesReg (.lih g rd imm) s rd (imm ++ (s.rd rd).extractLsb' 0 32))

/-- Division never traps and sets no flag; its corner results (R89). -/
def Obligations.DivisionCorners : Prop :=
  ∀ (s : State) (g rd ra rb : BitVec 6), Runs s g [rd, ra, rb] →
    (∃ x y z w, GivesReg (.div g rd ra rb) s rd x ∧ GivesReg (.divu g rd ra rb) s rd y ∧ GivesReg (.rem g rd ra rb) s rd z ∧
      GivesReg (.remu g rd ra rb) s rd w) ∧
    (s.rd rb = 0 →
      GivesReg (.div g rd ra rb) s rd 0xFFFF_FFFF_FFFF_FFFF#64 ∧ GivesReg (.divu g rd ra rb) s rd (BitVec.ofNat 64 (2 ^ 64 - 1)) ∧
      GivesReg (.rem g rd ra rb) s rd (s.rd ra) ∧ GivesReg (.remu g rd ra rb) s rd (s.rd ra)) ∧
    (s.rd ra = BitVec.intMin 64 → s.rd rb = -1 →
      GivesReg (.div g rd ra rb) s rd (BitVec.intMin 64) ∧ GivesReg (.rem g rd ra rb) s rd 0)

/-- Every comparison and predicate instruction writes the predicate of R91 (R91). -/
def Obligations.PredicateResults : Prop :=
  ∀ (s : State) (g pd ra rb : BitVec 6) (imm : BitVec 32),
    (Runs s g [ra, rb] →
      GivesPred (.cmpeq g pd ra rb) s pd (decide (s.rd ra = s.rd rb)) ∧ GivesPred (.cmpne g pd ra rb) s pd (decide (s.rd ra ≠ s.rd rb)) ∧
      GivesPred (.cmplt g pd ra rb) s pd ((s.rd ra).slt (s.rd rb)) ∧ GivesPred (.cmpltu g pd ra rb) s pd ((s.rd ra).ult (s.rd rb)) ∧
      GivesPred (.cmpge g pd ra rb) s pd (!(s.rd ra).slt (s.rd rb)) ∧ GivesPred (.cmpgeu g pd ra rb) s pd (!(s.rd ra).ult (s.rd rb)) ∧
      GivesPred (.tst g pd ra rb) s pd (decide (s.rd ra &&& s.rd rb ≠ 0))) ∧
    (Runs s g [ra] →
      GivesPred (.cmpeqi g pd ra imm) s pd (decide (s.rd ra = imm.signExtend 64)) ∧
      GivesPred (.cmplti g pd ra imm) s pd ((s.rd ra).slt (imm.signExtend 64)) ∧
      GivesPred (.cmpltui g pd ra imm) s pd ((s.rd ra).ult (imm.signExtend 64)) ∧
      GivesPred (.cmpgei g pd ra imm) s pd (!(s.rd ra).slt (imm.signExtend 64))) ∧
    (Runs s g [] →
      GivesPred (.pand g pd ra rb) s pd (s.rdPred ra && s.rdPred rb) ∧ GivesPred (.por g pd ra rb) s pd (s.rdPred ra || s.rdPred rb) ∧
      GivesPred (.pxor g pd ra rb) s pd (s.rdPred ra != s.rdPred rb) ∧ GivesPred (.pandn g pd ra rb) s pd (s.rdPred ra && !s.rdPred rb) ∧
      GivesPred (.pnot g pd ra) s pd (!s.rdPred ra) ∧ GivesPred (.pmov g pd ra) s pd (s.rdPred ra) ∧
      GivesPred (.pset g pd) s pd true ∧ GivesPred (.pclr g pd) s pd false)

/-- An instruction whose guard predicate reads 0 has no effect at all (R10). -/
def Obligations.GuardOffNoEffect : Prop :=
  ∀ (s : State) (i : Instr) (w : Word32) (ws : List Word32),
    encode i = w :: ws → s.rdPred (fGuard w) = false → exec i s = .next s

/-- NOP, HALT, BR, CALL, JR, CALLR and RET complete as R73, R80 and R85 say, and trap on a bad target (R17, R73, R80,
R85, R122). -/
def Obligations.TransferResults : Prop :=
  (∀ (s : State) (g rd ra : BitVec 6) (off : BitVec 32),
    exec (.nop g) s = .next s ∧
    (Runs s g [] →
      ∃ t, exec (.halt g) s = .next t ∧ StrandKept s t ∧ act t = { act s with pc := s.nextPc, mode := .halted }) ∧
    (let x := s.issue.base + off.signExtend 64
     pcOk x = true →
      (Runs s g [] → ∃ u t, exec (.br g off) s = .next t ∧ StrandKept s u ∧ u.issue = s.issue ∧
        act u = (if insideLoop s.issue.base s.pre then { act s with loops := (leaveLoops x 5 s.pre (act s)).loops } else act s) ∧
        Jumped u t x) ∧
      (Runs s g [rd] → ∃ u t, exec (.call g rd off) s = .next t ∧ RegWritten s u (destReg s rd) s.nextPc ∧ Jumped u t x)) ∧
    (let x := s.rd ra
     pcOk x = true →
      (Runs s g [ra] → ∃ u t, exec (.jr g ra) s = .next t ∧ StrandKept s u ∧ u.issue = s.issue ∧
        act u = (if insideLoop s.issue.base s.pre then { act s with loops := (leaveLoops x 5 s.pre (act s)).loops } else act s) ∧
        Jumped u t x) ∧
      (Runs s g [rd, ra] → ∃ u t, exec (.callr g rd ra) s = .next t ∧ RegWritten s u (destReg s rd) s.nextPc ∧ Jumped u t x) ∧
      (Runs s g [ra] → ∃ t, exec (.ret g ra) s = .next t ∧ Jumped s t x))) ∧
  (∀ (s : State) (g rd ra : BitVec 6) (off : BitVec 32) (code : Nat),
    (let x := s.issue.base + off.signExtend 64
     code = (if x.extractLsb' 0 2 ≠ 0 then 1 else 2) → pcOk x = false →
      (Runs s g [] → TrapsWith (.br g off) s code x) ∧ (Runs s g [rd] → TrapsWith (.call g rd off) s code x)) ∧
    (let x := s.rd ra
     code = (if x.extractLsb' 0 2 ≠ 0 then 1 else 2) → pcOk x = false →
      (Runs s g [ra] → TrapsWith (.jr g ra) s code x) ∧ (Runs s g [rd, ra] → TrapsWith (.callr g rd ra) s code x) ∧
      (Runs s g [ra] → TrapsWith (.ret g ra) s code x)))

/-- A taken BR or JR ends exactly the innermost levels whose range does not contain its target (R85). -/
def Obligations.LoopsLeft : Prop :=
  ∀ (q st : Strand) (x : Word) (n : Nat), n < 4 →
    let out := fun m => ¬((q.loop m).start ≤ x ∧ x < (q.loop m).endAddr)
    let r := leaveLoops x 5 q st
    { r with loops := st.loops } = st ∧
    ((n < q.loopDepth ∧ ∀ m, n ≤ m → m < q.loopDepth → out m) →
      (r.loop n).act = false ∧ (r.loop n).start = (st.loop n).start ∧ (r.loop n).count = (st.loop n).count ∧
      ∀ j, j ≠ 63 → (r.loop n).endReg.getLsbD j = (st.loop n).endReg.getLsbD j) ∧
    (¬(n < q.loopDepth ∧ ∀ m, n ≤ m → m < q.loopDepth → out m) → r.loop n = st.loop n)

/-- The loop instructions set up the next free level, skip a body of zero iterations, or trap at a fifth level (R82,
R83, R86). -/
def Obligations.LoopSetup : Prop :=
  (∀ (s : State) (g ra : BitVec 6) (n12 : BitVec 12) (stg : BitVec 4) (blen : BitVec 24),
    let start := s.nextPc
    let e := start + 4 * blen.zeroExtend 64
    let plain := fun (i : Instr) (n : Nat) =>
      (n = 0 → ∃ t, exec i s = .next t ∧ Jumped s t (e &&& pcMask)) ∧
      (n ≠ 0 → s.pre.loopDepth < 4 → ∃ u t, exec i s = .next t ∧ StrandKept s u ∧ u.issue = s.issue ∧ Jumped u t start ∧
        { act u with loops := (act s).loops } = act s ∧
        (∀ m, m ≠ s.pre.loopDepth → (act u).loop m = (act s).loop m) ∧
        (let l := (act u).loop s.pre.loopDepth
         l.start = start ∧ l.endAddr = e &&& 0x000F_FFFF_FFFF_FFFC#64 ∧ l.act = true ∧ l.pipe = false ∧ l.stg = ((act s).loop s.pre.loopDepth).stg ∧
         l.count = BitVec.ofNat 64 (n - 1)))
    let piped := fun (i : Instr) (n : Nat) =>
      (n = 0 → ∃ t, exec i s = .next t ∧ Jumped s t (e &&& pcMask)) ∧
      (n ≠ 0 → s.pre.loopDepth < 4 → ∃ u t, exec i s = .next t ∧ StrandKept s u ∧ u.issue = s.issue ∧ Jumped u t start ∧
        { act u with loops := (act s).loops, preds := (act s).preds } = act s ∧
        (∀ m, m ≠ s.pre.loopDepth → (act u).loop m = (act s).loop m) ∧
        (∀ j : BitVec 6, ({ act u with pbase := s.pre.pbase } : Strand).pred j =
          if j.toNat < 48 then (act s).pred j else j == 48) ∧
        (let l := (act u).loop s.pre.loopDepth
         l.start = start ∧ l.endAddr = e &&& 0x000F_FFFF_FFFF_FFFC#64 ∧ l.act = true ∧ l.pipe = true ∧ l.stg = stg.toNat ∧
         l.count = BitVec.ofNat 64 (min (n + (stg.toNat + 1) - 2) (2 ^ 64 - 1))))
    (Runs s g [ra] → plain (.loop g ra blen) (s.rd ra).toNat) ∧ (Runs s g [] → plain (.loopi g n12 blen) n12.toNat) ∧
    (Runs s g [ra] → piped (.loopp g ra stg blen) (s.rd ra).toNat) ∧ (Runs s g [] → piped (.looppi g n12 stg blen) n12.toNat)) ∧
  (∀ (s : State) (g ra : BitVec 6) (n : BitVec 12) (stg : BitVec 4) (blen : BitVec 24), s.pre.loopDepth = 4 →
    (Runs s g [ra] → s.rd ra ≠ 0 → TrapsWith (.loop g ra blen) s 5 0 ∧ TrapsWith (.loopp g ra stg blen) s 5 0) ∧
    (Runs s g [] → n ≠ 0 → TrapsWith (.loopi g n blen) s 5 0 ∧ TrapsWith (.looppi g n stg blen) s 5 0))

/-- The loop-back check of R84 on the innermost level (R84, R11). -/
def Obligations.LoopBack : Prop :=
  ∀ (q st : Strand) (base next : Word) (d fuel : Nat), q.loopDepth = d + 1 →
    let l := q.loop d
    let here := l.start ≤ base ∧ base < l.endAddr ∧ next = l.endAddr
    let r := loopBack base next (fuel + 1) q st
    (here → l.count ≠ 0 → r.pc = l.start ∧ r.loop d = { st.loop d with count := l.count - 1 } ∧
      (∀ m, m ≠ d → r.loop m = st.loop m) ∧
      (l.pipe = false → { r with pc := st.pc, loops := st.loops } = st) ∧
      (l.pipe = true → r.sbase = st.sbase - 1 ∧ r.pbase = st.pbase - 1 ∧ r.pred 48 = decide (l.stg ≤ (l.count - 1).toNat) ∧
        { r with pc := st.pc, loops := st.loops, sbase := st.sbase, pbase := st.pbase, preds := st.preds } = st ∧
        ∀ j : BitVec 6, j ≠ 48 → r.pred j = st.rotate.pred j)) ∧
    (here → l.count = 0 →
      r = loopBack base next fuel (q.setLoop d { l with endReg := l.endReg &&& 0x7FFF_FFFF_FFFF_FFFF#64 })
        ((if l.pipe then st.rotate else st).setLoop d
          { st.loop d with endReg := (st.loop d).endReg &&& 0x7FFF_FFFF_FFFF_FFFF#64 })) ∧
    (¬here → r = { st with pc := next })

/-- What taking a trap saves and where it goes, and what returning from it restores (R77, R121, R124, R125). -/
def Obligations.TrapEntryAndReturn : Prop :=
  ∀ (s : State) (n : Nat) (k : Kind) (code word : Nat) (tval epcv base x : Word) (post : Bool),
    code < 64 → word < 8 →
    let st := (s.core n).strand k
    let t := trapEntry s n k code tval epcv base word post
    (st.mode ≠ .trapped → st.trapvec ≠ 0 →
      t = s.modStrand n k (fun st => { st with
        epc := epcv, cause := (t.core n |>.strand k).cause, tval := tval, mode := .trapped, pc := st.trapvec,
        joinSince := none, fetchSince := none }) ∧
      (let c := (t.core n |>.strand k).cause
       c.extractLsb' 0 6 = BitVec.ofNat 6 code ∧ c.extractLsb' 6 2 = 0 ∧ c.getLsbD 8 = post ∧
       c.extractLsb' 9 3 = BitVec.ofNat 3 word ∧ c.extractLsb' 12 52 = 0)) ∧
    (st.mode = .trapped →
      t.posts = s.posts ++ [{ code := 4, reason := 0, more := 0, ctx := (s.core n).ctx, unit := strandId s n k, pc := epcv,
                              val := BitVec.ofNat 64 code, time := s.counter, fqw := 0 }] ∧
      (t.core n).strand k = st.stop) ∧
    (st.mode ≠ .trapped → st.trapvec = 0 →
      t.posts = s.posts ++ [{ code := 5, reason := 0, more := 0, ctx := (s.core n).ctx, unit := strandId s n k, pc := base,
                              val := BitVec.ofNat 64 code, time := s.counter, fqw := 0 }] ∧
      (t.core n).strand k = st.stop) ∧
    ((trapReturn s n k x).core n).strand k = { st with pc := x, mode := .running }

/-- BRK, TRAP and ERET (R73, R77, R78, R40). -/
def Obligations.TrapInstructions : Prop :=
  ∀ (s : State) (g : BitVec 6) (code : BitVec 12), Runs s g [] →
    (debugBreaks s = false → TrapsWith (.brk g code) s 3 (code.zeroExtend 64)) ∧
    ((act s).mode ≠ .trapped → s.pre.trapvec ≠ 0 → ∃ t, exec (.trap g code) s = .next t ∧ StrandKept s t ∧ t.issue = { s.issue with taken := true } ∧
      (let u := loopBack s.issue.base s.nextPc 5 s.pre (act s)
       act t = { u with epc := u.pc, cause := causeWord s.issue.pos true 4, tval := code.zeroExtend 64, mode := .trapped,
                        pc := s.pre.trapvec, joinSince := none, fetchSince := none })) ∧
    (s.pre.mode = .trapped → ∃ t, exec (.eret g) s = .next t ∧ StrandKept s t ∧ t.issue = { s.issue with taken := true } ∧
      act t = { act s with pc := s.pre.epc, mode := .running }) ∧
    (s.pre.mode ≠ .trapped → TrapsWith (.eret g) s 0
      (BitVec.ofNat 64 (s.issue.pos % 8 * 2 ^ 32) ||| (((1#6) ++ g ++ 0#18 ++ (1#2) : BitVec (6 + 6 + 18 + 2)).zeroExtend 64)))

/-- Decoding the words of any sequence of well-formed instructions gives the instructions back (R28, R29, R30, R31,
R33, R34, R35, R36, R37, R38). -/
def Obligations.EncodeDecode : Prop :=
  ∀ (k : Kind) (pos : Nat) (is : List Instr),
    (∀ i ∈ is, k ∈ i.kinds ∧ i.wf k = true) →
    ∃ xs, decodeItems k pos (is.flatMap encode) = .ok xs ∧ xs.map Prod.snd = is

/-- Words written out from the encoding tables decode to the instructions they stand for (R29, R30, R31, R33, R34,
R92, R154). -/
def Obligations.DecodeWords : Prop :=
  decodePair .c 0x10000013#32 0x20000004#32 = some (.looppi 0 4 2 4) ∧
    decodePair .c 0x54050048#32 0 = some (.csrr 0 20 0x012) ∧
    decodePair .c 0x04000001#32 0 = some (.eret 0) ∧
    decodePair .a 0x4C0C4500#32 0 = some (.qmovPush 0 12 1 5) ∧
    decodePair .a 0x8001C203#32 0x10#32 = some (.ld64 0 7 2 0x10) ∧
    decodePair .a 0xC000C400#32 0x00092800#32 = some (.selTopk 0 { tok := 3, sa := 4, fe := 1, fl := 9, scope := 2 }) ∧
    decodePair .a 0xFC008104#32 0 = some (.fencex 0 2 1 1) ∧
    decodePair .c 0x8C000500#32 0 = some (.fpush 0 5) ∧
    decodePair .c 0x9401C280#32 0 = some (.gbar 0 7 2 4) ∧
    decodePair .m 0x8004310D#32 0x20040400#32 =
      some (.cube 0 { msel := 1, nsel := 3, pa := 2, pb := 3, gor := 1, pg := 4, row0 := 0, col0 := 64, amode := 1 }) ∧
    decodePair .m 0x88001001#32 0x00808000#32 = some (.ast 0 0 16 0 0 0 0 1 1) ∧
    decodePair .v 0x80000A03#32 0x20A32400#32 =
      some (.vfma 0 { vd := 5, etype := 0, rm := 0, ftz := 0, va := 0x105, vb := 0xC9, xfn := 0 })

/-- A step in which one strand issues runs exec of the instruction that the words at its program counter decode to
(R8, R16, R20, R25, R26, R150). -/
def Obligations.StepRunsDecoded : Prop :=
  (∀ (s : State) (n : Nat) (st : Strand) (va pa : Nat) (leaf : Word) (bits : Nat),
    (∀ x ∈ st.icache, x.1 ≠ va / 64) → translate s (coreCluster n) (s.core n).ctx va .fetch = .ok pa leaf bits →
    va % 4 = 0 → pa % 64 = va % 64 → s.hist = [] → s.poison = [] → (∀ x ∈ (s.core n).stores, x.atCore = false) →
    unreachable s pa = false → unreachable s (pa / 64 * 64) = false →
    ∃ st', fetchWord s n st va = .ok (BitVec.ofNat 32 (leNat (readBytes s.mem pa 4))) st') ∧
  (∀ (s : State) (n dt : Nat) (k : Kind) (rest : List Turn) (hdr : Word32) (ws : List Word32) (st1 st2 : Strand)
      (h : Header) (i : Instr) (t : State),
    s.agenda = .issue n (BitVec.ofNat 4 (2 ^ k.code)) dt :: rest → n < 640 →
    let s1 := openCycle { s with agenda := rest } n (BitVec.ofNat 4 (2 ^ k.code)) dt
    let st := (s1.core n).strand k
    let s2 := s1.modStrand n k fun x => { x with icache := st2.icache }
    mayIssue s1 n k = true → traceStall s1 n k = false →
    fetchWord s1 n st st.pc.toNat = .ok hdr st1 →
    fetchWords s1 n (st.pc.toNat + 4) (decodeHeader hdr).words st1 = ⟨ws, st2, none⟩ →
    decodeBundle k hdr ws = .ok ⟨h, [(1, i)]⟩ →
    h.sync = 0 → h.we = 0 → h.tokmask = 0 →
    (∀ c, s1.ctx? (s1.core n).ctx = some c → breakpointAt c k st.pc = false) →
    exec i ((openBundle s2 (s1.core n) n k ⟨h, [(1, i)]⟩).atPos 1) = .next t → t.issue.verdict = .performing →
    t.issue.paused = false →
    step s = .next (afterTurn { countHead (advance t) n k 0 with issue := {} }))

/-- A head bundle that fails the decode checks raises the illegal-instruction trap with its word in the trap value
(R39, R40, R122, R123). -/
def Obligations.IllegalBundleTraps : Prop :=
  ∀ (s : State) (n : Nat) (k : Kind) (hdr : Word32) (ws : List Word32) (st1 st2 : Strand) (bad : Option Fetched) (p : Nat)
    (w : Word32),
    let st := (s.core n).strand k
    let trap := fun (u : State) (p : Nat) (w : Word32) =>
      Attempt.settled (trapEntry u n k 0 (BitVec.ofNat 64 (p % 8 * 2 ^ 32) ||| w.zeroExtend 64) st.pc st.pc p false)
    traceStall s n k = false → fetchWord s n st st.pc.toNat = .ok hdr st1 →
    (headerOk (decodeHeader hdr) = false → attempt s (s.core n) n k = trap s 0 hdr) ∧
    (headerOk (decodeHeader hdr) = true →
      fetchWords s n (st.pc.toNat + 4) (decodeHeader hdr).words st1 = ⟨ws, st2, bad⟩ →
      let u := s.modStrand n k fun x => { x with icache := st2.icache }
      (bad = none → decodeBundle k hdr ws = .error (.illegal p w) → attempt s (s.core n) n k = trap u p w) ∧
      (bad.isSome = true → isBrkWord (ws.headD 0) = false → itemsIllegal k 1 ws = some (p, w) →
        attempt s (s.core n) n k = trap u p w))

/-- What reset leaves: no context, launch or task, every strand idle, the residency limit 0x400, unclaimed slot
fields, zero counts (R295, R308, R323, R333, R370). -/
def Obligations.ResetState : Prop :=
  State.reset.ctxs = [] ∧ State.reset.launches = [] ∧ State.reset.tasks = [] ∧ State.reset.posts = [] ∧
    State.reset.swaps = 0 ∧ State.reset.now = 0 ∧
    (∀ n k, ((State.reset.core n).strand k).mode = .idle ∧ ((State.reset.core n).strand k).pc = 0 ∧
      ∀ r p, ((State.reset.core n).strand k).reg r = 0 ∧ (p ≠ 0 → ((State.reset.core n).strand k).pred p = false)) ∧
    (∀ n row bit w, accBits (State.reset.core n).acc row bit w = 0) ∧
    (∀ n f, (State.reset.core n).flag f = 0 ∧ (State.reset.core n).tok f = {} ∧ (State.reset.core n).missLimit = 0x4000) ∧
    (∀ c, (State.reset.cluster c).restime = 0x400 ∧ (State.reset.cluster c).slots = []) ∧
    (∀ d, (State.reset.die d).sessions = []) ∧ State.reset.slotTables = [] ∧
    (∀ a, readByte State.reset.mem a = 0)

/-- Memory stands in its canonical form after reset (18_package_memory.md). -/
def Obligations.InvReset : Prop :=
  Inv State.reset

/-- Every step keeps memory in its canonical form (18_package_memory.md). -/
def Obligations.InvStep : Prop :=
  ∀ s t : State, Inv s → step s = .next t → Inv t

/-- QMOV pushes to every named lane or waits, QMOV pops and QPEEK reads the delivered head, and nothing else changes
(R93, R16, R20, R106). -/
def Obligations.QueueMoves : Prop :=
  ∀ (s : State) (g rd ra : BitVec 6) (cmask : BitVec 4) (prod lane : BitVec 2) (x : Word),
    (Runs s g [ra] → roomFor s (pushKeys s cmask lane) = true →
      ∃ t, exec (.qmovPush g cmask lane ra) s = .next t ∧ CoreKept s t ∧ t.issue = s.issue ∧
        { t.live with lanes := s.live.lanes } = s.live ∧
        ∀ key, t.live.lane key = s.live.lane key ++
          (if key ∈ pushKeys s cmask lane then [{ born := s.now, load := 0, data := some (s.rd ra, s.now) }] else [])) ∧
    (Runs s g [ra] → roomFor s (pushKeys s cmask lane) = false →
      exec (.qmovPush g cmask lane ra) s = .next (s.setVerdict .held)) ∧
    (Runs s g [rd] → laneHead s.live s.now (popKey s prod lane) = some x →
      ∃ u t, exec (.qmovPop g rd prod lane) s = .next t ∧ CoreKept s u ∧ u.issue = s.issue ∧
        { u.live with lanes := s.live.lanes, replay := s.live.replay } = s.live ∧
        u.live.replay = s.live.replay.map (fun p =>
          if prod = 2 ∧ p.since < headBorn s.live (popKey s prod lane) then { p with seenBy := p.seenBy ||| (1#4 <<< s.issue.kind.code) }
          else p) ∧
        u.live.lane (popKey s prod lane) = (s.live.lane (popKey s prod lane)).tail ∧
        (∀ key, key ≠ popKey s prod lane → u.live.lane key = s.live.lane key) ∧ RegWritten u t (destReg s rd) x) ∧
    (Runs s g [rd] → laneHead s.live s.now (popKey s prod lane) = none →
      exec (.qmovPop g rd prod lane) s = .next (s.setVerdict .held)) ∧
    (Runs s g [rd] → laneHead s.issue.pre s.now (popKey s prod lane) = some x → GivesReg (.qpeek g rd prod lane) s rd x) ∧
    (Runs s g [rd] → laneHead s.issue.pre s.now (popKey s prod lane) = none →
      exec (.qpeek g rd prod lane) s = .next (s.setVerdict .held))

/-- FINC, FSET, FADD and FRD: release, one operation on one flag, acquire (R99, R100, R101). -/
def Obligations.FlagResults : Prop :=
  ∀ (s : State) (g fl rd ra : BitVec 6) (scope : BitVec 3) (ord : BitVec 2),
    let waits := ordRelease ord = true ∧ s.issue.kind = .m ∧ s.issue.pre.replay ≠ []
    let n := s.issue.core
    let u := if ordRelease ord then releaseAt s n s.issue.kind scope.toNat else s
    let fin := fun v => if ordAcquire ord then acquireAt v n scope.toNat else v
    let sets := fun (i : Instr) (x : Word32) =>
      ∃ v, exec i s = .next (fin v) ∧ CoreKept u v ∧ v.issue = u.issue ∧ { v.live with flags := u.live.flags } = u.live ∧
        v.live.flag fl.toNat = x ∧ ∀ f, f ≠ fl.toNat → v.live.flag f = u.live.flag f
    (¬waits →
      (Runs s g [] → sets (.finc g fl scope ord) (u.live.flag fl.toNat + 1)) ∧
      (Runs s g [ra] → sets (.fset g fl ra scope ord) ((u.rd ra).extractLsb' 0 32) ∧
        sets (.fadd g fl ra scope ord) (u.live.flag fl.toNat + (u.rd ra).extractLsb' 0 32)) ∧
      (Runs s g [rd] → ∃ v, exec (.frd g rd fl scope ord) s = .next (fin v) ∧
        RegWritten u v (destReg u rd) ((u.issue.pre.flag fl.toNat).zeroExtend 64))) ∧
    (waits →
      (Runs s g [] → exec (.finc g fl scope ord) s = .next (s.setVerdict .held)) ∧
      (Runs s g [ra] → exec (.fset g fl ra scope ord) s = .next (s.setVerdict .held) ∧
        exec (.fadd g fl ra scope ord) s = .next (s.setVerdict .held)) ∧
      (Runs s g [rd] → exec (.frd g rd fl scope ord) s = .next (s.setVerdict .held)))

/-- FENCE, FENCEX and ICSYNC complete once nothing that they wait for is outstanding, with what each does on its paths
(R105, R106, R109, R149, R253). -/
def Obligations.FencesComplete : Prop :=
  ∀ (s : State) (g : BitVec 6) (paths frm dst : BitVec 5) (scope : BitVec 3), Runs s g [] →
    let n := s.issue.core
    let k := s.issue.kind
    let unwritten := fun (l : TileLine) => l.st = .dirty ∨ l.st = .draining
    (fenceWaits s paths = true → exec (.fence g paths scope) s = .next (s.setVerdict .held)) ∧
    (fenceWaits s paths = false → ∃ t, exec (.fence g paths scope) s = .next t ∧
      (paths.getLsbD 0 = true →
        (t.core n).scache = [] ∧ (∀ l ∈ (t.core n).loads, l.strand ≠ k) ∧
        (2 ≤ scope.toNat → ∀ x ∈ (t.core n).stores, x.strand ≠ k) ∧
        ∀ x ∈ (t.core n).stores, x.strand = k → x.atCore = true) ∧
      (paths.getLsbD 1 = true → 2 ≤ scope.toNat →
        (∀ l ∈ (t.core n).alcove, unwritten l → wroteLine (strandId s n k) l = false) ∧
        (2 < scope.toNat → ∀ l ∈ (t.cluster (coreCluster n)).hall, unwritten l →
          coversWrite (strandId s n k) (s.core n).ctx l = false)) ∧
      (paths = 4 ∨ paths = 8 ∨ paths = 16 → t = s)) ∧
    (fencexWaits s frm = true → exec (.fencex g frm dst scope) s = .next (s.setVerdict .held)) ∧
    (fencexWaits s frm = false → k = .a ∨ k = .c →
      ∃ t, exec (.fencex g frm dst scope) s = .next t ∧ t = fencexEffect s n k frm dst scope.toNat ∧
        (frm.getLsbD 0 = true → (∀ l ∈ (t.core n).loads, l.strand ≠ .a ∧ l.strand ≠ .c) ∧
          (2 ≤ scope.toNat → (t.core n).stores = [])) ∧
        (frm.getLsbD 1 = true → 2 ≤ scope.toNat ∨ dst.getLsbD 0 = true →
          (∀ l ∈ (t.core n).alcove, ¬unwritten l) ∧
          (2 < scope.toNat ∨ dst.getLsbD 0 = true → ∀ l ∈ (t.cluster (coreCluster n)).hall, unwritten l → l.key.ctx ≠ (s.core n).ctx)) ∧
        (dst.getLsbD 0 = true → 2 ≤ scope.toNat ∨ frm.getLsbD 1 = true → (t.core n).scache = []) ∧
        (dst ≠ 1 → frm ≠ 2 →
          (∀ l ∈ (t.core n).alcove, l.st = .clean → recVersioned l.lrec = true) ∧
          ∀ cl ∈ scopeClusters n scope.toNat, ∀ l ∈ (t.cluster cl).hall, l.st = .clean → recVersioned l.lrec = true)) ∧
    (fenceWaits s 5 = true → exec (.icsync g scope) s = .next (s.setVerdict .held)) ∧
    (fenceWaits s 5 = false → ∃ t, exec (.icsync g scope) s = .next t ∧
      (∀ m k, scope ≠ 0 → coreInScope n scope.toNat m = true → ((t.core m).strand k).icache = []) ∧
      (scope = 0 → ((t.core n).strand k).icache = []))

/-- CSRR, CSRW, CSRS and CSRC: the register read, what a write of a strand, core or cluster register leaves, and where
an access waits or is illegal (R3, R12, R13, R18, R19, R39, R103, R142, R244, R281). -/
def Obligations.CsrInstructions : Prop :=
  ∀ (s : State) (g rd rs : BitVec 6) (n : BitVec 12),
    let waits := s.issue.kind = .v ∧ n = 1 ∧ s.issue.pre.vops ≠ []
    (¬waits → Runs s g [rd] → GivesReg (.csrr g rd n) s rd (csrRead s n.toNat)) ∧
    (n.toNat < 0x100 → csrRead s n.toNat = strandCsr s.pre (strandId s s.issue.core s.issue.kind) n.toNat) ∧
    (waits → (Runs s g [rd] → exec (.csrr g rd n) s = .next (s.setVerdict .held)) ∧
      (Runs s g [rs] → exec (.csrw g n rs) s = .next (s.setVerdict .held) ∧
        exec (.csrs g n rs) s = .next (s.setVerdict .held) ∧ exec (.csrc g n rs) s = .next (s.setVerdict .held))) ∧
    (¬waits → Runs s g [rs] →
      let illegal := fun (i : Instr) => TrapsWith i s 0 (illegalTval s.issue.pos ((encode i).headD 0))
      let put := fun (i : Instr) (x : Word) =>
        (csrOwn n.toNat = true ∨ csrShared n.toNat = true → x &&& ~~~(csrMask n.toNat) ≠ 0 → illegal i) ∧
        (csrOwn n.toNat = true → x &&& ~~~(csrMask n.toNat) = 0 →
          ∃ t, exec i s = .next t ∧ StrandKept s t ∧ t.issue = s.issue ∧ act t = writeStrandCsr s.issue.raised (act s) n.toNat x ∧
            (∀ id, strandCsr (act t) id n.toNat = if n = 1 then x ||| s.issue.raised.zeroExtend 64 else x) ∧ (act t).regs = (act s).regs ∧ (act t).preds = (act s).preds ∧
            ∀ id m, csrOwn m.toNat = true → m ≠ n → strandCsr (act t) id (m : BitVec 12).toNat = strandCsr (act s) id m.toNat) ∧
        (∀ j : Nat, j < 32 → n.toNat = 0x100 + j → x &&& ~~~(0xF#64) = 0 →
          ∃ t, exec i s = .next t ∧ CoreKept s t ∧ t.issue = s.issue ∧
            { t.live with joins := s.live.joins, pairs := s.live.pairs } = s.live ∧
            t.live.joinMask j = x.extractLsb' 0 4 ∧ tget 0 t.live.pairs j = 0 ∧
            ∀ m, m ≠ j → t.live.joinMask m = s.live.joinMask m ∧ tget 0 t.live.pairs m = tget 0 s.live.pairs m) ∧
        (n = 0x140 → x.extractLsb' 48 16 = 0 →
          ∃ t, exec i s = .next t ∧ CoreKept s t ∧ t.issue = s.issue ∧
            t.live = { s.live with missLimit := x.extractLsb' 24 24, joinLimit := x.extractLsb' 0 24, wdSince := s.now }) ∧
        (n = 0x163 → x.extractLsb' 16 48 = 0 →
          ∃ t, exec i s = .next t ∧ CoreKept s t ∧ t.issue = s.issue ∧ t.live = { s.live with pgrace := x.extractLsb' 0 16 }) ∧
        (∀ j : Nat, j < 4 → n.toNat = 0x410 + 2 * j ∨ n.toNat = 0x411 + 2 * j → x &&& ~~~(csrMask n.toNat) = 0 →
          let cl := coreCluster s.issue.core
          let sel := tget 0 (s.cluster cl).retainSel j
          let rng := tget 0 (s.cluster cl).retainRng j
          let rngBad := fun (y : Word) => (y.extractLsb' 44 20).toNat < (y.extractLsb' 24 20).toNat
          let others := (((List.range 4).filter fun i => i != j).map fun i => selWays (tget 0 (s.cluster cl).retainSel i)).sum
          let foreign := sel.getLsbD 63 = true ∧ sel.extractLsb' 36 12 ≠ s.live.ctx
          let bad := if n.toNat % 2 = 0 then
              foreign ∨ (x.getLsbD 63 = true ∧ (x.extractLsb' 48 8 = 0 ∨ rngBad rng)) ∨ 192 < others + selWays x
            else foreign ∨ (sel.getLsbD 63 = true ∧ rngBad x)
          (bad → illegal i) ∧
          (¬bad → ∃ t, exec i s = .next t ∧ { t with clusters := s.clusters } = s ∧ (∀ c, c ≠ cl → t.cluster c = s.cluster c) ∧
            (n.toNat % 2 = 0 →
              { t.cluster cl with retainSel := (s.cluster cl).retainSel } = s.cluster cl ∧
              (∀ i, i ≠ j → tget 0 (t.cluster cl).retainSel i = tget 0 (s.cluster cl).retainSel i) ∧
              (let y := tget 0 (t.cluster cl).retainSel j
               y.getLsbD 63 = x.getLsbD 63 ∧ y.extractLsb' 48 8 = x.extractLsb' 48 8 ∧ y.extractLsb' 0 24 = x.extractLsb' 0 24 ∧
               y.extractLsb' 36 12 = if x.getLsbD 63 then s.live.ctx else sel.extractLsb' 36 12)) ∧
            (n.toNat % 2 = 1 →
              { t.cluster cl with retainRng := (s.cluster cl).retainRng } = s.cluster cl ∧
              tget 0 (t.cluster cl).retainRng j = x ∧
              ∀ i, i ≠ j → tget 0 (t.cluster cl).retainRng i = tget 0 (s.cluster cl).retainRng i)))
      put (.csrw g n rs) (s.rd rs) ∧ put (.csrs g n rs) (csrRead s n.toNat ||| s.rd rs) ∧
      put (.csrc g n rs) (csrRead s n.toNat &&& ~~~(s.rd rs))) ∧
    (∀ (k : Kind) (hdr : Word32), headerOk (decodeHeader hdr) = true → (decodeHeader hdr).words = 1 →
      let refused := fun (i : Instr) => decodeBundle k hdr (encode i) = .error (.illegal 1 ((encode i).headD 0))
      (csrKnown n.toNat = false → refused (.csrr g rd n)) ∧
      (csrWritable k n.toNat = false → refused (.csrw g n rs) ∧ refused (.csrs g n rs) ∧ refused (.csrc g n rs)))

/-- LD, LDZ, LDQ and RLDQ issue a load of their width at the address they compute, and complete (R154, R155, R156,
R157, R22). -/
def Obligations.LoadsIssue : Prop :=
  ∀ (s : State) (g rd ra : BitVec 6) (off : BitVec 32) (off24 : BitVec 24) (cmask : BitVec 4) (lane : BitVec 2) (zx acq : BitVec 1)
    (scope : BitVec 3) (pa bits : Nat) (leaf : Word),
    let u := { s with nextId := s.nextId + 1 }
    let ea := s.rd ra + off.signExtend 64
    let maps := fun (ea : Word) (size : Nat) => ea.toNat % size = 0 ∧
      translate s (coreCluster s.issue.core) s.live.ctx ea.toNat .read = .ok pa leaf bits
    let toReg := fun (i : Instr) (size : Nat) (sg : Bool) => maps ea size →
      ∃ t l, exec i s = .next t ∧ CoreKept u t ∧ t.issue = s.issue ∧ t.live.loads = s.live.loads ++ [l] ∧
        l.id = s.nextId ∧ l.use = .reg s.issue.kind (destReg s rd) ∧ l.strand = s.issue.kind ∧ l.pa = pa ∧ l.size = size ∧
        l.signed = sg ∧ l.acq = none ∧
        (act t).pend = (act s).pend ++ (if destReg s rd = 0 then [] else [destReg s rd]) ∧ (act t).regs = (act s).regs
    let qea := s.rd ra + off24.signExtend 64
    let toLanes := fun (i : Instr) (size : Nat) (aq : Option Nat) => maps qea size →
      laneLoads s.live < 64 → laneRooms s (loadKeys cmask lane) = true →
      ∃ t l, exec i s = .next t ∧ CoreKept u t ∧ t.issue = s.issue ∧ t.live.loads = s.live.loads ++ [l] ∧
        l.id = s.nextId ∧ l.use = .lanes ∧ l.pa = pa ∧ l.size = size ∧ l.signed = (zx == 0) ∧ l.acq = aq ∧
        ∀ key, t.live.lane key = s.live.lane key ++
          (if key ∈ loadKeys cmask lane then [{ born := s.now, load := s.nextId, data := none }] else [])
    (Runs s g [rd, ra] →
      toReg (.ld8 g rd ra off) 1 true ∧ toReg (.ld16 g rd ra off) 2 true ∧ toReg (.ld32 g rd ra off) 4 true ∧
      toReg (.ld64 g rd ra off) 8 true ∧ toReg (.ldz8 g rd ra off) 1 false ∧ toReg (.ldz16 g rd ra off) 2 false ∧
      toReg (.ldz32 g rd ra off) 4 false) ∧
    (Runs s g [ra] →
      toLanes (.ldq8 g cmask lane ra zx off24) 1 none ∧ toLanes (.ldq16 g cmask lane ra zx off24) 2 none ∧
      toLanes (.ldq32 g cmask lane ra zx off24) 4 none ∧ toLanes (.ldq64 g cmask lane ra zx off24) 8 none ∧
      (let aq := if acq = 1 then some scope.toNat else none
       toLanes (.rldq8 g cmask lane ra zx off24 acq scope) 1 aq ∧ toLanes (.rldq16 g cmask lane ra zx off24 acq scope) 2 aq ∧
       toLanes (.rldq32 g cmask lane ra zx off24 acq scope) 4 aq ∧ toLanes (.rldq64 g cmask lane ra zx off24 acq scope) 8 aq))

/-- ST issues a store of its width at the address it computes, and no byte of memory changes yet (R154, R155). -/
def Obligations.StoresIssue : Prop :=
  ∀ (s : State) (g ra rs : BitVec 6) (off : BitVec 32) (pa bits : Nat) (leaf : Word), Runs s g [ra, rs] →
    let u := { s with nextId := s.nextId + 1 }
    let ea := s.rd ra + off.signExtend 64
    let stores := fun (i : Instr) (size : Nat) =>
      ea.toNat % size = 0 → translate s (coreCluster s.issue.core) s.live.ctx ea.toNat .write = .ok pa leaf bits →
      ∃ t, exec i s = .next t ∧ CoreKept u t ∧ t.issue = s.issue ∧
        t.live = { s.live with stores := s.live.stores ++
          [{ id := s.nextId, strand := s.issue.kind, pa := pa, bytes := leBytes size (s.rd rs).toNat, z := leafZ leaf,
             atCore := false, pc := s.issue.base, since := s.now }] }
    stores (.st8 g ra rs off) 1 ∧ stores (.st16 g ra rs off) 2 ∧ stores (.st32 g ra rs off) 4 ∧ stores (.st64 g ra rs off) 8

/-- The atomics issue one read-modify-write at their address, after their release, and complete (R158, R159, R160). -/
def Obligations.AtomicsIssue : Prop :=
  ∀ (s : State) (g rd ra rb cmp : BitVec 6) (w un : BitVec 1) (scope : BitVec 3) (ord : BitVec 2) (pa bits : Nat) (leaf : Word),
    let size := if w = 1 then 8 else 4
    let u := if ordRelease ord then releaseAt s s.issue.core s.issue.kind scope.toNat else s
    (s.rd ra).toNat % size = 0 →
    translate s (coreCluster s.issue.core) s.live.ctx (s.rd ra).toNat .both = .ok pa leaf bits →
    let gives := fun (i : Instr) (op : Nat) (sg : Bool) (cm : BitVec 6) =>
      Runs s g [rd, ra, rb, cm] → (memKind s pa ≠ .host ∨ op ≤ 2) →
      ∃ t l, exec i s = .next t ∧ CoreKept { u with nextId := u.nextId + 1 } t ∧
        t.live.loads = u.live.loads ++ [l] ∧ l.id = u.nextId ∧
        l.use = .atomic s.issue.kind (destReg s rd) op sg (s.rd rb) (s.rd cm) ∧ l.strand = s.issue.kind ∧ l.pa = pa ∧
        l.size = size ∧ l.acq = (if ordAcquire ord then some scope.toNat else none)
    gives (.amoAdd g rd ra rb w scope ord) 0 false 0 ∧ gives (.amoSwp g rd ra rb w scope ord) 1 false 0 ∧
    gives (.amoCas g rd ra rb w scope ord cmp) 2 false cmp ∧ gives (.amoAnd g rd ra rb w scope ord) 3 false 0 ∧
    gives (.amoOr g rd ra rb w scope ord) 4 false 0 ∧ gives (.amoXor g rd ra rb w scope ord) 5 false 0 ∧
    gives (.amoMin g rd ra rb w scope ord un) 6 (un == 1) 0 ∧ gives (.amoMax g rd ra rb w scope ord un) 7 (un == 1) 0

/-- Misaligned, unmapped and forbidden scalar accesses trap and change nothing else (R122, R155, R156, R157, R160). -/
def Obligations.ScalarAccessTraps : Prop :=
  ∀ (s : State) (g rd ra rb cmp : BitVec 6) (off : BitVec 32) (off24 : BitVec 24) (cmask : BitVec 4) (lane : BitVec 2)
      (w un zx acq : BitVec 1) (scope : BitVec 3) (ord : BitVec 2),
    let tr := fun (ea : Word) (acc : Access) => translate s (coreCluster s.issue.core) s.live.ctx ea.toNat acc
    let traps := fun (i : Instr) (ea : Word) (size : Nat) (acc : Access) =>
      (ea.toNat % size ≠ 0 → TrapsWith i s 1 ea) ∧
      (ea.toNat % size = 0 → (tr ea acc = .noMap ∨ ∃ e, tr ea acc = .onDemand e) → TrapsWith i s 10 ea) ∧
      (ea.toNat % size = 0 → tr ea acc = .forbidden → TrapsWith i s 11 ea)
    let ea := s.rd ra + off.signExtend 64
    (Runs s g [rd, ra] →
      traps (.ld8 g rd ra off) ea 1 .read ∧ traps (.ld16 g rd ra off) ea 2 .read ∧ traps (.ld32 g rd ra off) ea 4 .read ∧
      traps (.ld64 g rd ra off) ea 8 .read ∧ traps (.ldz8 g rd ra off) ea 1 .read ∧ traps (.ldz16 g rd ra off) ea 2 .read ∧
      traps (.ldz32 g rd ra off) ea 4 .read) ∧
    (Runs s g [ra, rb] →
      traps (.st8 g ra rb off) ea 1 .write ∧ traps (.st16 g ra rb off) ea 2 .write ∧ traps (.st32 g ra rb off) ea 4 .write ∧
      traps (.st64 g ra rb off) ea 8 .write) ∧
    (let amo := fun (i : Instr) (op : Nat) (cm : BitVec 6) => Runs s g [rd, ra, rb, cm] →
      let size := if w = 1 then 8 else 4
      traps i (s.rd ra) size .both ∧
      ((s.rd ra).toNat % size = 0 → 2 < op → ∀ pa leaf bits, tr (s.rd ra) .both = .ok pa leaf bits → memKind s pa = .host →
        TrapsWith i s 11 (s.rd ra))
     amo (.amoAdd g rd ra rb w scope ord) 0 0 ∧ amo (.amoSwp g rd ra rb w scope ord) 1 0 ∧
     amo (.amoCas g rd ra rb w scope ord cmp) 2 cmp ∧ amo (.amoAnd g rd ra rb w scope ord) 3 0 ∧
     amo (.amoOr g rd ra rb w scope ord) 4 0 ∧ amo (.amoXor g rd ra rb w scope ord) 5 0 ∧
     amo (.amoMin g rd ra rb w scope ord un) 6 0 ∧ amo (.amoMax g rd ra rb w scope ord un) 7 0) ∧
    (Runs s g [ra] → laneLoads s.live < 64 → laneRooms s (loadKeys cmask lane) = true → HasHandler s →
      let qea := s.rd ra + off24.signExtend 64
      let trapsOnly := fun (i : Instr) (code : Nat) => ∃ u t, exec i s = .next t ∧ Trapped u t code qea ∧
        CoreKept { s with nextId := s.nextId + 1 } u ∧ u.issue = s.issue ∧ act u = act s ∧
        { u.live with loads := s.live.loads, lanes := s.live.lanes } = s.live
      let fills := fun (i : Instr) (size : Nat) =>
        (qea.toNat % size ≠ 0 → trapsOnly i 1) ∧
        (qea.toNat % size = 0 → (tr qea .read = .noMap ∨ ∃ e, tr qea .read = .onDemand e) → trapsOnly i 10) ∧
        (qea.toNat % size = 0 → tr qea .read = .forbidden → trapsOnly i 11)
      fills (.ldq8 g cmask lane ra zx off24) 1 ∧ fills (.ldq16 g cmask lane ra zx off24) 2 ∧
      fills (.ldq32 g cmask lane ra zx off24) 4 ∧ fills (.ldq64 g cmask lane ra zx off24) 8 ∧
      fills (.rldq8 g cmask lane ra zx off24 acq scope) 1 ∧ fills (.rldq16 g cmask lane ra zx off24 acq scope) 2 ∧
      fills (.rldq32 g cmask lane ra zx off24 acq scope) 4 ∧ fills (.rldq64 g cmask lane ra zx off24 acq scope) 8)

/-- LOAD_RETURN, WRITE_ACKNOWLEDGEMENT and ATOMIC_RESPONSE perform the access: the bytes read, the bytes written
(R149, R155, R159, R160, R256, R396). -/
def Obligations.AccessesPerform : Prop :=
  ∀ (s : State) (n idx : Nat) (l : OutLoad) (t : OutStore) (k : Kind) (p op : Nat) (un : Bool) (arg cmp : Word),
    s.poison = [] → s.moves = [] →
    ((s.core n).loads[idx]? = some l → loadReady s (s.core n) l = true → l.acq = none → l.use = .reg k p → unreachable s l.pa = false →
      (l.cached = true → ∀ x ∈ (s.core n).scache, x.1 ≠ l.pa / 64) → p ≠ 0 →
      ∃ r, exec (.loadReturn n idx) s = .next r ∧
        (let bs := (visibleStores (s.core n) l.strand l.id).foldl (overlay l.pa) (readBytes (s.asSeen (strandParty s n l.strand l.id)).mem l.pa l.size)
         tget 0 ((r.core n).strand k).regs p =
           (if l.signed then BitVec.ofInt 64 (signedAt (8 * bs.length) (leNat bs)) else BitVec.ofNat 64 (leNat bs))) ∧
        p ∉ ((r.core n).strand k).pend ∧ (r.core n).loads = (s.core n).loads.filter (fun x => x.id != l.id) ∧
        (∀ a, readByte r.mem a = readByte s.mem a) ∧ ∀ m, m ≠ n → r.core m = s.core m) ∧
    ((s.core n).stores[idx]? = some t → storeReady s (s.core n) t = true → unreachable s t.pa = false →
      ∃ r, exec (.writeAcknowledgement n idx) s = .next r ∧
        (∀ i (hi : i < t.bytes.length), readByte r.mem (t.pa + i) = t.bytes[i]) ∧
        (∀ a, a < t.pa ∨ t.pa + t.bytes.length ≤ a → readByte r.mem a = readByte s.mem a) ∧
        (r.core n).stores = (s.core n).stores.filter (fun x => x.id != t.id) ∧ ∀ m, m ≠ n → r.core m = s.core m) ∧
    ((s.core n).loads[idx]? = some l → loadReady s (s.core n) l = true → l.acq = none → l.use = .atomic k p op un arg cmp →
      unreachable s l.pa = false → (s.core n).stores = [] → p ≠ 0 →
      ∃ r, exec (.atomicResponse n idx) s = .next r ∧
        (let old := leNat (readBytes s.mem l.pa l.size)
         tget 0 ((r.core n).strand k).regs p = BitVec.ofNat 64 old ∧
         (amoNew op (8 * l.size) un old arg.toNat cmp.toNat = none → ∀ a, readByte r.mem a = readByte s.mem a) ∧
         (∀ x, amoNew op (8 * l.size) un old arg.toNat cmp.toNat = some x →
           readBytes r.mem l.pa l.size = leBytes l.size x ∧
           ∀ a, a < l.pa ∨ l.pa + l.size ≤ a → readByte r.mem a = readByte s.mem a)) ∧
        (r.core n).loads = (s.core n).loads.filter (fun x => x.id != l.id))

/-- LAYDEF installs a valid record and replaces the one of its tensor; LAYINV removes a record with its lines (R140,
R145, R148, R161, R177). -/
def Obligations.RecordInstructions : Prop :=
  ∀ (s : State) (g ra : BitVec 6) (bs : List Byte), Runs s g [ra] → MayAccess s →
    let ea := s.rd ra
    let r := blockOf bs
    let ok := recordOk r && arenaOk r
    let purged := fun (t : State) (tid : BitVec 24) => ∀ l ∈ t.live.alcove, ¬(l.key.ctx = s.live.ctx ∧ l.key.tid = tid)
    (ea.toNat % 128 ≠ 0 → TrapsWith (.laydef g ra) s 1 ea) ∧
    (ea.toNat % 128 = 0 → ReadsAt s ea 128 bs → (ok = false ∨ installRec s.live.recs r = none) →
      TrapsWith (.laydef g ra) s 12 ea) ∧
    (ea.toNat % 128 = 0 → ReadsAt s ea 128 bs → ok = true →
      ((findRec s.live.recs (recTid r)).isSome = true ∨ s.live.recs.length < 64) →
      ∃ t, exec (.laydef g ra) s = .next t ∧ (NoDrains s → StrandsKept s t) ∧ findRec t.live.recs (recTid r) = some r ∧
        (∀ tid, tid ≠ recTid r → findRec t.live.recs tid = findRec s.live.recs tid) ∧
        (findRec s.live.recs (recTid r) = none → CoreKept s t ∧ { t.live with recs := s.live.recs } = s.live) ∧
        ((findRec s.live.recs (recTid r)).isSome = true → purged t (recTid r)) ∧
        (CleanLines s → ∀ a, readByte t.mem a = readByte s.mem a)) ∧
    (handleRec s.issue.pre.recs ea = none → exec (.layinv g ra) s = .next s) ∧
    (∀ x, handleRec s.issue.pre.recs ea = some x → ∃ t, exec (.layinv g ra) s = .next t ∧ (NoDrains s → StrandsKept s t) ∧
      t.live.recs = s.live.recs.filter (fun y => recTid y != recTid x) ∧ purged t (recTid x) ∧
      (CleanLines s → ∀ a, readByte t.mem a = readByte s.mem a))

/-- PIN, UNPIN, STREAM and LASTUSE act on the lines of the tiles that they name, level by level, and on no others
(R139, R162, R163, R164, R280). -/
def Obligations.TileHints : Prop :=
  ∀ (s : State) (g rd rp : BitVec 6) (nrow ncol : BitVec 8) (lvl : BitVec 2), Runs s g [rd, rp, pairOdd rp] → MayAccess s →
    let ts := hintTiles s rp nrow ncol
    let cl := coreCluster s.issue.core
    let pw := alcoveWaits s s.issue.core
    let acts := fun (i : Instr) (fa fh : List TileLine → List TileLine) (fr : TileReq → TileReq) =>
      ∃ t, exec i s = .next t ∧ LinesKept { s with reqs := s.reqs.map fr } t ∧
      t.live.alcove = (if lvl.getLsbD 0 then fa s.live.alcove else s.live.alcove) ∧
      (t.cluster cl).hall = (if lvl.getLsbD 1 then fh (s.cluster cl).hall else (s.cluster cl).hall)
    let onNamed := fun (f : TileLine → TileLine) (ls : List TileLine) => ls.map fun l => if named ts l.key then f l else l
    let retire := fun (ls : List TileLine) => (ls.filter fun l => !(named ts l.key && l.st == .clean)).map fun l =>
      if named ts l.key ∧ l.st = .dirty then { l with st := .draining, keep := false, since := s.now } else l
    ((∀ x ∈ ts, x = none) → GivesReg (.pin g rd rp nrow ncol lvl) s rd
      (BitVec.ofNat 64 ((nrow.toNat + 1) * (ncol.toNat + 1)))) ∧
    (∀ k r, ts = [some (k, r)] → lvl = 1 → tileLvl s cl k r ≠ 0 → GivesReg (.pin g rd rp nrow ncol lvl) s rd 1) ∧
    (∀ k r, ts = [some (k, r)] → lvl = 1 → isPinned s.live.alcove k = false → k ∉ pw → 12 ≤ pinnedIn s.live.alcove pw alcoveBank (alcoveBank k) →
      GivesReg (.pin g rd rp nrow ncol lvl) s rd 1) ∧
    (∀ k r, ts = [some (k, r)] → lvl = 1 → tileLvl s cl k r = 0 → (lineOf s.live.alcove k).isSome = true →
      (isPinned s.live.alcove k = true ∨ k ∈ pw ∨ pinnedIn s.live.alcove pw alcoveBank (alcoveBank k) < 12) →
      ∃ u t, exec (.pin g rd rp nrow ncol lvl) s = .next t ∧ LinesKept s u ∧ u.clusters = s.clusters ∧
        u.live.alcove = s.live.alcove.map (fun l => if l.key = k then { l with pins := 1 } else l) ∧
        RegWritten u t (destReg s rd) 0) ∧
    (∃ t, exec (.pin g rd rp nrow ncol lvl) s = .next t ∧ (destReg s rd ≠ 0 →
      tget 0 (act t).regs (destReg s rd) = BitVec.ofNat 64 (ts.foldl (pinTile s.issue.core lvl) (s, 0)).2)) ∧
    acts (.unpin g rp nrow ncol lvl) (onNamed fun l => { l with pins := 0 })
      (onNamed fun l => { l with pins := l.pins &&& ~~~pinBit s.issue.core })
      (fun r => if named ts r.key ∧ r.pinBy = some s.issue.core ∧ (lvl.getLsbD (if r.core.isNone then 1 else 0) = true) then
        { r with pinBy := none } else r) ∧
    acts (.stream g rp nrow ncol lvl) (onNamed fun l => { l with cls := 0 }) (onNamed fun l => { l with cls := 0 }) id ∧
    ((∀ k, named ts k = true → readsBefore s.live k s.nextId = false ∧ forwarding s cl k = false) →
      acts (.lastuse g rp nrow ncol lvl) retire retire id)

/-- PFIT installs an itinerary and starts its first entries; PFITCAN cancels one (R165). -/
def Obligations.Itineraries : Prop :=
  ∀ (s : State) (g ra : BitVec 6) (cnt ld : BitVec 4) (itin lvl : BitVec 2) (bs : List Byte), Runs s g [ra] → MayAccess s →
    let ea := s.rd ra
    let others := s.live.itins.filter fun x => x.id != itin.toNat
    let es := itinEntries (cnt.toNat + 1) bs
    (ea.toNat % 16 ≠ 0 → TrapsWith (.pfit g ra cnt ld itin lvl) s 1 ea) ∧
    (ea.toNat % 16 = 0 → ReadsAt s ea (16 * (cnt.toNat + 1)) bs →
      ∃ t, exec (.pfit g ra cnt ld itin lvl) s = .next t ∧ StrandsKept s t ∧
        t.live.itins = others ++ (if ld.toNat < cnt.toNat then
          [{ id := itin.toNat, lvl := lvl, lead := ld.toNat, entries := es, begun := List.range (ld.toNat + 1) }] else []) ∧
        ((∀ e ∈ es, entryTile s.live e = none) → CoreKept s t ∧ { t.live with itins := s.live.itins } = s.live) ∧
        (CleanLines s → ∀ a, readByte t.mem a = readByte s.mem a)) ∧
    ∃ t, exec (.pfitcan g itin) s = .next t ∧ CoreKept s t ∧ t.issue = s.issue ∧ t.live = { s.live with itins := others }

/-- COPY and COPYT are held, trapped, rejected with a reason, or accepted into their engine, where they stand last or
in time order (R116, R122, R153, R166, R168, R170, R171, R260, R329). -/
def Obligations.CopiesIssue : Prop :=
  ∀ (s : State) (g rs rt bx tr : BitVec 6) (tok : BitVec 3) (fe : BitVec 1) (fl : BitVec 6) (scope eng : BitVec 3)
    (bs : List Byte), Runs s g [rs, rt, bx, tr] → MayAccess s →
    let cl := coreCluster s.issue.core
    let e := s.bte cl eng.toNat
    let e1 := (releaseDue s cl eng.toNat).bte cl eng.toNat
    let a := s.rd bx
    let b := blockOf bs
    let src := handleRec s.issue.pre.recs (s.rd rs)
    let dst := handleRec s.issue.pre.recs (s.rd rt)
    let tk := s.live.tok tok.toNat
    let look := fun (x : Word) => translate s cl s.live.ctx x.toNat .read
    let gone := fun (x : Word) => look x = .noMap ∨ ∃ e, look x = .onDemand e
    let there := fun (x : Word) => look x = .forbidden ∨ ∃ pa leaf bits, look x = .ok pa leaf bits
    let crosses : Prop := 0x3F80 < a.toNat % 0x4000
    let vb := a + BitVec.ofNat 64 (0x4000 - a.toNat % 0x4000)
    let judged := fun (i : Instr) (fn : Nat) (time : Option Nat) (room : Bool) (regs : List Word) (after : EngineCmd → Bte) =>
      ((cmdRoom s tok = false ∨ room = false) → exec i s = .next (s.setVerdict .held)) ∧
      (cmdRoom s tok = true → room = true →
        (a.toNat % 8 ≠ 0 → TrapsWith i s 1 a) ∧
        (a.toNat % 8 = 0 →
          (gone a → TrapsWith i s 10 a) ∧ (there a → crosses → gone vb → TrapsWith i s 10 vb) ∧
          (look a = .forbidden → (crosses → there vb) → TrapsWith i s 11 a) ∧
          (∀ pa leaf bits, look a = .ok pa leaf bits → crosses → look vb = .forbidden → TrapsWith i s 11 vb)) ∧
        (a.toNat % 8 = 0 → ReadsAt s a 128 bs →
          (∀ r, copyReason s src dst b time = some r → ∃ t, exec i s = .next t ∧ CoreKept s t ∧
            TokIs s t tok.toNat { tk with err := true, reason := if tk.err then tk.reason else r }) ∧
          (∀ x y, src = some x → dst = some y → copyReason s src dst b time = none → ∃ t c, exec i s = .next t ∧
            TokIs s t tok.toNat { tk with count := tk.count + 1 } ∧
            CmdOf s c 0x2A fn tok fe fl scope regs b [x, y] ∧ c.eng = eng.toNat ∧ c.time = time.getD 0 ∧
            t.bte cl eng.toNat = after c ∧ (∀ d f, (d, f) ≠ (cl, eng.toNat) → t.bte d f = s.bte d f) ∧
            { t with cores := s.cores, clusters := s.clusters, nextId := s.nextId } = s)))
    let tm := (s.rd tr).toNat
    judged (.copy g tok rs rt bx fe fl scope eng) 0 none (runRoom e s.now) [s.rd rs, s.rd rt, a]
      (fun c => { e1 with runq := e1.runq ++ [.cmd c] }) ∧
    judged (.copyt g tok rs rt bx fe fl scope eng tr) 1 (some tm) (vestRoom e s.now) [s.rd rs, s.rd rt, a, s.rd tr]
      (fun c => (releaseDue (s.modBte cl eng.toNat fun _ =>
        { e1 with vest := vestInsert { c with since := Nat.max tm s.now } e1.vest,
                  late := if tm < s.now then e1.late + 1 else e1.late }) cl eng.toNat).bte cl eng.toNat)

/-- VREL sends one publication for each tile of its range and its register waits for the first version (R148, R163,
R174). -/
def Obligations.VersionRelease : Prop :=
  ∀ (s : State) (g rd rp : BitVec 6) (nrow ncol : BitVec 8), Runs s g [rd, rp, pairOdd rp] → MayAccess s →
    let i : Instr := .vrel g rd rp nrow ncol
    let drains := fun (ks : List TileKey) (ls : List TileLine) => ls.map fun l =>
      if ks.contains l.key = true ∧ (l.st = .dirty ∨ l.st = .draining) then { l with st := .draining, keep := true } else l
    (handleRec s.issue.pre.recs (s.rd rp) = none → FaultsWith i s 6 0 (s.rd rp)) ∧
    (∀ r, handleRec s.issue.pre.recs (s.rd rp) = some r →
      let ks := rangeKeys s r (s.rd (pairOdd rp)) nrow ncol
      (recVersioned r = false ∨ ks = [] → ∃ u t, exec i s = .next t ∧ LinesKept s u ∧ u.clusters = s.clusters ∧
        u.live.alcove = drains ks s.live.alcove ∧ RegWritten u t (destReg s rd) 0) ∧
      (recVersioned r = true → ks ≠ [] → ∃ t ps, exec i s = .next t ∧
        { t with cores := s.cores, nextId := s.nextId } = s ∧ t.nextId = s.nextId + ks.length ∧
        (∀ n, n ≠ s.issue.core → t.core n = s.core n) ∧
        t.live.alcove = drains ks s.live.alcove ∧ t.live.pubs = s.live.pubs ++ ps ∧ ps.map (fun p => p.key) = ks ∧
        (∀ p ∈ ps, p.lrec = r) ∧
        ps.map (fun p => p.pa) = (if rd = 0 then none else some (s.issue.kind, destReg s rd)) ::
          List.replicate (ks.length - 1) none ∧
        act t = { act s with pend := (act s).pend ++ (if rd = 0 then [] else [destReg s rd]) }))

/-- PROMOTE waits for its token, rejects a bad range, completes at once with nothing to move, or asks for its moves
(R116, R176, R285, R364). -/
def Obligations.Promotions : Prop :=
  ∀ (s : State) (g ra rb dr : BitVec 6) (tok : BitVec 3) (lu : BitVec 1), Runs s g [ra, rb, dr] → MayAccess s →
    let i : Instr := .promote g tok ra rb dr lu
    let tk := s.live.tok tok.toNat
    let cl := coreCluster s.issue.core
    let a := (s.rd ra).toNat
    let len := (s.rd rb).toNat
    let good : Prop := a % 0x4000 = 0 ∧ len % 0x4000 = 0 ∧ 0 < len ∧ len ≤ 2 ^ 40
    let page := fun (j : Nat) => a + 0x4000 * j
    let posts := ((pagesOf a len).findSome? fun v => promoteFault s cl s.live.ctx v).toList
    (tk.count = 63 → exec i s = .next (s.setVerdict .held)) ∧
    (tk.count ≠ 63 → ¬good → ∃ t, exec i s = .next t ∧ CoreKept s t ∧
      TokIs s t tok.toNat { tk with err := true, reason := if tk.err then tk.reason else 8 }) ∧
    (tk.count ≠ 63 → good →
      ((∀ j, j < len / 0x4000 → promotable s cl s.live.ctx (page j) = none) →
        exec i s = .next (countLate { s with posts := s.posts ++ posts } s.live.ctx (s.rd dr).toNat)) ∧
      (∀ j pa, j < len / 0x4000 → promotable s cl s.live.ctx (page j) = some pa → ∃ t ms, exec i s = .next t ∧
        TokIs s t tok.toNat { tk with count := tk.count + 1 } ∧ t.moves = s.moves ++ ms ∧ t.posts = s.posts ++ posts ∧
        { t with cores := s.cores, moves := s.moves, posts := s.posts, nextId := s.nextId } = s ∧
        (∀ m ∈ ms, m.ctx = s.live.ctx ∧ m.core = s.issue.core ∧ m.tok = tok.toNat ∧ m.lu = (lu == 1) ∧
          m.deadline = (s.rd dr).toNat ∧ m.st = .wait ∧ promotable s cl s.live.ctx m.va = some m.old) ∧
        ms.map (fun m => m.va) = ((List.range (len / 0x4000)).map page).filter
          (fun v => (promotable s cl s.live.ctx v).isSome)))

/-- KVAPP runs its entries in order, writes key row, value row and length of each, skips slot 0xFFFFFFFF, and stops or
pauses (R128, R136, R148, R177, R178, R179, R180, R259). -/
def Obligations.KvappBatch : Prop :=
  ∀ (s : State) (g rd ra kr vr : BitVec 6) (cnt : BitVec 8), Runs s g [rd, ra, kr, vr] → MayAccess s →
    let i : Instr := .kvapp g rd ra kr vr cnt
    let tbl := s.rd ra
    let n := s.issue.core
    let b := (s.rd rd).toNat
    let rs := s.issue.pre.recs
    (arenaRec rs (s.rd kr) = none → FaultsWith i s 6 0 (s.rd kr)) ∧
    (∀ x, arenaRec rs (s.rd kr) = some x → arenaRec rs (s.rd vr) = none → FaultsWith i s 6 0 (s.rd vr)) ∧
    (∀ x y, arenaRec rs (s.rd kr) = some x → arenaRec rs (s.rd vr) = some y →
      (tbl.toNat % 32 ≠ 0 → TrapsWith i s 1 tbl) ∧
      (tbl.toNat % 32 = 0 →
        let run := kvFrom n s.live.ctx x y tbl.toNat
        (∀ u, run (cnt.toNat + 1 - b) b s = (u, .all) → ∃ t, exec i s = .next t ∧
          t = (kvOver u).wr rd (BitVec.ofNat 64 (cnt.toNat + 1))) ∧
        (s.live.kvAt = none → s.live.kvRun = none →
          (∀ j, b ≤ j → j ≤ cnt.toNat → ∃ e, kvRead s n s.live.ctx (tbl.toNat + 32 * j) = .ok e ∧ e.zero = 0 ∧
            e.slot = 0xFFFFFFFF) → GivesReg i s rd (BitVec.ofNat 64 (cnt.toNat + 1))) ∧
        (∀ u j, run (cnt.toNat + 1 - b) b s = (u, .pause j) → u.issue = s.issue → ∃ v t, exec i s = .next t ∧
          RegWritten u v (destReg s rd) (BitVec.ofNat 64 j) ∧
          t.live = { v.live with kvAt := some s.issue.base,
                                 kvRun := v.live.kvRun.map fun r => { r with idx := destReg s rd } } ∧
          t.issue = { s.issue with taken := true, paused := true } ∧ t.mem = u.mem ∧ (act t).pc = (act u).pc) ∧
        (∀ u j code val, run (cnt.toNat + 1 - b) b s = (u, .stop j (.trap code val)) → u.issue = s.issue →
          (act u).mode ≠ .trapped → s.pre.trapvec ≠ 0 →
          ∃ t, exec i s = .next t ∧ (act t).epc = s.issue.base ∧
            (act t).cause = causeWord s.issue.pos true code ∧ (act t).tval = BitVec.ofNat 64 val ∧
            (act t).mode = .trapped ∧ (act t).pc = s.pre.trapvec ∧ t.mem = u.mem ∧ t.live.kvAt = none ∧
            t.live.kvRun = none ∧ (destReg s rd ≠ 0 → tget 0 (act t).regs (destReg s rd) = BitVec.ofNat 64 j)) ∧
        (∀ m j u,
          let z := kvEntryAt u n s.live.ctx x y tbl.toNat j
          (∀ v f, z.1 = .stop v f → run (m + 1) j u = (v, .stop j f)) ∧
          (∀ v, z.1 = .wait v → run (m + 1) j u = (v, .pause j)) ∧
          (∀ v, z.1 = .done v → run (m + 1) j u = (if m = 0 ∨ z.2 = true then run m (j + 1) v
            else if v.takeBool.1 then (v.takeBool.2, .pause (j + 1)) else run m (j + 1) v.takeBool.2))))) ∧
    (∀ (u : State) (c : BitVec 12) (r : Block) (slot x : Nat) (bs : List Byte) (ks : List TileKey),
      recordOk r = true → arenaOk r = true → recClass r = 1 → slot < recExt r 2 → x < recExt r 1 → ks = rowTiles c r slot x →
      (∀ k ∈ ks, rowLine u n k r = true) →
      let place := fun (e : Nat) => (tileKey c r slot (x / recRows r) (e / recCols r), x % recRows r, e % recCols r)
      let w := fmtWidth (recEfmt r)
      ∃ t : State, writeTiles n c r slot x bs ks u = (t, []) ∧ MemKept u t ∧ AllStrands u t ∧ (∀ m, m ≠ n → t.core m = u.core m) ∧
        ((t.core n).alcove.map fun l => (l.bank, l.way, l.key)) = ((u.core n).alcove.map fun l => (l.bank, l.way, l.key)) ∧
        ∀ (j : Nat) (l : TileLine), (u.core n).alcove[j]? = some l → ∃ l' : TileLine, (t.core n).alcove[j]? = some l' ∧
          (l.key ∉ ks → l' = l) ∧ (l.key ∈ ks → l'.st = .dirty ∨ l'.st = .draining) ∧
          (∀ e, e < recExt r 0 → (place e).1 = l.key →
            lineElem r l'.data (place e).2.1 (place e).2.2 = bitsAt (leNat bs) (e * w) w) ∧
          ∀ p q, p < recRows r → q < recCols r → (∀ e, e < recExt r 0 → place e ≠ (l.key, p, q)) →
            lineElem r l'.data p q = lineElem r l.data p q) ∧
    (∀ (u v : State) (c : BitVec 12) (r : KvRun),
      (r.value = false → writeTiles n c r.krec r.e.slot r.x r.bytes r.left u = (v, []) →
        ∀ bs, readRange v n c (pieces r.e.vsrc (rowBytes r.vrec)) = .ok bs →
        rowsRun u n c r = rowsRun (touchRange v n c r.e.vsrc (rowBytes r.vrec)) n c
          { r with value := true, bytes := bs, left := rowTiles c r.vrec r.e.slot r.x }) ∧
      (r.value = true → writeTiles n c r.vrec r.e.slot r.x r.bytes r.left u = (v, []) →
        (∀ l ∈ (v.cluster (coreCluster n)).hall ++ (v.core n).alcove, l.key.ctx = c → lineHolds r.e.lenp 4 l = false) →
        ∀ pa leaf bits, r.e.lenp % 4 = 0 → translate v (coreCluster n) c r.e.lenp .write = .ok pa leaf bits →
        v.poison = [] → v.moves = [] → unreachable v pa = false → ∃ t, rowsRun u n c r = .done t ∧ AllStrands v t ∧
          readBytes t.mem pa 4 = leBytes 4 (r.x + 1) ∧
          ∀ a, a < pa ∨ pa + 4 ≤ a → readByte t.mem a = readByte v.mem a))

/-- Every command of the engines is rejected with its reason by the engine-reject trap or accepted at the tail of its
queue (R182, R300, R307, R316, R333, R341, R405, R409). -/
def Obligations.EngineCommandsIssue : Prop :=
  ∀ (s : State) (g : BitVec 6) (e : EngineWord) (bs : List Byte), Runs s g [e.sa] → MayAccess s → cmdRoom s e.tok = true →
    let a := s.rd e.sa
    let b := blockOf bs
    let die := coreDie s.issue.core
    let tk := s.live.tok e.tok.toNat
    let judged := fun (i : Instr) (op fn : Nat) (block : Block) (recs : List Block) (q : State → List EngineCmd)
        (reason : Option Nat) => (q s).length < 32 →
      (∀ r, reason = some r → TrapsWith i s 15 (BitVec.ofNat 64 r)) ∧
      (reason = none → ∃ t c, exec i s = .next t ∧ TokIs s t e.tok.toNat { tk with count := tk.count + 1 } ∧
        CmdOf s c op fn e.tok e.fe e.fl e.scope [a] block recs ∧ q t = q s ++ [c] ∧
        { t with cores := s.cores, clusters := s.clusters, dies := s.dies, nextId := s.nextId, collSeqs := s.collSeqs } = s)
    let selq := fun (u : State) => (u.cluster (coreCluster s.issue.core)).selq
    let lndq := fun (x : Nat) (u : State) => (u.cluster (unmLnd x)).lndq
    let rteq := fun (u : State) => (u.die die).rteq
    let collq := fun (u : State) => (u.die die).collq
    let block := fun (i : Instr) (n : Nat) (rest : Prop) =>
      (a.toNat % n ≠ 0 → (selq s).length < 32 → (rteq s).length < 32 → (collq s).length < 32 → TrapsWith i s 1 a) ∧
      (a.toNat % n = 0 → ReadsAt s a n bs → rest)
    let sel := fun (i : Instr) (fn : Nat) => block i 64
      (judged i 0x30 fn b ((selRecs fn b s.issue.pre.recs).filterMap id) selq (selReason fn b s.issue.pre.recs))
    let sess := fun (i : Instr) (op fn : Nat) (ok : SessState → Bool) => judged i op fn 0 [] rteq (sessReason s a ok)
    let coll := fun (i : Instr) (k op : Nat) =>
      let x := actingEntry s (collGrp b)
      block i 64 ((collq s).length < 32 →
        let reason := collReason s k b (rankCount s x.1) (rankOf s x.1 x.2)
        (∀ r, reason = some r → TrapsWith i s 15 (BitVec.ofNat 64 r)) ∧
        (∀ p q, tidRec s.issue.pre.recs b 8 = some p → tidRec s.issue.pre.recs b 0x10 = some q → reason = none →
          judged i op (k % 4) b [p, q] collq none))
    sel (.selTopk g e) 0 ∧ sel (.selSeg g e) 1 ∧
    block (.unmSetup g e) 128 (judged (.unmSetup g e) 0x31 0 b ((unmRecs b s.issue.pre.recs).filterMap id)
      (lndq (bfield b 8 0 64)) (setupReason s b)) ∧
    block (.unmReg g e) 32 (judged (.unmReg g e) 0x31 1 b (tidRec s.issue.pre.recs b 8).toList
      (lndq (bfield b 0 0 64)) (regReason s b)) ∧
    judged (.unmRound g e) 0x31 2 0 [] (lndq a.toNat) (slotReason s a) ∧
    judged (.unmFree g e) 0x31 3 0 [] (lndq a.toNat) (slotReason s a) ∧
    block (.rteSetup g e) 128 (judged (.rteSetup g e) 0x32 0 b
      (if rteFree b then [] else (rteRecs b s.issue.pre.recs).filterMap id) rteq (routeReason s b)) ∧
    sess (.rteCount g e) 0x32 1 (fun x => x == .set || x == .placed) ∧ sess (.rtePlace g e) 0x32 2 (fun x => x == .counted) ∧
    sess (.rteScatter g e) 0x32 3 (fun x => x == .placed) ∧ sess (.rteGather g e) 0x33 0 (fun x => x == .placed) ∧
    coll (.collAr g e) 0 0x34 ∧ coll (.collAg g e) 1 0x34 ∧ coll (.collRs g e) 2 0x34 ∧ coll (.collBc g e) 3 0x34 ∧
    coll (.collA2a g e) 4 0x35

/-- FPUSH appends a word to the format queue, is held without room and traps after FQCLOSE, which closes the queue
(R233, R234). -/
def Obligations.FormatQueue : Prop :=
  ∀ (s : State) (g ra : BitVec 6),
    (Runs s g [ra] →
      (fqRoom s = false → exec (.fpush g ra) s = .next (s.setVerdict .held)) ∧
      (fqRoom s = true → s.issue.pre.fqClosed = true →
        TrapsWith (.fpush g ra) s 0 (illegalTval s.issue.pos ((encode (.fpush g ra)).headD 0))) ∧
      (fqRoom s = true → s.issue.pre.fqClosed = false → ∃ t, exec (.fpush g ra) s = .next t ∧ CoreKept s t ∧
        t.issue = s.issue ∧ t.live = { s.live with fq := s.live.fq ++ [{ w := s.rd ra, born := s.now }] })) ∧
    (Runs s g [] → ∃ t, exec (.fqclose g) s = .next t ∧ CoreKept s t ∧ t.issue = s.issue ∧
      t.live = { s.live with fqClosed := true })

/-- RENQ releases at package scope and puts the address of its block at the tail of the queue that its target names
(R235, R236, R237). -/
def Obligations.RenqEnqueues : Prop :=
  ∀ (s : State) (g ra rb : BitVec 6) (pa bits : Nat) (leaf : Word), Runs s g [ra, rb] → MayAccess s →
    let i : Instr := .renq g ra rb
    let a := s.rd ra
    let q := renqTarget s (s.rd rb)
    let tr := translate s (coreCluster s.issue.core) s.live.ctx a.toNat .read
    let u := releaseAt s s.issue.core s.issue.kind 4
    (∀ x, q = some x → 16 ≤ (renqOf s x).length → exec i s = .next (s.setVerdict .held)) ∧
    ((∀ x, q = some x → (renqOf s x).length < 16) →
      (a.toNat % 256 ≠ 0 → TrapsWith i s 1 a) ∧
      (a.toNat % 256 = 0 → tr = .noMap → TrapsWith i s 10 a) ∧
      (a.toNat % 256 = 0 → tr = .forbidden → TrapsWith i s 11 a) ∧
      (a.toNat % 256 = 0 → tr = .ok pa leaf bits →
        (q = none → TrapsWith i s 11 a) ∧
        (∀ x, q = some x → ∃ t, exec i s = .next t ∧ { t with clusters := u.clusters } = u ∧
          renqOf t x = renqOf u x ++
            [{ addr := a, core := s.issue.core, task := s.live.task, ctx := s.live.ctx, prio := launchPrio s }] ∧
          (∀ y, y ≠ x → renqOf t y = renqOf u y) ∧
          ∀ n, { t.cluster n with renq := (u.cluster n).renq } = u.cluster n)))

/-- The group instructions trap for a task that is no member, and GLEAVE and GJOIN change the membership (R239, R240,
R241, R298). -/
def Obligations.GroupMembership : Prop :=
  ∀ (s : State) (g fl ra rb : BitVec 6) (scope : BitVec 3), Runs s g [ra, rb] → MayAccess s →
    let v := s.rd ra
    (memberOf s v = none → TrapsWith (.gbar g fl ra scope) s 14 v ∧ TrapsWith (.gleave g ra) s 14 v ∧
      TrapsWith (.gcast g fl ra rb) s 14 v) ∧
    (∀ x l i y, memberOf s v = some (x, l, i) → s.group? (groupKey s l i) = some y → y.scope ≠ 2 →
      ∃ t, exec (.gleave g ra) s = .next t ∧
        t.gmsgs = s.gmsgs ++ [{ key := groupKey s l i, task := x.id, what := 1, flag := 0 }] ∧
        t.tasks = s.tasks.map (fun z => if z.id = x.id then { z with grps := z.grps.filter fun n => n != i } else z) ∧
        { t with gmsgs := s.gmsgs, tasks := s.tasks } = s) ∧
    (∀ x l i y, memberOf s v = some (x, l, i) → s.group? (groupKey s l i) = some y → y.scope = 2 →
      ∃ t, exec (.gleave g ra) s = .next t ∧
        t.tasks = s.tasks.map (fun z => if z.id = x.id then { z with grps := z.grps.filter fun n => n != i } else z) ∧
        t.cores = s.cores ∧ t.mem = s.mem ∧ t.gmsgs = s.gmsgs ∧
        ∀ z, t.group? (groupKey s l i) = some z → x.id ∉ z.members ∧ x.id ∉ z.joiners) ∧
    (∀ x l, actingTask s = some (x, l) →
      ((256 ≤ v.toNat ∨ entLists (l.ent v.toNat) x.index = false) → TrapsWith (.gjoin g ra) s 14 v) ∧
      (v.toNat < 256 → entLists (l.ent v.toNat) x.index = true →
        (v.toNat ∈ x.grps → exec (.gjoin g ra) s = .next s) ∧
        (v.toNat ∉ x.grps → 4 ≤ x.grps.length → TrapsWith (.gjoin g ra) s 14 v) ∧
        (v.toNat ∉ x.grps → x.grps.length < 4 → ∀ y, s.group? (groupKey s l v.toNat) = some y → y.scope ≠ 2 →
          ∃ t, exec (.gjoin g ra) s = .next t ∧
            t.gmsgs = s.gmsgs ++ [{ key := groupKey s l v.toNat, task := x.id, what := 2, flag := 0 }] ∧
            t.tasks = s.tasks.map (fun z => if z.id = x.id then { z with grps := z.grps ++ [v.toNat] } else z) ∧
            { t with gmsgs := s.gmsgs, tasks := s.tasks } = s) ∧
        (v.toNat ∉ x.grps → x.grps.length < 4 → ∀ y, s.group? (groupKey s l v.toNat) = some y → y.scope = 2 →
          ∃ t, exec (.gjoin g ra) s = .next t ∧
            t.tasks = s.tasks.map (fun z => if z.id = x.id then { z with grps := z.grps ++ [v.toNat] } else z) ∧
            t.cores = s.cores ∧ t.mem = s.mem ∧ t.gmsgs = s.gmsgs ∧
            ∀ z, t.group? (groupKey s l v.toNat) = some z → x.id ∈ z.members ∨ x.id ∈ z.joiners)))

/-- GBAR releases and arrives once in a generation; GCAST releases and sends one flag update to every member (R240,
R241, R242, R297, R298). -/
def Obligations.BarrierAndBroadcast : Prop :=
  ∀ (s : State) (g fl ra rb : BitVec 6) (scope : BitVec 3) (x : Task) (l : Launch) (i : Nat), Runs s g [ra, rb] →
    MayAccess s → memberOf s (s.rd ra) = some (x, l, i) →
    let k := groupKey s l i
    let u := releaseAt s s.issue.core s.issue.kind (Nat.max scope.toNat (groupExtent s l i))
    let w := releaseAt s s.issue.core s.issue.kind (groupExtent s l i)
    (hasArrived s k x.id = true → exec (.gbar g fl ra scope) s = .next (s.setVerdict .held)) ∧
    (∀ y, hasArrived s k x.id = false → u.group? k = some y →
      (y.scope ≠ 2 → exec (.gbar g fl ra scope) s =
        .next { u with gmsgs := u.gmsgs ++ [{ key := k, task := x.id, what := 0, flag := fl.toNat }] }) ∧
      (y.scope = 2 → k.domain = false → x.id ∈ y.members → x.id ∉ y.joiners →
        ((∃ m ∈ y.members, m ≠ x.id ∧ ∀ a ∈ y.arrived, a.1 ≠ m) → ∃ t, exec (.gbar g fl ra scope) s = .next t ∧
          t.group? k = some { y with arrived := y.arrived ++ [(x.id, fl.toNat)] } ∧ { t with groups := u.groups } = u) ∧
        ((∀ m ∈ y.members, m ≠ x.id → ∃ a ∈ y.arrived, a.1 = m) → y.joiners = [] → y.next = [] → groupDead u k = false →
          ∃ t z, exec (.gbar g fl ra scope) s = .next t ∧ t.group? k = some z ∧ z.gen = y.gen + 1 ∧ z.arrived = [] ∧
            z.members = y.members ∧
            t.fmsgs = u.fmsgs ++ (y.arrived ++ [(x.id, fl.toNat)]).map (fun a =>
              { task := some a.1, core := 0, flag := a.2, add := 1, scope := 2 }) ∧
            { t with groups := u.groups, fmsgs := u.fmsgs } = u))) ∧
    ∃ t, exec (.gcast g fl ra rb) s = .next t ∧
      t.fmsgs = w.fmsgs ++ (membersOf w k).map (fun m =>
        { task := some m, core := 0, flag := fl.toNat, add := (s.rd rb).extractLsb' 0 32, scope := groupExtent s l i }) ∧
      { t with fmsgs := w.fmsgs, outbox := w.outbox } = w ∧
      t.outbox = w.outbox ++ (if k.domain then
        [⟨"gcast", [k.xkey.zeroExtend 64, fl.zeroExtend 64, ((s.rd rb).extractLsb' 0 32).zeroExtend 64]⟩] else [])

/-- PRACK answers whether a pre-emption is requested and then stops its task; HOSTIRQ writes one notification for the
host (R244, R245, R246, R380). -/
def Obligations.PreemptionAndHost : Prop :=
  ∀ (s : State) (g rd ra vec : BitVec 6), Runs s g [rd, ra] → MayAccess s →
    (s.issue.pre.preqPend = false → GivesReg (.prack g rd ra) s rd 0) ∧
    (s.issue.pre.preqPend = true → ∃ u t, exec (.prack g rd ra) s = .next t ∧ RegWritten s u (destReg s rd) 1 ∧
      { t with cores := u.cores, tasks := u.tasks } = u ∧ t.live = { u.live with afileDead := (s.rd ra).getLsbD 0 } ∧
      (∀ n, n ≠ s.issue.core → t.core n = s.core n) ∧
      t.tasks = s.tasks.map (fun x => if s.live.task = some x.id then { x with st := .stopping, why := 1 } else x)) ∧
    (noteReady s s.live.ctx = false → exec (.hostirq g ra vec) s = .next (s.setVerdict .held)) ∧
    (noteReady s s.live.ctx = true →
      let u := releaseAt s s.issue.core s.issue.kind 7
      let ws : List Word := [BitVec.ofNat 64 (2 * 2 ^ 56 + vec.toNat * 2 ^ 48 + s.live.ctx.toNat), s.rd ra,
        strandId s s.issue.core s.issue.kind, u.counter]
      (u.ctx? s.live.ctx = none → exec (.hostirq g ra vec) s = .next u) ∧
      (∀ c, u.ctx? s.live.ctx = some c → c.noteq = [] → c.noteRoom = true →
        let r := sysWrite u (c.nq + 32 * (c.nqwrite.toNat % c.nqsize)) ws
        r.2 = none → ∃ t, exec (.hostirq g ra vec) s = .next t ∧
          t.ctx? s.live.ctx = some { c with nqwrite := c.nqwrite + 1 } ∧ t.mem = r.1.mem ∧ t.cores = u.cores ∧
          t.outbox = u.outbox ++ [⟨"msix", [vec.zeroExtend 64]⟩]))

/-- CUBE and MMA wait, fault with the reason of the first rule that they break, or issue with what R188 to R190
capture (R129, R141, R184, R188, R189, R190, R191, R192, R197). -/
def Obligations.CubeIssue : Prop :=
  ∀ (s : State) (g : BitVec 6) (c : CubeWord) (mma : Bool), Runs s g (cubeRegs mma c) →
    let i : Instr := if mma then .mma g c else .cube g c
    let hA := s.rd (pairEven c.pa)
    let hB := s.rd (pairEven c.pb)
    let hG := s.rd (pairEven c.pg)
    let rc := fun (h : Word) => handleRec s.issue.pre.recs h
    (s.issue.pre.fq = [] → (s.issue.pre.fqClosed = true ∨ s.issue.pre.c.mode = .halted) → FaultsWith i s 1 0 0) ∧
    (s.issue.pre.fq = [] → s.issue.pre.fqClosed = false → s.issue.pre.c.mode ≠ .halted →
      exec i s = .next (s.setVerdict .held)) ∧
    (∀ x rest, s.issue.pre.fq = x :: rest → s.now ≤ x.born → exec i s = .next (s.setVerdict .held)) ∧
    (∀ x rest, s.issue.pre.fq = x :: rest → x.born < s.now →
      (mma = false → rc hA = none → FaultsWith i s 6 0 hA) ∧
      ((mma = true ∨ (rc hA).isSome = true) → rc hB = none → FaultsWith i s 6 0 hB) ∧
      ((mma = true ∨ (rc hA).isSome = true) → (rc hB).isSome = true → c.gor ≠ 0 → rc hG = none → FaultsWith i s 6 0 hG) ∧
      (∀ a b gg, a = (if mma then none else rc hA) → (mma = false → a.isSome = true) → rc hB = some b →
        gg = (if c.gor = 0 then none else rc hG) → (c.gor ≠ 0 → gg.isSome = true) →
        (∀ r, cubeReason mma c x.w a (some b) gg hA = some r → r < 256 → FaultsWith i s 7 r 0) ∧
        (cubeReason mma c x.w a (some b) gg hA = none →
          let busy := cellsMeet (cubeCells mma c x.w hA) (busyForM s)
          (busy = true → exec i s = .next (s.setVerdict .held)) ∧
          (busy = false → parkedCount s.live < 16 → ∃ t p, exec i s = .next t ∧
            StrandsKept { s with issue := { s.issue with mreads := s.issue.mreads ++ cubeCells mma c x.w hA } } t ∧
            t.live.replay = s.live.replay ++ [p] ∧ t.live.fq = s.live.fq.drop 1 ∧ t.live.acc = s.live.acc ∧
            p.id = s.nextId ∧ p.kind = (if mma then 1 else 0) ∧ p.fq = x.w ∧
            p.recs = [a.getD 0, b, gg.getD 0] ∧ p.spans = outSpans c (fwAcc x.w) ∧
            p.regs = [hA, if mma then 0 else s.rd (pairOdd (pairEven c.pa)), hB, s.rd (pairOdd (pairEven c.pb)),
              if c.gor = 0 then 0 else hG, if c.gor = 0 then 0 else s.rd (pairOdd (pairEven c.pg))] ∧
            p.sa = captureA s.live.acc c x.w ∧ p.sb = captureB s.live.acc c x.w ∧ p.pc = s.nextPc ∧
            (CleanLines s → ∀ n, readByte t.mem n = readByte s.mem n)))))

/-- ALD issues with its region and tile; AST puts a whole tile into the alcove from the region s elements (R129, R133,
R148, R201, R203, R204). -/
def Obligations.TransfersIssue : Prop :=
  ∀ (s : State) (g rr rp : BitVec 6) (view rm : BitVec 3) (ftz tr ve : BitVec 1) (minv : BitVec 8),
    Runs s g [rr, rp, pairOdd rp] →
    let ald : Instr := .ald g rr rp view rm ftz tr ve minv
    let ast : Instr := .ast g rr rp view rm ftz tr ve minv
    let h := s.rd rp
    let co := s.rd (pairOdd rp)
    (handleRec s.issue.pre.recs h = none → FaultsWith ald s 6 0 h ∧ FaultsWith ast s 6 0 h) ∧
    (∀ r, handleRec s.issue.pre.recs h = some r →
      let rg := fun (store : Bool) => transferOk store (s.rd rr) r view (tr == 1) (ve == 1)
      let k := tileKey s.live.ctx r (coOuter co).toNat (coRow co).toNat (coCol co).toNat
      (rg false = none → FaultsWith ald s 7 9 0) ∧ (rg true = none → FaultsWith ast s 7 9 0) ∧
      (∀ d, rg false = some d → cellsMeet (regionSpans d (etWidth view)) (busyForM s) = true →
        exec ald s = .next (s.setVerdict .held)) ∧
      (∀ d, rg false = some d → cellsMeet (regionSpans d (etWidth view)) (busyForM s) = false → parkedCount s.live < 16 →
        ∃ t p, exec ald s = .next t ∧ StrandsKept s t ∧ t.live.replay = s.live.replay ++ [p] ∧ t.live.acc = s.live.acc ∧
          p.id = s.nextId ∧ p.kind = 2 ∧ p.recs = [r] ∧ p.regs = [s.rd rr, h, co] ∧ p.minv = verOpt ve minv ∧
          p.spans = regionSpans d (etWidth view) ∧ (CleanLines s → ∀ n, readByte t.mem n = readByte s.mem n)) ∧
      (∀ d, rg true = some d →
        ((cellsMeet (regionSpans d (etWidth view)) (busyForM s) = true ∨ foundBy s.live k = true) →
          exec ast s = .next (s.setVerdict .held)) ∧
        (cellsMeet (regionSpans d (etWidth view)) (busyForM s) = false → foundBy s.live k = false →
          let es := (tileCells r).map (astElem s.live.acc r view rm (ftz == 1) (tr == 1) d)
          ((lineOf s.live.alcove k = none ∧ alcovePick s.live k ≠ .none) ∨
            ∃ l, lineOf s.live.alcove k = some l ∧ (l.st = .clean ∨ l.st = .filling ∨
              (l.st = .dirty ∧ (verOpt ve minv).getD l.ver = l.ver))) →
          let fl := es.foldl (fun f x => f ||| x.2) 0
          ∃ t l, exec ast s = .next t ∧ OthersKept s t s.issue.core ∧
            t.issue = { s.issue with raised := s.issue.raised ||| fl,
                                     mreads := s.issue.mreads ++ regionSpans d (etWidth view) } ∧
            l ∈ t.live.alcove ∧ l.key = k ∧ l.lrec = r ∧ (l.st = .dirty ∨ l.st = .draining) ∧
            l.data = BitVec.ofNat 32768 (packElems (fmtWidth (recTfmt r)) es) ∧ t.live.acc = s.live.acc ∧
            act t = { act s with sticky := (act s).sticky ||| fl } ∧
            (CleanLines s → ∀ n, readByte t.mem n = readByte s.mem n))))

/-- ACLR, ACVT, ACOPY and ATRN stand in progress with the elements of their destination region, or fault with reason
10 (R202, R205, R206, R207). -/
def Obligations.RegionInstructions : Prop :=
  ∀ (s : State) (g rd ra : BitVec 6) (dv sv rm : BitVec 3) (ftz : BitVec 1), Runs s g [rd, ra] →
    let w := etWidth dv
    let d? := areaOf (s.rd rd) dv
    let a? := areaOf (s.rd ra) dv
    let b? := areaOf (s.rd ra) sv
    let put := fun (d : Region) (f : Nat → Nat → Nat) =>
      (regionCells d).map fun x => ({ row := d.row + x.1, bit := (d.ecol + x.2) * w, width := w, bits := f x.1 x.2 } : AccWrite)
    let src := fun (a : Region) (v : Nat) (i j : Nat) => accBits s.live.acc (a.row + i) ((a.ecol + j) * v) v
    (d? = none → FaultsWith (.aclr g rd dv) s 7 10 0) ∧
    (∀ d, d? = some d → RegionStarts (.aclr g rd dv) s (regionSpans d w) [] (put d fun _ _ => 0) 0) ∧
    (d? = none ∨ a? = none → FaultsWith (.acopy g rd ra dv) s 7 10 0 ∧ FaultsWith (.atrn g rd ra dv) s 7 10 0) ∧
    (d? = none ∨ b? = none → FaultsWith (.acvt g rd ra sv dv rm ftz) s 7 10 0) ∧
    (∀ d a, d? = some d → a? = some a →
      (¬(d.nrow = a.nrow ∧ d.ncol = a.ncol) → FaultsWith (.acopy g rd ra dv) s 7 10 0) ∧
      (d.nrow = a.nrow → d.ncol = a.ncol →
        RegionStarts (.acopy g rd ra dv) s (regionSpans d w) (regionSpans a w) (put d (src a w)) 0) ∧
      (¬(d.nrow = a.ncol ∧ d.ncol = a.nrow) → FaultsWith (.atrn g rd ra dv) s 7 10 0) ∧
      (d.nrow = a.ncol → d.ncol = a.nrow →
        RegionStarts (.atrn g rd ra dv) s (regionSpans d w) (regionSpans a w) (put d fun i j => src a w j i) 0)) ∧
    (∀ d b, d? = some d → b? = some b →
      let cv := fun (i j : Nat) => recode (viewFmt sv) (viewFmt dv) (Mode.ofBits rm) (ftz == 1) (src b (etWidth sv) i j)
      (¬(d.nrow = b.nrow ∧ d.ncol = b.ncol) → FaultsWith (.acvt g rd ra sv dv rm ftz) s 7 10 0) ∧
      (d.nrow = b.nrow → d.ncol = b.ncol →
        RegionStarts (.acvt g rd ra sv dv rm ftz) s (regionSpans d w) (regionSpans b (etWidth sv))
          (put d fun i j => (cv i j).1) ((regionCells d).foldl (fun f x => f ||| (cv x.1 x.2).2) 0)))

/-- The element-wise arithmetic of the V strand: exact in each lane, then clamped, wrapped or rounded once (R209,
R215, R216, R217, R218, R221, R223, R225). -/
def Obligations.VectorArithmetic : Prop :=
  ∀ (s : State) (g : BitVec 6) (w : VecWord), s.rdPred g = true →
    let a := srcLane s w w.va
    let b := srcLane s w w.vb
    let d := srcLane s w w.vd
    let val := fun (x : Nat) => (valOf (viewFmt w.etype) x).1
    let sg := fun (x : Nat) => signedAt (etWidth w.etype) x
    let rnd := fun (x : Machine.Num × BitVec 7) =>
      ((roundTo (viewFmt w.etype) (Mode.ofBits w.rm) (w.ftz == 1) x.1).1,
       x.2 ||| (roundTo (viewFmt w.etype) (Mode.ofBits w.rm) (w.ftz == 1) x.1).2)
    let sum := fun (xs : List Machine.Num) => sumNum (Mode.ofBits w.rm == .rdn) xs
    let ab := [w.va, w.vb]
    let fn := fun (i : Instr) (f : SpecialFn) => LanesStart i s w [w.va] fun j =>
      match fmtFloat (viewFmt w.etype) with
      | some t => special f t (w.ftz == 1) (a j)
      | none => (a j, 0)
    (isIntView w.etype = true →
      LanesStart (.vadd g w) s w ab (fun j => laneInt w (sg (a j) + sg (b j))) ∧
      LanesStart (.vsub g w) s w ab (fun j => laneInt w (sg (a j) - sg (b j))) ∧
      LanesStart (.vmul g w) s w ab (fun j => laneInt w (sg (a j) * sg (b j))) ∧
      LanesStart (.vfma g w) s w [w.va, w.vb, w.vd] (fun j => laneInt w (sg (a j) * sg (b j) + sg (d j))) ∧
      LanesStart (.vabs g w) s w [w.va] (fun j => laneInt w (sg (a j)).natAbs) ∧
      LanesStart (.vneg g w) s w [w.va] (fun j => laneInt w (-sg (a j)))) ∧
    (isIntView w.etype = false →
      LanesStart (.vadd g w) s w ab (fun j => rnd (sum [val (a j), val (b j)])) ∧
      LanesStart (.vsub g w) s w ab (fun j => rnd (sum [val (a j), (val (b j)).neg])) ∧
      LanesStart (.vmul g w) s w ab (fun j => rnd ((val (a j)).mul (val (b j)))) ∧
      LanesStart (.vfma g w) s w [w.va, w.vb, w.vd] (fun j =>
        let p := (val (a j)).mul (val (b j))
        let x := sum [p.1, val (d j)]
        rnd (x.1, p.2 ||| x.2)) ∧
      LanesStart (.vabs g w) s w [w.va] (fun j => laneExact w (val (a j)).abs) ∧
      LanesStart (.vneg g w) s w [w.va] (fun j => laneExact w (val (a j)).neg)) ∧
    LanesStart (.vmin g w) s w ab (fun j => laneExact w ((val (a j)).min (val (b j)))) ∧
    LanesStart (.vmax g w) s w ab (fun j => laneExact w ((val (a j)).max (val (b j)))) ∧
    LanesStart (.vrndi g w) s w [w.va] (fun j =>
      let r := roundIntegral (Mode.ofBits w.rm) (val (a j))
      ((laneExact w r.1).1, r.2)) ∧
    fn (.vexp2 g w) .exp2 ∧ fn (.vlog2 g w) .log2 ∧ fn (.vrcp g w) .rcp ∧ fn (.vrsq g w) .rsq ∧ fn (.vtanh g w) .tanh ∧
    (let sv := if cvtTo w then cvtOv w else w.etype
     let dv := if cvtTo w then w.etype else cvtOv w
     let r := fun (j : Nat) => convert (viewFmt sv) (viewFmt dv) (Mode.ofBits w.rm) (w.ftz == 1)
       (laneBits s.live s.pre (etWidth sv) w.va (if cvtTo w then cvtLaneO w j else j))
     VecStarts (.vcvt g w) s (opRegs w.va) (cvtReads w) (cvtSpans w)
       ((List.range (cvtLanes w)).map fun j => laneWrite (etWidth dv) w.vd (if cvtTo w then j else cvtLaneO w j) (r j).1)
       ((List.range (cvtLanes w)).foldl (fun f j => f ||| (r j).2) 0) none)

/-- Bitwise operations, shifts, comparisons, selection, moves and lane indices of the V strand, lane by lane (R219,
R220, R226, R227, R230). -/
def Obligations.VectorBitsAndMoves : Prop :=
  ∀ (s : State) (g : BitVec 6) (w : VecWord), s.rdPred g = true →
    let n := etWidth w.etype
    let a := srcLane s w w.va
    let b := srcLane s w w.vb
    let val := fun (x : Nat) => (valOf (viewFmt w.etype) x).1
    let ab := [w.va, w.vb]
    let bits := fun (i : Instr) (reads : List (BitVec 11)) (f : Nat → Nat) => LanesStart i s w reads fun j => (f j, 0)
    let mask := fun (i : Instr) (f : Nat → Bool) => bits i ab fun j => if f j then 2 ^ n - 1 else 0
    let rA := (s.rd (vIdx w.va)).toNat
    let rB := (s.rd (vIdx w.vb)).toNat
    let index := fun (i : Instr) (regs : List (BitVec 6)) (f : Nat → Nat × BitVec 7) =>
      VecStarts i s regs [] (allSpans w.etype w.vd)
        ((List.range (dstLanes w)).map fun j => laneWrite n w.vd j (f j).1)
        ((List.range (dstLanes w)).foldl (fun x j => x ||| (f j).2) 0) none
    bits (.vand g w) ab (fun j => (a j) &&& (b j)) ∧ bits (.vor g w) ab (fun j => (a j) ||| (b j)) ∧
    bits (.vxor g w) ab (fun j => (a j) ^^^ (b j)) ∧ bits (.vnot g w) [w.va] (fun j => 2 ^ n - 1 - a j) ∧
    bits (.vshl g w) ab (fun j => if b j < n then a j * 2 ^ b j % 2 ^ n else 0) ∧
    bits (.vshr g w) ab (fun j => if b j < n then a j / 2 ^ b j else 0) ∧
    bits (.vsar g w) ab (fun j => intBits n (signedAt n (a j) / (2 ^ min (b j) n : Nat))) ∧
    mask (.vcmpeq g w) (fun j => (val (a j)).eqv (val (b j))) ∧ mask (.vcmplt g w) (fun j => (val (a j)).lt (val (b j))) ∧
    mask (.vcmple g w) (fun j => (val (a j)).lt (val (b j)) || (val (a j)).eqv (val (b j))) ∧
    VecStarts (.vsel g w) s (opRegs w.va ++ opRegs w.vb)
      (readSpans w.etype w.va ++ readSpans w.etype w.vb ++ allSpans w.etype (selMask w)) (allSpans w.etype w.vd)
      ((List.range (dstLanes w)).map fun j => laneWrite n w.vd j (if srcLane s w (selMask w) j = 0 then b j else a j)) 0 none ∧
    bits (.vmov g w) [w.va] a ∧ bits (.vperm g w) ab (fun j => a (b j % dstLanes w)) ∧
    bits (.vrot g w) [w.va] (fun j => a ((j + (w.xfn.extractLsb' 0 8).toNat) % dstLanes w)) ∧
    index (.vlmask g w) [vIdx w.va, vIdx w.vb] (fun j => (if rB + j < rA then 2 ^ n - 1 else 0, 0)) ∧
    index (.viota g w) [vIdx w.va] (fun j => laneRound w (ofInt ((s.rd (vIdx w.va)).toInt + j), 0)) ∧
    (let x := srcLane s w w.va (rB % lanesOf w.etype w.va)
     let sd : BitVec 6 := w.xfn.extractLsb' 0 6
     let y : Word := if w.xfn.getLsbD 6 then BitVec.ofInt 64 (signedAt n x) else BitVec.ofNat 64 x
     VecStarts (.vmovs g w) s (opRegs w.va ++ [vIdx w.vb, sd]) (readSpans w.etype w.va) [] [] 0
       (if sd = 0 then none else some (destReg s sd, y))) ∧
    (let x := laneWrite n w.vd (rB % dstLanes w) (rA % 2 ^ n)
     VecStarts (.vins g w) s [vIdx w.va, vIdx w.vb] [] [(x.row, x.bit, x.width)] [x] 0 none)

/-- Reductions, distances and random numbers of the V strand (R224, R228, R229). -/
def Obligations.VectorReductions : Prop :=
  ∀ (s : State) (g : BitVec 6) (w : VecWord), s.rdPred g = true →
    let n := etWidth w.etype
    let xs := (List.range (lanesOf w.etype w.va)).map fun j => (valOf (viewFmt w.etype) (srcLane s w w.va j)).1
    let red := fun (i : Instr) (y : Nat × BitVec 7) =>
      let x := laneWrite n w.vd (redLane w) y.1
      VecStarts i s (opRegs w.va) (readSpans w.etype w.va) [(x.row, x.bit, x.width)] [x] y.2 none
    let m := xs.foldl Machine.Num.max .nan
    let ev := fun (x : Nat) => (valOf (viewFmt (distOf w)) x).1
    let q := distElem s w w.va 0
    let r := distElem s w w.vb
    let cells := List.range (2048 / etWidth (distOf w))
    let dist := fun (i : Instr) (f : Nat → Nat × BitVec 7) =>
      VecStarts i s [] (distReads w) (spansOf 32 w.vd (distN w))
        ((List.range (distN w)).map fun t => laneWrite 32 w.vd t (f t).1)
        ((List.range (distN w)).foldl (fun x t => x ||| (f t).2) 0) none
    let metric := fun (f : Machine.Num → Machine.Num → Machine.Num × BitVec 7) (t : Nat) =>
      let ts := cells.map fun i => f (ev (q i)) (ev (r t i))
      let x := sumNum (Mode.ofBits w.rm == .rdn) (ts.map fun y => y.1)
      laneRound w (x.1, ts.foldl (fun a y => a ||| y.2) x.2)
    red (.vrsum g w) (laneRound w (sumNum (Mode.ofBits w.rm == .rdn) xs)) ∧
    red (.vrmax g w) (laneExact w m) ∧ red (.vrmin g w) (laneExact w (xs.foldl Machine.Num.min .nan)) ∧
    red (.vrargmax g w) ((xs.findIdx? fun v => !v.isNaN && !v.below m).getD 0, 0) ∧
    dist (.vdistIp g w) (metric Machine.Num.mul) ∧
    dist (.vdistL2 g w) (metric fun a c =>
      let d := sumNum false [a, c.neg]
      ((d.1.mul d.1).1, d.2 ||| (d.1.mul d.1).2)) ∧
    dist (.vdistHam g w) (fun t => (((List.range 256).map fun i => onesIn 8 (q i ^^^ r t i)).sum, 0)) ∧
    (let cb : BitVec 6 := w.xfn.extractLsb' 0 6
     VecStarts (.vrng g w) s [vIdx w.va, vIdx w.vb, cb] [] (rngSpans w)
       ((List.range 64).flatMap fun j =>
         (philox ((s.rd (vIdx w.va)).toNat % 2 ^ 32) ((s.rd (vIdx w.vb)).toNat % 2 ^ 32) ((s.rd cb).toNat * 64 + j)
           (w.xfn.extractLsb' 6 4).toNat).mapIdx fun i y => laneWrite 32 (w.vd + BitVec.ofNat 11 i) j y) 0 none)

/-- VECTOR_COMPLETE and REGION_INSTRUCTION_COMPLETE write the elements of an instruction in progress and no others
(R131, R133, R206, R209, R215, R227). -/
def Obligations.AccumulatorCompletes : Prop :=
  ∀ (s : State) (n idx : Nat) (o : AccOp),
    let reads := fun (t : State) => (∀ x ∈ o.writes, InCell x) → o.writes.Pairwise Apart →
      (∀ x ∈ o.writes, accBits (t.core n).acc x.row x.bit x.width = x.bits % 2 ^ x.width) ∧
      ∀ y : AccWrite, InCell y → (∀ x ∈ o.writes, Apart x y) →
        accBits (t.core n).acc y.row y.bit y.width = accBits (s.core n).acc y.row y.bit y.width
    let rest := fun (t : State) => { t with cores := s.cores } = s ∧ ∀ m, m ≠ n → t.core m = s.core m
    ((s.core n).vops[idx]? = some o → ∃ t, exec (.vectorComplete n idx) s = .next t ∧ rest t ∧ reads t ∧
      (t.core n).vops = (s.core n).vops.filter (fun x => x.id != o.id) ∧
      (t.core n).v.sticky = (s.core n).v.sticky ||| o.sticky ∧
      (o.reg = none → (t.core n).v = { (s.core n).v with sticky := (t.core n).v.sticky }) ∧
      (∀ p x, o.reg = some (p, x) → p ≠ 0 → tget 0 (t.core n).v.regs p = x ∧ p ∉ (t.core n).v.pend)) ∧
    ((s.core n).mops[idx]? = some o → ∃ t, exec (.regionInstructionComplete n idx) s = .next t ∧ rest t ∧ reads t ∧
      (t.core n).mops = (s.core n).mops.filter (fun x => x.id != o.id) ∧
      (t.core n).m = { (s.core n).m with sticky := (s.core n).m.sticky ||| o.sticky })

/-- The join traps, the token-error trap and a fetch at the head of a strand that may issue (R18, R21, R117, R122,
R124, R150, R258). -/
def Obligations.HeadEvents : Prop :=
  ∀ (s : State) (n : Nat) (k : Kind), atHead s n k = true →
    let c := s.core n
    let st := c.strand k
    let traps := fun (i : Instr) (code : Nat) (v : Word) =>
      ∃ t, exec i s = .next t ∧ HeadTraps s t n k code v ∧ (t.core n).toks = c.toks
    (∀ u b, decodeHead s n k = .go u b →
      let tag : Word := b.hdr.jtag.zeroExtend 64
      let m := c.joinMask b.hdr.jtag.toNat
      (b.hdr.sync ≠ 0 → m.getLsbD k.code = false → traps (.joinMember n k) 6 tag) ∧
      (b.hdr.sync ≠ 0 → m.getLsbD k.code = true → partnerHalted c m k = true → traps (.joinBroken n k) 7 tag) ∧
      (joinTrap c k b.hdr = none → flagWaitOk c b.hdr = true → tokBusy c b.hdr.tokmask = false →
        let es := tokErrs c b.hdr.tokmask
        (es = [] → b.hdr.sync ≠ 0 → (n, k) ∈ s.joinReady → ∀ x, st.joinSince = some x →
          c.waitPassed s.now x c.joinLimit.toNat = true →
          traps (.joinTimeout n k) 8 tag) ∧
        (es ≠ [] → ∃ t, exec (.tokenError n k) s = .next t ∧ HeadTraps s t n k 9 (tokErrTval c es) ∧
          (st.mode ≠ .trapped → st.trapvec ≠ 0 → ∀ i, (t.core n).tok i = if i ∈ es then (c.tok i).report else c.tok i)))) ∧
    (∀ u b, decodeHead s n k = .go u b → exec (.instructionFetch n k st.pc.toNat) s = .next u ∧ OneStrand s u n k ∧
      ∃ ic, (u.core n).strand k = { st with icache := ic }) ∧
    (∀ code va, fetchWord s n st st.pc.toNat = .trap code va → traps (.instructionFetch n k st.pc.toNat) code va) ∧
    (∀ va pa leaf bits bs, va % 4 = 0 → va ≠ st.pc.toNat → (st.icache.find? fun x => x.1 == va / 64) = none →
      st.icache.length < icacheLines → translate s (coreCluster n) c.ctx va .fetch = .ok pa leaf bits →
      readUnder s { path := 0, core := n, task := c.task, kind := .a, id := s.nextId, reach := 0 }
        (c.stores.filter OutStore.atCore) (pa / 64 * 64) 64 = .ok bs →
      ∃ t, exec (.instructionFetch n k va) s = .next t ∧ OneStrand s t n k ∧
        (t.core n).strand k = { st with icache := st.icache ++ [(va / 64, BitVec.ofNat 512 (leNat bs))] })

/-- A cube command or ALD whose tiles may be read performs; another looks its tiles up again, and times out (R64, R66,
R67, R143, R189, R194, R195, R197, R198, R199, R203). -/
def Obligations.CommandsPerform : Prop :=
  ∀ (s : State) (n i : Nat) (p : Parked), (s.core n).replay[i]? = some p →
    let c := s.core n
    let others := fun (t : State) => OthersKept s t n ∧ (CleanAt s n → MemKept s t)
    let performs := fun (e : Instr) (xs : List (AccWrite × BitVec 7)) => ∃ t, exec e s = .next t ∧ others t ∧
      (t.core n).acc = accSetAll c.acc (xs.map fun x => x.1) ∧
      (t.core n).replay = c.replay.filter (fun q => q.id != p.id) ∧
      (t.core n).m = { c.m with sticky := c.m.sticky ||| xs.foldl (fun f x => f ||| x.2) 0 } ∧
      (t.core n).a = c.a ∧ (t.core n).c = c.c ∧ (t.core n).v = c.v
    let waits := fun (e : Instr) => ∃ t, exec e s = .next t ∧ others t ∧ (t.core n).acc = c.acc ∧
      (t.core n).replay = c.replay ∧ ∀ k, (t.core n).strand k = c.strand k
    (p.kind ≠ 2 → (parkedReady c p = true → performs (.cubePerform n i) (cubeResults c p)) ∧
      (parkedReady c p = false → waits (.cubePerform n i))) ∧
    (p.kind = 2 → (parkedReady c p = true → performs (.aldComplete n i) (aldResults c p)) ∧
      (parkedReady c p = false → waits (.aldComplete n i))) ∧
    (c.m.mode ≠ .stopped → p.dead = false → parkedReady c p = false → c.waitPassed s.now p.since c.missLimit.toNat = true →
      ∃ t w, (p.wants c.ctx).find? (fun w => !wantHit c w) = some w ∧ exec (.tileMissTimeout n i) s = .next t ∧
        Posted s t c.ctx 2 (strandId s n .m) (packKey w.1) ∧ { t with cores := s.cores, posts := s.posts } = s ∧
        (∀ m, m ≠ n → t.core m = s.core m) ∧ t.core n = { c with
          m := c.m.stop, replay := c.replay.map fun q => if q.id == p.id then { q with dead := true } else q }) ∧
    (let fq := p.fq
     let mul := fun (x y : Machine.Num) => (x.mul y).1
     let bits := fun (r : Block) (mv : Option (BitVec 8)) (x : Word) (u j k : Nat) =>
       let o := (coOuter x).toNat
       let tr := (coRow x).toNat
       let tc := (coCol x).toNat + u
       match alcoveHit c (tileKey c.ctx r o tr tc) r mv with
       | some l => if inGrid r o tr tc = true ∧ (tileIdx r o tr tc j k).isSome then lineElem r l.data j k else recPad r
       | none => recPad r
     let val := fun (r : Block) (mv : Option (BitVec 8)) (x : Word) (u j k : Nat) => (valOf (recTfmt r) (bits r mv x u j k)).1
     let keeps := fun (t : State) (place : AccWrite → Prop) => ∀ y : AccWrite, InCell y → (∀ x, place x → Apart x y) →
       accBits (t.core n).acc y.row y.bit y.width = accBits c.acc y.row y.bit y.width
     (let cw := cubeOf p.w0 p.w1
      let acc := fwAcc fq
      let w := fmtWidth acc
      let opA := fun (m k : Nat) => if p.kind = 1
        then (valOf (fwA fq) (bitsAt (p.areg.getD (16 * m + k * fmtWidth (fwA fq) / 32) 0).toNat
          (k * fmtWidth (fwA fq) % 32) (fmtWidth (fwA fq)))).1
        else val (p.recs.getD 0 0) (fwMinv fq 0) (p.regs.getD 1 0) 0 m k
      let opB := fun (k j : Nat) => val (p.recs.getD 1 0) (fwMinv fq 1) (p.regs.getD 3 0) (j / 64) (rowMap (fwBmap fq) (fwBsh fq) k) (j % 64)
      let opG := fun (m k j : Nat) => if cw.gor = 1 then val (p.recs.getD 2 0) (fwMinv fq 2) (p.regs.getD 5 0) 0 m k
        else val (p.recs.getD 2 0) (fwMinv fq 2) (p.regs.getD 5 0) (j / 64) (rowMap (fwGmap fq) (fwGsh fq) k) (j % 64)
      let scale := fun (xs : List Word32) (j : Nat) => if xs = [] then ofInt 1 else decodeF fF32 (xs.getD j 0).toNat
      let term := fun (m j k : Nat) =>
        let ab := mul (opA m k) (opB k j)
        let x := if cw.gor = 0 then ab
          else mul (if fmtWidth (fwA fq) = 16 then decodeF fQ24 (roundF fQ24 .rne false ab).1 else ab) (opG m k j)
        let y := mul (mul x (scale p.sa m)) (scale p.sb j)
        if cw.amode = 2 then y.neg else y
      let at_ := fun (m j : Nat) => ({ row := cw.row0.toNat + m, bit := 32 * cw.col0.toNat + w * j, width := w, bits := 0 } : AccWrite)
      let elem := fun (m j : Nat) => (List.range (fwK fq / 16)).foldl
        (fun a g => (roundTo acc (fwMode fq) (fwFtz fq) (sumNum (fwMode fq == .rdn)
          ((valOf acc a).1 :: (List.range 16).map fun i => term m j (16 * g + i))).1).1)
        (if cw.amode = 0 then (if acc = 5 then 0 else 2 ^ (w - 1)) else accBits c.acc (at_ m j).row (at_ m j).bit w)
      p.kind ≠ 2 → parkedReady c p = true → outFits cw acc = true → ∃ t, exec (.cubePerform n i) s = .next t ∧
        (∀ m j, m < cubeM cw → j < cubeN cw → accBits (t.core n).acc (at_ m j).row (at_ m j).bit w = elem m j % 2 ^ w) ∧
        keeps t fun x => ∃ m j, m < cubeM cw ∧ j < cubeN cw ∧ x = at_ m j) ∧
     (let r := p.recs.getD 0 0
      let view := p.w1.extractLsb' 29 3
      let w := etWidth view
      let tr := p.w1.getLsbD 24
      ∀ d, transferRegion (p.regs.getD 0 0) r tr = some d → regionFits d w = true → p.kind = 2 → parkedReady c p = true →
        let at_ := fun (j k : Nat) => (if tr then regionWrite d w k j 0 else regionWrite d w j k 0)
        ∃ t, exec (.aldComplete n i) s = .next t ∧
          (∀ j k, j < recRows r → k < recCols r → accBits (t.core n).acc (at_ j k).row (at_ j k).bit w =
            (convert (recTfmt r) (viewFmt view) (Mode.ofBits (p.w1.extractLsb' 26 3)) (p.w1.getLsbD 25)
              (bits r p.minv (p.regs.getD 2 0) 0 j k)).1 % 2 ^ w) ∧
          keeps t fun x => ∃ j k, j < recRows r ∧ k < recCols r ∧ x = at_ j k))

/-- A tile request goes from the hall to the home, is judged there, and returns with the tile (R136, R163, R276, R277,
R278, R353, R356, R366). -/
def Obligations.TileFills : Prop :=
  ∀ (s : State) (i : Nat) (r : TileReq), s.reqs[i]? = some r →
    let e := dirOf s r.key
    let put := fun (x : TileReq) => s.reqs.map fun q => if q.id == r.id then x else q
    let ends := s.reqs.filter fun q => q.id != r.id
    let gather := gatherTile (s.asSeen (r.reader s)) r.cluster r.key.ctx r.lrec r.key.outer.toNat r.key.trow.toNat
      r.key.tcol.toNat
    let passes := fun (ver : BitVec 8) (data : Line) => if r.core.isNone then ends else put { r with stage := .toCore ver data }
    (∀ ver data n, r.stage = .toCore ver data → r.core = some n →
      (∀ l, fillingLine (s.core n).alcove r = some l → ∃ t x, exec (.tileFillArrival i) s = .next t ∧ t.reqs = ends ∧
        { t with cores := s.cores, reqs := s.reqs } = s ∧ (∀ m, m ≠ n → t.core m = s.core m) ∧
        { t.core n with alcove := (s.core n).alcove, aplru := (s.core n).aplru } = s.core n ∧
        x ∈ (t.core n).alcove ∧ x.key = r.key ∧ x.st = .clean ∧ x.ver = ver ∧ x.data = data ∧ x.lrec = r.lrec) ∧
      (fillingLine (s.core n).alcove r = none → exec (.tileFillArrival i) s = .next { s with reqs := ends })) ∧
    (∀ ver data, r.stage = .toHall ver data →
      (∀ l, fillingLine (s.cluster r.cluster).hall r = some l → ∃ t x, exec (.hallFill i) s = .next t ∧
        t.reqs = passes ver data ∧ { t with clusters := s.clusters, reqs := s.reqs } = s ∧
        (∀ m, m ≠ r.cluster → t.cluster m = s.cluster m) ∧
        x ∈ (t.cluster r.cluster).hall ∧ x.key = r.key ∧ x.st = .clean ∧ x.ver = ver ∧ x.data = data ∧ x.lrec = r.lrec) ∧
      (lineOf (s.cluster r.cluster).hall r.key = none → r.line = false →
        exec (.hallFill i) s = .next { s with reqs := passes ver data }) ∧
      (∀ l, fillingLine (s.cluster r.cluster).hall r = none → r.core.isSome = true →
        lookupLine (s.cluster r.cluster).hall r.key r.minv = some l → ∃ t, exec (.hallFill i) s = .next t ∧
        t.reqs = put { r with stage := .toCore l.ver l.data, line := false } ∧
        { t with clusters := s.clusters, reqs := s.reqs } = s ∧ (t.cluster r.cluster).hall = (s.cluster r.cluster).hall)) ∧
    (∀ l m, r.stage = .hall → r.core = none → r.pinBy = some m → lookupLine (s.cluster r.cluster).hall r.key r.minv = some l →
      ∃ t x, exec (.hallFill i) s = .next t ∧ t.reqs = ends ∧ { t with clusters := s.clusters, reqs := s.reqs } = s ∧
        x ∈ (t.cluster r.cluster).hall ∧ x = { l with pins := l.pins ||| pinBit m }) ∧
    (∀ l, r.stage = .hall → r.core.isSome = true → lookupLine (s.cluster r.cluster).hall r.key r.minv = some l →
      ∃ t, exec (.hallFill i) s = .next t ∧ t.reqs = put { r with stage := .toCore l.ver l.data } ∧
        { t with clusters := s.clusters, reqs := s.reqs } = s ∧ (t.cluster r.cluster).hall = (s.cluster r.cluster).hall) ∧
    (∀ hall nv, r.stage = .forwarded hall nv → (∀ q ∈ s.reqs, q.stage ≠ .parked) →
      (∀ l ∈ (s.cluster hall).hall, l.key = r.key → l.thru = false) →
      (∀ l, lookupLine (s.cluster hall).hall r.key r.minv = some l →
        exec (.hallForward i) s = .next { s with reqs := put { r with stage := .toHall nv l.data } }) ∧
      (lookupLine (s.cluster hall).hall r.key r.minv = none →
        exec (.hallForward i) s = .next { s with reqs := put { r with stage := .waitClean } })) ∧
    (r.stage = .waitClean →
      (e.hv = true → ∀ full, exec (.homeRequest i full) s = .next s) ∧
      (∀ d, e.hv = false → gather = .ok d → ∀ full, ∃ t, exec (.homeRequest i full) s = .next t ∧
        t.reqs = put { r with stage := .toHall e.nv d } ∧ { t with reqs := s.reqs, moves := s.moves } = s)) ∧
    (∀ full, r.stage = .home →
      let credit : Prop := e.hv = true → forwardedTo s (homeOf r.key) e.holder < 2
      let parks : Prop := (full = true → exec (.homeRequest i full) s = .next { s with reqs := put { r with stage := .retry s.now } }) ∧
        (full = false → ∃ t, exec (.homeRequest i full) s = .next t ∧ t.reqs = ends ++ [{ r with stage := .parked }] ∧
          { t with reqs := s.reqs, dir := s.dir, posts := s.posts } = s ∧
          ((s.dir.any fun x => x.key == r.key) = true → (dirOf t r.key).pk = true))
      (∀ d, recVersioned r.lrec = false → gather = .ok d → ∃ t, exec (.homeRequest i full) s = .next t ∧
        t.reqs = put { r with stage := .toHall 0 d } ∧ { t with reqs := s.reqs, moves := s.moves } = s) ∧
      (∀ d, recVersioned r.lrec = true → e.meets r.minv r.free = true → e.hv = false → gather = .ok d →
        ∃ t, exec (.homeRequest i full) s = .next t ∧ t.reqs = put { r with stage := .toHall e.nv d } ∧
          { t with reqs := s.reqs, moves := s.moves } = s) ∧
      (recVersioned r.lrec = true → e.meets r.minv r.free = true → e.hv = true → forwardedTo s (homeOf r.key) e.holder < 2 →
        exec (.homeRequest i full) s = .next { s with reqs := put { r with stage := .forwarded e.holder e.nv } }) ∧
      (recVersioned r.lrec = true → e.meets r.minv r.free = true → ¬credit → parks) ∧
      (recVersioned r.lrec = true → e.meets r.minv r.free = false → parks)) ∧
    (∀ x, r.stage = .retry x →
      (x + 256 ≤ s.now → exec (.requestResend i) s = .next { s with reqs := put { r with stage := .home, since := s.now } }) ∧
      (s.now < x + 256 → exec (.requestResend i) s = .next s))

/-- Write-backs, publications and raises of tiles (R174, R278, R313, R354, R356, R370, R415). -/
def Obligations.TileWritebacks : Prop :=
  ∀ (s : State),
    (∀ n i l h, (s.core n).alcove[i]? = some l → l.st = .draining →
      tileWt s (coreCluster n) l.key l.lrec = false → lineOf (s.cluster (coreCluster n)).hall l.key = some h →
      let ver := if l.forPub then (pubLabel s n l.key).getD l.ver else l.ver
      verMeets ver (some h.ver) = true →
      ∃ t x, exec (.alcoveWriteback n i) s = .next t ∧ AllStrands s t ∧
        { t with cores := s.cores, clusters := s.clusters } = s ∧ (∀ m, m ≠ n → t.core m = s.core m) ∧
        x ∈ (t.cluster (coreCluster n)).hall ∧ x.key = l.key ∧ x.data = l.data ∧ x.ver = ver ∧ x.st = .dirty ∧
        x.lrec = l.lrec ∧
        (l.keep = false → ∀ y ∈ (t.core n).alcove, ¬(y.bank = l.bank ∧ y.way = l.way)) ∧
        (l.keep = true → { l with st := .clean, keep := false, units := [], rels := [], byAst := false } ∈ (t.core n).alcove)) ∧
    (∀ cl i l, (s.cluster cl).hall[i]? = some l →
      (l.st ≠ .draining ∨ heldLine s cl l.key = true → exec (.homeWriteback cl i) s = .next s) ∧
      ∀ u, l.st = .draining → heldLine s cl l.key = false → (∀ q ∈ s.reqs, q.key = l.key → q.stage ≠ .parked) →
      (recVersioned l.lrec = false ∨ ((dirOf s l.key).hv = true ∧ (dirOf s l.key).holder = cl)) →
      scatterTile (l.writer s) l.byAst s cl l.key.ctx l.lrec l.key.outer.toNat l.key.trow.toNat l.key.tcol.toNat l.data = .ok u →
      ∃ t, exec (.homeWriteback cl i) s = .next t ∧ t.mem = u.mem ∧ t.cores = s.cores ∧ t.reqs = s.reqs ∧
        (∀ m, m ≠ cl → t.cluster m = s.cluster m) ∧
        (recVersioned l.lrec = true → (s.dir.any fun x => x.key == l.key) = true → (dirOf t l.key).hv = false) ∧
        ∀ y ∈ (t.cluster cl).hall, ¬(y.bank = l.bank ∧ y.way = l.way)) ∧
    (∀ n p ps, (s.core n).pubs = p :: ps → recVersioned p.lrec = true → (s.dir.any fun x => x.key == p.key) = true →
      (awaitsDrain (s.core n) p = true → exec (.homePublication n 0) s = .next s) ∧
      (awaitsDrain (s.core n) p = false → ∃ t, exec (.homePublication n 0) s = .next t ∧ MemKept s t ∧
        (dirOf t p.key).nv = (dirOf s p.key).nv + 1 ∧ (t.core n).pubs = (s.core n).pubs.filter (fun q => q.id != p.id) ∧
        (∀ m, m ≠ n → ∀ k, (t.core m).strand k = (s.core m).strand k) ∧
        (p.pa = none → AllStrands s t) ∧
        (∀ k x, p.pa = some (k, x) → (∀ j, j ≠ k → (t.core n).strand j = (s.core n).strand j) ∧
          (let st := (s.core n).strand k
           let r := (t.core n).strand k
           { r with regs := st.regs, pend := st.pend } = st ∧ r.pend = st.pend.filter (fun y => y != x) ∧
           (x ≠ 0 → tget 0 r.regs x = ((dirOf s p.key).nv + 1).zeroExtend 64) ∧
           ∀ y, y ≠ x → tget 0 r.regs y = tget 0 st.regs y)))) ∧
    (∀ i x, s.raises[i]? = some x → x.since = none → (s.dir.any fun y => y.key == x.key) = true →
      ∃ t, exec (.homeRaise i) s = .next t ∧ AllStrands s t ∧
        (dirOf t x.key).req = (dirOf s x.key).nv + 1 ∧ (dirOf t x.key).nv = (dirOf s x.key).nv ∧
        ((∀ n ∈ clusterCores x.cluster, lineOf (s.core n).alcove x.key = none) → t.raises = dropAt s.raises i))

/-- Copies start, complete, and are released in time order; markers leave; a performed engine command completes (R116,
R168, R171, R284, R301, R329, R330). -/
def Obligations.CopiesProgress : Prop :=
  ∀ (s : State) (cl e : Nat),
    (let b := s.bte cl e
     let k := Nat.min (16 - runCount b) (releasedCount b s.now)
     exec (.copytRelease cl e) s = .next (releaseDue s cl e) ∧
     (let t := releaseDue s cl e
      t.bte cl e = { b with vest := b.vest.drop k, runq := b.runq ++ (b.vest.take k).map fun c => .cmd (admitted s cl c) } ∧
      { t with clusters := s.clusters } = s ∧ (∀ m, m ≠ cl → t.cluster m = s.cluster m) ∧
      ∀ d, d ≠ e → t.bte cl d = s.bte cl d)) ∧
    (∀ c rest u, let s1 := releaseDue s cl e
      (s1.bte cl e).runq = .cmd c :: rest → (s1.bte cl e).act.length < 4 → performCopy s1 cl c = .ok u →
      ∃ t, exec (.copyStart cl e) s = .next t ∧
        t.bte cl e = { s1.bte cl e with runq := rest, act := (s1.bte cl e).act ++ [{ c with begun := true }] } ∧
        { t with clusters := s.clusters } = s ∧ ∀ m, m ≠ cl → t.cluster m = s.cluster m) ∧
    (∀ i c, (s.bte cl e).act[i]? = some c → c.failed = false → olderCopy s cl c = false →
      let ends := fun (u t : State) => CmdEnds s t c ∧ t.mem = u.mem ∧
        (t.bte cl e).act = (s.bte cl e).act.filter (fun x => x.id != c.id) ∧ (t.bte cl e).runq = (s.bte cl e).runq
      (c.done = true → (s.core c.core).task = c.task → ∃ t, exec (.copyComplete cl e i) s = .next t ∧ ends s t) ∧
      (∀ u, c.done = false → performCopy s cl c = .ok u →
        (u.takeBool.1 = false → (s.core c.core).task = c.task → ∃ t, exec (.copyComplete cl e i) s = .next t ∧ ends u t) ∧
        (u.takeBool.1 = true → ∃ t, exec (.copyComplete cl e i) s = .next t ∧ t.mem = u.mem ∧ t.cores = s.cores ∧
          (t.bte cl e).act = (s.bte cl e).act.map (fun x => if x.id = c.id then { x with done := true } else x)))) ∧
    (∀ id rest v, (s.bte cl e).runq = .marker id :: rest → (s.bte cl e).act = [] →
      (s.invals.find? fun x => x.id == id) = some v →
      ∃ u, (u.bte cl e).runq = rest ∧ { u with clusters := s.clusters, invals := s.invals } = s ∧
        (∀ m, m ≠ cl → u.cluster m = s.cluster m) ∧
        (let left := v.left.filter fun x => x != 8 * cl + e
         (left ≠ [] → u.invals = s.invals.map (fun x => if x.id = id then { x with left := left } else x) ∧
           exec (.markerRemove cl e) s = .next u) ∧
         (left = [] → u.invals = s.invals.filter (fun x => x.id != id) ∧
           exec (.markerRemove cl e) s = .next (if v.notify then postNote u v.ctx 0 4 4 0 0 else u)))) ∧
    (∀ i c, (doneCmds s)[i]? = some c → (s.raises.any fun r => r.cmd == c.id) = false → owesAcks s c = false →
      (s.core c.core).task = c.task →
      ∃ t, exec (.engineComplete i) s = .next t ∧ CmdEnds s t c ∧ t.mem = s.mem ∧ t.posts = s.posts ∧
        (∀ m, ∀ x ∈ (t.cluster m).selq ++ (t.cluster m).lndq, x.id ≠ c.id) ∧
        (∀ d, ∀ x ∈ (t.die d).rteq ++ (t.die d).collq, x.id ≠ c.id) ∧
        ∀ x ∈ doneCmds s, x.id ≠ c.id → x ∈ doneCmds t)

/-- The units of a cluster and of a die perform their commands, or end them in a fault (R301, R303, R306, R310, R334,
R335, R336, R337, R338, R343, R408, R410). -/
def Obligations.EnginesPerform : Prop :=
  ∀ (s : State),
    let marked := fun (c x : EngineCmd) => x.id = c.id ∧ x.begun = true ∧ x.done = true
    let failed := fun (t : State) (c : EngineCmd) (q : List EngineCmd) => t.cores = s.cores ∧ t.mem = s.mem ∧
      ∃ x ∈ q, x.id = c.id ∧ x.begun = true ∧ x.failed = true
    let accFault := fun (t : State) (c : EngineCmd) (unit code : Nat) (e : AccFail) => match e with
      | .access va => Posted s t c.ctx code (BitVec.ofNat 64 unit) (BitVec.ofNat 64 va)
      | .walk va => Posted s t c.ctx 0x12 0x200 (BitVec.ofNat 64 va)
      | .data pa => unreachable s pa = false → Posted s t c.ctx (code + 1) (BitVec.ofNat 64 unit) (BitVec.ofNat 64 pa)
    (∀ cl c rest, (s.cluster cl).selq = c :: rest → c.begun = false → olderOverlap s c = false →
      (∀ u, performSelection s cl c = .ok u → ∃ t x, exec (.selectionPerform cl) s = .next t ∧ t.mem = u.mem ∧
        t.cores = s.cores ∧ t.posts = s.posts ∧ x ∈ (t.cluster cl).selq ∧ marked c x) ∧
      (∀ e, performSelection s cl c = .error e → ∃ t, exec (.selectionPerform cl) s = .next t ∧
        failed t c (t.cluster cl).selq ∧ accFault t c (0x400 + cl) 0x14 e)) ∧
    (∀ cl c (keys elig pay : Nat → List Nat),
      let b := c.block
      let key := c.recs.getD 0 0
      let segs := selSegs c.fn b
      let paid : Prop := c.fn = 0 ∧ selPe b = true
      let is := fun (g : Nat) => (List.range (selLen c.fn b)).map (selIn b g)
      let read := fun (i g : Nat) => readElems c.party s cl c.ctx (c.recs.getD i 0) (is g)
      (∀ g < segs, read 0 g = .ok (keys g) ∧ (keys g).length = selLen c.fn b ∧
        (selMe b = true → read 3 g = .ok (elig g)) ∧ (paid → read (if selMe b then 4 else 3) g = .ok (pay g))) →
      let val := fun (g i : Nat) => (valOf (recEfmt key) ((keys g).getD i 0)).1
      let below := fun (g i j : Nat) => ((val g i).isNaN = true ∧ (val g j).isNaN = false) ∨ (val g i).lt (val g j) = true
      let can := fun (g : Nat) => (List.range (selLen c.fn b)).filter fun i => !selMe b || (elig g)[i]? == some 1
      let index := fun (g i : Nat) => if c.fn = 0 then (if selPe b then (pay g).getD i 0 else bfield b 0x10 0 32 + i) else i
      let out := fun (g i : Nat) => ((if (val g i).isNaN then fillKey (recEfmt key) else (keys g).getD i 0), index g i)
      (recEfmt key = 0 ∨ recEfmt key = 2 ∨ recEfmt key = 5) → (∀ g < segs, selMe b = true → (elig g).length = selLen c.fn b) →
      ∃ order : Nat → List Nat,
        (∀ g < segs, (order g).Perm (can g) ∧ (order g).Pairwise fun i j => below g j i ∨ (¬below g i j ∧ i < j)) ∧
        ∃ s1, MemKept s s1 ∧ s1.cores = s.cores ∧ performSelection s cl c =
          foldE (fun t (x : List Nat × Nat × Nat) => do
              let u ← engineWrite t (some cl) cl c.ctx (c.recs.getD 1 0) x.1 x.2.1
              engineWrite u (some cl) cl c.ctx (c.recs.getD 2 0) x.1 x.2.2)
            ((List.range segs).flatMap fun g => (List.range (selK c.fn b)).map fun j =>
              (selOut b g j, match (order g)[j]? with
                | some i => out g i
                | none => (fillKey (recEfmt key), 0xFFFFFFFF))) s1) ∧
    (∀ lnd slot c, ((s.cluster lnd).lndq.find? fun x => cmdSlot x == slot) = some c →
      let ends := fun (u : State) => ∃ t x, exec (.landingPerform lnd slot) s = .next t ∧ t.mem = u.mem ∧ t.cores = s.cores ∧
        x ∈ (t.cluster lnd).lndq ∧ marked c x
      let faults := fun (e : AccFail) => ∃ t, exec (.landingPerform lnd slot) s = .next t ∧ failed t c (t.cluster lnd).lndq ∧
        accFault t c (0x500 + lnd) 0x14 e
      (c.begun = false → olderOverlap s c = false →
        (∀ u, c.fn = 0 → performSetup s lnd c = .ok u → ends u) ∧ (∀ e, c.fn = 0 → performSetup s lnd c = .error e → faults e) ∧
        (∀ l ∈ (s.cluster lnd).slots, c.fn = 1 → l.num = slot → ∃ t, exec (.landingPerform lnd slot) s = .next t ∧
          { l with groups := addReg l.groups c.block (c.recs.getD 0 0) } ∈ (t.cluster lnd).slots ∧ t.mem = s.mem) ∧
        (∀ l, c.fn = 2 → findSlot (s.cluster lnd) slot = some l →
          (∀ e, performRound s lnd c l = .error e → faults e) ∧
          ∀ u d, performRound s lnd c l = .ok u → ((u.cluster lnd).lndq.find? fun x => x.id == c.id) = some d →
            exec (.landingPerform lnd slot) s = .next (recordRound u lnd d)) ∧
        (∀ l ∈ (s.cluster lnd).slots, c.fn = 3 → l.num = slot → l.owner = none → ∃ t, exec (.landingPerform lnd slot) s = .next t ∧
          (∃ x ∈ (t.cluster lnd).slots, x.num = slot ∧ x.st = .free ∧ x.mask = 0 ∧ x.groups = []) ∧ t.mem = s.mem)) ∧
      (∀ l, c.begun = true → c.done = false → c.failed = false → (s.raises.any fun r => r.cmd == c.id) = false →
        findSlot (s.cluster lnd) slot = some l →
        let put := enginePutAs c.party lnd c.ctx (unmRec l.block) (roundRecord s (c.result.getD 0 0) (c.result.getD 1 0)
          (c.result.getD 2 0) (c.result.getD 3 0)) s
        (∀ u, put = .ok u → ends u) ∧ ∀ e, put = .error e → faults e)) ∧
    (∀ die sess c, sessHead s die sess = some c → c.begun = false → olderOverlap s c = false →
      let q := fun (t : State) => (t.die die).rteq
      let runs := fun (t : State) => exec (.concoursePerform die sess) s = .next t
      let ends := fun (u : State) => ∃ t y, runs t ∧ t.mem = u.mem ∧ t.cores = s.cores ∧
        y ∈ q t ∧ y.id = c.id ∧ y.begun = true ∧ y.done = (owedRows u die (cmdSess c) == 0)
      let faults := fun (e : RouteStop) => ∃ t, runs t ∧ failed t c (q t) ∧ (match e with
        | .acc d e => accFault t c (0x600 + d.getD die) 0x18 e
        | .table e => Posted s t c.ctx 0x1A (BitVec.ofNat 64 (0x600 + die)) (BitVec.ofNat 64 e)
        | .mismatch r => Posted s t c.ctx 0x1B (BitVec.ofNat 64 (0x600 + die)) (BitVec.ofNat 64 r))
      (c.op = 0x32 → c.fn = 0 →
        (rteFree c.block = true → ∃ t, runs t ∧ t.mem = s.mem ∧ t.cores = s.cores ∧
          ∀ x ∈ (t.die die).sessions, x.num = rteSess c.block → x.owner ≠ none) ∧
        (rteFree c.block = false →
          (∀ e, readTable s (coreCluster c.core) c = .error e → faults e) ∧
          ∀ tab, readTable s (coreCluster c.core) c = .ok tab → ∃ t, runs t ∧ t.mem = s.mem ∧ t.cores = s.cores ∧
            (∃ y ∈ q t, y.id = c.id ∧ y.begun = true) ∧
            ∀ x ∈ (s.die die).sessions, x.num = rteSess c.block → ∃ z ∈ (t.die die).sessions, z.num = x.num ∧
              z.owner = x.owner ∧ z.home = coreCluster c.core ∧ z.st = .set ∧ z.block = c.block ∧ z.recs = c.recs ∧
              z.group = cmdGroup s c (rteGrp c.block) ∧ z.table = tab ∧ z.seq = 0 ∧ z.counts = [])) ∧
      (∀ x, findSession (s.die die) (cmdSess c) = some x → x.st ≠ .free →
        let d := routeCmd s c x
        let b := x.block
        (c.op = 0x32 → c.fn = 1 → c.seq = 0 → (∀ e, readChoices s x d = .error e → faults e) ∧
          ∀ ids, readChoices s x d = .ok ids →
            let m : CountMsg :=
              { group := x.group, sess := x.num, seq := x.seq + 1, rank := rteRank b, experts := rteE b,
                choices := rteK b, ranks := rteNr b, dim := rteDim x.recs,
                counts := (List.range (rteE b)).map fun e => (ids.filter fun i => i == e).length }
            let c1 := { d with seq := x.seq + 1, since := s.now }
            ∃ s1, MemKept s s1 ∧ s1.cores = s.cores ∧
              exec (.concoursePerform die sess) s = .next (settleCount ((sendCount s1 m).modEngineCmd c.id fun _ => c1) die c1 x)) ∧
        (c.op = 0x32 → c.fn = 1 → c.seq ≠ 0 →
          let ms := countsFor s die x c.seq
          (∀ m, (ms.find? fun m => !countShape x m) = some m → faults (.mismatch m.rank)) ∧
          ((∀ m ∈ ms, countShape x m = true) →
            ((∃ r < rteNr b, ∀ m ∈ ms, m.rank ≠ r) → exec (.concoursePerform die sess) s = .next s) ∧
            ((∀ r < rteNr b, ∃ m ∈ ms, m.rank = r) → ∀ own, (ms.find? fun m => m.rank == rteRank b) = some own →
              let put := writeElems d.party x.home c.ctx (x.recs.getD 7 0)
                (((List.range (rteE b)).map fun e => ([e, 0], own.counts.getD e 0)) ++ (List.range (rteE b)).map fun e =>
                  ([e, 2], ((ms.filter fun m => decide (m.rank < rteNr b)).map fun m => m.counts.getD e 0).sum)) s
              (∀ e, put = .error e → faults (.acc none e)) ∧
              ∀ u, put = .ok u → ∃ t y, runs t ∧ t.mem = u.mem ∧ t.cores = s.cores ∧ y ∈ q t ∧ y.id = c.id ∧ y.begun = true ∧
                ∀ z ∈ (t.die die).sessions, z.num = x.num → z.st = .counted ∧ z.seq = c.seq ∧ z.counts = ms))) ∧
        (c.op = 0x32 → c.fn = 2 → (∀ u, performPlace s die d x = .ok u → ends u) ∧ ∀ e, performPlace s die d x = .error e → faults e) ∧
        (c.op = 0x32 → c.fn = 3 → (∀ u, performScatter s die d x = .ok u → ends u) ∧ ∀ e, performScatter s die d x = .error e → faults e) ∧
        (c.op = 0x33 → (∀ u, performGather s die d x = .ok u → ends u) ∧ ∀ e, performGather s die d x = .error e → faults e))) ∧
    (∀ die m, m.group.domain = true → die < 4 → waitingCount (s.modDie die fun d => { d with held := d.held ++ [m] }) die m.sess = none →
      ((s.die die).held.any fun x => sameCount x m) = false →
      ((s.die die).sessions.any fun x => x.num == m.sess && x.group == m.group) = false →
      ∃ t, exec (.countContribution die m) s = .next t ∧ (t.die die).held = (s.die die).held ++ [m] ∧
        { t with dies := s.dies } = s ∧ ∀ d, d ≠ die → t.die d = s.die d) ∧
    (∀ die sess c x r, waitingCount s die sess = some (c, x) →
      ((List.range (rteNr x.block)).find? fun r => (countsFor s die x c.seq).all fun m => m.rank != r) = some r →
      limitPassed s.now c.since (rteTmo x.block) = true →
      ∃ t, exec (.routeTimeout die sess) s = .next t ∧ t.cores = s.cores ∧ t.mem = s.mem ∧
        Posted s t c.ctx 0x1C (BitVec.ofNat 64 (0x600 + die)) (BitVec.ofNat 64 r)) ∧
    (∀ die i c, (s.die die).collq[i]? = some c → c.done = false → c.failed = false →
      let v := collView s c
      let ms := collsFor s c v
      let dst := c.recs.getD 1 0
      let unit := 0xA00 + coreDie c.core
      let q := fun (t : State) => (t.die die).collq
      let runs := fun (t : State) => exec (.collectivePerform die i) s = .next t
      let faults := fun (e : AccFail) => ∃ t, runs t ∧ failed t c (q t) ∧ accFault t c unit 0x14 e
      (c.begun = false → olderOverlap s c = false → ∀ e, collMsg s c v = .error e → faults e) ∧
      (c.begun = true →
        (∀ m, (ms.find? fun m => !collShape c v m) = some m → ∃ t, runs t ∧ failed t c (q t) ∧
          Posted s t c.ctx 0x32 (BitVec.ofNat 64 unit) (BitVec.ofNat 64 m.rank)) ∧
        (let scope := match s.group? v.key with
           | none => c.scope
           | some g => Nat.max c.scope g.scope
         let s0 := s.modEngineCmd c.id fun d => { d with scope := scope }
         let ws := collResults c.block v (recEfmt (c.recs.getD 0 0)) (recEfmt dst) ms
         let put := foldE (fun t x => engineWrite t none (collCluster c) c.ctx dst x.1 x.2) ws
           (openElems c.party (collCluster c) c.ctx dst (ws.map fun x => x.1) s0)
         (∀ m ∈ ms, collShape c v m = true) → (∀ q < v.p, ∃ m ∈ ms, m.rank = q) →
           (∀ u, put = .ok u → ∃ t x, runs t ∧ t.mem = u.mem ∧ t.cores = s.cores ∧ x ∈ q t ∧ marked c x) ∧
           ∀ e, put = .error e → faults e) ∧
        (∀ q, limitPassed s.now c.since (collTmo c.block) = true →
          ((List.range v.p).find? fun q => ms.all fun m => m.rank != q) = some q →
          ∃ t, exec (.collectiveTimeout die i) s = .next t ∧ t.cores = s.cores ∧ t.mem = s.mem ∧
            Posted s t c.ctx 0x33 (BitVec.ofNat 64 unit) (BitVec.ofNat 64 q)))) ∧
    (∀ m, m.group.domain = true → (s.colls.any fun x => x.group == m.group && x.seq == m.seq && x.rank == m.rank) = false →
      (∀ d ∈ s.dies, ∀ c ∈ d.2.collq, c.begun = false) →
      exec (.collContribution m) s = .next { s with colls := s.colls ++ [m] })

/-- Page walks enter the TLB, and pages move to HBM and back (R283, R284, R364, R365). -/
def Obligations.PageEvents : Prop :=
  ∀ (s : State),
    (∀ cl ctx va c pa leaf bits, s.ctxAt ctx = some c → cl < 40 → tlbHit s cl c.id va = none →
      walk s c.id va = .ok pa leaf bits → ∃ t, exec (.pageWalkComplete cl ctx va) s = .next t ∧
        lookupVa t cl c.id va = .ok pa leaf bits ∧ { t with clusters := s.clusters } = s ∧
        (∀ m, m ≠ cl → t.cluster m = s.cluster m) ∧ { t.cluster cl with tlb := (s.cluster cl).tlb } = s.cluster cl) ∧
    (∀ i m, s.moves[i]? = some m →
      let leaves := fun (t : State) (frame : Nat) => ∀ n, { t.core n with scache := (s.core n).scache, toks := (s.core n).toks } = s.core n ∧
        (t.core n).scache = (s.core n).scache.filter fun x => !inFrame frame (64 * x.1)
      (m.st = .wait → ∀ c x u, (s.moves.find? fun y => y.ctx == m.ctx && y.st == .wait) = some m →
        pageMoving s m = false → promotable s (coreCluster m.core) m.ctx m.va = some m.old → s.ctx? m.ctx = some c →
        takeSpare s (coreCluster m.core) c = .ok (some (x, u)) →
        ∃ t, exec (.pageMigrationCopy i) s = .next t ∧ { m with new := x, st := .copying } ∈ t.moves ∧ t.mem = u.mem ∧
          t.cores = u.cores) ∧
      (m.st = .copying → ∃ t, exec (.pageMigrationCopy i) s = .next t ∧
        { m with copied := 0xFFFF_FFFF_FFFF_FFFF#64, st := .switching, inval := some s.nextId } ∈ t.moves ∧
        t.cores = s.cores ∧ (∃ v ∈ t.invals, v.id = s.nextId ∧ v.ctx = m.ctx) ∧
        ∀ cl, ∀ e ∈ (t.cluster cl).tlb, e.ctx ≠ m.ctx) ∧
      (m.st = .switching → invalDone s m = true → frameIdle s m.old = true → ∃ t, exec (.pageMigrationSwitch i) s = .next t ∧ t.mem = s.mem ∧
        AllStrands s t ∧ leaves t m.old ∧
        (m.lu = true → { m with st := .resident, inval := none, read := 0, wrote := 0 } ∈ t.moves) ∧
        (m.lu = false → t.moves = s.moves.filter (fun x => x.id != m.id) ∧ t.farPool = s.farPool ++ [m.old]) ∧
        (∀ c, s.ctx? m.ctx = some c → ∃ d, t.ctx? m.ctx = some d ∧
          d.promoLate = if m.deadline ≠ 0 ∧ m.deadline < s.now then c.promoLate + 1 else c.promoLate)) ∧
      (m.st = .resident → m.read = 0xFFFF_FFFF_FFFF_FFFF#64 → ∃ t x, exec (.pageReturn i) s = .next t ∧ x ∈ t.moves ∧
        x.id = m.id ∧ x.st = .returning ∧ x.inval = some s.nextId ∧ t.cores = s.cores) ∧
      (m.st = .returning → invalDone s m = true → frameIdle s m.new = true → ∃ t, exec (.pageReturn i) s = .next t ∧ t.mem = s.mem ∧
        AllStrands s t ∧ leaves t m.new ∧ t.moves = s.moves.filter (fun x => x.id != m.id) ∧
        ∀ c, s.ctx? m.ctx = some c → ∃ d, t.ctx? m.ctx = some d ∧
          d.stash = (if c.stash.length < 256 then c.stash ++ [m.new] else c.stash) ∧
          d.reclaim = (if c.stash.length < 256 then c.reclaim else c.reclaim ++ [m.new])))

/-- Arrivals at a group s scheduler, arrivals of other modules, and flag updates that reach their task (R100, R241,
R242, R261, R297, R298, R403, R404). -/
def Obligations.GroupsAndFlags : Prop :=
  ∀ (s : State),
    (∀ i m g, s.gmsgs[i]? = some m → ((s.gmsgs.take i).any fun x => x.key == m.key && x.task == m.task) = false →
      s.group? m.key = some g → m.what = 0 → g.joiners.contains m.task = false →
      let arr := g.arrived ++ [(m.task, m.flag)]
      (({ g with arrived := arr } : GroupState).localDone = false →
        exec (.groupArrival i) s = .next (({ s with gmsgs := dropAt s.gmsgs i } : State).modGroup m.key fun x =>
          x.arrive m.task m.flag)) ∧
      (({ g with arrived := arr } : GroupState).localDone = true → g.key.domain = false → g.scope ≠ 2 → g.members ≠ [] →
        g.joiners = [] → g.next = [] → groupDead s m.key = false → ∃ t, exec (.groupArrival i) s = .next t ∧
          t.fmsgs = s.fmsgs ++ arr.map (fun a => { task := some a.1, core := 0, flag := a.2, add := 1, scope := g.scope }) ∧
          t.group? m.key = some { g with gen := g.gen + 1, arrived := [], sent := false, doneAt := some s.now,
                                         mods := g.mods.filter fun x => decide (g.gen < x.2) } ∧
          { t with gmsgs := s.gmsgs, groups := s.groups, fmsgs := s.fmsgs } = s)) ∧
    (∀ (xkey : BitVec 32) (mods : BitVec 512) (md gen : Nat),
      let run := exec (.moduleArrival xkey { num := md, mods := mods } gen) s
      let held : EarlyMsg := { xkey := xkey, cast := false, mods := mods, module := md, gen := gen }
      let faults := ∃ t, run = .next t ∧ { t with posts := s.posts } = s ∧ ∀ l ∈ s.launches, l.hasKey xkey = true →
        ∃ r ∈ t.posts, r.code = 0x34 ∧ r.ctx = l.ctx ∧ r.val = xkey.zeroExtend 64
      ((s.groups.find? fun g => g.key.domain && g.key.xkey == xkey) = none →
        (otherMods? s xkey mods = none →
          run = .next (if mods.getLsbD s.modNum.toNat then { s with early := s.early ++ [held] } else s)) ∧
        ((otherMods? s xkey mods).isSome = true → faults)) ∧
      (∀ g, (s.groups.find? fun g => g.key.domain && g.key.xkey == xkey) = some g → md < 512 → md ≠ s.modNum.toNat →
        (mods ≠ g.key.mods ∨ g.key.mods.getLsbD md = false → faults) ∧
        (mods = g.key.mods → g.key.mods.getLsbD md = true →
          (g.gone.contains md = true → run = .next { s with early := s.early ++ [held] }) ∧
          (g.gone.contains md = false → g.localDone = false →
            (gen ≠ 0 → g.mods.contains (md, gen - 1) = false → g.gen ≤ gen - 1 →
              run = .next (s.modGroup g.key fun x => { x with mods := x.mods ++ [(md, gen - 1)] })) ∧
            (gen = 0 → run = .next (endGroups (s.modGroup g.key fun x => { x with gone := x.gone ++ [md] }))))))) ∧
    (∀ i m k y, s.fmsgs[i]? = some m → m.task = some k → ((s.fmsgs.take i).any fun x => x.task == some k) = false →
      s.task? k = some y →
      (y.st ≠ .retired → y.st ≠ .ended → (y.live = true ∨ y.saved = true ∧ y.flagsHeld = true) →
        ∃ t, exec (.remoteFlagUpdate i) s = .next t ∧ t.fmsgs = dropAt s.fmsgs i ∧ t.mem = s.mem ∧
        (m.scope ≤ 2 → { t with cores := s.cores, fmsgs := s.fmsgs } = s) ∧
        (2 < m.scope → (∀ v ∈ (t.cluster (coreCluster y.core)).hall, v.st = .clean → recVersioned v.lrec = true) ∧
          ∀ z, t.task? k = some z → z.farFlag = true) ∧
        (∀ n, n ≠ y.core → t.core n = s.core n) ∧
        { t.core y.core with flags := (s.core y.core).flags } = s.core y.core ∧
        ∀ j, (t.core y.core).flag j = if j = m.flag then (s.core y.core).flag j + m.add else (s.core y.core).flag j) ∧
      (y.live = false → y.saved = true → y.flagsHeld = false → y.st ≠ .retired → y.st ≠ .ended →
        (2 < m.scope → ∃ t, exec (.remoteFlagUpdate i) s = .next t ∧ t.fmsgs = dropAt s.fmsgs i ∧ t.cores = s.cores ∧
          ∀ z, t.task? k = some z → z.farFlag = true) ∧
        (∀ pa z bs u, m.scope ≤ 2 → savedFlagAt s y m.flag = some (pa, z) → readPhys s pa 4 = .ok bs →
          writePhys z s pa (leBytes 4 (leNat bs + m.add.toNat)) = (u, none) →
          exec (.remoteFlagUpdate i) s = .next { u with fmsgs := dropAt u.fmsgs i }) ∧
        (m.scope ≤ 2 → savedFlagAt s y m.flag = none →
          exec (.remoteFlagUpdate i) s = .next { s with fmsgs := dropAt s.fmsgs i, tasks := s.tasks.map fun x =>
            if x.id == y.id then { x with flagsIn := x.flagsIn ++ [(m.flag, m.add)] } else x })) ∧
      (y.st = .retired → ∃ t, exec (.remoteFlagUpdate i) s = .next t ∧ t.fmsgs = dropAt s.fmsgs i ∧
        { t with fmsgs := s.fmsgs, tasks := s.tasks } = s))

/-- A launch is taken from a queue or the host s ring, its task placed on a core, and started there (R151, R236, R238,
R287, R290, R291, R292, R295, R379, R382). -/
def Obligations.LaunchesPlaced : Prop :=
  ∀ (s : State),
    (∀ cl q e rest c bs r p, renqOf s (cl, q) = e :: rest → s.ctx? e.ctx = some c →
      (c.ctl = .stopping ∨ c.ctl = .stopped → exec (.launchTake cl q) s = .next s) ∧
      (c.ctl = .running →
        let u := setRenq s (cl, q) rest
        let b := BitVec.ofNat 2048 (leNat bs)
        engineBytes u cl e.ctx e.addr.toNat 256 = .ok bs → commandOk b = true →
        judgeLaunch u cl e.ctx (b.extractLsb' 64 64).toNat (if q = 16 then none else some (16 * cl + q)) = .ok (r, p) →
        ∃ t l, exec (.launchTake cl q) s = .next t ∧ t.launches = s.launches ++ [l] ∧ l.ctx = e.ctx ∧ l.recBits = r ∧
          l.recs = p.recs ∧ l.gtab = p.gtab ∧ l.cluster = cl ∧ l.prio.toNat = Nat.max e.prio.toNat (lPrio r) ∧
          l.arg = b.extractLsb' 128 64 ∧ t.tasks = s.tasks ++ (List.range (lTasks r)).map (fun i => newTask s l.id i r) ∧
          t.cores = s.cores ∧ renqOf t (cl, q) = rest)) ∧
    (∀ ctx cl c bs r p, s.ctxAt ctx = some c → c.lqtail ≠ c.lqhead → (c.lqtail - c.lqhead).toNat ≤ c.lqsize →
      c.ctl = .running → c.fault = none → noteReady s c.id = true → cl < 40 → clusterWorks s cl = true →
      engineBytes s cl c.id (c.lq + 64 * (c.lqhead.toNat % c.lqsize)) 64 = .ok bs →
      let b := BitVec.ofNat 512 (leNat bs)
      b.extractLsb' 192 320 = 0 →
      judgeLaunch (s.modCtx c.id fun c => { c with lqhead := c.lqhead + 1 }) cl c.id (b.extractLsb' 0 64).toNat none =
        .ok (r, p) →
      ∃ t l d, exec (.hostLaunchTake ctx cl) s = .next t ∧ t.launches = s.launches ++ [l] ∧ l.ctx = c.id ∧
        l.recBits = r ∧ l.notify = b.extractLsb' 64 64 ∧ l.tag = some (b.extractLsb' 128 64) ∧
        l.prio.toNat = Nat.max c.pmin (lPrio r) ∧
        t.tasks = s.tasks ++ (List.range (lTasks r)).map (fun i => newTask s l.id i r) ∧ t.cores = s.cores ∧
        t.ctx? c.id = some d ∧ d.lqhead = c.lqhead + 1) ∧
    (∀ cl w k c n, cl < 40 → waitingAt s cl = [w] → w.tasks = [k] → isGang w.launch = false →
      s.ctx? w.launch.ctx = some c → mayPlace s c w.launch = true →
      (usableCores s w.launch k).find? (coreFree s) = some n → s.task? k.id = some k →
      ∃ t y, exec (.schedulerWalk cl) s = .next t ∧ t.task? k.id = some y ∧ y.st = .residing ∧ y.core = n ∧
        y.since = s.now ∧ (t.core n).task = some k.id ∧ (t.core n).ctx = w.launch.ctx ∧
        (t.core n).prio = BitVec.ofNat 2 (eprio s w.launch w.arrival) ∧
        OthersKept s t n) ∧
    (∀ k y, s.task? k = some y → y.st = .residing →
      limitPassed s.now y.since (s.cluster (coreCluster y.core)).restime.toNat = true →
      exec (.residencyTimeout k) s = .next (s.modTask k fun t => { t with st := .starting })) ∧
    (∀ k y l, s.task? k = some y → s.launch? y.launch = some l → readyToStart s y l = true → y.saved = false →
      let old := s.core y.core
      let at_ := fun (j : Kind) => ({ mode := .running, pc := BitVec.ofNat 64 (lEntry l.recBits j) } : Strand)
      ∃ t z, exec (.taskStart k) s = .next t ∧ t.task? k = some z ∧ z.st = .running ∧ z.core = y.core ∧
        z.grps = firstGroups l y.index ∧ (∀ m, m ≠ y.core → t.core m = s.core m) ∧
        t.core y.core = { a := at_ .a, c := at_ .c, m := at_ .m, v := at_ .v,
                          alcove := old.alcove.filter (fun v => v.key.ctx != l.ctx || recVersioned v.lrec),
                          aplru := old.aplru, recs := startRecs l, ctx := l.ctx, prio := old.prio, arg := l.arg,
                          task := some k })

/-- Tasks and launches retire, are cut and saved, and resume (R116, R244, R259, R262, R263, R264, R265, R293, R383,
R387). -/
def Obligations.TasksEnd : Prop :=
  ∀ (s : State) (k : Nat) (y : Task) (l : Launch), s.task? k = some y → s.launch? y.launch = some l →
    let n := y.core
    let c := s.core n
    (y.st = .running → c.finished = true →
      (tokErrs c 0xFF = [] → ∃ t z, exec (.taskRetire k) s = .next t ∧ t.task? k = some z ∧ z.st = .retired ∧ z.area = 0 ∧
        (t.core n).task = none) ∧
      (tokErrs c 0xFF ≠ [] → ∃ t, exec (.taskRetire k) s = .next t ∧
        Posted s t c.ctx 0x0A (strandId s n .a) (tokErrTval c (tokErrs c 0xFF)) ∧ (t.core n).a = c.a.stop ∧
        t.tasks = s.tasks)) ∧
    ((∀ x ∈ s.tasks, x.launch = l.id → x.st = .retired) → faulted (drainRan s l) l.ctx = false →
      ∃ t, exec (.launchRetire y.launch) s = .next t ∧ t.launches = s.launches.filter (fun x => x.id != l.id) ∧
        t.tasks = s.tasks.filter (fun x => x.launch != l.id) ∧
        ∀ m, { t.core m with alcove := (s.core m).alcove } = s.core m) ∧
    (y.st = .stopping → y.why = 0 → y.cutAt = none →
      (c.pgrace = 0 ∨ limitPassed s.now c.preqSince c.pgrace.toNat = true) →
      exec (.preemptGraceExpiry k) s = .next (s.modTask k fun t => { t with cutAt := some s.now })) ∧
    (atCut s y = true →
      (∀ x, (leaveTiles (saveTask s y) n l.ctx).task? k = some x →
        areaUnwritable (traceStop (leaveTiles (saveTask s y) n l.ctx) x l.ctx) x l.ctx
          (areaEnd x.parked.length x.cmds.length) = none) →
      ∃ t z, exec (.cut k) s = .next t ∧ t.task? k = some z ∧ z.st = .saving ∧ z.saved = true ∧ z.core = n ∧
        z.cutAt = some (y.cutAt.getD s.now) ∧ z.cmds = withdrawn s k ∧ (t.core n).replay = [] ∧ (t.core n).task = c.task) ∧
    (∀ v u, y.st = .saving → saveOf s y = some v → saveParked s v = false →
      writeBlocks v (v.blocks.filter fun b => !y.ackd.getLsbD b) s = .ok u →
      ∃ t z, exec (.saveComplete k) s = .next t ∧ t.task? k = some z ∧ z.arrival = s.now ∧ z.saved = y.saved ∧
        (t.core n).task = none ∧ (∀ m, m ≠ n → t.core m = s.core m) ∧ (v.c.ctl ≠ .stopping → t.mem = u.mem) ∧
        (y.why < 2 → z.st = .waiting) ∧ (2 ≤ y.why → v.c.resumePend = false → z.st = .stopped)) ∧
    (∀ x, s.ctx? l.ctx = some x → readyToStart s y l = true → y.saved = true → areaUnreadable s x y false 0x1000 = none →
      let w := areaWord s x y
      let nrec := ((w 0x18).extractLsb' 17 7).toNat
      areaHeaderOk w = true →
      areaUnreadable s x y ((w 0x18).getLsbD 0)
        (areaEnd ((w 0x18).extractLsb' 12 5).toNat ((w 0x18).extractLsb' 24 7).toNat) = none →
      ∃ t z, exec (.taskResume k) s = .next t ∧ t.task? k = some z ∧ z.st = .running ∧ z.saved = false ∧ z.core = n ∧
        (∀ j, ({ (t.core n).strand j with bpSkip := none } : Strand) = loadStrand w j) ∧
        (y.matched = [] → ∀ j, ((t.core n).strand j).bpSkip = none) ∧
        (∀ j pc, y.matched = [(j, pc)] → ((t.core n).strand j).bpSkip = if (loadStrand w j).pc = pc then some pc else none) ∧
        (t.core n).recs = (List.range nrec).map (fun i => blockFrom w (0x3000 + 128 * i)) ∧ (t.core n).arg = l.arg ∧
        (t.core n).task = some k ∧
        ∀ m, m ≠ n → { t.core m with flags := (s.core m).flags, alcove := (s.core m).alcove } = s.core m)

/-- Contexts are created and destroyed, ring pointers move, and a fault is recorded and ends its context (R267, R268,
R376, R378, R379, R380, R382, R388, R389). -/
def Obligations.ContextEvents : Prop :=
  ∀ (s : State),
    let result := fun (n : Nat) (id : BitVec 12) => BitVec.ofNat 64 (n * 2 ^ 56 + id.toNat)
    (∀ addr d, readDesc s addr = some d →
      let c := newContext d
      (cmdRuns s 1 addr = false → exec (.ctxCreate addr) s = .next s) ∧
      (cmdRuns s 2 addr = false → exec (.ctxDestroy addr) s = .next s) ∧
      (cmdRuns s 1 addr = true → descOk c = false →
        exec (.ctxCreate addr) s = .next { s with modctxsts := result 0x81 c.id, ctxcmd := none }) ∧
      (cmdRuns s 1 addr = true → descOk c = true → s.ctx? c.id = none →
        exec (.ctxCreate addr) s = .next { s with ctxs := s.ctxs ++ [c], modctxsts := result 0 c.id, ctxcmd := none }) ∧
      (cmdRuns s 1 addr = true → descOk c = true → (s.ctx? c.id).isSome = true →
        exec (.ctxCreate addr) s = .next { s with modctxsts := result 0x82 c.id, ctxcmd := none }) ∧
      (cmdRuns s 2 addr = true → s.ctx? c.id = none →
        exec (.ctxDestroy addr) s = .next { s with modctxsts := result 0x83 c.id, ctxcmd := none }) ∧
      (∀ x, cmdRuns s 2 addr = true → s.ctx? c.id = some x → ∃ t, exec (.ctxDestroy addr) s = .next t ∧ t.ctx? c.id = none ∧
        t.modctxsts = result 0 c.id ∧ t.ctxcmd = none ∧ (x.ctl ≠ .ended → ∀ l ∈ t.launches, l.ctx ≠ c.id))) ∧
    (∀ ctx c v, s.ctxAt ctx = some c →
      exec (.lqtailWrite ctx v) s = .next (s.modCtx c.id fun c => { c with lqtail := v }) ∧
      (c.noteq = [] → exec (.nqreadWrite ctx v) s = .next (s.modCtx c.id fun c => { c with nqread := v })) ∧
      (c.traceq = [] → exec (.tqreadWrite ctx v) s = .next (s.modCtx c.id fun c => { c with tqread := v })) ∧
      (∀ vec ws u, c.noteq = [(vec + 1, ws)] → (c.nqwrite - v).toNat < c.nqsize →
        sysWrite s (c.nq + 32 * (c.nqwrite.toNat % c.nqsize)) ws = (u, none) →
        ∃ t d, exec (.nqreadWrite ctx v) s = .next t ∧ t.mem = u.mem ∧ t.cores = s.cores ∧ t.ctx? c.id = some d ∧
          d.nqread = v ∧ d.nqwrite = c.nqwrite + 1 ∧ d.noteq = [] ∧
          t.outbox = s.outbox ++ [{ kind := "msix", words := [BitVec.ofNat 64 vec] }]) ∧
      (∀ f, c.ctl ≠ .ended → c.fault = some f → ∃ t d, exec (.contextFaultStop ctx) s = .next t ∧
        t.ctx? c.id = some d ∧ d.ctl = .ended ∧ (∀ l ∈ t.launches, l.ctx ≠ c.id) ∧ (∀ r ∈ t.reqs, r.key.ctx ≠ c.id) ∧
        ∀ x ∈ s.tasks, taskOf s c.id x = true → (s.core x.core).task = some x.id → (t.core x.core).task = none)) ∧
    (∀ i f, s.posts[i]? = some f →
      (s.ctx? f.ctx = none → exec (.faultRecord i) s = .next { s with posts := dropAt s.posts i }) ∧
      (∀ c, s.ctx? f.ctx = some c →
        (c.fault = none → ∃ t d, exec (.faultRecord i) s = .next t ∧ t.ctx? f.ctx = some d ∧ d.fault = some f ∧
          t.bbFrozen = true ∧ t.cores = s.cores) ∧
        (∀ g, c.fault = some g → c.ctl ≠ .ended → ∃ t d, exec (.faultRecord i) s = .next t ∧ t.ctx? f.ctx = some d ∧
          d.fault = some { g with more := if g.more = 0xFFFF then 0xFFFF else g.more + 1 } ∧
          t.posts = dropAt s.posts i ∧ t.cores = s.cores ∧ t.mem = s.mem)))

/-- Stop, resume, kill and invalidate; the debug window; host registers; trace samples (R284, R376, R382, R386, R388).
-/
def Obligations.HostControl : Prop :=
  ∀ (s : State) (ctx : Nat) (c : Context), s.ctxAt ctx = some c →
    (c.ctl = .ended ∨ c.killOp = true ∨ faulted s c.id = true → exec (.ctlStop ctx) s = .next s ∧
      exec (.ctlResume ctx) s = .next s ∧ exec (.ctlInvalidate ctx) s = .next s) ∧
    (c.ctl = .running → c.killOp = false → faulted s c.id = false → c.resumePend = false →
      (∀ x y, (s.tasks.map fun t => t.id).Nodup → s.task? x = some y → taskOf s c.id y = true → y.st = .running →
        ∃ t z d, exec (.ctlStop ctx) s = .next t ∧ t.task? x = some z ∧ z.st = .stopping ∧ z.why = 2 ∧ z.core = y.core ∧
          t.ctx? c.id = some d ∧ d.ctl = .stopping) ∧
      (s.tasks = [] → ∃ t d, exec (.ctlStop ctx) s = .next t ∧ t.ctx? c.id = some d ∧ d.ctl = .stopped ∧
        t.cores = s.cores)) ∧
    (c.ctl = .stopping → c.killOp = false → faulted s c.id = false → exec (.ctlResume ctx) s = .next (s.modCtx c.id fun c => { c with resumePend := true })) ∧
    (c.ctl = .stopped → c.killOp = false → faulted s c.id = false → ∃ t d, exec (.ctlResume ctx) s = .next t ∧ t.ctx? c.id = some d ∧
      d.ctl = .running ∧ t.cores = s.cores ∧
      t.tasks = s.tasks.map fun x => if taskOf s c.id x && x.st == .stopped then { x with st := .waiting } else x) ∧
    (c.ctl ≠ .ended →
      (∃ t r, exec (.ctlKill ctx) s = .next t ∧ t.posts = s.posts ++ [r] ∧ r.code = 0x3A ∧ r.ctx = c.id ∧ r.unit = 0x801 ∧
        { t with posts := s.posts, ctxs := s.ctxs } = s) ∧
      (c.killOp = false → faulted s c.id = false → ∃ t, exec (.ctlInvalidate ctx) s = .next t ∧ (∀ m, ∀ e ∈ (t.cluster m).tlb, e.ctx ≠ c.id) ∧
        (∀ m e, m < 40 → e < 8 → (t.bte m e).runq = ((releaseDue s m e).bte m e).runq ++ [.marker s.nextId]) ∧
        (∃ v, t.invals = s.invals ++ [v] ∧ v.id = s.nextId ∧ v.ctx = c.id ∧ v.notify = true) ∧
        { t with clusters := s.clusters, invals := s.invals, nextId := s.nextId } = s)) ∧
    (∀ off x, windowCtx s off = some c →
      exec (.hostRegisterWrite 4 off x) s = exec (.debugWindowAccess true off x) s ∧
      (∀ bs, engineBytes s 0 c.id (windowVa s c off) 8 = .ok bs → exec (.debugWindowAccess false off x) s =
        .next { s with outbox := s.outbox ++ [{ kind := "window", words := [BitVec.ofNat 64 (leNat bs)] }] }) ∧
      (∀ u, enginePut 0 c.id (windowVa s c off) (leBytes 8 x.toNat) s = .ok u →
        exec (.debugWindowAccess true off x) s = .next u)) ∧
    (∀ x, exec (.hostRegisterWrite 0 0x18 x) s = .next { s with dbgaddr := x &&& 0x000F_FFFF_FFFF_F800#64 } ∧
      exec (.hostRegisterWrite 0 0x20 x) s = .next { s with dbgctx := x &&& 0xFFF#64 } ∧
      (s.ctxcmd = none → x.extractLsb' 60 4 = 1 ∨ x.extractLsb' 60 4 = 2 →
        exec (.hostRegisterWrite 0 0x08 x) s = .next { s with ctxcmd := some x, modctxsts := 0x0100000000000000 }) ∧
      (s.ctxcmd ≠ none → exec (.hostRegisterWrite 0 0x08 x) s = .next s) ∧
      exec (.hostRegisterWrite 2 (4096 * ctx) x) s = exec (.lqtailWrite ctx x) s ∧
      exec (.hostRegisterWrite 2 (4096 * ctx + 0x10) x) s = exec (.nqreadWrite ctx x) s ∧
      exec (.hostRegisterWrite 2 (4096 * ctx + 0x20) x) s = exec (.tqreadWrite ctx x) s ∧
      (x.extractLsb' 0 4 = 1 → exec (.hostRegisterWrite 2 (4096 * ctx + 0x40) x) s = exec (.ctlStop ctx) s) ∧
      (x.extractLsb' 0 4 = 2 → exec (.hostRegisterWrite 2 (4096 * ctx + 0x40) x) s = exec (.ctlResume ctx) s) ∧
      (x.extractLsb' 0 4 = 3 → exec (.hostRegisterWrite 2 (4096 * ctx + 0x40) x) s = exec (.ctlKill ctx) s) ∧
      (x.extractLsb' 0 4 = 4 → exec (.hostRegisterWrite 2 (4096 * ctx + 0x40) x) s = exec (.ctlInvalidate ctx) s) ∧
      exec (.hostRegisterWrite 2 (4096 * ctx + 0x48) x) s = .next (s.modCtx c.id fun c => { c with pdl := x })) ∧
    (c.sampled = some s.now → exec (.traceSample ctx) s = .next s) ∧
    (∀ n, c.tron = true → c.samp ≠ 0 → s.now % 2 ^ c.samp = 0 → c.sampled ≠ some s.now → ctxCores s c.id = [n] →
      c.lossless = true → c.traceRoom = false → ∃ t d, exec (.traceSample ctx) s = .next t ∧ t.cores = s.cores ∧ t.mem = s.mem ∧
        t.ctx? c.id = some d ∧ d.sampled = some s.now ∧ d.traceq = c.traceq ++ (Kind.all.filter fun k => mayIssue s n k).map fun k =>
          (some (n, k), [traceHead 1 (sampleClass s n k).1 (sampleClass s n k).2 c.id, strandId s n k,
            ((s.core n).strand k).pc, s.counter]))

/-- Clock steps, failing units, thermal trips, reset, the black box, firmware, attestation, HBM stacks and slots
(R345, R346, R347, R384, R385, R389, R390, R391). -/
def Obligations.ModuleEvents : Prop :=
  ∀ (s : State),
    (∀ n, n ≤ 10 → ∃ t, exec (.clockStep n) s = .next t ∧ t.clock = n ∧
      { t with clock := s.clock, bbox := s.bbox, bbOver := s.bbOver } = s ∧
      (s.bbFrozen = false → s.bbox.length < 2048 →
        t.bbox = s.bbox ++ [[BitVec.ofNat 64 (7 * 2 ^ 56), BitVec.ofNat 64 n, 0, s.counter]])) ∧
    (∀ u new, ((unitCores u).filter fun n => coreWorks s n && !s.failed.contains n) = new → new ≠ [] →
      ∃ t, exec (.unitFailure u) s = .next t ∧ t.failed = s.failed ++ new ∧ t.cores = s.cores ∧ t.mem = s.mem ∧
        ((∀ c ∈ s.ctxs, c.ctl ≠ .ended → workOn s u c.id = false) → t.posts = s.posts) ∧
        ∀ c ∈ s.ctxs, c.ctl ≠ .ended → workOn s u c.id = true →
          ∃ r ∈ t.posts, r.code = 0x38 ∧ r.ctx = c.id ∧ r.unit = strandId s ((unitCores u).headD 0) .a ∧ r.val = 0) ∧
    (∀ die temp, die < 4 → 1100 ≤ temp → ∃ t, exec (.thermalTrip die temp) s = .next t ∧ t.bbFrozen = true ∧
      { t with posts := s.posts, bbFrozen := s.bbFrozen } = s ∧ ∀ c ∈ s.ctxs, c.ctl ≠ .ended →
        ∃ r ∈ t.posts, r.code = 0x39 ∧ r.ctx = c.id ∧ r.unit = BitVec.ofNat 64 (0x800 + die) ∧ r.val = BitVec.ofNat 64 temp) ∧
    (∀ warm, ∃ t, exec (.moduleReset warm) s = .next t ∧ (∀ n, t.core n = {}) ∧ (∀ n, t.cluster n = {}) ∧ t.ctxs = [] ∧
      t.tasks = [] ∧ t.launches = [] ∧ t.fwVersion = s.fwVersion ∧ t.rollback = s.rollback ∧
      (∀ n, n ∈ t.mapped ↔ n ∈ s.mapped ∨ n ∈ s.failed) ∧
      ∀ a, readByte t.mem a = if 0x6000000000000 ≤ a then readByte s.mem a else 0) ∧
    (∃ t, exec .blackboxRearm s = .next t ∧ t.bbFrozen = false ∧ t.bbOver = 0 ∧ t.bbox = s.bbox ∧
      { t with outbox := s.outbox, bbFrozen := s.bbFrozen, bbOver := s.bbOver } = s) ∧
    (∀ ed ml rb v, exec (.firmwareUpdate ed ml rb v) s =
      .next (if ed = true ∧ ml = true ∧ s.rollback ≤ rb then { s with fwVersion := v, rollback := rb } else s)) ∧
    (∀ nonce, ∃ t ws, exec (.attestationReport nonce) s = .next t ∧
      t.outbox = s.outbox ++ [{ kind := "attestation", words := ws }] ∧ { t with outbox := s.outbox } = s ∧
      ws.take 7 = [nonce.extractLsb' 0 64, nonce.extractLsb' 64 64, nonce.extractLsb' 128 64, nonce.extractLsb' 192 64,
        modId s, capCsr s 0xC01, capCsr s 0xC02]) ∧
    (∀ k, k < 12 →
      (retraining s k = false → (∀ x ∈ s.tasks, x.st ≠ .saving) → (∀ j, (tget {} s.hbm j : Stack).pending = false) →
        (∃ t, exec (.hbmRetrain k) s = .next t ∧ retraining t k = true ∧ t.mem = s.mem ∧ t.tasks = s.tasks ∧
          ∀ j, j ≠ k → retraining t j = retraining s j) ∧
        (∃ t, exec (.retrainRequest k) s = .next t ∧ retraining t k = true ∧ t.mem = s.mem ∧ t.tasks = s.tasks)) ∧
      (retraining s k = false → stackHeld s k = true → ∃ t, exec (.retrainRequest k) s = .next t ∧
        retraining t k = false ∧ (tget {} t.hbm k : Stack).pending = true ∧ t.mem = s.mem ∧ t.tasks = s.tasks) ∧
      (∃ t, exec (.stackRetrainingDone k) s = .next t ∧ retraining t k = false ∧ { t with hbm := s.hbm } = s ∧
        ∀ j, j ≠ k → retraining t j = retraining s j) ∧
      (∀ a b es, a < 24576 → b < 24576 →
        let x : Stack := tget {} s.hbm k
        remapSlot x.remap a % 4 ≠ remapSlot x.remap b % 4 → swapEntries x.remap a b = some es →
        ∃ t, exec (.slotSwap k a b) s = .next t ∧ (tget {} t.hbm k : Stack) = { x with remap := es } ∧
          t.swaps = s.swaps + 1 ∧ { t with hbm := s.hbm, swaps := s.swaps } = s))

/-- Flits, lanes, retraining, the domain s configuration, and requests to peers without a response (R394, R398, R399,
R400, R401). -/
def Obligations.LinkEvents : Prop :=
  ∀ (s : State),
    (∀ die port, isPort die port = true →
      let p := s.port die port
      (∀ f, p.st = 2 → p.winNo = windowOf s.now → ∃ t sent, exec (.flitReceive die port f) s = .next t ∧ t.cores = s.cores ∧
        t.mem = s.mem ∧
        (let q := t.port die port
         let out := fun (x : BitVec 12) =>
           ({ kind := "flit-out", words := [BitVec.ofNat 64 (8 * die + port), x.zeroExtend 64] } : OutMsg)
         sent = (List.range sent.length).map (fun i => p.txSeq + BitVec.ofNat 12 i) ∧
         (sent ≠ [] → p.replayBuf.length + sent.length ≤ 1024) ∧ q.txSeq = p.txSeq + BitVec.ofNat 12 sent.length ∧
         q.corr = p.corr + BitVec.ofNat 32 (f.corrected.filter fun i => decide (i < 8)).length ∧
         q.rxSeq = (if f.crcOk = true ∧ f.seq = p.rxSeq then p.rxSeq + 1 else p.rxSeq) ∧
         q.replayBuf = (if f.crcOk = true then afterAck (p.replayBuf ++ sent) f.ack else p.replayBuf ++ sent) ∧
         q.repl = (if f.crcOk = true ∧ f.nak = true then p.repl + BitVec.ofNat 16 q.replayBuf.length else p.repl) ∧
         t.outbox = s.outbox ++ sent.map out ++
          (if f.crcOk = true ∧ f.nak = true then q.replayBuf.map out else []) ++
          (if f.crcOk = false then [{ kind := "nak", words := [f.seq.zeroExtend 64] }]
           else if f.seq = p.rxSeq then
             [{ kind := "flit", words := f.credits.zeroExtend 64 ::
                  f.payload.flatMap fun w => (List.range 4).map fun i => w.extractLsb' (64 * i) 64 }]
           else []))) ∧
      (p.winNo ≠ windowOf s.now → ∃ t, exec (.laneFecWindow die port) s = .next t ∧ (t.port die port).win = [] ∧
        (t.port die port).winNo = windowOf s.now ∧ t.cores = s.cores ∧ t.mem = s.mem ∧
        ∀ i, i < 8 → (t.port die port).lret.getLsbD i = (p.lret.getLsbD i || decide (2 ^ 20 < tget 0 p.win i))) ∧
      (p.winNo = windowOf s.now → exec (.laneFecWindow die port) s = .next s) ∧
      (∀ lane, lane < 8 → p.st ≠ 0 → ∃ t, exec (.laneLockLoss die port lane) s = .next t ∧ t.cores = s.cores ∧ t.mem = s.mem ∧
        (∀ i, i < 8 → (t.port die port).lret.getLsbD i = (p.lret.getLsbD i || decide (i = lane))) ∧
        (p.lret.getLsbD lane = false → (t.port die port).st = 1)) ∧
      (∀ lost, p.st = 1 → ∃ t, exec (.linkRetrainDone die port lost) s = .next t ∧ t.cores = s.cores ∧ t.mem = s.mem ∧
        (let x := t.port die port
         x.width = widthOf x.lret ∧ x.st = (if x.width = 0 then 0 else 2) ∧
         ∀ i, i < 8 → x.lret.getLsbD i = (p.lret.getLsbD i || lost.contains i)))) ∧
    (∀ n i w, (peerWaits s n)[i]? = some w →
      (requestLate s w.pa w.since = false → exec (.fabricTimeout n i) s = .next s) ∧
      (requestLate s w.pa w.since = true → ∃ t, exec (.fabricTimeout n i) s = .next t ∧ AllStrands s t ∧ t.mem = s.mem ∧
        OthersKept s t n ∧ t.tasks = s.tasks ∧ t.launches = s.launches ∧
        Posted s t (w.ctx s n) 0x31 (BitVec.ofNat 64 (0x900 + coreDie n)) (BitVec.ofNat 64 w.pa) ∧
        (∀ l, w = .load l → (t.core n).loads = (s.core n).loads.filter fun x => x.id != l.id) ∧
        (∀ x, w = .store x → (t.core n).stores = (s.core n).stores.filter fun y => y.id != x.id) ∧
        (∀ r pa, w = .fill r pa → t.reqs = s.reqs.filter fun q => q.id != r.id) ∧
        (∀ l pa, w = .line l pa → ∀ x ∈ (t.cluster (coreCluster n)).hall, ¬(x.bank = l.bank ∧ x.way = l.way)) ∧
        (∀ c pa, w = .cmd c pa → t.cores = s.cores ∧
          (c.path = 2 → (t.bte (coreCluster c.core) c.eng).act = modCmd (s.bte (coreCluster c.core) c.eng).act c.id EngineCmd.fail) ∧
          (c.path ≠ 2 → (∀ m, (t.cluster m).selq = modCmd (s.cluster m).selq c.id EngineCmd.fail ∧
              (t.cluster m).lndq = modCmd (s.cluster m).lndq c.id EngineCmd.fail) ∧
            ∀ d, (t.die d).rteq = modCmd (s.die d).rteq c.id EngineCmd.fail ∧
              (t.die d).collq = modCmd (s.die d).collq c.id EngineCmd.fail)) ∧
        (∀ x pa, w = .fetch x pa → { t with posts := s.posts } = s))) ∧
    (∀ size number others,
      (broughtUp s = false → domainOk size number others = true →
        ∃ t, exec (.domainConfig size number others) s = .next t ∧ t.modNum.toNat = number ∧ t.domSize = size ∧
          { t with dies := s.dies, modNum := s.modNum, domSize := s.domSize } = s ∧
          ∀ d p, d < 4 → p < 5 → (t.port d p).st = 1) ∧
      (domainOk size number others = false → exec (.domainConfig size number others) s = .next s) ∧
      (broughtUp s = true → exec (.domainConfig size number others) s = .next s))
end

