-- ==== Sys2Proof/Laws/Bits.lean ====
section
/-! SUPPORT. Slices of concatenated bit vectors: a slice that lies in one part is that part's slice. -/

namespace Sys2Proof.Laws

variable {n m : Nat}

theorem extract_high (a : BitVec n) (b : BitVec m) (s k : Nat) (h : m ≤ s) :
    (a ++ b).extractLsb' s k = a.extractLsb' (s - m) k := by
  apply BitVec.eq_of_getLsbD_eq
  intro i hi
  have h1 : ¬ s + i < m := by omega
  have h2 : s + i - m = s - m + i := by omega
  simp [BitVec.getLsbD_append, hi, h1, h2]

theorem extract_low (a : BitVec n) (b : BitVec m) (s k : Nat) (h : s + k ≤ m) :
    (a ++ b).extractLsb' s k = b.extractLsb' s k := by
  apply BitVec.eq_of_getLsbD_eq
  intro i hi
  have h1 : s + i < m := by omega
  simp [BitVec.getLsbD_append, hi, h1]

theorem extract_all (a : BitVec n) : a.extractLsb' 0 n = a := by simp

/-- A vector is its high part before its low part. -/
theorem extract_parts (a : BitVec (n + m)) : a.extractLsb' m n ++ a.extractLsb' 0 m = a := by
  apply BitVec.eq_of_getLsbD_eq
  intro i hi
  rcases (by omega : i < m ∨ (m + (i - m) = i ∧ i - m < n ∧ ¬ i < m)) with h | ⟨h, h2, h3⟩
  · simp [BitVec.getLsbD_append, h]
  · simp [BitVec.getLsbD_append, h, h2, h3]

/-- The two halves of a 12-bit field (R29) joined again. -/
theorem extract_join (a : BitVec 12) : a.extractLsb' 6 6 ++ a.extractLsb' 0 6 = a := extract_parts (n := 6) (m := 6) a

end Sys2Proof.Laws
end

