-- ==== Sys2Proof/Laws/Tab.lean ====
section
/-! SUPPORT. Laws of the sparse tables and of byte memory: a read after a write, the keys that a write leaves alone, and
the canonical form that every write keeps. -/

namespace Sys2Proof.Machine

variable {α : Type}

/-! ### Reads after writes -/

@[simp] theorem tget_nil (d : α) (n : Nat) : tget d [] n = d := rfl

theorem tget_tput_same (d : α) (t : Tab α) (n : Nat) (x : α) : tget d (tput t n x) n = x := by
  induction t with
  | nil => simp [tput, tget]
  | cons e t ih =>
    obtain ⟨k, v⟩ := e
    rcases lt_trichotomy n k with h | h | h
    · simp [tput, tget, h]
    · simp [tput, tget, h]
    · simp [tput, tget, Nat.not_lt.mpr h.le, h.ne, h.ne', ih]

theorem tget_tput_other (d : α) (t : Tab α) (n m : Nat) (x : α) (hm : m ≠ n) : tget d (tput t n x) m = tget d t m := by
  induction t with
  | nil => simp [tput, tget, Ne.symm hm]
  | cons e t ih =>
    obtain ⟨k, v⟩ := e
    rcases lt_trichotomy n k with h | h | h
    · simp [tput, tget, h, Ne.symm hm]
    · subst h
      simp [tput, tget, Ne.symm hm]
    · simp [tput, tget, Nat.not_lt.mpr h.le, h.ne', ih]

theorem tget_filter_same (d : α) (t : Tab α) (n : Nat) : tget d (t.filter fun e => e.1 != n) n = d := by
  induction t with
  | nil => rfl
  | cons e t ih =>
    by_cases h : e.1 = n
    · simp [h, ih]
    · simp [h, tget, ih]

theorem tget_filter_other (d : α) (t : Tab α) (n m : Nat) (hm : m ≠ n) :
    tget d (t.filter fun e => e.1 != n) m = tget d t m := by
  induction t with
  | nil => rfl
  | cons e t ih =>
    by_cases h : e.1 = n
    · simp [h, tget, ih, Ne.symm hm]
    · simp [h, tget, ih]

variable [DecidableEq α]

theorem tget_tset_same (d : α) (t : Tab α) (n : Nat) (x : α) : tget d (tset d t n x) n = x := by
  unfold tset
  split
  · next h => exact h ▸ tget_filter_same d t n
  · exact tget_tput_same d t n x

theorem tget_tset_other (d : α) (t : Tab α) (n m : Nat) (x : α) (hm : m ≠ n) :
    tget d (tset d t n x) m = tget d t m := by
  unfold tset
  split
  · exact tget_filter_other d t n m hm
  · exact tget_tput_other d t n m x hm

/-! ### The canonical form -/

/-- The canonical form of a table, in words of lists. -/
theorem tabWf_iff (d : α) (t : Tab α) :
    tabWf d t = true ↔ t.Pairwise (fun a b => a.1 < b.1) ∧ ∀ e ∈ t, e.2 ≠ d := by
  induction t with
  | nil => simp [tabWf]
  | cons a t ih =>
    cases t with
    | nil => simp [tabWf]
    | cons b t =>
      simp only [tabWf, Bool.and_eq_true, decide_eq_true_eq, ih]
      constructor
      · rintro ⟨⟨h1, h2⟩, h3, h4⟩
        refine ⟨List.pairwise_cons.mpr ⟨?_, h3⟩, ?_⟩
        · intro e he
          rcases List.mem_cons.mp he with rfl | he
          · exact h2
          · exact h2.trans ((List.pairwise_cons.mp h3).1 e he)
        · intro e he
          rcases List.mem_cons.mp he with rfl | he
          · exact h1
          · exact h4 e he
      · rintro ⟨h3, h4⟩
        have h5 := List.pairwise_cons.mp h3
        exact ⟨⟨h4 a (by simp), h5.1 b (by simp)⟩, h5.2, fun e he => h4 e (by simp [he])⟩

theorem tabWf_filter (d : α) (t : Tab α) (p : Nat × α → Bool) (h : tabWf d t = true) : tabWf d (t.filter p) = true := by
  rw [tabWf_iff] at *
  exact ⟨h.1.sublist List.filter_sublist, fun e he => h.2 e (List.mem_filter.mp he).1⟩

omit [DecidableEq α] in
theorem mem_tput {t : Tab α} {n : Nat} {x : α} {e : Nat × α} (h : e ∈ tput t n x) : e = (n, x) ∨ e ∈ t := by
  induction t with
  | nil => simpa [tput] using h
  | cons a t ih =>
    simp only [tput] at h
    split at h
    · simpa using h
    · split at h
      · rcases List.mem_cons.mp h with h | h
        · exact .inl h
        · exact .inr (by simp [h])
      · rcases List.mem_cons.mp h with h | h
        · exact .inr (by simp [h])
        · exact (ih h).imp id fun h => by simp [h]

theorem tabWf_tput (d : α) (t : Tab α) (n : Nat) (x : α) (hx : x ≠ d) (h : tabWf d t = true) :
    tabWf d (tput t n x) = true := by
  rw [tabWf_iff] at *
  refine ⟨?_, fun e he => (mem_tput he).elim (fun h => h ▸ hx) (h.2 e)⟩
  replace h := h.1
  induction t with
  | nil => simp [tput]
  | cons a t ih =>
    obtain ⟨k, v⟩ := a
    have h2 := List.pairwise_cons.mp h
    simp only [tput]
    split
    · next hn =>
      refine List.pairwise_cons.mpr ⟨fun e he => ?_, h⟩
      rcases List.mem_cons.mp he with rfl | he
      · exact hn
      · exact hn.trans (h2.1 e he)
    · split
      · next hn => exact List.pairwise_cons.mpr ⟨fun e he => hn ▸ h2.1 e he, h2.2⟩
      · refine List.pairwise_cons.mpr ⟨fun e he => ?_, ih h2.2⟩
        rcases mem_tput he with rfl | he
        · simp only; omega
        · exact h2.1 e he

theorem tabWf_tset (d : α) (t : Tab α) (n : Nat) (x : α) (h : tabWf d t = true) : tabWf d (tset d t n x) = true := by
  unfold tset
  split
  · exact tabWf_filter d t _ h
  · next hx => exact tabWf_tput d t n x hx h

/-! ### Bytes -/

theorem readByte_writeByte_same (m : List Host.Cell) (a : Nat) (b : Byte) : readByte (writeByte m a b) a = b :=
  tget_tset_same ..

theorem readByte_writeByte_other (m : List Host.Cell) (a c : Nat) (b : Byte) (h : c ≠ a) :
    readByte (writeByte m a b) c = readByte m c := tget_tset_other _ _ _ _ _ h

theorem writeByte_wf (m : List Host.Cell) (a : Nat) (b : Byte) (h : Memory.wf m = true) :
    Memory.wf (writeByte m a b) = true := tabWf_tset _ _ _ _ h

theorem writeBytes_wf (m : List Host.Cell) (a : Nat) (bs : List Byte) (h : Memory.wf m = true) :
    Memory.wf (writeBytes m a bs) = true := by
  induction bs generalizing m a with
  | nil => exact h
  | cons b bs ih => exact ih _ _ (writeByte_wf m a b h)

/-- Bytes outside a write read as before. -/
theorem readByte_writeBytes_other (m : List Host.Cell) (a c : Nat) (bs : List Byte)
    (h : c < a ∨ a + bs.length ≤ c) : readByte (writeBytes m a bs) c = readByte m c := by
  induction bs generalizing m a with
  | nil => rfl
  | cons b bs ih =>
    simp only [List.length_cons] at h
    rw [writeBytes, ih _ _ (by omega), readByte_writeByte_other _ _ _ _ (by omega)]

/-- A byte inside a write reads as it was written. -/
theorem readByte_writeBytes_inside (m : List Host.Cell) (a i : Nat) (bs : List Byte) (h : i < bs.length) :
    readByte (writeBytes m a bs) (a + i) = bs[i] := by
  induction bs generalizing m a i with
  | nil => simp at h
  | cons b bs ih =>
    cases i with
    | zero => rw [writeBytes, readByte_writeBytes_other _ _ _ _ (by omega)]; exact readByte_writeByte_same ..
    | succ i => simpa [writeBytes, Nat.add_assoc, Nat.add_comm 1 i] using ih (writeByte m a b) (a + 1) i (by simpa using h)

theorem readBytes_length (m : List Host.Cell) (a n : Nat) : (readBytes m a n).length = n := by
  induction n generalizing a with
  | zero => rfl
  | succ n ih => simp [readBytes, ih]

/-- A read of exactly the written bytes. -/
theorem readBytes_writeBytes_same (m : List Host.Cell) (a : Nat) (bs : List Byte) :
    readBytes (writeBytes m a bs) a bs.length = bs := by
  induction bs generalizing m a with
  | nil => rfl
  | cons b bs ih =>
    rw [List.length_cons, readBytes, writeBytes, ih, readByte_writeBytes_other _ _ _ _ (by omega), readByte_writeByte_same]

end Sys2Proof.Machine
end

