-- ==== Sys2Proof/Laws/State.lean ====
section
/-! SUPPORT. The fields of the state after each of its updates, and what the named units read as after one. -/

namespace Sys2Proof.Machine

variable (s : State)

/-! ### Fields -/

@[simp] theorem setCore_agenda (n : Nat) (c : Core) : (s.setCore n c).agenda = s.agenda := rfl
@[simp] theorem setCore_turns (n : Nat) (c : Core) : (s.setCore n c).turns = s.turns := rfl
@[simp] theorem setCore_fresh (n : Nat) (c : Core) : (s.setCore n c).fresh = s.fresh := rfl
@[simp] theorem setCore_nextId (n : Nat) (c : Core) : (s.setCore n c).nextId = s.nextId := rfl
@[simp] theorem setCore_routeMark (n : Nat) (c : Core) : (s.setCore n c).routeMark = s.routeMark := rfl
@[simp] theorem setCore_issue (n : Nat) (c : Core) : (s.setCore n c).issue = s.issue := rfl
@[simp] theorem setCore_outbox (n : Nat) (c : Core) : (s.setCore n c).outbox = s.outbox := rfl
@[simp] theorem setCore_now (n : Nat) (c : Core) : (s.setCore n c).now = s.now := rfl
@[simp] theorem setCore_cores (n : Nat) (c : Core) : (s.setCore n c).cores = tput s.cores n c := rfl
@[simp] theorem setCore_clusters (n : Nat) (c : Core) : (s.setCore n c).clusters = s.clusters := rfl
@[simp] theorem setCore_dies (n : Nat) (c : Core) : (s.setCore n c).dies = s.dies := rfl
@[simp] theorem setCore_mem (n : Nat) (c : Core) : (s.setCore n c).mem = s.mem := rfl
@[simp] theorem setCore_poison (n : Nat) (c : Core) : (s.setCore n c).poison = s.poison := rfl
@[simp] theorem setCore_zeros (n : Nat) (c : Core) : (s.setCore n c).zeros = s.zeros := rfl
@[simp] theorem setCore_dir (n : Nat) (c : Core) : (s.setCore n c).dir = s.dir := rfl
@[simp] theorem setCore_reqs (n : Nat) (c : Core) : (s.setCore n c).reqs = s.reqs := rfl
@[simp] theorem setCore_raises (n : Nat) (c : Core) : (s.setCore n c).raises = s.raises := rfl
@[simp] theorem setCore_swaps (n : Nat) (c : Core) : (s.setCore n c).swaps = s.swaps := rfl
@[simp] theorem setCore_moves (n : Nat) (c : Core) : (s.setCore n c).moves = s.moves := rfl
@[simp] theorem setCore_invals (n : Nat) (c : Core) : (s.setCore n c).invals = s.invals := rfl
@[simp] theorem setCore_ctxs (n : Nat) (c : Core) : (s.setCore n c).ctxs = s.ctxs := rfl
@[simp] theorem setCore_launches (n : Nat) (c : Core) : (s.setCore n c).launches = s.launches := rfl
@[simp] theorem setCore_tasks (n : Nat) (c : Core) : (s.setCore n c).tasks = s.tasks := rfl
@[simp] theorem setCore_groups (n : Nat) (c : Core) : (s.setCore n c).groups = s.groups := rfl
@[simp] theorem setCore_gmsgs (n : Nat) (c : Core) : (s.setCore n c).gmsgs = s.gmsgs := rfl
@[simp] theorem setCore_fmsgs (n : Nat) (c : Core) : (s.setCore n c).fmsgs = s.fmsgs := rfl
@[simp] theorem setCore_early (n : Nat) (c : Core) : (s.setCore n c).early = s.early := rfl
@[simp] theorem setCore_colls (n : Nat) (c : Core) : (s.setCore n c).colls = s.colls := rfl
@[simp] theorem setCore_collSeqs (n : Nat) (c : Core) : (s.setCore n c).collSeqs = s.collSeqs := rfl
@[simp] theorem setCore_claims (n : Nat) (c : Core) : (s.setCore n c).claims = s.claims := rfl
@[simp] theorem setCore_posts (n : Nat) (c : Core) : (s.setCore n c).posts = s.posts := rfl
@[simp] theorem setCore_slotTables (n : Nat) (c : Core) : (s.setCore n c).slotTables = s.slotTables := rfl
@[simp] theorem setCore_modctxsts (n : Nat) (c : Core) : (s.setCore n c).modctxsts = s.modctxsts := rfl
@[simp] theorem setCore_dbgaddr (n : Nat) (c : Core) : (s.setCore n c).dbgaddr = s.dbgaddr := rfl
@[simp] theorem setCore_dbgctx (n : Nat) (c : Core) : (s.setCore n c).dbgctx = s.dbgctx := rfl
@[simp] theorem setCore_fwVersion (n : Nat) (c : Core) : (s.setCore n c).fwVersion = s.fwVersion := rfl
@[simp] theorem setCore_rollback (n : Nat) (c : Core) : (s.setCore n c).rollback = s.rollback := rfl
@[simp] theorem setCore_clock (n : Nat) (c : Core) : (s.setCore n c).clock = s.clock := rfl
@[simp] theorem setCore_mapped (n : Nat) (c : Core) : (s.setCore n c).mapped = s.mapped := rfl
@[simp] theorem setCore_failed (n : Nat) (c : Core) : (s.setCore n c).failed = s.failed := rfl
@[simp] theorem setCore_bbox (n : Nat) (c : Core) : (s.setCore n c).bbox = s.bbox := rfl
@[simp] theorem setCore_bbFrozen (n : Nat) (c : Core) : (s.setCore n c).bbFrozen = s.bbFrozen := rfl
@[simp] theorem setCore_bbOver (n : Nat) (c : Core) : (s.setCore n c).bbOver = s.bbOver := rfl
@[simp] theorem setCore_modNum (n : Nat) (c : Core) : (s.setCore n c).modNum = s.modNum := rfl
@[simp] theorem setCore_domSize (n : Nat) (c : Core) : (s.setCore n c).domSize = s.domSize := rfl
@[simp] theorem setCore_hbm (n : Nat) (c : Core) : (s.setCore n c).hbm = s.hbm := rfl
@[simp] theorem setCore_hist (n : Nat) (c : Core) : (s.setCore n c).hist = s.hist := rfl
@[simp] theorem setCore_phase (n : Nat) (c : Core) : (s.setCore n c).phase = s.phase := rfl
@[simp] theorem setCore_joinReady (n : Nat) (c : Core) : (s.setCore n c).joinReady = s.joinReady := rfl
@[simp] theorem setCore_farPool (n : Nat) (c : Core) : (s.setCore n c).farPool = s.farPool := rfl
@[simp] theorem setCore_ctxcmd (n : Nat) (c : Core) : (s.setCore n c).ctxcmd = s.ctxcmd := rfl

@[simp] theorem setCluster_agenda (n : Nat) (c : Cluster) : (s.setCluster n c).agenda = s.agenda := rfl
@[simp] theorem setCluster_turns (n : Nat) (c : Cluster) : (s.setCluster n c).turns = s.turns := rfl
@[simp] theorem setCluster_fresh (n : Nat) (c : Cluster) : (s.setCluster n c).fresh = s.fresh := rfl
@[simp] theorem setCluster_nextId (n : Nat) (c : Cluster) : (s.setCluster n c).nextId = s.nextId := rfl
@[simp] theorem setCluster_routeMark (n : Nat) (c : Cluster) : (s.setCluster n c).routeMark = s.routeMark := rfl
@[simp] theorem setCluster_issue (n : Nat) (c : Cluster) : (s.setCluster n c).issue = s.issue := rfl
@[simp] theorem setCluster_outbox (n : Nat) (c : Cluster) : (s.setCluster n c).outbox = s.outbox := rfl
@[simp] theorem setCluster_now (n : Nat) (c : Cluster) : (s.setCluster n c).now = s.now := rfl
@[simp] theorem setCluster_cores (n : Nat) (c : Cluster) : (s.setCluster n c).cores = s.cores := rfl
@[simp] theorem setCluster_clusters (n : Nat) (c : Cluster) : (s.setCluster n c).clusters = tput s.clusters n c := rfl
@[simp] theorem setCluster_dies (n : Nat) (c : Cluster) : (s.setCluster n c).dies = s.dies := rfl
@[simp] theorem setCluster_mem (n : Nat) (c : Cluster) : (s.setCluster n c).mem = s.mem := rfl
@[simp] theorem setCluster_poison (n : Nat) (c : Cluster) : (s.setCluster n c).poison = s.poison := rfl
@[simp] theorem setCluster_zeros (n : Nat) (c : Cluster) : (s.setCluster n c).zeros = s.zeros := rfl
@[simp] theorem setCluster_dir (n : Nat) (c : Cluster) : (s.setCluster n c).dir = s.dir := rfl
@[simp] theorem setCluster_reqs (n : Nat) (c : Cluster) : (s.setCluster n c).reqs = s.reqs := rfl
@[simp] theorem setCluster_raises (n : Nat) (c : Cluster) : (s.setCluster n c).raises = s.raises := rfl
@[simp] theorem setCluster_swaps (n : Nat) (c : Cluster) : (s.setCluster n c).swaps = s.swaps := rfl
@[simp] theorem setCluster_moves (n : Nat) (c : Cluster) : (s.setCluster n c).moves = s.moves := rfl
@[simp] theorem setCluster_invals (n : Nat) (c : Cluster) : (s.setCluster n c).invals = s.invals := rfl
@[simp] theorem setCluster_ctxs (n : Nat) (c : Cluster) : (s.setCluster n c).ctxs = s.ctxs := rfl
@[simp] theorem setCluster_launches (n : Nat) (c : Cluster) : (s.setCluster n c).launches = s.launches := rfl
@[simp] theorem setCluster_tasks (n : Nat) (c : Cluster) : (s.setCluster n c).tasks = s.tasks := rfl
@[simp] theorem setCluster_groups (n : Nat) (c : Cluster) : (s.setCluster n c).groups = s.groups := rfl
@[simp] theorem setCluster_gmsgs (n : Nat) (c : Cluster) : (s.setCluster n c).gmsgs = s.gmsgs := rfl
@[simp] theorem setCluster_fmsgs (n : Nat) (c : Cluster) : (s.setCluster n c).fmsgs = s.fmsgs := rfl
@[simp] theorem setCluster_early (n : Nat) (c : Cluster) : (s.setCluster n c).early = s.early := rfl
@[simp] theorem setCluster_colls (n : Nat) (c : Cluster) : (s.setCluster n c).colls = s.colls := rfl
@[simp] theorem setCluster_collSeqs (n : Nat) (c : Cluster) : (s.setCluster n c).collSeqs = s.collSeqs := rfl
@[simp] theorem setCluster_claims (n : Nat) (c : Cluster) : (s.setCluster n c).claims = s.claims := rfl
@[simp] theorem setCluster_posts (n : Nat) (c : Cluster) : (s.setCluster n c).posts = s.posts := rfl
@[simp] theorem setCluster_slotTables (n : Nat) (c : Cluster) : (s.setCluster n c).slotTables = s.slotTables := rfl
@[simp] theorem setCluster_modctxsts (n : Nat) (c : Cluster) : (s.setCluster n c).modctxsts = s.modctxsts := rfl
@[simp] theorem setCluster_dbgaddr (n : Nat) (c : Cluster) : (s.setCluster n c).dbgaddr = s.dbgaddr := rfl
@[simp] theorem setCluster_dbgctx (n : Nat) (c : Cluster) : (s.setCluster n c).dbgctx = s.dbgctx := rfl
@[simp] theorem setCluster_fwVersion (n : Nat) (c : Cluster) : (s.setCluster n c).fwVersion = s.fwVersion := rfl
@[simp] theorem setCluster_rollback (n : Nat) (c : Cluster) : (s.setCluster n c).rollback = s.rollback := rfl
@[simp] theorem setCluster_clock (n : Nat) (c : Cluster) : (s.setCluster n c).clock = s.clock := rfl
@[simp] theorem setCluster_mapped (n : Nat) (c : Cluster) : (s.setCluster n c).mapped = s.mapped := rfl
@[simp] theorem setCluster_failed (n : Nat) (c : Cluster) : (s.setCluster n c).failed = s.failed := rfl
@[simp] theorem setCluster_bbox (n : Nat) (c : Cluster) : (s.setCluster n c).bbox = s.bbox := rfl
@[simp] theorem setCluster_bbFrozen (n : Nat) (c : Cluster) : (s.setCluster n c).bbFrozen = s.bbFrozen := rfl
@[simp] theorem setCluster_bbOver (n : Nat) (c : Cluster) : (s.setCluster n c).bbOver = s.bbOver := rfl
@[simp] theorem setCluster_modNum (n : Nat) (c : Cluster) : (s.setCluster n c).modNum = s.modNum := rfl
@[simp] theorem setCluster_domSize (n : Nat) (c : Cluster) : (s.setCluster n c).domSize = s.domSize := rfl
@[simp] theorem setCluster_hbm (n : Nat) (c : Cluster) : (s.setCluster n c).hbm = s.hbm := rfl
@[simp] theorem setCluster_hist (n : Nat) (c : Cluster) : (s.setCluster n c).hist = s.hist := rfl
@[simp] theorem setCluster_phase (n : Nat) (c : Cluster) : (s.setCluster n c).phase = s.phase := rfl
@[simp] theorem setCluster_joinReady (n : Nat) (c : Cluster) : (s.setCluster n c).joinReady = s.joinReady := rfl
@[simp] theorem setCluster_farPool (n : Nat) (c : Cluster) : (s.setCluster n c).farPool = s.farPool := rfl
@[simp] theorem setCluster_ctxcmd (n : Nat) (c : Cluster) : (s.setCluster n c).ctxcmd = s.ctxcmd := rfl

@[simp] theorem setDie_agenda (n : Nat) (d : Die) : (s.setDie n d).agenda = s.agenda := rfl
@[simp] theorem setDie_turns (n : Nat) (d : Die) : (s.setDie n d).turns = s.turns := rfl
@[simp] theorem setDie_fresh (n : Nat) (d : Die) : (s.setDie n d).fresh = s.fresh := rfl
@[simp] theorem setDie_nextId (n : Nat) (d : Die) : (s.setDie n d).nextId = s.nextId := rfl
@[simp] theorem setDie_routeMark (n : Nat) (d : Die) : (s.setDie n d).routeMark = s.routeMark := rfl
@[simp] theorem setDie_issue (n : Nat) (d : Die) : (s.setDie n d).issue = s.issue := rfl
@[simp] theorem setDie_outbox (n : Nat) (d : Die) : (s.setDie n d).outbox = s.outbox := rfl
@[simp] theorem setDie_now (n : Nat) (d : Die) : (s.setDie n d).now = s.now := rfl
@[simp] theorem setDie_cores (n : Nat) (d : Die) : (s.setDie n d).cores = s.cores := rfl
@[simp] theorem setDie_clusters (n : Nat) (d : Die) : (s.setDie n d).clusters = s.clusters := rfl
@[simp] theorem setDie_dies (n : Nat) (d : Die) : (s.setDie n d).dies = tput s.dies n d := rfl
@[simp] theorem setDie_mem (n : Nat) (d : Die) : (s.setDie n d).mem = s.mem := rfl
@[simp] theorem setDie_poison (n : Nat) (d : Die) : (s.setDie n d).poison = s.poison := rfl
@[simp] theorem setDie_zeros (n : Nat) (d : Die) : (s.setDie n d).zeros = s.zeros := rfl
@[simp] theorem setDie_dir (n : Nat) (d : Die) : (s.setDie n d).dir = s.dir := rfl
@[simp] theorem setDie_reqs (n : Nat) (d : Die) : (s.setDie n d).reqs = s.reqs := rfl
@[simp] theorem setDie_raises (n : Nat) (d : Die) : (s.setDie n d).raises = s.raises := rfl
@[simp] theorem setDie_swaps (n : Nat) (d : Die) : (s.setDie n d).swaps = s.swaps := rfl
@[simp] theorem setDie_moves (n : Nat) (d : Die) : (s.setDie n d).moves = s.moves := rfl
@[simp] theorem setDie_invals (n : Nat) (d : Die) : (s.setDie n d).invals = s.invals := rfl
@[simp] theorem setDie_ctxs (n : Nat) (d : Die) : (s.setDie n d).ctxs = s.ctxs := rfl
@[simp] theorem setDie_launches (n : Nat) (d : Die) : (s.setDie n d).launches = s.launches := rfl
@[simp] theorem setDie_tasks (n : Nat) (d : Die) : (s.setDie n d).tasks = s.tasks := rfl
@[simp] theorem setDie_groups (n : Nat) (d : Die) : (s.setDie n d).groups = s.groups := rfl
@[simp] theorem setDie_gmsgs (n : Nat) (d : Die) : (s.setDie n d).gmsgs = s.gmsgs := rfl
@[simp] theorem setDie_fmsgs (n : Nat) (d : Die) : (s.setDie n d).fmsgs = s.fmsgs := rfl
@[simp] theorem setDie_early (n : Nat) (d : Die) : (s.setDie n d).early = s.early := rfl
@[simp] theorem setDie_colls (n : Nat) (d : Die) : (s.setDie n d).colls = s.colls := rfl
@[simp] theorem setDie_collSeqs (n : Nat) (d : Die) : (s.setDie n d).collSeqs = s.collSeqs := rfl
@[simp] theorem setDie_claims (n : Nat) (d : Die) : (s.setDie n d).claims = s.claims := rfl
@[simp] theorem setDie_posts (n : Nat) (d : Die) : (s.setDie n d).posts = s.posts := rfl
@[simp] theorem setDie_slotTables (n : Nat) (d : Die) : (s.setDie n d).slotTables = s.slotTables := rfl
@[simp] theorem setDie_modctxsts (n : Nat) (d : Die) : (s.setDie n d).modctxsts = s.modctxsts := rfl
@[simp] theorem setDie_dbgaddr (n : Nat) (d : Die) : (s.setDie n d).dbgaddr = s.dbgaddr := rfl
@[simp] theorem setDie_dbgctx (n : Nat) (d : Die) : (s.setDie n d).dbgctx = s.dbgctx := rfl
@[simp] theorem setDie_fwVersion (n : Nat) (d : Die) : (s.setDie n d).fwVersion = s.fwVersion := rfl
@[simp] theorem setDie_rollback (n : Nat) (d : Die) : (s.setDie n d).rollback = s.rollback := rfl
@[simp] theorem setDie_clock (n : Nat) (d : Die) : (s.setDie n d).clock = s.clock := rfl
@[simp] theorem setDie_mapped (n : Nat) (d : Die) : (s.setDie n d).mapped = s.mapped := rfl
@[simp] theorem setDie_failed (n : Nat) (d : Die) : (s.setDie n d).failed = s.failed := rfl
@[simp] theorem setDie_bbox (n : Nat) (d : Die) : (s.setDie n d).bbox = s.bbox := rfl
@[simp] theorem setDie_bbFrozen (n : Nat) (d : Die) : (s.setDie n d).bbFrozen = s.bbFrozen := rfl
@[simp] theorem setDie_bbOver (n : Nat) (d : Die) : (s.setDie n d).bbOver = s.bbOver := rfl
@[simp] theorem setDie_modNum (n : Nat) (d : Die) : (s.setDie n d).modNum = s.modNum := rfl
@[simp] theorem setDie_domSize (n : Nat) (d : Die) : (s.setDie n d).domSize = s.domSize := rfl
@[simp] theorem setDie_hbm (n : Nat) (d : Die) : (s.setDie n d).hbm = s.hbm := rfl
@[simp] theorem setDie_hist (n : Nat) (d : Die) : (s.setDie n d).hist = s.hist := rfl
@[simp] theorem setDie_phase (n : Nat) (d : Die) : (s.setDie n d).phase = s.phase := rfl
@[simp] theorem setDie_joinReady (n : Nat) (d : Die) : (s.setDie n d).joinReady = s.joinReady := rfl
@[simp] theorem setDie_farPool (n : Nat) (d : Die) : (s.setDie n d).farPool = s.farPool := rfl
@[simp] theorem setDie_ctxcmd (n : Nat) (d : Die) : (s.setDie n d).ctxcmd = s.ctxcmd := rfl

@[simp] theorem modCtx_agenda (i : BitVec 12) (f : Context → Context) : (s.modCtx i f).agenda = s.agenda := rfl
@[simp] theorem modCtx_turns (i : BitVec 12) (f : Context → Context) : (s.modCtx i f).turns = s.turns := rfl
@[simp] theorem modCtx_fresh (i : BitVec 12) (f : Context → Context) : (s.modCtx i f).fresh = s.fresh := rfl
@[simp] theorem modCtx_nextId (i : BitVec 12) (f : Context → Context) : (s.modCtx i f).nextId = s.nextId := rfl
@[simp] theorem modCtx_routeMark (i : BitVec 12) (f : Context → Context) : (s.modCtx i f).routeMark = s.routeMark := rfl
@[simp] theorem modCtx_issue (i : BitVec 12) (f : Context → Context) : (s.modCtx i f).issue = s.issue := rfl
@[simp] theorem modCtx_outbox (i : BitVec 12) (f : Context → Context) : (s.modCtx i f).outbox = s.outbox := rfl
@[simp] theorem modCtx_now (i : BitVec 12) (f : Context → Context) : (s.modCtx i f).now = s.now := rfl
@[simp] theorem modCtx_cores (i : BitVec 12) (f : Context → Context) : (s.modCtx i f).cores = s.cores := rfl
@[simp] theorem modCtx_clusters (i : BitVec 12) (f : Context → Context) : (s.modCtx i f).clusters = s.clusters := rfl
@[simp] theorem modCtx_dies (i : BitVec 12) (f : Context → Context) : (s.modCtx i f).dies = s.dies := rfl
@[simp] theorem modCtx_mem (i : BitVec 12) (f : Context → Context) : (s.modCtx i f).mem = s.mem := rfl
@[simp] theorem modCtx_poison (i : BitVec 12) (f : Context → Context) : (s.modCtx i f).poison = s.poison := rfl
@[simp] theorem modCtx_zeros (i : BitVec 12) (f : Context → Context) : (s.modCtx i f).zeros = s.zeros := rfl
@[simp] theorem modCtx_dir (i : BitVec 12) (f : Context → Context) : (s.modCtx i f).dir = s.dir := rfl
@[simp] theorem modCtx_reqs (i : BitVec 12) (f : Context → Context) : (s.modCtx i f).reqs = s.reqs := rfl
@[simp] theorem modCtx_raises (i : BitVec 12) (f : Context → Context) : (s.modCtx i f).raises = s.raises := rfl
@[simp] theorem modCtx_swaps (i : BitVec 12) (f : Context → Context) : (s.modCtx i f).swaps = s.swaps := rfl
@[simp] theorem modCtx_moves (i : BitVec 12) (f : Context → Context) : (s.modCtx i f).moves = s.moves := rfl
@[simp] theorem modCtx_invals (i : BitVec 12) (f : Context → Context) : (s.modCtx i f).invals = s.invals := rfl
@[simp] theorem modCtx_launches (i : BitVec 12) (f : Context → Context) : (s.modCtx i f).launches = s.launches := rfl
@[simp] theorem modCtx_tasks (i : BitVec 12) (f : Context → Context) : (s.modCtx i f).tasks = s.tasks := rfl
@[simp] theorem modCtx_groups (i : BitVec 12) (f : Context → Context) : (s.modCtx i f).groups = s.groups := rfl
@[simp] theorem modCtx_gmsgs (i : BitVec 12) (f : Context → Context) : (s.modCtx i f).gmsgs = s.gmsgs := rfl
@[simp] theorem modCtx_fmsgs (i : BitVec 12) (f : Context → Context) : (s.modCtx i f).fmsgs = s.fmsgs := rfl
@[simp] theorem modCtx_early (i : BitVec 12) (f : Context → Context) : (s.modCtx i f).early = s.early := rfl
@[simp] theorem modCtx_colls (i : BitVec 12) (f : Context → Context) : (s.modCtx i f).colls = s.colls := rfl
@[simp] theorem modCtx_collSeqs (i : BitVec 12) (f : Context → Context) : (s.modCtx i f).collSeqs = s.collSeqs := rfl
@[simp] theorem modCtx_claims (i : BitVec 12) (f : Context → Context) : (s.modCtx i f).claims = s.claims := rfl
@[simp] theorem modCtx_posts (i : BitVec 12) (f : Context → Context) : (s.modCtx i f).posts = s.posts := rfl
@[simp] theorem modCtx_slotTables (i : BitVec 12) (f : Context → Context) : (s.modCtx i f).slotTables = s.slotTables := rfl
@[simp] theorem modCtx_modctxsts (i : BitVec 12) (f : Context → Context) : (s.modCtx i f).modctxsts = s.modctxsts := rfl
@[simp] theorem modCtx_dbgaddr (i : BitVec 12) (f : Context → Context) : (s.modCtx i f).dbgaddr = s.dbgaddr := rfl
@[simp] theorem modCtx_dbgctx (i : BitVec 12) (f : Context → Context) : (s.modCtx i f).dbgctx = s.dbgctx := rfl
@[simp] theorem modCtx_fwVersion (i : BitVec 12) (f : Context → Context) : (s.modCtx i f).fwVersion = s.fwVersion := rfl
@[simp] theorem modCtx_rollback (i : BitVec 12) (f : Context → Context) : (s.modCtx i f).rollback = s.rollback := rfl
@[simp] theorem modCtx_clock (i : BitVec 12) (f : Context → Context) : (s.modCtx i f).clock = s.clock := rfl
@[simp] theorem modCtx_mapped (i : BitVec 12) (f : Context → Context) : (s.modCtx i f).mapped = s.mapped := rfl
@[simp] theorem modCtx_failed (i : BitVec 12) (f : Context → Context) : (s.modCtx i f).failed = s.failed := rfl
@[simp] theorem modCtx_bbox (i : BitVec 12) (f : Context → Context) : (s.modCtx i f).bbox = s.bbox := rfl
@[simp] theorem modCtx_bbFrozen (i : BitVec 12) (f : Context → Context) : (s.modCtx i f).bbFrozen = s.bbFrozen := rfl
@[simp] theorem modCtx_bbOver (i : BitVec 12) (f : Context → Context) : (s.modCtx i f).bbOver = s.bbOver := rfl
@[simp] theorem modCtx_modNum (i : BitVec 12) (f : Context → Context) : (s.modCtx i f).modNum = s.modNum := rfl
@[simp] theorem modCtx_domSize (i : BitVec 12) (f : Context → Context) : (s.modCtx i f).domSize = s.domSize := rfl
@[simp] theorem modCtx_hbm (i : BitVec 12) (f : Context → Context) : (s.modCtx i f).hbm = s.hbm := rfl
@[simp] theorem modCtx_hist (i : BitVec 12) (f : Context → Context) : (s.modCtx i f).hist = s.hist := rfl
@[simp] theorem modCtx_phase (i : BitVec 12) (f : Context → Context) : (s.modCtx i f).phase = s.phase := rfl
@[simp] theorem modCtx_joinReady (i : BitVec 12) (f : Context → Context) : (s.modCtx i f).joinReady = s.joinReady := rfl
@[simp] theorem modCtx_farPool (i : BitVec 12) (f : Context → Context) : (s.modCtx i f).farPool = s.farPool := rfl
@[simp] theorem modCtx_ctxcmd (i : BitVec 12) (f : Context → Context) : (s.modCtx i f).ctxcmd = s.ctxcmd := rfl

@[simp] theorem modTask_agenda (i : Nat) (f : Task → Task) : (s.modTask i f).agenda = s.agenda := rfl
@[simp] theorem modTask_turns (i : Nat) (f : Task → Task) : (s.modTask i f).turns = s.turns := rfl
@[simp] theorem modTask_fresh (i : Nat) (f : Task → Task) : (s.modTask i f).fresh = s.fresh := rfl
@[simp] theorem modTask_nextId (i : Nat) (f : Task → Task) : (s.modTask i f).nextId = s.nextId := rfl
@[simp] theorem modTask_routeMark (i : Nat) (f : Task → Task) : (s.modTask i f).routeMark = s.routeMark := rfl
@[simp] theorem modTask_issue (i : Nat) (f : Task → Task) : (s.modTask i f).issue = s.issue := rfl
@[simp] theorem modTask_outbox (i : Nat) (f : Task → Task) : (s.modTask i f).outbox = s.outbox := rfl
@[simp] theorem modTask_now (i : Nat) (f : Task → Task) : (s.modTask i f).now = s.now := rfl
@[simp] theorem modTask_cores (i : Nat) (f : Task → Task) : (s.modTask i f).cores = s.cores := rfl
@[simp] theorem modTask_clusters (i : Nat) (f : Task → Task) : (s.modTask i f).clusters = s.clusters := rfl
@[simp] theorem modTask_dies (i : Nat) (f : Task → Task) : (s.modTask i f).dies = s.dies := rfl
@[simp] theorem modTask_mem (i : Nat) (f : Task → Task) : (s.modTask i f).mem = s.mem := rfl
@[simp] theorem modTask_poison (i : Nat) (f : Task → Task) : (s.modTask i f).poison = s.poison := rfl
@[simp] theorem modTask_zeros (i : Nat) (f : Task → Task) : (s.modTask i f).zeros = s.zeros := rfl
@[simp] theorem modTask_dir (i : Nat) (f : Task → Task) : (s.modTask i f).dir = s.dir := rfl
@[simp] theorem modTask_reqs (i : Nat) (f : Task → Task) : (s.modTask i f).reqs = s.reqs := rfl
@[simp] theorem modTask_raises (i : Nat) (f : Task → Task) : (s.modTask i f).raises = s.raises := rfl
@[simp] theorem modTask_swaps (i : Nat) (f : Task → Task) : (s.modTask i f).swaps = s.swaps := rfl
@[simp] theorem modTask_moves (i : Nat) (f : Task → Task) : (s.modTask i f).moves = s.moves := rfl
@[simp] theorem modTask_invals (i : Nat) (f : Task → Task) : (s.modTask i f).invals = s.invals := rfl
@[simp] theorem modTask_ctxs (i : Nat) (f : Task → Task) : (s.modTask i f).ctxs = s.ctxs := rfl
@[simp] theorem modTask_launches (i : Nat) (f : Task → Task) : (s.modTask i f).launches = s.launches := rfl
@[simp] theorem modTask_groups (i : Nat) (f : Task → Task) : (s.modTask i f).groups = s.groups := rfl
@[simp] theorem modTask_gmsgs (i : Nat) (f : Task → Task) : (s.modTask i f).gmsgs = s.gmsgs := rfl
@[simp] theorem modTask_fmsgs (i : Nat) (f : Task → Task) : (s.modTask i f).fmsgs = s.fmsgs := rfl
@[simp] theorem modTask_early (i : Nat) (f : Task → Task) : (s.modTask i f).early = s.early := rfl
@[simp] theorem modTask_colls (i : Nat) (f : Task → Task) : (s.modTask i f).colls = s.colls := rfl
@[simp] theorem modTask_collSeqs (i : Nat) (f : Task → Task) : (s.modTask i f).collSeqs = s.collSeqs := rfl
@[simp] theorem modTask_claims (i : Nat) (f : Task → Task) : (s.modTask i f).claims = s.claims := rfl
@[simp] theorem modTask_posts (i : Nat) (f : Task → Task) : (s.modTask i f).posts = s.posts := rfl
@[simp] theorem modTask_slotTables (i : Nat) (f : Task → Task) : (s.modTask i f).slotTables = s.slotTables := rfl
@[simp] theorem modTask_modctxsts (i : Nat) (f : Task → Task) : (s.modTask i f).modctxsts = s.modctxsts := rfl
@[simp] theorem modTask_dbgaddr (i : Nat) (f : Task → Task) : (s.modTask i f).dbgaddr = s.dbgaddr := rfl
@[simp] theorem modTask_dbgctx (i : Nat) (f : Task → Task) : (s.modTask i f).dbgctx = s.dbgctx := rfl
@[simp] theorem modTask_fwVersion (i : Nat) (f : Task → Task) : (s.modTask i f).fwVersion = s.fwVersion := rfl
@[simp] theorem modTask_rollback (i : Nat) (f : Task → Task) : (s.modTask i f).rollback = s.rollback := rfl
@[simp] theorem modTask_clock (i : Nat) (f : Task → Task) : (s.modTask i f).clock = s.clock := rfl
@[simp] theorem modTask_mapped (i : Nat) (f : Task → Task) : (s.modTask i f).mapped = s.mapped := rfl
@[simp] theorem modTask_failed (i : Nat) (f : Task → Task) : (s.modTask i f).failed = s.failed := rfl
@[simp] theorem modTask_bbox (i : Nat) (f : Task → Task) : (s.modTask i f).bbox = s.bbox := rfl
@[simp] theorem modTask_bbFrozen (i : Nat) (f : Task → Task) : (s.modTask i f).bbFrozen = s.bbFrozen := rfl
@[simp] theorem modTask_bbOver (i : Nat) (f : Task → Task) : (s.modTask i f).bbOver = s.bbOver := rfl
@[simp] theorem modTask_modNum (i : Nat) (f : Task → Task) : (s.modTask i f).modNum = s.modNum := rfl
@[simp] theorem modTask_domSize (i : Nat) (f : Task → Task) : (s.modTask i f).domSize = s.domSize := rfl
@[simp] theorem modTask_hbm (i : Nat) (f : Task → Task) : (s.modTask i f).hbm = s.hbm := rfl
@[simp] theorem modTask_hist (i : Nat) (f : Task → Task) : (s.modTask i f).hist = s.hist := rfl
@[simp] theorem modTask_phase (i : Nat) (f : Task → Task) : (s.modTask i f).phase = s.phase := rfl
@[simp] theorem modTask_joinReady (i : Nat) (f : Task → Task) : (s.modTask i f).joinReady = s.joinReady := rfl
@[simp] theorem modTask_farPool (i : Nat) (f : Task → Task) : (s.modTask i f).farPool = s.farPool := rfl
@[simp] theorem modTask_ctxcmd (i : Nat) (f : Task → Task) : (s.modTask i f).ctxcmd = s.ctxcmd := rfl

@[simp] theorem modLaunch_agenda (i : Nat) (f : Launch → Launch) : (s.modLaunch i f).agenda = s.agenda := rfl
@[simp] theorem modLaunch_turns (i : Nat) (f : Launch → Launch) : (s.modLaunch i f).turns = s.turns := rfl
@[simp] theorem modLaunch_fresh (i : Nat) (f : Launch → Launch) : (s.modLaunch i f).fresh = s.fresh := rfl
@[simp] theorem modLaunch_nextId (i : Nat) (f : Launch → Launch) : (s.modLaunch i f).nextId = s.nextId := rfl
@[simp] theorem modLaunch_routeMark (i : Nat) (f : Launch → Launch) : (s.modLaunch i f).routeMark = s.routeMark := rfl
@[simp] theorem modLaunch_issue (i : Nat) (f : Launch → Launch) : (s.modLaunch i f).issue = s.issue := rfl
@[simp] theorem modLaunch_outbox (i : Nat) (f : Launch → Launch) : (s.modLaunch i f).outbox = s.outbox := rfl
@[simp] theorem modLaunch_now (i : Nat) (f : Launch → Launch) : (s.modLaunch i f).now = s.now := rfl
@[simp] theorem modLaunch_cores (i : Nat) (f : Launch → Launch) : (s.modLaunch i f).cores = s.cores := rfl
@[simp] theorem modLaunch_clusters (i : Nat) (f : Launch → Launch) : (s.modLaunch i f).clusters = s.clusters := rfl
@[simp] theorem modLaunch_dies (i : Nat) (f : Launch → Launch) : (s.modLaunch i f).dies = s.dies := rfl
@[simp] theorem modLaunch_mem (i : Nat) (f : Launch → Launch) : (s.modLaunch i f).mem = s.mem := rfl
@[simp] theorem modLaunch_poison (i : Nat) (f : Launch → Launch) : (s.modLaunch i f).poison = s.poison := rfl
@[simp] theorem modLaunch_zeros (i : Nat) (f : Launch → Launch) : (s.modLaunch i f).zeros = s.zeros := rfl
@[simp] theorem modLaunch_dir (i : Nat) (f : Launch → Launch) : (s.modLaunch i f).dir = s.dir := rfl
@[simp] theorem modLaunch_reqs (i : Nat) (f : Launch → Launch) : (s.modLaunch i f).reqs = s.reqs := rfl
@[simp] theorem modLaunch_raises (i : Nat) (f : Launch → Launch) : (s.modLaunch i f).raises = s.raises := rfl
@[simp] theorem modLaunch_swaps (i : Nat) (f : Launch → Launch) : (s.modLaunch i f).swaps = s.swaps := rfl
@[simp] theorem modLaunch_moves (i : Nat) (f : Launch → Launch) : (s.modLaunch i f).moves = s.moves := rfl
@[simp] theorem modLaunch_invals (i : Nat) (f : Launch → Launch) : (s.modLaunch i f).invals = s.invals := rfl
@[simp] theorem modLaunch_ctxs (i : Nat) (f : Launch → Launch) : (s.modLaunch i f).ctxs = s.ctxs := rfl
@[simp] theorem modLaunch_tasks (i : Nat) (f : Launch → Launch) : (s.modLaunch i f).tasks = s.tasks := rfl
@[simp] theorem modLaunch_groups (i : Nat) (f : Launch → Launch) : (s.modLaunch i f).groups = s.groups := rfl
@[simp] theorem modLaunch_gmsgs (i : Nat) (f : Launch → Launch) : (s.modLaunch i f).gmsgs = s.gmsgs := rfl
@[simp] theorem modLaunch_fmsgs (i : Nat) (f : Launch → Launch) : (s.modLaunch i f).fmsgs = s.fmsgs := rfl
@[simp] theorem modLaunch_early (i : Nat) (f : Launch → Launch) : (s.modLaunch i f).early = s.early := rfl
@[simp] theorem modLaunch_colls (i : Nat) (f : Launch → Launch) : (s.modLaunch i f).colls = s.colls := rfl
@[simp] theorem modLaunch_collSeqs (i : Nat) (f : Launch → Launch) : (s.modLaunch i f).collSeqs = s.collSeqs := rfl
@[simp] theorem modLaunch_claims (i : Nat) (f : Launch → Launch) : (s.modLaunch i f).claims = s.claims := rfl
@[simp] theorem modLaunch_posts (i : Nat) (f : Launch → Launch) : (s.modLaunch i f).posts = s.posts := rfl
@[simp] theorem modLaunch_slotTables (i : Nat) (f : Launch → Launch) : (s.modLaunch i f).slotTables = s.slotTables := rfl
@[simp] theorem modLaunch_modctxsts (i : Nat) (f : Launch → Launch) : (s.modLaunch i f).modctxsts = s.modctxsts := rfl
@[simp] theorem modLaunch_dbgaddr (i : Nat) (f : Launch → Launch) : (s.modLaunch i f).dbgaddr = s.dbgaddr := rfl
@[simp] theorem modLaunch_dbgctx (i : Nat) (f : Launch → Launch) : (s.modLaunch i f).dbgctx = s.dbgctx := rfl
@[simp] theorem modLaunch_fwVersion (i : Nat) (f : Launch → Launch) : (s.modLaunch i f).fwVersion = s.fwVersion := rfl
@[simp] theorem modLaunch_rollback (i : Nat) (f : Launch → Launch) : (s.modLaunch i f).rollback = s.rollback := rfl
@[simp] theorem modLaunch_clock (i : Nat) (f : Launch → Launch) : (s.modLaunch i f).clock = s.clock := rfl
@[simp] theorem modLaunch_mapped (i : Nat) (f : Launch → Launch) : (s.modLaunch i f).mapped = s.mapped := rfl
@[simp] theorem modLaunch_failed (i : Nat) (f : Launch → Launch) : (s.modLaunch i f).failed = s.failed := rfl
@[simp] theorem modLaunch_bbox (i : Nat) (f : Launch → Launch) : (s.modLaunch i f).bbox = s.bbox := rfl
@[simp] theorem modLaunch_bbFrozen (i : Nat) (f : Launch → Launch) : (s.modLaunch i f).bbFrozen = s.bbFrozen := rfl
@[simp] theorem modLaunch_bbOver (i : Nat) (f : Launch → Launch) : (s.modLaunch i f).bbOver = s.bbOver := rfl
@[simp] theorem modLaunch_modNum (i : Nat) (f : Launch → Launch) : (s.modLaunch i f).modNum = s.modNum := rfl
@[simp] theorem modLaunch_domSize (i : Nat) (f : Launch → Launch) : (s.modLaunch i f).domSize = s.domSize := rfl
@[simp] theorem modLaunch_hbm (i : Nat) (f : Launch → Launch) : (s.modLaunch i f).hbm = s.hbm := rfl
@[simp] theorem modLaunch_hist (i : Nat) (f : Launch → Launch) : (s.modLaunch i f).hist = s.hist := rfl
@[simp] theorem modLaunch_phase (i : Nat) (f : Launch → Launch) : (s.modLaunch i f).phase = s.phase := rfl
@[simp] theorem modLaunch_joinReady (i : Nat) (f : Launch → Launch) : (s.modLaunch i f).joinReady = s.joinReady := rfl
@[simp] theorem modLaunch_farPool (i : Nat) (f : Launch → Launch) : (s.modLaunch i f).farPool = s.farPool := rfl
@[simp] theorem modLaunch_ctxcmd (i : Nat) (f : Launch → Launch) : (s.modLaunch i f).ctxcmd = s.ctxcmd := rfl

@[simp] theorem setVerdict_agenda (v : Verdict) : (s.setVerdict v).agenda = s.agenda := rfl
@[simp] theorem setVerdict_turns (v : Verdict) : (s.setVerdict v).turns = s.turns := rfl
@[simp] theorem setVerdict_fresh (v : Verdict) : (s.setVerdict v).fresh = s.fresh := rfl
@[simp] theorem setVerdict_nextId (v : Verdict) : (s.setVerdict v).nextId = s.nextId := rfl
@[simp] theorem setVerdict_routeMark (v : Verdict) : (s.setVerdict v).routeMark = s.routeMark := rfl
@[simp] theorem setVerdict_issue (v : Verdict) : (s.setVerdict v).issue = { s.issue with verdict := v } := rfl
@[simp] theorem setVerdict_outbox (v : Verdict) : (s.setVerdict v).outbox = s.outbox := rfl
@[simp] theorem setVerdict_now (v : Verdict) : (s.setVerdict v).now = s.now := rfl
@[simp] theorem setVerdict_cores (v : Verdict) : (s.setVerdict v).cores = s.cores := rfl
@[simp] theorem setVerdict_clusters (v : Verdict) : (s.setVerdict v).clusters = s.clusters := rfl
@[simp] theorem setVerdict_dies (v : Verdict) : (s.setVerdict v).dies = s.dies := rfl
@[simp] theorem setVerdict_mem (v : Verdict) : (s.setVerdict v).mem = s.mem := rfl
@[simp] theorem setVerdict_poison (v : Verdict) : (s.setVerdict v).poison = s.poison := rfl
@[simp] theorem setVerdict_zeros (v : Verdict) : (s.setVerdict v).zeros = s.zeros := rfl
@[simp] theorem setVerdict_dir (v : Verdict) : (s.setVerdict v).dir = s.dir := rfl
@[simp] theorem setVerdict_reqs (v : Verdict) : (s.setVerdict v).reqs = s.reqs := rfl
@[simp] theorem setVerdict_raises (v : Verdict) : (s.setVerdict v).raises = s.raises := rfl
@[simp] theorem setVerdict_swaps (v : Verdict) : (s.setVerdict v).swaps = s.swaps := rfl
@[simp] theorem setVerdict_moves (v : Verdict) : (s.setVerdict v).moves = s.moves := rfl
@[simp] theorem setVerdict_invals (v : Verdict) : (s.setVerdict v).invals = s.invals := rfl
@[simp] theorem setVerdict_ctxs (v : Verdict) : (s.setVerdict v).ctxs = s.ctxs := rfl
@[simp] theorem setVerdict_launches (v : Verdict) : (s.setVerdict v).launches = s.launches := rfl
@[simp] theorem setVerdict_tasks (v : Verdict) : (s.setVerdict v).tasks = s.tasks := rfl
@[simp] theorem setVerdict_groups (v : Verdict) : (s.setVerdict v).groups = s.groups := rfl
@[simp] theorem setVerdict_gmsgs (v : Verdict) : (s.setVerdict v).gmsgs = s.gmsgs := rfl
@[simp] theorem setVerdict_fmsgs (v : Verdict) : (s.setVerdict v).fmsgs = s.fmsgs := rfl
@[simp] theorem setVerdict_early (v : Verdict) : (s.setVerdict v).early = s.early := rfl
@[simp] theorem setVerdict_colls (v : Verdict) : (s.setVerdict v).colls = s.colls := rfl
@[simp] theorem setVerdict_collSeqs (v : Verdict) : (s.setVerdict v).collSeqs = s.collSeqs := rfl
@[simp] theorem setVerdict_claims (v : Verdict) : (s.setVerdict v).claims = s.claims := rfl
@[simp] theorem setVerdict_posts (v : Verdict) : (s.setVerdict v).posts = s.posts := rfl
@[simp] theorem setVerdict_slotTables (v : Verdict) : (s.setVerdict v).slotTables = s.slotTables := rfl
@[simp] theorem setVerdict_modctxsts (v : Verdict) : (s.setVerdict v).modctxsts = s.modctxsts := rfl
@[simp] theorem setVerdict_dbgaddr (v : Verdict) : (s.setVerdict v).dbgaddr = s.dbgaddr := rfl
@[simp] theorem setVerdict_dbgctx (v : Verdict) : (s.setVerdict v).dbgctx = s.dbgctx := rfl
@[simp] theorem setVerdict_fwVersion (v : Verdict) : (s.setVerdict v).fwVersion = s.fwVersion := rfl
@[simp] theorem setVerdict_rollback (v : Verdict) : (s.setVerdict v).rollback = s.rollback := rfl
@[simp] theorem setVerdict_clock (v : Verdict) : (s.setVerdict v).clock = s.clock := rfl
@[simp] theorem setVerdict_mapped (v : Verdict) : (s.setVerdict v).mapped = s.mapped := rfl
@[simp] theorem setVerdict_failed (v : Verdict) : (s.setVerdict v).failed = s.failed := rfl
@[simp] theorem setVerdict_bbox (v : Verdict) : (s.setVerdict v).bbox = s.bbox := rfl
@[simp] theorem setVerdict_bbFrozen (v : Verdict) : (s.setVerdict v).bbFrozen = s.bbFrozen := rfl
@[simp] theorem setVerdict_bbOver (v : Verdict) : (s.setVerdict v).bbOver = s.bbOver := rfl
@[simp] theorem setVerdict_modNum (v : Verdict) : (s.setVerdict v).modNum = s.modNum := rfl
@[simp] theorem setVerdict_domSize (v : Verdict) : (s.setVerdict v).domSize = s.domSize := rfl
@[simp] theorem setVerdict_hbm (v : Verdict) : (s.setVerdict v).hbm = s.hbm := rfl
@[simp] theorem setVerdict_hist (v : Verdict) : (s.setVerdict v).hist = s.hist := rfl
@[simp] theorem setVerdict_phase (v : Verdict) : (s.setVerdict v).phase = s.phase := rfl
@[simp] theorem setVerdict_joinReady (v : Verdict) : (s.setVerdict v).joinReady = s.joinReady := rfl
@[simp] theorem setVerdict_farPool (v : Verdict) : (s.setVerdict v).farPool = s.farPool := rfl
@[simp] theorem setVerdict_ctxcmd (v : Verdict) : (s.setVerdict v).ctxcmd = s.ctxcmd := rfl

@[simp] theorem postFault_agenda (ctx : BitVec 12) (code reason : Nat) (unit pc val fqw : Word) : (s.postFault ctx code reason unit pc val fqw).agenda = s.agenda := rfl
@[simp] theorem postFault_turns (ctx : BitVec 12) (code reason : Nat) (unit pc val fqw : Word) : (s.postFault ctx code reason unit pc val fqw).turns = s.turns := rfl
@[simp] theorem postFault_fresh (ctx : BitVec 12) (code reason : Nat) (unit pc val fqw : Word) : (s.postFault ctx code reason unit pc val fqw).fresh = s.fresh := rfl
@[simp] theorem postFault_nextId (ctx : BitVec 12) (code reason : Nat) (unit pc val fqw : Word) : (s.postFault ctx code reason unit pc val fqw).nextId = s.nextId := rfl
@[simp] theorem postFault_routeMark (ctx : BitVec 12) (code reason : Nat) (unit pc val fqw : Word) : (s.postFault ctx code reason unit pc val fqw).routeMark = s.routeMark := rfl
@[simp] theorem postFault_issue (ctx : BitVec 12) (code reason : Nat) (unit pc val fqw : Word) : (s.postFault ctx code reason unit pc val fqw).issue = s.issue := rfl
@[simp] theorem postFault_outbox (ctx : BitVec 12) (code reason : Nat) (unit pc val fqw : Word) : (s.postFault ctx code reason unit pc val fqw).outbox = s.outbox := rfl
@[simp] theorem postFault_now (ctx : BitVec 12) (code reason : Nat) (unit pc val fqw : Word) : (s.postFault ctx code reason unit pc val fqw).now = s.now := rfl
@[simp] theorem postFault_cores (ctx : BitVec 12) (code reason : Nat) (unit pc val fqw : Word) : (s.postFault ctx code reason unit pc val fqw).cores = s.cores := rfl
@[simp] theorem postFault_clusters (ctx : BitVec 12) (code reason : Nat) (unit pc val fqw : Word) : (s.postFault ctx code reason unit pc val fqw).clusters = s.clusters := rfl
@[simp] theorem postFault_dies (ctx : BitVec 12) (code reason : Nat) (unit pc val fqw : Word) : (s.postFault ctx code reason unit pc val fqw).dies = s.dies := rfl
@[simp] theorem postFault_mem (ctx : BitVec 12) (code reason : Nat) (unit pc val fqw : Word) : (s.postFault ctx code reason unit pc val fqw).mem = s.mem := rfl
@[simp] theorem postFault_poison (ctx : BitVec 12) (code reason : Nat) (unit pc val fqw : Word) : (s.postFault ctx code reason unit pc val fqw).poison = s.poison := rfl
@[simp] theorem postFault_zeros (ctx : BitVec 12) (code reason : Nat) (unit pc val fqw : Word) : (s.postFault ctx code reason unit pc val fqw).zeros = s.zeros := rfl
@[simp] theorem postFault_dir (ctx : BitVec 12) (code reason : Nat) (unit pc val fqw : Word) : (s.postFault ctx code reason unit pc val fqw).dir = s.dir := rfl
@[simp] theorem postFault_reqs (ctx : BitVec 12) (code reason : Nat) (unit pc val fqw : Word) : (s.postFault ctx code reason unit pc val fqw).reqs = s.reqs := rfl
@[simp] theorem postFault_raises (ctx : BitVec 12) (code reason : Nat) (unit pc val fqw : Word) : (s.postFault ctx code reason unit pc val fqw).raises = s.raises := rfl
@[simp] theorem postFault_swaps (ctx : BitVec 12) (code reason : Nat) (unit pc val fqw : Word) : (s.postFault ctx code reason unit pc val fqw).swaps = s.swaps := rfl
@[simp] theorem postFault_moves (ctx : BitVec 12) (code reason : Nat) (unit pc val fqw : Word) : (s.postFault ctx code reason unit pc val fqw).moves = s.moves := rfl
@[simp] theorem postFault_invals (ctx : BitVec 12) (code reason : Nat) (unit pc val fqw : Word) : (s.postFault ctx code reason unit pc val fqw).invals = s.invals := rfl
@[simp] theorem postFault_ctxs (ctx : BitVec 12) (code reason : Nat) (unit pc val fqw : Word) : (s.postFault ctx code reason unit pc val fqw).ctxs = s.ctxs := rfl
@[simp] theorem postFault_launches (ctx : BitVec 12) (code reason : Nat) (unit pc val fqw : Word) : (s.postFault ctx code reason unit pc val fqw).launches = s.launches := rfl
@[simp] theorem postFault_tasks (ctx : BitVec 12) (code reason : Nat) (unit pc val fqw : Word) : (s.postFault ctx code reason unit pc val fqw).tasks = s.tasks := rfl
@[simp] theorem postFault_groups (ctx : BitVec 12) (code reason : Nat) (unit pc val fqw : Word) : (s.postFault ctx code reason unit pc val fqw).groups = s.groups := rfl
@[simp] theorem postFault_gmsgs (ctx : BitVec 12) (code reason : Nat) (unit pc val fqw : Word) : (s.postFault ctx code reason unit pc val fqw).gmsgs = s.gmsgs := rfl
@[simp] theorem postFault_fmsgs (ctx : BitVec 12) (code reason : Nat) (unit pc val fqw : Word) : (s.postFault ctx code reason unit pc val fqw).fmsgs = s.fmsgs := rfl
@[simp] theorem postFault_early (ctx : BitVec 12) (code reason : Nat) (unit pc val fqw : Word) : (s.postFault ctx code reason unit pc val fqw).early = s.early := rfl
@[simp] theorem postFault_colls (ctx : BitVec 12) (code reason : Nat) (unit pc val fqw : Word) : (s.postFault ctx code reason unit pc val fqw).colls = s.colls := rfl
@[simp] theorem postFault_collSeqs (ctx : BitVec 12) (code reason : Nat) (unit pc val fqw : Word) : (s.postFault ctx code reason unit pc val fqw).collSeqs = s.collSeqs := rfl
@[simp] theorem postFault_claims (ctx : BitVec 12) (code reason : Nat) (unit pc val fqw : Word) : (s.postFault ctx code reason unit pc val fqw).claims = s.claims := rfl
@[simp] theorem postFault_slotTables (ctx : BitVec 12) (code reason : Nat) (unit pc val fqw : Word) : (s.postFault ctx code reason unit pc val fqw).slotTables = s.slotTables := rfl
@[simp] theorem postFault_modctxsts (ctx : BitVec 12) (code reason : Nat) (unit pc val fqw : Word) : (s.postFault ctx code reason unit pc val fqw).modctxsts = s.modctxsts := rfl
@[simp] theorem postFault_dbgaddr (ctx : BitVec 12) (code reason : Nat) (unit pc val fqw : Word) : (s.postFault ctx code reason unit pc val fqw).dbgaddr = s.dbgaddr := rfl
@[simp] theorem postFault_dbgctx (ctx : BitVec 12) (code reason : Nat) (unit pc val fqw : Word) : (s.postFault ctx code reason unit pc val fqw).dbgctx = s.dbgctx := rfl
@[simp] theorem postFault_fwVersion (ctx : BitVec 12) (code reason : Nat) (unit pc val fqw : Word) : (s.postFault ctx code reason unit pc val fqw).fwVersion = s.fwVersion := rfl
@[simp] theorem postFault_rollback (ctx : BitVec 12) (code reason : Nat) (unit pc val fqw : Word) : (s.postFault ctx code reason unit pc val fqw).rollback = s.rollback := rfl
@[simp] theorem postFault_clock (ctx : BitVec 12) (code reason : Nat) (unit pc val fqw : Word) : (s.postFault ctx code reason unit pc val fqw).clock = s.clock := rfl
@[simp] theorem postFault_mapped (ctx : BitVec 12) (code reason : Nat) (unit pc val fqw : Word) : (s.postFault ctx code reason unit pc val fqw).mapped = s.mapped := rfl
@[simp] theorem postFault_failed (ctx : BitVec 12) (code reason : Nat) (unit pc val fqw : Word) : (s.postFault ctx code reason unit pc val fqw).failed = s.failed := rfl
@[simp] theorem postFault_bbox (ctx : BitVec 12) (code reason : Nat) (unit pc val fqw : Word) : (s.postFault ctx code reason unit pc val fqw).bbox = s.bbox := rfl
@[simp] theorem postFault_bbFrozen (ctx : BitVec 12) (code reason : Nat) (unit pc val fqw : Word) : (s.postFault ctx code reason unit pc val fqw).bbFrozen = s.bbFrozen := rfl
@[simp] theorem postFault_bbOver (ctx : BitVec 12) (code reason : Nat) (unit pc val fqw : Word) : (s.postFault ctx code reason unit pc val fqw).bbOver = s.bbOver := rfl
@[simp] theorem postFault_modNum (ctx : BitVec 12) (code reason : Nat) (unit pc val fqw : Word) : (s.postFault ctx code reason unit pc val fqw).modNum = s.modNum := rfl
@[simp] theorem postFault_domSize (ctx : BitVec 12) (code reason : Nat) (unit pc val fqw : Word) : (s.postFault ctx code reason unit pc val fqw).domSize = s.domSize := rfl
@[simp] theorem postFault_hbm (ctx : BitVec 12) (code reason : Nat) (unit pc val fqw : Word) : (s.postFault ctx code reason unit pc val fqw).hbm = s.hbm := rfl
@[simp] theorem postFault_hist (ctx : BitVec 12) (code reason : Nat) (unit pc val fqw : Word) : (s.postFault ctx code reason unit pc val fqw).hist = s.hist := rfl
@[simp] theorem postFault_phase (ctx : BitVec 12) (code reason : Nat) (unit pc val fqw : Word) : (s.postFault ctx code reason unit pc val fqw).phase = s.phase := rfl
@[simp] theorem postFault_joinReady (ctx : BitVec 12) (code reason : Nat) (unit pc val fqw : Word) : (s.postFault ctx code reason unit pc val fqw).joinReady = s.joinReady := rfl
@[simp] theorem postFault_farPool (ctx : BitVec 12) (code reason : Nat) (unit pc val fqw : Word) : (s.postFault ctx code reason unit pc val fqw).farPool = s.farPool := rfl
@[simp] theorem postFault_ctxcmd (ctx : BitVec 12) (code reason : Nat) (unit pc val fqw : Word) : (s.postFault ctx code reason unit pc val fqw).ctxcmd = s.ctxcmd := rfl

/-! ### Units -/

@[simp] theorem core_setCore_same (n : Nat) (c : Core) : (s.setCore n c).core n = c := tget_tput_same ..

theorem core_setCore_other (n m : Nat) (c : Core) (h : m ≠ n) : (s.setCore n c).core m = s.core m :=
  tget_tput_other _ _ _ _ _ h

@[simp] theorem cluster_setCluster_same (n : Nat) (c : Cluster) : (s.setCluster n c).cluster n = c := tget_tput_same ..

theorem cluster_setCluster_other (n m : Nat) (c : Cluster) (h : m ≠ n) :
    (s.setCluster n c).cluster m = s.cluster m := tget_tput_other _ _ _ _ _ h

@[simp] theorem die_setDie_same (n : Nat) (d : Die) : (s.setDie n d).die n = d := tget_tput_same ..

theorem die_setDie_other (n m : Nat) (d : Die) (h : m ≠ n) : (s.setDie n d).die m = s.die m :=
  tget_tput_other _ _ _ _ _ h

@[simp] theorem cluster_setCore (n m : Nat) (c : Core) : (s.setCore n c).cluster m = s.cluster m := rfl
@[simp] theorem die_setCore (n m : Nat) (c : Core) : (s.setCore n c).die m = s.die m := rfl
@[simp] theorem core_setCluster (n m : Nat) (c : Cluster) : (s.setCluster n c).core m = s.core m := rfl
@[simp] theorem core_setVerdict (n : Nat) (v : Verdict) : (s.setVerdict v).core n = s.core n := rfl
@[simp] theorem live_setVerdict (v : Verdict) : (s.setVerdict v).live = s.live := rfl
@[simp] theorem core_postFault (n : Nat) (ctx : BitVec 12) (code reason : Nat) (unit pc val fqw : Word) :
    (s.postFault ctx code reason unit pc val fqw).core n = s.core n := rfl

variable (c : Core) (k : Kind) (st : Strand)

@[simp] theorem strand_setStrand_same : (c.setStrand k st).strand k = st := by cases k <;> rfl

theorem strand_setStrand_other (j : Kind) (h : j ≠ k) : (c.setStrand k st).strand j = c.strand j := by
  cases j <;> cases k <;> first | rfl | exact absurd rfl h

@[simp] theorem setStrand_setStrand (st2 : Strand) : (c.setStrand k st).setStrand k st2 = c.setStrand k st2 := by
  cases k <;> rfl

@[simp] theorem setStrand_strand : c.setStrand k (c.strand k) = c := by cases k <;> rfl

@[simp] theorem modStrand_eq (n : Nat) (f : Strand → Strand) :
    s.modStrand n k f = s.setCore n ((s.core n).setStrand k (f ((s.core n).strand k))) := rfl

@[simp] theorem modActing_eq (f : Strand → Strand) :
    s.modActing f = s.setCore s.issue.core (s.live.setStrand s.issue.kind (f (s.live.strand s.issue.kind))) := rfl

@[simp] theorem live_setCore : (s.setCore s.issue.core c).live = c := core_setCore_same ..

@[simp] theorem pre_setCore (n : Nat) : (s.setCore n c).pre = s.pre := rfl

@[simp] theorem modCore_eq (n : Nat) (f : Core → Core) : s.modCore n f = s.setCore n (f (s.core n)) := rfl

@[simp] theorem modLive_eq (f : Core → Core) : s.modLive f = s.setCore s.issue.core (f s.live) := rfl

end Sys2Proof.Machine
end

