-- ==== Sys2Proof/Laws/Ops.lean ====
section
/-! SUPPORT. What the shared operations do: the guard, the wait for pending registers, a register or predicate written,
the entry into a trap. -/

namespace Sys2Proof

open Sys2Proof.Machine

variable {s : State} {g : BitVec 6} {ns : List (BitVec 6)}

/-! ### Guard and operands -/

theorem guarded_on (h : s.rdPred g = true) (f : State → Out) : guarded g s f = f s := by simp [guarded, h]

theorem guarded_off (h : s.rdPred g = false) (f : State → Out) : guarded g s f = .next s := by simp [guarded, h]

theorem ready_of (h : ∀ n ∈ ns, s.isPending n = false) (x : Out) : ready s ns x = x := by
  have : ns.any s.isPending = false := by simpa using h
  simp [ready, this]

theorem ready_pending {n : BitVec 6} (hn : n ∈ ns) (h : s.isPending n = true) (x : Out) : ready s ns x = hold s := by
  have : ns.any s.isPending = true := by simpa using ⟨n, hn, h⟩
  simp [ready, this]

/-- An instruction that may run does what stands under its guard and its wait. -/
theorem guarded_ready (h : Runs s g ns) (f : State → Out) : guarded g s (fun s => ready s ns (f s)) = f s := by
  rw [guarded_on h.1, ready_of h.2]

/-! ### Frames -/

theorem OutsideKept.refl (s : State) : OutsideKept s s :=
  ⟨rfl, fun _ => rfl, rfl, rfl, rfl, rfl, rfl, rfl⟩

theorem OutsideKept.setCore (s : State) (n : Nat) (c : Core) : OutsideKept s (s.setCore n c) :=
  ⟨rfl, fun _ => rfl, rfl, rfl, rfl, rfl, rfl, rfl⟩

theorem CoreKept.setCore (s : State) (c : Core) : CoreKept s (s.setCore s.issue.core c) :=
  ⟨.setCore .., fun n h => core_setCore_other s _ n c h⟩

theorem StrandKept.modActing (s : State) (f : Strand → Strand) : StrandKept s (s.modActing f) :=
  ⟨.setCore .., by simp [act]⟩

@[simp] theorem act_modActing (s : State) (f : Strand → Strand) : act (s.modActing f) = f (act s) := by
  simp [act, State.live, State.modActing, State.modStrand]

/-! ### Registers and predicates written -/

/-- A physical register written, register 0 not. -/
theorem setPhys_written (s : State) (p : Nat) (x : Word) : RegWritten s (s.modActing fun st => st.setPhys p x) p x := by
  refine ⟨StrandKept.modActing .., rfl, ?_⟩
  rw [act_modActing]
  by_cases h : p = 0
  · simp [Strand.setPhys, h]
  · have h2 : ∀ q, q ≠ p → tget 0 (tset 0 (act s).regs p x) q = tget 0 (act s).regs q :=
      fun q hq => tget_tset_other _ _ _ _ _ hq
    simpa [Strand.setPhys, h, tget_tset_same] using h2

theorem wr_written (s : State) (rd : BitVec 6) (x : Word) : RegWritten s (s.wr rd x) (destReg s rd) x :=
  setPhys_written ..

theorem setBit64_get (x : BitVec 64) (p q : Nat) (b : Bool) :
    (setBit64 x p b).getLsbD q = if q = p ∧ q < 64 then b else x.getLsbD q := by
  unfold setBit64
  by_cases hq : q < 64
  · by_cases h : q = p
    · subst h; cases b <;> simp [hq]
    · have h2 : ¬ q - p = 0 ∨ q < p := by omega
      cases b <;> simp [hq, h] <;> omega
  · cases b <;> simp [hq, BitVec.getLsbD_of_ge _ _ (Nat.not_lt.mp hq)]

/-- A physical predicate written, predicate 0 not. -/
theorem setPredPhys_written (s : State) (p : Nat) (b : Bool) :
    PredWritten s (s.modActing fun st => st.setPredPhys p b) p b := by
  refine ⟨StrandKept.modActing .., rfl, ?_⟩
  rw [act_modActing]
  by_cases h : p = 0
  · simp [Strand.setPredPhys, h]
  · refine ⟨by simp [Strand.setPredPhys, h], fun h0 => absurd h0 h, fun _ h64 => ?_, fun q hq => ?_⟩
    · rw [Strand.setPredPhys, if_neg h, setBit64_get, if_pos ⟨rfl, h64⟩]
    · simp [Strand.setPredPhys, h, setBit64_get, hq]

theorem wrPred_written (s : State) (pd : BitVec 6) (b : Bool) : PredWritten s (s.wrPred pd b) (destPred s pd) b :=
  setPredPhys_written ..

/-! ### Trap entry -/

/-- Entry into a trap from a strand that is not in its handler and has a vector (R124). -/
theorem trapEntry_taken (s : State) (n : Nat) (k : Kind) (code : Nat) (tval epcv base : Word) (word : Nat) (post : Bool)
    (h1 : ((s.core n).strand k).mode ≠ .trapped) (h2 : ((s.core n).strand k).trapvec ≠ 0) :
    trapEntry s n k code tval epcv base word post =
      s.modStrand n k fun st =>
        { st with epc := epcv, cause := causeWord word post code, tval := tval, mode := .trapped, pc := st.trapvec,
                  joinSince := none, fetchSince := none } := by
  rw [trapEntry, trapEntryVia, if_neg h1, if_neg h2]; rfl

/-- A trap inside a handler is the double-trap fault (R125). -/
theorem trapEntry_double (s : State) (n : Nat) (k : Kind) (code : Nat) (tval epcv base : Word) (word : Nat) (post : Bool)
    (h : ((s.core n).strand k).mode = .trapped) :
    trapEntry s n k code tval epcv base word post = s.strandFault n k 4 0 epcv (BitVec.ofNat 64 code) 0 := by
  simp [trapEntry, trapEntryVia, h]

/-- A trap without a vector is the no-handler fault (R125). -/
theorem trapEntry_none (s : State) (n : Nat) (k : Kind) (code : Nat) (tval epcv base : Word) (word : Nat) (post : Bool)
    (h1 : ((s.core n).strand k).mode ≠ .trapped) (h2 : ((s.core n).strand k).trapvec = 0) :
    trapEntry s n k code tval epcv base word post = s.strandFault n k 5 0 base (BitVec.ofNat 64 code) 0 := by
  simp [trapEntry, trapEntryVia, h1, h2]

/-- What raising a trap at issue does from a strand that has a handler. -/
theorem trapAt_trapped (s : State) (code : Nat) (tval : Word) (h : HasHandler s) :
    ∃ t, trapAt s code tval = .next t ∧ Trapped s t code tval := by
  refine ⟨_, rfl, ?_⟩
  rw [trapEntry_taken s _ _ _ _ _ _ _ _ h.1 h.2]
  exact ⟨StrandKept.modActing s _, rfl, act_modActing s _⟩

theorem jump_jumped (s : State) (x : Word) : Jumped s (s.jump x) x :=
  ⟨StrandKept.modActing s fun st => { st with pc := x }, act_modActing s _, rfl⟩

end Sys2Proof
end

