-- ==== Sys2Proof/Laws/Control.lean ====
section
/-! SUPPORT. Control transfers and hardware loops: what a transfer does with a good and with a bad target, the levels of the
loop stack, the stage predicates; and what an access at issue does where its translation holds. -/

namespace Sys2Proof.Machine

open Sys2Proof

/-! ### Transfers (R80) -/

theorem transferTo_good {s : State} {x : Word} (h : pcOk x = true) (f : State → State) :
    transferTo s x f = .next ((f s).jump x) := by
  simp only [pcOk, Bool.and_eq_true] at h
  rw [transferTo, if_neg (by simpa using h.2), if_neg (by simpa using h.1)]

theorem transferTo_bad {s : State} {x : Word} {code : Nat} (hc : code = (if x.extractLsb' 0 2 ≠ 0 then 1 else 2))
    (hp : pcOk x = false) (f : State → State) : transferTo s x f = trapAt s code x := by
  rw [transferTo]
  by_cases h : x.extractLsb' 0 2 = 0
  · simp [pcOk, h] at hp
    simp [h, hp, hc]
  · rw [hc, if_pos (by simpa using h), if_pos (by simpa using h)]

/-! ### The loop stack (R82, R85) -/

theorem loop_setLoop_same (st : Strand) (d : Nat) (l : LoopLevel) : (st.setLoop d l).loop d = l := tget_tset_same ..

theorem loop_setLoop_other (st : Strand) (d m : Nat) (l : LoopLevel) (h : m ≠ d) : (st.setLoop d l).loop m = st.loop m :=
  tget_tset_other _ _ _ _ _ h

theorem loopDepth_le (st : Strand) : st.loopDepth ≤ 4 := by unfold Strand.loopDepth; split_ifs <;> omega

/-- Ending a level clears bit 63 of its end register alone. -/
theorem endBit (x : Word) (j : Nat) : (x &&& 0x7FFF_FFFF_FFFF_FFFF#64).getLsbD j = (x.getLsbD j && decide (j ≠ 63)) := by
  rw [BitVec.getLsbD_and]
  by_cases h : j < 64
  · congr 1
    exact (by decide : ∀ j : Fin 64, (0x7FFF_FFFF_FFFF_FFFF#64).getLsbD j = decide ((j:Nat) ≠ 63)) ⟨j, h⟩
  · rw [BitVec.getLsbD_of_ge _ _ (by omega)]; simp

/-- Leaving loops changes nothing of a strand but its levels. -/
theorem leaveLoops_frame (x : Word) : ∀ (n : Nat) (q st : Strand),
    { leaveLoops x n q st with loops := st.loops } = st := by
  intro n; induction n with
  | zero => intro q st; rfl
  | succ n ih =>
    intro q st
    simp only [leaveLoops]
    split
    · rfl
    · split
      · rfl
      · next d _ _ =>
        have := ih (q.endLoop d) (st.endLoop d)
        have h2 : ∀ a b : Strand, { a with loops := (b.endLoop d).loops } = b.endLoop d → {a with loops := b.loops} = b := by
          intro a b h; cases a; cases b; simp [Strand.endLoop, Strand.setLoop] at *; simp_all
        exact h2 _ _ this

theorem leaveLoops_eq (x : Word) (n : Nat) (q st : Strand) :
    leaveLoops x n q st = { st with loops := (leaveLoops x n q st).loops } := by
  have := leaveLoops_frame x n q st
  generalize leaveLoops x n q st = r at *
  cases r; cases st; simp at *; simp_all

/-! ### Stage predicates (R83, R84) -/

theorem setStage_frame (st : Strand) (n : Nat) (b : Bool) : { st.setStage n b with preds := st.preds } = st := by
  unfold Strand.setStage Strand.setPredPhys; split <;> rfl

theorem physPred_stage (st : Strand) (j : BitVec 6) (h : 48 ≤ j.toNat) :
    st.physPred j = 48 + (j.toNat - 48 + st.pbase.toNat) % 16 := by
  unfold Strand.physPred; rw [if_neg (by omega)]

theorem setStage_eq (st : Strand) (n : Nat) (b : Bool) (h : 48 ≤ n) (h2 : n < 64) :
    st.setStage n b = { st with preds := setBit64 st.preds (48 + (n - 48 + st.pbase.toNat) % 16) b } := by
  unfold Strand.setStage Strand.setPredPhys
  have e : (BitVec.ofNat 6 n).toNat = n := by simp; omega
  rw [physPred_stage _ _ (by omega), e, if_neg (by omega)]

theorem pred_setStage (st : Strand) (n : Nat) (b : Bool) (h : 48 ≤ n) (h2 : n < 64) (j : BitVec 6) :
    (st.setStage n b).pred j = if j.toNat = n then b else st.pred j := by
  rw [setStage_eq _ _ _ h h2]
  unfold Strand.pred
  by_cases hj : j = 0
  · subst hj; simp; omega
  · simp only [hj, if_false]
    have hj64 := j.isLt
    show (setBit64 st.preds _ b).getLsbD (st.physPred j) = _
    rw [setBit64_get]
    by_cases hlt : j.toNat < 48
    · have : st.physPred j = j.toNat := by unfold Strand.physPred; rw [if_pos hlt]
      rw [this, if_neg (by omega), if_neg (by omega)]
    · rw [physPred_stage _ _ (by omega)]
      by_cases he : j.toNat = n
      · rw [if_pos ⟨by rw [he], by omega⟩, if_pos he]
      · rw [if_neg (by have := st.pbase.isLt; omega), if_neg he]

theorem fold_stages (st : Strand) : ∀ n, n ≤ 16 → 
   let r := (List.range n).foldl (fun x j => x.setStage (48 + j) false) st
   { r with preds := st.preds } = st ∧
     ∀ j : BitVec 6, r.pred j = if 48 ≤ j.toNat ∧ j.toNat < 48 + n then false else st.pred j := by
  intro n; induction n with
  | zero => intro _; refine ⟨rfl, fun j => ?_⟩; rw [if_neg (by omega)]; rfl
  | succ n ih =>
    intro h
    obtain ⟨h1, h2⟩ := ih (by omega)
    simp only [List.range_succ, List.foldl_append, List.foldl_cons, List.foldl_nil]
    constructor
    · have := setStage_frame ((List.range n).foldl (fun x j => x.setStage (48 + j) false) st) (48+n) false
      generalize hr : (List.range n).foldl (fun x j => x.setStage (48 + j) false) st = r at *
      rw [setStage_eq _ _ _ (by omega) (by omega)]; exact h1
    · intro j
      rw [pred_setStage _ _ _ (by omega) (by omega), h2]
      by_cases e : j.toNat = 48 + n
      · rw [if_pos e, if_pos (by omega)]
      · rw [if_neg e]
        by_cases e2 : 48 ≤ j.toNat ∧ j.toNat < 48 + n
        · rw [if_pos e2, if_pos (by omega)]
        · rw [if_neg e2, if_neg (by omega)]

theorem setStages_spec (st : Strand) : { st.setStages with preds := st.preds } = st ∧
    ∀ j : BitVec 6, st.setStages.pred j = if j.toNat < 48 then st.pred j else j == 48 := by
  unfold Strand.setStages
  obtain ⟨h1, h2⟩ := fold_stages st 16 (by omega)
  generalize hr : (List.range 16).foldl (fun x j => x.setStage (48 + j) false) st = r at *
  constructor
  · rw [setStage_eq _ _ _ (by omega) (by omega)]; exact h1
  · intro j
    have := j.isLt
    rw [pred_setStage _ _ _ (by omega) (by omega), h2]
    by_cases h : j.toNat = 48
    · have : j = 48 := BitVec.eq_of_toNat_eq h
      subst this; rfl
    · have : (j == 48) = false := by rw [beq_eq_false_iff_ne]; intro h'; subst h'; exact h rfl
      rw [if_neg h, this]
      split <;> split <;> first | rfl | omega

/-- The stage predicates set by the names that a base selects: nothing but predicates changes. -/
theorem setStagesAt_frame (st : Strand) (b : BitVec 4) : { st.setStagesAt b with preds := st.preds } = st := by
  have := (setStages_spec { st with pbase := b }).1
  unfold Strand.setStagesAt
  generalize ({ st with pbase := b } : Strand).setStages = r at *
  cases r; cases st; simp at *; simp_all

/-! ### Accesses at issue (R153, R155) -/

theorem memReady_of {s : State} (h : MayAccess s) (x : Out) : memReady s x = x := by
  unfold MayAccess at h; simp [memReady, h]

/-- A read at issue whose pages translate and hold no uncorrectable granule. -/
theorem strandRead_reads {s : State} {va : Word} {n : Nat} {bs : List Byte} (h : ReadsAt s va n bs) (f : List Byte → Out) :
    strandRead s va n f = f bs := by
  obtain ⟨pa, leaf, bits, xs, h1, h2, h3, h4⟩ := h
  simp only [strandRead, strandTranslate]
  change translate s _ _ va.toNat .read = _ at h1
  by_cases hm : Nat.min n (0x4000 - va.toNat % 0x4000) = n
  · simp only [if_pos hm, pageRead]
    rw [h1]
    simp only
    rw [h3 hm]
    rw [hm] at h2
    simp [h2]
  · obtain ⟨pb, leaf', bits', ys, h5, h6, h7⟩ := h4 hm
    change translate s _ _ (va + _).toNat .read = _ at h5
    have hs : ∀ {x : Word} {a b c}, translate s (coreCluster s.issue.core) s.live.ctx x.toNat .read = .ok a b c →
        mapStop s x = none := by
      intro x a b c h
      simp only [translate] at h
      unfold mapStop
      split at h
      · next e => rw [e]
      · next e => rw [h]
    simp only [if_neg hm, pageRead, hs h1, hs h5, Option.or_none]
    rw [h1, h5]
    simp [h2, h6, h7]

/-- What raising a fault at issue does. -/
theorem faultAt_faulted (s : State) (code reason : Nat) (val fqw : Word) (h1 : code < 256) (h2 : reason < 256) :
    ∃ t, faultAt s code reason val fqw = .next t ∧ Faulted s t code reason val := by
  refine ⟨_, rfl, ⟨_, rfl, ?_, ?_, rfl, rfl, rfl, rfl, rfl⟩, rfl, rfl, fun n h => ?_, ?_, ?_⟩
  · exact Nat.mod_eq_of_lt h1
  · exact Nat.mod_eq_of_lt h2
  · exact core_setCore_other _ _ _ _ h
  · simp [act, State.live, State.strandFault, State.modStrand, State.postFault, State.setVerdict, State.core, State.setCore,
      tget_tput_same]
  · simp [act, State.live, State.strandFault, State.modStrand, State.postFault, State.setVerdict, State.core, State.setCore,
      tget_tput_same]

end Sys2Proof.Machine
end

