-- ==== Sys2Proof/Laws/Memory.lean ====
section
/-! SUPPORT. Memory stays in its canonical form: every operation that writes memory keeps `Inv`, from the byte store up to
the write-backs of tiles, the elements that engines write, and the releases of a strand. -/

namespace Sys2Proof.Machine

open Sys2Proof

variable {s : State}

/-! ### Operations that write no memory -/

/-- Two states with the same memory. -/
theorem inv_of_mem {t : State} (h : Inv s) (e : t.mem = s.mem) : Inv t := by rw [Inv, e]; exact h

/-- A fold of steps each of which keeps the form. -/
theorem inv_foldl {α : Type} (f : State → α → State) (hf : ∀ t x, Inv t → Inv (f t x)) (xs : List α) (h : Inv s) :
    Inv (xs.foldl f s) := by
  induction xs generalizing s with
  | nil => exact h
  | cons x xs ih => exact ih (hf _ _ h)

theorem foldl_mem {α : Type} (f : State → α → State) (hf : ∀ t x, (f t x).mem = t.mem) (xs : List α) (s : State) :
    (xs.foldl f s).mem = s.mem := by
  induction xs generalizing s with
  | nil => rfl
  | cons x xs ih => rw [List.foldl_cons, ih, hf]

@[simp] theorem modCore_mem (s : State) (n : Nat) (f : Core → Core) : (s.modCore n f).mem = s.mem := rfl
@[simp] theorem modStrand_mem (s : State) (n : Nat) (k : Kind) (f : Strand → Strand) : (s.modStrand n k f).mem = s.mem := rfl
@[simp] theorem modCluster_mem (s : State) (n : Nat) (f : Cluster → Cluster) : (s.modCluster n f).mem = s.mem := rfl
@[simp] theorem modDie_mem (s : State) (n : Nat) (f : Die → Die) : (s.modDie n f).mem = s.mem := rfl
@[simp] theorem dataFault_mem (s : State) (ctx : BitVec 12) (code die : Nat) (unit pc : Word) (pa : Nat) :
    (s.dataFault ctx code die unit pc pa).mem = s.mem := by unfold State.dataFault; split <;> rfl

@[simp] theorem trapEntry_mem (s : State) (n : Nat) (k : Kind) (code : Nat) (tval epcv base : Word) (word : Nat) (post : Bool) :
    (trapEntry s n k code tval epcv base word post).mem = s.mem := by
  simp only [trapEntry, trapEntryVia, State.strandFault]; split_ifs <;> rfl

@[simp] theorem markRead_mem (s : State) (pa n : Nat) : (markRead s pa n).mem = s.mem := by
  unfold markRead; split <;> rfl

@[simp] theorem markElem_mem (s : State) (cl : Nat) (ctx : BitVec 12) (r : Block) (idx : List (Nat × Nat)) :
    (markElem s cl ctx r idx).mem = s.mem := by
  simp only [markElem]; split_ifs <;> [rfl; (split <;> simp)]

@[simp] theorem clearCovered_mem (s : State) (cl : Nat) (ctx : BitVec 12) (r : Block) (is : List (List (Nat × Nat))) :
    (clearCovered s cl ctx r is).mem = s.mem := by simp only [clearCovered]; split <;> rfl

@[simp] theorem tileFault_mem (s : State) (ctx : BitVec 12) (unit pc base fqw : Word) (f : AccFail) :
    (tileFault s ctx unit pc base fqw f).mem = s.mem := by
  unfold tileFault; split <;> [rfl; rfl; (split <;> simp)]

@[simp] theorem setDir_mem (s : State) (e : DirEntry) : (setDir s e).mem = s.mem := by
  simp only [setDir]; split_ifs <;> rfl

@[simp] theorem setReq_mem (s : State) (id : Nat) (r : Option TileReq) : (setReq s id r).mem = s.mem := rfl

@[simp] theorem noteOld_mem (s : State) (p : Party) (pa n : Nat) : (s.noteOld p pa n).mem = s.mem := by
  unfold State.noteOld
  split
  · rfl
  · refine foldl_mem _ ?_ _ _; intro _ _; rfl

@[simp] theorem noteElems_mem (s : State) (p : Party) (cl : Nat) (ctx : BitVec 12) (r : Block) (is : List (List (Nat × Nat))) :
    (s.noteElems p cl ctx r is).mem = s.mem := by
  unfold State.noteElems
  split
  · rfl
  · exact foldl_mem _ (fun _ _ => by simp) _ _

@[simp] theorem markTile_mem (s : State) (cl : Nat) (ctx : BitVec 12) (r : Block) (o a b : Nat) :
    (markTile s cl ctx r o a b).mem = s.mem := by
  simp only [markTile]
  split_ifs
  · rfl
  · exact foldl_mem _ (fun t x => by split <;> simp) _ _

@[simp] theorem dropFilling_mem (s : State) (r : TileReq) : (dropFilling s r).mem = s.mem := by
  simp only [dropFilling]; split <;> rfl

@[simp] theorem endHint_mem (s : State) (r : TileReq) (f : AccFail) : (endHint s r f).mem = s.mem := by
  simp only [endHint, dropFilling_mem]
  split
  · rfl
  · rfl
  · split <;> simp

@[simp] theorem homeServe_mem (s : State) (r : TileReq) (e : DirEntry) : (homeServe s r e).1.mem = s.mem := by
  simp only [homeServe]
  split
  · simp
  · split
    · simp
    · split <;> simp

@[simp] theorem judgeReq_mem (s : State) (r : TileReq) (full : Bool) : (judgeReq s r full).1.mem = s.mem := by
  simp only [judgeReq]; split_ifs <;> simp

@[simp] theorem rejudge_mem (s : State) (k : TileKey) : (rejudge s k).mem = s.mem := by
  have h : ∀ xs : List TileReq, (xs.foldl (fun t r =>
      let x := judgeReq t { r with stage := .home } false
      setReq x.1 r.id x.2) s).mem = s.mem := fun xs => foldl_mem _ (fun t x => by simp) xs s
  simp only [rejudge]
  split_ifs <;> simp [h]

@[simp] theorem rejudgeHall_mem (s : State) (home hall : Nat) : (rejudgeHall s home hall).mem = s.mem :=
  foldl_mem _ (fun _ _ => rejudge_mem ..) _ _

@[simp] theorem restartFills_mem (s : State) (q : TileReq → Bool) : (restartFills s q).mem = s.mem := rfl

@[simp] theorem passRelease_mem (s : State) (n : Nat) (k : Kind) (scope : Nat) : (s.passRelease n k scope).mem = s.mem := rfl

@[simp] theorem publishTile_mem (s : State) (cl : Nat) (k : TileKey) : (publishTile s cl k).mem = s.mem := by
  simp [publishTile]

/-! ### Bytes (R344, R349) -/

theorem writeClean_inv (z : Bool) (pa : Nat) (bs : List Byte) (h : Inv s) : Inv (writeClean z s pa bs) :=
  writeBytes_wf _ _ _ h

theorem writeGranule_inv (z : Bool) (pa : Nat) (bs : List Byte) (g : Nat) (h : Inv s) : Inv (writeGranule z s pa bs g).1 := by
  simp only [writeGranule]
  split_ifs
  · exact writeClean_inv _ _ _ h
  · exact h
  · exact writeClean_inv _ _ _ h

theorem writeHome_inv (z : Bool) (pa : Nat) (bs : List Byte) (h : Inv s) : Inv (writeHome z s pa bs).1 := by
  unfold writeHome
  split
  · exact writeClean_inv _ _ _ h
  · suffices H : ∀ (gs : List Nat) (a : State × Option Nat), Inv a.1 →
        Inv (gs.foldl (fun acc g => ((writeGranule z acc.1 pa bs g).1, acc.2.or (writeGranule z acc.1 pa bs g).2)) a).1 from
      H _ (s, none) h
    intro gs
    induction gs with
    | nil => intro a h; exact h
    | cons g gs ih => intro a h; exact ih _ (writeGranule_inv _ _ _ _ h)

theorem copyGranule_inv (z : Bool) (a b : Nat) (h : Inv s) : Inv (copyGranule z s a b) := by
  simp only [copyGranule]
  split_ifs
  · exact h
  · exact h
  · exact writeHome_inv _ _ _ h

theorem copyLine_inv (z : Bool) (a b : Nat) (h : Inv s) : Inv (copyLine z s a b) :=
  inv_foldl _ (fun _ _ h => copyGranule_inv _ _ _ h) _ h

theorem copyTouched_inv (z : Bool) (a b pa n : Nat) (h : Inv s) : Inv (copyTouched z s a b pa n) :=
  inv_foldl _ (fun _ _ h => by split <;> [exact copyLine_inv _ _ _ h; exact h]) _ h

theorem mirrorWrite_inv (z : Bool) (pa : Nat) (bs : List Byte) (a : State × List PageMove) (m : PageMove) (h : Inv a.1) :
    Inv (mirrorWrite z pa bs a m).1 := by
  simp only [mirrorWrite]
  split_ifs
  · exact copyTouched_inv _ _ _ _ _ h
  · exact copyTouched_inv _ _ _ _ _ h
  · exact h
  · exact h

/-- Every write to physical memory. -/
theorem writePhys_inv (z : Bool) (pa : Nat) (bs : List Byte) (h : Inv s) : Inv (writePhys z s pa bs).1 := by
  simp only [writePhys]
  split_ifs
  · exact h
  · exact writeHome_inv _ _ _ h
  · suffices H : ∀ (ms : List PageMove) (a : State × List PageMove), Inv a.1 → Inv (ms.foldl (mirrorWrite z pa bs) a).1 from
      H _ _ (writeHome_inv _ _ _ h)
    intro ms
    induction ms with
    | nil => intro a h; exact h
    | cons m ms ih => intro a h; exact ih _ (mirrorWrite_inv _ _ _ _ _ h)

/-- Every write that enters the order of its granules. -/
theorem writeAs_inv (p : Party) (z : Bool) (pa : Nat) (bs : List Byte) (h : Inv s) : Inv (writeAs p z s pa bs).1 :=
  writePhys_inv _ _ _ (inv_of_mem h (noteOld_mem ..))

theorem sysWrite_inv (pa : Nat) (ws : List Word) (h : Inv s) : Inv (sysWrite s pa ws).1 := writePhys_inv _ _ _ h

theorem writePte_inv (ctx : BitVec 12) (va a e : Nat) (h : Inv s) : Inv (writePte s ctx va a e) := by
  have := writePhys_inv (s := s) false a (leBytes 8 e) h
  simp only [writePte]
  split
  · exact this
  · exact h

theorem outsideMem_wf (m : List Host.Cell) (h : Memory.wf m = true) : Memory.wf (outsideMem m) = true := tabWf_filter _ _ _ h

/-! ### Elements and tiles (R146, R302, R356) -/

theorem writeElem_inv {cl : Nat} {ctx : BitVec 12} {r : Block} {idx : List (Nat × Nat)} {x : Nat} {t : State} (h : Inv s)
    (e : writeElem s cl ctx r idx x = .ok t) : Inv t := by
  simp only [writeElem] at e
  split at e <;> try cases e
  split at e
  · simp at e
  · cases e; exact writePhys_inv _ _ _ h

theorem scatterFrom_inv {ast : Bool} {cl : Nat} {ctx : BitVec 12} {r : Block} {o a b : Nat} {l : Line} {xs : List (Nat × Nat)} {t : State}
    (h : Inv s) (e : scatterFrom ast cl ctx r o a b l xs s = .ok t) : Inv t := by
  induction xs generalizing s with
  | nil => cases e; exact h
  | cons x xs ih =>
    simp only [scatterFrom] at e
    split at e
    · exact ih h e
    · split at e
      · exact ih h e
      · split at e
        · simp at e
        · next h2 => exact ih (writeElem_inv h h2) e

theorem scatterTile_inv {p : Party} {ast : Bool} {cl : Nat} {ctx : BitVec 12} {r : Block} {o a b : Nat} {l : Line} {t : State} (h : Inv s)
    (e : scatterTile p ast s cl ctx r o a b l = .ok t) : Inv t :=
  scatterFrom_inv (inv_of_mem h ((clearCovered_mem ..).trans (noteElems_mem ..))) e

theorem enginePut_inv {cl : Nat} {ctx : BitVec 12} {va : Nat} {bs : List Byte} {t : State} (h : Inv s)
    (e : enginePut cl ctx va bs s = .ok t) : Inv t := by
  simp only [enginePut] at e
  split at e <;> try cases e
  split at e
  · simp at e
  · cases e; exact writePhys_inv _ _ _ h

theorem enginePutAs_inv {p : Party} {cl : Nat} {ctx : BitVec 12} {va : Nat} {bs : List Byte} {t : State} (h : Inv s)
    (e : enginePutAs p cl ctx va bs s = .ok t) : Inv t := by
  simp only [enginePutAs] at e
  split at e
  · exact enginePut_inv (inv_of_mem h (noteOld_mem ..)) e
  · exact enginePut_inv h e

theorem engineWrite_inv {own : Option Nat} {cl : Nat} {ctx : BitVec 12} {r : Block} {idx : List Nat} {x : Nat} {t : State}
    (h : Inv s) (e : engineWrite s own cl ctx r idx x = .ok t) : Inv t := by
  simp only [engineWrite] at e
  split at e
  · simp at e
  · next u hu =>
    have hu := writeElem_inv h hu
    split at e
    · cases e; exact hu
    · split at e <;> cases e <;> exact hu

theorem foldE_inv {α : Type} {f : State → α → Except AccFail State} (hf : ∀ a x b, Inv a → f a x = .ok b → Inv b)
    {xs : List α} {t : State} (h : Inv s) (e : foldE f xs s = .ok t) : Inv t := by
  induction xs generalizing s with
  | nil => cases e; exact h
  | cons x xs ih =>
    simp only [foldE] at e
    split at e
    · simp at e
    · next h2 => exact ih (hf _ _ _ h h2) e

theorem writeElems_inv {p : Party} {cl : Nat} {ctx : BitVec 12} {r : Block} {xs : List (List Nat × Nat)} {t : State} (h : Inv s)
    (e : writeElems p cl ctx r xs s = .ok t) : Inv t :=
  foldE_inv (fun _ _ _ ha e => engineWrite_inv ha e) (inv_of_mem h ((clearCovered_mem ..).trans (noteElems_mem ..))) e

/-! ### Write-backs (R354, R415) -/

theorem homeWrite_inv (cl : Nat) (l : TileLine) (h : Inv s) : Inv (homeWrite s cl l) := by
  simp only [homeWrite]
  split
  · exact h
  · split
    · exact inv_of_mem h (tileFault_mem ..)
    · next t ht =>
      have ht := scatterTile_inv h ht
      split
      · exact inv_of_mem ht ((rejudge_mem ..).trans (by split <;> simp))
      · exact ht

theorem writeBack_inv (n : Nat) (l : TileLine) (own : BitVec 8) (h : Inv s) : Inv (writeBack s n l own) := by
  simp only [writeBack]
  split
  · split
    · exact h
    · split
      · exact homeWrite_inv _ _ h
      · exact h
  · split
    · exact homeWrite_inv _ _ h
    · split
      · split
        · exact homeWrite_inv _ _ h
        · exact h
      · have h1 : ∀ v : TileLine, Inv (if v.st = .dirty then homeWrite s (coreCluster n) v else s) := by
          intro v; split
          · exact homeWrite_inv _ _ h
          · exact h
        split
        · exact homeWrite_inv _ _ (h1 _)
        · exact h1 _
      · exact homeWrite_inv _ _ h

theorem drainLine_inv (n : Nat) (l : TileLine) (keep : Bool) (h : Inv s) : Inv (drainLine s n l keep) :=
  writeBack_inv n _ _ h

/-- A publication performed, the drain before it included. -/
theorem performPub_inv (n : Nat) (p : Publication) (h : Inv s) : Inv (performPub s n p) := by
  have h1 : Inv (match lineOf (s.core n).alcove p.key with
      | none => s
      | some l => if !p.drained && l.st == LineState.draining then drainLine s n l true else s) := by
    split
    · exact h
    · split
      · exact drainLine_inv _ _ _ h
      · exact h
  unfold performPub
  extract_lets s1 s2 v s3
  have h2 : Inv s2 := inv_of_mem (s := s1) h1 rfl
  split
  · exact h2
  · exact inv_of_mem h2 ((modCore_mem ..).trans (publishTile_mem ..))

theorem performPubs_inv (n : Nat) (h : Inv s) : Inv (performPubs s n) := inv_foldl _ (fun _ _ h => performPub_inv _ _ h) _ h

theorem drainAlcove_inv (n : Nat) (p : TileLine → Bool) (h : Inv s) : Inv (drainAlcove s n p) := by
  have h1 : Inv (if (s.core n).alcove.any fun l => l.forPub && p l then performPubs s n else s) := by
    split
    · exact performPubs_inv _ h
    · exact h
  exact inv_foldl _ (fun _ _ h => drainLine_inv _ _ _ h) _ h1

theorem drainHallLine_inv (cl : Nat) (l : TileLine) (h : Inv s) : Inv (drainHallLine s cl l) := homeWrite_inv cl l h

theorem settlePubs_inv (cl : Nat) (p : TileLine → Bool) (h : Inv s) : Inv (settlePubs s cl p) :=
  inv_foldl _ (fun _ _ h => by split <;> [exact performPubs_inv _ h; exact h]) _ h

theorem drainHall_inv (cl : Nat) (p : TileLine → Bool) (h : Inv s) : Inv (drainHall s cl p) :=
  inv_foldl _ (fun _ _ h => drainHallLine_inv _ _ h) _ (settlePubs_inv _ _ h)

/-! ### Requests and fills (R136, R276) -/

theorem hallReserve_inv (r : TileReq) (pins : BitVec 16) (h : Inv s) : Inv (hallReserve s r pins).1 := by
  have h1 : ∀ v : TileLine, Inv (if v.st = .dirty then homeWrite s r.cluster v else s) := by
    intro v; split
    · exact homeWrite_inv _ _ h
    · exact h
  simp only [hallReserve]
  split
  · exact h
  · exact h1 _
  · split <;> exact h

theorem hallLookup_inv (r : TileReq) (h : Inv s) : Inv (hallLookup s r).1 := by
  have h2 : ∀ v : TileLine, Inv (if v.st = .clean then s else homeWrite s r.cluster v) := by
    intro v; split
    · exact h
    · exact homeWrite_inv _ _ h
  simp only [hallLookup]
  split
  · split <;> exact h
  · split
    · exact h
    · split
      · split
        · exact h
        · exact hallReserve_inv _ _ (inv_of_mem (h2 _) (modCluster_mem ..))
      · exact hallReserve_inv _ _ h

theorem newReq_inv (r : TileReq) (h : Inv s) : Inv (newReq s r) := by
  have := hallLookup_inv (s := s.takeId.2) { r with id := s.takeId.1, asOf := s.takeId.1 } h
  simp only [newReq]
  split <;> exact this

theorem awaitWay_mem (s : State) (r : TileReq) : (awaitWay s r).mem = s.mem := by
  simp only [awaitWay]; split <;> rfl

theorem startFill_inv (n : Nat) (k : TileKey) (r : Block) (f : FillFor) (h : Inv s) : Inv (startFill s n k r f) := by
  simp only [startFill]
  split
  · exact newReq_inv _ h
  · next v _ =>
    refine newReq_inv _ ?_
    have : Inv (if v.st = .dirty then drainLine s n v false else s) := by
      split
      · exact drainLine_inv _ _ _ h
      · exact h
    exact this
  · split
    · exact h
    · exact inv_of_mem h (awaitWay_mem ..)

theorem fillHall_inv (cl : Nat) (k : TileKey) (r : Block) (f : FillFor) (p : Option Nat) (h : Inv s) :
    Inv (fillHall s cl k r f p) := by
  unfold fillHall
  split
  · exact h
  · exact newReq_inv _ h

/-! ### Loads, stores and releases (R101, R255) -/

theorem performStore_inv (n : Nat) (t : OutStore) (h : Inv s) : Inv (performStore s n t) := by
  have h1 := writeAs_inv (s := s) (strandParty s n t.strand t.id) t.z t.pa t.bytes h
  simp only [performStore]
  split
  · exact h1
  · exact inv_of_mem h1 (dataFault_mem ..)

theorem flushStores_inv (n : Nat) (p : OutStore → Bool) (h : Inv s) : Inv (flushStores s n p) :=
  inv_foldl _ (fun _ _ h => performStore_inv _ _ h) _ h

theorem performLoad_mem (s : State) (n : Nat) (l : OutLoad) : (performLoad s n l).mem = s.mem := by
  simp only [performLoad, loadError]; split <;> simp

theorem performAtomic_inv (n : Nat) (l : OutLoad) (op : Nat) (u : Bool) (a c : Word) (h : Inv s) :
    Inv (performAtomic s n l op u a c) := by
  simp only [performAtomic, loadError]
  split
  · exact inv_of_mem h (by split <;> simp [poisonLine])
  · next bs _ =>
    let p := strandParty s n l.strand l.id
    refine inv_of_mem (s := match amoNew op (8 * l.size) u (leNat bs) a.toNat c.toNat with
      | none => s.meetWrites p l.pa l.size
      | some x => (writeAs p l.z (s.meetWrites p l.pa l.size) l.pa (leBytes l.size x)).1) ?_ (markRead_mem ..)
    split
    · exact h
    · exact writeAs_inv (s := s.meetWrites p l.pa l.size) _ _ _ _ h

theorem acquireAt_mem (s : State) (n scope : Nat) : (acquireAt s n scope).mem = s.mem := by
  simp only [acquireAt, dropHallTiles, dropCoreTiles]; split_ifs <;> rfl

theorem finishLoad_inv (n : Nat) (l : OutLoad) (h : Inv s) : Inv (finishLoad s n l) := by
  have h1 : Inv (match l.use with
      | .reg _ _ => performLoad s n l
      | .lanes => performLoad s n l
      | .atomic _ _ op u arg cmp =>
        performAtomic (flushStores s n fun x =>
          (if x.strand == l.strand then decide (x.id < l.id) else x.atCore) && rangesMeet x.pa x.bytes.length l.pa l.size)
          n l op u arg cmp) := by
    split
    · exact inv_of_mem h (performLoad_mem ..)
    · exact inv_of_mem h (performLoad_mem ..)
    · exact performAtomic_inv _ _ _ _ _ _ (flushStores_inv _ _ h)
  simp only [finishLoad]
  split
  · exact h1
  · exact inv_of_mem h1 (acquireAt_mem ..)

theorem finishLoads_inv (n : Nat) (k : Kind) (h : Inv s) : Inv (finishLoads s n k) :=
  inv_foldl _ (fun _ _ h => finishLoad_inv _ _ h) _ h

theorem tilesAt_inv (n : Nat) (k : Kind) (scope : Nat) (h : Inv s) : Inv (tilesAt s n k scope) := by
  have h1 : Inv (if k = .a then performPubs s n else s) := by
    split
    · exact performPubs_inv _ h
    · exact h
  simp only [tilesAt]
  split_ifs
  · exact h
  · exact drainAlcove_inv _ _ (by simp_all)
  · exact drainAlcove_inv _ _ (by simp_all)
  · exact drainHall_inv _ _ (drainAlcove_inv _ _ (by simp_all))
  · exact drainHall_inv _ _ (drainAlcove_inv _ _ (by simp_all))

/-- A release. -/
theorem releaseAt_inv (n : Nat) (k : Kind) (scope : Nat) (h : Inv s) : Inv (releaseAt s n k scope) := by
  have h1 := finishLoads_inv n k h
  simp only [releaseAt]
  split_ifs
  · exact h1
  · exact h1
  · exact inv_of_mem (tilesAt_inv _ _ _ (flushStores_inv _ _ h1)) (passRelease_mem ..)

/-- Memory after reset lists nothing. -/
theorem reset_mem : State.reset.mem = [] := rfl

end Sys2Proof.Machine
end

