-- ==== Sys2Proof/Laws/Cores.lean ====
section
/-! SUPPORT. What leaves the cores alone: writes to memory and the engines' accesses; what changes only tile lines of cores:
write-backs at the home and from the hall, and requests; and what of a core the write-back of its lines leaves alone. -/

namespace Sys2Proof.Machine

open Sys2Proof

variable {s : State}

theorem foldl_cores {α : Type} (f : State → α → State) (hf : ∀ t x, (f t x).cores = t.cores) (xs : List α) (s : State) :
    (xs.foldl f s).cores = s.cores := by
  induction xs generalizing s with
  | nil => rfl
  | cons x xs ih => rw [List.foldl_cons, ih, hf]

/-! ### Memory -/

@[simp] theorem writeClean_cores (z : Bool) (s : State) (pa : Nat) (bs : List Byte) :
    (writeClean z s pa bs).cores = s.cores := rfl

@[simp] theorem writeGranule_cores (z : Bool) (s : State) (pa : Nat) (bs : List Byte) (g : Nat) :
    (writeGranule z s pa bs g).1.cores = s.cores := by
  simp only [writeGranule]; split_ifs <;> rfl

@[simp] theorem writeHome_cores (z : Bool) (s : State) (pa : Nat) (bs : List Byte) :
    (writeHome z s pa bs).1.cores = s.cores := by
  unfold writeHome
  split
  · rfl
  · suffices H : ∀ (gs : List Nat) (a : State × Option Nat),
        (gs.foldl (fun acc g => ((writeGranule z acc.1 pa bs g).1, acc.2.or (writeGranule z acc.1 pa bs g).2)) a).1.cores =
          a.1.cores from H _ (s, none)
    intro gs
    induction gs with
    | nil => intro a; rfl
    | cons g gs ih => intro a; exact (ih _).trans (writeGranule_cores ..)

@[simp] theorem copyGranule_cores (z : Bool) (s : State) (a b : Nat) : (copyGranule z s a b).cores = s.cores := by
  simp only [copyGranule]; split_ifs <;> simp

@[simp] theorem copyTouched_cores (z : Bool) (s : State) (a b pa n : Nat) : (copyTouched z s a b pa n).cores = s.cores :=
  foldl_cores _ (fun _ _ => by
    split
    · exact foldl_cores _ (fun _ _ => copyGranule_cores ..) _ _
    · rfl) _ _

@[simp] theorem mirrorWrite_cores (z : Bool) (pa : Nat) (bs : List Byte) (a : State × List PageMove) (m : PageMove) :
    (mirrorWrite z pa bs a m).1.cores = a.1.cores := by
  simp only [mirrorWrite]; split_ifs <;> simp

@[simp] theorem writePhys_cores (z : Bool) (s : State) (pa : Nat) (bs : List Byte) :
    (writePhys z s pa bs).1.cores = s.cores := by
  simp only [writePhys]
  split_ifs
  · rfl
  · simp
  · suffices H : ∀ (ms : List PageMove) (a : State × List PageMove), (ms.foldl (mirrorWrite z pa bs) a).1.cores = a.1.cores
      from (H _ _).trans (writeHome_cores ..)
    intro ms
    induction ms with
    | nil => intro a; rfl
    | cons m ms ih => intro a; exact (ih _).trans (mirrorWrite_cores ..)

@[simp] theorem dataFault_cores (s : State) (ctx : BitVec 12) (code die : Nat) (unit pc : Word) (pa : Nat) :
    (s.dataFault ctx code die unit pc pa).cores = s.cores := by unfold State.dataFault; split <;> rfl

@[simp] theorem tileFault_cores (s : State) (ctx : BitVec 12) (unit pc base fqw : Word) (f : AccFail) :
    (tileFault s ctx unit pc base fqw f).cores = s.cores := by
  unfold tileFault; split <;> [rfl; rfl; (split <;> simp)]

@[simp] theorem noteOld_cores (s : State) (p : Party) (pa n : Nat) : (s.noteOld p pa n).cores = s.cores := by
  unfold State.noteOld
  split
  · rfl
  · refine foldl_cores _ ?_ _ _; intro _ _; rfl

@[simp] theorem noteElems_cores (s : State) (p : Party) (cl : Nat) (ctx : BitVec 12) (r : Block) (is : List (List (Nat × Nat))) :
    (s.noteElems p cl ctx r is).cores = s.cores := by
  unfold State.noteElems
  split
  · rfl
  · exact foldl_cores _ (fun _ _ => by simp) _ _

@[simp] theorem writeAs_cores (p : Party) (z : Bool) (s : State) (pa : Nat) (bs : List Byte) :
    (writeAs p z s pa bs).1.cores = s.cores := by simp [writeAs]

@[simp] theorem clearCovered_cores (s : State) (cl : Nat) (ctx : BitVec 12) (r : Block) (is : List (List (Nat × Nat))) :
    (clearCovered s cl ctx r is).cores = s.cores := by simp only [clearCovered]; split <;> rfl

@[simp] theorem setDir_cores (s : State) (e : DirEntry) : (setDir s e).cores = s.cores := by
  simp only [setDir]; split_ifs <;> rfl

@[simp] theorem modCluster_cores (s : State) (n : Nat) (f : Cluster → Cluster) : (s.modCluster n f).cores = s.cores := rfl
@[simp] theorem modDie_cores (s : State) (n : Nat) (f : Die → Die) : (s.modDie n f).cores = s.cores := rfl

/-! ### Engines -/

theorem writeElem_cores {cl : Nat} {ctx : BitVec 12} {r : Block} {idx : List (Nat × Nat)} {x : Nat} {t : State}
    (e : writeElem s cl ctx r idx x = .ok t) : t.cores = s.cores := by
  simp only [writeElem] at e
  split at e <;> try cases e
  split at e <;> cases e
  exact writePhys_cores ..

theorem scatterFrom_cores {ast : Bool} {cl : Nat} {ctx : BitVec 12} {r : Block} {o a b : Nat} {l : Line} {xs : List (Nat × Nat)}
    {t : State} (e : scatterFrom ast cl ctx r o a b l xs s = .ok t) : t.cores = s.cores := by
  induction xs generalizing s with
  | nil => cases e; rfl
  | cons x xs ih =>
    simp only [scatterFrom] at e
    split at e
    · exact ih e
    · split at e
      · exact ih e
      · split at e
        · cases e
        · next h => exact (ih e).trans (writeElem_cores h)

theorem scatterTile_cores {p : Party} {ast : Bool} {cl : Nat} {ctx : BitVec 12} {r : Block} {o a b : Nat} {l : Line} {t : State}
    (e : scatterTile p ast s cl ctx r o a b l = .ok t) : t.cores = s.cores :=
  (scatterFrom_cores e).trans ((clearCovered_cores ..).trans (noteElems_cores ..))

theorem enginePut_cores {cl : Nat} {ctx : BitVec 12} {va : Nat} {bs : List Byte} {t : State}
    (e : enginePut cl ctx va bs s = .ok t) : t.cores = s.cores := by
  simp only [enginePut] at e
  split at e <;> try cases e
  split at e <;> cases e
  exact writePhys_cores ..

theorem enginePutAs_cores {p : Party} {cl : Nat} {ctx : BitVec 12} {va : Nat} {bs : List Byte} {t : State}
    (e : enginePutAs p cl ctx va bs s = .ok t) : t.cores = s.cores := by
  simp only [enginePutAs] at e
  split at e
  · exact (enginePut_cores e).trans (noteOld_cores ..)
  · exact enginePut_cores e

theorem engineWrite_cores {own : Option Nat} {cl : Nat} {ctx : BitVec 12} {r : Block} {idx : List Nat} {x : Nat} {t : State}
    (e : engineWrite s own cl ctx r idx x = .ok t) : t.cores = s.cores := by
  simp only [engineWrite] at e
  split at e
  · cases e
  · next u hu =>
    have hu := writeElem_cores hu
    split at e
    · cases e; exact hu
    · split at e <;> cases e <;> exact hu

theorem foldE_cores {α : Type} {f : State → α → Except AccFail State} (hf : ∀ a x b, f a x = .ok b → b.cores = a.cores)
    {xs : List α} {t : State} (e : foldE f xs s = .ok t) : t.cores = s.cores := by
  induction xs generalizing s with
  | nil => cases e; rfl
  | cons x xs ih =>
    simp only [foldE] at e
    split at e
    · cases e
    · next h => exact (ih e).trans (hf _ _ _ h)

theorem writeElems_cores {p : Party} {cl : Nat} {ctx : BitVec 12} {r : Block} {xs : List (List Nat × Nat)} {t : State}
    (e : writeElems p cl ctx r xs s = .ok t) : t.cores = s.cores :=
  (foldE_cores (fun _ _ _ e => engineWrite_cores e) e).trans ((clearCovered_cores ..).trans (noteElems_cores ..))

/-! ### What changes only tile lines -/

theorem core_of_cores {t : State} (h : t.cores = s.cores) (n : Nat) : t.core n = s.core n := by simp [State.core, h]

/-- Nothing of the cores differs but their alcoves. -/
structure AlcovesOnly (s t : State) : Prop where
  lines : ∀ n, ∃ a, t.core n = { s.core n with alcove := a }

theorem AlcovesOnly.refl (s : State) : AlcovesOnly s s := ⟨fun _ => ⟨_, rfl⟩⟩

theorem AlcovesOnly.trans {s t u : State} (h : AlcovesOnly s t) (h2 : AlcovesOnly t u) : AlcovesOnly s u := ⟨fun n => by
  obtain ⟨a, ha⟩ := h.lines n
  obtain ⟨b, hb⟩ := h2.lines n
  exact ⟨b, by rw [hb, ha]⟩⟩

theorem AlcovesOnly.of_cores {t : State} (e : t.cores = s.cores) : AlcovesOnly s t := ⟨fun n => ⟨_, core_of_cores e n⟩⟩

theorem AlcovesOnly.then_cores {t u : State} (h : AlcovesOnly s t) (e : u.cores = t.cores) : AlcovesOnly s u :=
  h.trans (.of_cores e)

theorem AlcovesOnly.setAlcove (s : State) (n : Nat) (a : List TileLine) :
    AlcovesOnly s (s.setCore n { s.core n with alcove := a }) := ⟨fun m => by
  by_cases h : m = n
  · subst h; exact ⟨a, core_setCore_same ..⟩
  · exact ⟨_, core_setCore_other _ _ _ _ h⟩⟩

theorem AlcovesOnly.foldl {α : Type} (f : State → α → State) (hf : ∀ t x, AlcovesOnly t (f t x)) (xs : List α) (s : State) :
    AlcovesOnly s (xs.foldl f s) := by
  induction xs generalizing s with
  | nil => exact .refl ..
  | cons x xs ih => exact (hf s x).trans (ih _)

theorem dropFilling_alcoves (s : State) (r : TileReq) : AlcovesOnly s (dropFilling s r) := by
  simp only [dropFilling]
  split
  · exact .of_cores rfl
  · exact (AlcovesOnly.of_cores (modCluster_cores ..)).trans (.setAlcove ..)

@[simp] theorem markTile_cores (s : State) (cl : Nat) (ctx : BitVec 12) (r : Block) (o a b : Nat) :
    (markTile s cl ctx r o a b).cores = s.cores := by
  have h : ∀ (t : State) (i : List (Nat × Nat)), (markElem t cl ctx r i).cores = t.cores := by
    intro t i
    simp only [markElem, markRead]; split_ifs
    · rfl
    · split <;> rfl
  simp only [markTile]
  split_ifs
  · rfl
  · exact foldl_cores _ (fun t x => by split <;> simp [h]) _ _

theorem endHint_alcoves (s : State) (r : TileReq) (f : AccFail) : AlcovesOnly s (endHint s r f) := by
  refine AlcovesOnly.trans (.of_cores ?_) (dropFilling_alcoves _ r)
  split
  · rfl
  · rfl
  · split <;> simp

theorem homeServe_alcoves (s : State) (r : TileReq) (e : DirEntry) : AlcovesOnly s (homeServe s r e).1 := by
  simp only [homeServe]
  split
  · exact .of_cores (by simp)
  · split
    · exact endHint_alcoves ..
    · split <;> exact .of_cores (by simp)

theorem judgeReq_alcoves (s : State) (r : TileReq) (full : Bool) : AlcovesOnly s (judgeReq s r full).1 := by
  simp only [judgeReq]
  split_ifs
  · exact homeServe_alcoves ..
  · exact .refl ..
  · exact .of_cores (by simp)
  · exact .refl ..
  · exact homeServe_alcoves ..

theorem rejudge_alcoves (s : State) (k : TileKey) : AlcovesOnly s (rejudge s k) := by
  have h : ∀ xs : List TileReq, AlcovesOnly s (xs.foldl (fun t r =>
      let x := judgeReq t { r with stage := .home } false
      setReq x.1 r.id x.2) s) := fun xs => by
    refine .foldl _ (fun t x => ?_) xs s
    exact (judgeReq_alcoves t _ _).then_cores rfl
  simp only [rejudge]
  split_ifs
  · exact (h _).then_cores (setDir_cores ..)
  · exact h _

/-- A write-back at the home: of the cores only lines that wait for a fill which fails. -/
theorem homeWrite_alcoves (s : State) (cl : Nat) (l : TileLine) : AlcovesOnly s (homeWrite s cl l) := by
  simp only [homeWrite]
  split
  · exact .refl ..
  · split
    · exact .of_cores (tileFault_cores ..)
    · next t ht =>
      have ht : AlcovesOnly s t := .of_cores (scatterTile_cores ht)
      split
      · exact (ht.then_cores (by split <;> simp)).trans (rejudge_alcoves ..)
      · exact ht

theorem writeBack_alcoves (s : State) (n : Nat) (l : TileLine) (own : BitVec 8) : AlcovesOnly s (writeBack s n l own) := by
  have h : ∀ v : TileLine, AlcovesOnly s (if v.st = .dirty then homeWrite s (coreCluster n) v else s) := by
    intro v; split <;> [exact homeWrite_alcoves ..; exact .refl ..]
  simp only [writeBack]
  split
  · split
    · exact .refl ..
    · split
      · exact (AlcovesOnly.of_cores (modCluster_cores ..)).trans (homeWrite_alcoves ..)
      · exact .of_cores (modCluster_cores ..)
  · split
    · exact homeWrite_alcoves ..
    · split
      · split
        · exact (AlcovesOnly.of_cores (modCluster_cores ..)).trans (homeWrite_alcoves ..)
        · exact .of_cores (modCluster_cores ..)
      · split
        · exact ((h _).then_cores (modCluster_cores ..)).trans (homeWrite_alcoves ..)
        · exact (h _).then_cores (modCluster_cores ..)
      · exact homeWrite_alcoves ..

theorem hallReserve_alcoves (s : State) (r : TileReq) (pins : BitVec 16) : AlcovesOnly s (hallReserve s r pins).1 := by
  have h : ∀ v : TileLine, AlcovesOnly s (if v.st = .dirty then homeWrite s r.cluster v else s) := by
    intro v; split <;> [exact homeWrite_alcoves ..; exact .refl ..]
  simp only [hallReserve]
  split
  · exact .of_cores (modCluster_cores ..)
  · exact (h _).then_cores (modCluster_cores ..)
  · split <;> exact .refl ..

theorem hallLookup_alcoves (s : State) (r : TileReq) : AlcovesOnly s (hallLookup s r).1 := by
  have h : ∀ v : TileLine, AlcovesOnly s (if v.st = .clean then s else homeWrite s r.cluster v) := by
    intro v; split <;> [exact .refl ..; exact homeWrite_alcoves ..]
  simp only [hallLookup]
  split
  · split <;> exact .of_cores (modCluster_cores ..)
  · split
    · exact .refl ..
    · split
      · split
        · exact .refl ..
        · exact ((h _).then_cores (modCluster_cores ..)).trans (hallReserve_alcoves ..)
      · exact hallReserve_alcoves ..

theorem newReq_alcoves (s : State) (r : TileReq) : AlcovesOnly s (newReq s r) := by
  have h := (AlcovesOnly.of_cores (s := s) (t := s.takeId.2) rfl).trans
    (hallLookup_alcoves s.takeId.2 { r with id := s.takeId.1, asOf := s.takeId.1 })
  simp only [newReq]
  split
  · exact h
  · exact h.then_cores rfl

theorem fillHall_alcoves (s : State) (cl : Nat) (k : TileKey) (r : Block) (f : FillFor) (p : Option Nat) :
    AlcovesOnly s (fillHall s cl k r f p) := by
  unfold fillHall; split <;> [exact .refl ..; exact newReq_alcoves ..]

theorem drainHallLine_alcoves (s : State) (cl : Nat) (l : TileLine) : AlcovesOnly s (drainHallLine s cl l) :=
  (homeWrite_alcoves ..).then_cores (modCluster_cores ..)

theorem drainHall_alcoves (s : State) (cl : Nat) (p : TileLine → Bool) : AlcovesOnly (settlePubs s cl p) (drainHall s cl p) :=
  .foldl _ (fun _ _ => drainHallLine_alcoves ..) _ _

/-! ### The core whose lines are written back or filled -/

/-- Nothing of the cores differs but their alcoves, and of one core the publications whose lines have drained. -/
def LinesOnly (s t : State) (n : Nat) : Prop :=
  (∀ m, m ≠ n → ∃ a, t.core m = { s.core m with alcove := a }) ∧ ∃ a p, t.core n = { s.core n with alcove := a, pubs := p }

theorem LinesOnly.of_alcoves {t : State} (n : Nat) (h : AlcovesOnly s t) : LinesOnly s t n :=
  ⟨fun m _ => h.lines m, let ⟨a, ha⟩ := h.lines n; ⟨a, _, ha⟩⟩

theorem LinesOnly.refl (s : State) (n : Nat) : LinesOnly s s n := .of_alcoves n (.refl s)

theorem LinesOnly.trans {s t u : State} {n : Nat} (h : LinesOnly s t n) (h2 : LinesOnly t u n) : LinesOnly s u n := by
  obtain ⟨h1, a, p, ha⟩ := h
  obtain ⟨h3, b, q, hb⟩ := h2
  refine ⟨fun m hm => ?_, b, q, by rw [hb, ha]⟩
  obtain ⟨c, hc⟩ := h1 m hm
  obtain ⟨d, hd⟩ := h3 m hm
  exact ⟨d, by rw [hd, hc]⟩

theorem LinesOnly.setLines (s : State) (n : Nat) (a : List TileLine) (p : List Publication) :
    LinesOnly s (s.setCore n { s.core n with alcove := a, pubs := p }) n :=
  ⟨fun _ h => ⟨_, core_setCore_other _ _ _ _ h⟩, a, p, core_setCore_same ..⟩

theorem LinesOnly.setAlcove (s : State) (n : Nat) (a : List TileLine) :
    LinesOnly s (s.setCore n { s.core n with alcove := a }) n := .of_alcoves n (.setAlcove ..)

theorem LinesOnly.foldl {α : Type} (f : State → α → State) (n : Nat) (hf : ∀ t x, LinesOnly t (f t x) n) (xs : List α)
    (s : State) : LinesOnly s (xs.foldl f s) n := by
  induction xs generalizing s with
  | nil => exact .refl ..
  | cons x xs ih => exact (hf s x).trans (ih _)

theorem drainLine_lines (s : State) (n : Nat) (l : TileLine) (keep : Bool) : LinesOnly s (drainLine s n l keep) n :=
  (LinesOnly.of_alcoves n (writeBack_alcoves ..)).trans (.setLines ..)

/-- The write-back of a core's lines of which none drains for a publication. -/
theorem drainAlcove_lines (s : State) (n : Nat) (p : TileLine → Bool)
    (h : ((s.core n).alcove.any fun l => l.forPub && p l) = false) : LinesOnly s (drainAlcove s n p) n := by
  simp only [drainAlcove, h]
  exact .foldl _ _ (fun _ _ => drainLine_lines ..) _ _

theorem awaitWay_cores (s : State) (r : TileReq) : (awaitWay s r).cores = s.cores := by
  simp only [awaitWay]; split <;> rfl

theorem startFill_lines (s : State) (n : Nat) (k : TileKey) (r : Block) (f : FillFor) : LinesOnly s (startFill s n k r f) n := by
  simp only [startFill]
  split
  · exact (LinesOnly.setAlcove ..).trans (.of_alcoves n (newReq_alcoves ..))
  · next v _ =>
    have h : LinesOnly s (if v.st = .dirty then drainLine s n v false else s) n := by
      split
      · exact drainLine_lines ..
      · exact .refl ..
    exact (h.trans (.setAlcove ..)).trans (.of_alcoves n (newReq_alcoves ..))
  · split
    · exact .refl ..
    · exact .of_alcoves n (.of_cores (awaitWay_cores ..))

/-- A lookup by a core that misses. -/
theorem lookupTile_lines (s : State) (n : Nat) (k : TileKey) (r : Block) (m : Option (BitVec 8))
    (who : Option (Kind × Word × Word)) (t : State) (h : lookupTile s n k r m who = .missed t) : LinesOnly s t n := by
  simp only [lookupTile] at h
  split at h
  · cases h
  · split at h
    · cases h; exact startFill_lines ..
    · split at h
      · cases h; exact .refl ..
      · cases h; exact .refl ..
      · cases h; exact (LinesOnly.setAlcove ..).trans (startFill_lines ..)
      · cases h; exact .setAlcove ..

end Sys2Proof.Machine
end

