-- ==== Sys2Proof/Laws/Cycle.lean ====
section
/-! SUPPORT. What the passing of time leaves alone (R386): it counts, and changes neither memory nor anything of a strand but
the cycles from which its waits count (R21, R398). -/

namespace Sys2Proof.Machine

/-- A strand but for the cycles from which its waits count. -/
def untimed (st : Strand) : Strand := { st with joinSince := none, fetchSince := none }

theorem idleStrand_strand (s : State) (n d : Nat) (c : Core) (k j : Kind) :
    untimed ((idleStrand s n d c k).strand j) = untimed (c.strand j) := by
  simp only [idleStrand]
  split
  · rfl
  · cases k <;> cases j <;> rfl

theorem idleCounts_strand (s : State) (n : Nat) (d : Kind → Nat) (c : Core) (j : Kind) :
    untimed ((idleCounts s n d c).strand j) = untimed (c.strand j) := by
  suffices h : ∀ (ks : List Kind) (c : Core),
      untimed ((ks.foldl (fun c k => idleStrand s n (d k) c k) c).strand j) = untimed (c.strand j) from h _ _
  intro ks
  induction ks with
  | nil => intro c; rfl
  | cons k ks ih => intro c; exact (ih _).trans (idleStrand_strand ..)

@[simp] theorem passTime_mem (s : State) (d : Nat → Kind → Nat) : (passTime s d).mem = s.mem := rfl

@[simp] theorem openCycle_mem (s : State) (n : Nat) (ks : BitVec 4) (dt : Nat) : (openCycle s n ks dt).mem = s.mem := rfl

@[simp] theorem later_mem (s : State) (d : Nat) : (s.later d).mem = s.mem := rfl

/-- An event's time leaves memory alone, whatever its place in the cycle. -/
@[simp] theorem enter_mem (s : State) (dt : Nat) (cls : Option Nat) : (s.enter dt cls).mem = s.mem := by
  unfold State.enter
  split <;> split <;> rfl

/-- What a function of key and value leaves alone in every value reads the same in the table that it has changed. -/
theorem tget_map {α β : Type} (d : α) (f : Nat → α → α) (p : α → β) (hf : ∀ m x, p (f m x) = p x) (t : Tab α) (n : Nat) :
    p (tget d (t.map fun x => (x.1, f x.1 x.2)) n) = p (tget d t n) := by
  induction t with
  | nil => rfl
  | cons x xs ih =>
    simp only [List.map_cons, tget]
    split
    · exact hf _ _
    · exact ih

/-- No strand changes while time passes, but for the cycles from which its waits count. -/
theorem passTime_strand (s : State) (d : Nat → Kind → Nat) (n : Nat) (k : Kind) :
    untimed (((passTime s d).core n).strand k) = untimed ((s.core n).strand k) :=
  tget_map (α := Core) {} (fun m c => idleCounts s m (d m) c) (fun c => untimed (c.strand k))
    (fun m c => idleCounts_strand s m (d m) c k) s.cores n

end Sys2Proof.Machine
end

