-- ==== Sys2Proof/Laws/Dispatch.lean ====
section
/-! SUPPORT. The meaning of each instruction, so that no later proof reduces the whole dispatch. -/

namespace Sys2Proof.Machine

variable (s : State)

@[simp] theorem exec_nop (g : BitVec 6) : exec (.nop g) s = execNop g s := rfl
@[simp] theorem exec_halt (g : BitVec 6) : exec (.halt g) s = execHalt g s := rfl
@[simp] theorem exec_brk (g : BitVec 6) (code : BitVec 12) : exec (.brk g code) s = execBrk g code s := rfl
@[simp] theorem exec_trap (g : BitVec 6) (code : BitVec 12) : exec (.trap g code) s = execTrap g code s := rfl
@[simp] theorem exec_eret (g : BitVec 6) : exec (.eret g) s = execEret g s := rfl
@[simp] theorem exec_icsync (g : BitVec 6) (scope : BitVec 3) : exec (.icsync g scope) s = execIcsync g scope s := rfl
@[simp] theorem exec_fence (g : BitVec 6) (paths : BitVec 5) (scope : BitVec 3) : exec (.fence g paths scope) s = execFence g paths scope s := rfl
@[simp] theorem exec_br (g : BitVec 6) (off : BitVec 32) : exec (.br g off) s = execBr g off s := rfl
@[simp] theorem exec_call (g : BitVec 6) (rd : BitVec 6) (off : BitVec 32) : exec (.call g rd off) s = execCall g rd off s := rfl
@[simp] theorem exec_jr (g : BitVec 6) (ra : BitVec 6) : exec (.jr g ra) s = execJr g ra s := rfl
@[simp] theorem exec_callr (g : BitVec 6) (rd : BitVec 6) (ra : BitVec 6) : exec (.callr g rd ra) s = execCallr g rd ra s := rfl
@[simp] theorem exec_ret (g : BitVec 6) (ra : BitVec 6) : exec (.ret g ra) s = execRet g ra s := rfl
@[simp] theorem exec_loop (g : BitVec 6) (ra : BitVec 6) (blen : BitVec 24) : exec (.loop g ra blen) s = execLoop g ra blen s := rfl
@[simp] theorem exec_loopi (g : BitVec 6) (n : BitVec 12) (blen : BitVec 24) : exec (.loopi g n blen) s = execLoopi g n blen s := rfl
@[simp] theorem exec_loopp (g : BitVec 6) (ra : BitVec 6) (stg : BitVec 4) (blen : BitVec 24) : exec (.loopp g ra stg blen) s = execLoopp g ra stg blen s := rfl
@[simp] theorem exec_looppi (g : BitVec 6) (n : BitVec 12) (stg : BitVec 4) (blen : BitVec 24) : exec (.looppi g n stg blen) s = execLooppi g n stg blen s := rfl
@[simp] theorem exec_add (g : BitVec 6) (rd : BitVec 6) (ra : BitVec 6) (rb : BitVec 6) : exec (.add g rd ra rb) s = execAdd g rd ra rb s := rfl
@[simp] theorem exec_sub (g : BitVec 6) (rd : BitVec 6) (ra : BitVec 6) (rb : BitVec 6) : exec (.sub g rd ra rb) s = execSub g rd ra rb s := rfl
@[simp] theorem exec_mul (g : BitVec 6) (rd : BitVec 6) (ra : BitVec 6) (rb : BitVec 6) : exec (.mul g rd ra rb) s = execMul g rd ra rb s := rfl
@[simp] theorem exec_mulh (g : BitVec 6) (rd : BitVec 6) (ra : BitVec 6) (rb : BitVec 6) : exec (.mulh g rd ra rb) s = execMulh g rd ra rb s := rfl
@[simp] theorem exec_and (g : BitVec 6) (rd : BitVec 6) (ra : BitVec 6) (rb : BitVec 6) : exec (.and g rd ra rb) s = execAnd g rd ra rb s := rfl
@[simp] theorem exec_or (g : BitVec 6) (rd : BitVec 6) (ra : BitVec 6) (rb : BitVec 6) : exec (.or g rd ra rb) s = execOr g rd ra rb s := rfl
@[simp] theorem exec_xor (g : BitVec 6) (rd : BitVec 6) (ra : BitVec 6) (rb : BitVec 6) : exec (.xor g rd ra rb) s = execXor g rd ra rb s := rfl
@[simp] theorem exec_andn (g : BitVec 6) (rd : BitVec 6) (ra : BitVec 6) (rb : BitVec 6) : exec (.andn g rd ra rb) s = execAndn g rd ra rb s := rfl
@[simp] theorem exec_shl (g : BitVec 6) (rd : BitVec 6) (ra : BitVec 6) (rb : BitVec 6) : exec (.shl g rd ra rb) s = execShl g rd ra rb s := rfl
@[simp] theorem exec_shr (g : BitVec 6) (rd : BitVec 6) (ra : BitVec 6) (rb : BitVec 6) : exec (.shr g rd ra rb) s = execShr g rd ra rb s := rfl
@[simp] theorem exec_sar (g : BitVec 6) (rd : BitVec 6) (ra : BitVec 6) (rb : BitVec 6) : exec (.sar g rd ra rb) s = execSar g rd ra rb s := rfl
@[simp] theorem exec_ror (g : BitVec 6) (rd : BitVec 6) (ra : BitVec 6) (rb : BitVec 6) : exec (.ror g rd ra rb) s = execRor g rd ra rb s := rfl
@[simp] theorem exec_addi (g : BitVec 6) (rd : BitVec 6) (ra : BitVec 6) (imm : BitVec 32) : exec (.addi g rd ra imm) s = execAddi g rd ra imm s := rfl
@[simp] theorem exec_andi (g : BitVec 6) (rd : BitVec 6) (ra : BitVec 6) (imm : BitVec 32) : exec (.andi g rd ra imm) s = execAndi g rd ra imm s := rfl
@[simp] theorem exec_ori (g : BitVec 6) (rd : BitVec 6) (ra : BitVec 6) (imm : BitVec 32) : exec (.ori g rd ra imm) s = execOri g rd ra imm s := rfl
@[simp] theorem exec_xori (g : BitVec 6) (rd : BitVec 6) (ra : BitVec 6) (imm : BitVec 32) : exec (.xori g rd ra imm) s = execXori g rd ra imm s := rfl
@[simp] theorem exec_li (g : BitVec 6) (rd : BitVec 6) (imm : BitVec 32) : exec (.li g rd imm) s = execLi g rd imm s := rfl
@[simp] theorem exec_lih (g : BitVec 6) (rd : BitVec 6) (imm : BitVec 32) : exec (.lih g rd imm) s = execLih g rd imm s := rfl
@[simp] theorem exec_shli (g : BitVec 6) (rd : BitVec 6) (ra : BitVec 6) (amt : BitVec 6) : exec (.shli g rd ra amt) s = execShli g rd ra amt s := rfl
@[simp] theorem exec_shri (g : BitVec 6) (rd : BitVec 6) (ra : BitVec 6) (amt : BitVec 6) : exec (.shri g rd ra amt) s = execShri g rd ra amt s := rfl
@[simp] theorem exec_sari (g : BitVec 6) (rd : BitVec 6) (ra : BitVec 6) (amt : BitVec 6) : exec (.sari g rd ra amt) s = execSari g rd ra amt s := rfl
@[simp] theorem exec_rori (g : BitVec 6) (rd : BitVec 6) (ra : BitVec 6) (amt : BitVec 6) : exec (.rori g rd ra amt) s = execRori g rd ra amt s := rfl
@[simp] theorem exec_min (g : BitVec 6) (rd : BitVec 6) (ra : BitVec 6) (rb : BitVec 6) : exec (.min g rd ra rb) s = execMin g rd ra rb s := rfl
@[simp] theorem exec_max (g : BitVec 6) (rd : BitVec 6) (ra : BitVec 6) (rb : BitVec 6) : exec (.max g rd ra rb) s = execMax g rd ra rb s := rfl
@[simp] theorem exec_minu (g : BitVec 6) (rd : BitVec 6) (ra : BitVec 6) (rb : BitVec 6) : exec (.minu g rd ra rb) s = execMinu g rd ra rb s := rfl
@[simp] theorem exec_maxu (g : BitVec 6) (rd : BitVec 6) (ra : BitVec 6) (rb : BitVec 6) : exec (.maxu g rd ra rb) s = execMaxu g rd ra rb s := rfl
@[simp] theorem exec_div (g : BitVec 6) (rd : BitVec 6) (ra : BitVec 6) (rb : BitVec 6) : exec (.div g rd ra rb) s = execDiv g rd ra rb s := rfl
@[simp] theorem exec_divu (g : BitVec 6) (rd : BitVec 6) (ra : BitVec 6) (rb : BitVec 6) : exec (.divu g rd ra rb) s = execDivu g rd ra rb s := rfl
@[simp] theorem exec_rem (g : BitVec 6) (rd : BitVec 6) (ra : BitVec 6) (rb : BitVec 6) : exec (.rem g rd ra rb) s = execRem g rd ra rb s := rfl
@[simp] theorem exec_remu (g : BitVec 6) (rd : BitVec 6) (ra : BitVec 6) (rb : BitVec 6) : exec (.remu g rd ra rb) s = execRemu g rd ra rb s := rfl
@[simp] theorem exec_lea1 (g : BitVec 6) (rd : BitVec 6) (ra : BitVec 6) (rb : BitVec 6) : exec (.lea1 g rd ra rb) s = execLea1 g rd ra rb s := rfl
@[simp] theorem exec_lea2 (g : BitVec 6) (rd : BitVec 6) (ra : BitVec 6) (rb : BitVec 6) : exec (.lea2 g rd ra rb) s = execLea2 g rd ra rb s := rfl
@[simp] theorem exec_lea4 (g : BitVec 6) (rd : BitVec 6) (ra : BitVec 6) (rb : BitVec 6) : exec (.lea4 g rd ra rb) s = execLea4 g rd ra rb s := rfl
@[simp] theorem exec_lea8 (g : BitVec 6) (rd : BitVec 6) (ra : BitVec 6) (rb : BitVec 6) : exec (.lea8 g rd ra rb) s = execLea8 g rd ra rb s := rfl
@[simp] theorem exec_cmpeq (g : BitVec 6) (pd : BitVec 6) (ra : BitVec 6) (rb : BitVec 6) : exec (.cmpeq g pd ra rb) s = execCmpeq g pd ra rb s := rfl
@[simp] theorem exec_cmpne (g : BitVec 6) (pd : BitVec 6) (ra : BitVec 6) (rb : BitVec 6) : exec (.cmpne g pd ra rb) s = execCmpne g pd ra rb s := rfl
@[simp] theorem exec_cmplt (g : BitVec 6) (pd : BitVec 6) (ra : BitVec 6) (rb : BitVec 6) : exec (.cmplt g pd ra rb) s = execCmplt g pd ra rb s := rfl
@[simp] theorem exec_cmpltu (g : BitVec 6) (pd : BitVec 6) (ra : BitVec 6) (rb : BitVec 6) : exec (.cmpltu g pd ra rb) s = execCmpltu g pd ra rb s := rfl
@[simp] theorem exec_cmpge (g : BitVec 6) (pd : BitVec 6) (ra : BitVec 6) (rb : BitVec 6) : exec (.cmpge g pd ra rb) s = execCmpge g pd ra rb s := rfl
@[simp] theorem exec_cmpgeu (g : BitVec 6) (pd : BitVec 6) (ra : BitVec 6) (rb : BitVec 6) : exec (.cmpgeu g pd ra rb) s = execCmpgeu g pd ra rb s := rfl
@[simp] theorem exec_tst (g : BitVec 6) (pd : BitVec 6) (ra : BitVec 6) (rb : BitVec 6) : exec (.tst g pd ra rb) s = execTst g pd ra rb s := rfl
@[simp] theorem exec_cmpeqi (g : BitVec 6) (pd : BitVec 6) (ra : BitVec 6) (imm : BitVec 32) : exec (.cmpeqi g pd ra imm) s = execCmpeqi g pd ra imm s := rfl
@[simp] theorem exec_cmplti (g : BitVec 6) (pd : BitVec 6) (ra : BitVec 6) (imm : BitVec 32) : exec (.cmplti g pd ra imm) s = execCmplti g pd ra imm s := rfl
@[simp] theorem exec_cmpltui (g : BitVec 6) (pd : BitVec 6) (ra : BitVec 6) (imm : BitVec 32) : exec (.cmpltui g pd ra imm) s = execCmpltui g pd ra imm s := rfl
@[simp] theorem exec_cmpgei (g : BitVec 6) (pd : BitVec 6) (ra : BitVec 6) (imm : BitVec 32) : exec (.cmpgei g pd ra imm) s = execCmpgei g pd ra imm s := rfl
@[simp] theorem exec_pand (g : BitVec 6) (pd : BitVec 6) (pa : BitVec 6) (pb : BitVec 6) : exec (.pand g pd pa pb) s = execPand g pd pa pb s := rfl
@[simp] theorem exec_por (g : BitVec 6) (pd : BitVec 6) (pa : BitVec 6) (pb : BitVec 6) : exec (.por g pd pa pb) s = execPor g pd pa pb s := rfl
@[simp] theorem exec_pxor (g : BitVec 6) (pd : BitVec 6) (pa : BitVec 6) (pb : BitVec 6) : exec (.pxor g pd pa pb) s = execPxor g pd pa pb s := rfl
@[simp] theorem exec_pandn (g : BitVec 6) (pd : BitVec 6) (pa : BitVec 6) (pb : BitVec 6) : exec (.pandn g pd pa pb) s = execPandn g pd pa pb s := rfl
@[simp] theorem exec_pnot (g : BitVec 6) (pd : BitVec 6) (pa : BitVec 6) : exec (.pnot g pd pa) s = execPnot g pd pa s := rfl
@[simp] theorem exec_pset (g : BitVec 6) (pd : BitVec 6) : exec (.pset g pd) s = execPset g pd s := rfl
@[simp] theorem exec_pclr (g : BitVec 6) (pd : BitVec 6) : exec (.pclr g pd) s = execPclr g pd s := rfl
@[simp] theorem exec_pmov (g : BitVec 6) (pd : BitVec 6) (pa : BitVec 6) : exec (.pmov g pd pa) s = execPmov g pd pa s := rfl
@[simp] theorem exec_qmovPush (g : BitVec 6) (cmask : BitVec 4) (lane : BitVec 2) (ra : BitVec 6) : exec (.qmovPush g cmask lane ra) s = execQmovPush g cmask lane ra s := rfl
@[simp] theorem exec_qmovPop (g : BitVec 6) (rd : BitVec 6) (prod : BitVec 2) (lane : BitVec 2) : exec (.qmovPop g rd prod lane) s = execQmovPop g rd prod lane s := rfl
@[simp] theorem exec_qpeek (g : BitVec 6) (rd : BitVec 6) (prod : BitVec 2) (lane : BitVec 2) : exec (.qpeek g rd prod lane) s = execQpeek g rd prod lane s := rfl
@[simp] theorem exec_finc (g : BitVec 6) (fl : BitVec 6) (scope : BitVec 3) (ord : BitVec 2) : exec (.finc g fl scope ord) s = execFinc g fl scope ord s := rfl
@[simp] theorem exec_fset (g : BitVec 6) (fl : BitVec 6) (ra : BitVec 6) (scope : BitVec 3) (ord : BitVec 2) : exec (.fset g fl ra scope ord) s = execFset g fl ra scope ord s := rfl
@[simp] theorem exec_fadd (g : BitVec 6) (fl : BitVec 6) (ra : BitVec 6) (scope : BitVec 3) (ord : BitVec 2) : exec (.fadd g fl ra scope ord) s = execFadd g fl ra scope ord s := rfl
@[simp] theorem exec_frd (g : BitVec 6) (rd : BitVec 6) (fl : BitVec 6) (scope : BitVec 3) (ord : BitVec 2) : exec (.frd g rd fl scope ord) s = execFrd g rd fl scope ord s := rfl
@[simp] theorem exec_csrr (g : BitVec 6) (rd : BitVec 6) (csr : BitVec 12) : exec (.csrr g rd csr) s = execCsrr g rd csr s := rfl
@[simp] theorem exec_csrw (g : BitVec 6) (csr : BitVec 12) (rs : BitVec 6) : exec (.csrw g csr rs) s = execCsrw g csr rs s := rfl
@[simp] theorem exec_csrs (g : BitVec 6) (csr : BitVec 12) (rs : BitVec 6) : exec (.csrs g csr rs) s = execCsrs g csr rs s := rfl
@[simp] theorem exec_csrc (g : BitVec 6) (csr : BitVec 12) (rs : BitVec 6) : exec (.csrc g csr rs) s = execCsrc g csr rs s := rfl
@[simp] theorem exec_sext (g : BitVec 6) (rd : BitVec 6) (ra : BitVec 6) (width : BitVec 6) : exec (.sext g rd ra width) s = execSext g rd ra width s := rfl
@[simp] theorem exec_zext (g : BitVec 6) (rd : BitVec 6) (ra : BitVec 6) (width : BitVec 6) : exec (.zext g rd ra width) s = execZext g rd ra width s := rfl
@[simp] theorem exec_clz (g : BitVec 6) (rd : BitVec 6) (ra : BitVec 6) : exec (.clz g rd ra) s = execClz g rd ra s := rfl
@[simp] theorem exec_popc (g : BitVec 6) (rd : BitVec 6) (ra : BitVec 6) : exec (.popc g rd ra) s = execPopc g rd ra s := rfl
@[simp] theorem exec_ld8 (g : BitVec 6) (rd : BitVec 6) (ra : BitVec 6) (off : BitVec 32) : exec (.ld8 g rd ra off) s = execLd8 g rd ra off s := rfl
@[simp] theorem exec_ld16 (g : BitVec 6) (rd : BitVec 6) (ra : BitVec 6) (off : BitVec 32) : exec (.ld16 g rd ra off) s = execLd16 g rd ra off s := rfl
@[simp] theorem exec_ld32 (g : BitVec 6) (rd : BitVec 6) (ra : BitVec 6) (off : BitVec 32) : exec (.ld32 g rd ra off) s = execLd32 g rd ra off s := rfl
@[simp] theorem exec_ld64 (g : BitVec 6) (rd : BitVec 6) (ra : BitVec 6) (off : BitVec 32) : exec (.ld64 g rd ra off) s = execLd64 g rd ra off s := rfl
@[simp] theorem exec_ldz8 (g : BitVec 6) (rd : BitVec 6) (ra : BitVec 6) (off : BitVec 32) : exec (.ldz8 g rd ra off) s = execLdz8 g rd ra off s := rfl
@[simp] theorem exec_ldz16 (g : BitVec 6) (rd : BitVec 6) (ra : BitVec 6) (off : BitVec 32) : exec (.ldz16 g rd ra off) s = execLdz16 g rd ra off s := rfl
@[simp] theorem exec_ldz32 (g : BitVec 6) (rd : BitVec 6) (ra : BitVec 6) (off : BitVec 32) : exec (.ldz32 g rd ra off) s = execLdz32 g rd ra off s := rfl
@[simp] theorem exec_st8 (g : BitVec 6) (ra : BitVec 6) (rs : BitVec 6) (off : BitVec 32) : exec (.st8 g ra rs off) s = execSt8 g ra rs off s := rfl
@[simp] theorem exec_st16 (g : BitVec 6) (ra : BitVec 6) (rs : BitVec 6) (off : BitVec 32) : exec (.st16 g ra rs off) s = execSt16 g ra rs off s := rfl
@[simp] theorem exec_st32 (g : BitVec 6) (ra : BitVec 6) (rs : BitVec 6) (off : BitVec 32) : exec (.st32 g ra rs off) s = execSt32 g ra rs off s := rfl
@[simp] theorem exec_st64 (g : BitVec 6) (ra : BitVec 6) (rs : BitVec 6) (off : BitVec 32) : exec (.st64 g ra rs off) s = execSt64 g ra rs off s := rfl
@[simp] theorem exec_ldq8 (g : BitVec 6) (cmask : BitVec 4) (lane : BitVec 2) (ra : BitVec 6) (zx : BitVec 1) (off : BitVec 24) : exec (.ldq8 g cmask lane ra zx off) s = execLdq8 g cmask lane ra zx off s := rfl
@[simp] theorem exec_ldq16 (g : BitVec 6) (cmask : BitVec 4) (lane : BitVec 2) (ra : BitVec 6) (zx : BitVec 1) (off : BitVec 24) : exec (.ldq16 g cmask lane ra zx off) s = execLdq16 g cmask lane ra zx off s := rfl
@[simp] theorem exec_ldq32 (g : BitVec 6) (cmask : BitVec 4) (lane : BitVec 2) (ra : BitVec 6) (zx : BitVec 1) (off : BitVec 24) : exec (.ldq32 g cmask lane ra zx off) s = execLdq32 g cmask lane ra zx off s := rfl
@[simp] theorem exec_ldq64 (g : BitVec 6) (cmask : BitVec 4) (lane : BitVec 2) (ra : BitVec 6) (zx : BitVec 1) (off : BitVec 24) : exec (.ldq64 g cmask lane ra zx off) s = execLdq64 g cmask lane ra zx off s := rfl
@[simp] theorem exec_amoAdd (g : BitVec 6) (rd : BitVec 6) (ra : BitVec 6) (rb : BitVec 6) (w : BitVec 1) (scope : BitVec 3) (ord : BitVec 2) : exec (.amoAdd g rd ra rb w scope ord) s = execAmoAdd g rd ra rb w scope ord s := rfl
@[simp] theorem exec_amoSwp (g : BitVec 6) (rd : BitVec 6) (ra : BitVec 6) (rb : BitVec 6) (w : BitVec 1) (scope : BitVec 3) (ord : BitVec 2) : exec (.amoSwp g rd ra rb w scope ord) s = execAmoSwp g rd ra rb w scope ord s := rfl
@[simp] theorem exec_amoCas (g : BitVec 6) (rd : BitVec 6) (ra : BitVec 6) (rb : BitVec 6) (w : BitVec 1) (scope : BitVec 3) (ord : BitVec 2) (cmp : BitVec 6) : exec (.amoCas g rd ra rb w scope ord cmp) s = execAmoCas g rd ra rb w scope ord cmp s := rfl
@[simp] theorem exec_amoAnd (g : BitVec 6) (rd : BitVec 6) (ra : BitVec 6) (rb : BitVec 6) (w : BitVec 1) (scope : BitVec 3) (ord : BitVec 2) : exec (.amoAnd g rd ra rb w scope ord) s = execAmoAnd g rd ra rb w scope ord s := rfl
@[simp] theorem exec_amoOr (g : BitVec 6) (rd : BitVec 6) (ra : BitVec 6) (rb : BitVec 6) (w : BitVec 1) (scope : BitVec 3) (ord : BitVec 2) : exec (.amoOr g rd ra rb w scope ord) s = execAmoOr g rd ra rb w scope ord s := rfl
@[simp] theorem exec_amoXor (g : BitVec 6) (rd : BitVec 6) (ra : BitVec 6) (rb : BitVec 6) (w : BitVec 1) (scope : BitVec 3) (ord : BitVec 2) : exec (.amoXor g rd ra rb w scope ord) s = execAmoXor g rd ra rb w scope ord s := rfl
@[simp] theorem exec_amoMin (g : BitVec 6) (rd : BitVec 6) (ra : BitVec 6) (rb : BitVec 6) (w : BitVec 1) (scope : BitVec 3) (ord : BitVec 2) (u : BitVec 1) : exec (.amoMin g rd ra rb w scope ord u) s = execAmoMin g rd ra rb w scope ord u s := rfl
@[simp] theorem exec_amoMax (g : BitVec 6) (rd : BitVec 6) (ra : BitVec 6) (rb : BitVec 6) (w : BitVec 1) (scope : BitVec 3) (ord : BitVec 2) (u : BitVec 1) : exec (.amoMax g rd ra rb w scope ord u) s = execAmoMax g rd ra rb w scope ord u s := rfl
@[simp] theorem exec_rldq8 (g : BitVec 6) (cmask : BitVec 4) (lane : BitVec 2) (ra : BitVec 6) (zx : BitVec 1) (off : BitVec 24) (acq : BitVec 1) (scope : BitVec 3) : exec (.rldq8 g cmask lane ra zx off acq scope) s = execRldq8 g cmask lane ra zx off acq scope s := rfl
@[simp] theorem exec_rldq16 (g : BitVec 6) (cmask : BitVec 4) (lane : BitVec 2) (ra : BitVec 6) (zx : BitVec 1) (off : BitVec 24) (acq : BitVec 1) (scope : BitVec 3) : exec (.rldq16 g cmask lane ra zx off acq scope) s = execRldq16 g cmask lane ra zx off acq scope s := rfl
@[simp] theorem exec_rldq32 (g : BitVec 6) (cmask : BitVec 4) (lane : BitVec 2) (ra : BitVec 6) (zx : BitVec 1) (off : BitVec 24) (acq : BitVec 1) (scope : BitVec 3) : exec (.rldq32 g cmask lane ra zx off acq scope) s = execRldq32 g cmask lane ra zx off acq scope s := rfl
@[simp] theorem exec_rldq64 (g : BitVec 6) (cmask : BitVec 4) (lane : BitVec 2) (ra : BitVec 6) (zx : BitVec 1) (off : BitVec 24) (acq : BitVec 1) (scope : BitVec 3) : exec (.rldq64 g cmask lane ra zx off acq scope) s = execRldq64 g cmask lane ra zx off acq scope s := rfl
@[simp] theorem exec_laydef (g : BitVec 6) (ra : BitVec 6) : exec (.laydef g ra) s = execLaydef g ra s := rfl
@[simp] theorem exec_layinv (g : BitVec 6) (ra : BitVec 6) : exec (.layinv g ra) s = execLayinv g ra s := rfl
@[simp] theorem exec_pin (g : BitVec 6) (rd : BitVec 6) (rp : BitVec 6) (nrow : BitVec 8) (ncol : BitVec 8) (lvl : BitVec 2) : exec (.pin g rd rp nrow ncol lvl) s = execPin g rd rp nrow ncol lvl s := rfl
@[simp] theorem exec_unpin (g : BitVec 6) (rp : BitVec 6) (nrow : BitVec 8) (ncol : BitVec 8) (lvl : BitVec 2) : exec (.unpin g rp nrow ncol lvl) s = execUnpin g rp nrow ncol lvl s := rfl
@[simp] theorem exec_lastuse (g : BitVec 6) (rp : BitVec 6) (nrow : BitVec 8) (ncol : BitVec 8) (lvl : BitVec 2) : exec (.lastuse g rp nrow ncol lvl) s = execLastuse g rp nrow ncol lvl s := rfl
@[simp] theorem exec_stream (g : BitVec 6) (rp : BitVec 6) (nrow : BitVec 8) (ncol : BitVec 8) (lvl : BitVec 2) : exec (.stream g rp nrow ncol lvl) s = execStream g rp nrow ncol lvl s := rfl
@[simp] theorem exec_pfit (g : BitVec 6) (ra : BitVec 6) (cnt : BitVec 4) (ld : BitVec 4) (itin : BitVec 2) (lvl : BitVec 2) : exec (.pfit g ra cnt ld itin lvl) s = execPfit g ra cnt ld itin lvl s := rfl
@[simp] theorem exec_pfitcan (g : BitVec 6) (itin : BitVec 2) : exec (.pfitcan g itin) s = execPfitcan g itin s := rfl
@[simp] theorem exec_copy (g : BitVec 6) (tok : BitVec 3) (rs : BitVec 6) (rt : BitVec 6) (bx : BitVec 6) (fe : BitVec 1) (fl : BitVec 6) (scope : BitVec 3) (eng : BitVec 3) : exec (.copy g tok rs rt bx fe fl scope eng) s = execCopy g tok rs rt bx fe fl scope eng s := rfl
@[simp] theorem exec_copyt (g : BitVec 6) (tok : BitVec 3) (rs : BitVec 6) (rt : BitVec 6) (bx : BitVec 6) (fe : BitVec 1) (fl : BitVec 6) (scope : BitVec 3) (eng : BitVec 3) (tr : BitVec 6) : exec (.copyt g tok rs rt bx fe fl scope eng tr) s = execCopyt g tok rs rt bx fe fl scope eng tr s := rfl
@[simp] theorem exec_vrel (g : BitVec 6) (rd : BitVec 6) (rp : BitVec 6) (nrow : BitVec 8) (ncol : BitVec 8) : exec (.vrel g rd rp nrow ncol) s = execVrel g rd rp nrow ncol s := rfl
@[simp] theorem exec_promote (g : BitVec 6) (tok : BitVec 3) (ra : BitVec 6) (rb : BitVec 6) (dr : BitVec 6) (lu : BitVec 1) : exec (.promote g tok ra rb dr lu) s = execPromote g tok ra rb dr lu s := rfl
@[simp] theorem exec_kvapp (g : BitVec 6) (rd : BitVec 6) (ra : BitVec 6) (kr : BitVec 6) (vr : BitVec 6) (cnt : BitVec 8) : exec (.kvapp g rd ra kr vr cnt) s = execKvapp g rd ra kr vr cnt s := rfl
@[simp] theorem exec_selTopk (g : BitVec 6) (e : EngineWord) : exec (.selTopk g e) s = execSelTopk g e s := rfl
@[simp] theorem exec_selSeg (g : BitVec 6) (e : EngineWord) : exec (.selSeg g e) s = execSelSeg g e s := rfl
@[simp] theorem exec_unmSetup (g : BitVec 6) (e : EngineWord) : exec (.unmSetup g e) s = execUnmSetup g e s := rfl
@[simp] theorem exec_unmReg (g : BitVec 6) (e : EngineWord) : exec (.unmReg g e) s = execUnmReg g e s := rfl
@[simp] theorem exec_unmRound (g : BitVec 6) (e : EngineWord) : exec (.unmRound g e) s = execUnmRound g e s := rfl
@[simp] theorem exec_unmFree (g : BitVec 6) (e : EngineWord) : exec (.unmFree g e) s = execUnmFree g e s := rfl
@[simp] theorem exec_rteSetup (g : BitVec 6) (e : EngineWord) : exec (.rteSetup g e) s = execRteSetup g e s := rfl
@[simp] theorem exec_rteCount (g : BitVec 6) (e : EngineWord) : exec (.rteCount g e) s = execRteCount g e s := rfl
@[simp] theorem exec_rtePlace (g : BitVec 6) (e : EngineWord) : exec (.rtePlace g e) s = execRtePlace g e s := rfl
@[simp] theorem exec_rteScatter (g : BitVec 6) (e : EngineWord) : exec (.rteScatter g e) s = execRteScatter g e s := rfl
@[simp] theorem exec_rteGather (g : BitVec 6) (e : EngineWord) : exec (.rteGather g e) s = execRteGather g e s := rfl
@[simp] theorem exec_collAr (g : BitVec 6) (e : EngineWord) : exec (.collAr g e) s = execCollAr g e s := rfl
@[simp] theorem exec_collAg (g : BitVec 6) (e : EngineWord) : exec (.collAg g e) s = execCollAg g e s := rfl
@[simp] theorem exec_collRs (g : BitVec 6) (e : EngineWord) : exec (.collRs g e) s = execCollRs g e s := rfl
@[simp] theorem exec_collBc (g : BitVec 6) (e : EngineWord) : exec (.collBc g e) s = execCollBc g e s := rfl
@[simp] theorem exec_collA2a (g : BitVec 6) (e : EngineWord) : exec (.collA2a g e) s = execCollA2a g e s := rfl
@[simp] theorem exec_fencex (g : BitVec 6) (frm : BitVec 5) (dst : BitVec 5) (scope : BitVec 3) : exec (.fencex g frm dst scope) s = execFencex g frm dst scope s := rfl
@[simp] theorem exec_fpush (g : BitVec 6) (ra : BitVec 6) : exec (.fpush g ra) s = execFpush g ra s := rfl
@[simp] theorem exec_fqclose (g : BitVec 6) : exec (.fqclose g) s = execFqclose g s := rfl
@[simp] theorem exec_renq (g : BitVec 6) (ra : BitVec 6) (rb : BitVec 6) : exec (.renq g ra rb) s = execRenq g ra rb s := rfl
@[simp] theorem exec_gbar (g : BitVec 6) (fl : BitVec 6) (ra : BitVec 6) (scope : BitVec 3) : exec (.gbar g fl ra scope) s = execGbar g fl ra scope s := rfl
@[simp] theorem exec_gleave (g : BitVec 6) (ra : BitVec 6) : exec (.gleave g ra) s = execGleave g ra s := rfl
@[simp] theorem exec_gjoin (g : BitVec 6) (ra : BitVec 6) : exec (.gjoin g ra) s = execGjoin g ra s := rfl
@[simp] theorem exec_gcast (g : BitVec 6) (fl : BitVec 6) (ra : BitVec 6) (rb : BitVec 6) : exec (.gcast g fl ra rb) s = execGcast g fl ra rb s := rfl
@[simp] theorem exec_prack (g : BitVec 6) (rd : BitVec 6) (ra : BitVec 6) : exec (.prack g rd ra) s = execPrack g rd ra s := rfl
@[simp] theorem exec_hostirq (g : BitVec 6) (ra : BitVec 6) (vec : BitVec 6) : exec (.hostirq g ra vec) s = execHostirq g ra vec s := rfl
@[simp] theorem exec_cube (g : BitVec 6) (c : CubeWord) : exec (.cube g c) s = execCube g c s := rfl
@[simp] theorem exec_mma (g : BitVec 6) (c : CubeWord) : exec (.mma g c) s = execMma g c s := rfl
@[simp] theorem exec_ald (g : BitVec 6) (rr : BitVec 6) (rp : BitVec 6) (view : BitVec 3) (rm : BitVec 3) (ftz : BitVec 1) (tr : BitVec 1) (ve : BitVec 1) (minv : BitVec 8) : exec (.ald g rr rp view rm ftz tr ve minv) s = execAld g rr rp view rm ftz tr ve minv s := rfl
@[simp] theorem exec_ast (g : BitVec 6) (rr : BitVec 6) (rp : BitVec 6) (view : BitVec 3) (rm : BitVec 3) (ftz : BitVec 1) (tr : BitVec 1) (ve : BitVec 1) (minv : BitVec 8) : exec (.ast g rr rp view rm ftz tr ve minv) s = execAst g rr rp view rm ftz tr ve minv s := rfl
@[simp] theorem exec_aclr (g : BitVec 6) (rd : BitVec 6) (dv : BitVec 3) : exec (.aclr g rd dv) s = execAclr g rd dv s := rfl
@[simp] theorem exec_acvt (g : BitVec 6) (rd : BitVec 6) (ra : BitVec 6) (sv : BitVec 3) (dv : BitVec 3) (rm : BitVec 3) (ftz : BitVec 1) : exec (.acvt g rd ra sv dv rm ftz) s = execAcvt g rd ra sv dv rm ftz s := rfl
@[simp] theorem exec_acopy (g : BitVec 6) (rd : BitVec 6) (ra : BitVec 6) (dv : BitVec 3) : exec (.acopy g rd ra dv) s = execAcopy g rd ra dv s := rfl
@[simp] theorem exec_atrn (g : BitVec 6) (rd : BitVec 6) (ra : BitVec 6) (dv : BitVec 3) : exec (.atrn g rd ra dv) s = execAtrn g rd ra dv s := rfl
@[simp] theorem exec_vadd (g : BitVec 6) (w : VecWord) : exec (.vadd g w) s = execVadd g w s := rfl
@[simp] theorem exec_vsub (g : BitVec 6) (w : VecWord) : exec (.vsub g w) s = execVsub g w s := rfl
@[simp] theorem exec_vmul (g : BitVec 6) (w : VecWord) : exec (.vmul g w) s = execVmul g w s := rfl
@[simp] theorem exec_vfma (g : BitVec 6) (w : VecWord) : exec (.vfma g w) s = execVfma g w s := rfl
@[simp] theorem exec_vmin (g : BitVec 6) (w : VecWord) : exec (.vmin g w) s = execVmin g w s := rfl
@[simp] theorem exec_vmax (g : BitVec 6) (w : VecWord) : exec (.vmax g w) s = execVmax g w s := rfl
@[simp] theorem exec_vabs (g : BitVec 6) (w : VecWord) : exec (.vabs g w) s = execVabs g w s := rfl
@[simp] theorem exec_vneg (g : BitVec 6) (w : VecWord) : exec (.vneg g w) s = execVneg g w s := rfl
@[simp] theorem exec_vand (g : BitVec 6) (w : VecWord) : exec (.vand g w) s = execVand g w s := rfl
@[simp] theorem exec_vor (g : BitVec 6) (w : VecWord) : exec (.vor g w) s = execVor g w s := rfl
@[simp] theorem exec_vxor (g : BitVec 6) (w : VecWord) : exec (.vxor g w) s = execVxor g w s := rfl
@[simp] theorem exec_vnot (g : BitVec 6) (w : VecWord) : exec (.vnot g w) s = execVnot g w s := rfl
@[simp] theorem exec_vshl (g : BitVec 6) (w : VecWord) : exec (.vshl g w) s = execVshl g w s := rfl
@[simp] theorem exec_vshr (g : BitVec 6) (w : VecWord) : exec (.vshr g w) s = execVshr g w s := rfl
@[simp] theorem exec_vsar (g : BitVec 6) (w : VecWord) : exec (.vsar g w) s = execVsar g w s := rfl
@[simp] theorem exec_vcmpeq (g : BitVec 6) (w : VecWord) : exec (.vcmpeq g w) s = execVcmpeq g w s := rfl
@[simp] theorem exec_vcmplt (g : BitVec 6) (w : VecWord) : exec (.vcmplt g w) s = execVcmplt g w s := rfl
@[simp] theorem exec_vcmple (g : BitVec 6) (w : VecWord) : exec (.vcmple g w) s = execVcmple g w s := rfl
@[simp] theorem exec_vsel (g : BitVec 6) (w : VecWord) : exec (.vsel g w) s = execVsel g w s := rfl
@[simp] theorem exec_vcvt (g : BitVec 6) (w : VecWord) : exec (.vcvt g w) s = execVcvt g w s := rfl
@[simp] theorem exec_vrndi (g : BitVec 6) (w : VecWord) : exec (.vrndi g w) s = execVrndi g w s := rfl
@[simp] theorem exec_vrsum (g : BitVec 6) (w : VecWord) : exec (.vrsum g w) s = execVrsum g w s := rfl
@[simp] theorem exec_vrmax (g : BitVec 6) (w : VecWord) : exec (.vrmax g w) s = execVrmax g w s := rfl
@[simp] theorem exec_vrmin (g : BitVec 6) (w : VecWord) : exec (.vrmin g w) s = execVrmin g w s := rfl
@[simp] theorem exec_vrargmax (g : BitVec 6) (w : VecWord) : exec (.vrargmax g w) s = execVrargmax g w s := rfl
@[simp] theorem exec_vexp2 (g : BitVec 6) (w : VecWord) : exec (.vexp2 g w) s = execVexp2 g w s := rfl
@[simp] theorem exec_vlog2 (g : BitVec 6) (w : VecWord) : exec (.vlog2 g w) s = execVlog2 g w s := rfl
@[simp] theorem exec_vrcp (g : BitVec 6) (w : VecWord) : exec (.vrcp g w) s = execVrcp g w s := rfl
@[simp] theorem exec_vrsq (g : BitVec 6) (w : VecWord) : exec (.vrsq g w) s = execVrsq g w s := rfl
@[simp] theorem exec_vtanh (g : BitVec 6) (w : VecWord) : exec (.vtanh g w) s = execVtanh g w s := rfl
@[simp] theorem exec_vmov (g : BitVec 6) (w : VecWord) : exec (.vmov g w) s = execVmov g w s := rfl
@[simp] theorem exec_vperm (g : BitVec 6) (w : VecWord) : exec (.vperm g w) s = execVperm g w s := rfl
@[simp] theorem exec_vrot (g : BitVec 6) (w : VecWord) : exec (.vrot g w) s = execVrot g w s := rfl
@[simp] theorem exec_vrng (g : BitVec 6) (w : VecWord) : exec (.vrng g w) s = execVrng g w s := rfl
@[simp] theorem exec_vdistIp (g : BitVec 6) (w : VecWord) : exec (.vdistIp g w) s = execVdistIp g w s := rfl
@[simp] theorem exec_vdistL2 (g : BitVec 6) (w : VecWord) : exec (.vdistL2 g w) s = execVdistL2 g w s := rfl
@[simp] theorem exec_vdistHam (g : BitVec 6) (w : VecWord) : exec (.vdistHam g w) s = execVdistHam g w s := rfl
@[simp] theorem exec_vlmask (g : BitVec 6) (w : VecWord) : exec (.vlmask g w) s = execVlmask g w s := rfl
@[simp] theorem exec_viota (g : BitVec 6) (w : VecWord) : exec (.viota g w) s = execViota g w s := rfl
@[simp] theorem exec_vmovs (g : BitVec 6) (w : VecWord) : exec (.vmovs g w) s = execVmovs g w s := rfl
@[simp] theorem exec_vins (g : BitVec 6) (w : VecWord) : exec (.vins g w) s = execVins g w s := rfl
@[simp] theorem exec_joinMember (core : Nat) (k : Kind) : exec (.joinMember core k) s = execJoinMember core k s := rfl
@[simp] theorem exec_joinBroken (core : Nat) (k : Kind) : exec (.joinBroken core k) s = execJoinBroken core k s := rfl
@[simp] theorem exec_joinTimeout (core : Nat) (k : Kind) : exec (.joinTimeout core k) s = execJoinTimeout core k s := rfl
@[simp] theorem exec_tokenError (core : Nat) (k : Kind) : exec (.tokenError core k) s = execTokenError core k s := rfl
@[simp] theorem exec_loadReturn (core : Nat) (idx : Nat) : exec (.loadReturn core idx) s = execLoadReturn core idx s := rfl
@[simp] theorem exec_atomicResponse (core : Nat) (idx : Nat) : exec (.atomicResponse core idx) s = execAtomicResponse core idx s := rfl
@[simp] theorem exec_tileFillArrival (idx : Nat) : exec (.tileFillArrival idx) s = execTileFillArrival idx s := rfl
@[simp] theorem exec_cubePerform (core : Nat) (idx : Nat) : exec (.cubePerform core idx) s = execCubePerform core idx s := rfl
@[simp] theorem exec_aldComplete (core : Nat) (idx : Nat) : exec (.aldComplete core idx) s = execAldComplete core idx s := rfl
@[simp] theorem exec_vectorComplete (core : Nat) (idx : Nat) : exec (.vectorComplete core idx) s = execVectorComplete core idx s := rfl
@[simp] theorem exec_tileMissTimeout (core : Nat) (idx : Nat) : exec (.tileMissTimeout core idx) s = execTileMissTimeout core idx s := rfl
@[simp] theorem exec_alcoveWriteback (core : Nat) (idx : Nat) : exec (.alcoveWriteback core idx) s = execAlcoveWriteback core idx s := rfl
@[simp] theorem exec_hallFill (idx : Nat) : exec (.hallFill idx) s = execHallFill idx s := rfl
@[simp] theorem exec_hallForward (idx : Nat) : exec (.hallForward idx) s = execHallForward idx s := rfl
@[simp] theorem exec_homeRequest (idx : Nat) (full : Bool) : exec (.homeRequest idx full) s = execHomeRequest idx full s := rfl
@[simp] theorem exec_homePublication (core : Nat) (idx : Nat) : exec (.homePublication core idx) s = execHomePublication core idx s := rfl
@[simp] theorem exec_homeWriteback (cluster : Nat) (idx : Nat) : exec (.homeWriteback cluster idx) s = execHomeWriteback cluster idx s := rfl
@[simp] theorem exec_homeRaise (idx : Nat) : exec (.homeRaise idx) s = execHomeRaise idx s := rfl
@[simp] theorem exec_requestResend (idx : Nat) : exec (.requestResend idx) s = execRequestResend idx s := rfl
@[simp] theorem exec_slotSwap (stack : Nat) (slotA : Nat) (slotB : Nat) : exec (.slotSwap stack slotA slotB) s = execSlotSwap stack slotA slotB s := rfl
@[simp] theorem exec_pageWalkComplete (cluster : Nat) (ctx : Nat) (va : Nat) : exec (.pageWalkComplete cluster ctx va) s = execPageWalkComplete cluster ctx va s := rfl
@[simp] theorem exec_copytRelease (cluster : Nat) (eng : Nat) : exec (.copytRelease cluster eng) s = execCopytRelease cluster eng s := rfl
@[simp] theorem exec_copyStart (cluster : Nat) (eng : Nat) : exec (.copyStart cluster eng) s = execCopyStart cluster eng s := rfl
@[simp] theorem exec_copyComplete (cluster : Nat) (eng : Nat) (idx : Nat) : exec (.copyComplete cluster eng idx) s = execCopyComplete cluster eng idx s := rfl
@[simp] theorem exec_markerRemove (cluster : Nat) (eng : Nat) : exec (.markerRemove cluster eng) s = execMarkerRemove cluster eng s := rfl
@[simp] theorem exec_selectionPerform (cluster : Nat) : exec (.selectionPerform cluster) s = execSelectionPerform cluster s := rfl
@[simp] theorem exec_landingPerform (cluster : Nat) (slot : Nat) : exec (.landingPerform cluster slot) s = execLandingPerform cluster slot s := rfl
@[simp] theorem exec_concoursePerform (die : Nat) (sess : Nat) : exec (.concoursePerform die sess) s = execConcoursePerform die sess s := rfl
@[simp] theorem exec_countContribution (die : Nat) (msg : CountMsg) : exec (.countContribution die msg) s = execCountContribution die msg s := rfl
@[simp] theorem exec_routeTimeout (die : Nat) (sess : Nat) : exec (.routeTimeout die sess) s = execRouteTimeout die sess s := rfl
@[simp] theorem exec_collectivePerform (die : Nat) (idx : Nat) : exec (.collectivePerform die idx) s = execCollectivePerform die idx s := rfl
@[simp] theorem exec_collContribution (msg : CollMsg) : exec (.collContribution msg) s = execCollContribution msg s := rfl
@[simp] theorem exec_collectiveTimeout (die : Nat) (idx : Nat) : exec (.collectiveTimeout die idx) s = execCollectiveTimeout die idx s := rfl
@[simp] theorem exec_engineComplete (idx : Nat) : exec (.engineComplete idx) s = execEngineComplete idx s := rfl
@[simp] theorem exec_groupArrival (idx : Nat) : exec (.groupArrival idx) s = execGroupArrival idx s := rfl
@[simp] theorem exec_moduleArrival (xkey : BitVec 32) (module : PeerModule) (gen : Nat) : exec (.moduleArrival xkey module gen) s = execModuleArrival xkey module gen s := rfl
@[simp] theorem exec_remoteFlagUpdate (idx : Nat) : exec (.remoteFlagUpdate idx) s = execRemoteFlagUpdate idx s := rfl
@[simp] theorem exec_pageMigrationCopy (idx : Nat) : exec (.pageMigrationCopy idx) s = execPageMigrationCopy idx s := rfl
@[simp] theorem exec_pageMigrationSwitch (idx : Nat) : exec (.pageMigrationSwitch idx) s = execPageMigrationSwitch idx s := rfl
@[simp] theorem exec_pageReturn (idx : Nat) : exec (.pageReturn idx) s = execPageReturn idx s := rfl
@[simp] theorem exec_schedulerWalk (cluster : Nat) : exec (.schedulerWalk cluster) s = execSchedulerWalk cluster s := rfl
@[simp] theorem exec_launchTake (cluster : Nat) (queue : Nat) : exec (.launchTake cluster queue) s = execLaunchTake cluster queue s := rfl
@[simp] theorem exec_hostLaunchTake (ctx : Nat) (cluster : Nat) : exec (.hostLaunchTake ctx cluster) s = execHostLaunchTake ctx cluster s := rfl
@[simp] theorem exec_residencyTimeout (task : Nat) : exec (.residencyTimeout task) s = execResidencyTimeout task s := rfl
@[simp] theorem exec_taskStart (task : Nat) : exec (.taskStart task) s = execTaskStart task s := rfl
@[simp] theorem exec_taskRetire (task : Nat) : exec (.taskRetire task) s = execTaskRetire task s := rfl
@[simp] theorem exec_launchRetire (launch : Nat) : exec (.launchRetire launch) s = execLaunchRetire launch s := rfl
@[simp] theorem exec_preemptGraceExpiry (task : Nat) : exec (.preemptGraceExpiry task) s = execPreemptGraceExpiry task s := rfl
@[simp] theorem exec_cut (task : Nat) : exec (.cut task) s = execCut task s := rfl
@[simp] theorem exec_saveComplete (task : Nat) : exec (.saveComplete task) s = execSaveComplete task s := rfl
@[simp] theorem exec_taskResume (task : Nat) : exec (.taskResume task) s = execTaskResume task s := rfl
@[simp] theorem exec_faultRecord (idx : Nat) : exec (.faultRecord idx) s = execFaultRecord idx s := rfl
@[simp] theorem exec_contextFaultStop (ctx : Nat) : exec (.contextFaultStop ctx) s = execContextFaultStop ctx s := rfl
@[simp] theorem exec_ctxCreate (addr : Nat) : exec (.ctxCreate addr) s = execCtxCreate addr s := rfl
@[simp] theorem exec_ctxDestroy (addr : Nat) : exec (.ctxDestroy addr) s = execCtxDestroy addr s := rfl
@[simp] theorem exec_lqtailWrite (ctx : Nat) (v : BitVec 64) : exec (.lqtailWrite ctx v) s = execLqtailWrite ctx v s := rfl
@[simp] theorem exec_nqreadWrite (ctx : Nat) (v : BitVec 64) : exec (.nqreadWrite ctx v) s = execNqreadWrite ctx v s := rfl
@[simp] theorem exec_tqreadWrite (ctx : Nat) (v : BitVec 64) : exec (.tqreadWrite ctx v) s = execTqreadWrite ctx v s := rfl
@[simp] theorem exec_ctlStop (ctx : Nat) : exec (.ctlStop ctx) s = execCtlStop ctx s := rfl
@[simp] theorem exec_ctlResume (ctx : Nat) : exec (.ctlResume ctx) s = execCtlResume ctx s := rfl
@[simp] theorem exec_ctlKill (ctx : Nat) : exec (.ctlKill ctx) s = execCtlKill ctx s := rfl
@[simp] theorem exec_ctlInvalidate (ctx : Nat) : exec (.ctlInvalidate ctx) s = execCtlInvalidate ctx s := rfl
@[simp] theorem exec_debugWindowAccess (wr : Bool) (off : Nat) (v : BitVec 64) : exec (.debugWindowAccess wr off v) s = execDebugWindowAccess wr off v s := rfl
@[simp] theorem exec_hostRegisterWrite (bar : Nat) (off : Nat) (v : BitVec 64) : exec (.hostRegisterWrite bar off v) s = execHostRegisterWrite bar off v s := rfl
@[simp] theorem exec_traceSample (ctx : Nat) : exec (.traceSample ctx) s = execTraceSample ctx s := rfl
@[simp] theorem exec_clockStep (n : Nat) : exec (.clockStep n) s = execClockStep n s := rfl
@[simp] theorem exec_unitFailure (core : Nat) : exec (.unitFailure core) s = execUnitFailure core s := rfl
@[simp] theorem exec_thermalTrip (die : Nat) (temp : Nat) : exec (.thermalTrip die temp) s = execThermalTrip die temp s := rfl
@[simp] theorem exec_moduleReset (warm : Bool) : exec (.moduleReset warm) s = execModuleReset warm s := rfl
@[simp] theorem exec_blackboxRearm : exec .blackboxRearm s = execBlackboxRearm s := rfl
@[simp] theorem exec_firmwareUpdate (edOk : Bool) (mlOk : Bool) (rollback : Nat) (version : BitVec 32) : exec (.firmwareUpdate edOk mlOk rollback version) s = execFirmwareUpdate edOk mlOk rollback version s := rfl
@[simp] theorem exec_attestationReport (nonce : BitVec 256) : exec (.attestationReport nonce) s = execAttestationReport nonce s := rfl
@[simp] theorem exec_domainConfig (size : Nat) (number : Nat) (others : List Nat) : exec (.domainConfig size number others) s = execDomainConfig size number others s := rfl
@[simp] theorem exec_hbmRetrain (stack : Nat) : exec (.hbmRetrain stack) s = execHbmRetrain stack s := rfl
@[simp] theorem exec_retrainRequest (stack : Nat) : exec (.retrainRequest stack) s = execRetrainRequest stack s := rfl
@[simp] theorem exec_flitReceive (die : Nat) (port : Nat) (flit : FlitMsg) : exec (.flitReceive die port flit) s = execFlitReceive die port flit s := rfl
@[simp] theorem exec_laneFecWindow (die : Nat) (port : Nat) : exec (.laneFecWindow die port) s = execLaneFecWindow die port s := rfl
@[simp] theorem exec_laneLockLoss (die : Nat) (port : Nat) (lane : Nat) : exec (.laneLockLoss die port lane) s = execLaneLockLoss die port lane s := rfl
@[simp] theorem exec_linkRetrainDone (die : Nat) (port : Nat) (lost : List Nat) : exec (.linkRetrainDone die port lost) s = execLinkRetrainDone die port lost s := rfl
@[simp] theorem exec_fabricTimeout (core : Nat) (idx : Nat) : exec (.fabricTimeout core idx) s = execFabricTimeout core idx s := rfl
@[simp] theorem exec_instructionFetch (core : Nat) (k : Kind) (va : Nat) : exec (.instructionFetch core k va) s = execInstructionFetch core k va s := rfl
@[simp] theorem exec_writeAcknowledgement (core : Nat) (idx : Nat) : exec (.writeAcknowledgement core idx) s = execWriteAcknowledgement core idx s := rfl
@[simp] theorem exec_regionInstructionComplete (core : Nat) (idx : Nat) : exec (.regionInstructionComplete core idx) s = execRegionInstructionComplete core idx s := rfl
@[simp] theorem exec_stackRetrainingDone (stack : Nat) : exec (.stackRetrainingDone stack) s = execStackRetrainingDone stack s := rfl

end Sys2Proof.Machine
end

