-- ==== Sys2Proof/Laws/PerInstr.lean ====
section
/-! SUPPORT. Statements made for every instruction, one lemma per constructor. RoundTrip: in every map in which an
instruction stands, its encoded words have the length of its format and decode to the instruction itself. -/

namespace Sys2Proof.Laws

set_option Elab.async false

/-- What the decoder reads from an instruction's own words (R28 to R38). -/
def RoundTrip.Statement (i : Instr) : Prop :=
  ∀ k ∈ i.kinds,
    match encode i with
    | [w] => isTwoWord k (fOp w).toNat = false ∧ decodePair k w 0 = some i
    | [w, v] => isTwoWord k (fOp w).toNat = true ∧ decodePair k w v = some i
    | _ => False

theorem roundTrip_one {k : Kind} {i : Instr} (hk : i.kinds = [k])
    (h : match encode i with
      | [w] => isTwoWord k (fOp w).toNat = false ∧ decodePair k w 0 = some i
      | [w, v] => isTwoWord k (fOp w).toNat = true ∧ decodePair k w v = some i
      | _ => False) : RoundTrip.Statement i := by
  intro j hj
  rw [hk, List.mem_singleton] at hj
  exact hj ▸ h

theorem RoundTrip.nop (g : BitVec 6) : RoundTrip.Statement (.nop g) := by
  intro k _
  simp (disch := omega) [-Nat.reduceAdd, encode, isTwoWord, decodePair, decodeShared, fOp, fGuard, fFn, extract_high, extract_low]

theorem RoundTrip.halt (g : BitVec 6) : RoundTrip.Statement (.halt g) := by
  intro k _
  simp (disch := omega) [-Nat.reduceAdd, encode, isTwoWord, decodePair, decodeShared, fOp, fGuard, fFn, extract_high, extract_low]

theorem RoundTrip.brk (g : BitVec 6) (code : BitVec 12) : RoundTrip.Statement (.brk g code) := by
  intro k _
  simp (disch := omega) [-Nat.reduceAdd, encode, isTwoWord, decodePair, decodeShared, fOp, fGuard, fFn, extract_high, extract_low]

theorem RoundTrip.trap (g : BitVec 6) (code : BitVec 12) : RoundTrip.Statement (.trap g code) := by
  intro k _
  simp (disch := omega) [-Nat.reduceAdd, encode, isTwoWord, decodePair, decodeShared, fOp, fGuard, fFn, extract_high, extract_low]

theorem RoundTrip.eret (g : BitVec 6) : RoundTrip.Statement (.eret g) := by
  intro k _
  simp (disch := omega) [-Nat.reduceAdd, encode, isTwoWord, decodePair, decodeShared, fOp, fGuard, fFn, extract_high, extract_low]

theorem RoundTrip.icsync (g : BitVec 6) (scope : BitVec 3) : RoundTrip.Statement (.icsync g scope) := by
  intro k _
  simp (disch := omega) [-Nat.reduceAdd, encode, isTwoWord, decodePair, decodeShared, fOp, fGuard, fFn, extract_high, extract_low]

theorem RoundTrip.fence (g : BitVec 6) (paths : BitVec 5) (scope : BitVec 3) : RoundTrip.Statement (.fence g paths scope) := by
  intro k _
  simp (disch := omega) [-Nat.reduceAdd, encode, isTwoWord, decodePair, decodeShared, fOp, fGuard, fFn, extract_high, extract_low]

theorem RoundTrip.br (g : BitVec 6) (off : BitVec 32) : RoundTrip.Statement (.br g off) := by
  intro k _
  simp (disch := omega) [-Nat.reduceAdd, encode, isTwoWord, decodePair, decodeShared, fOp, fGuard, fFn, extract_high, extract_low]

theorem RoundTrip.call (g : BitVec 6) (rd : BitVec 6) (off : BitVec 32) : RoundTrip.Statement (.call g rd off) := by
  intro k _
  simp (disch := omega) [-Nat.reduceAdd, encode, isTwoWord, decodePair, decodeShared, fOp, fGuard, fFn, extract_high, extract_low]

theorem RoundTrip.jr (g : BitVec 6) (ra : BitVec 6) : RoundTrip.Statement (.jr g ra) := by
  intro k _
  simp (disch := omega) [-Nat.reduceAdd, encode, isTwoWord, decodePair, decodeShared, fOp, fGuard, fFn, extract_high, extract_low]

theorem RoundTrip.callr (g : BitVec 6) (rd : BitVec 6) (ra : BitVec 6) : RoundTrip.Statement (.callr g rd ra) := by
  intro k _
  simp (disch := omega) [-Nat.reduceAdd, encode, isTwoWord, decodePair, decodeShared, fOp, fGuard, fFn, extract_high, extract_low]

theorem RoundTrip.ret (g : BitVec 6) (ra : BitVec 6) : RoundTrip.Statement (.ret g ra) := by
  intro k _
  simp (disch := omega) [-Nat.reduceAdd, encode, isTwoWord, decodePair, decodeShared, fOp, fGuard, fFn, extract_high, extract_low]

theorem RoundTrip.loop (g : BitVec 6) (ra : BitVec 6) (blen : BitVec 24) : RoundTrip.Statement (.loop g ra blen) := by
  intro k _
  simp (disch := omega) [-Nat.reduceAdd, encode, isTwoWord, decodePair, decodeShared, fOp, fGuard, fFn, extract_high, extract_low]

theorem RoundTrip.loopi (g : BitVec 6) (n : BitVec 12) (blen : BitVec 24) : RoundTrip.Statement (.loopi g n blen) := by
  intro k _
  simp (disch := omega) [-Nat.reduceAdd, encode, isTwoWord, decodePair, decodeShared, fOp, fGuard, fFn, extract_high, extract_low]

theorem RoundTrip.loopp (g : BitVec 6) (ra : BitVec 6) (stg : BitVec 4) (blen : BitVec 24) : RoundTrip.Statement (.loopp g ra stg blen) := by
  intro k _
  simp (disch := omega) [-Nat.reduceAdd, encode, isTwoWord, decodePair, decodeShared, fOp, fGuard, fFn, extract_high, extract_low]

theorem RoundTrip.looppi (g : BitVec 6) (n : BitVec 12) (stg : BitVec 4) (blen : BitVec 24) : RoundTrip.Statement (.looppi g n stg blen) := by
  intro k _
  simp (disch := omega) [-Nat.reduceAdd, encode, isTwoWord, decodePair, decodeShared, fOp, fGuard, fFn, extract_high, extract_low]

theorem RoundTrip.add (g : BitVec 6) (rd : BitVec 6) (ra : BitVec 6) (rb : BitVec 6) : RoundTrip.Statement (.add g rd ra rb) := by
  intro k _
  simp (disch := omega) [-Nat.reduceAdd, encode, isTwoWord, decodePair, decodeShared, fOp, fGuard, fFn, extract_high, extract_low]

theorem RoundTrip.sub (g : BitVec 6) (rd : BitVec 6) (ra : BitVec 6) (rb : BitVec 6) : RoundTrip.Statement (.sub g rd ra rb) := by
  intro k _
  simp (disch := omega) [-Nat.reduceAdd, encode, isTwoWord, decodePair, decodeShared, fOp, fGuard, fFn, extract_high, extract_low]

theorem RoundTrip.mul (g : BitVec 6) (rd : BitVec 6) (ra : BitVec 6) (rb : BitVec 6) : RoundTrip.Statement (.mul g rd ra rb) := by
  intro k _
  simp (disch := omega) [-Nat.reduceAdd, encode, isTwoWord, decodePair, decodeShared, fOp, fGuard, fFn, extract_high, extract_low]

theorem RoundTrip.mulh (g : BitVec 6) (rd : BitVec 6) (ra : BitVec 6) (rb : BitVec 6) : RoundTrip.Statement (.mulh g rd ra rb) := by
  intro k _
  simp (disch := omega) [-Nat.reduceAdd, encode, isTwoWord, decodePair, decodeShared, fOp, fGuard, fFn, extract_high, extract_low]

theorem RoundTrip.and (g : BitVec 6) (rd : BitVec 6) (ra : BitVec 6) (rb : BitVec 6) : RoundTrip.Statement (.and g rd ra rb) := by
  intro k _
  simp (disch := omega) [-Nat.reduceAdd, encode, isTwoWord, decodePair, decodeShared, fOp, fGuard, fFn, extract_high, extract_low]

theorem RoundTrip.or (g : BitVec 6) (rd : BitVec 6) (ra : BitVec 6) (rb : BitVec 6) : RoundTrip.Statement (.or g rd ra rb) := by
  intro k _
  simp (disch := omega) [-Nat.reduceAdd, encode, isTwoWord, decodePair, decodeShared, fOp, fGuard, fFn, extract_high, extract_low]

theorem RoundTrip.xor (g : BitVec 6) (rd : BitVec 6) (ra : BitVec 6) (rb : BitVec 6) : RoundTrip.Statement (.xor g rd ra rb) := by
  intro k _
  simp (disch := omega) [-Nat.reduceAdd, encode, isTwoWord, decodePair, decodeShared, fOp, fGuard, fFn, extract_high, extract_low]

theorem RoundTrip.andn (g : BitVec 6) (rd : BitVec 6) (ra : BitVec 6) (rb : BitVec 6) : RoundTrip.Statement (.andn g rd ra rb) := by
  intro k _
  simp (disch := omega) [-Nat.reduceAdd, encode, isTwoWord, decodePair, decodeShared, fOp, fGuard, fFn, extract_high, extract_low]

theorem RoundTrip.shl (g : BitVec 6) (rd : BitVec 6) (ra : BitVec 6) (rb : BitVec 6) : RoundTrip.Statement (.shl g rd ra rb) := by
  intro k _
  simp (disch := omega) [-Nat.reduceAdd, encode, isTwoWord, decodePair, decodeShared, fOp, fGuard, fFn, extract_high, extract_low]

theorem RoundTrip.shr (g : BitVec 6) (rd : BitVec 6) (ra : BitVec 6) (rb : BitVec 6) : RoundTrip.Statement (.shr g rd ra rb) := by
  intro k _
  simp (disch := omega) [-Nat.reduceAdd, encode, isTwoWord, decodePair, decodeShared, fOp, fGuard, fFn, extract_high, extract_low]

theorem RoundTrip.sar (g : BitVec 6) (rd : BitVec 6) (ra : BitVec 6) (rb : BitVec 6) : RoundTrip.Statement (.sar g rd ra rb) := by
  intro k _
  simp (disch := omega) [-Nat.reduceAdd, encode, isTwoWord, decodePair, decodeShared, fOp, fGuard, fFn, extract_high, extract_low]

theorem RoundTrip.ror (g : BitVec 6) (rd : BitVec 6) (ra : BitVec 6) (rb : BitVec 6) : RoundTrip.Statement (.ror g rd ra rb) := by
  intro k _
  simp (disch := omega) [-Nat.reduceAdd, encode, isTwoWord, decodePair, decodeShared, fOp, fGuard, fFn, extract_high, extract_low]

theorem RoundTrip.addi (g : BitVec 6) (rd : BitVec 6) (ra : BitVec 6) (imm : BitVec 32) : RoundTrip.Statement (.addi g rd ra imm) := by
  intro k _
  simp (disch := omega) [-Nat.reduceAdd, encode, isTwoWord, decodePair, decodeShared, fOp, fGuard, fFn, extract_high, extract_low]

theorem RoundTrip.andi (g : BitVec 6) (rd : BitVec 6) (ra : BitVec 6) (imm : BitVec 32) : RoundTrip.Statement (.andi g rd ra imm) := by
  intro k _
  simp (disch := omega) [-Nat.reduceAdd, encode, isTwoWord, decodePair, decodeShared, fOp, fGuard, fFn, extract_high, extract_low]

theorem RoundTrip.ori (g : BitVec 6) (rd : BitVec 6) (ra : BitVec 6) (imm : BitVec 32) : RoundTrip.Statement (.ori g rd ra imm) := by
  intro k _
  simp (disch := omega) [-Nat.reduceAdd, encode, isTwoWord, decodePair, decodeShared, fOp, fGuard, fFn, extract_high, extract_low]

theorem RoundTrip.xori (g : BitVec 6) (rd : BitVec 6) (ra : BitVec 6) (imm : BitVec 32) : RoundTrip.Statement (.xori g rd ra imm) := by
  intro k _
  simp (disch := omega) [-Nat.reduceAdd, encode, isTwoWord, decodePair, decodeShared, fOp, fGuard, fFn, extract_high, extract_low]

theorem RoundTrip.li (g : BitVec 6) (rd : BitVec 6) (imm : BitVec 32) : RoundTrip.Statement (.li g rd imm) := by
  intro k _
  simp (disch := omega) [-Nat.reduceAdd, encode, isTwoWord, decodePair, decodeShared, fOp, fGuard, fFn, extract_high, extract_low]

theorem RoundTrip.lih (g : BitVec 6) (rd : BitVec 6) (imm : BitVec 32) : RoundTrip.Statement (.lih g rd imm) := by
  intro k _
  simp (disch := omega) [-Nat.reduceAdd, encode, isTwoWord, decodePair, decodeShared, fOp, fGuard, fFn, extract_high, extract_low]

theorem RoundTrip.shli (g : BitVec 6) (rd : BitVec 6) (ra : BitVec 6) (amt : BitVec 6) : RoundTrip.Statement (.shli g rd ra amt) := by
  intro k _
  simp (disch := omega) [-Nat.reduceAdd, encode, isTwoWord, decodePair, decodeShared, fOp, fGuard, fFn, extract_high, extract_low]

theorem RoundTrip.shri (g : BitVec 6) (rd : BitVec 6) (ra : BitVec 6) (amt : BitVec 6) : RoundTrip.Statement (.shri g rd ra amt) := by
  intro k _
  simp (disch := omega) [-Nat.reduceAdd, encode, isTwoWord, decodePair, decodeShared, fOp, fGuard, fFn, extract_high, extract_low]

theorem RoundTrip.sari (g : BitVec 6) (rd : BitVec 6) (ra : BitVec 6) (amt : BitVec 6) : RoundTrip.Statement (.sari g rd ra amt) := by
  intro k _
  simp (disch := omega) [-Nat.reduceAdd, encode, isTwoWord, decodePair, decodeShared, fOp, fGuard, fFn, extract_high, extract_low]

theorem RoundTrip.rori (g : BitVec 6) (rd : BitVec 6) (ra : BitVec 6) (amt : BitVec 6) : RoundTrip.Statement (.rori g rd ra amt) := by
  intro k _
  simp (disch := omega) [-Nat.reduceAdd, encode, isTwoWord, decodePair, decodeShared, fOp, fGuard, fFn, extract_high, extract_low]

theorem RoundTrip.min (g : BitVec 6) (rd : BitVec 6) (ra : BitVec 6) (rb : BitVec 6) : RoundTrip.Statement (.min g rd ra rb) := by
  intro k _
  simp (disch := omega) [-Nat.reduceAdd, encode, isTwoWord, decodePair, decodeShared, fOp, fGuard, fFn, extract_high, extract_low]

theorem RoundTrip.max (g : BitVec 6) (rd : BitVec 6) (ra : BitVec 6) (rb : BitVec 6) : RoundTrip.Statement (.max g rd ra rb) := by
  intro k _
  simp (disch := omega) [-Nat.reduceAdd, encode, isTwoWord, decodePair, decodeShared, fOp, fGuard, fFn, extract_high, extract_low]

theorem RoundTrip.minu (g : BitVec 6) (rd : BitVec 6) (ra : BitVec 6) (rb : BitVec 6) : RoundTrip.Statement (.minu g rd ra rb) := by
  intro k _
  simp (disch := omega) [-Nat.reduceAdd, encode, isTwoWord, decodePair, decodeShared, fOp, fGuard, fFn, extract_high, extract_low]

theorem RoundTrip.maxu (g : BitVec 6) (rd : BitVec 6) (ra : BitVec 6) (rb : BitVec 6) : RoundTrip.Statement (.maxu g rd ra rb) := by
  intro k _
  simp (disch := omega) [-Nat.reduceAdd, encode, isTwoWord, decodePair, decodeShared, fOp, fGuard, fFn, extract_high, extract_low]

theorem RoundTrip.div (g : BitVec 6) (rd : BitVec 6) (ra : BitVec 6) (rb : BitVec 6) : RoundTrip.Statement (.div g rd ra rb) := by
  intro k _
  simp (disch := omega) [-Nat.reduceAdd, encode, isTwoWord, decodePair, decodeShared, fOp, fGuard, fFn, extract_high, extract_low]

theorem RoundTrip.divu (g : BitVec 6) (rd : BitVec 6) (ra : BitVec 6) (rb : BitVec 6) : RoundTrip.Statement (.divu g rd ra rb) := by
  intro k _
  simp (disch := omega) [-Nat.reduceAdd, encode, isTwoWord, decodePair, decodeShared, fOp, fGuard, fFn, extract_high, extract_low]

theorem RoundTrip.rem (g : BitVec 6) (rd : BitVec 6) (ra : BitVec 6) (rb : BitVec 6) : RoundTrip.Statement (.rem g rd ra rb) := by
  intro k _
  simp (disch := omega) [-Nat.reduceAdd, encode, isTwoWord, decodePair, decodeShared, fOp, fGuard, fFn, extract_high, extract_low]

theorem RoundTrip.remu (g : BitVec 6) (rd : BitVec 6) (ra : BitVec 6) (rb : BitVec 6) : RoundTrip.Statement (.remu g rd ra rb) := by
  intro k _
  simp (disch := omega) [-Nat.reduceAdd, encode, isTwoWord, decodePair, decodeShared, fOp, fGuard, fFn, extract_high, extract_low]

theorem RoundTrip.lea1 (g : BitVec 6) (rd : BitVec 6) (ra : BitVec 6) (rb : BitVec 6) : RoundTrip.Statement (.lea1 g rd ra rb) := by
  intro k _
  simp (disch := omega) [-Nat.reduceAdd, encode, isTwoWord, decodePair, decodeShared, fOp, fGuard, fFn, extract_high, extract_low]

theorem RoundTrip.lea2 (g : BitVec 6) (rd : BitVec 6) (ra : BitVec 6) (rb : BitVec 6) : RoundTrip.Statement (.lea2 g rd ra rb) := by
  intro k _
  simp (disch := omega) [-Nat.reduceAdd, encode, isTwoWord, decodePair, decodeShared, fOp, fGuard, fFn, extract_high, extract_low]

theorem RoundTrip.lea4 (g : BitVec 6) (rd : BitVec 6) (ra : BitVec 6) (rb : BitVec 6) : RoundTrip.Statement (.lea4 g rd ra rb) := by
  intro k _
  simp (disch := omega) [-Nat.reduceAdd, encode, isTwoWord, decodePair, decodeShared, fOp, fGuard, fFn, extract_high, extract_low]

theorem RoundTrip.lea8 (g : BitVec 6) (rd : BitVec 6) (ra : BitVec 6) (rb : BitVec 6) : RoundTrip.Statement (.lea8 g rd ra rb) := by
  intro k _
  simp (disch := omega) [-Nat.reduceAdd, encode, isTwoWord, decodePair, decodeShared, fOp, fGuard, fFn, extract_high, extract_low]

theorem RoundTrip.cmpeq (g : BitVec 6) (pd : BitVec 6) (ra : BitVec 6) (rb : BitVec 6) : RoundTrip.Statement (.cmpeq g pd ra rb) := by
  intro k _
  simp (disch := omega) [-Nat.reduceAdd, encode, isTwoWord, decodePair, decodeShared, fOp, fGuard, fFn, extract_high, extract_low]

theorem RoundTrip.cmpne (g : BitVec 6) (pd : BitVec 6) (ra : BitVec 6) (rb : BitVec 6) : RoundTrip.Statement (.cmpne g pd ra rb) := by
  intro k _
  simp (disch := omega) [-Nat.reduceAdd, encode, isTwoWord, decodePair, decodeShared, fOp, fGuard, fFn, extract_high, extract_low]

theorem RoundTrip.cmplt (g : BitVec 6) (pd : BitVec 6) (ra : BitVec 6) (rb : BitVec 6) : RoundTrip.Statement (.cmplt g pd ra rb) := by
  intro k _
  simp (disch := omega) [-Nat.reduceAdd, encode, isTwoWord, decodePair, decodeShared, fOp, fGuard, fFn, extract_high, extract_low]

theorem RoundTrip.cmpltu (g : BitVec 6) (pd : BitVec 6) (ra : BitVec 6) (rb : BitVec 6) : RoundTrip.Statement (.cmpltu g pd ra rb) := by
  intro k _
  simp (disch := omega) [-Nat.reduceAdd, encode, isTwoWord, decodePair, decodeShared, fOp, fGuard, fFn, extract_high, extract_low]

theorem RoundTrip.cmpge (g : BitVec 6) (pd : BitVec 6) (ra : BitVec 6) (rb : BitVec 6) : RoundTrip.Statement (.cmpge g pd ra rb) := by
  intro k _
  simp (disch := omega) [-Nat.reduceAdd, encode, isTwoWord, decodePair, decodeShared, fOp, fGuard, fFn, extract_high, extract_low]

theorem RoundTrip.cmpgeu (g : BitVec 6) (pd : BitVec 6) (ra : BitVec 6) (rb : BitVec 6) : RoundTrip.Statement (.cmpgeu g pd ra rb) := by
  intro k _
  simp (disch := omega) [-Nat.reduceAdd, encode, isTwoWord, decodePair, decodeShared, fOp, fGuard, fFn, extract_high, extract_low]

theorem RoundTrip.tst (g : BitVec 6) (pd : BitVec 6) (ra : BitVec 6) (rb : BitVec 6) : RoundTrip.Statement (.tst g pd ra rb) := by
  intro k _
  simp (disch := omega) [-Nat.reduceAdd, encode, isTwoWord, decodePair, decodeShared, fOp, fGuard, fFn, extract_high, extract_low]

theorem RoundTrip.cmpeqi (g : BitVec 6) (pd : BitVec 6) (ra : BitVec 6) (imm : BitVec 32) : RoundTrip.Statement (.cmpeqi g pd ra imm) := by
  intro k _
  simp (disch := omega) [-Nat.reduceAdd, encode, isTwoWord, decodePair, decodeShared, fOp, fGuard, fFn, extract_high, extract_low]

theorem RoundTrip.cmplti (g : BitVec 6) (pd : BitVec 6) (ra : BitVec 6) (imm : BitVec 32) : RoundTrip.Statement (.cmplti g pd ra imm) := by
  intro k _
  simp (disch := omega) [-Nat.reduceAdd, encode, isTwoWord, decodePair, decodeShared, fOp, fGuard, fFn, extract_high, extract_low]

theorem RoundTrip.cmpltui (g : BitVec 6) (pd : BitVec 6) (ra : BitVec 6) (imm : BitVec 32) : RoundTrip.Statement (.cmpltui g pd ra imm) := by
  intro k _
  simp (disch := omega) [-Nat.reduceAdd, encode, isTwoWord, decodePair, decodeShared, fOp, fGuard, fFn, extract_high, extract_low]

theorem RoundTrip.cmpgei (g : BitVec 6) (pd : BitVec 6) (ra : BitVec 6) (imm : BitVec 32) : RoundTrip.Statement (.cmpgei g pd ra imm) := by
  intro k _
  simp (disch := omega) [-Nat.reduceAdd, encode, isTwoWord, decodePair, decodeShared, fOp, fGuard, fFn, extract_high, extract_low]

theorem RoundTrip.pand (g : BitVec 6) (pd : BitVec 6) (pa : BitVec 6) (pb : BitVec 6) : RoundTrip.Statement (.pand g pd pa pb) := by
  intro k _
  simp (disch := omega) [-Nat.reduceAdd, encode, isTwoWord, decodePair, decodeShared, fOp, fGuard, fFn, extract_high, extract_low]

theorem RoundTrip.por (g : BitVec 6) (pd : BitVec 6) (pa : BitVec 6) (pb : BitVec 6) : RoundTrip.Statement (.por g pd pa pb) := by
  intro k _
  simp (disch := omega) [-Nat.reduceAdd, encode, isTwoWord, decodePair, decodeShared, fOp, fGuard, fFn, extract_high, extract_low]

theorem RoundTrip.pxor (g : BitVec 6) (pd : BitVec 6) (pa : BitVec 6) (pb : BitVec 6) : RoundTrip.Statement (.pxor g pd pa pb) := by
  intro k _
  simp (disch := omega) [-Nat.reduceAdd, encode, isTwoWord, decodePair, decodeShared, fOp, fGuard, fFn, extract_high, extract_low]

theorem RoundTrip.pandn (g : BitVec 6) (pd : BitVec 6) (pa : BitVec 6) (pb : BitVec 6) : RoundTrip.Statement (.pandn g pd pa pb) := by
  intro k _
  simp (disch := omega) [-Nat.reduceAdd, encode, isTwoWord, decodePair, decodeShared, fOp, fGuard, fFn, extract_high, extract_low]

theorem RoundTrip.pnot (g : BitVec 6) (pd : BitVec 6) (pa : BitVec 6) : RoundTrip.Statement (.pnot g pd pa) := by
  intro k _
  simp (disch := omega) [-Nat.reduceAdd, encode, isTwoWord, decodePair, decodeShared, fOp, fGuard, fFn, extract_high, extract_low]

theorem RoundTrip.pset (g : BitVec 6) (pd : BitVec 6) : RoundTrip.Statement (.pset g pd) := by
  intro k _
  simp (disch := omega) [-Nat.reduceAdd, encode, isTwoWord, decodePair, decodeShared, fOp, fGuard, fFn, extract_high, extract_low]

theorem RoundTrip.pclr (g : BitVec 6) (pd : BitVec 6) : RoundTrip.Statement (.pclr g pd) := by
  intro k _
  simp (disch := omega) [-Nat.reduceAdd, encode, isTwoWord, decodePair, decodeShared, fOp, fGuard, fFn, extract_high, extract_low]

theorem RoundTrip.pmov (g : BitVec 6) (pd : BitVec 6) (pa : BitVec 6) : RoundTrip.Statement (.pmov g pd pa) := by
  intro k _
  simp (disch := omega) [-Nat.reduceAdd, encode, isTwoWord, decodePair, decodeShared, fOp, fGuard, fFn, extract_high, extract_low]

theorem RoundTrip.qmovPush (g : BitVec 6) (cmask : BitVec 4) (lane : BitVec 2) (ra : BitVec 6) : RoundTrip.Statement (.qmovPush g cmask lane ra) := by
  intro k _
  simp (disch := omega) [-Nat.reduceAdd, encode, isTwoWord, decodePair, decodeShared, fOp, fGuard, fFn, extract_high, extract_low]

theorem RoundTrip.qmovPop (g : BitVec 6) (rd : BitVec 6) (prod : BitVec 2) (lane : BitVec 2) : RoundTrip.Statement (.qmovPop g rd prod lane) := by
  intro k _
  simp (disch := omega) [-Nat.reduceAdd, encode, isTwoWord, decodePair, decodeShared, fOp, fGuard, fFn, extract_high, extract_low]

theorem RoundTrip.qpeek (g : BitVec 6) (rd : BitVec 6) (prod : BitVec 2) (lane : BitVec 2) : RoundTrip.Statement (.qpeek g rd prod lane) := by
  intro k _
  simp (disch := omega) [-Nat.reduceAdd, encode, isTwoWord, decodePair, decodeShared, fOp, fGuard, fFn, extract_high, extract_low]

theorem RoundTrip.finc (g : BitVec 6) (fl : BitVec 6) (scope : BitVec 3) (ord : BitVec 2) : RoundTrip.Statement (.finc g fl scope ord) := by
  intro k _
  simp (disch := omega) [-Nat.reduceAdd, encode, isTwoWord, decodePair, decodeShared, fOp, fGuard, fFn, extract_high, extract_low]

theorem RoundTrip.fset (g : BitVec 6) (fl : BitVec 6) (ra : BitVec 6) (scope : BitVec 3) (ord : BitVec 2) : RoundTrip.Statement (.fset g fl ra scope ord) := by
  intro k _
  simp (disch := omega) [-Nat.reduceAdd, encode, isTwoWord, decodePair, decodeShared, fOp, fGuard, fFn, extract_high, extract_low]

theorem RoundTrip.fadd (g : BitVec 6) (fl : BitVec 6) (ra : BitVec 6) (scope : BitVec 3) (ord : BitVec 2) : RoundTrip.Statement (.fadd g fl ra scope ord) := by
  intro k _
  simp (disch := omega) [-Nat.reduceAdd, encode, isTwoWord, decodePair, decodeShared, fOp, fGuard, fFn, extract_high, extract_low]

theorem RoundTrip.frd (g : BitVec 6) (rd : BitVec 6) (fl : BitVec 6) (scope : BitVec 3) (ord : BitVec 2) : RoundTrip.Statement (.frd g rd fl scope ord) := by
  intro k _
  simp (disch := omega) [-Nat.reduceAdd, encode, isTwoWord, decodePair, decodeShared, fOp, fGuard, fFn, extract_high, extract_low]

theorem RoundTrip.csrr (g : BitVec 6) (rd : BitVec 6) (csr : BitVec 12) : RoundTrip.Statement (.csrr g rd csr) := by
  intro k _
  simp (disch := omega) [-Nat.reduceAdd, encode, isTwoWord, decodePair, decodeShared, fOp, fGuard, fFn, extract_high, extract_low]

theorem RoundTrip.csrw (g : BitVec 6) (csr : BitVec 12) (rs : BitVec 6) : RoundTrip.Statement (.csrw g csr rs) := by
  intro k _
  simp (disch := omega) [-Nat.reduceAdd, encode, isTwoWord, decodePair, decodeShared, fOp, fGuard, fFn, extract_high, extract_low]

theorem RoundTrip.csrs (g : BitVec 6) (csr : BitVec 12) (rs : BitVec 6) : RoundTrip.Statement (.csrs g csr rs) := by
  intro k _
  simp (disch := omega) [-Nat.reduceAdd, encode, isTwoWord, decodePair, decodeShared, fOp, fGuard, fFn, extract_high, extract_low]

theorem RoundTrip.csrc (g : BitVec 6) (csr : BitVec 12) (rs : BitVec 6) : RoundTrip.Statement (.csrc g csr rs) := by
  intro k _
  simp (disch := omega) [-Nat.reduceAdd, encode, isTwoWord, decodePair, decodeShared, fOp, fGuard, fFn, extract_high, extract_low]

theorem RoundTrip.sext (g : BitVec 6) (rd : BitVec 6) (ra : BitVec 6) (width : BitVec 6) : RoundTrip.Statement (.sext g rd ra width) := by
  intro k _
  simp (disch := omega) [-Nat.reduceAdd, encode, isTwoWord, decodePair, decodeShared, fOp, fGuard, fFn, extract_high, extract_low]

theorem RoundTrip.zext (g : BitVec 6) (rd : BitVec 6) (ra : BitVec 6) (width : BitVec 6) : RoundTrip.Statement (.zext g rd ra width) := by
  intro k _
  simp (disch := omega) [-Nat.reduceAdd, encode, isTwoWord, decodePair, decodeShared, fOp, fGuard, fFn, extract_high, extract_low]

theorem RoundTrip.clz (g : BitVec 6) (rd : BitVec 6) (ra : BitVec 6) : RoundTrip.Statement (.clz g rd ra) := by
  intro k _
  simp (disch := omega) [-Nat.reduceAdd, encode, isTwoWord, decodePair, decodeShared, fOp, fGuard, fFn, extract_high, extract_low]

theorem RoundTrip.popc (g : BitVec 6) (rd : BitVec 6) (ra : BitVec 6) : RoundTrip.Statement (.popc g rd ra) := by
  intro k _
  simp (disch := omega) [-Nat.reduceAdd, encode, isTwoWord, decodePair, decodeShared, fOp, fGuard, fFn, extract_high, extract_low]

theorem RoundTrip.ld8 (g : BitVec 6) (rd : BitVec 6) (ra : BitVec 6) (off : BitVec 32) : RoundTrip.Statement (.ld8 g rd ra off) := by
  apply roundTrip_one rfl
  simp (disch := omega) [-Nat.reduceAdd, encode, isTwoWord, decodePair, decodeA, fOp, fGuard, fFn, extract_high, extract_low]

theorem RoundTrip.ld16 (g : BitVec 6) (rd : BitVec 6) (ra : BitVec 6) (off : BitVec 32) : RoundTrip.Statement (.ld16 g rd ra off) := by
  apply roundTrip_one rfl
  simp (disch := omega) [-Nat.reduceAdd, encode, isTwoWord, decodePair, decodeA, fOp, fGuard, fFn, extract_high, extract_low]

theorem RoundTrip.ld32 (g : BitVec 6) (rd : BitVec 6) (ra : BitVec 6) (off : BitVec 32) : RoundTrip.Statement (.ld32 g rd ra off) := by
  apply roundTrip_one rfl
  simp (disch := omega) [-Nat.reduceAdd, encode, isTwoWord, decodePair, decodeA, fOp, fGuard, fFn, extract_high, extract_low]

theorem RoundTrip.ld64 (g : BitVec 6) (rd : BitVec 6) (ra : BitVec 6) (off : BitVec 32) : RoundTrip.Statement (.ld64 g rd ra off) := by
  apply roundTrip_one rfl
  simp (disch := omega) [-Nat.reduceAdd, encode, isTwoWord, decodePair, decodeA, fOp, fGuard, fFn, extract_high, extract_low]

theorem RoundTrip.ldz8 (g : BitVec 6) (rd : BitVec 6) (ra : BitVec 6) (off : BitVec 32) : RoundTrip.Statement (.ldz8 g rd ra off) := by
  apply roundTrip_one rfl
  simp (disch := omega) [-Nat.reduceAdd, encode, isTwoWord, decodePair, decodeA, fOp, fGuard, fFn, extract_high, extract_low]

theorem RoundTrip.ldz16 (g : BitVec 6) (rd : BitVec 6) (ra : BitVec 6) (off : BitVec 32) : RoundTrip.Statement (.ldz16 g rd ra off) := by
  apply roundTrip_one rfl
  simp (disch := omega) [-Nat.reduceAdd, encode, isTwoWord, decodePair, decodeA, fOp, fGuard, fFn, extract_high, extract_low]

theorem RoundTrip.ldz32 (g : BitVec 6) (rd : BitVec 6) (ra : BitVec 6) (off : BitVec 32) : RoundTrip.Statement (.ldz32 g rd ra off) := by
  apply roundTrip_one rfl
  simp (disch := omega) [-Nat.reduceAdd, encode, isTwoWord, decodePair, decodeA, fOp, fGuard, fFn, extract_high, extract_low]

theorem RoundTrip.st8 (g : BitVec 6) (ra : BitVec 6) (rs : BitVec 6) (off : BitVec 32) : RoundTrip.Statement (.st8 g ra rs off) := by
  apply roundTrip_one rfl
  simp (disch := omega) [-Nat.reduceAdd, encode, isTwoWord, decodePair, decodeA, fOp, fGuard, fFn, extract_high, extract_low]

theorem RoundTrip.st16 (g : BitVec 6) (ra : BitVec 6) (rs : BitVec 6) (off : BitVec 32) : RoundTrip.Statement (.st16 g ra rs off) := by
  apply roundTrip_one rfl
  simp (disch := omega) [-Nat.reduceAdd, encode, isTwoWord, decodePair, decodeA, fOp, fGuard, fFn, extract_high, extract_low]

theorem RoundTrip.st32 (g : BitVec 6) (ra : BitVec 6) (rs : BitVec 6) (off : BitVec 32) : RoundTrip.Statement (.st32 g ra rs off) := by
  apply roundTrip_one rfl
  simp (disch := omega) [-Nat.reduceAdd, encode, isTwoWord, decodePair, decodeA, fOp, fGuard, fFn, extract_high, extract_low]

theorem RoundTrip.st64 (g : BitVec 6) (ra : BitVec 6) (rs : BitVec 6) (off : BitVec 32) : RoundTrip.Statement (.st64 g ra rs off) := by
  apply roundTrip_one rfl
  simp (disch := omega) [-Nat.reduceAdd, encode, isTwoWord, decodePair, decodeA, fOp, fGuard, fFn, extract_high, extract_low]

theorem RoundTrip.ldq8 (g : BitVec 6) (cmask : BitVec 4) (lane : BitVec 2) (ra : BitVec 6) (zx : BitVec 1) (off : BitVec 24) : RoundTrip.Statement (.ldq8 g cmask lane ra zx off) := by
  apply roundTrip_one rfl
  simp (disch := omega) [-Nat.reduceAdd, encode, isTwoWord, decodePair, decodeA, fOp, fGuard, fFn, extract_high, extract_low]

theorem RoundTrip.ldq16 (g : BitVec 6) (cmask : BitVec 4) (lane : BitVec 2) (ra : BitVec 6) (zx : BitVec 1) (off : BitVec 24) : RoundTrip.Statement (.ldq16 g cmask lane ra zx off) := by
  apply roundTrip_one rfl
  simp (disch := omega) [-Nat.reduceAdd, encode, isTwoWord, decodePair, decodeA, fOp, fGuard, fFn, extract_high, extract_low]

theorem RoundTrip.ldq32 (g : BitVec 6) (cmask : BitVec 4) (lane : BitVec 2) (ra : BitVec 6) (zx : BitVec 1) (off : BitVec 24) : RoundTrip.Statement (.ldq32 g cmask lane ra zx off) := by
  apply roundTrip_one rfl
  simp (disch := omega) [-Nat.reduceAdd, encode, isTwoWord, decodePair, decodeA, fOp, fGuard, fFn, extract_high, extract_low]

theorem RoundTrip.ldq64 (g : BitVec 6) (cmask : BitVec 4) (lane : BitVec 2) (ra : BitVec 6) (zx : BitVec 1) (off : BitVec 24) : RoundTrip.Statement (.ldq64 g cmask lane ra zx off) := by
  apply roundTrip_one rfl
  simp (disch := omega) [-Nat.reduceAdd, encode, isTwoWord, decodePair, decodeA, fOp, fGuard, fFn, extract_high, extract_low]

theorem RoundTrip.amoAdd (g : BitVec 6) (rd : BitVec 6) (ra : BitVec 6) (rb : BitVec 6) (w : BitVec 1) (scope : BitVec 3) (ord : BitVec 2) : RoundTrip.Statement (.amoAdd g rd ra rb w scope ord) := by
  apply roundTrip_one rfl
  simp (disch := omega) [-Nat.reduceAdd, encode, isTwoWord, decodePair, decodeA, fOp, fGuard, fFn, extract_high, extract_low]

theorem RoundTrip.amoSwp (g : BitVec 6) (rd : BitVec 6) (ra : BitVec 6) (rb : BitVec 6) (w : BitVec 1) (scope : BitVec 3) (ord : BitVec 2) : RoundTrip.Statement (.amoSwp g rd ra rb w scope ord) := by
  apply roundTrip_one rfl
  simp (disch := omega) [-Nat.reduceAdd, encode, isTwoWord, decodePair, decodeA, fOp, fGuard, fFn, extract_high, extract_low]

theorem RoundTrip.amoCas (g : BitVec 6) (rd : BitVec 6) (ra : BitVec 6) (rb : BitVec 6) (w : BitVec 1) (scope : BitVec 3) (ord : BitVec 2) (cmp : BitVec 6) : RoundTrip.Statement (.amoCas g rd ra rb w scope ord cmp) := by
  apply roundTrip_one rfl
  simp (disch := omega) [-Nat.reduceAdd, encode, isTwoWord, decodePair, decodeA, fOp, fGuard, fFn, extract_high, extract_low]

theorem RoundTrip.amoAnd (g : BitVec 6) (rd : BitVec 6) (ra : BitVec 6) (rb : BitVec 6) (w : BitVec 1) (scope : BitVec 3) (ord : BitVec 2) : RoundTrip.Statement (.amoAnd g rd ra rb w scope ord) := by
  apply roundTrip_one rfl
  simp (disch := omega) [-Nat.reduceAdd, encode, isTwoWord, decodePair, decodeA, fOp, fGuard, fFn, extract_high, extract_low]

theorem RoundTrip.amoOr (g : BitVec 6) (rd : BitVec 6) (ra : BitVec 6) (rb : BitVec 6) (w : BitVec 1) (scope : BitVec 3) (ord : BitVec 2) : RoundTrip.Statement (.amoOr g rd ra rb w scope ord) := by
  apply roundTrip_one rfl
  simp (disch := omega) [-Nat.reduceAdd, encode, isTwoWord, decodePair, decodeA, fOp, fGuard, fFn, extract_high, extract_low]

theorem RoundTrip.amoXor (g : BitVec 6) (rd : BitVec 6) (ra : BitVec 6) (rb : BitVec 6) (w : BitVec 1) (scope : BitVec 3) (ord : BitVec 2) : RoundTrip.Statement (.amoXor g rd ra rb w scope ord) := by
  apply roundTrip_one rfl
  simp (disch := omega) [-Nat.reduceAdd, encode, isTwoWord, decodePair, decodeA, fOp, fGuard, fFn, extract_high, extract_low]

theorem RoundTrip.amoMin (g : BitVec 6) (rd : BitVec 6) (ra : BitVec 6) (rb : BitVec 6) (w : BitVec 1) (scope : BitVec 3) (ord : BitVec 2) (u : BitVec 1) : RoundTrip.Statement (.amoMin g rd ra rb w scope ord u) := by
  apply roundTrip_one rfl
  simp (disch := omega) [-Nat.reduceAdd, encode, isTwoWord, decodePair, decodeA, fOp, fGuard, fFn, extract_high, extract_low]

theorem RoundTrip.amoMax (g : BitVec 6) (rd : BitVec 6) (ra : BitVec 6) (rb : BitVec 6) (w : BitVec 1) (scope : BitVec 3) (ord : BitVec 2) (u : BitVec 1) : RoundTrip.Statement (.amoMax g rd ra rb w scope ord u) := by
  apply roundTrip_one rfl
  simp (disch := omega) [-Nat.reduceAdd, encode, isTwoWord, decodePair, decodeA, fOp, fGuard, fFn, extract_high, extract_low]

theorem RoundTrip.rldq8 (g : BitVec 6) (cmask : BitVec 4) (lane : BitVec 2) (ra : BitVec 6) (zx : BitVec 1) (off : BitVec 24) (acq : BitVec 1) (scope : BitVec 3) : RoundTrip.Statement (.rldq8 g cmask lane ra zx off acq scope) := by
  apply roundTrip_one rfl
  simp (disch := omega) [-Nat.reduceAdd, encode, isTwoWord, decodePair, decodeA, fOp, fGuard, fFn, extract_high, extract_low]

theorem RoundTrip.rldq16 (g : BitVec 6) (cmask : BitVec 4) (lane : BitVec 2) (ra : BitVec 6) (zx : BitVec 1) (off : BitVec 24) (acq : BitVec 1) (scope : BitVec 3) : RoundTrip.Statement (.rldq16 g cmask lane ra zx off acq scope) := by
  apply roundTrip_one rfl
  simp (disch := omega) [-Nat.reduceAdd, encode, isTwoWord, decodePair, decodeA, fOp, fGuard, fFn, extract_high, extract_low]

theorem RoundTrip.rldq32 (g : BitVec 6) (cmask : BitVec 4) (lane : BitVec 2) (ra : BitVec 6) (zx : BitVec 1) (off : BitVec 24) (acq : BitVec 1) (scope : BitVec 3) : RoundTrip.Statement (.rldq32 g cmask lane ra zx off acq scope) := by
  apply roundTrip_one rfl
  simp (disch := omega) [-Nat.reduceAdd, encode, isTwoWord, decodePair, decodeA, fOp, fGuard, fFn, extract_high, extract_low]

theorem RoundTrip.rldq64 (g : BitVec 6) (cmask : BitVec 4) (lane : BitVec 2) (ra : BitVec 6) (zx : BitVec 1) (off : BitVec 24) (acq : BitVec 1) (scope : BitVec 3) : RoundTrip.Statement (.rldq64 g cmask lane ra zx off acq scope) := by
  apply roundTrip_one rfl
  simp (disch := omega) [-Nat.reduceAdd, encode, isTwoWord, decodePair, decodeA, fOp, fGuard, fFn, extract_high, extract_low]

theorem RoundTrip.laydef (g : BitVec 6) (ra : BitVec 6) : RoundTrip.Statement (.laydef g ra) := by
  apply roundTrip_one rfl
  simp (disch := omega) [-Nat.reduceAdd, encode, isTwoWord, decodePair, decodeA, fOp, fGuard, fFn, extract_high, extract_low]

theorem RoundTrip.layinv (g : BitVec 6) (ra : BitVec 6) : RoundTrip.Statement (.layinv g ra) := by
  apply roundTrip_one rfl
  simp (disch := omega) [-Nat.reduceAdd, encode, isTwoWord, decodePair, decodeA, fOp, fGuard, fFn, extract_high, extract_low]

theorem RoundTrip.pin (g : BitVec 6) (rd : BitVec 6) (rp : BitVec 6) (nrow : BitVec 8) (ncol : BitVec 8) (lvl : BitVec 2) : RoundTrip.Statement (.pin g rd rp nrow ncol lvl) := by
  apply roundTrip_one rfl
  simp (disch := omega) [-Nat.reduceAdd, encode, isTwoWord, decodePair, decodeA, fOp, fGuard, fFn, extract_high, extract_low]

theorem RoundTrip.unpin (g : BitVec 6) (rp : BitVec 6) (nrow : BitVec 8) (ncol : BitVec 8) (lvl : BitVec 2) : RoundTrip.Statement (.unpin g rp nrow ncol lvl) := by
  apply roundTrip_one rfl
  simp (disch := omega) [-Nat.reduceAdd, encode, isTwoWord, decodePair, decodeA, fOp, fGuard, fFn, extract_high, extract_low]

theorem RoundTrip.lastuse (g : BitVec 6) (rp : BitVec 6) (nrow : BitVec 8) (ncol : BitVec 8) (lvl : BitVec 2) : RoundTrip.Statement (.lastuse g rp nrow ncol lvl) := by
  apply roundTrip_one rfl
  simp (disch := omega) [-Nat.reduceAdd, encode, isTwoWord, decodePair, decodeA, fOp, fGuard, fFn, extract_high, extract_low]

theorem RoundTrip.stream (g : BitVec 6) (rp : BitVec 6) (nrow : BitVec 8) (ncol : BitVec 8) (lvl : BitVec 2) : RoundTrip.Statement (.stream g rp nrow ncol lvl) := by
  apply roundTrip_one rfl
  simp (disch := omega) [-Nat.reduceAdd, encode, isTwoWord, decodePair, decodeA, fOp, fGuard, fFn, extract_high, extract_low]

theorem RoundTrip.pfit (g : BitVec 6) (ra : BitVec 6) (cnt : BitVec 4) (ld : BitVec 4) (itin : BitVec 2) (lvl : BitVec 2) : RoundTrip.Statement (.pfit g ra cnt ld itin lvl) := by
  apply roundTrip_one rfl
  simp (disch := omega) [-Nat.reduceAdd, encode, isTwoWord, decodePair, decodeA, fOp, fGuard, fFn, extract_high, extract_low]

theorem RoundTrip.pfitcan (g : BitVec 6) (itin : BitVec 2) : RoundTrip.Statement (.pfitcan g itin) := by
  apply roundTrip_one rfl
  simp (disch := omega) [-Nat.reduceAdd, encode, isTwoWord, decodePair, decodeA, fOp, fGuard, fFn, extract_high, extract_low]

theorem RoundTrip.copy (g : BitVec 6) (tok : BitVec 3) (rs : BitVec 6) (rt : BitVec 6) (bx : BitVec 6) (fe : BitVec 1) (fl : BitVec 6) (scope : BitVec 3) (eng : BitVec 3) : RoundTrip.Statement (.copy g tok rs rt bx fe fl scope eng) := by
  apply roundTrip_one rfl
  simp (disch := omega) [-Nat.reduceAdd, encode, isTwoWord, decodePair, decodeA, fOp, fGuard, fFn, extract_high, extract_low]

theorem RoundTrip.copyt (g : BitVec 6) (tok : BitVec 3) (rs : BitVec 6) (rt : BitVec 6) (bx : BitVec 6) (fe : BitVec 1) (fl : BitVec 6) (scope : BitVec 3) (eng : BitVec 3) (tr : BitVec 6) : RoundTrip.Statement (.copyt g tok rs rt bx fe fl scope eng tr) := by
  apply roundTrip_one rfl
  simp (disch := omega) [-Nat.reduceAdd, encode, isTwoWord, decodePair, decodeA, fOp, fGuard, fFn, extract_high, extract_low]

theorem RoundTrip.vrel (g : BitVec 6) (rd : BitVec 6) (rp : BitVec 6) (nrow : BitVec 8) (ncol : BitVec 8) : RoundTrip.Statement (.vrel g rd rp nrow ncol) := by
  apply roundTrip_one rfl
  simp (disch := omega) [-Nat.reduceAdd, encode, isTwoWord, decodePair, decodeA, fOp, fGuard, fFn, extract_high, extract_low]

theorem RoundTrip.promote (g : BitVec 6) (tok : BitVec 3) (ra : BitVec 6) (rb : BitVec 6) (dr : BitVec 6) (lu : BitVec 1) : RoundTrip.Statement (.promote g tok ra rb dr lu) := by
  apply roundTrip_one rfl
  simp (disch := omega) [-Nat.reduceAdd, encode, isTwoWord, decodePair, decodeA, fOp, fGuard, fFn, extract_high, extract_low]

theorem RoundTrip.kvapp (g : BitVec 6) (rd : BitVec 6) (ra : BitVec 6) (kr : BitVec 6) (vr : BitVec 6) (cnt : BitVec 8) : RoundTrip.Statement (.kvapp g rd ra kr vr cnt) := by
  apply roundTrip_one rfl
  simp (disch := omega) [-Nat.reduceAdd, encode, isTwoWord, decodePair, decodeA, fOp, fGuard, fFn, extract_high, extract_low]

theorem RoundTrip.selTopk (g : BitVec 6) (e : EngineWord) : RoundTrip.Statement (.selTopk g e) := by
  apply roundTrip_one rfl
  simp (disch := omega) [-Nat.reduceAdd, encode, isTwoWord, decodePair, decodeA, fOp, fGuard, fFn, extract_high, extract_low]

theorem RoundTrip.selSeg (g : BitVec 6) (e : EngineWord) : RoundTrip.Statement (.selSeg g e) := by
  apply roundTrip_one rfl
  simp (disch := omega) [-Nat.reduceAdd, encode, isTwoWord, decodePair, decodeA, fOp, fGuard, fFn, extract_high, extract_low]

theorem RoundTrip.unmSetup (g : BitVec 6) (e : EngineWord) : RoundTrip.Statement (.unmSetup g e) := by
  apply roundTrip_one rfl
  simp (disch := omega) [-Nat.reduceAdd, encode, isTwoWord, decodePair, decodeA, fOp, fGuard, fFn, extract_high, extract_low]

theorem RoundTrip.unmReg (g : BitVec 6) (e : EngineWord) : RoundTrip.Statement (.unmReg g e) := by
  apply roundTrip_one rfl
  simp (disch := omega) [-Nat.reduceAdd, encode, isTwoWord, decodePair, decodeA, fOp, fGuard, fFn, extract_high, extract_low]

theorem RoundTrip.unmRound (g : BitVec 6) (e : EngineWord) : RoundTrip.Statement (.unmRound g e) := by
  apply roundTrip_one rfl
  simp (disch := omega) [-Nat.reduceAdd, encode, isTwoWord, decodePair, decodeA, fOp, fGuard, fFn, extract_high, extract_low]

theorem RoundTrip.unmFree (g : BitVec 6) (e : EngineWord) : RoundTrip.Statement (.unmFree g e) := by
  apply roundTrip_one rfl
  simp (disch := omega) [-Nat.reduceAdd, encode, isTwoWord, decodePair, decodeA, fOp, fGuard, fFn, extract_high, extract_low]

theorem RoundTrip.rteSetup (g : BitVec 6) (e : EngineWord) : RoundTrip.Statement (.rteSetup g e) := by
  apply roundTrip_one rfl
  simp (disch := omega) [-Nat.reduceAdd, encode, isTwoWord, decodePair, decodeA, fOp, fGuard, fFn, extract_high, extract_low]

theorem RoundTrip.rteCount (g : BitVec 6) (e : EngineWord) : RoundTrip.Statement (.rteCount g e) := by
  apply roundTrip_one rfl
  simp (disch := omega) [-Nat.reduceAdd, encode, isTwoWord, decodePair, decodeA, fOp, fGuard, fFn, extract_high, extract_low]

theorem RoundTrip.rtePlace (g : BitVec 6) (e : EngineWord) : RoundTrip.Statement (.rtePlace g e) := by
  apply roundTrip_one rfl
  simp (disch := omega) [-Nat.reduceAdd, encode, isTwoWord, decodePair, decodeA, fOp, fGuard, fFn, extract_high, extract_low]

theorem RoundTrip.rteScatter (g : BitVec 6) (e : EngineWord) : RoundTrip.Statement (.rteScatter g e) := by
  apply roundTrip_one rfl
  simp (disch := omega) [-Nat.reduceAdd, encode, isTwoWord, decodePair, decodeA, fOp, fGuard, fFn, extract_high, extract_low]

theorem RoundTrip.rteGather (g : BitVec 6) (e : EngineWord) : RoundTrip.Statement (.rteGather g e) := by
  apply roundTrip_one rfl
  simp (disch := omega) [-Nat.reduceAdd, encode, isTwoWord, decodePair, decodeA, fOp, fGuard, fFn, extract_high, extract_low]

theorem RoundTrip.collAr (g : BitVec 6) (e : EngineWord) : RoundTrip.Statement (.collAr g e) := by
  apply roundTrip_one rfl
  simp (disch := omega) [-Nat.reduceAdd, encode, isTwoWord, decodePair, decodeA, fOp, fGuard, fFn, extract_high, extract_low]

theorem RoundTrip.collAg (g : BitVec 6) (e : EngineWord) : RoundTrip.Statement (.collAg g e) := by
  apply roundTrip_one rfl
  simp (disch := omega) [-Nat.reduceAdd, encode, isTwoWord, decodePair, decodeA, fOp, fGuard, fFn, extract_high, extract_low]

theorem RoundTrip.collRs (g : BitVec 6) (e : EngineWord) : RoundTrip.Statement (.collRs g e) := by
  apply roundTrip_one rfl
  simp (disch := omega) [-Nat.reduceAdd, encode, isTwoWord, decodePair, decodeA, fOp, fGuard, fFn, extract_high, extract_low]

theorem RoundTrip.collBc (g : BitVec 6) (e : EngineWord) : RoundTrip.Statement (.collBc g e) := by
  apply roundTrip_one rfl
  simp (disch := omega) [-Nat.reduceAdd, encode, isTwoWord, decodePair, decodeA, fOp, fGuard, fFn, extract_high, extract_low]

theorem RoundTrip.collA2a (g : BitVec 6) (e : EngineWord) : RoundTrip.Statement (.collA2a g e) := by
  apply roundTrip_one rfl
  simp (disch := omega) [-Nat.reduceAdd, encode, isTwoWord, decodePair, decodeA, fOp, fGuard, fFn, extract_high, extract_low]

theorem RoundTrip.fencex (g : BitVec 6) (frm : BitVec 5) (dst : BitVec 5) (scope : BitVec 3) : RoundTrip.Statement (.fencex g frm dst scope) := by
  apply roundTrip_one rfl
  simp (disch := omega) [-Nat.reduceAdd, encode, isTwoWord, decodePair, decodeA, fOp, fGuard, fFn, extract_high, extract_low]

theorem RoundTrip.fpush (g : BitVec 6) (ra : BitVec 6) : RoundTrip.Statement (.fpush g ra) := by
  apply roundTrip_one rfl
  simp (disch := omega) [-Nat.reduceAdd, encode, isTwoWord, decodePair, decodeC, fOp, fGuard, fFn, extract_high, extract_low]

theorem RoundTrip.fqclose (g : BitVec 6) : RoundTrip.Statement (.fqclose g) := by
  apply roundTrip_one rfl
  simp (disch := omega) [-Nat.reduceAdd, encode, isTwoWord, decodePair, decodeC, fOp, fGuard, fFn, extract_high, extract_low]

theorem RoundTrip.renq (g : BitVec 6) (ra : BitVec 6) (rb : BitVec 6) : RoundTrip.Statement (.renq g ra rb) := by
  apply roundTrip_one rfl
  simp (disch := omega) [-Nat.reduceAdd, encode, isTwoWord, decodePair, decodeC, fOp, fGuard, fFn, extract_high, extract_low]

theorem RoundTrip.gbar (g : BitVec 6) (fl : BitVec 6) (ra : BitVec 6) (scope : BitVec 3) : RoundTrip.Statement (.gbar g fl ra scope) := by
  apply roundTrip_one rfl
  simp (disch := omega) [-Nat.reduceAdd, encode, isTwoWord, decodePair, decodeC, fOp, fGuard, fFn, extract_high, extract_low]

theorem RoundTrip.gleave (g : BitVec 6) (ra : BitVec 6) : RoundTrip.Statement (.gleave g ra) := by
  apply roundTrip_one rfl
  simp (disch := omega) [-Nat.reduceAdd, encode, isTwoWord, decodePair, decodeC, fOp, fGuard, fFn, extract_high, extract_low]

theorem RoundTrip.gjoin (g : BitVec 6) (ra : BitVec 6) : RoundTrip.Statement (.gjoin g ra) := by
  apply roundTrip_one rfl
  simp (disch := omega) [-Nat.reduceAdd, encode, isTwoWord, decodePair, decodeC, fOp, fGuard, fFn, extract_high, extract_low]

theorem RoundTrip.gcast (g : BitVec 6) (fl : BitVec 6) (ra : BitVec 6) (rb : BitVec 6) : RoundTrip.Statement (.gcast g fl ra rb) := by
  apply roundTrip_one rfl
  simp (disch := omega) [-Nat.reduceAdd, encode, isTwoWord, decodePair, decodeC, fOp, fGuard, fFn, extract_high, extract_low]

theorem RoundTrip.prack (g : BitVec 6) (rd : BitVec 6) (ra : BitVec 6) : RoundTrip.Statement (.prack g rd ra) := by
  apply roundTrip_one rfl
  simp (disch := omega) [-Nat.reduceAdd, encode, isTwoWord, decodePair, decodeC, fOp, fGuard, fFn, extract_high, extract_low]

theorem RoundTrip.hostirq (g : BitVec 6) (ra : BitVec 6) (vec : BitVec 6) : RoundTrip.Statement (.hostirq g ra vec) := by
  apply roundTrip_one rfl
  simp (disch := omega) [-Nat.reduceAdd, encode, isTwoWord, decodePair, decodeC, fOp, fGuard, fFn, extract_high, extract_low]

theorem RoundTrip.cube (g : BitVec 6) (c : CubeWord) : RoundTrip.Statement (.cube g c) := by
  apply roundTrip_one rfl
  simp (disch := omega) [-Nat.reduceAdd, encode, isTwoWord, decodePair, decodeM, fOp, fGuard, fFn, extract_high, extract_low]

theorem RoundTrip.mma (g : BitVec 6) (c : CubeWord) : RoundTrip.Statement (.mma g c) := by
  apply roundTrip_one rfl
  simp (disch := omega) [-Nat.reduceAdd, encode, isTwoWord, decodePair, decodeM, fOp, fGuard, fFn, extract_high, extract_low]

theorem RoundTrip.ald (g : BitVec 6) (rr : BitVec 6) (rp : BitVec 6) (view : BitVec 3) (rm : BitVec 3) (ftz : BitVec 1) (tr : BitVec 1) (ve : BitVec 1) (minv : BitVec 8) : RoundTrip.Statement (.ald g rr rp view rm ftz tr ve minv) := by
  apply roundTrip_one rfl
  simp (disch := omega) [-Nat.reduceAdd, encode, isTwoWord, decodePair, decodeM, fOp, fGuard, fFn, extract_high, extract_low]

theorem RoundTrip.ast (g : BitVec 6) (rr : BitVec 6) (rp : BitVec 6) (view : BitVec 3) (rm : BitVec 3) (ftz : BitVec 1) (tr : BitVec 1) (ve : BitVec 1) (minv : BitVec 8) : RoundTrip.Statement (.ast g rr rp view rm ftz tr ve minv) := by
  apply roundTrip_one rfl
  simp (disch := omega) [-Nat.reduceAdd, encode, isTwoWord, decodePair, decodeM, fOp, fGuard, fFn, extract_high, extract_low]

theorem RoundTrip.aclr (g : BitVec 6) (rd : BitVec 6) (dv : BitVec 3) : RoundTrip.Statement (.aclr g rd dv) := by
  apply roundTrip_one rfl
  simp (disch := omega) [-Nat.reduceAdd, encode, isTwoWord, decodePair, decodeM, fOp, fGuard, fFn, extract_high, extract_low]

theorem RoundTrip.acvt (g : BitVec 6) (rd : BitVec 6) (ra : BitVec 6) (sv : BitVec 3) (dv : BitVec 3) (rm : BitVec 3) (ftz : BitVec 1) : RoundTrip.Statement (.acvt g rd ra sv dv rm ftz) := by
  apply roundTrip_one rfl
  simp (disch := omega) [-Nat.reduceAdd, encode, isTwoWord, decodePair, decodeM, fOp, fGuard, fFn, extract_high, extract_low]

theorem RoundTrip.acopy (g : BitVec 6) (rd : BitVec 6) (ra : BitVec 6) (dv : BitVec 3) : RoundTrip.Statement (.acopy g rd ra dv) := by
  apply roundTrip_one rfl
  simp (disch := omega) [-Nat.reduceAdd, encode, isTwoWord, decodePair, decodeM, fOp, fGuard, fFn, extract_high, extract_low]

theorem RoundTrip.atrn (g : BitVec 6) (rd : BitVec 6) (ra : BitVec 6) (dv : BitVec 3) : RoundTrip.Statement (.atrn g rd ra dv) := by
  apply roundTrip_one rfl
  simp (disch := omega) [-Nat.reduceAdd, encode, isTwoWord, decodePair, decodeM, fOp, fGuard, fFn, extract_high, extract_low]

theorem RoundTrip.vadd (g : BitVec 6) (w : VecWord) : RoundTrip.Statement (.vadd g w) := by
  apply roundTrip_one rfl
  simp (disch := omega) [-Nat.reduceAdd, encode, isTwoWord, decodePair, decodeV, fOp, fGuard, fFn, extract_high, extract_low]

theorem RoundTrip.vsub (g : BitVec 6) (w : VecWord) : RoundTrip.Statement (.vsub g w) := by
  apply roundTrip_one rfl
  simp (disch := omega) [-Nat.reduceAdd, encode, isTwoWord, decodePair, decodeV, fOp, fGuard, fFn, extract_high, extract_low]

theorem RoundTrip.vmul (g : BitVec 6) (w : VecWord) : RoundTrip.Statement (.vmul g w) := by
  apply roundTrip_one rfl
  simp (disch := omega) [-Nat.reduceAdd, encode, isTwoWord, decodePair, decodeV, fOp, fGuard, fFn, extract_high, extract_low]

theorem RoundTrip.vfma (g : BitVec 6) (w : VecWord) : RoundTrip.Statement (.vfma g w) := by
  apply roundTrip_one rfl
  simp (disch := omega) [-Nat.reduceAdd, encode, isTwoWord, decodePair, decodeV, fOp, fGuard, fFn, extract_high, extract_low]

theorem RoundTrip.vmin (g : BitVec 6) (w : VecWord) : RoundTrip.Statement (.vmin g w) := by
  apply roundTrip_one rfl
  simp (disch := omega) [-Nat.reduceAdd, encode, isTwoWord, decodePair, decodeV, fOp, fGuard, fFn, extract_high, extract_low]

theorem RoundTrip.vmax (g : BitVec 6) (w : VecWord) : RoundTrip.Statement (.vmax g w) := by
  apply roundTrip_one rfl
  simp (disch := omega) [-Nat.reduceAdd, encode, isTwoWord, decodePair, decodeV, fOp, fGuard, fFn, extract_high, extract_low]

theorem RoundTrip.vabs (g : BitVec 6) (w : VecWord) : RoundTrip.Statement (.vabs g w) := by
  apply roundTrip_one rfl
  simp (disch := omega) [-Nat.reduceAdd, encode, isTwoWord, decodePair, decodeV, fOp, fGuard, fFn, extract_high, extract_low]

theorem RoundTrip.vneg (g : BitVec 6) (w : VecWord) : RoundTrip.Statement (.vneg g w) := by
  apply roundTrip_one rfl
  simp (disch := omega) [-Nat.reduceAdd, encode, isTwoWord, decodePair, decodeV, fOp, fGuard, fFn, extract_high, extract_low]

theorem RoundTrip.vand (g : BitVec 6) (w : VecWord) : RoundTrip.Statement (.vand g w) := by
  apply roundTrip_one rfl
  simp (disch := omega) [-Nat.reduceAdd, encode, isTwoWord, decodePair, decodeV, fOp, fGuard, fFn, extract_high, extract_low]

theorem RoundTrip.vor (g : BitVec 6) (w : VecWord) : RoundTrip.Statement (.vor g w) := by
  apply roundTrip_one rfl
  simp (disch := omega) [-Nat.reduceAdd, encode, isTwoWord, decodePair, decodeV, fOp, fGuard, fFn, extract_high, extract_low]

theorem RoundTrip.vxor (g : BitVec 6) (w : VecWord) : RoundTrip.Statement (.vxor g w) := by
  apply roundTrip_one rfl
  simp (disch := omega) [-Nat.reduceAdd, encode, isTwoWord, decodePair, decodeV, fOp, fGuard, fFn, extract_high, extract_low]

theorem RoundTrip.vnot (g : BitVec 6) (w : VecWord) : RoundTrip.Statement (.vnot g w) := by
  apply roundTrip_one rfl
  simp (disch := omega) [-Nat.reduceAdd, encode, isTwoWord, decodePair, decodeV, fOp, fGuard, fFn, extract_high, extract_low]

theorem RoundTrip.vshl (g : BitVec 6) (w : VecWord) : RoundTrip.Statement (.vshl g w) := by
  apply roundTrip_one rfl
  simp (disch := omega) [-Nat.reduceAdd, encode, isTwoWord, decodePair, decodeV, fOp, fGuard, fFn, extract_high, extract_low]

theorem RoundTrip.vshr (g : BitVec 6) (w : VecWord) : RoundTrip.Statement (.vshr g w) := by
  apply roundTrip_one rfl
  simp (disch := omega) [-Nat.reduceAdd, encode, isTwoWord, decodePair, decodeV, fOp, fGuard, fFn, extract_high, extract_low]

theorem RoundTrip.vsar (g : BitVec 6) (w : VecWord) : RoundTrip.Statement (.vsar g w) := by
  apply roundTrip_one rfl
  simp (disch := omega) [-Nat.reduceAdd, encode, isTwoWord, decodePair, decodeV, fOp, fGuard, fFn, extract_high, extract_low]

theorem RoundTrip.vcmpeq (g : BitVec 6) (w : VecWord) : RoundTrip.Statement (.vcmpeq g w) := by
  apply roundTrip_one rfl
  simp (disch := omega) [-Nat.reduceAdd, encode, isTwoWord, decodePair, decodeV, fOp, fGuard, fFn, extract_high, extract_low]

theorem RoundTrip.vcmplt (g : BitVec 6) (w : VecWord) : RoundTrip.Statement (.vcmplt g w) := by
  apply roundTrip_one rfl
  simp (disch := omega) [-Nat.reduceAdd, encode, isTwoWord, decodePair, decodeV, fOp, fGuard, fFn, extract_high, extract_low]

theorem RoundTrip.vcmple (g : BitVec 6) (w : VecWord) : RoundTrip.Statement (.vcmple g w) := by
  apply roundTrip_one rfl
  simp (disch := omega) [-Nat.reduceAdd, encode, isTwoWord, decodePair, decodeV, fOp, fGuard, fFn, extract_high, extract_low]

theorem RoundTrip.vsel (g : BitVec 6) (w : VecWord) : RoundTrip.Statement (.vsel g w) := by
  apply roundTrip_one rfl
  simp (disch := omega) [-Nat.reduceAdd, encode, isTwoWord, decodePair, decodeV, fOp, fGuard, fFn, extract_high, extract_low]

theorem RoundTrip.vcvt (g : BitVec 6) (w : VecWord) : RoundTrip.Statement (.vcvt g w) := by
  apply roundTrip_one rfl
  simp (disch := omega) [-Nat.reduceAdd, encode, isTwoWord, decodePair, decodeV, fOp, fGuard, fFn, extract_high, extract_low]

theorem RoundTrip.vrndi (g : BitVec 6) (w : VecWord) : RoundTrip.Statement (.vrndi g w) := by
  apply roundTrip_one rfl
  simp (disch := omega) [-Nat.reduceAdd, encode, isTwoWord, decodePair, decodeV, fOp, fGuard, fFn, extract_high, extract_low]

theorem RoundTrip.vrsum (g : BitVec 6) (w : VecWord) : RoundTrip.Statement (.vrsum g w) := by
  apply roundTrip_one rfl
  simp (disch := omega) [-Nat.reduceAdd, encode, isTwoWord, decodePair, decodeV, fOp, fGuard, fFn, extract_high, extract_low]

theorem RoundTrip.vrmax (g : BitVec 6) (w : VecWord) : RoundTrip.Statement (.vrmax g w) := by
  apply roundTrip_one rfl
  simp (disch := omega) [-Nat.reduceAdd, encode, isTwoWord, decodePair, decodeV, fOp, fGuard, fFn, extract_high, extract_low]

theorem RoundTrip.vrmin (g : BitVec 6) (w : VecWord) : RoundTrip.Statement (.vrmin g w) := by
  apply roundTrip_one rfl
  simp (disch := omega) [-Nat.reduceAdd, encode, isTwoWord, decodePair, decodeV, fOp, fGuard, fFn, extract_high, extract_low]

theorem RoundTrip.vrargmax (g : BitVec 6) (w : VecWord) : RoundTrip.Statement (.vrargmax g w) := by
  apply roundTrip_one rfl
  simp (disch := omega) [-Nat.reduceAdd, encode, isTwoWord, decodePair, decodeV, fOp, fGuard, fFn, extract_high, extract_low]

theorem RoundTrip.vexp2 (g : BitVec 6) (w : VecWord) : RoundTrip.Statement (.vexp2 g w) := by
  apply roundTrip_one rfl
  simp (disch := omega) [-Nat.reduceAdd, encode, isTwoWord, decodePair, decodeV, fOp, fGuard, fFn, extract_high, extract_low]

theorem RoundTrip.vlog2 (g : BitVec 6) (w : VecWord) : RoundTrip.Statement (.vlog2 g w) := by
  apply roundTrip_one rfl
  simp (disch := omega) [-Nat.reduceAdd, encode, isTwoWord, decodePair, decodeV, fOp, fGuard, fFn, extract_high, extract_low]

theorem RoundTrip.vrcp (g : BitVec 6) (w : VecWord) : RoundTrip.Statement (.vrcp g w) := by
  apply roundTrip_one rfl
  simp (disch := omega) [-Nat.reduceAdd, encode, isTwoWord, decodePair, decodeV, fOp, fGuard, fFn, extract_high, extract_low]

theorem RoundTrip.vrsq (g : BitVec 6) (w : VecWord) : RoundTrip.Statement (.vrsq g w) := by
  apply roundTrip_one rfl
  simp (disch := omega) [-Nat.reduceAdd, encode, isTwoWord, decodePair, decodeV, fOp, fGuard, fFn, extract_high, extract_low]

theorem RoundTrip.vtanh (g : BitVec 6) (w : VecWord) : RoundTrip.Statement (.vtanh g w) := by
  apply roundTrip_one rfl
  simp (disch := omega) [-Nat.reduceAdd, encode, isTwoWord, decodePair, decodeV, fOp, fGuard, fFn, extract_high, extract_low]

theorem RoundTrip.vmov (g : BitVec 6) (w : VecWord) : RoundTrip.Statement (.vmov g w) := by
  apply roundTrip_one rfl
  simp (disch := omega) [-Nat.reduceAdd, encode, isTwoWord, decodePair, decodeV, fOp, fGuard, fFn, extract_high, extract_low]

theorem RoundTrip.vperm (g : BitVec 6) (w : VecWord) : RoundTrip.Statement (.vperm g w) := by
  apply roundTrip_one rfl
  simp (disch := omega) [-Nat.reduceAdd, encode, isTwoWord, decodePair, decodeV, fOp, fGuard, fFn, extract_high, extract_low]

theorem RoundTrip.vrot (g : BitVec 6) (w : VecWord) : RoundTrip.Statement (.vrot g w) := by
  apply roundTrip_one rfl
  simp (disch := omega) [-Nat.reduceAdd, encode, isTwoWord, decodePair, decodeV, fOp, fGuard, fFn, extract_high, extract_low]

theorem RoundTrip.vrng (g : BitVec 6) (w : VecWord) : RoundTrip.Statement (.vrng g w) := by
  apply roundTrip_one rfl
  simp (disch := omega) [-Nat.reduceAdd, encode, isTwoWord, decodePair, decodeV, fOp, fGuard, fFn, extract_high, extract_low]

theorem RoundTrip.vdistIp (g : BitVec 6) (w : VecWord) : RoundTrip.Statement (.vdistIp g w) := by
  apply roundTrip_one rfl
  simp (disch := omega) [-Nat.reduceAdd, encode, isTwoWord, decodePair, decodeV, fOp, fGuard, fFn, extract_high, extract_low]

theorem RoundTrip.vdistL2 (g : BitVec 6) (w : VecWord) : RoundTrip.Statement (.vdistL2 g w) := by
  apply roundTrip_one rfl
  simp (disch := omega) [-Nat.reduceAdd, encode, isTwoWord, decodePair, decodeV, fOp, fGuard, fFn, extract_high, extract_low]

theorem RoundTrip.vdistHam (g : BitVec 6) (w : VecWord) : RoundTrip.Statement (.vdistHam g w) := by
  apply roundTrip_one rfl
  simp (disch := omega) [-Nat.reduceAdd, encode, isTwoWord, decodePair, decodeV, fOp, fGuard, fFn, extract_high, extract_low]

theorem RoundTrip.vlmask (g : BitVec 6) (w : VecWord) : RoundTrip.Statement (.vlmask g w) := by
  apply roundTrip_one rfl
  simp (disch := omega) [-Nat.reduceAdd, encode, isTwoWord, decodePair, decodeV, fOp, fGuard, fFn, extract_high, extract_low]

theorem RoundTrip.viota (g : BitVec 6) (w : VecWord) : RoundTrip.Statement (.viota g w) := by
  apply roundTrip_one rfl
  simp (disch := omega) [-Nat.reduceAdd, encode, isTwoWord, decodePair, decodeV, fOp, fGuard, fFn, extract_high, extract_low]

theorem RoundTrip.vmovs (g : BitVec 6) (w : VecWord) : RoundTrip.Statement (.vmovs g w) := by
  apply roundTrip_one rfl
  simp (disch := omega) [-Nat.reduceAdd, encode, isTwoWord, decodePair, decodeV, fOp, fGuard, fFn, extract_high, extract_low]

theorem RoundTrip.vins (g : BitVec 6) (w : VecWord) : RoundTrip.Statement (.vins g w) := by
  apply roundTrip_one rfl
  simp (disch := omega) [-Nat.reduceAdd, encode, isTwoWord, decodePair, decodeV, fOp, fGuard, fFn, extract_high, extract_low]

theorem RoundTrip.joinMember (core : Nat) (k : Kind) : RoundTrip.Statement (.joinMember core k) := by
  intro k h
  cases h

theorem RoundTrip.joinBroken (core : Nat) (k : Kind) : RoundTrip.Statement (.joinBroken core k) := by
  intro k h
  cases h

theorem RoundTrip.joinTimeout (core : Nat) (k : Kind) : RoundTrip.Statement (.joinTimeout core k) := by
  intro k h
  cases h

theorem RoundTrip.tokenError (core : Nat) (k : Kind) : RoundTrip.Statement (.tokenError core k) := by
  intro k h
  cases h

theorem RoundTrip.loadReturn (core : Nat) (idx : Nat) : RoundTrip.Statement (.loadReturn core idx) := by
  intro k h
  cases h

theorem RoundTrip.atomicResponse (core : Nat) (idx : Nat) : RoundTrip.Statement (.atomicResponse core idx) := by
  intro k h
  cases h

theorem RoundTrip.tileFillArrival (idx : Nat) : RoundTrip.Statement (.tileFillArrival idx) := by
  intro k h
  cases h

theorem RoundTrip.cubePerform (core : Nat) (idx : Nat) : RoundTrip.Statement (.cubePerform core idx) := by
  intro k h
  cases h

theorem RoundTrip.aldComplete (core : Nat) (idx : Nat) : RoundTrip.Statement (.aldComplete core idx) := by
  intro k h
  cases h

theorem RoundTrip.vectorComplete (core : Nat) (idx : Nat) : RoundTrip.Statement (.vectorComplete core idx) := by
  intro k h
  cases h

theorem RoundTrip.tileMissTimeout (core : Nat) (idx : Nat) : RoundTrip.Statement (.tileMissTimeout core idx) := by
  intro k h
  cases h

theorem RoundTrip.alcoveWriteback (core : Nat) (idx : Nat) : RoundTrip.Statement (.alcoveWriteback core idx) := by
  intro k h
  cases h

theorem RoundTrip.hallFill (idx : Nat) : RoundTrip.Statement (.hallFill idx) := by
  intro k h
  cases h

theorem RoundTrip.hallForward (idx : Nat) : RoundTrip.Statement (.hallForward idx) := by
  intro k h
  cases h

theorem RoundTrip.homeRequest (idx : Nat) (full : Bool) : RoundTrip.Statement (.homeRequest idx full) := by
  intro k h
  cases h

theorem RoundTrip.homePublication (core : Nat) (idx : Nat) : RoundTrip.Statement (.homePublication core idx) := by
  intro k h
  cases h

theorem RoundTrip.homeWriteback (cluster : Nat) (idx : Nat) : RoundTrip.Statement (.homeWriteback cluster idx) := by
  intro k h
  cases h

theorem RoundTrip.homeRaise (idx : Nat) : RoundTrip.Statement (.homeRaise idx) := by
  intro k h
  cases h

theorem RoundTrip.requestResend (idx : Nat) : RoundTrip.Statement (.requestResend idx) := by
  intro k h
  cases h

theorem RoundTrip.slotSwap (stack : Nat) (slotA : Nat) (slotB : Nat) : RoundTrip.Statement (.slotSwap stack slotA slotB) := by
  intro k h
  cases h

theorem RoundTrip.pageWalkComplete (cluster : Nat) (ctx : Nat) (va : Nat) : RoundTrip.Statement (.pageWalkComplete cluster ctx va) := by
  intro k h
  cases h

theorem RoundTrip.copytRelease (cluster : Nat) (eng : Nat) : RoundTrip.Statement (.copytRelease cluster eng) := by
  intro k h
  cases h

theorem RoundTrip.copyStart (cluster : Nat) (eng : Nat) : RoundTrip.Statement (.copyStart cluster eng) := by
  intro k h
  cases h

theorem RoundTrip.copyComplete (cluster : Nat) (eng : Nat) (idx : Nat) : RoundTrip.Statement (.copyComplete cluster eng idx) := by
  intro k h
  cases h

theorem RoundTrip.markerRemove (cluster : Nat) (eng : Nat) : RoundTrip.Statement (.markerRemove cluster eng) := by
  intro k h
  cases h

theorem RoundTrip.selectionPerform (cluster : Nat) : RoundTrip.Statement (.selectionPerform cluster) := by
  intro k h
  cases h

theorem RoundTrip.landingPerform (cluster : Nat) (slot : Nat) : RoundTrip.Statement (.landingPerform cluster slot) := by
  intro k h
  cases h

theorem RoundTrip.concoursePerform (die : Nat) (sess : Nat) : RoundTrip.Statement (.concoursePerform die sess) := by
  intro k h
  cases h

theorem RoundTrip.countContribution (die : Nat) (msg : CountMsg) : RoundTrip.Statement (.countContribution die msg) := by
  intro k h
  cases h

theorem RoundTrip.routeTimeout (die : Nat) (sess : Nat) : RoundTrip.Statement (.routeTimeout die sess) := by
  intro k h
  cases h

theorem RoundTrip.collectivePerform (die : Nat) (idx : Nat) : RoundTrip.Statement (.collectivePerform die idx) := by
  intro k h
  cases h

theorem RoundTrip.collContribution (msg : CollMsg) : RoundTrip.Statement (.collContribution msg) := by
  intro k h
  cases h

theorem RoundTrip.collectiveTimeout (die : Nat) (idx : Nat) : RoundTrip.Statement (.collectiveTimeout die idx) := by
  intro k h
  cases h

theorem RoundTrip.engineComplete (idx : Nat) : RoundTrip.Statement (.engineComplete idx) := by
  intro k h
  cases h

theorem RoundTrip.groupArrival (idx : Nat) : RoundTrip.Statement (.groupArrival idx) := by
  intro k h
  cases h

theorem RoundTrip.moduleArrival (xkey : BitVec 32) (module : PeerModule) (gen : Nat) : RoundTrip.Statement (.moduleArrival xkey module gen) := by
  intro k h
  cases h

theorem RoundTrip.remoteFlagUpdate (idx : Nat) : RoundTrip.Statement (.remoteFlagUpdate idx) := by
  intro k h
  cases h

theorem RoundTrip.pageMigrationCopy (idx : Nat) : RoundTrip.Statement (.pageMigrationCopy idx) := by
  intro k h
  cases h

theorem RoundTrip.pageMigrationSwitch (idx : Nat) : RoundTrip.Statement (.pageMigrationSwitch idx) := by
  intro k h
  cases h

theorem RoundTrip.pageReturn (idx : Nat) : RoundTrip.Statement (.pageReturn idx) := by
  intro k h
  cases h

theorem RoundTrip.schedulerWalk (cluster : Nat) : RoundTrip.Statement (.schedulerWalk cluster) := by
  intro k h
  cases h

theorem RoundTrip.launchTake (cluster : Nat) (queue : Nat) : RoundTrip.Statement (.launchTake cluster queue) := by
  intro k h
  cases h

theorem RoundTrip.hostLaunchTake (ctx : Nat) (cluster : Nat) : RoundTrip.Statement (.hostLaunchTake ctx cluster) := by
  intro k h
  cases h

theorem RoundTrip.residencyTimeout (task : Nat) : RoundTrip.Statement (.residencyTimeout task) := by
  intro k h
  cases h

theorem RoundTrip.taskStart (task : Nat) : RoundTrip.Statement (.taskStart task) := by
  intro k h
  cases h

theorem RoundTrip.taskRetire (task : Nat) : RoundTrip.Statement (.taskRetire task) := by
  intro k h
  cases h

theorem RoundTrip.launchRetire (launch : Nat) : RoundTrip.Statement (.launchRetire launch) := by
  intro k h
  cases h

theorem RoundTrip.preemptGraceExpiry (task : Nat) : RoundTrip.Statement (.preemptGraceExpiry task) := by
  intro k h
  cases h

theorem RoundTrip.cut (task : Nat) : RoundTrip.Statement (.cut task) := by
  intro k h
  cases h

theorem RoundTrip.saveComplete (task : Nat) : RoundTrip.Statement (.saveComplete task) := by
  intro k h
  cases h

theorem RoundTrip.taskResume (task : Nat) : RoundTrip.Statement (.taskResume task) := by
  intro k h
  cases h

theorem RoundTrip.faultRecord (idx : Nat) : RoundTrip.Statement (.faultRecord idx) := by
  intro k h
  cases h

theorem RoundTrip.contextFaultStop (ctx : Nat) : RoundTrip.Statement (.contextFaultStop ctx) := by
  intro k h
  cases h

theorem RoundTrip.ctxCreate (addr : Nat) : RoundTrip.Statement (.ctxCreate addr) := by
  intro k h
  cases h

theorem RoundTrip.ctxDestroy (addr : Nat) : RoundTrip.Statement (.ctxDestroy addr) := by
  intro k h
  cases h

theorem RoundTrip.lqtailWrite (ctx : Nat) (v : BitVec 64) : RoundTrip.Statement (.lqtailWrite ctx v) := by
  intro k h
  cases h

theorem RoundTrip.nqreadWrite (ctx : Nat) (v : BitVec 64) : RoundTrip.Statement (.nqreadWrite ctx v) := by
  intro k h
  cases h

theorem RoundTrip.tqreadWrite (ctx : Nat) (v : BitVec 64) : RoundTrip.Statement (.tqreadWrite ctx v) := by
  intro k h
  cases h

theorem RoundTrip.ctlStop (ctx : Nat) : RoundTrip.Statement (.ctlStop ctx) := by
  intro k h
  cases h

theorem RoundTrip.ctlResume (ctx : Nat) : RoundTrip.Statement (.ctlResume ctx) := by
  intro k h
  cases h

theorem RoundTrip.ctlKill (ctx : Nat) : RoundTrip.Statement (.ctlKill ctx) := by
  intro k h
  cases h

theorem RoundTrip.ctlInvalidate (ctx : Nat) : RoundTrip.Statement (.ctlInvalidate ctx) := by
  intro k h
  cases h

theorem RoundTrip.debugWindowAccess (wr : Bool) (off : Nat) (v : BitVec 64) : RoundTrip.Statement (.debugWindowAccess wr off v) := by
  intro k h
  cases h

theorem RoundTrip.hostRegisterWrite (bar : Nat) (off : Nat) (v : BitVec 64) : RoundTrip.Statement (.hostRegisterWrite bar off v) := by
  intro k h
  cases h

theorem RoundTrip.traceSample (ctx : Nat) : RoundTrip.Statement (.traceSample ctx) := by
  intro k h
  cases h

theorem RoundTrip.clockStep (n : Nat) : RoundTrip.Statement (.clockStep n) := by
  intro k h
  cases h

theorem RoundTrip.unitFailure (core : Nat) : RoundTrip.Statement (.unitFailure core) := by
  intro k h
  cases h

theorem RoundTrip.thermalTrip (die : Nat) (temp : Nat) : RoundTrip.Statement (.thermalTrip die temp) := by
  intro k h
  cases h

theorem RoundTrip.moduleReset (warm : Bool) : RoundTrip.Statement (.moduleReset warm) := by
  intro k h
  cases h

theorem RoundTrip.blackboxRearm : RoundTrip.Statement (.blackboxRearm ) := by
  intro k h
  cases h

theorem RoundTrip.firmwareUpdate (edOk : Bool) (mlOk : Bool) (rollback : Nat) (version : BitVec 32) : RoundTrip.Statement (.firmwareUpdate edOk mlOk rollback version) := by
  intro k h
  cases h

theorem RoundTrip.attestationReport (nonce : BitVec 256) : RoundTrip.Statement (.attestationReport nonce) := by
  intro k h
  cases h

theorem RoundTrip.domainConfig (size : Nat) (number : Nat) (others : List Nat) : RoundTrip.Statement (.domainConfig size number others) := by
  intro k h
  cases h

theorem RoundTrip.hbmRetrain (stack : Nat) : RoundTrip.Statement (.hbmRetrain stack) := by
  intro k h
  cases h

theorem RoundTrip.retrainRequest (stack : Nat) : RoundTrip.Statement (.retrainRequest stack) := by
  intro k h
  cases h

theorem RoundTrip.flitReceive (die : Nat) (port : Nat) (flit : FlitMsg) : RoundTrip.Statement (.flitReceive die port flit) := by
  intro k h
  cases h

theorem RoundTrip.laneFecWindow (die : Nat) (port : Nat) : RoundTrip.Statement (.laneFecWindow die port) := by
  intro k h
  cases h

theorem RoundTrip.laneLockLoss (die : Nat) (port : Nat) (lane : Nat) : RoundTrip.Statement (.laneLockLoss die port lane) := by
  intro k h
  cases h

theorem RoundTrip.linkRetrainDone (die : Nat) (port : Nat) (lost : List Nat) : RoundTrip.Statement (.linkRetrainDone die port lost) := by
  intro k h
  cases h

theorem RoundTrip.fabricTimeout (core : Nat) (idx : Nat) : RoundTrip.Statement (.fabricTimeout core idx) := by
  intro k h
  cases h

theorem RoundTrip.instructionFetch (core : Nat) (k : Kind) (va : Nat) : RoundTrip.Statement (.instructionFetch core k va) := by
  intro k h
  cases h

theorem RoundTrip.writeAcknowledgement (core : Nat) (idx : Nat) : RoundTrip.Statement (.writeAcknowledgement core idx) := by
  intro k h
  cases h

theorem RoundTrip.regionInstructionComplete (core : Nat) (idx : Nat) : RoundTrip.Statement (.regionInstructionComplete core idx) := by
  intro k h
  cases h

theorem RoundTrip.stackRetrainingDone (stack : Nat) : RoundTrip.Statement (.stackRetrainingDone stack) := by
  intro k h
  cases h

end Sys2Proof.Laws
end

