-- ==== Sys2Proof/Laws/Scalar.lean ====
section
/-! SUPPORT. The scalar operations in the words of R88 and R91: each of the model's functions as the bit-vector operation it
is, and what an instruction of each form gives. -/

namespace Sys2Proof.Machine

variable {s : State} {g rd ra rb : BitVec 6}
theorem aluRR_next (f : Word → Word → Word) (h : Runs s g [rd,ra,rb]) : aluRR g rd ra rb f s = .next (s.wr rd (f (s.rd ra) (s.rd rb))) := by
  unfold aluRR; exact guarded_ready h (fun s => .next (s.wr rd (f (s.rd ra) (s.rd rb))))

theorem aluR_next (f : Word → Word) (h : Runs s g [rd,ra]) : aluR g rd ra f s = .next (s.wr rd (f (s.rd ra))) := by
  unfold aluR; exact guarded_ready h (fun s => .next (s.wr rd (f (s.rd ra))))

theorem aluRR_gives {i : Instr} (f : Word → Word → Word) (x : Word) (h : Runs s g [rd,ra,rb]) (e : exec i s = aluRR g rd ra rb f s) (hx : f (s.rd ra) (s.rd rb) = x) :
    GivesReg i s rd x := ⟨_, by rw [e, aluRR_next f h], by subst hx; exact wr_written ..⟩

theorem aluR_gives {i : Instr} (f : Word → Word) (x : Word) (h : Runs s g [rd,ra]) (e : exec i s = aluR g rd ra f s) (hx : f (s.rd ra) = x) :
    GivesReg i s rd x := ⟨_, by rw [e, aluR_next f h], by subst hx; exact wr_written ..⟩

theorem mulHigh_eq (a b : Word) : mulHigh a b = (a.signExtend 128 * b.signExtend 128).extractLsb' 64 64 := by
  unfold mulHigh
  congr 1
  apply BitVec.eq_of_toInt_eq
  rw [BitVec.toInt_ofInt, BitVec.toInt_mul, BitVec.toInt_signExtend_of_le (by omega), BitVec.toInt_signExtend_of_le (by omega)]

theorem shAmt_eq (b : Word) : shAmt b = (b.extractLsb' 0 6).toNat := by
  simp [shAmt, BitVec.extractLsb'_toNat]

theorem divS_eq (a b : Word) (h : b ≠ 0) : divS a b = a.sdiv b := by
  simp only [divS, h, if_false]
  apply BitVec.eq_of_toInt_eq
  rw [BitVec.toInt_sdiv, BitVec.toInt_ofInt]

theorem remS_eq (a b : Word) (h : b ≠ 0) : remS a b = a.srem b := by
  simp only [remS, h, if_false]
  apply BitVec.eq_of_toInt_eq
  rw [BitVec.toInt_srem, BitVec.toInt_ofInt, Int.bmod_eq_of_le]
  · have h1 := BitVec.toInt_srem a b
    have h2 := BitVec.le_toInt (a.srem b)
    rw [h1] at h2; norm_num at *; omega
  · have h1 := BitVec.toInt_srem a b
    have h2 := BitVec.toInt_lt (x := a.srem b)
    rw [h1] at h2; norm_num at *; omega

theorem divU_eq (a b : Word) (h : b ≠ 0) : divU a b = a.udiv b := by
  simp only [divU, h, if_false]
  apply BitVec.eq_of_toNat_eq
  rw [BitVec.udiv_eq, BitVec.toNat_udiv, BitVec.toNat_ofNat, Nat.mod_eq_of_lt]
  exact lt_of_le_of_lt (Nat.div_le_self ..) a.isLt

theorem remU_eq (a b : Word) (h : b ≠ 0) : remU a b = a.umod b := by
  simp only [remU, h, if_false]
  apply BitVec.eq_of_toNat_eq
  rw [BitVec.umod_eq, BitVec.toNat_umod, BitVec.toNat_ofNat, Nat.mod_eq_of_lt]
  exact lt_of_le_of_lt (Nat.mod_le ..) a.isLt

theorem signedAt_eq (n : Nat) (a : Word) (hn : 0 < n) (h : n ≤ 64) : BitVec.ofInt 64 (signedAt n a.toNat) = (a.extractLsb' 0 n).signExtend 64 := by
  apply BitVec.eq_of_toInt_eq
  rw [BitVec.toInt_ofInt, BitVec.toInt_signExtend_of_le h]
  have e : signedAt n a.toNat = (a.extractLsb' 0 n).toInt := by
    rw [BitVec.toInt_eq_toNat_cond, BitVec.extractLsb'_toNat]
    simp only [signedAt, Nat.shiftRight_zero]
    have : 2 ^ n = 2 * 2 ^ (n-1) := by rw [← pow_succ']; congr 1; omega
    split <;> split <;> first | rfl | omega
  rw [e, Int.bmod_eq_of_le]
  · have h2 := BitVec.le_toInt (a.extractLsb' 0 n)
    have : (2:Int) ^ (n-1) ≤ 2 ^ (64-1) := by apply pow_le_pow_right₀ <;> omega
    norm_num at *; omega
  · have h2 := BitVec.toInt_lt (x := a.extractLsb' 0 n)
    have : (2:Int) ^ (n-1) ≤ 2 ^ (64-1) := by apply pow_le_pow_right₀ <;> omega
    norm_num at *; omega

theorem mod_eq_zeroExtend (n : Nat) (a : Word) : BitVec.ofNat 64 (a.toNat % 2 ^ n) = (a.extractLsb' 0 n).zeroExtend 64 := by
  apply BitVec.eq_of_toNat_eq
  simp [BitVec.extractLsb'_toNat]

theorem min_eq (a b : Word) : (if a.toInt ≤ b.toInt then a else b) = if a.slt b then a else b := by
  simp only [BitVec.slt, decide_eq_true_eq]
  split <;> split <;> first | rfl | skip
  · next h1 h2 => exact BitVec.eq_of_toInt_eq (by omega)
  · next h1 h2 => exact BitVec.eq_of_toInt_eq (by omega)

theorem max_eq (a b : Word) : (if a.toInt ≤ b.toInt then b else a) = if a.slt b then b else a := by
  simp only [BitVec.slt, decide_eq_true_eq]
  split <;> split <;> first | rfl | skip
  · next h1 h2 => exact BitVec.eq_of_toInt_eq (by omega)
  · next h1 h2 => exact BitVec.eq_of_toInt_eq (by omega)

theorem minu_eq (a b : Word) : (if a ≤ b then a else b) = if a.ult b then a else b := by
  simp only [BitVec.ult, decide_eq_true_eq, BitVec.le_def]
  split <;> split <;> first | rfl | skip
  · next h1 h2 => exact BitVec.eq_of_toNat_eq (by omega)
  · next h1 h2 => exact BitVec.eq_of_toNat_eq (by omega)

theorem maxu_eq (a b : Word) : (if a ≤ b then b else a) = if a.ult b then b else a := by
  simp only [BitVec.ult, decide_eq_true_eq, BitVec.le_def]
  split <;> split <;> first | rfl | skip
  · next h1 h2 => exact BitVec.eq_of_toNat_eq (by omega)
  · next h1 h2 => exact BitVec.eq_of_toNat_eq (by omega)

theorem clz_spec (a : Word) : ∃ n, n ≤ 64 ∧ clz a = BitVec.ofNat 64 n ∧ (∀ i, 64 - n ≤ i → a.getLsbD i = false) ∧ (n < 64 → a.getLsbD (63 - n) = true) := by
  by_cases h : a = 0
  · exact ⟨64, le_refl _, by simp [clz, h], by simp [h], by simp⟩
  · have h0 : a.toNat ≠ 0 := fun h' => h (BitVec.eq_of_toNat_eq (by simpa using h'))
    have hl : a.toNat.log2 < 64 := (Nat.log2_lt h0).2 a.isLt
    refine ⟨63 - a.toNat.log2, by omega, by simp only [clz, h, if_false], ?_, ?_⟩
    · intro i hi
      rw [BitVec.getLsbD]
      apply Nat.testBit_lt_two_pow
      exact lt_of_lt_of_le ((Nat.log2_lt h0).1 (Nat.lt_succ_self _)) (Nat.pow_le_pow_right (by omega) (by omega))
    · intro _
      have : 63 - (63 - a.toNat.log2) = a.toNat.log2 := by omega
      rw [this, BitVec.getLsbD]
      exact Nat.testBit_log2 h0

theorem popc_eq (a : Word) : popc a = BitVec.ofNat 64 ((List.finRange 64).filter fun i => a.getLsb i).length := by
  unfold popc
  congr 1
  rw [List.countP_eq_length_filter]
  have : List.range 64 = (List.finRange 64).map Fin.val := by decide
  rw [this, List.filter_map, List.length_map]
  rfl

theorem cmpRR_gives {i : Instr} (f : Word → Word → Bool) (x : Bool) (h : Runs s g [ra,rb]) (e : exec i s = cmpRR g rd ra rb f s) (hx : f (s.rd ra) (s.rd rb) = x) :
    GivesPred i s rd x := ⟨_, by rw [e]; exact guarded_ready h (fun s => .next (s.wrPred rd (f (s.rd ra) (s.rd rb)))), by subst hx; exact wrPred_written ..⟩

theorem cmpR_gives {i : Instr} (f : Word → Bool) (x : Bool) (h : Runs s g [ra]) (e : exec i s = cmpR g rd ra f s) (hx : f (s.rd ra) = x) :
    GivesPred i s rd x := ⟨_, by rw [e]; exact guarded_ready h (fun s => .next (s.wrPred rd (f (s.rd ra)))), by subst hx; exact wrPred_written ..⟩

theorem predOp_gives {i : Instr} (f : State → Bool) (x : Bool) (h : Runs s g []) (e : exec i s = predOp g rd f s) (hx : f s = x) :
    GivesPred i s rd x := ⟨_, by rw [e]; exact guarded_on h.1 _, by subst hx; exact wrPred_written ..⟩

end Sys2Proof.Machine
end

