-- ==== Sys2Proof/Tests/Slice0.lean ====
section
/-! SUPPORT. Tests: ill-formed terms that the checks refuse, words of the spec that decode as it says, single steps on
small states, and for every obligation with hypotheses a witness that meets them. -/

set_option Elab.async false

namespace Sys2Proof.Tests

open Sys2Proof Sys2Proof.Machine

/-! ### Decoding -/

/-- Every listed word pair decodes to its instruction, which is well formed. -/
def decodesAll (xs : List (Kind × Word32 × Word32 × Instr)) : Bool :=
  xs.all fun x => decide (decodePair x.1 x.2.1 x.2.2.1 = some x.2.2.2) && x.2.2.2.wf x.1

/-- Words of the control family, written out field by field from R29 to R38 and the entries. -/
theorem test_decode_control : decodesAll [
    (.c, 0x00500000, 0x00000000, .nop 5),
    (.c, 0x00000001, 0x00000000, .halt 0),
    (.c, 0x00102A56, 0x00000000, .brk 1 0xA95),
    (.m, 0x04000108, 0x00000000, .trap 0 0x042),
    (.v, 0x04300001, 0x00000000, .eret 3),
    (.a, 0x04000012, 0x00000000, .icsync 0 4),
    (.a, 0x0400111F, 0x00000000, .fence 0 0x11 7),
    (.c, 0x08200000, 0xFFFFFFF8, .br 2 0xFFFFFFF8),
    (.c, 0x0807C001, 0x00000040, .call 0 31 0x40),
    (.c, 0x0C000900, 0x00000000, .jr 0 9),
    (.c, 0x0C07CA01, 0x00000000, .callr 0 31 10),
    (.c, 0x0C001F02, 0x00000000, .ret 0 31),
    (.c, 0x10000600, 0x00000005, .loop 0 6 5),
    (.c, 0x1000010D, 0x00000100, .loopi 0 67 0x100),
    (.m, 0x10000702, 0x30000009, .loopp 0 7 3 9),
    (.c, 0x10000013, 0x20000004, .looppi 0 4 2 4)] = true := by decide +kernel

/-- Words of the arithmetic family, written out field by field from R29 to R38 and the entries. -/
theorem test_decode_arithmetic_1 : decodesAll [
    (.a, 0x140061FC, 0x00000000, .add 0 1 33 63),
    (.c, 0x1410A1FD, 0x00000000, .sub 1 2 33 63),
    (.m, 0x1420E1FE, 0x00000000, .mul 2 3 33 63),
    (.v, 0x143121FF, 0x00000000, .mulh 3 4 33 63),
    (.a, 0x180061FC, 0x00000000, .and 0 1 33 63),
    (.c, 0x1810A1FD, 0x00000000, .or 1 2 33 63),
    (.m, 0x1820E1FE, 0x00000000, .xor 2 3 33 63),
    (.v, 0x183121FF, 0x00000000, .andn 3 4 33 63),
    (.a, 0x1C0061FC, 0x00000000, .shl 0 1 33 63),
    (.c, 0x1C10A1FD, 0x00000000, .shr 1 2 33 63),
    (.m, 0x1C20E1FE, 0x00000000, .sar 2 3 33 63),
    (.v, 0x1C3121FF, 0x00000000, .ror 3 4 33 63),
    (.a, 0x2C0061FC, 0x00000000, .min 0 1 33 63),
    (.c, 0x2C10A1FD, 0x00000000, .max 1 2 33 63),
    (.m, 0x2C20E1FE, 0x00000000, .minu 2 3 33 63),
    (.v, 0x2C3121FF, 0x00000000, .maxu 3 4 33 63),
    (.a, 0x300061FC, 0x00000000, .div 0 1 33 63),
    (.c, 0x3010A1FD, 0x00000000, .divu 1 2 33 63),
    (.m, 0x3020E1FE, 0x00000000, .rem 2 3 33 63)] = true := by decide +kernel

/-- Words of the arithmetic family, written out field by field from R29 to R38 and the entries. -/
theorem test_decode_arithmetic_2 : decodesAll [
    (.v, 0x303121FF, 0x00000000, .remu 3 4 33 63),
    (.a, 0x340061FC, 0x00000000, .lea1 0 1 33 63),
    (.c, 0x3410A1FD, 0x00000000, .lea2 1 2 33 63),
    (.m, 0x3420E1FE, 0x00000000, .lea4 2 3 33 63),
    (.v, 0x343121FF, 0x00000000, .lea8 3 4 33 63),
    (.a, 0x20310500, 0xFFFFFFFE, .addi 3 4 5 0xFFFFFFFE),
    (.c, 0x20310501, 0xFFFFFFFD, .andi 3 4 5 0xFFFFFFFD),
    (.m, 0x20310502, 0xFFFFFFFC, .ori 3 4 5 0xFFFFFFFC),
    (.v, 0x20310503, 0xFFFFFFFB, .xori 3 4 5 0xFFFFFFFB),
    (.a, 0x24028000, 0x00001000, .li 0 10 0x1000),
    (.a, 0x24028001, 0x80000000, .lih 0 10 0x80000000),
    (.v, 0x280042F0, 0x00000000, .shli 0 1 2 60),
    (.v, 0x280042F5, 0x00000000, .shri 0 1 2 61),
    (.v, 0x280042FA, 0x00000000, .sari 0 1 2 62),
    (.v, 0x280042FF, 0x00000000, .rori 0 1 2 63),
    (.a, 0x58004208, 0x00000000, .sext 0 1 2 2),
    (.a, 0x58004205, 0x00000000, .zext 0 1 2 1),
    (.a, 0x58004202, 0x00000000, .clz 0 1 2),
    (.a, 0x58004203, 0x00000000, .popc 0 1 2)] = true := by decide +kernel

/-- Words of the predicates and queues family, written out field by field from R29 to R38 and the entries. -/
theorem test_decode_predicates_and_queues : decodesAll [
    (.a, 0x382C0720, 0x00000000, .cmpeq 2 48 7 8),
    (.c, 0x382C4721, 0x00000000, .cmpne 2 49 7 8),
    (.m, 0x382C8722, 0x00000000, .cmplt 2 50 7 8),
    (.v, 0x382CC723, 0x00000000, .cmpltu 2 51 7 8),
    (.a, 0x3C2C0720, 0x00000000, .cmpge 2 48 7 8),
    (.c, 0x3C2C4721, 0x00000000, .cmpgeu 2 49 7 8),
    (.m, 0x3C2C8722, 0x00000000, .tst 2 50 7 8),
    (.a, 0x442C0720, 0x00000000, .pand 2 48 7 8),
    (.c, 0x442C4721, 0x00000000, .por 2 49 7 8),
    (.m, 0x442C8722, 0x00000000, .pxor 2 50 7 8),
    (.v, 0x442CC723, 0x00000000, .pandn 2 51 7 8),
    (.c, 0x40024300, 0xFFFFFFFF, .cmpeqi 0 9 3 0xFFFFFFFF),
    (.c, 0x40024301, 0xFFFFFFFF, .cmplti 0 9 3 0xFFFFFFFF),
    (.c, 0x40024302, 0xFFFFFFFF, .cmpltui 0 9 3 0xFFFFFFFF),
    (.c, 0x40024303, 0xFFFFFFFF, .cmpgei 0 9 3 0xFFFFFFFF),
    (.a, 0x48014600, 0x00000000, .pnot 0 5 6),
    (.a, 0x48014001, 0x00000000, .pset 0 5),
    (.a, 0x48014002, 0x00000000, .pclr 0 5),
    (.a, 0x48014603, 0x00000000, .pmov 0 5 6),
    (.a, 0x4C0C4500, 0x00000000, .qmovPush 0 12 1 5),
    (.c, 0x4C024B01, 0x00000000, .qmovPop 0 9 2 3),
    (.m, 0x4C024D02, 0x00000000, .qpeek 0 9 3 1)] = true := by decide +kernel

/-- Words of the flags and registers family, written out field by field from R29 to R38 and the entries. -/
theorem test_decode_flags_and_registers : decodesAll [
    (.a, 0x50018000, 0x00000000, .finc 0 6 0 0),
    (.a, 0x50018291, 0x00000000, .fset 0 6 2 4 2),
    (.v, 0x5001823A, 0x00000000, .fadd 0 6 2 1 3),
    (.m, 0x500086AB, 0x00000000, .frd 0 2 6 5 1),
    (.c, 0x54050048, 0x00000000, .csrr 0 20 0x012),
    (.c, 0x5400D041, 0x00000000, .csrw 0 0x410 3),
    (.a, 0x5400C00A, 0x00000000, .csrs 0 0x002 3),
    (.v, 0x5400C007, 0x00000000, .csrc 0 0x001 3),
    (.a, 0xFC008104, 0x00000000, .fencex 0 2 1 1)] = true := by decide +kernel

/-- Words of the loads and stores family, written out field by field from R29 to R38 and the entries. -/
theorem test_decode_loads_and_stores_1 : decodesAll [
    (.a, 0x8001C200, 0x00000010, .ld8 0 7 2 0x10),
    (.a, 0x8401C200, 0xFFFFFFFC, .ldz8 0 7 2 0xFFFFFFFC),
    (.a, 0x8800021C, 0x00000018, .st8 0 2 7 0x18),
    (.a, 0x8C048400, 0x01000040, .ldq8 0 4 2 4 1 0x40),
    (.a, 0x980E0400, 0xB0FFFFF8, .rldq8 0 14 0 4 0 0xFFFFF8 1 5),
    (.c, 0x8001C201, 0x00000010, .ld16 0 7 2 0x10),
    (.c, 0x8401C201, 0xFFFFFFFC, .ldz16 0 7 2 0xFFFFFFFC),
    (.c, 0x8800021D, 0x00000018, .st16 0 2 7 0x18),
    (.a, 0x8C048401, 0x01000040, .ldq16 0 4 2 4 1 0x40),
    (.a, 0x980E0401, 0xB0FFFFF8, .rldq16 0 14 0 4 0 0xFFFFF8 1 5),
    (.a, 0x8001C202, 0x00000010, .ld32 0 7 2 0x10),
    (.a, 0x8401C202, 0xFFFFFFFC, .ldz32 0 7 2 0xFFFFFFFC),
    (.a, 0x8800021E, 0x00000018, .st32 0 2 7 0x18),
    (.a, 0x8C048402, 0x01000040, .ldq32 0 4 2 4 1 0x40)] = true := by decide +kernel

/-- Words of the loads and stores family, written out field by field from R29 to R38 and the entries. -/
theorem test_decode_loads_and_stores_2 : decodesAll [
    (.a, 0x980E0402, 0xB0FFFFF8, .rldq32 0 14 0 4 0 0xFFFFF8 1 5),
    (.c, 0x8001C203, 0x00000010, .ld64 0 7 2 0x10),
    (.c, 0x8800021F, 0x00000018, .st64 0 2 7 0x18),
    (.a, 0x8C048403, 0x00000040, .ldq64 0 4 2 4 0 0x40),
    (.a, 0x980E0403, 0xB0FFFFF8, .rldq64 0 14 0 4 0 0xFFFFF8 1 5),
    (.a, 0x9000420C, 0x00006400, .amoAdd 0 1 2 3 1 4 2),
    (.a, 0x9000420D, 0x00006400, .amoSwp 0 1 2 3 1 4 2),
    (.a, 0x9000420E, 0x0000640D, .amoCas 0 1 2 3 1 4 2 13),
    (.a, 0x9000420F, 0x00006400, .amoAnd 0 1 2 3 1 4 2),
    (.a, 0x9400420C, 0x00006400, .amoOr 0 1 2 3 1 4 2),
    (.a, 0x9400420D, 0x00006400, .amoXor 0 1 2 3 1 4 2),
    (.a, 0x9400420E, 0x0000E400, .amoMin 0 1 2 3 1 4 2 1),
    (.a, 0x9400420F, 0x0000E400, .amoMax 0 1 2 3 1 4 2 1)] = true := by decide +kernel

/-- Words of the tensors family, written out field by field from R29 to R38 and the entries. -/
theorem test_decode_tensors : decodesAll [
    (.a, 0x9C000900, 0x00000000, .laydef 0 9),
    (.a, 0x9C000901, 0x00000000, .layinv 0 9),
    (.a, 0xA0014600, 0x00003FF8, .pin 0 5 6 3 255 2),
    (.a, 0xA0000601, 0x00003FF8, .unpin 0 6 3 255 2),
    (.a, 0xA0000602, 0x00003FF8, .lastuse 0 6 3 255 2),
    (.a, 0xA0000603, 0x00003FF8, .stream 0 6 3 255 2),
    (.a, 0xA4000300, 0x0000F21C, .pfit 0 3 15 2 1 3),
    (.a, 0xA4000001, 0x00000020, .pfitcan 0 2),
    (.a, 0xA801C108, 0x0C0C3700, .copy 0 7 1 2 3 1 33 5 6),
    (.a, 0xA801C109, 0x0C4C3700, .copyt 0 7 1 2 3 1 33 5 6 4),
    (.a, 0xAC004400, 0x00002090, .vrel 0 1 4 2 9),
    (.a, 0xB000C108, 0x26000000, .promote 0 3 1 2 9 1),
    (.a, 0xB4004300, 0x10540000, .kvapp 0 1 3 4 5 64)] = true := by decide +kernel

/-- Words of the engine commands family, written out field by field from R29 to R38 and the entries. -/
theorem test_decode_engine_commands : decodesAll [
    (.a, 0xC0000400, 0x00092800, .selTopk 0 ⟨0, 4, 1, 9, 2⟩),
    (.a, 0xC0000501, 0x00094800, .selSeg 0 ⟨0, 5, 1, 10, 2⟩),
    (.a, 0xC4004400, 0x00092800, .unmSetup 0 ⟨1, 4, 1, 9, 2⟩),
    (.a, 0xC4004501, 0x00094800, .unmReg 0 ⟨1, 5, 1, 10, 2⟩),
    (.a, 0xC4004602, 0x00096800, .unmRound 0 ⟨1, 6, 1, 11, 2⟩),
    (.a, 0xC4004703, 0x00098800, .unmFree 0 ⟨1, 7, 1, 12, 2⟩),
    (.a, 0xC8008400, 0x00092800, .rteSetup 0 ⟨2, 4, 1, 9, 2⟩),
    (.a, 0xC8008501, 0x00094800, .rteCount 0 ⟨2, 5, 1, 10, 2⟩),
    (.a, 0xC8008602, 0x00096800, .rtePlace 0 ⟨2, 6, 1, 11, 2⟩),
    (.a, 0xC8008703, 0x00098800, .rteScatter 0 ⟨2, 7, 1, 12, 2⟩),
    (.a, 0xCC00C400, 0x00092800, .rteGather 0 ⟨3, 4, 1, 9, 2⟩),
    (.a, 0xD0010400, 0x00092800, .collAr 0 ⟨4, 4, 1, 9, 2⟩),
    (.a, 0xD0010501, 0x00094800, .collAg 0 ⟨4, 5, 1, 10, 2⟩),
    (.a, 0xD0010602, 0x00096800, .collRs 0 ⟨4, 6, 1, 11, 2⟩),
    (.a, 0xD0010703, 0x00098800, .collBc 0 ⟨4, 7, 1, 12, 2⟩),
    (.a, 0xD4014400, 0x00092800, .collA2a 0 ⟨5, 4, 1, 9, 2⟩)] = true := by decide +kernel

/-- Words of the control strand family, written out field by field from R29 to R38 and the entries. -/
theorem test_decode_control_strand : decodesAll [
    (.c, 0x8C000500, 0x00000000, .fpush 0 5),
    (.c, 0x8C000001, 0x00000000, .fqclose 0),
    (.c, 0x90000108, 0x00000000, .renq 0 1 2),
    (.c, 0x9401C280, 0x00000000, .gbar 0 7 2 4),
    (.c, 0x94000201, 0x00000000, .gleave 0 2),
    (.c, 0x94000202, 0x00000000, .gjoin 0 2),
    (.c, 0x9401C20F, 0x00000000, .gcast 0 7 2 3),
    (.c, 0x98004200, 0x00000000, .prack 0 1 2),
    (.c, 0x980002FD, 0x00000000, .hostirq 0 2 63)] = true := by decide +kernel

/-- Words of the matrix family, written out field by field from R29 to R38 and the entries. -/
theorem test_decode_matrix : decodesAll [
    (.m, 0x8004310D, 0x20040400, .cube 0 ⟨1, 3, 2, 3, 1, 4, 0, 64, 1⟩),
    (.m, 0x840BFF86, 0x2E1FF800, .mma 0 ⟨2, 63, 31, 1, 2, 5, 48, 511, 2⟩),
    (.m, 0x8800C400, 0x4EE40000, .ald 0 3 4 2 3 1 0 1 200),
    (.m, 0x88001001, 0x01000000, .ast 0 0 16 0 0 0 1 0 0),
    (.m, 0x8C00C000, 0x14000000, .aclr 0 3 5),
    (.m, 0x8C00C401, 0xEA400000, .acvt 0 3 4 7 2 4 1),
    (.m, 0x8C00C402, 0x04000000, .acopy 0 3 4 1),
    (.m, 0x8C00C403, 0x18000000, .atrn 0 3 4 6)] = true := by decide +kernel

/-- Words of the vector family, written out field by field from R29 to R38 and the entries. -/
theorem test_decode_vector_1 : decodesAll [
    (.v, 0x80000A04, 0x20A32400, .vadd 0 ⟨0x5, 0, 0, 1, 0x105, 0xC9, 0x0⟩),
    (.v, 0x80000A0D, 0x20A32400, .vsub 0 ⟨0x5, 0, 1, 1, 0x105, 0xC9, 0x0⟩),
    (.v, 0x80000A16, 0x20A32400, .vmul 0 ⟨0x5, 0, 2, 1, 0x105, 0xC9, 0x0⟩),
    (.v, 0x80000A1F, 0x20A32400, .vfma 0 ⟨0x5, 0, 3, 1, 0x105, 0xC9, 0x0⟩),
    (.v, 0x84000A80, 0x20A32400, .vmin 0 ⟨0x5, 2, 0, 0, 0x105, 0xC9, 0x0⟩),
    (.v, 0x84000BC1, 0x20A32400, .vmax 0 ⟨0x5, 7, 0, 0, 0x105, 0xC9, 0x0⟩),
    (.v, 0x84000A42, 0x20A00001, .vabs 0 ⟨0x5, 1, 0, 0, 0x105, 0x0, 0x1⟩),
    (.v, 0x84000A03, 0x20A00000, .vneg 0 ⟨0x5, 0, 0, 0, 0x105, 0x0, 0x0⟩),
    (.v, 0x88000B40, 0x20A32400, .vand 0 ⟨0x5, 5, 0, 0, 0x105, 0xC9, 0x0⟩),
    (.v, 0x88000B81, 0x20A32400, .vor 0 ⟨0x5, 6, 0, 0, 0x105, 0xC9, 0x0⟩),
    (.v, 0x88000BC2, 0x20A32400, .vxor 0 ⟨0x5, 7, 0, 0, 0x105, 0xC9, 0x0⟩),
    (.v, 0x88000B43, 0x20A00000, .vnot 0 ⟨0x5, 5, 0, 0, 0x105, 0x0, 0x0⟩),
    (.v, 0x8C000B00, 0x20A32400, .vshl 0 ⟨0x5, 4, 0, 0, 0x105, 0xC9, 0x0⟩),
    (.v, 0x8C000B01, 0x20A32400, .vshr 0 ⟨0x5, 4, 0, 0, 0x105, 0xC9, 0x0⟩),
    (.v, 0x8C000B02, 0x20A32400, .vsar 0 ⟨0x5, 4, 0, 0, 0x105, 0xC9, 0x0⟩),
    (.v, 0x90000AC0, 0x20A32400, .vcmpeq 0 ⟨0x5, 3, 0, 0, 0x105, 0xC9, 0x0⟩),
    (.v, 0x90000AC1, 0x20A32400, .vcmplt 0 ⟨0x5, 3, 0, 0, 0x105, 0xC9, 0x0⟩),
    (.v, 0x90000AC2, 0x20A32400, .vcmple 0 ⟨0x5, 3, 0, 0, 0x105, 0xC9, 0x0⟩),
    (.v, 0x90000A03, 0x20A32551, .vsel 0 ⟨0x5, 0, 0, 0, 0x105, 0xC9, 0x151⟩),
    (.v, 0x94000A08, 0x20A002F0, .vcvt 0 ⟨0x5, 0, 1, 0, 0x105, 0x0, 0x2F0⟩),
    (.v, 0x94000A21, 0x20A00000, .vrndi 0 ⟨0x5, 0, 4, 0, 0x105, 0x0, 0x0⟩)] = true := by decide +kernel

/-- Words of the vector family, written out field by field from R29 to R38 and the entries. -/
theorem test_decode_vector_2 : decodesAll [
    (.v, 0x98000A10, 0x20A0003F, .vrsum 0 ⟨0x5, 0, 2, 0, 0x105, 0x0, 0x3F⟩),
    (.v, 0x98000B01, 0x20A0007F, .vrmax 0 ⟨0x5, 4, 0, 0, 0x105, 0x0, 0x7F⟩),
    (.v, 0x98000B02, 0x20A0007F, .vrmin 0 ⟨0x5, 4, 0, 0, 0x105, 0x0, 0x7F⟩),
    (.v, 0x98000B03, 0x20A0007F, .vrargmax 0 ⟨0x5, 4, 0, 0, 0x105, 0x0, 0x7F⟩),
    (.v, 0x9C000A04, 0x20A00000, .vexp2 0 ⟨0x5, 0, 0, 1, 0x105, 0x0, 0x0⟩),
    (.v, 0x9C000A05, 0x20A00000, .vlog2 0 ⟨0x5, 0, 0, 1, 0x105, 0x0, 0x0⟩),
    (.v, 0x9C000A06, 0x20A00000, .vrcp 0 ⟨0x5, 0, 0, 1, 0x105, 0x0, 0x0⟩),
    (.v, 0x9C000A07, 0x20A00000, .vrsq 0 ⟨0x5, 0, 0, 1, 0x105, 0x0, 0x0⟩),
    (.v, 0xA0000A80, 0x20A00000, .vtanh 0 ⟨0x5, 2, 0, 0, 0x105, 0x0, 0x0⟩),
    (.v, 0xA4000B80, 0x20A00000, .vmov 0 ⟨0x5, 6, 0, 0, 0x105, 0x0, 0x0⟩),
    (.v, 0xA4000A01, 0x622C4800, .vperm 0 ⟨0x5, 0, 0, 0, 0x311, 0x312, 0x0⟩),
    (.v, 0xA4000A02, 0x20A0003F, .vrot 0 ⟨0x5, 0, 0, 0, 0x105, 0x0, 0x3F⟩),
    (.v, 0xA8007840, 0x18230BC7, .vrng 0 ⟨0x3C, 1, 0, 0, 0xC1, 0xC2, 0x3C7⟩),
    (.v, 0xAC000A00, 0x2028093D, .vdistIp 0 ⟨0x5, 0, 0, 0, 0x101, 0x202, 0x13D⟩),
    (.v, 0xAC000A41, 0x20280A03, .vdistL2 0 ⟨0x5, 1, 0, 0, 0x101, 0x202, 0x203⟩),
    (.v, 0xAC000A42, 0x20280B80, .vdistHam 0 ⟨0x5, 1, 0, 0, 0x101, 0x202, 0x380⟩),
    (.v, 0xB0000BC0, 0x18631000, .vlmask 0 ⟨0x5, 7, 0, 0, 0xC3, 0xC4, 0x0⟩),
    (.v, 0xB0000A19, 0x18600000, .viota 0 ⟨0x5, 0, 3, 0, 0xC3, 0x0, 0x0⟩),
    (.v, 0xB4000000, 0x68A32448, .vmovs 0 ⟨0x0, 0, 0, 0, 0x345, 0xC9, 0x48⟩),
    (.v, 0xB4068A01, 0x18230800, .vins 0 ⟨0x345, 0, 0, 0, 0xC1, 0xC2, 0x0⟩)] = true := by decide +kernel

/-! ### Ill-formed terms -/

/-- No listed instruction is well formed for its strand. -/
def refusesAll (xs : List (Kind × Instr)) : Bool := xs.all fun x => !x.2.wf x.1

/-- The zero masks, short bodies and width codes of R81, R87 and R104. -/
theorem test_wf_shared : refusesAll [
    (.c, .fence 0 0 4), (.a, .fencex 0 0 1 4), (.a, .fencex 0 1 0 4), (.c, .loop 0 6 1), (.c, .loopi 0 5 0),
    (.c, .loopp 0 6 3 1), (.c, .looppi 0 5 3 1), (.a, .sext 0 1 2 3), (.a, .zext 0 1 2 63)] = true := by decide +kernel

/-- Queues to oneself, ordering without a scope, unknown and unwritable registers (R12, R92, R97). -/
theorem test_wf_queues_flags : refusesAll [
    (.a, .qmovPush 0 0 0 5), (.a, .qmovPush 0 1 0 5), (.c, .qmovPop 0 9 1 0), (.v, .qpeek 0 9 3 0), (.a, .finc 0 6 4 0),
    (.a, .fset 0 6 2 4 0), (.a, .fadd 0 6 2 4 0), (.a, .frd 0 2 6 4 0), (.a, .frd 0 2 6 4 2), (.a, .csrr 0 1 0x003),
    (.a, .csrw 0 0x000 1), (.a, .csrs 0 0x140 1), (.c, .csrc 0 0x130 1)] = true := by decide +kernel

/-- Empty or own consumer masks, a zero-extended 64-bit load, a scope without an acquire or an order (R156, R158). -/
theorem test_wf_accesses : refusesAll [
    (.a, .ldq8 0 0 2 4 0 0), (.a, .ldq16 0 1 2 4 0 0), (.a, .ldq32 0 3 2 4 0 0), (.a, .ldq64 0 4 2 4 1 0),
    (.a, .rldq8 0 4 2 4 0 0 0 1), (.a, .rldq16 0 0 2 4 0 0 1 1), (.a, .rldq32 0 1 2 4 0 0 1 1), (.a, .rldq64 0 4 2 4 1 0 1 1),
    (.a, .amoAdd 0 1 2 3 1 4 0), (.a, .amoSwp 0 1 2 3 1 4 0), (.a, .amoCas 0 1 2 3 1 4 0 5), (.a, .amoAnd 0 1 2 3 1 4 0),
    (.a, .amoOr 0 1 2 3 1 4 0), (.a, .amoXor 0 1 2 3 1 4 0), (.a, .amoMin 0 1 2 3 1 4 0 1), (.a, .amoMax 0 1 2 3 1 4 0 1)] =
    true := by decide +kernel

/-- Odd pairs, the level 0, a flag without `fe` (R152, R162, R166, R299). -/
theorem test_wf_tensors : refusesAll [
    (.a, .pin 0 5 7 0 0 1), (.a, .pin 0 5 6 0 0 0), (.a, .unpin 0 7 0 0 1), (.a, .lastuse 0 6 0 0 0), (.a, .stream 0 7 0 0 1),
    (.a, .pfit 0 3 0 0 0 0), (.a, .copy 0 1 2 3 4 0 5 0 0), (.a, .copyt 0 1 2 3 4 0 5 0 0 6), (.a, .vrel 0 1 5 0 0),
    (.a, .selTopk 0 ⟨3, 4, 0, 9, 0⟩), (.a, .unmSetup 0 ⟨3, 4, 0, 0, 2⟩), (.a, .rteCount 0 ⟨3, 4, 0, 1, 0⟩),
    (.a, .collAr 0 ⟨3, 4, 0, 0, 1⟩)] = true := by decide +kernel

/-- The reserved values of R33, R201 and R205. -/
theorem test_wf_matrix : refusesAll [
    (.m, .cube 0 ⟨3, 3, 2, 3, 1, 4, 0, 64, 1⟩), (.m, .cube 0 ⟨1, 3, 2, 3, 3, 4, 0, 64, 1⟩), (.m, .cube 0 ⟨1, 3, 2, 3, 1, 4, 0, 64, 3⟩),
    (.m, .cube 0 ⟨1, 3, 0, 3, 1, 4, 0, 64, 1⟩), (.m, .mma 0 ⟨1, 3, 2, 0, 1, 4, 0, 64, 1⟩), (.m, .mma 0 ⟨1, 3, 2, 3, 0, 4, 0, 64, 1⟩),
    (.m, .mma 0 ⟨1, 3, 2, 3, 1, 0, 0, 64, 1⟩), (.m, .ald 0 3 5 0 0 0 0 0 0), (.m, .ald 0 3 4 0 5 0 0 0 0), (.m, .ast 0 3 4 0 0 0 0 0 1),
    (.m, .acvt 0 3 4 0 0 5 0)] = true := by decide +kernel

/-- The views, operands, roundings and extensions that R31, R32 and R211 to R229 refuse. -/
theorem test_wf_vector : refusesAll [
    (.v, .vadd 0 ⟨5, 5, 0, 0, 0x105, 0x106, 0⟩), (.v, .vadd 0 ⟨5, 0, 5, 0, 0x105, 0x106, 0⟩), (.v, .vadd 0 ⟨5, 1, 1, 0, 0x105, 0x106, 0⟩),
    (.v, .vadd 0 ⟨5, 0, 0, 0, 0x105, 0x106, 1⟩), (.v, .vadd 0 ⟨5, 1, 0, 0, 0x105, 0x106, 2⟩), (.v, .vadd 0 ⟨0xC5, 0, 0, 0, 0x105, 0x106, 0⟩),
    (.v, .vadd 0 ⟨5, 0, 0, 0, 0x1C5, 0x106, 0⟩), (.v, .vadd 0 ⟨5, 2, 0, 0, 0x145, 0x106, 0⟩), (.v, .vadd 0 ⟨5, 2, 0, 0, 0x185, 0x106, 0⟩),
    (.v, .vabs 0 ⟨5, 0, 0, 0, 0x105, 1, 0⟩), (.v, .vmin 0 ⟨5, 0, 0, 1, 0x105, 0x106, 0⟩), (.v, .vand 0 ⟨5, 0, 0, 0, 0x105, 0x106, 1⟩),
    (.v, .vnot 0 ⟨5, 0, 0, 0, 0x105, 1, 0⟩), (.v, .vshl 0 ⟨5, 0, 0, 0, 0x105, 0x106, 0⟩), (.v, .vsel 0 ⟨0x45, 2, 0, 0, 0x146, 0x147, 0⟩),
    (.v, .vcvt 0 ⟨5, 5, 0, 0, 0x105, 0, 0⟩), (.v, .vcvt 0 ⟨5, 0, 0, 0, 0x105, 0, 0x130⟩), (.v, .vrndi 0 ⟨5, 5, 0, 0, 0x105, 0, 0⟩),
    (.v, .vrsum 0 ⟨5, 0, 0, 0, 0x105, 0, 64⟩), (.v, .vrmax 0 ⟨5, 0, 1, 0, 0x105, 0, 0⟩), (.v, .vexp2 0 ⟨5, 0, 1, 0, 0x105, 0, 0⟩),
    (.v, .vperm 0 ⟨5, 0, 0, 0, 0x105, 0x106, 1⟩), (.v, .vrot 0 ⟨5, 0, 0, 0, 0x105, 0, 64⟩), (.v, .vrng 0 ⟨61, 1, 0, 0, 0xC1, 0xC2, 0⟩),
    (.v, .vrng 0 ⟨60, 0, 0, 0, 0xC1, 0xC2, 0⟩), (.v, .vdistIp 0 ⟨5, 0, 0, 0, 0x101, 0x202, 0xBF⟩), (.v, .vdistL2 0 ⟨5, 1, 0, 0, 0x101, 0x202, 0x80⟩),
    (.v, .vdistHam 0 ⟨5, 0, 0, 0, 0x101, 0x202, 0x380⟩), (.v, .vlmask 0 ⟨5, 0, 0, 0, 0x101, 0xC2, 0⟩), (.v, .viota 0 ⟨5, 0, 0, 0, 0xC1, 1, 0⟩),
    (.v, .vmovs 0 ⟨1, 0, 0, 0, 0x105, 0xC9, 8⟩), (.v, .vins 0 ⟨5, 0, 0, 0, 0xC1, 0xC2, 1⟩)] = true := by decide +kernel

/-- The spec's own refused word (R40), a reserved bit, an unassigned opcode and a dash of the maps (R34, R39). -/
theorem test_refused_words :
    decodeLegal .m 1 0x8004_310F 0x2004_0400 = .error (.illegal 1 0x8004_310F) ∧
    decodeLegal .c 1 0x0000_0004 0 = .error (.illegal 1 4) ∧ decodeLegal .a 2 0x5C00_0000 0 = .error (.illegal 2 0x5C00_0000) ∧
    decodeLegal .v 1 0x0000_0003 0 = .error (.illegal 1 3) ∧ decodeLegal .c 1 0x9C00_0000 0 = .error (.illegal 1 0x9C00_0000) := by
  decide +kernel

/-- The bundle of R40's example: its header's fields, and its two instructions. -/
theorem test_bundle :
    decodeBytes .a [1, 3, 0x8A, 0x80, 0, 4, 0x31, 0x20, 0x40, 0, 0, 0, 0, 0x80, 1, 0x50] =
      .ok ⟨{ len := 2, sync := 0, jtag := 0, we := 1, wflag := 5, wcond := 0, wval := 3, tokmask := 1 },
        [(1, .addi 3 4 4 64), (3, .finc 0 6 0 0)]⟩ := by decide +kernel

/-- A second write of one register in a bundle is its later instruction's error (R16, R40). -/
theorem test_bundle_clash :
    decodeBundle .a 0x4000_0000#32 [0x1400_8000, 0x1400_8000] = .error (.illegal 2 0x1400_8000) := by decide +kernel

/-! ### Small states -/

/-- Whether a step goes on. -/
def isNext : Out → Bool
  | .next _ => true
  | .fault _ => false
  | .refused _ => false

theorem exists_next {o : Out} (h : isNext o = true) : ∃ t, o = .next t := by
  cases o <;> first | exact ⟨_, rfl⟩ | cases h

/-- A running strand with a handler and some registers. -/
def strandWith (regs : Tab Word) : Strand :=
  { mode := .running, pc := 0x4000, trapvec := 0x8000, regs := regs, preds := 0x30 }

/-- A core whose four strands hold the same registers. -/
def coreWith (regs : Tab Word) : Core :=
  let st := strandWith regs
  { a := st, c := st, m := st, v := st, ctx := 1, task := some 1 }

/-- A cluster whose TLB maps the low addresses of context 1 onto themselves, readable, writable and executable. -/
def mapped : Cluster := { tlb := [{ ctx := 1, va := 0, bits := 38, leaf := 0x1F }] }

/-- A bundle of one word at 0x4000 in issue on a strand of core 0, which runs the one task of context 1. -/
def stOf (k : Kind) (c : Core) : State :=
  { State.reset with
    cores := [(0, c)], clusters := [(0, mapped)], now := 100, nextId := 5,
    ctxs := [placeCtx], launches := [placeLaunch 0], tasks := [placeTask 1 0],
    issue := { core := 0, kind := k, base := 0x4000, words := 1, pos := 1, pre := c } }

/-- Registers with the corner values: the least number, -1, addresses and small numbers. -/
def regsA : Tab Word :=
  [(1, 0x1000), (2, 0x8000_0000_0000_0000), (3, 0xFFFF_FFFF_FFFF_FFFF), (4, 0x4002), (5, 7), (6, 0x4_0000_0000_0000_00)]

/-- The A strand in issue with those registers. -/
def sA : State := stOf .a (coreWith regsA)

theorem wit_ScalarResults :
    Runs sA 0 [1, 2, 3] ∧ Runs sA 5 [0, 63, 32] ∧ sA.rd 3 ≠ 0 ∧ Runs sA 0 [1, 2] ∧ Runs sA 4 [0] := by
  unfold Runs; decide +kernel

theorem wit_DivisionCorners :
    Runs sA 0 [1, 2, 3] ∧ sA.rd 2 = BitVec.intMin 64 ∧ sA.rd 3 = -1 ∧ Runs sA 0 [1, 2, 0] ∧ sA.rd 0 = 0 := by
  unfold Runs; decide +kernel

theorem wit_PredicateResults : Runs sA 0 [2, 3] ∧ Runs sA 5 [2] ∧ Runs sA 0 [] := by unfold Runs; decide +kernel

theorem wit_GuardOffNoEffect :
    encode (.addi 3 4 4 64) = [0x2031_0400, 0x40] ∧ sA.rdPred (fGuard 0x2031_0400) = false := by decide +kernel

/-- An active plain level, as R82 lays it out. -/
def level (start stop count : Word) (pipe : Bool) : LoopLevel :=
  { start := start, endReg := 0x8000_0000_0000_0000 ||| (if pipe then 0x4200_0000_0000_0000 else 0) ||| stop, count := count }

/-- Each clause: a good offset and register, a misaligned target, and one above bit 51. -/
theorem wit_TransferResults :
    Runs sA 0 [] ∧ Runs sA 0 [31] ∧ Runs sA 0 [1] ∧ Runs sA 0 [31, 1] ∧
    pcOk (sA.issue.base + (0x40 : BitVec 32).signExtend 64) = true ∧ pcOk (sA.rd 1) = true ∧
    (sA.issue.base + (2 : BitVec 32).signExtend 64).extractLsb' 0 2 ≠ 0 ∧
    pcOk (sA.issue.base + (2 : BitVec 32).signExtend 64) = false ∧
    (sA.issue.base + (0xFFFF_0000 : BitVec 32).signExtend 64).extractLsb' 0 2 = 0 ∧
    pcOk (sA.issue.base + (0xFFFF_0000 : BitVec 32).signExtend 64) = false ∧
    (sA.rd 4).extractLsb' 0 2 ≠ 0 ∧ pcOk (sA.rd 4) = false ∧ (sA.rd 2).extractLsb' 0 2 = 0 ∧ pcOk (sA.rd 2) = false ∧
    HasHandler sA ∧ insideLoop sA.issue.base sA.pre = false ∧
    (let s := stOf .a { coreWith regsA with a := { strandWith regsA with loops := [(0, level 0x4000 0x5000 9 false)] } }
     Runs s 0 [1] ∧ insideLoop s.issue.base s.pre = true ∧ pcOk (s.rd 1) = true) := by
  unfold Runs HasHandler; decide +kernel

/-- Two levels, the inner one a pipelined one. -/
def twoLoops : Strand := { strandWith [] with loops := [(0, level 0x4000 0x5000 9 false), (1, level 0x4100 0x4200 3 true)] }

/-- Level 1 is left by a jump to 0x4800, level 0 is not. -/
theorem wit_LoopsLeft :
    let out := fun m => ¬((twoLoops.loop m).start ≤ (0x4800 : Word) ∧ (0x4800 : Word) < (twoLoops.loop m).endAddr)
    (1 < twoLoops.loopDepth ∧ ∀ m, 1 ≤ m → m < twoLoops.loopDepth → out m) ∧
    ¬(0 < twoLoops.loopDepth ∧ ∀ m, 0 ≤ m → m < twoLoops.loopDepth → out m) := by
  refine ⟨⟨by decide +kernel, fun m h1 h2 => ?_⟩, fun h => h.2 0 (by decide) (by decide +kernel) (by decide +kernel)⟩
  have e : twoLoops.loopDepth = 2 := by decide +kernel
  have : m = 1 := by omega
  subst this; decide +kernel

/-- A strand with all four levels in use. -/
def fourLoops : Strand :=
  { strandWith regsA with loops := (List.range 4).map fun m => (m, level 0x4000 0x5000 1 false) }

theorem wit_LoopSetup :
    Runs sA 0 [1] ∧ Runs sA 0 [] ∧ (sA.rd 1).toNat ≠ 0 ∧ Runs sA 0 [0] ∧ (sA.rd 0).toNat = 0 ∧ sA.pre.loopDepth < 4 ∧
    (let s := stOf .c { coreWith regsA with c := fourLoops }
     s.pre.loopDepth = 4 ∧ Runs s 0 [1] ∧ s.rd 1 ≠ 0 ∧ Runs s 0 [] ∧ (3 : BitVec 12) ≠ 0 ∧ HasHandler s) := by
  unfold Runs HasHandler; decide +kernel

/-- The pipelined inner level goes on, at its last iteration it ends, a plain level goes on, and a bundle elsewhere passes. -/
theorem wit_LoopBack :
    let ends := { twoLoops with loops := [(0, level 0x4000 0x5000 9 false), (1, level 0x4100 0x4200 0 true)] }
    let plain := { twoLoops with loops := [(0, level 0x4000 0x5000 9 false)] }
    let here := fun (st : Strand) (d : Nat) (b n : Word) =>
      (st.loop d).start ≤ b ∧ b < (st.loop d).endAddr ∧ n = (st.loop d).endAddr
    twoLoops.loopDepth = 1 + 1 ∧ here twoLoops 1 0x41F8 0x4200 ∧ (twoLoops.loop 1).count ≠ 0 ∧ (twoLoops.loop 1).pipe = true ∧
    ends.loopDepth = 1 + 1 ∧ here ends 1 0x41F8 0x4200 ∧ (ends.loop 1).count = 0 ∧
    plain.loopDepth = 0 + 1 ∧ here plain 0 0x4FF8 0x5000 ∧ (plain.loop 0).count ≠ 0 ∧ (plain.loop 0).pipe = false ∧
    ¬here twoLoops 1 0x4100 0x4108 := by decide +kernel

theorem wit_TrapEntryAndReturn :
    let st := fun (s : State) => (s.core 0).strand .a
    let inside := stOf .a { coreWith [] with a := { strandWith [] with mode := .trapped } }
    let bare := stOf .a { coreWith [] with a := { strandWith [] with trapvec := 0 } }
    (15 < 64 ∧ 4 < 8) ∧ ((st sA).mode ≠ .trapped ∧ (st sA).trapvec ≠ 0) ∧ (st inside).mode = .trapped ∧
    ((st bare).mode ≠ .trapped ∧ (st bare).trapvec = 0) := by decide +kernel

theorem wit_TrapInstructions :
    let inside := stOf .c { coreWith [] with c := { strandWith [] with mode := .trapped, epc := 0x4444 } }
    Runs sA 0 [] ∧ debugBreaks sA = false ∧ HasHandler sA ∧ sA.pre.trapvec ≠ 0 ∧ sA.pre.mode ≠ .trapped ∧ Runs inside 0 [] ∧
    inside.pre.mode = .trapped := by
  unfold Runs HasHandler; decide +kernel

theorem wit_EncodeDecode :
    ∀ i ∈ ([.addi 3 4 4 64, .finc 0 6 0 0, .ld64 0 7 2 16] : List Instr), Kind.a ∈ i.kinds ∧ i.wf .a = true := by decide +kernel

/-- Core 0's A strand about to issue the one bundle of `ADDI s4, s4, 64` or of an illegal word at 0x4000. -/
def fetching (words : List Word32) : State :=
  { stOf .a (coreWith [(4, 5)]) with
    issue := {}, mem := writeBytes [] 0x4000 (words.flatMap bytesOfWord), agenda := [.issue 0 1 0] }

/-- A header and the words after it fetched, with something that then holds of the strand. -/
theorem bundle_of {s : State} {n va m : Nat} {st : Strand} {hdr : Word32} {ws : List Word32} {p : Strand → Bool}
    (h : (match fetchWord s n st va with
      | .ok x st1 => x == hdr &&
        (let r := fetchWords s n (va + 4) m st1
         r.words == ws && r.bad.isNone && p r.st)
      | _ => false) = true) :
    ∃ st1 st2, fetchWord s n st va = .ok hdr st1 ∧ fetchWords s n (va + 4) m st1 = ⟨ws, st2, none⟩ ∧ p st2 = true := by
  split at h
  · next x st1 e =>
    simp only [Bool.and_eq_true, beq_iff_eq, Option.isNone_iff_eq_none] at h
    obtain ⟨hx, ⟨h1, h2⟩, h3⟩ := h
    refine ⟨st1, (fetchWords s n (va + 4) m st1).st, by rw [e, hx], ?_, h3⟩
    rw [← h1, ← h2]
  · cases h

/-- An instruction that goes on to a state of which something holds. -/
theorem next_of {o : Out} {p : State → Bool} (h : (match o with | .next t => p t | _ => false) = true) :
    ∃ t, o = .next t ∧ p t = true := by
  cases o with
  | next t => exact ⟨t, rfl, h⟩
  | fault f => cases h
  | refused r => cases h

theorem wit_StepRunsDecoded :
    let s := fetching [0x4000_0000, 0x2001_0400, 0x40]
    let i : Instr := .addi 0 4 4 64
    let s1 := openCycle { s with agenda := [] } 0 (BitVec.ofNat 4 (2 ^ Kind.a.code)) 0
    let st := (s1.core 0).strand .a
    let h := decodeHeader 0x4000_0000
    let opened := fun (st2 : Strand) => (openBundle (s1.modStrand 0 .a fun x => { x with icache := st2.icache }) (s1.core 0) 0 .a
      ⟨h, [(1, i)]⟩).atPos 1
    (st.icache = [] ∧ translate s1 (coreCluster 0) (s1.core 0).ctx 0x4000 .fetch = .ok 0x4000 0x1F 38 ∧ s1.hist = [] ∧
      s1.poison = [] ∧ (s1.core 0).stores = [] ∧ unreachable s1 0x4000 = false ∧ unreachable s1 (0x4000 / 64 * 64) = false) ∧
    (s.agenda = .issue 0 (BitVec.ofNat 4 (2 ^ Kind.a.code)) 0 :: [] ∧ mayIssue s1 0 .a = true ∧ traceStall s1 0 .a = false ∧
      decodeBundle .a 0x4000_0000 [0x2001_0400, 0x40] = .ok ⟨h, [(1, i)]⟩ ∧ h.sync = 0 ∧ h.we = 0 ∧ h.tokmask = 0 ∧
      s1.ctx? (s1.core 0).ctx = some placeCtx ∧ breakpointAt placeCtx .a st.pc = false) ∧
    ∃ st1 st2, fetchWord s1 0 st st.pc.toNat = .ok 0x4000_0000 st1 ∧
      fetchWords s1 0 (st.pc.toNat + 4) h.words st1 = ⟨[0x2001_0400, 0x40], st2, none⟩ ∧
      ∃ t, exec i (opened st2) = .next t ∧ (t.issue.verdict == .performing && !t.issue.paused) = true := by
  intro s i s1 st h opened
  refine ⟨by decide +kernel, by decide +kernel, ?_⟩
  obtain ⟨st1, st2, h1, h2, h3⟩ := bundle_of (s := s1) (n := 0) (va := st.pc.toNat) (m := h.words) (st := st) (hdr := 0x4000_0000)
    (ws := [0x2001_0400, 0x40])
    (p := fun st2 => match exec i (opened st2) with
      | .next t => t.issue.verdict == .performing && !t.issue.paused
      | _ => false) (by decide +kernel)
  exact ⟨st1, st2, h1, h2, next_of h3⟩

/-- The A strand at a bundle whose one word is illegal, and at the last word of a mapped page of which the next is not mapped,
behind an illegal word; and a header with a reserved bit set. -/
theorem wit_IllegalBundleTraps :
    let s := fetching [0x0000_0000, 0x5C00_0000]
    let st := (s.core 0).strand .a
    let edge := fun (pc : Word) => { (fetching []) with
      cores := [(0, { coreWith [] with a := { strandWith [] with pc := pc } })], mem := writeBytes [] 0x3FF8 ([0x4000_0000,
        0x5C00_0000].flatMap bytesOfWord), clusters := [(0, { tlb := [{ ctx := 1, va := 0, bits := 14, leaf := 0x1F }] })] }
    let u := edge 0x3FF8
    let su := (u.core 0).strand .a
    (traceStall s 0 .a = false ∧ headerOk (decodeHeader 0) = true ∧ headerOk (decodeHeader 0x0000_0100) = false ∧
      decodeBundle .a 0 [0x5C00_0000] = .error (.illegal 1 0x5C00_0000) ∧
      ∃ st1 st2, fetchWord s 0 st st.pc.toNat = .ok 0 st1 ∧
        fetchWords s 0 (st.pc.toNat + 4) (decodeHeader 0).words st1 = ⟨[0x5C00_0000], st2, none⟩ ∧ true = true) ∧
    (traceStall u 0 .a = false ∧ headerOk (decodeHeader 0x4000_0000) = true ∧ isBrkWord 0x5C00_0000 = false ∧
      itemsIllegal .a 1 [0x5C00_0000] = some (1, 0x5C00_0000) ∧
      (match fetchWord u 0 su su.pc.toNat with
       | .ok x st1 => x == 0x4000_0000 && (let r := fetchWords u 0 (su.pc.toNat + 4) (decodeHeader 0x4000_0000).words st1
         r.words == [0x5C00_0000] && r.bad.isSome)
       | _ => false) = true) := by
  refine ⟨⟨by decide +kernel, by decide +kernel, by decide +kernel, by decide +kernel,
    bundle_of (p := fun _ => true) (by decide +kernel)⟩, ?_⟩
  decide +kernel

theorem wit_InvStep :
    let s := fetching [0x4000_0000, 0x2001_0400, 0x40]
    Inv s ∧ ∃ t, step s = .next t := by
  refine ⟨?_, exists_next ?_⟩
  · unfold Inv; decide +kernel
  · decide +kernel

/-! ### Records, blocks and lines -/

theorem runs_of {s : State} {g : BitVec 6} {ns : List (BitVec 6)}
    (h : (s.rdPred g && ns.all fun n => !s.isPending n) = true) : Runs s g ns := by
  simpa [Runs] using h

theorem access_of {s : State} (h : acquiring s.issue.pre s.issue.kind = false) : MayAccess s := h

theorem handler_of {s : State} (h : (act s).mode ≠ .trapped ∧ (act s).trapvec ≠ 0) : HasHandler s := h

/-- A read within one page. -/
theorem reads_of {s : State} {va : Word} {n : Nat} {bs : List Byte} (pa : Nat) (leaf : Word) (bits : Nat)
    (h1 : translate s (coreCluster s.issue.core) s.live.ctx va.toNat .read = .ok pa leaf bits)
    (h2 : ownBytes s pa n = .ok bs) (h3 : va.toNat % 0x4000 + n ≤ 0x4000) : ReadsAt s va n bs := by
  have e : Nat.min n (0x4000 - va.toNat % 0x4000) = n := Nat.min_eq_left (by omega)
  refine ⟨pa, leaf, bits, bs, h1, ?_, fun _ => rfl, fun h => absurd e h⟩
  rw [e]; exact h2

theorem exists_ok {ε α : Type} {x : Except ε α} {p : α → Bool}
    (h : (match x with | .ok a => p a | .error _ => false) = true) : ∃ a, x = .ok a ∧ p a = true := by
  cases x with
  | error e => cases h
  | ok a => exact ⟨a, rfl, h⟩

/-- A list of numbers in fields of `w` bytes, filled up to `n` bytes. -/
def fieldBytes (w n : Nat) (xs : List Nat) : List Byte :=
  let e := xs.flatMap (leBytes w)
  e ++ List.replicate (n - e.length) 0

/-- A record laid out as R144, of F32 elements in tiles of 32 rows, rows in dimension 1 and columns in dimension 0. -/
def mkRec (tid cls vpol base : Nat) (exts strs : List Nat) : Block :=
  BitVec.ofNat 1024 (leNat
    (leBytes 8 (vpol * 2 ^ 12 + 5 * 2 ^ 14 + 2 ^ 22 + exts.length * 2 ^ 26 + cls * 2 ^ 38 + tid * 2 ^ 40) ++ leBytes 8 base ++
      leBytes 8 0 ++ fieldBytes 4 40 exts ++ fieldBytes 6 54 strs))

/-- A matrix of 64 × 64 elements at 0x10000, and the same with versions. -/
def recA : Block := mkRec 7 0 0 0x10000 [64, 64] [4, 256]

@[inherit_doc recA] def recV : Block := mkRec 8 0 1 0x20000 [64, 64] [4, 256]

/-- An arena of four slots of 16 rows. -/
def recK : Block := mkRec 9 1 0 0x30000 [64, 16, 4] [4, 256, 4096]

theorem test_records : recordOk recA = true ∧ recordOk recV = true ∧ recordOk recK = true ∧ arenaOk recK = true ∧
    recordOk 0 = false := by decide +kernel

/-- The tile at the origin of a record. -/
def tile0 (r : Block) : TileKey := tileKey 1 r 0 0 0

/-- A line of a tile in its bank's way 0. -/
def lineFor (bank : Nat) (r : Block) (st : LineState) : TileLine :=
  { bank := bank, way := 0, key := tile0 r, ver := 0, cls := 2, pins := 0, st := st, keep := false, thru := false, unit := 0,
    pc := 0, base := 0, lrec := r, data := 0 }

/-- Registers that hold addresses, handles and coordinates. -/
def regsM : Tab Word :=
  [(1, 0x1000), (2, 7), (3, 8), (4, 8), (5, 0), (6, 7), (7, 0), (8, 99), (9, 0), (10, 9), (11, 0x4002), (12, 0x3FC0), (13, 5)]

/-- The A strand with those registers, the three records and some bytes at 0x1000. -/
def sM (bytes : List Byte) : State :=
  let c := { coreWith regsM with recs := [recA, recV, recK] }
  { stOf .a c with mem := writeBytes [] 0x1000 bytes }

/-! ### Queues, flags, fences and registers -/

/-- Lane qAM1 is full, qCA0 holds 7. -/
def sQ : State :=
  let e : LaneEntry := { born := 5, load := 0, data := some (7, 5) }
  stOf .a { coreWith regsA with lanes := [(9, List.replicate 8 e), (16, [e])] }

theorem wit_QueueMoves :
    Runs sQ 0 [5] ∧ roomFor sQ (pushKeys sQ 0b1000 1) = true ∧ roomFor sQ (pushKeys sQ 0b1100 1) = false ∧
    laneHead sQ.live sQ.now (popKey sQ 1 0) = some 7 ∧ laneHead sQ.live sQ.now (popKey sQ 1 1) = none ∧
    laneHead sQ.issue.pre sQ.now (popKey sQ 1 0) = some 7 ∧ laneHead sQ.issue.pre sQ.now (popKey sQ 1 1) = none := by
  unfold Runs; decide +kernel

theorem wit_FlagResults :
    let s := stOf .m (coreWith regsA)
    (ordRelease 3 = true → s.issue.kind = .m → s.issue.pre.replay = []) ∧ Runs s 0 [] ∧ Runs s 0 [5] ∧ Runs s 0 [0] := by
  unfold Runs; decide +kernel

/-- A copy of core 0 that has not completed. -/
def someCopy : EngineCmd := { (default : EngineCmd) with id := 3, core := 0, ctx := 1, task := some 1, op := 0x2A }

/-- The A strand with a copy outstanding. -/
def sB : State := { sA with clusters := [(0, { mapped with btes := [(0, { runq := [.cmd someCopy] })] })] }

theorem wit_FencesComplete :
    Runs sB 0 [] ∧ fenceWaits sB 4 = true ∧ fenceWaits sB 1 = false ∧ fenceWaits sB 5 = true ∧ fenceWaits sA 5 = false ∧
    (1 : BitVec 5).getLsbD 0 = true ∧ (1 : BitVec 5).getLsbD 1 = false ∧
    fenceWaits (stOf .m { coreWith [] with replay := [default] }) 2 = true := by
  unfold Runs; decide +kernel

/-- The vector base takes an address and refuses reserved bits, whole, set and cleared. -/
theorem wit_CsrInstructions :
    (sA.issue.kind = .v → (0x010 : BitVec 12) = 1 → sA.issue.pre.vops = []) ∧ Runs sA 0 [1] ∧ Runs sA 0 [3] ∧
    csrOwn (0x010 : BitVec 12).toNat = true ∧ sA.rd 1 &&& ~~~(csrMask 0x010) = 0 ∧ sA.rd 3 &&& ~~~(csrMask 0x010) ≠ 0 ∧
    (csrRead sA 0x010 ||| sA.rd 1) &&& ~~~(csrMask 0x010) = 0 ∧ (csrRead sA 0x010 ||| sA.rd 3) &&& ~~~(csrMask 0x010) ≠ 0 ∧
    (csrRead sA 0x010 &&& ~~~(sA.rd 1)) &&& ~~~(csrMask 0x010) = 0 ∧ HasHandler sA := by
  unfold Runs HasHandler; decide +kernel

/-! ### Scalar accesses -/

theorem wit_LoadsIssue :
    Runs sA 0 [5, 1] ∧ (sA.rd 1 + (0x10 : BitVec 32).signExtend 64).toNat % 8 = 0 ∧
    translate sA (coreCluster sA.issue.core) sA.live.ctx (sA.rd 1 + (0x10 : BitVec 32).signExtend 64).toNat .read =
      .ok 0x1010 0x1F 38 ∧
    Runs sA 0 [1] ∧ (sA.rd 1 + (0xFFFFF8 : BitVec 24).signExtend 64).toNat % 8 = 0 ∧
    translate sA (coreCluster sA.issue.core) sA.live.ctx (sA.rd 1 + (0xFFFFF8 : BitVec 24).signExtend 64).toNat .read =
      .ok 0xFF8 0x1F 38 ∧
    laneLoads sA.live < 64 ∧ laneRooms sA (loadKeys 0b1110 2) = true := by
  unfold Runs; decide +kernel

theorem wit_StoresIssue :
    Runs sA 0 [1, 3] ∧ (sA.rd 1 + (0x10 : BitVec 32).signExtend 64).toNat % 8 = 0 ∧
    translate sA (coreCluster sA.issue.core) sA.live.ctx (sA.rd 1 + (0x10 : BitVec 32).signExtend 64).toNat .write =
      .ok 0x1010 0x1F 38 := by
  unfold Runs; decide +kernel

theorem wit_AtomicsIssue :
    (sA.rd 1).toNat % 8 = 0 ∧
    translate sA (coreCluster sA.issue.core) sA.live.ctx (sA.rd 1).toNat .both = .ok 0x1000 0x1F 38 ∧
    Runs sA 0 [5, 1, 3, 2] ∧ Runs sA 0 [5, 1, 3, 0] ∧ memKind sA 0x1000 ≠ .host := by
  unfold Runs; decide +kernel

/-- A misaligned address, one above bit 51, and a page that only fetches. -/
theorem wit_ScalarAccessTraps :
    let closed := { sA with clusters := [(0, { tlb := [{ ctx := 1, va := 0, bits := 38, leaf := 0x13 }] })] }
    Runs sA 0 [5, 4] ∧ Runs sA 0 [4, 3] ∧ HasHandler sA ∧ (sA.rd 4 + (0 : BitVec 32).signExtend 64).toNat % 8 ≠ 0 ∧
    (sA.rd 6 + (0 : BitVec 32).signExtend 64).toNat % 8 = 0 ∧
    translate sA (coreCluster sA.issue.core) sA.live.ctx (sA.rd 6 + (0 : BitVec 32).signExtend 64).toNat .read = .noMap ∧
    translate sA (coreCluster sA.issue.core) sA.live.ctx (sA.rd 6 + (0 : BitVec 32).signExtend 64).toNat .write = .noMap ∧
    (closed.rd 1 + (0 : BitVec 32).signExtend 64).toNat % 8 = 0 ∧
    translate closed (coreCluster closed.issue.core) closed.live.ctx (closed.rd 1 + (0 : BitVec 32).signExtend 64).toNat .read =
      .forbidden ∧ HasHandler closed := by
  unfold Runs HasHandler; decide +kernel

/-- A load of the A strand at 0x1000. -/
def someLoad (use : LoadUse) : OutLoad :=
  { id := 2, use := use, strand := .a, va := 0x1000, pa := 0x1000, size := 8, signed := true, cached := true, alloc := true,
    z := false, acq := none, pc := 0x4000, since := 50 }

/-- A store of the A strand at 0x2000. -/
def someStore : OutStore :=
  { id := 3, strand := .a, pa := 0x2000, bytes := [1, 2, 3, 4], z := false, atCore := false, pc := 0x4000, since := 50 }

theorem wit_AccessesPerform :
    let ld := someLoad (.reg .a 5)
    let am := someLoad (.atomic .a 5 2 false 9 0)
    let s := stOf .a { coreWith [] with loads := [ld], stores := [someStore] }
    let u := stOf .a { coreWith [] with loads := [am] }
    (s.poison = [] ∧ s.moves = [] ∧ (s.core 0).loads[0]? = some ld ∧ loadReady s (s.core 0) ld = true ∧ ld.acq = none ∧
      ld.use = .reg .a 5 ∧ unreachable s ld.pa = false ∧ ∀ x ∈ (s.core 0).scache, x.1 ≠ ld.pa / 64) ∧
    ((s.core 0).stores[0]? = some someStore ∧ storeReady s (s.core 0) someStore = true ∧ unreachable s someStore.pa = false) ∧
    (u.poison = [] ∧ u.moves = [] ∧ (u.core 0).loads[0]? = some am ∧ loadReady u (u.core 0) am = true ∧ am.acq = none ∧
      am.use = .atomic .a 5 2 false 9 0 ∧ unreachable u am.pa = false ∧ (u.core 0).stores = [] ∧
      amoNew 2 64 false 0 9 0 = some 9 ∧ amoNew 2 64 false 1 9 0 = none) := by decide +kernel

/-! ### Records, hints and itineraries -/

theorem drains_of {s : State} (h : (s.live.alcove.all fun l => !l.forPub) = true) : NoDrains s := by
  simpa [NoDrains] using h

theorem wit_RecordInstructions :
    let good := sM (leBytes 128 recV.toNat)
    let new := sM (leBytes 128 (mkRec 77 0 0 0x10000 [64, 64] [4, 256]).toNat)
    let full := (List.range 64).map fun i => mkRec (100 + i) 0 0 0x10000 [64, 64] [4, 256]
    (Runs good 0 [1] ∧ MayAccess good ∧ HasHandler good ∧ CleanLines good ∧ NoDrains good) ∧ (good.rd 11).toNat % 128 ≠ 0 ∧
    ((good.rd 1).toNat % 128 = 0 ∧ ReadsAt good (good.rd 1) 128 (leBytes 128 recV.toNat)) ∧
    (recordOk (blockOf (leBytes 128 recV.toNat)) && arenaOk (blockOf (leBytes 128 recV.toNat))) = true ∧
    (findRec good.live.recs (recTid (blockOf (leBytes 128 recV.toNat)))).isSome = true ∧
    (recordOk (blockOf (List.replicate 128 0)) && arenaOk (blockOf (List.replicate 128 0))) = false ∧
    installRec full recV = none ∧ findRec good.live.recs (recTid (mkRec 77 0 0 0x10000 [64, 64] [4, 256])) = none ∧
    ReadsAt new (new.rd 1) 128 (leBytes 128 (mkRec 77 0 0 0x10000 [64, 64] [4, 256]).toNat) ∧
    good.live.recs.length < 64 ∧ handleRec good.issue.pre.recs (good.rd 8) = none ∧ handleRec good.issue.pre.recs (good.rd 2) = some recA := by
  refine ⟨⟨runs_of ?_, access_of ?_, handler_of ?_, ⟨?_, ?_⟩, drains_of ?_⟩, ?_, ⟨?_, reads_of 0x1000 0x1F 38 ?_ ?_ ?_⟩, ?_, ?_, ?_, ?_, ?_,
    reads_of 0x1000 0x1F 38 ?_ ?_ ?_, ?_, ?_, ?_⟩ <;> decide +kernel

/-- The A strand with a clean line of the first record's tile 0 in the alcove. -/
def sL : State :=
  let c := { coreWith regsM with recs := [recA, recV, recK], alcove := [lineFor (alcoveBank (tile0 recA)) recA .clean] }
  stOf .a c

theorem wit_TileHints :
    let b := alcoveBank (tile0 recA)
    let hallOnly := { sL with clusters := [(0, { tlb := [{ ctx := 1, va := 0, bits := 38, leaf := 0x40_0000_0000_001F }] })] }
    let full := stOf .a { coreWith regsM with
      recs := [recA], alcove := (List.range 12).map fun i =>
        { lineFor b recV .clean with way := i, pins := 1, key := tileKey 1 recV i 0 0 } }
    (Runs sL 0 [9, 6, pairOdd 6] ∧ MayAccess sL ∧ hintTiles sL 6 0 0 = [some (tile0 recA, recA)] ∧ tileLvl sL 0 (tile0 recA) recA = 0 ∧
      (lineOf sL.live.alcove (tile0 recA)).isSome = true ∧ pinnedIn sL.live.alcove (alcoveWaits sL 0) alcoveBank b < 12) ∧
    (Runs sL 0 [9, 8, pairOdd 8] ∧ ∀ x ∈ hintTiles sL 8 1 1, x = none) ∧
    (Runs hallOnly 0 [9, 6, pairOdd 6] ∧ hintTiles hallOnly 6 0 0 = [some (tile0 recA, recA)] ∧
      tileLvl hallOnly 0 (tile0 recA) recA ≠ 0) ∧
    (Runs full 0 [9, 6, pairOdd 6] ∧ hintTiles full 6 0 0 = [some (tile0 recA, recA)] ∧
      isPinned full.live.alcove (tile0 recA) = false ∧ tile0 recA ∉ alcoveWaits full 0 ∧
      12 ≤ pinnedIn full.live.alcove (alcoveWaits full 0) alcoveBank b) ∧
    ∀ k, named (hintTiles sL 6 0 0) k = true → readsBefore sL.live k sL.nextId = false ∧
      forwarding sL (coreCluster sL.issue.core) k = false := by
  refine ⟨⟨runs_of ?_, access_of ?_, ?_, ?_, ?_, ?_⟩, ⟨runs_of ?_, ?_⟩, ⟨runs_of ?_, ?_, ?_⟩, ⟨runs_of ?_, ?_, ?_, ?_, ?_⟩,
    fun k _ => ⟨rfl, rfl⟩⟩ <;> decide +kernel

theorem wit_Itineraries :
    let s := sM (leBytes 8 99 ++ leBytes 8 0)
    let bs := leBytes 8 99 ++ leBytes 8 0
    Runs s 0 [1] ∧ MayAccess s ∧ HasHandler s ∧ CleanLines s ∧ (s.rd 11).toNat % 16 ≠ 0 ∧ (s.rd 1).toNat % 16 = 0 ∧
    ReadsAt s (s.rd 1) (16 * (0 + 1)) bs ∧ (itinEntries (0 + 1) bs).all (fun e => (entryTile s.live e).isNone) = true := by
  refine ⟨runs_of ?_, access_of ?_, handler_of ?_, ⟨?_, ?_⟩, ?_, ?_, reads_of 0x1000 0x1F 38 ?_ ?_ ?_, ?_⟩ <;> decide +kernel

/-! ### Copies, releases and promotions -/

/-- A box of 32 × 32 elements from (0, 0) to (32, 32), laid out as R167. -/
def someBox : Block :=
  BitVec.ofNat 1024 (leNat (leBytes 8 2 ++ fieldBytes 4 36 [0, 0] ++ fieldBytes 4 36 [32, 32] ++ fieldBytes 4 36 [32, 32]))

theorem wit_CopiesIssue :
    let s := sM (leBytes 128 someBox.toNat)
    let busy := { s with clusters := [(0, { mapped with btes := [(0, { runq := List.replicate 16 (.cmd someCopy) })] })] }
    let spent := { s with cores := [(0, { s.core 0 with toks := [(1, { count := 63 })] })] }
    Runs s 0 [2, 3, 1, 13] ∧ MayAccess s ∧ HasHandler s ∧ cmdRoom s 1 = true ∧ runRoom (s.bte 0 0) s.now = true ∧
    (s.bte 0 0).vest.length < 64 ∧ runRoom (busy.bte 0 0) busy.now = false ∧ cmdRoom spent 1 = false ∧ (s.rd 13).toNat % 8 ≠ 0 ∧
    (s.rd 1).toNat % 8 = 0 ∧ ReadsAt s (s.rd 1) 128 (leBytes 128 someBox.toNat) ∧
    handleRec s.issue.pre.recs (s.rd 2) = some recA ∧ handleRec s.issue.pre.recs (s.rd 3) = some recV ∧
    copyReason s (some recA) (some recV) (blockOf (leBytes 128 someBox.toNat)) none = none ∧
    copyReason s (some recA) (some recV) (blockOf (leBytes 128 someBox.toNat)) (some 5) = none ∧
    handleRec s.issue.pre.recs (s.rd 8) = none ∧ copyReason s none (some recV) (blockOf (leBytes 128 someBox.toNat)) none = some 1 ∧
    (s.rd 13).toNat < s.now := by
  refine ⟨runs_of ?_, access_of ?_, handler_of ?_, ?_, ?_, ?_, ?_, ?_, ?_, ?_, reads_of 0x1000 0x1F 38 ?_ ?_ ?_, ?_, ?_, ?_, ?_, ?_,
    ?_, ?_⟩ <;> decide +kernel

theorem wit_VersionRelease :
    let s := sM []
    Runs s 0 [13, 4, pairOdd 4] ∧ Runs s 0 [13, 6, pairOdd 6] ∧ Runs s 0 [13, 8, pairOdd 8] ∧ MayAccess s ∧
    handleRec s.issue.pre.recs (s.rd 8) = none ∧
    (handleRec s.issue.pre.recs (s.rd 6) = some recA ∧ recVersioned recA = false) ∧
    (handleRec s.issue.pre.recs (s.rd 4) = some recV ∧ recVersioned recV = true ∧
      rangeKeys s recV (s.rd (pairOdd 4)) 1 0 = [tile0 recV, tileKey 1 recV 0 1 0]) := by
  refine ⟨runs_of ?_, runs_of ?_, runs_of ?_, access_of ?_, ?_, ⟨?_, ?_⟩, ⟨?_, ?_, ?_⟩⟩ <;> decide +kernel

/-- A full token, a bad range, a range with nothing to move, and one that meets a page without the permission to read. -/
theorem wit_Promotions :
    let s := stOf .a (coreWith [(1, 0x4000), (2, 0x8000)])
    let spent := stOf .a { coreWith [(1, 0x4000), (2, 0x8000)] with toks := [(1, { count := 63 })] }
    Runs s 0 [1, 2, 0] ∧ MayAccess s ∧ (s.live.tok 1).count ≠ 63 ∧ (spent.live.tok 1).count = 63 ∧
    ((s.rd 1).toNat % 0x4000 = 0 ∧ (s.rd 2).toNat % 0x4000 = 0 ∧ 0 < (s.rd 2).toNat ∧ (s.rd 2).toNat ≤ 2 ^ 40) ∧
    (s.rd 0).toNat = 0 ∧
    (∀ j, j < (s.rd 2).toNat / 0x4000 → promotable s 0 s.live.ctx ((s.rd 1).toNat + 0x4000 * j) = none) ∧
    (promoteFault { s with clusters := [(0, { tlb := [{ ctx := 1, va := 0, bits := 38, leaf := 0x11 }] })] } 0 s.live.ctx
      0x4000).isSome = true := by
  refine ⟨runs_of ?_, access_of ?_, ?_, ?_, ?_, ?_, ?_, ?_⟩ <;> decide +kernel

/-- With some far tier installed, a page of it may move. -/
theorem wit_Promotions_far (h : 0 < Config.farGiB) :
    let s := { stOf .a (coreWith [(1, 0x4000), (2, 0x4000)]) with
      clusters := [(0, { tlb := [{ ctx := 1, va := 0x4000, bits := 14, leaf := 0x4_0000_0000_001F }] })] }
    promotable s 0 s.live.ctx ((s.rd 1).toNat + 0x4000 * 0) = some 0x4_0000_0000_0000 := by
  let s : State := { stOf .a (coreWith [(1, 0x4000), (2, 0x4000)]) with
    clusters := [(0, { tlb := [{ ctx := 1, va := 0x4000, bits := 14, leaf := 0x4_0000_0000_001F }] })] }
  show promotable s 0 s.live.ctx ((s.rd 1).toNat + 0x4000 * 0) = some 0x4_0000_0000_0000
  have e : lookupVa s 0 s.live.ctx ((s.rd 1).toNat + 0x4000 * 0) = .ok 0x4_0000_0000_0000 0x4_0000_0000_001F 14 := by
    decide +kernel
  have m : memKind s 0x4_0000_0000_0000 = .far := by
    have h2 : (0x4_0000_0000_0000 : Nat) < 0x4_0000_0000_0000 + min Config.farGiB 4096 * 2 ^ 30 := by
      have : 0 < min Config.farGiB 4096 := by omega
      omega
    rw [memKind, if_neg (by decide), if_pos (by rw [Bool.and_eq_true]; exact ⟨by decide, decide_eq_true h2⟩)]
  have l : (0x4_0000_0000_001F : Word).getLsbD 52 = false := by decide
  rw [promotable, e]
  exact if_pos ⟨rfl, m, l⟩

/-- Where a batch pauses, and where it stops with which trap. -/
def pausesAt (j : Nat) : KvEnd → Bool
  | .pause i => i == j
  | .all => false
  | .stop _ _ => false

@[inherit_doc pausesAt] def stopsAt (j code val : Nat) : KvEnd → Bool
  | .stop i (.trap c v) => i == j && c == code && v == val
  | _ => false

@[inherit_doc pausesAt] def goesThrough : KvEnd → Bool
  | .all => true
  | .pause _ => false
  | .stop _ _ => false

/-- An arena of two slots of two rows of eight elements. -/
def recKs : Block := mkRec 9 1 0 0x30000 [8, 2, 2] [4, 32, 64]

/-- The A strand with that arena at index 10, an entry for its slot 0 at 0x1000, and the arena's tile in the alcove. -/
def sKv (bytes : List Byte) (lines : Bool) : State :=
  let k := tileKey 1 recKs 0 0 0
  let c := { coreWith regsM with
    recs := [recA, recV, recKs],
    alcove := if lines then [{ lineFor (alcoveBank k) recKs .clean with key := k }] else [] }
  { stOf .a c with mem := writeBytes [] 0x1000 bytes }

@[inherit_doc sKv] def kvBytes : List Byte := leBytes 8 0 ++ leBytes 8 0x800 ++ leBytes 8 0x400 ++ leBytes 8 0x440

/-- An entry of a batch, at an index. -/
def kvZ (u : State) (j : Nat) : KvStep × Bool := kvEntryAt u 0 1 recKs recKs 0x1000 j

/-- An entry that was processed; one that stopped; one that waits. -/
def isDone : KvStep → Bool
  | .done _ => true
  | .stop _ _ => false
  | .wait _ => false

@[inherit_doc isDone] def isStop : KvStep → Bool
  | .done _ => false
  | .stop _ _ => true
  | .wait _ => false

@[inherit_doc isDone] def isWait : KvStep → Bool
  | .done _ => false
  | .stop _ _ => false
  | .wait _ => true

/-- A skipped entry; one that breaks the format; one whose row has no line; and one that is appended. -/
theorem wit_KvappBatch :
    let s := sKv (leBytes 32 0xFFFF_FFFF) true
    let bad := sKv (leBytes 32 0x1_0000_0000) true
    let row := sKv kvBytes false
    let done := sKv kvBytes true
    let run := fun (u : State) => kvFrom 0 u.live.ctx recKs recKs (u.rd 1).toNat 1 0 u
    Runs s 0 [5, 1, 10, 10] ∧ MayAccess s ∧ HasHandler s ∧ (s.rd 5).toNat = 0 ∧ arenaRec s.issue.pre.recs (s.rd 2) = none ∧
    arenaRec s.issue.pre.recs (s.rd 10) = some recKs ∧ (s.rd 11).toNat % 32 ≠ 0 ∧ (s.rd 1).toNat % 32 = 0 ∧
    s.live.kvAt = none ∧ s.live.kvRun = none ∧ goesThrough (run s).2 = true ∧ goesThrough (run done).2 = true ∧
    (∃ e, kvRead s 0 s.live.ctx ((s.rd 1).toNat + 32 * 0) = .ok e ∧ (e.zero == 0 && e.slot == 0xFFFF_FFFF) = true) ∧
    (stopsAt 0 1 0x1000 (run bad).2 = true ∧ HasHandler (run bad).1 ∧ bad.pre.trapvec ≠ 0 ∧ (run bad).1.issue = bad.issue) ∧
    (pausesAt 0 (run row).2 = true ∧ (run row).1.issue = row.issue) ∧
    (isStop (kvZ bad 0).1 = true ∧ isWait (kvZ row 0).1 = true ∧ isDone (kvZ s 0).1 = true ∧ (kvZ s 0).2 = true ∧
      isDone (kvZ done 0).1 = true ∧ (kvZ done 0).2 = false) := by
  refine ⟨runs_of ?_, access_of ?_, handler_of ?_, ?_, ?_, ?_, ?_, ?_, ?_, ?_, ?_, ?_, exists_ok ?_, ⟨?_, handler_of ?_, ?_, ?_⟩,
    ⟨?_, ?_⟩, ⟨?_, ?_, ?_, ?_, ?_, ?_⟩⟩ <;> decide +kernel

/-- An entry that appends at position 0 of slot 0, in its key row or in its value row. -/
def kvRun (value : Bool) : KvRun :=
  { e := { slot := 0, zero := 0, lenp := 0x800, ksrc := 0x400, vsrc := 0x440 }, x := 0, krec := recKs, vrec := recKs,
    pages := [], value := value, bytes := leBytes 32 0, left := rowTiles 1 recKs 0 0 }

/-- The rows of an entry whose tile the alcove has, and its length word. -/
theorem wit_KvappBatch_rows :
    let s := sKv kvBytes true
    (recordOk recKs = true ∧ arenaOk recKs = true ∧ recClass recKs = 1 ∧ 0 < recExt recKs 2 ∧ 0 < recExt recKs 1 ∧
      rowTiles 1 recKs 0 0 = [tileKey 1 recKs 0 0 0] ∧ (∀ k ∈ rowTiles 1 recKs 0 0, rowLine s 0 k recKs = true)) ∧
    (let r := kvRun false
     let v := writeTiles 0 1 r.krec r.e.slot r.x r.bytes r.left s
     v.2 = [] ∧ ∃ bs, readRange v.1 0 1 (pieces r.e.vsrc (rowBytes r.vrec)) = .ok bs ∧ (bs.length == 32) = true) ∧
    (let r := kvRun true
     let v := writeTiles 0 1 r.vrec r.e.slot r.x r.bytes r.left s
     v.2 = [] ∧ (∀ l ∈ (v.1.cluster (coreCluster 0)).hall ++ (v.1.core 0).alcove, l.key.ctx = 1 → lineHolds r.e.lenp 4 l = false) ∧
     r.e.lenp % 4 = 0 ∧ translate v.1 (coreCluster 0) 1 r.e.lenp .write = .ok 0x800 0x1F 38 ∧ v.1.poison = [] ∧ v.1.moves = [] ∧
     unreachable v.1 0x800 = false) := by
  refine ⟨?_, ⟨?_, exists_ok ?_⟩, ?_⟩ <;> decide +kernel

/-! ### Engines, the format queue and the system instructions -/

/-- A block of 64-bit words. -/
def wordsBytes (ws : List Nat) : List Byte := ws.flatMap (leBytes 8)

/-- A record of a format with tiles of 2^`tlr` rows; rank 1 has dimension 0 alone. -/
def mkFmt (tid cls fmt tlr vpol base : Nat) (exts strs : List Nat) : Block :=
  BitVec.ofNat 1024 (leNat
    (leBytes 8 (vpol * 2 ^ 12 + tlr * 2 ^ 14 + (if exts.length = 1 then 0 else 2 ^ 22) + exts.length * 2 ^ 26 + fmt * 2 ^ 30 +
        fmt * 2 ^ 34 + cls * 2 ^ 38 + tid * 2 ^ 40) ++ leBytes 8 base ++ leBytes 8 0 ++ fieldBytes 4 40 exts ++ fieldBytes 6 54 strs))

/-- F32 and I32 matrices and vectors, and bitmaps of rank 1 and 2. -/
def recsE : List Block :=
  [recA, recV, mkFmt 12 0 5 5 0 0x40000 [64, 64] [4, 256], mkFmt 30 3 10 5 0 0x50000 [64] [0], mkFmt 31 0 5 5 0 0x51000 [64] [4],
   mkFmt 32 0 0 5 0 0x52000 [64] [4], mkFmt 33 3 10 5 0 0x53000 [64, 16] [0, 8]]

/-- An entry of a group table (R289): its tasks, its peer modules and its key. -/
def grpEnt (tasks peers key : Nat) : BitVec 2048 := BitVec.ofNat 2048 (2 ^ 63 + key + tasks * 2 ^ 128 + peers * 2 ^ 768)

/-- A setup slot 7 of Landing 3 and a session 2 of die 0, of context 1. -/
def ownedSlot : LandingSlot := { emptySlot 7 with owner := some 1, accRecs := recsE.drop 2 }

@[inherit_doc ownedSlot] def ownedSession (st : SessState) : Session :=
  { num := 2, owner := some 1, home := 0, accState := st, st := st, block := BitVec.ofNat 1024 (2 ^ 120), recs := [],
    group := default, table := [], seq := 0, counts := [] }

/-- The A strand of a task that is a member of group 1, with a block at 0x1000. -/
def sE (st : SessState) (bytes : List Byte) : State :=
  let c := { coreWith [(1, 0x1000), (2, 0x1001), (3, 0x307), (4, 2), (5, 1), (6, 0x200), (7, 2)] with recs := recsE }
  { stOf .a c with
    mem := writeBytes [] 0x1000 bytes, clusters := [(0, mapped), (3, { slots := [ownedSlot] })],
    dies := [(0, { sessions := [ownedSession st] })],
    launches := [{ placeLaunch 0 with gtab := [0, grpEnt 3 0 0] }], tasks := [{ placeTask 1 0 with grps := [1] }] }

/-- The operand blocks of R303, R305, R309, R311, R335 and R406. -/
def blkTopk : List Byte := wordsBytes [4 * 2 ^ 32 + 8, 7, 0, 7, 12, 0, 0, 0]
@[inherit_doc blkTopk] def blkSeg : List Byte := wordsBytes [4 * 2 ^ 48 + 8 * 2 ^ 32 + 2, 7, 0, 7, 12, 0, 0, 0]
@[inherit_doc blkTopk] def blkSetup : List Byte :=
  wordsBytes ([64 * 2 ^ 48 + 2 ^ 16 + 4, 0x307, 30, 31, 31, 32, 33, 0, 0x9000] ++ List.replicate 7 0)
@[inherit_doc blkTopk] def blkReg : List Byte := wordsBytes [0x307, 8, 0, 0]
@[inherit_doc blkTopk] def blkRoute : List Byte :=
  wordsBytes ([3 * 2 ^ 48 + 2 ^ 44 + 2 * 2 ^ 32 + 2 ^ 21 + 2, 2 ^ 56 + 2 ^ 24 + 12, 7, 7, 7, 7, 7, 12, 12, 12, 0x9000, 0xA000] ++
    List.replicate 4 0)
@[inherit_doc blkTopk] def blkColl : List Byte := wordsBytes [2 ^ 56 + 4, 32, 32, 0, 0, 0, 0, 0]

theorem wit_EngineCommandsIssue :
    let s := sE .set blkTopk
    let b := fun bs => blockOf bs
    let x := actingEntry s 1
    (Runs s 0 [1] ∧ Runs s 0 [3] ∧ MayAccess s ∧ HasHandler s ∧ cmdRoom s 1 = true ∧ (s.rd 1).toNat % 128 = 0 ∧
      (s.rd 2).toNat % 32 ≠ 0 ∧ (s.cluster 0).selq.length < 32 ∧ (s.cluster 3).lndq.length < 32 ∧ (s.die 0).rteq.length < 32 ∧
      (s.die 0).collq.length < 32) ∧
    ReadsAt s (s.rd 1) 64 blkTopk ∧ ReadsAt (sE .set blkSetup) ((sE .set blkSetup).rd 1) 128 blkSetup ∧
    ReadsAt (sE .set blkReg) ((sE .set blkReg).rd 1) 32 blkReg ∧
    (selReason 0 (b blkTopk) s.issue.pre.recs = none ∧ selReason 1 (b blkSeg) s.issue.pre.recs = none ∧
      selReason 0 (b blkSeg) s.issue.pre.recs = some 1) ∧
    (setupReason s (b blkSetup) = none ∧ setupReason s 0 = some 1 ∧ regReason s (b blkReg) = none ∧
      regReason s 0 = some 2 ∧ slotReason s (s.rd 3) = none ∧ slotReason s (s.rd 4) = some 5) ∧
    (routeReason s (b blkRoute) = none ∧ routeReason s 0 = some 1 ∧ sessReason s (s.rd 4) (fun z => z == .set || z == .placed) = none ∧
      sessReason s (s.rd 4) (fun z => z == .counted) = some 5 ∧
      sessReason (sE .counted []) (s.rd 4) (fun z => z == .counted) = none ∧
      sessReason (sE .placed []) (s.rd 4) (fun z => z == .placed) = none) ∧
    (actingEntry s (collGrp (b blkColl)) = x ∧ (∀ k ∈ [0, 1, 2, 3, 4], collReason s k (b blkColl) (rankCount s x.1) (rankOf s x.1 x.2) = none) ∧
      collReason s 0 0 (rankCount s x.1) (rankOf s x.1 x.2) = some 1 ∧ (tidRec s.issue.pre.recs (b blkColl) 8).isSome = true ∧
      (tidRec s.issue.pre.recs (b blkColl) 0x10).isSome = true) := by
  refine ⟨⟨runs_of ?_, runs_of ?_, access_of ?_, handler_of ?_, ?_, ?_, ?_, ?_, ?_, ?_, ?_⟩, reads_of 0x1000 0x1F 38 ?_ ?_ ?_,
    reads_of 0x1000 0x1F 38 ?_ ?_ ?_, reads_of 0x1000 0x1F 38 ?_ ?_ ?_, ?_, ?_, ?_, ?_⟩ <;> decide +kernel

theorem wit_FormatQueue :
    let full := stOf .c { coreWith regsA with fq := List.replicate 16 { w := 0, born := 5 } }
    let closed := stOf .c { coreWith regsA with fqClosed := true }
    Runs sA 0 [5] ∧ fqRoom full = false ∧ Runs full 0 [5] ∧ fqRoom closed = true ∧ closed.issue.pre.fqClosed = true ∧ HasHandler closed ∧
    fqRoom sA = true ∧ sA.issue.pre.fqClosed = false ∧ Runs sA 0 [] := by
  unfold Runs HasHandler; decide +kernel

/-- A target of core 1 of cluster 0, a bad target, misaligned, unmapped and forbidden blocks, and a full queue. -/
theorem wit_RenqEnqueues :
    let s := stOf .c (coreWith [(1, 0x1000), (2, 4), (3, 0x1080), (4, 0x4000_0000_0000_0000), (5, 1)])
    let closed := { s with clusters := [(0, { tlb := [{ ctx := 1, va := 0, bits := 38, leaf := 0x13 }] })] }
    let full := { s with clusters := [(0, { mapped with renq := [(1, List.replicate 16 default)] })] }
    Runs s 0 [1, 2] ∧ MayAccess s ∧ HasHandler s ∧ renqTarget s (s.rd 2) = some (0, 1) ∧ (renqOf s (0, 1)).length < 16 ∧
    renqTarget s (s.rd 5) = none ∧ renqTarget full (full.rd 2) = some (0, 1) ∧ 16 ≤ (renqOf full (0, 1)).length ∧
    (s.rd 3).toNat % 256 ≠ 0 ∧ (s.rd 1).toNat % 256 = 0 ∧ (s.rd 4).toNat % 256 = 0 ∧
    translate s 0 s.live.ctx (s.rd 1).toNat .read = .ok 0x1000 0x1F 38 ∧ translate s 0 s.live.ctx (s.rd 4).toNat .read = .noMap ∧
    translate closed 0 closed.live.ctx (closed.rd 1).toNat .read = .forbidden := by
  unfold Runs MayAccess HasHandler; decide +kernel

/-- Context 1's core group of launch 0, kept by cluster 0. -/
def grpKey : GroupKey := { domain := false, xkey := 0, mods := 0, launch := 0, grp := 1 }

/-- The pending generation of that group: its extent and its arrivals. -/
def grpState (scope : Nat) (members : List Nat) (arrived : List (Nat × Nat)) : GroupState :=
  { key := grpKey, cluster := 0, gen := 0, members := members, arrived := arrived, joiners := [], next := [], scope := scope,
    gone := [], sent := false, mods := [] }

/-- The C strand of task 1, which is listed in groups 1 to 5 and a member of some. -/
def sGrp (grps : List Nat) (g : GroupState) : State :=
  let c := coreWith [(1, 1), (2, 0x200), (3, 5), (4, 7)]
  { stOf .c c with
    launches := [{ placeLaunch 0 with gtab := [0, grpEnt 3 0 0, grpEnt 3 0 0, grpEnt 3 0 0, grpEnt 3 0 0, grpEnt 3 0 0] }],
    tasks := [{ placeTask 1 0 with grps := grps }], groups := [g] }

theorem wit_GroupMembership :
    let wide := sGrp [1] (grpState 3 [1] [])
    let near := sGrp [1] (grpState 2 [1, 2] [])
    let out := sGrp [] (grpState 3 [] [])
    let four := sGrp [2, 3, 4, 5] (grpState 3 [] [])
    (Runs wide 0 [1, 3] ∧ MayAccess wide ∧ HasHandler wide) ∧ memberOf wide (wide.rd 2) = none ∧
    ((memberOf wide (wide.rd 1)).map (fun x => (x.1.id, x.2.1.id, x.2.2)) = some (1, 0, 1) ∧
      wide.group? grpKey = some (grpState 3 [1] []) ∧ (wide.launches.map fun l => groupKey wide l 1) = [grpKey]) ∧
    ((memberOf near (near.rd 1)).isSome = true ∧ near.group? grpKey = some (grpState 2 [1, 2] [])) ∧
    ((actingTask out).map (fun x => (x.1.grps, entLists (x.2.ent 1) x.1.index, entLists (x.2.ent 7) x.1.index)) = some ([], true, false) ∧
      out.group? grpKey = some (grpState 3 [] []) ∧ 256 ≤ (out.rd 2).toNat ∧ (out.rd 1).toNat < 256 ∧ (out.rd 4).toNat = 7) ∧
    ((actingTask four).map (fun x => (x.1.grps.length, x.1.grps.contains 1)) = some (4, false)) := by
  refine ⟨⟨runs_of ?_, access_of ?_, handler_of ?_⟩, ?_, ?_, ?_, ?_, ?_⟩ <;> decide +kernel

theorem wit_BarrierAndBroadcast :
    let wide := sGrp [1] (grpState 3 [1] [])
    let waits := sGrp [1] (grpState 2 [1, 2] [])
    let last := sGrp [1] (grpState 2 [1, 2] [(2, 9)])
    let done := sGrp [1] (grpState 2 [1, 2] [(1, 9)])
    (Runs wide 0 [1, 3] ∧ MayAccess wide ∧ (memberOf wide (wide.rd 1)).map (fun x => (x.1.id, groupKey wide x.2.1 x.2.2)) = some (1, grpKey)) ∧
    (hasArrived done grpKey 1 = true ∧ hasArrived wide grpKey 1 = false ∧ hasArrived waits grpKey 1 = false ∧
      hasArrived last grpKey 1 = false) ∧
    (releaseAt wide 0 .c 3).group? grpKey = some (grpState 3 [1] []) ∧
    ((releaseAt waits 0 .c 2).group? grpKey = some (grpState 2 [1, 2] []) ∧ (∃ m ∈ [1, 2], m ≠ 1 ∧ ∀ a ∈ ([] : List (Nat × Nat)), a.1 ≠ m)) ∧
    ((releaseAt last 0 .c 2).group? grpKey = some (grpState 2 [1, 2] [(2, 9)]) ∧
      (∀ m ∈ [1, 2], m ≠ 1 → ∃ a ∈ [((2 : Nat), (9 : Nat))], a.1 = m) ∧
      ∀ a ∈ [((2 : Nat), (9 : Nat)), (1, 3)], ((releaseAt last 0 .c 2).task? a.1).all fun m => !m.saved) := by
  refine ⟨⟨runs_of ?_, access_of ?_, ?_⟩, ?_, ?_, ?_, ?_⟩ <;> decide +kernel

/-- A descriptor laid out as R377: rings in host memory of 16 entries, a launch ring at 0x8000, no pool. -/
def ctxDesc (w0 npool : Nat) : BitVec 2048 :=
  BitVec.ofNat 2048 (leNat (wordsBytes [w0, placeRoot, 0, 0x10_0000, 0x20_0000, npool, 0x8000, 16, 0x6_0000_0000_0000, 16,
    0x6_0000_0001_0000, 16, 0x6_0000_0002_0000]))

/-- Context 1 with such a descriptor. -/
def ctxWith (w0 : Nat) : Context := { placeCtx with desc := ctxDesc w0 4 }

theorem wit_PreemptionAndHost :
    let s := { stOf .c { coreWith regsA with preqPend := true } with ctxs := [ctxWith 1] }
    let full := { s with ctxs := [{ ctxWith 1 with nqwrite := 16 }] }
    let bare := { s with ctxs := [] }
    (Runs s 0 [5, 1] ∧ MayAccess s ∧ sA.issue.pre.preqPend = false ∧ Runs sA 0 [5, 1] ∧ s.issue.pre.preqPend = true) ∧
    noteReady full full.live.ctx = false ∧ noteReady s s.live.ctx = true ∧
    (noteReady bare bare.live.ctx = true ∧ (releaseAt bare 0 .c 7).ctx? bare.live.ctx = none) ∧
    ((releaseAt s 0 .c 7).ctx? s.live.ctx = some (ctxWith 1) ∧ (ctxWith 1).noteq = [] ∧ (ctxWith 1).noteRoom = true ∧
      (sysWrite (releaseAt s 0 .c 7) ((ctxWith 1).nq + 32 * ((ctxWith 1).nqwrite.toNat % (ctxWith 1).nqsize)) [1, 2, 3, 4]).2 = none) := by
  refine ⟨⟨runs_of ?_, access_of ?_, ?_, runs_of ?_, ?_⟩, ?_, ?_, ?_, ?_⟩ <;> decide +kernel

/-! ### The matrix strand -/

/-- E4M3 tensors in tiles of 64 × 64. -/
def recsCube : List Block :=
  [mkFmt 7 0 3 6 0 0x10000 [64, 64] [1, 64], mkFmt 8 0 3 6 0 0x20000 [64, 64] [1, 64], mkFmt 9 0 3 6 0 0x30000 [64, 64] [1, 64]]

/-- The column-gate command of R194's example. -/
def cubeEx : CubeWord := ⟨2, 3, 2, 3, 2, 4, 0, 0, 0⟩

/-- The M strand with the operands of that command and the format word of R200's example. -/
def sCube (regs : Tab Word) (fq : List FqWord) : State :=
  stOf .m { coreWith regs with recs := recsCube, fq := fq }

/-- Handles in s4, s6, s8, coordinates zero. -/
def regsCube : Tab Word := [(4, 7), (6, 8), (8, 9)]

/-- A bad word, absent records, busy output cells, and for `MMA` a region at cell column 256. -/
theorem wit_CubeIssue :
    let w : FqWord := { w := 0x0000_1C68_1E24_0333, born := 5 }
    let s := sCube regsCube [w]
    let empty := sCube regsCube []
    let closed := stOf .m { coreWith regsCube with fqClosed := true }
    let r := fun (i : Nat) => recsCube[i]?
    let busy := stOf .m { coreWith regsCube with
      recs := recsCube, fq := [w], mops := [{ id := 1, spans := [(0, 0, 32)], writes := [], sticky := 0, reg := none }] }
    (Runs s 0 (cubeRegs false cubeEx) ∧ Runs s 0 (cubeRegs true cubeEx) ∧ Runs empty 0 (cubeRegs false cubeEx) ∧
      Runs closed 0 (cubeRegs false cubeEx)) ∧
    (closed.issue.pre.fq = [] ∧ closed.issue.pre.fqClosed = true) ∧
    (empty.issue.pre.fq = [] ∧ empty.issue.pre.fqClosed = false ∧ empty.issue.pre.c.mode ≠ .halted) ∧
    (sCube regsCube [{ w with born := 100 }]).now ≤ 100 ∧ (s.issue.pre.fq = [w] ∧ w.born < s.now) ∧
    (handleRec s.issue.pre.recs 99 = none ∧ [7, 8, 9].map (fun (h : Nat) => handleRec s.issue.pre.recs (BitVec.ofNat 64 h)) = [r 0, r 1, r 2] ∧
      s.rd (pairEven cubeEx.pa) = 7 ∧ s.rd (pairEven cubeEx.pb) = 8 ∧ s.rd (pairEven cubeEx.pg) = 9) ∧
    (cubeReason false cubeEx w.w (r 0) (r 1) (r 2) 7 = none ∧ cubeReason false cubeEx 0 (r 0) (r 1) (r 2) 7 = some 2 ∧
      cubeReason true cubeEx 0x0000_0000_0000_0333 none (r 1) (r 2) 0x100_0000 = none) ∧
    (cellsMeet (cubeCells false cubeEx w.w 7) (busyForM s) = false ∧ cellsMeet (cubeCells false cubeEx w.w 7) (busyForM busy) = true ∧
      parkedCount s.live < 16) ∧ CleanLines s := by
  refine ⟨⟨runs_of ?_, runs_of ?_, runs_of ?_, runs_of ?_⟩, ?_, ?_, ?_, ?_, ?_, ?_, ?_, ⟨?_, ?_⟩⟩ <;> decide +kernel

/-- The M strand with a handle of the first matrix, an absent one and a bad region register. -/
def sT (c : Core → Core) : State := stOf .m (c { coreWith [(1, 0), (2, 7), (3, 0), (4, 99), (5, 0), (6, 0x40)] with recs := [recA, recV] })

theorem wit_TransfersIssue :
    let s := sT id
    let d : Region := { row := 0, ecol := 0, nrow := 32, ncol := 32 }
    let busy := sT fun c => { c with mops := [{ id := 1, spans := [(0, 0, 32)], writes := [], sticky := 0, reg := none }] }
    let line := fun st => sT fun c => { c with alcove := [lineFor (alcoveBank (tile0 recA)) recA st] }
    let found := sT fun c => { c with
      alcove := [lineFor (alcoveBank (tile0 recA)) recA .clean],
      replay := [{ (default : Parked) with kind := 2, recs := [recA], regs := [0, 7, 0] }] }
    (Runs s 0 [1, 2, pairOdd 2] ∧ Runs s 0 [1, 4, pairOdd 4] ∧ handleRec s.issue.pre.recs (s.rd 4) = none ∧
      handleRec s.issue.pre.recs (s.rd 2) = some recA ∧ tileKey s.live.ctx recA 0 0 0 = tile0 recA) ∧
    ((∀ store ∈ [true, false], transferOk store (s.rd 1) recA 0 false false = some d ∧ transferOk store (s.rd 6) recA 0 false false = none) ∧
      cellsMeet (regionSpans d 32) (busyForM s) = false ∧ cellsMeet (regionSpans d 32) (busyForM busy) = true ∧
      parkedCount s.live < 16 ∧ foundBy s.live (tile0 recA) = false ∧ foundBy found.live (tile0 recA) = true) ∧
    (lineOf s.live.alcove (tile0 recA) = none ∧ (match alcovePick s.live (tile0 recA) with | .none => false | _ => true) = true) ∧
    (∀ st ∈ [LineState.clean, .filling, .dirty], foundBy (line st).live (tile0 recA) = false ∧
      lineOf (line st).live.alcove (tile0 recA) = some (lineFor (alcoveBank (tile0 recA)) recA st)) ∧ CleanLines s := by
  refine ⟨⟨runs_of ?_, runs_of ?_, ?_, ?_, ?_⟩, ?_, ⟨?_, ?_⟩, ?_, ⟨?_, ?_⟩⟩ <;> decide +kernel

/-- A square, a wide and a tall region, and a reserved bit. -/
theorem wit_RegionInstructions :
    let s := stOf .m (coreWith [(1, 0x3_0300_0000), (2, 0x7_0100_0100), (3, 0x1_0700_0200), (4, 0x40)])
    let sq : Region := { row := 0, ecol := 0, nrow := 4, ncol := 4 }
    let wide : Region := { row := 0, ecol := 1, nrow := 2, ncol := 8 }
    let tall : Region := { row := 0, ecol := 2, nrow := 8, ncol := 2 }
    Runs s 0 [1, 2] ∧ Runs s 0 [2, 3] ∧ Runs s 0 [4, 4] ∧ areaOf (s.rd 1) 0 = some sq ∧ areaOf (s.rd 2) 0 = some wide ∧
    areaOf (s.rd 3) 0 = some tall ∧ areaOf (s.rd 4) 0 = none ∧ ¬(wide.nrow = sq.nrow ∧ wide.ncol = sq.ncol) ∧
    (wide.nrow = tall.ncol ∧ wide.ncol = tall.nrow) ∧ ¬(wide.nrow = wide.ncol ∧ wide.ncol = wide.nrow) := by
  unfold Runs; decide +kernel

/-! ### The vector strand -/

/-- An integer and a float view, with registers and cells free. -/
theorem wit_VectorArithmetic :
    let s := stOf .v (coreWith regsA)
    s.rdPred 0 = true ∧ isIntView 1 = true ∧ isIntView 0 = false ∧ (∀ n ∈ opRegs 0xC5, s.isPending n = false) ∧
    cellsMeet (allSpans 0 5) (busyForV s) = false := by decide +kernel

theorem wit_VectorBitsAndMoves :
    (stOf .v (coreWith regsA)).rdPred 0 = true ∧ (∀ n ∈ [1, 5], (stOf .v (coreWith regsA)).isPending n = false) := by decide +kernel

theorem wit_VectorReductions :
    let s := stOf .v { coreWith regsA with vops := [{ id := 1, spans := [(5, 0, 32)], writes := [], sticky := 0, reg := none }] }
    s.rdPred 5 = true ∧ cellsMeet (allSpans 0 5) (busyForV s) = true ∧ cellsMeet (allSpans 0 6) (busyForV s) = false := by decide +kernel

theorem wit_AccumulatorCompletes :
    let w := fun (x : Option (Nat × Word)) =>
      ({ id := 4, spans := [(5, 0, 64)], writes := [laneWrite 32 5 0 7, laneWrite 32 5 1 9], sticky := 1, reg := x } : AccOp)
    let c := { coreWith [] with vops := [w none, w (some (3, 8))], mops := [w none] }
    let s := { stOf .a c with issue := {} }
    (s.core 0).vops[0]? = some (w none) ∧ (s.core 0).vops[1]? = some (w (some (3, 8))) ∧ (s.core 0).mops[0]? = some (w none) ∧
    (∀ x ∈ (w none).writes, InCell x) ∧ (w none).writes.Pairwise Apart ∧ (w none).reg = none ∧
    (w (some (3, 8))).reg = some (3, 8) ∧ InCell (laneWrite 32 5 2 0) ∧ ∀ x ∈ (w none).writes, Apart x (laneWrite 32 5 2 0) := by
  unfold InCell Apart; decide +kernel

/-! ### Events -/

theorem decode_of {s : State} {n : Nat} {k : Kind} {p : Bundle → Bool}
    (h : (match decodeHead s n k with | .go _ b => p b | .settled _ => false | .wait _ _ _ => false) = true) :
    ∃ u b, decodeHead s n k = .go u b ∧ p b = true := by
  cases e : decodeHead s n k with
  | go u b => rw [e] at h; exact ⟨u, b, rfl, h⟩
  | settled u => rw [e] at h; cases h
  | wait a b c => rw [e] at h; cases h

/-- Core 0 at the head of a joined bundle of tag 1 (0x6100_0000) or one that masks token 0 (0x4000_0001). -/
def atHeadOf (h : Word32) (c : Core → Core) : State :=
  let s := fetching [h, 0x2001_0400, 0x40]
  { s with agenda := [], now := 0x400 * 1024 + 200, cores := [(0, c (s.core 0))] }

/-- The same core fetching at an unmapped or a misaligned address. -/
def fetchAt (pc : Word) : State := atHeadOf 0 fun c => { c with a := { c.a with pc := pc } }

theorem wit_HeadEvents :
    let member := atHeadOf 0x6100_0000 id
    let joined := fun (c : Core → Core) => atHeadOf 0x6100_0000 fun x => c { x with joins := [(1, 0b0011)] }
    let broken := joined fun c => { c with c := { c.c with mode := .halted } }
    let late := { joined (fun c => { c with a := { c.a with joinSince := some 0 } }) with joinReady := [(0, .a)] }
    let tok := atHeadOf 0x4000_0001 fun c => { c with toks := [(0, { count := 0, err := true, reason := 2 })] }
    (∀ s ∈ [member, broken, late, tok, fetchAt 0x4000_0000_0000], atHead s 0 .a = true) ∧
    (∃ u b, decodeHead member 0 .a = .go u b ∧
      (b.hdr.sync != 0 && !((member.core 0).joinMask b.hdr.jtag.toNat).getLsbD 0) = true) ∧
    (∃ u b, decodeHead broken 0 .a = .go u b ∧
      (let m := (broken.core 0).joinMask b.hdr.jtag.toNat
       b.hdr.sync != 0 && m.getLsbD 0 && partnerHalted (broken.core 0) m .a) = true) ∧
    (∃ u b, decodeHead late 0 .a = .go u b ∧
      ((joinTrap (late.core 0) .a b.hdr).isNone && flagWaitOk (late.core 0) b.hdr && !tokBusy (late.core 0) b.hdr.tokmask &&
        (tokErrs (late.core 0) b.hdr.tokmask).isEmpty && b.hdr.sync != 0 &&
        decide ((0, Kind.a) ∈ late.joinReady) && (late.core 0).a.joinSince == some 0 &&
        (late.core 0).waitPassed late.now 0 (late.core 0).joinLimit.toNat) = true) ∧
    (∃ u b, decodeHead tok 0 .a = .go u b ∧
      ((joinTrap (tok.core 0) .a b.hdr).isNone && flagWaitOk (tok.core 0) b.hdr && !tokBusy (tok.core 0) b.hdr.tokmask &&
        tokErrs (tok.core 0) b.hdr.tokmask == [0] && (tok.core 0).a.trapvec != 0 && (tok.core 0).a.mode != .trapped) = true) := by
  refine ⟨?_, decode_of ?_, decode_of ?_, decode_of ?_, decode_of ?_⟩ <;> decide +kernel

/-- A line of words ahead of the head, and a head that cannot be fetched. -/
theorem wit_HeadEvents_fetch :
    let s := atHeadOf 0x6100_0000 id
    let st := (s.core 0).a
    let bad := fetchAt 0x4000_0000_0000
    (match fetchWord bad 0 (bad.core 0).a (bad.core 0).a.pc.toNat with | .trap _ _ => true | _ => false) = true ∧
    (0x4100 % 4 = 0 ∧ 0x4100 ≠ st.pc.toNat ∧ (st.icache.find? fun x => x.1 == 0x4100 / 64) = none ∧
      st.icache.length < icacheLines ∧ translate s (coreCluster 0) (s.core 0).ctx 0x4100 .fetch = .ok 0x4100 0x1F 38 ∧
      (match readUnder s { path := 0, core := 0, task := (s.core 0).task, kind := .a, id := s.nextId, reach := 0 }
        ((s.core 0).stores.filter OutStore.atCore) (0x4100 / 64 * 64) 64 with
       | .ok bs => bs.length == 64
       | .error _ => false) = true) := by decide +kernel

/-- A command of kind 0 to 2 with the first matrix in each operand, issued at 50. -/
def parkedCmd (kind : Nat) : Parked :=
  { (default : Parked) with id := 9, kind := kind, regs := [], recs := [recA, recA, recA], pc := 0x4008, since := 50 }

/-- Core 0 with that command in its replay queue and some alcove lines. -/
def parkedAt (kind : Nat) (lines : List TileLine) (now : Nat) : State :=
  { stOf .m { coreWith [] with recs := [recA], alcove := lines, replay := [parkedCmd kind] } with issue := {}, now := now }

theorem wit_CommandsPerform :
    let line := lineFor (alcoveBank (tile0 recA)) recA .clean
    let late := parkedAt 2 [] (0x4000 * 1024 + 2048)
    (∀ k ∈ [0, 1, 2], ∀ ls ∈ [[], [line]], let s := parkedAt k ls 100
      (s.core 0).replay[0]? = some (parkedCmd k) ∧ CleanAt s 0) ∧
    (∀ k ∈ [0, 2], parkedReady ((parkedAt k [] 100).core 0) (parkedCmd k) = false) ∧
    (∀ k ∈ [0, 2], parkedReady ((parkedAt k [line] 100).core 0) (parkedCmd k) = true) ∧
    parkedReady ((parkedAt 1 [] 100).core 0) (parkedCmd 1) = false ∧
    ((late.core 0).replay[0]? = some (parkedCmd 2) ∧ (late.core 0).m.mode ≠ .stopped ∧
      parkedReady (late.core 0) (parkedCmd 2) = false ∧
      (late.core 0).waitPassed late.now (parkedCmd 2).since (late.core 0).missLimit.toNat = true) := by
  unfold CleanAt; decide +kernel

/-- Matrices of 2 × 2 elements, the second with versions. -/
def recS : Block := mkRec 7 0 0 0x10000 [2, 2] [4, 256]

@[inherit_doc recS] def recT : Block := mkRec 8 0 1 0x20000 [2, 2] [4, 256]

/-- A request for a record's tile 0 by core 0. -/
def reqOf (r : Block) (minv : Option (BitVec 8)) (stage : ReqStage) : TileReq :=
  { id := 70, cluster := 0, core := some 0, key := tile0 r, lrec := r, minv := minv, free := false, cls := 2, lvl := 0,
    who := none, stage := stage }

/-- A directory entry of a record's tile 0 at version 4, held by cluster 0 or by none. -/
def entOf (r : Block) (hv : Bool) : DirEntry := { key := tile0 r, nv := 4, req := 4, hv := hv, hdie := 0, hcl := 0, pk := false }

/-- Such a request with lines of core 0's alcove and of its hall. -/
def sReq (q : TileReq) (alcove hall : List TileLine) (dir : List DirEntry) (now : Nat) : State :=
  { stOf .a { coreWith [] with alcove := alcove, recs := [recS, recT] } with
    issue := {}, clusters := [(0, { mapped with hall := hall })], reqs := [q], dir := dir, now := now }

theorem wit_TileFills :
    let ln := fun (r : Block) st => { lineFor (alcoveBank (tile0 r)) r st with fill := 70 }
    let ls := fun (r : Block) st => [ln r st]
    let core := reqOf recS none (.toCore 3 5)
    let hall := reqOf recS none (.toHall 3 5)
    let got := fun (x : Except AccFail Line) => match x with | .ok _ => true | .error _ => false
    let home := fun (r : Block) m hv => sReq (reqOf r m .home) [] [] [entOf recT hv] 100
    let gather := fun (s : State) (r : Block) (q : TileReq) => gatherTile (s.asSeen (q.reader s)) 0 1 r 0 0 0
    (∀ st ∈ [LineState.filling, .dirty], let s := sReq core (ls recS st) [] [] 100
      s.reqs[0]? = some core ∧ fillingLine (s.core 0).alcove core = if st = .filling then some (ln recS st) else none) ∧
    (∀ c ∈ [none, some 0], let q := { hall with core := c }
      let s := sReq q [] (ls recS .filling) [] 100
      let u := sReq q [] [] [] 100
      s.reqs[0]? = some q ∧ fillingLine (s.cluster 0).hall q = some (ln recS .filling) ∧
      u.reqs[0]? = some q ∧ lineOf (u.cluster 0).hall q.key = none) ∧
    (lookupLine ((sReq (reqOf recS none .hall) [] (ls recS .clean) [] 100).cluster 0).hall (tile0 recS) none).isSome = true ∧
    (∀ l ∈ [[], ls recT .clean], let s := sReq (reqOf recT none (.forwarded 0 4)) [] l [entOf recT true] 100
      (∀ q ∈ s.reqs, q.stage ≠ .parked) ∧ (∀ x ∈ (s.cluster 0).hall, x.thru = false) ∧
      (dirOf s (tile0 recT)).holder = 0 ∧ (lookupLine (s.cluster 0).hall (tile0 recT) none).isSome = !l.isEmpty) ∧
    (recVersioned recS = false ∧ got (gather (home recS none false) recS (reqOf recS none .home)) = true) ∧
    (recVersioned recT = true ∧ (entOf recT false).meets (some 4) false = true ∧ (entOf recT false).hv = false ∧
      dirOf (home recT (some 4) false) (tile0 recT) = entOf recT false ∧ got (gather (home recT (some 4) false) recT (reqOf recT (some 4) .home)) = true) ∧
    ((entOf recT true).meets (some 4) false = true ∧ dirOf (home recT (some 4) true) (tile0 recT) = entOf recT true ∧
      forwardedTo (home recT (some 4) true) (homeOf (tile0 recT)) 0 = 0 ∧
      (let q := reqOf recT none (.forwarded 0 4)
       forwardedTo { home recT (some 4) true with reqs := [reqOf recT (some 4) .home, q, { q with id := 71 }] }
        (homeOf (tile0 recT)) 0 = 2)) ∧
    (entOf recT true).meets (some 5) false = false ∧
    (((home recT (some 5) true).dir.any fun x => x.key == tile0 recT) = true) ∧
    (50 + 256 ≤ 400 ∧ (sReq (reqOf recT none (.retry 50)) [] [] [] 400).now = 400 ∧
      (sReq (reqOf recT none (.retry 50)) [] [] [] 100).now < 50 + 256) := by decide +kernel

/-- Core 0 with a line of a record's tile 0 in its alcove or its hall, and a publication of it. -/
def sLines (alcove hall : List TileLine) (pubs : List Publication) (dir : List DirEntry) : State :=
  { stOf .a { coreWith [] with alcove := alcove, recs := [recS, recT], pubs := pubs } with
    issue := {}, clusters := [(0, { mapped with hall := hall })], dir := dir,
    raises := [{ key := tile0 recT, lrec := recT, cluster := 0, cmd := 8 }] }

/-- A result that goes on. -/
def wroteOk (x : Except AccFail State) : Bool :=
  match x with
  | .ok _ => true
  | .error _ => false

theorem wit_TileWritebacks :
    let line := fun (r : Block) st keep => { lineFor (alcoveBank (tile0 r)) r st with keep := keep }
    let pub := fun pa => ({ id := 6, key := tile0 recT, lrec := recT, pa := pa } : Publication)
    (∀ keep ∈ [false, true], let l := line recS .draining keep
      let s := sLines [l] [line recS .clean false] [] []
      (s.core 0).alcove[0]? = some l ∧ l.forPub = false ∧ tileWt s 0 l.key l.lrec = false ∧
      lineOf (s.cluster 0).hall l.key = some (line recS .clean false) ∧ verMeets l.ver (some 0) = true) ∧
    (let l := line recT .draining true
     let s := sLines [l] [line recT .clean false] [pub none] [entOf recT true]
     (s.core 0).alcove[0]? = some l ∧ l.forPub = true ∧ tileWt s 0 l.key l.lrec = false ∧ pubLabel s 0 l.key = some 5 ∧
     lineOf (s.cluster 0).hall l.key = some (line recT .clean false) ∧ verMeets 5 (some 0) = true) ∧
    (∀ pa ∈ [none, some (Kind.a, 5)], let s := sLines [line recT .clean false] [] [pub pa] [entOf recT true]
      (s.core 0).pubs = [pub pa] ∧ recVersioned recT = true ∧ (s.dir.any fun x => x.key == tile0 recT) = true ∧
      awaitsDrain (s.core 0) (pub pa) = false ∧
      (s.raises[0]?).isSome = true ∧ (s.raises.all fun x => x.key == tile0 recT && x.since.isNone && x.cluster == 0) = true) ∧
    (let s := sLines [line recT .draining true] [] [pub none] [entOf recT true]
     awaitsDrain (s.core 0) (pub none) = true) ∧
    (let s := sLines [] [] [] [entOf recT true]
     (s.raises[0]?).isSome = true ∧ ∀ n ∈ clusterCores 0, lineOf (s.core n).alcove (tile0 recT) = none) := by decide +kernel

/-- A hall line that goes back to memory, one that does not drain, and one whose publication is still under way. -/
theorem wit_TileWritebacks_home :
    let s := fun (r : Block) st => sLines [] [lineFor (alcoveBank (tile0 r)) r st] [] [entOf recT true]
    let l := lineFor (alcoveBank (tile0 recS)) recS .draining
    let u := s recS .draining
    let held := sLines [] [lineFor (alcoveBank (tile0 recT)) recT .draining]
      [{ id := 6, key := tile0 recT, lrec := recT, pa := none, drained := true }] [entOf recT true]
    wroteOk (scatterTile (l.writer u) l.byAst u 0 1 recS 0 0 0 0) = true ∧ u.reqs = [] ∧ heldLine u 0 (tile0 recS) = false ∧
    recVersioned recS = false ∧ ((s recS .dirty).cluster 0).hall[0]? = some (lineFor (alcoveBank (tile0 recS)) recS .dirty) ∧
    heldLine held 0 (tile0 recT) = true := by
  decide +kernel

/-- A versioned line that its hall holds. -/
theorem wit_TileWritebacks_versioned :
    let l := lineFor (alcoveBank (tile0 recT)) recT .draining
    let s := sLines [] [l] [] [entOf recT true]
    wroteOk (scatterTile (l.writer s) l.byAst s 0 1 recT 0 0 0 0) = true ∧ s.reqs = [] ∧
    heldLine s 0 (tile0 recT) = false ∧ recVersioned recT = true ∧
    (dirOf s (tile0 recT)).hv = true ∧ (dirOf s (tile0 recT)).holder = 0 := by decide +kernel

/-- A box of 2 × 2 elements. -/
def smallBox : Block :=
  BitVec.ofNat 1024 (leNat (leBytes 8 2 ++ fieldBytes 4 36 [0, 0] ++ fieldBytes 4 36 [0, 0] ++ fieldBytes 4 36 [2, 2]))

/-- A copy of that box between two small matrices. -/
def copyS : EngineCmd := { someCopy with recs := [recS, recT], block := smallBox }

/-- Engine 2 of cluster 0 with some queues. -/
def sBte (b : Bte) : State :=
  { stOf .a (coreWith []) with issue := {}, clusters := [(0, { mapped with btes := [(2, b)] })] }

theorem wit_CopiesProgress :
    let marker := fun left => { sBte { runq := [.marker 4] } with invals := [{ id := 4, ctx := 1, left := left, notify := true }] }
    let fin := { copyS with id := 6, op := 0x30, begun := true, done := true }
    let done := { sBte {} with clusters := [(0, { mapped with selq := [fin] })] }
    (∀ b ∈ ([{ runq := [.cmd copyS] }, { vest := [copyS] }] : List Bte), let s1 := releaseDue (sBte b) 0 2
      ((s1.bte 0 2).runq.map fun x => match x with | .cmd c => c.id | .marker _ => 0) = [3] ∧ (s1.bte 0 2).act.length < 4 ∧
      wroteOk (performCopy s1 0 copyS) = true) ∧
    (((sBte { act := [copyS] }).bte 0 2).act[0]? = some copyS ∧ copyS.failed = false ∧
      olderCopy (sBte { act := [copyS] }) 0 copyS = false ∧ wroteOk (performCopy (sBte { act := [copyS] }) 0 copyS) = true ∧
      ((sBte { act := [copyS] }).core copyS.core).task = copyS.task) ∧
    (∀ left ∈ [[2], [2, 9]], ((marker left).bte 0 2).runq = [.marker 4] ∧ ((marker left).bte 0 2).act = [] ∧
      ((marker left).invals.find? fun x => x.id == 4).isSome = true ∧ ((left.filter fun x => x != 8 * 0 + 2) = [] ↔ left = [2])) ∧
    ((doneCmds done)[0]? = some fin ∧ (done.raises.any fun r => r.cmd == fin.id) = false ∧ owesAcks done fin = false ∧
      (done.core fin.core).task = fin.task) := by decide +kernel

/-- The records of a session with one token, choice, expert and rank. -/
def recsP : List Block :=
  [mkFmt 40 0 5 5 0 0x40000 [2, 4] [4, 64], mkFmt 41 0 0 5 0 0x41000 [2, 4] [4, 64], mkFmt 42 0 0 5 0 0x42000 [2, 4] [4, 64],
   mkFmt 43 0 0 5 0 0x43000 [2, 4] [4, 64], mkFmt 44 0 0 5 0 0x44000 [2, 4] [4, 64], mkFmt 45 0 0 5 0 0x45000 [2, 4] [4, 64],
   mkFmt 46 0 5 5 0 0x46000 [2, 4] [4, 64], mkFmt 47 0 5 5 0 0x47000 [2, 4] [4, 64], mkFmt 48 0 5 5 0 0x48000 [4, 4] [4, 64]]

/-- A counted session 2 of die 0: rank 0 of `nr` ranks. -/
def sessP (nr : Nat) : Session :=
  { ownedSession .counted with
    block := blockOf (wordsBytes [(nr - 1) * 2 ^ 21 + 2, 2 ^ 56 + 2 ^ 32, 0, 0, 0, 0, 0, 0, 0, 0, 0, 0x8000]), recs := recsP,
    group := grpKey, table := [(0, 4, 0)], counts := [] }

/-- A command of a unit: its operation and function, and the first register read. -/
def unitCmd (op fn : Nat) (reg : Word) : EngineCmd := { copyS with op := op, fn := fn, regs := [reg], begun := false }

/-- Die 0 with that session and a command of it. -/
def sDie (nr : Nat) (c : EngineCmd) (now : Nat) : State :=
  { stOf .a (coreWith []) with issue := {}, dies := [(0, { sessions := [sessP nr], rteq := [c] })], now := now }

theorem wit_EnginesPerform_route :
    let ok := fun (x : Except RouteStop State) => match x with | .ok _ => true | .error _ => false
    (∀ c ∈ [unitCmd 0x32 2 2, unitCmd 0x32 3 2, unitCmd 0x33 0 2], let s := sDie 1 c 100
      sessHead s 0 2 = some c ∧ c.begun = false ∧ olderOverlap s c = false ∧ findSession (s.die 0) (cmdSess c) = some (sessP 1) ∧
      (let d := routeCmd s c (sessP 1)
       ok (match c.op, c.fn with
        | 0x32, 2 => performPlace s 0 d (sessP 1)
        | 0x32, _ => performScatter s 0 d (sessP 1)
        | _, _ => performGather s 0 d (sessP 1)) = true)) := by decide +kernel

/-- A count whose second rank never comes, and a contribution of a domain group. -/
theorem wit_EnginesPerform_count :
    let c := { unitCmd 0x32 1 2 with seq := 1, since := 100 }
    let s := sDie 2 c (1024 * 5)
    let m : CountMsg := { (default : CountMsg) with group := { grpKey with domain := true, xkey := 5, mods := 3 }, sess := 2, seq := 1 }
    let own : CountMsg := { (default : CountMsg) with group := grpKey, sess := 2, seq := 1, rank := 0 }
    let t := s.modDie 0 fun d => { d with held := [own] }
    waitingCount t 0 2 = some (c, sessP 2) ∧
    ((List.range (rteNr (sessP 2).block)).find? fun r => (countsFor t 0 (sessP 2) c.seq).all fun m => m.rank != r) = some 1 ∧
    limitPassed t.now c.since (rteTmo (sessP 2).block) = true ∧
    (m.group.domain = true ∧ waitingCount (s.modDie 1 fun d => { d with held := d.held ++ [m] }) 1 m.sess = none ∧
      ((s.die 1).held.any fun x => sameCount x m) = false ∧
      ((s.die 1).sessions.any fun x => x.num == m.sess && x.group == m.group) = false) := by decide +kernel

/-- A selection, also one of an unmapped record, and a registration at a Landing. -/
theorem wit_EnginesPerform_units :
    let vec := fun tid fmt base => mkFmt tid 0 fmt 5 0 base [4] [4]
    let block := blockOf (wordsBytes [4 * 2 ^ 32 + 2, 0, 0, 0, 0, 0, 0, 0])
    let sel := fun base => { unitCmd 0x30 0 0 with block := block, recs := [vec 1 0 base, vec 2 0 0x41000, vec 3 5 0x42000] }
    let s := fun c => { stOf .a (coreWith []) with issue := {}, clusters := [(0, { mapped with selq := [c] })] }
    let reg := { unitCmd 0x31 1 0x307 with block := blockOf (wordsBytes [0x307, 8, 0, 0]), recs := [recA] }
    let lnd := { stOf .a (coreWith []) with issue := {}, clusters := [(3, { slots := [ownedSlot], lndq := [reg] })] }
    (∀ b ∈ [0x40000, 0x4000_0000_0000], olderOverlap (s (sel b)) (sel b) = false ∧ (sel b).begun = false) ∧
    wroteOk (performSelection (s (sel 0x40000)) 0 (sel 0x40000)) = true ∧
    (match performSelection (s (sel 0x4000_0000_0000)) 0 (sel 0x4000_0000_0000) with
     | .error (.access _) => true
     | _ => false) = true ∧
    ((lnd.cluster 3).lndq.find? fun x => cmdSlot x == 7) = some reg ∧ reg.begun = false ∧ reg.fn = 1 ∧ ownedSlot.num = 7 ∧
    ownedSlot ∈ (lnd.cluster 3).slots ∧ olderOverlap lnd reg = false := by decide +kernel

/-- Slot 7 of Landing 3, set up over 64 positions of which one is masked, and with no owner. -/
def readySlot : LandingSlot :=
  { ownedSlot with block := blockOf blkSetup, recs := [3, 4, 4, 5, 6].map fun i => recsE.getD i 0, mask := 1, st := .ready }

@[inherit_doc readySlot]
def sLnd (l : LandingSlot) (c : EngineCmd) : State :=
  { stOf .a (coreWith []) with issue := {}, clusters := [(3, { mapped with slots := [l], lndq := [c] })] }

/-- A setup, a round, its record and a free. -/
theorem wit_EnginesPerform_landing :
    let setup := { unitCmd 0x31 0 0x307 with block := blockOf blkSetup, recs := readySlot.recs }
    let round := unitCmd 0x31 2 0x307
    let begun := { round with begun := true, result := [1, 0, 1, 0] }
    let free := unitCmd 0x31 3 0x307
    let none_ := { readySlot with owner := none }
    (∀ c ∈ [setup, round, free], let s := sLnd readySlot c
      ((s.cluster 3).lndq.find? fun x => cmdSlot x == 7) = some c ∧ c.begun = false ∧ olderOverlap s c = false ∧
      findSlot (s.cluster 3) 7 = some readySlot) ∧
    wroteOk (performSetup (sLnd readySlot setup) 3 setup) = true ∧
    (match performRound (sLnd readySlot round) 3 round readySlot with
     | .ok u => ((u.cluster 3).lndq.find? fun x => x.id == round.id).isSome
     | .error _ => false) = true ∧
    (none_ ∈ ((sLnd none_ free).cluster 3).slots ∧ none_.num = 7 ∧ none_.owner = none) ∧
    (let s := sLnd readySlot begun
     ((s.cluster 3).lndq.find? fun x => cmdSlot x == 7) = some begun ∧ begun.done = false ∧ begun.failed = false ∧ s.raises = [] ∧
     wroteOk (enginePutAs begun.party 3 begun.ctx (unmRec readySlot.block) (roundRecord s 1 0 1 0) s) = true) := by
  decide +kernel

/-- Collectives: the contribution of rank 0 to a group of `p` ranks. -/
def collMsg0 : CollMsg := { (default : CollMsg) with group := grpKey, rank := 0, n := 2, values := [0, 0] }

@[inherit_doc collMsg0]
def sColl (p : Nat) (c : EngineCmd) (now : Nat) : State :=
  { stOf .a (coreWith []) with
    issue := {}, dies := [(0, { collq := [c] })], colls := [collMsg0], now := now, tasks := [{ placeTask 1 0 with grps := [1] }],
    launches := [{ placeLaunch 0 with gtab := [0, grpEnt (2 ^ p - 1) 0 0], recBits := BitVec.ofNat 4096 (2 ^ 38) }] }

theorem wit_EnginesPerform_collective :
    let c := { unitCmd 0x34 0 0 with
      block := blockOf (wordsBytes [2 ^ 56 + 2, 0, 0, 0, 2, 0, 0, 0]), recs := [mkFmt 1 0 0 5 0 0x40000 [4] [4], mkFmt 2 0 0 5 0 0x41000 [4] [4]],
      begun := true, since := 100 }
    let s := sColl 1 c 100
    let v := collView s c
    let w := sColl 2 c 5000
    let m : CollMsg := { collMsg0 with group := { grpKey with domain := true } }
    (s.die 0).collq[0]? = some c ∧ c.done = false ∧ c.failed = false ∧ c.begun = true ∧
    ((∀ m ∈ collsFor s c v, collShape c v m = true) ∧ (∀ q, q < v.p → ∃ m ∈ collsFor s c v, m.rank = q) ∧ v.p = 1 ∧
      (let dst := c.recs.getD 1 0
       let s0 := s.modEngineCmd c.id fun d => { d with scope := match s.group? v.key with
         | none => c.scope
         | some g => Nat.max c.scope g.scope }
       let ws := collResults c.block v (recEfmt (c.recs.getD 0 0)) (recEfmt dst) (collsFor s c v)
       wroteOk (foldE (fun t x => engineWrite t none (collCluster c) c.ctx dst x.1 x.2) ws
         (openElems c.party (collCluster c) c.ctx dst (ws.map fun x => x.1) s0)) = true)) ∧
    (limitPassed w.now c.since (collTmo c.block) = true ∧ (collView w c).p = 2 ∧
      ((List.range (collView w c).p).find? fun q => (collsFor w c (collView w c)).all fun m => m.rank != q) = some 1) ∧
    (m.group.domain = true ∧ (s.colls.any fun x => x.group == m.group && x.seq == m.seq && x.rank == m.rank) = false) ∧
    (((sBte {}).colls.any fun x => x.group == m.group) = false ∧ ∀ d ∈ (sBte {}).dies, ∀ c ∈ d.2.collq, c.begun = false) := by
  decide +kernel

/-! ### Pages, groups and launches -/

/-- A move of the page at 0x4000 of context 1. -/
def moveOf (st : MoveState) (lu : Bool) : PageMove :=
  { id := 3, ctx := 1, core := 0, task := some 1, tok := 0, cmd := 4, va := 0x4000, old := 0x4_0000_0000_0000, new := 0x8000, lu := lu,
    deadline := 50, st := st, copied := 0, read := 0xFFFF_FFFF_FFFF_FFFF, wrote := 0, inval := none }

theorem wit_PageEvents :
    let s := { stOf .a (coreWith []) with mem := placeMem [] [] }
    let t := fun (m : PageMove) => { s with moves := [m] }
    (s.ctxAt 1 = some placeCtx ∧ tlbHit s 1 placeCtx.id 0x4010 = none ∧ walk s placeCtx.id 0x4010 = .ok 0x4010 0x1F 36) ∧
    (∀ st ∈ [MoveState.copying, .switching, .resident, .returning], ∀ lu ∈ [true, false],
      (t (moveOf st lu)).moves[0]? = some (moveOf st lu) ∧ (moveOf st lu).st = st ∧ (moveOf st lu).lu = lu ∧
      invalDone (t (moveOf st lu)) (moveOf st lu) = true ∧ frameIdle (t (moveOf st lu)) (moveOf st lu).old = true ∧
      frameIdle (t (moveOf st lu)) (moveOf st lu).new = true ∧ ∀ x ∈ (t (moveOf st lu)).moves, x.id = (moveOf st lu).id) ∧
    ((t (moveOf .switching true)).ctx? 1 = some placeCtx ∧ (moveOf .switching true).deadline ≠ 0 ∧
      (moveOf .switching true).deadline < s.now) := by decide +kernel

/-- With some far tier installed and a frame in the context's stash, a waiting page may move. -/
theorem wit_PageEvents_wait (h : 0 < Config.farGiB) :
    let m := moveOf .wait true
    let c := { placeCtx with stash := [0x8000] }
    let s := { stOf .a (coreWith []) with
      clusters := [(0, { tlb := [{ ctx := 1, va := 0x4000, bits := 14, leaf := 0x4_0000_0000_001F }] })], ctxs := [c], moves := [m] }
    (s.moves.find? fun y => y.ctx == m.ctx && y.st == .wait) = some m ∧ pageMoving s m = false ∧
    promotable s 0 m.ctx 0x4000 = some 0x4_0000_0000_0000 ∧
    (coreCluster m.core = 0 ∧ m.va = 0x4000 ∧ m.old = 0x4_0000_0000_0000) ∧ s.ctx? m.ctx = some c ∧
    (match takeSpare s (coreCluster m.core) c with
     | .ok (some (x, _)) => x == 0x8000
     | _ => false) = true := by
  intro m c s
  have e : lookupVa s 0 m.ctx 0x4000 = .ok 0x4_0000_0000_0000 0x4_0000_0000_001F 14 := by decide +kernel
  have k : memKind s 0x4_0000_0000_0000 = .far := by
    have h2 : (0x4_0000_0000_0000 : Nat) < 0x4_0000_0000_0000 + min Config.farGiB 4096 * 2 ^ 30 := by
      have : 0 < min Config.farGiB 4096 := by omega
      omega
    rw [memKind, if_neg (by decide), if_pos (by rw [Bool.and_eq_true]; exact ⟨by decide, decide_eq_true h2⟩)]
  have l : (0x4_0000_0000_001F : Word).getLsbD 52 = false := by decide
  refine ⟨by decide +kernel, by decide +kernel, ?_, by decide +kernel, by decide +kernel, by decide +kernel⟩
  rw [promotable, e]
  exact if_pos ⟨rfl, k, l⟩

/-- A group of a domain with module 3, at generation 1. -/
def domState : GroupState :=
  { (grpState 5 [1] []) with key := { grpKey with domain := true, xkey := 5, mods := 9 }, gen := 1 }

/-- A launch that holds the domain key 5. -/
def domLaunch : Launch := { placeLaunch 0 with gtab := [0, BitVec.ofNat 2048 (2 ^ 63 + 5 + 2 ^ 128 + 9 * 2 ^ 768)] }

theorem wit_GroupsAndFlags :
    let m : GroupMsg := { key := grpKey, task := 1, what := 0, flag := 9 }
    let s := fun g => { sGrp [1] g with gmsgs := [m] }
    let part := grpState 3 [1, 2] []
    let whole := grpState 3 [1] []
    let d := { sGrp [1] domState with launches := [domLaunch] }
    let f := fun (y : Task) => { stOf .a (coreWith []) with tasks := [y], fmsgs := [{ task := some 1, core := 0, flag := 9, add := 1 }] }
    (∀ g ∈ [part, whole], (s g).gmsgs[0]? = some m ∧ (s g).group? m.key = some g ∧ g.joiners.contains m.task = false) ∧
    ({ part with arrived := [(1, 9)] } : GroupState).localDone = false ∧
    (({ whole with arrived := [(1, 9)] } : GroupState).localDone = true ∧ whole.key.domain = false ∧ whole.scope ≠ 2 ∧
      whole.members ≠ [] ∧ whole.joiners = [] ∧ whole.next = []) ∧
    ((d.groups.find? fun g => g.key.domain && g.key.xkey == 5) = some domState ∧ 3 ≠ d.modNum.toNat ∧
      domState.key.mods.getLsbD 3 = true ∧ domState.key.mods.getLsbD 4 = false ∧ domState.mods.contains (3, 2 - 1) = false ∧
      domState.gen ≤ 2 - 1 ∧ domState.localDone = false ∧ domLaunch.hasKey 5 = true) ∧
    ((f (placeTask 1 0)).task? 1 = some (placeTask 1 0) ∧ (placeTask 1 0).live = true) ∧
    (let y := { placeTask 1 0 with st := .saving, saved := true }
     (f y).task? 1 = some y ∧ y.live = false ∧ y.saved = true ∧ y.flagsHeld = true) ∧
    (let y := { placeTask 1 0 with st := .waiting, saved := true, area := 0x100001 }
     let lost := { f y with launches := [] }
     (f y).task? 1 = some y ∧ y.live = false ∧ y.saved = true ∧ y.flagsHeld = false ∧
     savedFlagAt (f y) y 9 = some (0x100000 + 0x1380 + 36, false) ∧
     (match readPhys (f y) 0x1013A4 4 with | .ok bs => bs.length == 4 | .error _ => false) = true ∧
     (writePhys false (f y) 0x1013A4 (leBytes 4 1)).2 = none ∧ lost.task? 1 = some y ∧ savedFlagAt lost y 9 = none) ∧
    (let y := { placeTask 1 0 with st := .retired }
     (f y).task? 1 = some y) := by decide +kernel

/-- A launch record at 0x2000 of one task, a command block at 0x1000 and a ring entry at 0x8000 that name it. -/
def memLaunch : List Host.Cell :=
  writeBytes (writeBytes (writeBytes [] 0x2000 (wordsBytes [2 ^ 38, 0, 0x4000, 0x5000, 0x6000, 0x7000, 1])) 0x1000
    (wordsBytes [2 ^ 56, 0x2000, 77, 0])) 0x8000 (wordsBytes [0x2000, 0, 5])

/-- Cluster 0's scheduler queue with such an entry, of a context in some state. -/
def sTake (ctl : CtlState) : State :=
  let e : RenqEntry := { addr := 0x1000, core := 0, task := some 1, ctx := 1, prio := 1 }
  { stOf .a (coreWith []) with
    issue := {}, mem := memLaunch, clusters := [(0, { mapped with renq := [(16, [e])] })],
    ctxs := [{ ctxWith 1 with ctl := ctl, lqtail := 1 }] }

/-- A judged launch accepted. -/
def judgedOk (x : Except LaunchErr (BitVec 4096 × LaunchParts)) : Bool :=
  match x with
  | .ok _ => true
  | .error _ => false

theorem wit_LaunchesPlaced_take :
    let s := sTake .running
    let c := { ctxWith 1 with lqtail := 1 }
    (∀ ctl ∈ [CtlState.running, .stopping, .stopped], (sTake ctl).ctx? 1 = some { c with ctl := ctl } ∧
      (renqOf (sTake ctl) (0, 16)).map (fun e => (e.addr, e.ctx)) = [(0x1000, 1)]) ∧
    engineBytes (setRenq s (0, 16) []) 0 1 0x1000 256 = .ok (wordsBytes [2 ^ 56, 0x2000, 77, 0] ++ List.replicate 224 0) ∧
    commandOk (BitVec.ofNat 2048 (leNat (wordsBytes [2 ^ 56, 0x2000, 77, 0]))) = true ∧
    judgedOk (judgeLaunch (setRenq s (0, 16) []) 0 1 0x2000 none) = true ∧
    (s.ctxAt 1 = some c ∧ c.lqtail ≠ c.lqhead ∧ (c.lqtail - c.lqhead).toNat ≤ c.lqsize ∧ c.ctl = .running ∧ c.fault = none ∧
      noteReady s c.id = true ∧ clusterWorks s 0 = true ∧
      engineBytes s 0 c.id (c.lq + 64 * (c.lqhead.toNat % c.lqsize)) 64 = .ok (wordsBytes [0x2000, 0, 5] ++ List.replicate 40 0) ∧
      judgedOk (judgeLaunch (s.modCtx c.id fun c => { c with lqhead := c.lqhead + 1 }) 0 c.id 0x2000 none) = true) := by
  decide +kernel

theorem wit_LaunchesPlaced :
    let t := fun st => { placeTask 1 0 with st := st }
    let s := fun st => { stOf .a (coreWith []) with issue := {}, cores := [], tasks := [t st], ctxs := [ctxWith 1], now := 0x400 * 1024 + 2048 }
    let l := placeLaunch 0
    let w : Waiting := { launch := l, arrival := 0, tasks := [t .waiting] }
    let started := { s .starting with cores := [(0, { task := some 1, ctx := 1 })] }
    ((waitingAt (s .waiting) 0).map (fun w => (w.launch, w.tasks)) = [(w.launch, w.tasks)] ∧ w.tasks = [t .waiting] ∧ isGang w.launch = false ∧ w.launch.ctx = 1 ∧
      mayPlace (s .waiting) (ctxWith 1) w.launch = true ∧ (s .waiting).ctx? 1 = some (ctxWith 1) ∧
      (usableCores (s .waiting) w.launch (t .waiting)).find? (coreFree (s .waiting)) = some 0 ∧
      (s .waiting).task? 1 = some (t .waiting)) ∧
    ((s .residing).task? 1 = some (t .residing) ∧
      limitPassed (s .residing).now 0 ((s .residing).cluster (coreCluster 0)).restime.toNat = true) ∧
    (started.task? 1 = some (t .starting) ∧ started.launch? 0 = some l ∧ readyToStart started (t .starting) l = true ∧
      (t .starting).saved = false) := by decide +kernel

/-! ### Saves -/

/-- Launch 0 of context 1 with one task on core 0, whose area stands at 0x100000, and that core. -/
def sTask (y : Task) (c : Core) : State :=
  { stOf .a { c with ctx := 1, task := some 1 } with
    issue := {}, tasks := [{ y with area := 0x100001 }], ctxs := [ctxWith 1], now := 8192 }

/-- A task of that launch in some state. -/
def taskAs (st : TaskState) : Task := { placeTask 1 0 with st := st, area := 0x100001 }

/-- A core whose strands have halted. -/
def haltedCore : Core :=
  let st : Strand := { mode := .halted }
  { a := st, c := st, m := st, v := st, ctx := 1, task := some 1 }

theorem wit_TasksEnd :
    let l := placeLaunch 0
    let y := taskAs .running
    let s := sTask y haltedCore
    let bad := { haltedCore with toks := [(2, { count := 0, err := true, reason := 4 })] }
    let ended := sTask (taskAs .retired) {}
    let grace := sTask (taskAs .stopping) { coreWith [] with pgrace := 1, preqSince := 100 }
    (s.task? 1 = some y ∧ s.launch? 0 = some l ∧ haltedCore.finished = true ∧ tokErrs haltedCore 0xFF = []) ∧
    (bad.finished = true ∧ tokErrs bad 0xFF ≠ []) ∧
    ((∀ x ∈ ended.tasks, x.launch = l.id → x.st = .retired) ∧ faulted (drainRan ended l) l.ctx = false) ∧
    (grace.task? 1 = some (taskAs .stopping) ∧ (taskAs .stopping).why = 0 ∧ (taskAs .stopping).cutAt = none ∧
      (grace.core 0).pgrace ≠ 0 ∧ limitPassed grace.now (grace.core 0).preqSince (grace.core 0).pgrace.toNat = true ∧
      ((sTask (taskAs .stopping) (coreWith [])).core 0).pgrace = 0) := by decide +kernel

/-- A task at its cut, whose area may be written. -/
theorem wit_TasksEnd_cut :
    let y := { taskAs .stopping with cutAt := some 50 }
    let s := sTask y (coreWith [])
    let u := leaveTiles (saveTask s y) 0 1
    atCut s y = true ∧ (u.task? 1).isSome = true ∧ ((u.task? 1).all fun x =>
      (areaUnwritable (traceStop u x 1) x 1 (areaEnd x.parked.length x.cmds.length)).isNone) = true := by decide +kernel

/-- A save whose last block is not yet acknowledged, of a pre-empted task and of a stopped context. -/
theorem wit_TasksEnd_save :
    ∀ why ∈ [0, 2], let y := { taskAs .saving with saved := true, cutAt := some 50, why := why, ackd := 0xFFFF_FFFF_FFFF_FFFF_FFFE }
    let s := sTask y (coreWith [])
    (match saveOf s y with
     | some v => !saveParked s v && v.c.ctl != .stopping && !v.c.resumePend &&
        wroteOk (writeBlocks v (v.blocks.filter fun b => !y.ackd.getLsbD b) s)
     | none => false) = true := by decide +kernel

/-- A saved task placed again, its header in memory. -/
theorem wit_TasksEnd_resume :
    ∀ why ∈ [0, 3], let y := { taskAs .starting with saved := true, why := why }
    let s := { sTask y {} with mem := writeBytes [] 0x100000 (leBytes 8 0x0001BC11) }
    let x := ctxWith 1
    let w := areaWord s x y
    s.ctx? 1 = some x ∧ readyToStart s y (placeLaunch 0) = true ∧ (areaUnreadable s x y false 0x1000).isNone = true ∧
    areaHeaderOk w = true ∧
    (areaUnreadable s x y ((w 0x18).getLsbD 0)
      (areaEnd ((w 0x18).extractLsb' 12 5).toNat ((w 0x18).extractLsb' 24 7).toNat)).isNone = true := by decide +kernel

/-! ### The host, the module and its links -/

/-- A descriptor at 0x40000 for context 2, or for context 0, which none may be. -/
def sDesc (w0 : Nat) (cs : List Context) : State :=
  { stOf .a {} with issue := {}, mem := writeBytes [] 0x40000 (leBytes 256 (ctxDesc w0 4).toNat), ctxs := cs }

theorem wit_ContextEvents :
    let live : Context := { ctxWith 2 with id := 2 }
    let f : FaultRec := { (default : FaultRec) with code := 0x10, ctx := 1 }
    let held := { ctxWith 1 with nqwrite := 16, noteq := [(5, [1, 2, 3, 4])] }
    let post := fun (cs : List Context) => { stOf .a {} with posts := [f], ctxs := cs }
    let one := fun (c : Context) => { stOf .a (coreWith []) with ctxs := [c] }
    (readDesc (sDesc 2 []) 0x40000 = some (ctxDesc 2 4) ∧ descOk (newContext (ctxDesc 2 4)) = true ∧
      (sDesc 2 []).ctx? (newContext (ctxDesc 2 4)).id = none ∧ (sDesc 2 [live]).ctx? 2 = some live ∧ live.ctl ≠ .ended ∧
      readDesc (sDesc 0 []) 0x40000 = some (ctxDesc 0 4) ∧ descOk (newContext (ctxDesc 0 4)) = false ∧
      (∀ op ∈ [1, 2], cmdRuns (sDesc 2 []) op 0x40000 = true ∧
        cmdRuns { sDesc 2 [] with ctxcmd := some 0x1000_0000_0000_1000 } op 0x40000 = false)) ∧
    ((one (ctxWith 1)).ctxAt 1 = some (ctxWith 1) ∧ (ctxWith 1).noteq = [] ∧ (ctxWith 1).traceq = [] ∧
      (one held).ctxAt 1 = some held ∧ held.noteq = [(4 + 1, [1, 2, 3, 4])] ∧ (held.nqwrite - 3).toNat < held.nqsize ∧
      (sysWrite (one held) (held.nq + 32 * (held.nqwrite.toNat % held.nqsize)) [1, 2, 3, 4]).2 = none) ∧
    (let c := { ctxWith 1 with fault := some f }
     (one c).ctxAt 1 = some c ∧ c.ctl ≠ .ended ∧ (post [c]).ctx? f.ctx = some c) ∧
    ((post []).posts[0]? = some f ∧ (post []).ctx? f.ctx = none ∧ (post [ctxWith 1]).ctx? f.ctx = some (ctxWith 1) ∧
      (ctxWith 1).fault = none) := by decide +kernel

theorem wit_HostControl :
    let one := fun (c : Context) => { stOf .a (coreWith []) with ctxs := [c] }
    let c := ctxWith 1
    let s := one c
    let stopped := { c with ctl := .stopped }
    let w := { one stopped with dbgctx := 1 }
    let tr := { ctxWith (1 + 2 ^ 22 + 2 ^ 23 + 10 * 2 ^ 24) with tqwrite := 16 }
    let ts := { one tr with now := 1024 }
    (s.ctxAt 1 = some c ∧ c.ctl = .running ∧ c.killOp = false ∧ faulted s c.id = false ∧ c.resumePend = false ∧ (s.tasks.map fun t => t.id).Nodup ∧
      s.task? 1 = some (placeTask 1 0) ∧ taskOf s c.id (placeTask 1 0) = true ∧ ({ s with tasks := [] } : State).tasks = []) ∧
    ((one { c with ctl := .stopping }).ctxAt 1 = some { c with ctl := .stopping } ∧ (one stopped).ctxAt 1 = some stopped ∧
      faulted (one stopped) 1 = false ∧ faulted (one { c with ctl := .stopping }) 1 = false ∧ (one { c with killOp := true }).ctxAt 1 =
        some { c with killOp := true }) ∧
    (s.ctxcmd = none ∧ ({ s with ctxcmd := some 0 } : State).ctxcmd ≠ none ∧
      (0x1000_0000_0004_0000 : Word).extractLsb' 60 4 = 1) ∧
    (windowCtx w 8 = some stopped ∧ engineBytes w 0 1 (windowVa w stopped 8) 8 = .ok (List.replicate 8 0) ∧
      wroteOk (enginePut 0 1 (windowVa w stopped 8) (leBytes 8 5) w) = true) ∧
    (ts.ctxAt 1 = some tr ∧ tr.tron = true ∧ tr.samp ≠ 0 ∧ ts.now % 2 ^ tr.samp = 0 ∧ ctxCores ts tr.id = [0] ∧
      tr.lossless = true ∧ tr.traceRoom = false) := by decide +kernel

theorem wit_ModuleEvents :
    let s := State.reset
    let held := { sTask { taskAs .saving with saved := true } (coreWith []) with ctxs := [{ ctxWith 1 with pdl := 5 }] }
    let busy := stOf .a (coreWith [])
    (s.bbFrozen = false ∧ s.bbox.length < 2048 ∧
      (∀ u ∈ [0, 639, 640, 679, 680, 683], (unitCores u).filter (fun n => coreWorks s n && !s.failed.contains n) ≠ []) ∧
      ∀ u ∈ [0, 640, 680], ∃ c ∈ busy.ctxs, c.ctl ≠ .ended ∧ workOn busy u c.id = true) ∧
    ((1100 ≤ 1100 ∧ ∃ c ∈ busy.ctxs, c.ctl ≠ .ended) ∧ s.rollback ≤ 0) ∧
    (retraining s 11 = false ∧ (∀ x ∈ s.tasks, x.st ≠ .saving) ∧ s.hbm = []) ∧
    (retraining held 0 = false ∧ stackHeld held 0 = true) ∧
    (remapSlot [] 24575 % 4 ≠ remapSlot [] 0 % 4 ∧ swapEntries [] 24575 0 = some [(24575, 0)]) := by decide +kernel

/-- An address of the peer module 1 of a domain of two. -/
def peerPa : Nat := 0x8010000000000

theorem peer_kind (s : State) (h : s.domSize = 2) (n : s.modNum = 0) : memKind s peerPa = .peer 1 := by
  have h1 : ¬peerPa < 0x9000000000 := by decide
  have h2 : ¬(0x4000000000000 ≤ peerPa && peerPa < 0x4000000000000 + min Config.farGiB 4096 * 2 ^ 30) = true := by
    rw [Bool.and_eq_true, decide_eq_true_eq, decide_eq_true_eq]
    unfold peerPa
    have : min Config.farGiB 4096 ≤ 4096 := Nat.min_le_right ..
    omega
  rw [memKind, if_neg h1, if_neg h2, h, n]
  decide

/-- Core 0 with a load and a store that wait for the peer. -/
def sPeer : State :=
  let c := { coreWith [] with
    loads := [{ someLoad (.reg .a 5) with pa := peerPa }], stores := [{ someStore with pa := peerPa }] }
  { stOf .a c with domSize := 2, now := 2 ^ 24 + 100 }

/-- Ports up, in training and down, a window's end, and both configurations. -/
theorem wit_LinkEvents :
    let up := fun (st : BitVec 2) => ({ State.reset with dies := [(3, { ports := [(4, { st := st })] })] } : State)
    isPort 3 4 = true ∧ ((up 2).port 3 4).st = 2 ∧ ((up 1).port 3 4).st = 1 ∧ ((up 2).port 3 4).winNo = windowOf (up 2).now ∧
    ((up 2).port 3 4).winNo ≠ windowOf { up 2 with now := 2 ^ 30 }.now ∧
    ((up 2).port 3 4).lret.getLsbD 7 = false ∧ broughtUp State.reset = false ∧ domainOk 512 511 [0] = true ∧
    domainOk 512 512 [] = false ∧
    (sPeer.core 0).loads[0]? = some { someLoad (.reg .a 5) with pa := peerPa } ∧
    (sPeer.core 0).stores[0]? = some { someStore with pa := peerPa } := by decide +kernel

/-- A copy in progress whose source lies on the peer. -/
def peerCopy : EngineCmd := { copyS with begun := true }

@[inherit_doc peerCopy]
def sPeerCopy : State :=
  { sPeer with clusters := [(0, { mapped with
      tlb := [{ ctx := 1, va := 0x10000, bits := 14, leaf := BitVec.ofNat 64 peerPa + 0x1F }], btes := [(2, { act := [peerCopy] })] })] }

theorem peer_at {s : State} {cl va pa bits m : Nat} {ctx : BitVec 12} {leaf : Word} (h : memKind s pa = .peer m)
    (e : lookupVa s cl ctx va = .ok pa leaf bits) : peerAt s cl ctx va = some pa := by
  simp [peerAt, e, peerOf, h]

theorem found_head {α β : Type} {f : α → Option β} {l : List α} {a : α} {b : β} (h : l.head? = some a) (e : f a = some b) :
    l.findSome? f = some b := by
  cases l with
  | nil => cases h
  | cons x xs => cases h; simp [e]

theorem waits_of {s : State} {n : Nat} {w : PeerWait} (h : w ∈ peerWaits s n) : ∃ i : Nat, (peerWaits s n)[i]? = some w :=
  List.getElem?_of_mem h

/-- A request for a tile on the peer, and a draining hall line of one. -/
def peerReq : TileReq := { reqOf recS none .home with since := 50 }

@[inherit_doc peerReq] def peerLine : TileLine := { lineFor (alcoveBank (tile0 recS)) recS .draining with since := 50 }

/-- Core 0 with a copy, a fill, a write-back and a fetch that wait for the peer. -/
def sPeerAll : State :=
  let m := { mapped with tlb := [{ ctx := 1, va := 0x10000, bits := 14, leaf := BitVec.ofNat 64 peerPa + 0x1F }] }
  let k := fun (c : Core) => { c with a := { c.a with pc := 0x10000, fetchSince := some 50 } }
  { sPeerCopy with
    cores := [(0, k (sPeerCopy.core 0))], reqs := [peerReq],
    clusters := [(0, { m with hall := [peerLine], btes := [(2, { act := [peerCopy] })] })] }

theorem peer_page : lookupVa sPeerAll 0 1 0x10000 = .ok peerPa (BitVec.ofNat 64 peerPa + 0x1F) 14 := by decide +kernel

theorem tile_of {s : State} {cl pa : Nat} {k : TileKey} {r : Block} {idx : List (Nat × Nat)} (n : recRows r * recCols r ≠ 0)
    (e : tileIdx r k.outer.toNat k.trow.toNat k.tcol.toNat 0 0 = some idx)
    (h : peerAt s cl k.ctx (elemAddr r idx).1 = some pa) : tilePeer s cl k r = some pa := by
  refine found_head (a := 0) ?_ (by simpa [e] using h)
  cases m : recRows r * recCols r with
  | zero => exact absurd m n
  | succ m => simp [List.range_succ_eq_map]

theorem peer_tile : tilePeer sPeerAll 0 (tile0 recS) recS = some peerPa := by
  refine tile_of (idx := [(1, 0), (0, 0)]) (by decide +kernel) (by decide +kernel) ?_
  have a : (elemAddr recS [(1, 0), (0, 0)]).1 = 0x10000 := by decide +kernel
  rw [a]
  exact peer_at (peer_kind _ rfl rfl) peer_page

/-- Each kind of wait for a peer. -/
theorem wit_LinkEvents_waits :
    (∃ i : Nat, (peerWaits sPeerAll 0)[i]? = some (PeerWait.load { someLoad (.reg .a 5) with pa := peerPa })) ∧
    (∃ i : Nat, (peerWaits sPeerAll 0)[i]? = some (PeerWait.store { someStore with pa := peerPa })) ∧
    (∃ i : Nat, (peerWaits sPeerAll 0)[i]? = some (PeerWait.cmd peerCopy peerPa)) ∧
    (∃ i : Nat, (peerWaits sPeerAll 0)[i]? = some (PeerWait.fill peerReq peerPa)) ∧
    (∃ i : Nat, (peerWaits sPeerAll 0)[i]? = some (PeerWait.line peerLine peerPa)) ∧
    ∃ i : Nat, (peerWaits sPeerAll 0)[i]? = some (PeerWait.fetch 50 peerPa) := by
  have c : cmdPeer sPeerAll peerCopy = some peerPa :=
    found_head (a := 0x10000) (by decide +kernel) (peer_at (peer_kind _ rfl rfl) peer_page)
  refine ⟨waits_of ?_, waits_of ?_, waits_of ?_, waits_of ?_, waits_of ?_, waits_of ?_⟩ <;>
    simp only [peerWaits, List.mem_append, List.mem_map, List.mem_filterMap, List.mem_filter, Option.map_eq_some_iff]
  · exact .inl (.inl (.inl (.inl (.inl ⟨_, .head _, rfl⟩))))
  · exact .inl (.inl (.inl (.inl (.inr ⟨_, .head _, rfl⟩))))
  · exact .inl (.inl (.inl (.inr ⟨peerCopy, ⟨by decide +kernel, by decide +kernel⟩, _, c, rfl⟩)))
  · exact .inl (.inl (.inr ⟨peerReq, ⟨.head _, by decide +kernel⟩, _, peer_tile, rfl⟩))
  · exact .inl (.inr ⟨peerLine, ⟨.head _, by decide +kernel⟩, _, peer_tile, rfl⟩)
  · refine .inr ?_
    simp only [fetchWaits, List.mem_filterMap]
    exact ⟨.a, by decide, by
      have e : peerAt sPeerAll (coreCluster 0) (sPeerAll.core 0).ctx ((sPeerAll.core 0).strand .a).pc.toNat = some peerPa :=
        peer_at (peer_kind _ rfl rfl) peer_page
      show (some 50).bind _ = _
      rw [Option.bind_some, e]; rfl⟩

theorem wit_LinkEvents_late :
    requestLate sPeer peerPa 50 = true ∧ requestLate sPeerCopy peerPa peerCopy.since = true := by
  rw [requestLate, peer_kind sPeer rfl rfl, requestLate, peer_kind sPeerCopy rfl rfl]; decide

/-! ### Waits, system registers and access faults -/

/-- The M strand with a command in its replay queue. -/
def sParkedM : State := stOf .m { coreWith regsA with replay := [default] }

theorem wit_FlagResults_waits :
    ordRelease 3 = true ∧ sParkedM.issue.kind = .m ∧ sParkedM.issue.pre.replay ≠ [] ∧ Runs sParkedM 0 [] ∧
    Runs sParkedM 0 [5] := by
  unfold Runs; decide +kernel

/-- A crossing that waits for a copy, one that waits for a command of M seen through a queue, and those that do not wait. -/
theorem wit_FencesComplete_cross :
    let seen := stOf .c { coreWith [] with replay := [{ (default : Parked) with seenBy := 0b1111 }] }
    fencexWaits sB 4 = true ∧ fencexWaits seen 2 = true ∧ Runs seen 0 [] ∧ seen.issue.kind = .c ∧
    (fencexWaits sA 2 = false ∧ fencexWaits sA 1 = false ∧ Runs sA 0 [] ∧ sA.issue.kind = .a) ∧
    (fenceWaits sA 3 = false ∧ (3 : BitVec 5).getLsbD 0 = true ∧ (3 : BitVec 5).getLsbD 1 = true) ∧
    (coreInScope 0 2 0 = true ∧ (0 : Nat) ∈ scopeClusters 0 2) := by
  unfold Runs; decide +kernel

/-- Registers that hold values for the cluster's registers: small, valid without ways, and a range that ends before it begins. -/
def sCsr (k : Kind) (sel rng : Tab Word) : State :=
  let s := stOf k (coreWith [(1, 7), (2, 0x8000_0000_0000_0000), (3, 0x0100_0000), (4, 0xFFFF_FFFF_FFFF_FFFF)])
  { s with clusters := [(0, { mapped with retainSel := sel, retainRng := rng })] }

/-- V's earlier instructions; the core's and the cluster's registers, with values that fit and values that do not. -/
theorem wit_CsrInstructions_shared :
    let v := stOf .v { coreWith regsA with vops := [default] }
    let c := sCsr .c [] []
    let own := sCsr .c [(1, 0x8001_0010_0000_0000)] []
    let far := sCsr .c [(1, 0x8001_0020_0000_0000)] []
    (v.issue.kind = .v ∧ v.issue.pre.vops ≠ [] ∧ Runs v 0 [1]) ∧
    (Runs c 0 [1, 2, 3, 4] ∧ HasHandler c) ∧
    (csrShared 0x100 = true ∧ csrShared 0x11F = true ∧ csrShared 0x140 = true ∧ csrShared 0x163 = true ∧ csrShared 0x410 = true ∧
      c.rd 4 &&& ~~~(csrMask 0x100) ≠ 0 ∧ c.rd 4 &&& ~~~(csrMask 0x140) ≠ 0) ∧
    (c.rd 1 &&& ~~~(0xF#64) = 0 ∧ (csrRead c 0x100 ||| c.rd 1) &&& ~~~(0xF#64) = 0 ∧
      (csrRead c 0x11F &&& ~~~(c.rd 1)) &&& ~~~(0xF#64) = 0) ∧
    ((c.rd 1).extractLsb' 48 16 = 0 ∧ (c.rd 1).extractLsb' 16 48 = 0) ∧
    (c.rd 2 &&& ~~~(csrMask 0x412) = 0 ∧ (c.rd 2).getLsbD 63 = true ∧ (c.rd 2).extractLsb' 48 8 = 0) ∧
    (let sel := tget 0 (own.cluster 0).retainSel 1
     sel.getLsbD 63 = true ∧ sel.extractLsb' 36 12 = own.live.ctx ∧
     ((own.rd 3).extractLsb' 44 20).toNat < ((own.rd 3).extractLsb' 24 20).toNat ∧
     ((own.rd 1).extractLsb' 24 20).toNat ≤ ((own.rd 1).extractLsb' 44 20).toNat ∧ (own.rd 1).getLsbD 63 = false ∧
     selWays (own.rd 1) ≤ 192 ∧ own.rd 1 &&& ~~~(csrMask 0x412) = 0) ∧
    (let sel := tget 0 (far.cluster 0).retainSel 1
     sel.getLsbD 63 = true ∧ sel.extractLsb' 36 12 ≠ far.live.ctx) := by
  unfold Runs HasHandler; decide +kernel

theorem wit_CsrInstructions_refused :
    headerOk (decodeHeader 0) = true ∧ (decodeHeader 0).words = 1 ∧ csrKnown 0x7FF = false ∧ csrWritable .a 0x100 = false ∧
    csrWritable .c 0x000 = false := by decide +kernel

/-- A TLB that maps the low pages and one host page. -/
def sHost : State :=
  { sA with clusters := [(0, { tlb := [{ ctx := 1, va := 0, bits := 14, leaf := 0x6_0000_0000_001F }] })] }

theorem host_kind (s : State) (a : Nat) (h : 0x6000000000000 ≤ a) (h2 : a < 0x7000000000000) : memKind s a = .host := by
  have h1 : ¬a < 0x9000000000 := by omega
  have h3 : ¬(0x4000000000000 ≤ a && a < 0x4000000000000 + min Config.farGiB 4096 * 2 ^ 30) = true := by
    rw [Bool.and_eq_true, decide_eq_true_eq, decide_eq_true_eq]
    have : min Config.farGiB 4096 ≤ 4096 := Nat.min_le_right ..
    omega
  rw [memKind, if_neg h1, if_neg h3, if_pos (by rw [Bool.and_eq_true]; exact ⟨decide_eq_true h, decide_eq_true h2⟩)]

/-- An atomic on host memory, a misaligned, an unmapped and a forbidden one; and the loads into lanes. -/
theorem wit_ScalarAccessTraps_more :
    let closed := { sA with clusters := [(0, { tlb := [{ ctx := 1, va := 0, bits := 38, leaf := 0x13 }] })] }
    let tr := fun (s : State) (ea : Word) (acc : Access) => translate s (coreCluster s.issue.core) s.live.ctx ea.toNat acc
    ((sA.rd 4).toNat % 4 ≠ 0 ∧ (sA.rd 6).toNat % 8 = 0 ∧ tr sA (sA.rd 6) .both = .noMap ∧ (closed.rd 1).toNat % 8 = 0 ∧
      tr closed (closed.rd 1) .both = .forbidden) ∧
    (Runs sA 0 [5, 6, 3, 2] ∧ Runs closed 0 [5, 1, 3, 0] ∧ HasHandler sA ∧ HasHandler closed) ∧
    ((sHost.rd 1).toNat % 8 = 0 ∧ tr sHost (sHost.rd 1) .both = .ok 0x6_0000_0000_1000 0x6_0000_0000_001F 14 ∧
      memKind sHost 0x6_0000_0000_1000 = .host ∧ Runs sHost 0 [5, 1, 3, 2] ∧ HasHandler sHost) ∧
    (laneLoads sA.live < 64 ∧ laneRooms sA (loadKeys 0b1110 2) = true ∧ laneLoads closed.live < 64 ∧
      laneRooms closed (loadKeys 0b1110 2) = true) ∧
    ((sA.rd 4 + (1 : BitVec 24).signExtend 64).toNat % 8 ≠ 0 ∧ (sA.rd 6 + (8 : BitVec 24).signExtend 64).toNat % 8 = 0 ∧
      tr sA (sA.rd 6 + (8 : BitVec 24).signExtend 64) .read = .noMap ∧
      (closed.rd 1 + (8 : BitVec 24).signExtend 64).toNat % 8 = 0 ∧
      tr closed (closed.rd 1 + (8 : BitVec 24).signExtend 64) .read = .forbidden) := by
  intro closed tr
  refine ⟨by decide +kernel, ?_, ⟨by decide +kernel, by decide +kernel, host_kind _ _ (by decide) (by decide), ?_, ?_⟩,
    by decide +kernel, by decide +kernel⟩
  · exact ⟨runs_of (by decide +kernel), runs_of (by decide +kernel), handler_of (by decide +kernel), handler_of (by decide +kernel)⟩
  · exact runs_of (by decide +kernel)
  · exact handler_of (by decide +kernel)

/-- A descriptor that is not mapped, one whose second page is not, and one of whose pages a read is forbidden. -/
theorem wit_CopiesIssue_traps :
    let page := fun (i : Nat) (leaf : Word) => ({ ctx := 1, va := 0x4000 * i, bits := 14, leaf := leaf } : TlbEntry)
    let s := fun (ps : List TlbEntry) => { sM [] with clusters := [(0, { tlb := ps })] }
    let look := fun (s : State) (x : Word) => translate s 0 s.live.ctx x.toNat .read
    let a := (sM []).rd 12
    let vb := a + BitVec.ofNat 64 (0x4000 - a.toNat % 0x4000)
    (a.toNat % 8 = 0 ∧ 0x3F80 < a.toNat % 0x4000) ∧
    look (s []) a = .noMap ∧
    (look (s [page 0 0x1F]) a = .ok 0x3FC0 0x1F 14 ∧ look (s [page 0 0x1F]) vb = .noMap) ∧
    (look (s [page 0 0x13, page 1 0x401F]) a = .forbidden ∧ look (s [page 0 0x13, page 1 0x401F]) vb = .ok 0x4000 0x401F 14) ∧
    (look (s [page 0 0x1F, page 1 0x4013]) a = .ok 0x3FC0 0x1F 14 ∧ look (s [page 0 0x1F, page 1 0x4013]) vb = .forbidden) ∧
    (Runs (s []) 0 [2, 3, 12, 13] ∧ MayAccess (s []) ∧ HasHandler (s []) ∧ cmdRoom (s []) 1 = true ∧
      runRoom ((s []).bte 0 0) (s []).now = true ∧ vestRoom ((s []).bte 0 0) (s []).now = true) := by
  intro page s look a vb
  refine ⟨?_, ?_, ?_, ?_, ?_, runs_of ?_, access_of ?_, handler_of ?_, ?_, ?_, ?_⟩ <;> decide +kernel

/-- A group of one cluster that a task may join. -/
theorem wit_GroupMembership_join :
    let out := sGrp [] (grpState 2 [2] [])
    Runs out 0 [1, 3] ∧ MayAccess out ∧ (out.rd 1).toNat = 1 ∧
    (actingTask out).map (fun x => (x.1.grps, entLists (x.2.ent 1) x.1.index)) = some ([], true) ∧
    out.group? grpKey = some (grpState 2 [2] []) := by
  refine ⟨runs_of ?_, access_of ?_, ?_, ?_, ?_⟩ <;> decide +kernel

/-- A group of one cluster that its only member may leave. -/
theorem wit_GroupMembership_leave :
    let near := sGrp [1] (grpState 2 [1] [])
    (memberOf near (near.rd 1)).isSome = true ∧ near.group? grpKey = some (grpState 2 [1] []) := by decide +kernel

/-! ### Commands, tiles and copies in each state -/

/-- The output of a parked cube command and the region of a parked ALD fit, and a command that has not ended waits. -/
theorem wit_CommandsPerform_elements :
    let line := lineFor (alcoveBank (tile0 recA)) recA .clean
    (∀ k ∈ [0, 1], let s := parkedAt k [line] 100
      parkedReady (s.core 0) (parkedCmd k) = true ∧
      outFits (cubeOf (parkedCmd k).w0 (parkedCmd k).w1) (fwAcc (parkedCmd k).fq) = true) ∧
    ((transferRegion ((parkedCmd 2).regs.getD 0 0) ((parkedCmd 2).recs.getD 0 0) ((parkedCmd 2).w1.getLsbD 24)).map (fun d =>
      regionFits d (etWidth ((parkedCmd 2).w1.extractLsb' 29 3))) = some true ∧
      parkedReady ((parkedAt 2 [line] 100).core 0) (parkedCmd 2) = true) ∧
    (parkedCmd 2).dead = false := by decide +kernel

/-- A pin that waits at the hall, a fill of a line that came otherwise, a wait for a write-back, and a hall without credit. -/
theorem wit_TileFills_waits :
    let ls := fun (r : Block) => [lineFor (alcoveBank (tile0 r)) r .clean]
    let pin := { reqOf recS none .hall with core := none, pinBy := some 3 }
    let late := reqOf recS none (.toHall 3 5)
    let got := fun (x : Except AccFail Line) => match x with | .ok _ => true | .error _ => false
    let wait := reqOf recT none .waitClean
    let w := fun hv => sReq wait [] [] [entOf recT hv] 100
    let fwd := fun (n : Nat) => { reqOf recT none (.forwarded 0 4) with id := n }
    let spent := sReq (reqOf recT (some 4) .home) [] [] [entOf recT true] 100
    (let s := sReq pin [] (ls recS) [] 100
     s.reqs[0]? = some pin ∧ (lookupLine (s.cluster 0).hall (tile0 recS) none).isSome = true) ∧
    (let s := sReq late [] (ls recS) [] 100
     s.reqs[0]? = some late ∧ fillingLine (s.cluster 0).hall late = none ∧ late.core.isSome = true ∧
     (lookupLine (s.cluster 0).hall (tile0 recS) none).isSome = true) ∧
    (∀ hv ∈ [true, false], (w hv).reqs[0]? = some wait ∧ dirOf (w hv) (tile0 recT) = entOf recT hv) ∧
    got (gatherTile ((w false).asSeen (wait.reader (w false))) 0 1 recT 0 0 0) = true ∧
    (let s := { spent with reqs := [reqOf recT (some 4) .home, fwd 71, fwd 72] }
     s.reqs[0]? = some (reqOf recT (some 4) .home) ∧ (entOf recT true).meets (some 4) false = true ∧
     ¬forwardedTo s (homeOf (tile0 recT)) (entOf recT true).holder < 2 ∧
     (s.dir.any fun x => x.key == tile0 recT) = true) := by decide +kernel

/-- A copy whose bytes have moved. -/
theorem wit_CopiesProgress_done :
    let c := { copyS with begun := true, done := true }
    let s := sBte { act := [c] }
    (s.bte 0 2).act[0]? = some c ∧ c.failed = false ∧ c.done = true ∧ olderCopy s 0 c = false ∧
    (s.core c.core).task = c.task := by decide +kernel

/-! ### Units -/

theorem ok_of {ε α : Type} {x : Except ε α} {a : α} (h : (match x with | .ok b => some b | .error _ => none) = some a) :
    x = .ok a := by
  cases x with
  | error e => cases h
  | ok b => cases h; rfl

/-- Candidates of a selection, all of them and with eligibility bits and payloads. -/
def selBlock (w0 : Nat) : Block := blockOf (wordsBytes [w0, 0, 0, 0, 0, 0, 0, 0])

theorem wit_EnginesPerform_selection :
    let vec := fun tid fmt base => mkFmt tid 0 fmt 5 0 base [4] [4]
    let c := { unitCmd 0x30 0 0 with block := selBlock (2 * 2 ^ 32 + 4), recs := [vec 1 0 0x40000, vec 2 0 0x41000, vec 3 5 0x42000] }
    let d := { c with block := selBlock (2 ^ 59 + 2 ^ 58 + 2 * 2 ^ 32 + 4), recs := c.recs ++ [vec 4 5 0x43000, vec 5 5 0x44000] }
    let s := { stOf .a (coreWith []) with issue := {}, mem := writeBytes [] 0x40000 (leBytes 16 0x7FC00000_3F800000) }
    let read := fun (c : EngineCmd) (i : Nat) =>
      readElems c.party s 0 c.ctx (c.recs.getD i 0) ((List.range (selLen c.fn c.block)).map (selIn c.block 0))
    (selSegs 0 c.block = 1 ∧ selMe c.block = false ∧ selPe c.block = false ∧ recEfmt (c.recs.getD 0 0) = 0 ∧
      selLen c.fn c.block = 4 ∧ read c 0 = .ok [0x3F800000, 0x7FC00000, 0, 0]) ∧
    (selMe d.block = true ∧ selPe d.block = true ∧ read d 0 = .ok [0x3F800000, 0x7FC00000, 0, 0] ∧
      read d 3 = .ok [0, 0, 0, 0] ∧ read d 4 = .ok [0, 0, 0, 0]) := by
  refine ⟨⟨?_, ?_, ?_, ?_, ?_, ok_of ?_⟩, ?_, ?_, ok_of ?_, ok_of ?_, ok_of ?_⟩ <;> decide +kernel

/-- A setup and a round that meet an unmapped page, and a record that does. -/
theorem wit_EnginesPerform_landing_faults :
    let away := fun (rs : List Block) => rs.map fun _ => mkFmt 31 0 0 5 0 0x4000_0000_0000 [64] [4]
    let setup := { unitCmd 0x31 0 0x307 with block := blockOf blkSetup, recs := away readySlot.recs }
    let round := unitCmd 0x31 2 0x307
    let slot := { readySlot with recs := away readySlot.recs }
    let lost := { readySlot with block := blockOf (wordsBytes ([64 * 2 ^ 48 + 2 ^ 16 + 4, 0x307, 30, 31, 31, 32, 33, 0, 2 ^ 46] ++ List.replicate 7 0)) }
    let begun := { round with begun := true, result := [1, 0, 1, 0] }
    let bad := fun (x : Except AccFail State) => match x with | .error (.access _) => true | _ => false
    bad (performSetup (sLnd readySlot setup) 3 setup) = true ∧ olderOverlap (sLnd readySlot setup) setup = false ∧
    bad (performRound (sLnd slot round) 3 round slot) = true ∧ findSlot ((sLnd slot round).cluster 3) 7 = some slot ∧
    bad (enginePutAs begun.party 3 begun.ctx (unmRec lost.block) (roundRecord (sLnd lost begun) 1 0 1 0) (sLnd lost begun)) = true := by
  decide +kernel

/-- A setup of session 2: its first words with some bits more, and where its table stands. -/
def setupP (bits tab : Nat) : EngineCmd :=
  { unitCmd 0x32 0 0 with
    regs := [], recs := recsP,
    block := blockOf (wordsBytes [bits + 2, 2 ^ 56 + 2 ^ 32, 0, 0, 0, 0, 0, 0, 0, 0, tab, 0x8000]) }

/-- Setups: one that frees, one with its table, one whose table names a rank too many, and one whose table is not mapped. -/
theorem wit_EnginesPerform_setup :
    let s := fun (c : EngineCmd) => { sDie 1 c 100 with mem := writeBytes [] 0x100 (leBytes 16 5) }
    (∀ c ∈ [setupP 0x200 0, setupP 0 0, setupP 0 0x100, setupP 0 (2 ^ 46)],
      sessHead (s c) 0 2 = some c ∧ c.begun = false ∧ olderOverlap (s c) c = false) ∧
    (rteFree (setupP 0x200 0).block = true ∧ rteFree (setupP 0 0).block = false) ∧
    (match readTable (s (setupP 0 0)) 0 (setupP 0 0) with | .ok t => t == [(0, 0, 0)] | .error _ => false) = true ∧
    (match readTable (s (setupP 0 0x100)) 0 (setupP 0 0x100) with | .error (.table e) => e == 0 | _ => false) = true ∧
    (match readTable (s (setupP 0 (2 ^ 46))) 0 (setupP 0 (2 ^ 46)) with | .error (.acc _ _) => true | _ => false) = true := by
  decide +kernel

/-- A count that begins, one without a rank's contribution, one with another shape, and one with every rank's. -/
theorem wit_EnginesPerform_counts :
    let beg := unitCmd 0x32 1 2
    let c := { beg with seq := 1, since := 100 }
    let own : CountMsg := {
      group := grpKey, sess := 2, seq := 1, rank := 0, experts := rteE (sessP 1).block,
      choices := rteK (sessP 1).block, ranks := 1, dim := rteDim recsP, counts := [0] }
    let s := fun (ms : List CountMsg) => (sDie 1 c 100).modDie 0 fun d => { d with held := ms }
    let x := sessP 1
    (beg.seq = 0 ∧ sessHead (sDie 1 beg 100) 0 2 = some beg ∧ olderOverlap (sDie 1 beg 100) beg = false ∧ x.st ≠ .free ∧
      (match readChoices (sDie 1 beg 100) x (routeCmd (sDie 1 beg 100) beg x) with
       | .ok ids => ids == [0]
       | .error _ => false) = true) ∧
    (c.seq ≠ 0 ∧ (∀ ms ∈ [[], [own], [{ own with dim := 9 }]], sessHead (s ms) 0 2 = some c ∧ olderOverlap (s ms) c = false ∧
      findSession ((s ms).die 0) 2 = some x ∧ countsFor (s ms) 0 x 1 = ms)) ∧
    (countShape x own = true ∧ countShape x { own with dim := 9 } = false ∧ own.rank = rteRank x.block ∧ rteNr x.block = 1) ∧
    wroteOk (writeElems (routeCmd (s [own]) c x).party x.home c.ctx (x.recs.getD 7 0)
      (((List.range (rteE x.block)).map fun e => ([e, 0], own.counts.getD e 0)) ++ (List.range (rteE x.block)).map fun e =>
        ([e, 2], (([own].filter fun m => decide (m.rank < rteNr x.block)).map fun m => m.counts.getD e 0).sum)) (s [own])) = true := by
  decide +kernel

/-- Collectives: one whose source is not mapped, one whose result is not, and one with a contribution of another shape. -/
theorem wit_EnginesPerform_collective_faults :
    let c := { unitCmd 0x34 0 0 with
      block := blockOf (wordsBytes [2 ^ 56 + 2, 0, 0, 0, 2, 0, 0, 0]),
      recs := [mkFmt 1 0 0 5 0 0x4000_0000_0000 [4] [4], mkFmt 2 0 0 5 0 0x4000_0000_0000 [4] [4]], since := 100 }
    let d := { c with begun := true }
    let s := sColl 1 d 100
    let other := { s with colls := [{ collMsg0 with n := 3 }] }
    let bad := fun {α : Type} (x : Except AccFail α) => match x with | .error (.access _) => true | _ => false
    (((sColl 1 c 100).die 0).collq[0]? = some c ∧ c.begun = false ∧ olderOverlap (sColl 1 c 100) c = false ∧
      bad (collMsg (sColl 1 c 100) c (collView (sColl 1 c 100) c)) = true) ∧
    ((collsFor other d (collView other d)).find? fun m => !collShape d (collView other d) m) = some { collMsg0 with n := 3 } ∧
    (let v := collView s d
     let dst := d.recs.getD 1 0
     let ws := collResults d.block v (recEfmt (d.recs.getD 0 0)) (recEfmt dst) (collsFor s d v)
     (∀ m ∈ collsFor s d v, collShape d v m = true) ∧
     bad (foldE (fun t x => engineWrite t none (collCluster d) d.ctx dst x.1 x.2) ws
       (openElems d.party (collCluster d) d.ctx dst (ws.map fun x => x.1) s)) = true) := by decide +kernel

/-- A placement, a scatter and a gather over tensors that are not mapped. -/
theorem wit_EnginesPerform_route_faults :
    let x := { sessP 1 with recs := recsP.map fun _ => mkFmt 40 0 0 5 0 0x4000_0000_0000 [4, 4] [4, 64] }
    let bad := fun (r : Except RouteStop State) => match r with | .error (.acc _ _) => true | _ => false
    let s := fun (c : EngineCmd) => (sDie 1 c 100).modDie 0 fun d => { d with sessions := [x] }
    (∀ c ∈ [unitCmd 0x32 2 2, unitCmd 0x32 3 2, unitCmd 0x33 0 2], sessHead (s c) 0 2 = some c ∧ c.begun = false ∧
      olderOverlap (s c) c = false ∧ findSession ((s c).die 0) (cmdSess c) = some x ∧ x.st ≠ .free) ∧
    bad (performPlace (s (unitCmd 0x32 2 2)) 0 (unitCmd 0x32 2 2) x) = true ∧
    bad (performScatter (s (unitCmd 0x32 3 2)) 0 (unitCmd 0x32 3 2) x) = true ∧
    bad (performGather (s (unitCmd 0x33 0 2)) 0 (unitCmd 0x33 0 2) x) = true ∧
    (match readChoices (s (unitCmd 0x32 1 2)) x (unitCmd 0x32 1 2) with | .error (.acc _ _) => true | _ => false) = true := by
  decide +kernel

/-! ### Groups, tasks and links in each state -/

/-- A key without a group, with this module's set, with another set, and for which no launch stands; a module that has left; and a
context that goes on. -/
theorem wit_GroupsAndFlags_modules :
    let none_ : State := { sGrp [] domState with launches := [domLaunch], groups := [] }
    let gone := { sGrp [1] { domState with gone := [3] } with launches := [domLaunch] }
    let grown := { sGrp [1] domState with launches := [domLaunch] }
    let m : GroupMsg := { key := grpKey, task := 1, what := 0, flag := 9 }
    (none_.groups.find? fun g => g.key.domain && g.key.xkey == 5) = none ∧ otherMods? none_ 5 9 = none ∧
    (9 : BitVec 512).getLsbD none_.modNum.toNat = true ∧ (8 : BitVec 512).getLsbD none_.modNum.toNat = false ∧
    (otherMods? none_ 5 11).isSome = true ∧
    ((gone.groups.find? fun g => g.key.domain && g.key.xkey == 5) = some { domState with gone := [3] } ∧ (9 : BitVec 512) = domState.key.mods) ∧
    ((grown.groups.find? fun g => g.key.domain && g.key.xkey == 5) = some domState ∧ domState.gone.contains 3 = false ∧
      domState.localDone = false ∧ (11 : BitVec 512) ≠ domState.key.mods) ∧
    groupDead { sGrp [1] (grpState 3 [1] []) with gmsgs := [m] } grpKey = false := by decide +kernel

/-- Updates of a wider scope for a saved task. -/
theorem wit_GroupsAndFlags_far :
    let f := fun (y : Task) => { stOf .a (coreWith []) with tasks := [y], fmsgs := [{ task := some 1, core := 0, flag := 9, add := 1, scope := 3 }] }
    let y := { placeTask 1 0 with st := .waiting, saved := true, area := 0x100001 }
    (f y).task? 1 = some y ∧ y.live = false ∧ y.saved = true ∧ y.flagsHeld = false ∧
    ((f (placeTask 1 0)).task? 1 = some (placeTask 1 0) ∧ (placeTask 1 0).live = true) := by decide +kernel

/-- A saved task without and with a breakpoint that its head has matched. -/
theorem wit_TasksEnd_matched :
    ∀ ms ∈ [[], [(Kind.m, (0 : Word))]], let y := { taskAs .starting with saved := true, why := 3, matched := ms }
    let s := { sTask y {} with mem := writeBytes [] 0x100000 (leBytes 8 0x0001BC11) }
    readyToStart s y (placeLaunch 0) = true ∧ y.matched = ms ∧ areaHeaderOk (areaWord s (ctxWith 1) y) = true := by decide +kernel

/-- A context that was sampled in this cycle, and in an earlier one. -/
theorem wit_HostControl_sampled :
    let c := fun (x : Option Nat) => { ctxWith (1 + 2 ^ 22 + 2 ^ 23 + 10 * 2 ^ 24) with sampled := x, tqwrite := 16 }
    let s := fun (x : Option Nat) => ({ stOf .a (coreWith []) with ctxs := [c x], now := 1024 } : State)
    ((s (some 1024)).ctxAt 1 = some (c (some 1024)) ∧ (c (some 1024)).sampled = some (s (some 1024)).now) ∧
    ((s (some 0)).ctxAt 1 = some (c (some 0)) ∧ (c (some 0)).sampled ≠ some (s (some 0)).now ∧ (c (some 0)).lossless = true ∧
      (c (some 0)).traceRoom = false ∧ ctxCores (s (some 0)) (c (some 0)).id = [0]) := by decide +kernel

/-- A port that has been brought up, and one in this window and in a later one. -/
theorem wit_LinkEvents_up :
    let up : State := { State.reset with dies := [(3, { ports := [(4, { st := 2 })] })] }
    broughtUp up = true ∧ (up.port 3 4).winNo = windowOf up.now ∧
    (up.port 3 4).winNo ≠ windowOf ({ up with now := 2 ^ 30 } : State).now := by decide +kernel

theorem wit_LinkEvents_early : requestLate { sPeer with now := 100 } peerPa 50 = false := by
  rw [requestLate, peer_kind { sPeer with now := 100 } rfl rfl]; decide

/-! ### The spec's worked examples -/

/-- F32 455.0, 470.0 and +∞ into E4M3 (R55's example). -/
theorem test_convert_e4m3 :
    convert 0 3 .rne false 0x43E3_8000 = (0x7E, skNx) ∧ convert 0 3 .rne false 0x43EB_0000 = (0x7E, skOf ||| skNx) ∧
    convert 0 3 .rne false 0x7F80_0000 = (0x7F, skNv) := by decide +kernel

/-- The H16 results of 0.75 × 2^-14 and (1 - 2^-12) × 2^-14 with `ftz` (the example below R59). -/
theorem test_ftz_h16 :
    roundTo 1 .rne true (.fin false 3 (-16)) = (0x0000, skUf ||| skNx) ∧
    roundTo 1 .rne true (.fin false 4095 (-26)) = (0x0400, skUf ||| skNx) := by decide +kernel

/-- The sums of group 0 in R67's example: 2^25 + 3 and the tie 2^25 + 2. -/
theorem test_group_sums :
    (roundTo 0 .rne false (sumNum false [.fin false 1 25, ofInt 1, ofInt 1, ofInt 1]).1).1 = 0x4C00_0001 ∧
    (roundTo 0 .rne false (sumNum false [.fin false 1 25, ofInt 1, ofInt 1]).1).1 = 0x4C00_0000 := by decide +kernel

/-- R228's example: lane 0 with every key bit, the counter base and the stream zero. -/
theorem test_philox : philox 0 0 0 0 = [0x6627_E8D5, 0xE169_C58D, 0xBC57_AC4C, 0x9B00_DBD8] := by decide +kernel

/-- The V strand with a row of 100s in plane 0 and one of 50s in plane 1, in the I8 view. -/
def sVec : State :=
  let put := fun (row bit x : Nat) acc => accSet acc { row := row, bit := bit, width := 8, bits := x }
  stOf .v { coreWith [] with acc := put 0 2048 50 (put 0 0 100 []) }

/-- The first write and the flags of the V instruction that a step issued. -/
def firstWrite (o : Out) : Option (Nat × BitVec 7) :=
  match o with
  | .next t => (t.live.vops.head?).bind fun x => (x.writes.head?).map fun y => (y.bits % 256, x.sticky)
  | .fault _ => none
  | .refused _ => none

/-- I8 `VADD` of 100 and 50, wrapping and saturating (the example below R218). -/
theorem test_vadd_i8 :
    let w := fun sat => ({ (default : VecWord) with vd := 0x200, etype := 7, va := 0x000, vb := 0x100, xfn := sat } : VecWord)
    firstWrite (exec (.vadd 0 (w 0)) sVec) = some (0x96, 0) ∧ firstWrite (exec (.vadd 0 (w 1)) sVec) = some (0x7F, skSat) := by
  decide +kernel

/-- The example below R137: tensors 0x102, 0x107 and 0x106. -/
theorem test_alcove_bank :
    let k := fun (tid : BitVec 24) (trow tcol : BitVec 20) =>
      ({ ctx := 1, tid := tid, outer := 0, trow := trow, tcol := tcol } : TileKey)
    alcoveBank (k 0x102 0x21 3) = 3 ∧ alcoveBank (k 0x107 0 4) = 3 ∧ alcoveBank (k 0x106 0 4) = 2 := by decide +kernel

/-- R345's example, before and after the swap of slots 17 and 18 of stack 6. -/
theorem test_gallery :
    galleryOf State.reset 0x1A45_6789 = (203, 0x10_AC89) ∧
    galleryOf { State.reset with hbm := [(6, { remap := [(17, 18)] })] } 0x1A45_6789 = (211, 0x10_AC89) := by decide +kernel

/-- The DRAM position in R345's example. -/
theorem test_dram_position :
    dramPos 0x10_AC89 = { column := 0x489, bank := 1, bankgroup := 1, row := 33 } := by decide +kernel

/-- R325's example: the entries of routers 39, 40 and 41 are legal, and claiming one output in a whole octet is not. -/
theorem test_slot_entries :
    slotEntryOk 39 0x7E3F = true ∧ slotEntryOk 40 0x7F3F = true ∧ slotEntryOk 41 0x7FFC = true ∧
    slotField 0x7E3F 2 = 0 ∧ slotField 0x7F3F 2 = 4 ∧ slotField 0x7FFC 0 = 4 ∧
    slotGroupsOk (List.replicate 256 0x7FFF) = true ∧
    slotGroupsOk (List.replicate 16 0x7FFF ++ List.replicate 8 0x7F3F ++ List.replicate 232 0x7FFF) = false := by decide +kernel

/-- The example below R307: `n` 8, `k` 8, `korg` 0 and candidate 4 masked. -/
theorem test_topk :
    selResults 0 (blockOf (wordsBytes [8 * 2 ^ 32 + 8])) 0
      [0x4040_0000, 0xFFC0_0001, 0x40A0_0000, 0x8000_0000, 0x40A0_0000, 0, 0xFF80_0000, 0x4000_0000]
      [true, true, true, true, false, true, true, true] none =
    [(0x40A0_0000, 2), (0x4040_0000, 0), (0x4000_0000, 7), (0x8000_0000, 3), (0x0000_0000, 5), (0xFF80_0000, 6),
     (0x7FC0_0000, 1), (0x7FC0_0000, 0xFFFF_FFFF)] := by decide +kernel

/-- The core 0 that a step from a placed instruction leaves. -/
def coreAfter (nbits w : Nat) : Option Core :=
  match step (State.reset.withFetchWord nbits w) with
  | .next t => some (t.core 0)
  | .fault _ => none
  | .refused _ => none

/-- `ADDI s4, s4, 64` (02's example) runs from reset: the register and the pc move. -/
theorem test_step_addi :
    (coreAfter 64 0x40_2001_0400).map (fun c => (tget 0 c.a.regs 4, c.a.pc)) = some (64, 0x400C) := by decide +kernel

/-- `FPUSH s5` (10's example) puts a word into the format queue. -/
theorem test_step_fpush : (coreAfter 32 0x8C00_0500).map (fun c => (c.fq.map fun x => x.w, c.c.pc)) = some ([0], 0x4008) := by
  decide +kernel

/-- `LD.64 s7, [s2 + 16]` (07's example) leaves `s7` pending with a load of 8 bytes at 16. -/
theorem test_step_ld64 :
    (coreAfter 64 0x10_8001_C203).map (fun c => (c.a.pend, c.loads.map fun l => (l.pa, l.size))) = some ([7], [(16, 8)]) := by
  decide +kernel

end Sys2Proof.Tests
end

section
/-! PROOFS. The control and status registers (R3, R12, R13, R18, R19, R39, R103, R142, R244, R281): when an access waits, what
CSRW, CSRS and CSRC write and when they trap, and which words the decoder refuses. -/

namespace Sys2Proof.Machine

open Sys2Proof Sys2Proof.Laws

variable {s t : State} {g : BitVec 6} {ns : List (BitVec 6)} {i : Instr} {n : BitVec 12}
  {m : Nat} {x : Word}

/-! ### Words that set no reserved bit -/

theorem bit_of_masked {m : Word} (h : x &&& ~~~m = 0) {b : Nat} (hb : x.getLsbD b = true) : m.getLsbD b = true := by
  have h64 : b < 64 := BitVec.lt_of_getLsbD hb
  have := congrArg (fun y => y.getLsbD b) h
  simpa [hb, h64] using this

/-- A word sets no reserved bit if the field that holds all of them is zero. -/
theorem masked_of_field_zero {m : Word} {lo w : Nat} (h : x.extractLsb' lo w = 0)
    (hm : ∀ b : Fin 64, m.getLsbD b = false → lo ≤ (b : Nat) ∧ (b : Nat) < lo + w) : x &&& ~~~m = 0 := by
  apply BitVec.eq_of_getLsbD_eq
  intro b hb
  cases hmb : m.getLsbD b with
  | true => simp [hmb]
  | false =>
    have hin := hm ⟨b, hb⟩ hmb
    dsimp only at hin
    have hw : b - lo < w := by omega
    have hlb : lo + (b - lo) = b := by omega
    have hx : x.getLsbD b = false := by simpa [hw, hlb] using congrArg (fun y => y.getLsbD (b - lo)) h
    simp [hx]

theorem sticky_of_masked (h : x &&& ~~~0x7F#64 = 0) : (x.extractLsb' 0 7).zeroExtend 64 = x := by
  apply BitVec.eq_of_getLsbD_eq
  intro b hb
  have hm := (by decide : ∀ b : Fin 64, (0x7F#64).getLsbD b = true → (b : Nat) < 7) ⟨b, hb⟩
  cases hx : x.getLsbD b with
  | false => simp [hx]
  | true => simp [hx, hb, hm (bit_of_masked h hx)]

theorem rot_of_masked (h : x &&& ~~~0xF1F#64 = 0) :
    ((x.extractLsb' 8 4).zeroExtend 64 <<< 8) ||| (x.extractLsb' 0 5).zeroExtend 64 = x := by
  apply BitVec.eq_of_getLsbD_eq
  intro b hb
  have hm := (by decide : ∀ b : Fin 64, (0xF1F#64).getLsbD b = true → (b : Nat) < 5 ∨ 8 ≤ (b : Nat) ∧ (b : Nat) < 12) ⟨b, hb⟩
  by_cases h8 : b < 8
  · cases hx : x.getLsbD b with
    | false => simp [hx, h8]
    | true =>
      have h5 : b < 5 := by have := hm (bit_of_masked h hx); dsimp only at this; omega
      simp [hx, hb, h8, h5]
  · have hb8 : 8 + (b - 8) = b := by omega
    have h5 : ¬b < 5 := by omega
    cases hx : x.getLsbD b with
    | false => simp [hx, hb8, h5]
    | true =>
      have h12 : b - 8 < 4 := by have := hm (bit_of_masked h hx); dsimp only at this; omega
      simp [hx, hb, hb8, h8, h5, h12]

/-! ### A strand's own registers (R13) -/

theorem csrOwn_iff (n : Nat) :
    csrOwn n = true ↔ n = 1 ∨ n = 2 ∨ n = 0x10 ∨ n = 0x11 ∨ n = 0x12 ∨ n = 0x13 ∨ (0x20 ≤ n ∧ n ≤ 0x2F ∧ n % 4 ≠ 3) := by
  simp only [csrOwn, within, Bool.or_eq_true, Bool.and_eq_true, beq_iff_eq, bne_iff_ne, decide_eq_true_eq]
  omega

theorem part_setPart_same (l : LoopLevel) (p : Nat) (x : Word) : (l.setPart p x).part p = x := by
  match p with
  | 0 | 1 | _ + 2 => rfl

theorem part_setPart_other (l : LoopLevel) {p q : Nat} (x : Word) (hp : p < 3) (hq : q < 3) (h : q ≠ p) :
    (l.setPart p x).part q = l.part q := by
  match p, q with
  | 0, 1 | 0, 2 | 1, 0 | 1, 2 | 2, 0 | 2, 1 => rfl
  | 0, 0 | 1, 1 | 2, 2 => exact absurd rfl h
  | p + 3, _ => omega
  | _, q + 3 => omega

theorem strandCsr_loop (st : Strand) (id : Word) {n : Nat} (h : 0x20 ≤ n) :
    strandCsr st id n = (st.loop ((n - 0x20) / 4)).part (n % 4) := by
  have h0 : ¬n = 0 ∧ ¬n = 1 ∧ ¬n = 2 ∧ ¬n = 0x10 ∧ ¬n = 0x11 ∧ ¬n = 0x12 ∧ ¬n = 0x13 := by omega
  simp [strandCsr, h0]

/-- Below the loop registers, a strand's registers do not depend on its loop levels. -/
theorem strandCsr_setLoop_below (st : Strand) (id : Word) (d : Nat) (l : LoopLevel) {m : Nat} (hm : csrOwn m = true)
    (h : m < 0x20) : strandCsr (st.setLoop d l) id m = strandCsr st id m := by
  rw [csrOwn_iff] at hm
  obtain rfl | rfl | rfl | rfl | rfl | rfl | ⟨h', -⟩ := hm
  case inr.inr.inr.inr.inr.inr => omega
  all_goals rfl

theorem writeStrandCsr_loop (r : BitVec 7) (st : Strand) (x : Word) {n : Nat} (h : 0x20 ≤ n) :
    writeStrandCsr r st n x = st.setLoop ((n - 0x20) / 4) ((st.loop ((n - 0x20) / 4)).setPart (n % 4) x) := by
  have h0 : ¬n = 1 ∧ ¬n = 2 ∧ ¬n = 0x10 ∧ ¬n = 0x11 ∧ ¬n = 0x12 ∧ ¬n = 0x13 := by omega
  simp [writeStrandCsr, h0]

/-- A register of a strand reads as the value written, `strand.sticky` with the bits that its bundle raises besides (R103). -/
theorem strandCsr_write_same (r : BitVec 7) (st : Strand) (id : Word) {n : Nat} (hn : csrOwn n = true)
    (hx : x &&& ~~~(csrMask n) = 0) :
    strandCsr (writeStrandCsr r st n x) id n = if n = 1 then x ||| r.zeroExtend 64 else x := by
  rw [csrOwn_iff] at hn
  obtain rfl | rfl | rfl | rfl | rfl | rfl | ⟨hlo, -, -⟩ := hn
  · calc ((x.extractLsb' 0 7 ||| r).zeroExtend 64 : Word)
      _ = (x.extractLsb' 0 7).zeroExtend 64 ||| r.zeroExtend 64 := BitVec.setWidth_or
      _ = x ||| r.zeroExtend 64 := by rw [sticky_of_masked hx]
  · exact rot_of_masked hx
  · rfl
  · rfl
  · rfl
  · rfl
  · rw [writeStrandCsr_loop r st x hlo, strandCsr_loop _ id hlo, loop_setLoop_same, part_setPart_same, if_neg (by omega)]

theorem strandCsr_write_other (r : BitVec 7) (st : Strand) (id : Word) {n m : Nat} (hn : csrOwn n = true)
    (hm : csrOwn m = true) (h : m ≠ n) : strandCsr (writeStrandCsr r st n x) id m = strandCsr st id m := by
  obtain rfl | rfl | rfl | rfl | rfl | rfl | ⟨hlo, hhi, h3⟩ := (csrOwn_iff n).1 hn
  case inr.inr.inr.inr.inr.inr =>
    rw [writeStrandCsr_loop r st x hlo]
    obtain hm20 | hm20 := Nat.lt_or_ge m 0x20
    · exact strandCsr_setLoop_below st id _ _ hm hm20
    · rw [strandCsr_loop _ id hm20, strandCsr_loop st id hm20]
      have hm3 : m % 4 ≠ 3 := by rw [csrOwn_iff] at hm; omega
      by_cases hd : (m - 0x20) / 4 = (n - 0x20) / 4
      · rw [hd, loop_setLoop_same, part_setPart_other _ _ (by omega) (by omega) (by omega)]
      · rw [loop_setLoop_other _ _ _ _ hd]
  all_goals
    simp only [strandCsr, h, if_false]
    rfl

theorem writeStrandCsr_regs (r : BitVec 7) (st : Strand) (n : Nat) (x : Word) : (writeStrandCsr r st n x).regs = st.regs := by
  unfold writeStrandCsr; split_ifs <;> rfl

theorem writeStrandCsr_preds (r : BitVec 7) (st : Strand) (n : Nat) (x : Word) :
    (writeStrandCsr r st n x).preds = st.preds := by
  unfold writeStrandCsr; split_ifs <;> rfl

/-! ### The cluster's retention registers (R281) -/

/-- What the write of a retention register leaves as the selector: the written fields and the owner. -/
def retainWord (x : Word) (owner : BitVec 12) : Word := (x &&& 0x80FF_0000_00FF_FFFF#64) ||| (owner.zeroExtend 64 <<< 36)

/-- A field that the mask keeps whole, and that the owner's field does not reach, is the written one. -/
theorem retainWord_field (x : Word) (owner : BitVec 12) {lo w : Nat} (hw : lo + w ≤ 36 ∨ 48 ≤ lo)
    (hm : ∀ b : Fin w, (0x80FF_0000_00FF_FFFF#64).getLsbD (lo + b) = true) :
    (retainWord x owner).extractLsb' lo w = x.extractLsb' lo w := by
  apply BitVec.eq_of_getLsbD_eq
  intro b hb
  have hin : ¬lo + b < 36 → 12 ≤ lo + b - 36 := by omega
  by_cases h36 : lo + b < 36
  · simp [retainWord, hm ⟨b, hb⟩, h36]
  · simp [retainWord, hm ⟨b, hb⟩, BitVec.getLsbD_of_ge owner _ (hin h36)]

theorem retainWord_active (x : Word) (owner : BitVec 12) : (retainWord x owner).getLsbD 63 = x.getLsbD 63 := by
  simp [retainWord]

theorem retainWord_owner (x : Word) (owner : BitVec 12) : (retainWord x owner).extractLsb' 36 12 = owner := by
  apply BitVec.eq_of_getLsbD_eq
  intro b hb
  have hm : (0x80FF_0000_00FF_FFFF#64).getLsbD (36 + b) = false :=
    (by decide : ∀ b : Fin 12, (0x80FF_0000_00FF_FFFF#64).getLsbD (36 + b) = false) ⟨b, hb⟩
  have h64 : 36 + b < 64 := by omega
  rw [retainWord, BitVec.getLsbD_extractLsb', BitVec.getLsbD_or, BitVec.getLsbD_and, hm]
  simp [hb, h64]

/-- The selector of retention register `j`. -/
def Cluster.sel (c : Cluster) (j : Nat) : Word := tget 0 c.retainSel j

/-- A retention register that is active for another context. -/
def RetainForeign (c : Cluster) (ctx : BitVec 12) (j : Nat) : Prop :=
  (c.sel j).getLsbD 63 = true ∧ (c.sel j).extractLsb' 36 12 ≠ ctx

/-- A range whose last row is below its first. -/
def RngBad (y : Word) : Prop := (y.extractLsb' 44 20).toNat < (y.extractLsb' 24 20).toNat

/-- The ways that the other retention registers hold. -/
def otherWays (c : Cluster) (j : Nat) : Nat := (((List.range 4).filter fun i => i != j).map fun i => selWays (c.sel i)).sum

/-- The reasons for which a write of a selector traps. -/
def SelRefused (c : Cluster) (ctx : BitVec 12) (j : Nat) (x : Word) : Prop :=
  RetainForeign c ctx j ∨ (x.getLsbD 63 = true ∧ (x.extractLsb' 48 8 = 0 ∨ RngBad (tget 0 c.retainRng j))) ∨
    192 < otherWays c j + selWays x

/-- The reasons for which a write of a range traps. -/
def RngRefused (c : Cluster) (ctx : BitVec 12) (j : Nat) (x : Word) : Prop :=
  RetainForeign c ctx j ∨ ((c.sel j).getLsbD 63 = true ∧ RngBad x)

theorem rngOk_false_iff (y : Word) : rngOk y = false ↔ RngBad y := by simp [rngOk, RngBad]

theorem selWays_active (h : x.getLsbD 63 = true) : selWays x = 0 ↔ x.extractLsb' 48 8 = 0 := by
  rw [selWays, if_pos h]
  exact (BitVec.toNat_inj (y := 0#8)).trans Iff.rfl

section
variable (c : Cluster) (ctx : BitVec 12) (j : Nat) (x : Word)

theorem retainForeign_iff :
    ((c.sel j).getLsbD 63 && (c.sel j).extractLsb' 36 12 != ctx) = true ↔ RetainForeign c ctx j := by
  rw [RetainForeign, Bool.and_eq_true, bne_iff_ne]

theorem writeRetain_sel_refused (h : SelRefused c ctx j x) : writeRetain c ctx (0x410 + 2 * j) x = none := by
  have hj : (0x410 + 2 * j - 0x410) / 2 = j := by omega
  have he : (0x410 + 2 * j) % 2 = 0 := by omega
  simp only [writeRetain, hj, he, if_true]
  obtain hown | ⟨hact, hways | hrng⟩ | hsum := h
  · rw [if_pos]; exact (retainForeign_iff c ctx j).2 hown
  · rw [ite_eq_left_iff]
    intro _
    rw [if_pos]; simpa [hact] using .inl ((selWays_active hact).2 hways)
  · rw [ite_eq_left_iff]
    intro _
    rw [if_pos]; simpa [hact] using .inr ((rngOk_false_iff _).2 hrng)
  · rw [ite_eq_left_iff, ite_eq_left_iff]
    intro _ _
    rw [if_pos]; exact hsum

theorem writeRetain_sel_accepted (h : ¬SelRefused c ctx j x) :
    writeRetain c ctx (0x410 + 2 * j) x = some { c with
      retainSel := tset 0 c.retainSel j (retainWord x (if x.getLsbD 63 then ctx else (c.sel j).extractLsb' 36 12)) } := by
  have hj : (0x410 + 2 * j - 0x410) / 2 = j := by omega
  have he : (0x410 + 2 * j) % 2 = 0 := by omega
  obtain ⟨hown, hact, hsum⟩ := (by simpa only [SelRefused, not_or] using h :
    ¬RetainForeign c ctx j ∧ ¬(x.getLsbD 63 = true ∧ (x.extractLsb' 48 8 = 0 ∨ RngBad (tget 0 c.retainRng j))) ∧
      ¬192 < otherWays c j + selWays x)
  simp only [writeRetain, hj, he, if_true]
  rw [if_neg, if_neg, if_neg]
  · rfl
  · exact hsum
  · intro h
    simp only [Bool.and_eq_true, Bool.or_eq_true, beq_iff_eq, Bool.not_eq_true', rngOk_false_iff] at h
    exact hact ⟨h.1, h.2.imp_left (selWays_active h.1).1⟩
  · exact fun h => hown ((retainForeign_iff c ctx j).1 h)

theorem writeRetain_rng_refused (h : RngRefused c ctx j x) : writeRetain c ctx (0x411 + 2 * j) x = none := by
  have hj : (0x411 + 2 * j - 0x410) / 2 = j := by omega
  have he : ¬(0x411 + 2 * j) % 2 = 0 := by omega
  simp only [writeRetain, hj, he, if_false]
  obtain hown | ⟨hact, hrng⟩ := h
  · rw [if_pos]; exact (retainForeign_iff c ctx j).2 hown
  · rw [ite_eq_left_iff]
    intro _
    rw [if_pos]; simpa using ⟨hact, (rngOk_false_iff _).2 hrng⟩

theorem writeRetain_rng_accepted (h : ¬RngRefused c ctx j x) :
    writeRetain c ctx (0x411 + 2 * j) x = some { c with retainRng := tset 0 c.retainRng j x } := by
  have hj : (0x411 + 2 * j - 0x410) / 2 = j := by omega
  have he : ¬(0x411 + 2 * j) % 2 = 0 := by omega
  obtain ⟨hown, hrng⟩ := not_or.1 h
  simp only [writeRetain, hj, he, if_false]
  rw [if_neg, if_neg]
  · intro h
    simp only [Bool.and_eq_true, Bool.not_eq_true', rngOk_false_iff] at h
    exact hrng h
  · exact fun h => hown ((retainForeign_iff c ctx j).1 h)

end

/-! ### The write of a register (R3, R12) -/

theorem csrWrite_reserved (h : x &&& ~~~(csrMask m) ≠ 0) : csrWrite s m x = none := by
  rw [csrWrite, if_pos (bne_iff_ne.2 h)]

theorem csrWrite_own (h : csrOwn m = true) (hx : x &&& ~~~(csrMask m) = 0) :
    csrWrite s m x = some (s.modActing fun st => writeStrandCsr s.issue.raised st m x) := by
  have hm : m < 0x100 := by rw [csrOwn_iff] at h; omega
  rw [csrWrite, if_neg (by simpa using hx), if_pos hm]

theorem csrWrite_core (hlo : 0x100 ≤ m) (hhi : m < 0x400) (hx : x &&& ~~~(csrMask m) = 0) :
    csrWrite s m x = some (s.modLive fun c => writeCoreCsr s.now c m x) := by
  rw [csrWrite, if_neg (by simpa using hx), if_neg (by omega), if_pos hhi]

theorem csrWrite_cluster (hlo : 0x400 ≤ m) (hx : x &&& ~~~(csrMask m) = 0) :
    csrWrite s m x = (writeRetain (s.cluster (coreCluster s.issue.core)) s.live.ctx m x).map
      (s.setCluster (coreCluster s.issue.core)) := by
  rw [csrWrite, if_neg (by simpa using hx), if_neg (by omega), if_neg (by omega)]
  cases writeRetain (s.cluster (coreCluster s.issue.core)) s.live.ctx m x <;> rfl

theorem csrUpdate_of_some (h : csrWrite s n.toNat x = some t) : csrUpdate s i n x = .next t := by
  rw [csrUpdate, h]

/-- A write that is refused raises the illegal-instruction trap (R3, R40). -/
theorem csrUpdate_of_none (h : csrWrite s n.toNat x = none) (e : exec i s = csrUpdate s i n x) :
    TrapsWith i s 0 (illegalTval s.issue.pos ((encode i).headD 0)) := by
  intro hh
  rw [e, csrUpdate, h]
  exact trapAt_trapped s 0 _ hh

/-! ### When an access waits (R215) -/

/-- An access of `strand.sticky` on the V strand with an earlier instruction in progress. -/
def StickyWaits (s : State) (n : BitVec 12) : Prop := s.issue.kind = .v ∧ n = 1 ∧ s.issue.pre.vops ≠ []

theorem stickyReady_of_waits (h : StickyWaits s n) (o : Out) : stickyReady s n o = hold s := by
  obtain ⟨hk, hn, hv⟩ := h
  simp [stickyReady, hk, hn, hv]

theorem stickyReady_of_not_waits (h : ¬StickyWaits s n) (o : Out) : stickyReady s n o = o := by
  rw [stickyReady, if_neg]
  intro hc
  exact h (by simpa [StickyWaits, and_assoc] using hc)

/-- A CSR instruction that may run and whose register need not wait does its access. -/
theorem csrAccess_runs {f : State → Out} (e : exec i s = guarded g s fun s => ready s ns (stickyReady s n (f s)))
    (h : Runs s g ns) (hw : ¬StickyWaits s n) : exec i s = f s := by
  rw [e, guarded_ready h fun s => stickyReady s n (f s), stickyReady_of_not_waits hw]

theorem csrAccess_held {f : State → Out} (e : exec i s = guarded g s fun s => ready s ns (stickyReady s n (f s)))
    (h : Runs s g ns) (hw : StickyWaits s n) : exec i s = .next (s.setVerdict .held) := by
  rw [e, guarded_ready h fun s => stickyReady s n (f s), stickyReady_of_waits hw, hold]

/-! ### Words that the decoder refuses (R12, R39) -/

/-- The one word of an instruction that no strand of this kind may hold is illegal at its place in the bundle (R40). -/
theorem decodeBundle_refused {k : Kind} {hdr w : Word32} (hh : headerOk (decodeHeader hdr) = true)
    (hw : (decodeHeader hdr).words = 1) (he : encode i = [w]) (rt : RoundTrip.Statement i) (hk : k ∈ i.kinds)
    (hl : legal k i = false) : decodeBundle k hdr (encode i) = .error (.illegal 1 ((encode i).headD 0)) := by
  have hdec := rt k hk
  simp only [he] at hdec
  obtain ⟨htwo, hpair⟩ := hdec
  have hword : decodeLegal k 1 w 0 = .error (.illegal 1 w) := by simp only [decodeLegal, hpair, hl]; rfl
  have hitems : decodeItems k 1 [w] = .error (.illegal 1 w) := by simp only [decodeItems, htwo, hword]; rfl
  simp only [decodeBundle, he, hh, hw, hword, hitems, List.length_singleton, List.headD_cons, Bool.true_eq_false,
    ne_eq, not_true_eq_false, if_false, ite_self]

/-! ### What CSRW, CSRS and CSRC leave (R103) -/

theorem csrMask_join (hlo : 0x100 ≤ m) (hhi : m < 0x120) : csrMask m = 0xF := by
  have h : ¬m = 1 ∧ ¬m = 2 ∧ ¬m = 0x10 ∧ ¬m = 0x11 ∧ ¬m = 0x12 ∧ ¬m = 0x13 ∧ ¬m < 0x100 := by omega
  simp [csrMask, h, hhi]

/-- A join mask written: its pairing count starts over (R19). -/
theorem writeCoreCsr_join (now : Nat) (c : Core) (x : Word) {j : Nat} (hj : j < 32) :
    writeCoreCsr now c (0x100 + j) x =
      { c with joins := tset 0 c.joins j (x.extractLsb' 0 4), pairs := tset 0 c.pairs j 0 } := by
  rw [writeCoreCsr, if_pos (by omega), Nat.add_sub_cancel_left]

theorem csrUpdate_own (e : exec i s = csrUpdate s i n x) (hown : csrOwn n.toNat = true)
    (hx : x &&& ~~~(csrMask n.toNat) = 0) :
    ∃ t, exec i s = .next t ∧ StrandKept s t ∧ t.issue = s.issue ∧
      act t = writeStrandCsr s.issue.raised (act s) n.toNat x :=
  ⟨_, e.trans (csrUpdate_of_some (csrWrite_own hown hx)), StrandKept.modActing .., rfl, act_modActing ..⟩

/-- A write of a core's register: what the register takes is the one effect (R19, R142, R244). -/
theorem csrUpdate_core (e : exec i s = csrUpdate s i n x) (hlo : 0x100 ≤ n.toNat) (hhi : n.toNat < 0x400)
    (hx : x &&& ~~~(csrMask n.toNat) = 0) :
    ∃ t, exec i s = .next t ∧ CoreKept s t ∧ t.issue = s.issue ∧ t.live = writeCoreCsr s.now s.live n.toNat x :=
  ⟨_, e.trans (csrUpdate_of_some (csrWrite_core hlo hhi hx)), CoreKept.setCore .., rfl, live_setCore ..⟩

theorem csrUpdate_retain_refused (e : exec i s = csrUpdate s i n x) (hlo : 0x400 ≤ n.toNat)
    (hx : x &&& ~~~(csrMask n.toNat) = 0)
    (h : writeRetain (s.cluster (coreCluster s.issue.core)) s.live.ctx n.toNat x = none) :
    TrapsWith i s 0 (illegalTval s.issue.pos ((encode i).headD 0)) :=
  csrUpdate_of_none (by rw [csrWrite_cluster hlo hx, h]; rfl) e

theorem csrUpdate_retain_accepted {c : Cluster} (e : exec i s = csrUpdate s i n x) (hlo : 0x400 ≤ n.toNat)
    (hx : x &&& ~~~(csrMask n.toNat) = 0)
    (h : writeRetain (s.cluster (coreCluster s.issue.core)) s.live.ctx n.toNat x = some c) :
    ∃ t, exec i s = .next t ∧ { t with clusters := s.clusters } = s ∧
      (∀ m, m ≠ coreCluster s.issue.core → t.cluster m = s.cluster m) ∧ t.cluster (coreCluster s.issue.core) = c :=
  ⟨s.setCluster (coreCluster s.issue.core) c, e.trans (csrUpdate_of_some (by rw [csrWrite_cluster hlo hx, h]; rfl)), rfl,
    fun _ hm => cluster_setCluster_other _ _ _ _ hm, cluster_setCluster_same ..⟩

/-! ### The obligation -/

/-- Settles O21: the accesses run or wait by `csrAccess_runs` and `csrAccess_held`; what CSRW, CSRS and CSRC write is
`csrUpdate` of a value, taken apart once by the range of the register's number. -/
theorem csrInstructions : Obligations.CsrInstructions := by
  intro s g rd rs n waits
  refine ⟨fun hw hr => ⟨s.wr rd (csrRead s n.toNat), csrAccess_runs (exec_csrr ..) hr hw, wr_written ..⟩,
    fun hn => if_pos hn, fun hw => ?_, fun hw hr => ?_, fun k hdr hh hone => ?_⟩
  · exact ⟨fun hr => csrAccess_held (exec_csrr ..) hr hw, fun hr =>
      ⟨csrAccess_held (exec_csrw ..) hr hw, csrAccess_held (exec_csrs ..) hr hw, csrAccess_held (exec_csrc ..) hr hw⟩⟩
  · intro illegal put
    suffices hput : ∀ (i : Instr) (x : Word), exec i s = csrUpdate s i n x → put i x from
      ⟨hput _ _ (csrAccess_runs (exec_csrw ..) hr hw), hput _ _ (csrAccess_runs (exec_csrs ..) hr hw),
        hput _ _ (csrAccess_runs (exec_csrc ..) hr hw)⟩
    intro i x e
    refine ⟨fun _ hx => csrUpdate_of_none (csrWrite_reserved hx) e, fun hown hx => ?_, fun j hj hn hx => ?_,
      fun hn hx => ?_, fun hn hx => ?_, fun j hj hn hx => ?_⟩
    · obtain ⟨t, ht, hkept, hissue, hact⟩ := csrUpdate_own e hown hx
      refine ⟨t, ht, hkept, hissue, hact, ?_⟩
      rw [hact]
      refine ⟨fun id => ?_, writeStrandCsr_regs .., writeStrandCsr_preds .., fun id m hm hne => ?_⟩
      · rw [strandCsr_write_same _ _ id hown hx]
        exact if_congr (BitVec.toNat_inj (y := (1 : BitVec 12))) rfl rfl
      · exact strandCsr_write_other _ _ id hown hm (mt BitVec.eq_of_toNat_eq hne)
    · have hmask : csrMask n.toNat = 0xF := csrMask_join (by omega) (by omega)
      obtain ⟨t, ht, hkept, hissue, hlive⟩ := csrUpdate_core e (by omega) (by omega) (hmask ▸ hx)
      rw [hn, writeCoreCsr_join _ _ _ hj] at hlive
      refine ⟨t, ht, hkept, hissue, by rw [hlive], ?_, ?_, fun m hm => ?_⟩ <;> rw [hlive]
      · exact tget_tset_same 0 s.live.joins ..
      · exact tget_tset_same 0 s.live.pairs j 0
      · exact ⟨tget_tset_other 0 s.live.joins _ _ _ hm, tget_tset_other 0 s.live.pairs _ _ 0 hm⟩
    · subst hn
      exact csrUpdate_core e (by decide) (by decide) (masked_of_field_zero hx (by decide))
    · subst hn
      exact csrUpdate_core e (by decide) (by decide) (masked_of_field_zero hx (by decide))
    · intro cl sel rng rngBad others foreign bad
      have hlo : 0x400 ≤ n.toNat := by omega
      obtain hn | hn := hn
      · have heven : n.toNat % 2 = 0 := by omega
        have hbad : bad ↔ SelRefused (s.cluster cl) s.live.ctx j x := by rw [show bad = _ from if_pos heven]; rfl
        refine ⟨fun h => csrUpdate_retain_refused e hlo hx (hn ▸ writeRetain_sel_refused _ _ _ _ (hbad.1 h)), fun h => ?_⟩
        obtain ⟨t, ht, hkept, hothers, hcl⟩ :=
          csrUpdate_retain_accepted e hlo hx (hn ▸ writeRetain_sel_accepted _ _ _ _ (mt hbad.2 h))
        refine ⟨t, ht, hkept, hothers, fun _ => ?_, fun hodd => by omega⟩
        rw [hcl]
        refine ⟨rfl, fun m hm => tget_tset_other _ _ _ _ _ hm, ?_⟩
        intro y
        have hy : y = retainWord x (if x.getLsbD 63 then s.live.ctx else sel.extractLsb' 36 12) := tget_tset_same ..
        rw [hy]
        exact ⟨retainWord_active .., retainWord_field _ _ (by decide) (by decide),
          retainWord_field _ _ (by decide) (by decide), retainWord_owner ..⟩
      · have hodd : ¬n.toNat % 2 = 0 := by omega
        have hbad : bad ↔ RngRefused (s.cluster cl) s.live.ctx j x := by rw [show bad = _ from if_neg hodd]; rfl
        refine ⟨fun h => csrUpdate_retain_refused e hlo hx (hn ▸ writeRetain_rng_refused _ _ _ _ (hbad.1 h)), fun h => ?_⟩
        obtain ⟨t, ht, hkept, hothers, hcl⟩ :=
          csrUpdate_retain_accepted e hlo hx (hn ▸ writeRetain_rng_accepted _ _ _ _ (mt hbad.2 h))
        refine ⟨t, ht, hkept, hothers, fun heven => absurd heven hodd, fun _ => ?_⟩
        rw [hcl]
        exact ⟨rfl, tget_tset_same .., fun m hm => tget_tset_other _ _ _ _ _ hm⟩
  · intro refused
    have hkind : k ∈ Kind.all := by cases k <;> decide
    refine ⟨fun hn => ?_, fun hn => ⟨?_, ?_, ?_⟩⟩
    · exact decodeBundle_refused hh hone rfl (RoundTrip.csrr g rd n) hkind hn
    · exact decodeBundle_refused hh hone rfl (RoundTrip.csrw g n rs) hkind hn
    · exact decodeBundle_refused hh hone rfl (RoundTrip.csrs g n rs) hkind hn
    · exact decodeBundle_refused hh hone rfl (RoundTrip.csrc g n rs) hkind hn

end Sys2Proof.Machine
end

section
/-! PROOFS. Guards (R10): every encoded instruction stands under the guard of its first word. -/

namespace Sys2Proof.Machine

open Sys2Proof Sys2Proof.Laws

/-- The meaning of an encoded instruction is a body under the guard in bits 25:20 of its first word (R10, R29, R31, R33). -/
theorem exec_guarded {i : Instr} {w : Word32} {ws : List Word32} (h : encode i = w :: ws) :
    ∃ f, ∀ s, exec i s = guarded (fGuard w) s f := by
  cases i
  -- An event has no words, so that only the instructions are left.
  all_goals
    simp only [encode, List.cons.injEq, reduceCtorEq] at h
  -- NOP does the same under either value of its guard.
  case nop g => exact ⟨.next, fun s => (ite_self _).symm⟩
  -- Of the others each meaning is `guarded` by the first field of the constructor, which stands in bits 25:20.
  all_goals
    obtain ⟨rfl, -⟩ := h
    simp (disch := omega) only [fGuard, extract_high, extract_low, extract_all, Nat.reduceSub]
    exact ⟨_, fun s => rfl⟩

/-- Settles O4: the body of `exec_guarded` is not run where the guard reads 0. -/
theorem guardOffNoEffect : Obligations.GuardOffNoEffect := by
  intro s i w ws h hg
  obtain ⟨f, hf⟩ := exec_guarded h
  rw [hf s, guarded_off hg]

end Sys2Proof.Machine
end

section
/-! PROOFS. Control transfers (R17, R73, R80, R85): what NOP, HALT, BR, CALL, JR, CALLR and RET do, and how a bad target
traps. -/

namespace Sys2Proof

open Sys2Proof.Machine

variable {s t u : State} {g rd ra : BitVec 6} {i : Instr} {x : Word} {f : State → State}

/-! ### Frames put together -/

theorem OutsideKept.trans (h : OutsideKept s u) (h2 : OutsideKept u t) : OutsideKept s t := by
  obtain ⟨hs, hmem, hcore, hkind, hpre, hbase, hwords, hpos⟩ := h
  obtain ⟨hs2, hmem2, hcore2, hkind2, hpre2, hbase2, hwords2, hpos2⟩ := h2
  exact ⟨(congrArg (fun v : State => { v with cores := s.cores, issue := s.issue }) hs2).trans hs,
    fun a => (hmem2 a).trans (hmem a), hcore2.trans hcore, hkind2.trans hkind, hpre2.trans hpre, hbase2.trans hbase,
    hwords2.trans hwords, hpos2.trans hpos⟩

theorem OutsideKept.core (h : OutsideKept s t) : t.issue.core = s.issue.core := h.2.2.1

theorem OutsideKept.kind (h : OutsideKept s t) : t.issue.kind = s.issue.kind := h.2.2.2.1

theorem CoreKept.trans (h : CoreKept s u) (h2 : CoreKept u t) : CoreKept s t :=
  ⟨h.1.trans h2.1, fun n hn => (h2.2 n (by rwa [h.1.core])).trans (h.2 n hn)⟩

theorem StrandKept.refl (s : State) : StrandKept s s :=
  ⟨⟨.refl s, fun _ _ => rfl⟩, setStrand_strand ..⟩

theorem StrandKept.trans (h : StrandKept s u) (h2 : StrandKept u t) : StrandKept s t := by
  refine ⟨h.1.trans h2.1, ?_⟩
  have hk := h2.2
  rw [h.1.1.kind] at hk
  rw [← setStrand_setStrand t.live s.issue.kind (act u) (act s), hk, h.2]

/-! ### HALT -/

/-- HALT leaves the strand past its bundle and halted (R73, R75). -/
theorem halt_halts (h : s.rdPred g = true) : ∃ t, exec (.halt g) s = .next t ∧ StrandKept s t ∧
    act t = { act s with pc := s.nextPc, mode := .halted } := by
  obtain ⟨hkept, hact, -⟩ := jump_jumped s s.nextPc
  refine ⟨_, guarded_on h fun s => .next ((s.jump s.nextPc).modActing fun st => { st with mode := .halted }),
    hkept.trans (.modActing ..), ?_⟩
  rw [act_modActing, hact]

/-! ### The transfers (R80) -/

theorem br_runs (h : Runs s g []) (off : BitVec 32) :
    exec (.br g off) s = transferTo s (offTarget s off) (leaveFor (offTarget s off)) :=
  guarded_on h.1 fun s => transferTo s (offTarget s off) (leaveFor (offTarget s off))

theorem call_runs (h : Runs s g [rd]) (off : BitVec 32) :
    exec (.call g rd off) s = transferTo s (offTarget s off) fun s => s.wr rd s.nextPc :=
  guarded_ready h fun s => transferTo s (offTarget s off) fun s => s.wr rd s.nextPc

theorem jr_runs (h : Runs s g [ra]) : exec (.jr g ra) s = transferTo s (s.rd ra) (leaveFor (s.rd ra)) :=
  guarded_ready h fun s => transferTo s (s.rd ra) (leaveFor (s.rd ra))

theorem callr_runs (h : Runs s g [rd, ra]) :
    exec (.callr g rd ra) s = transferTo s (s.rd ra) fun s => s.wr rd s.nextPc :=
  guarded_ready h fun s => transferTo s (s.rd ra) fun s => s.wr rd s.nextPc

theorem ret_runs (h : Runs s g [ra]) : exec (.ret g ra) s = transferTo s (s.rd ra) id :=
  guarded_ready h fun s => transferTo s (s.rd ra) id

/-- A transfer to a good target does its own effect, then moves the program counter (R80). -/
theorem transfer_jumps (e : exec i s = transferTo s x f) (hx : pcOk x = true) :
    ∃ t, exec i s = .next t ∧ Jumped (f s) t x :=
  ⟨_, e.trans (transferTo_good hx f), jump_jumped ..⟩

/-- A transfer to a bad target traps: misalignment goes before the address (R80, R122). -/
theorem transfer_traps {code : Nat} (e : exec i s = transferTo s x f)
    (hc : code = (if x.extractLsb' 0 2 ≠ 0 then 1 else 2)) (hx : pcOk x = false) : TrapsWith i s code x := by
  intro hh
  rw [e, transferTo_bad hc hx]
  exact trapAt_trapped s code x hh

/-- The levels that a taken BR or JR ends are all that changes besides the program counter (R85). -/
theorem leaveFor_kept (s : State) (x : Word) :
    StrandKept s (leaveFor x s) ∧ (leaveFor x s).issue = s.issue ∧
      act (leaveFor x s) =
        if insideLoop s.issue.base s.pre then { act s with loops := (leaveLoops x 5 s.pre (act s)).loops } else act s := by
  unfold leaveFor
  split
  · exact ⟨.modActing .., rfl, (act_modActing ..).trans (leaveLoops_eq ..)⟩
  · exact ⟨.refl s, rfl, rfl⟩

/-- A branch to a good target ends the levels of R85, then moves the program counter. -/
theorem branch_jumps (e : exec i s = transferTo s x (leaveFor x)) (hx : pcOk x = true) :
    ∃ u t, exec i s = .next t ∧ StrandKept s u ∧ u.issue = s.issue ∧
      act u = (if insideLoop s.issue.base s.pre then { act s with loops := (leaveLoops x 5 s.pre (act s)).loops } else act s) ∧
      Jumped u t x := by
  obtain ⟨t, ht, hjump⟩ := transfer_jumps e hx
  obtain ⟨hkept, hissue, hact⟩ := leaveFor_kept s x
  exact ⟨leaveFor x s, t, ht, hkept, hissue, hact, hjump⟩

/-- A call to a good target writes the link register, then moves the program counter. -/
theorem call_jumps (e : exec i s = transferTo s x fun s => s.wr rd s.nextPc) (hx : pcOk x = true) :
    ∃ u t, exec i s = .next t ∧ RegWritten s u (destReg s rd) s.nextPc ∧ Jumped u t x := by
  obtain ⟨t, ht, hjump⟩ := transfer_jumps e hx
  exact ⟨s.wr rd s.nextPc, t, ht, wr_written .., hjump⟩

/-- Settles O5: each transfer that runs is a `transferTo` of its target, whose good and bad targets `branch_jumps`,
`call_jumps`, `transfer_jumps` and `transfer_traps` settle. -/
theorem transferResults : Obligations.TransferResults := by
  refine ⟨fun s g rd ra off => ⟨rfl, fun h => halt_halts h.1, ?_, ?_⟩, fun s g rd ra off code => ⟨?_, ?_⟩⟩
  · intro x hx
    exact ⟨fun h => branch_jumps (br_runs h off) hx, fun h => call_jumps (call_runs h off) hx⟩
  · intro x hx
    exact ⟨fun h => branch_jumps (jr_runs h) hx, fun h => call_jumps (callr_runs h) hx,
      fun h => transfer_jumps (ret_runs h) hx⟩
  · intro x hc hx
    exact ⟨fun h => transfer_traps (br_runs h off) hc hx, fun h => transfer_traps (call_runs h off) hc hx⟩
  · intro x hc hx
    exact ⟨fun h => transfer_traps (jr_runs h) hc hx, fun h => transfer_traps (callr_runs h) hc hx,
      fun h => transfer_traps (ret_runs h) hc hx⟩

end Sys2Proof
end

section
/-! PROOFS. Events at a strand's head (R18, R21, R117, R122, R124, R150, R258): the join traps, the token-error trap and the
fetch. -/

namespace Sys2Proof

open Sys2Proof.Machine

variable {s t u : State} {n : Nat} {k : Kind} {b : Bundle} {code : Nat} {v : Word}

/-! ### One strand changed -/

theorem OneStrand.refl (s : State) (n : Nat) (k : Kind) : OneStrand s s n k := ⟨rfl, fun _ _ => rfl, setStrand_strand ..⟩

theorem OneStrand.trans (h : OneStrand s u n k) (h2 : OneStrand u t n k) : OneStrand s t n k := by
  obtain ⟨hs, hothers, hcore⟩ := h
  obtain ⟨hs2, hothers2, hcore2⟩ := h2
  refine ⟨(congrArg (fun v : State => { v with cores := s.cores }) hs2).trans hs,
    fun m hm => (hothers2 m hm).trans (hothers m hm), ?_⟩
  rw [← setStrand_setStrand (t.core n) k ((u.core n).strand k), hcore2, hcore]

theorem OneStrand.modStrand (s : State) (n : Nat) (k : Kind) (f : Strand → Strand) : OneStrand s (s.modStrand n k f) n k :=
  ⟨rfl, fun _ hm => core_setCore_other _ _ _ _ hm, by simp⟩

theorem strand_modStrand (s : State) (n : Nat) (k : Kind) (f : Strand → Strand) :
    ((s.modStrand n k f).core n).strand k = f ((s.core n).strand k) := by simp

theorem OneStrand.posts (h : OneStrand s t n k) : t.posts = s.posts := (congrArg State.posts h.1 :)

theorem OneStrand.now (h : OneStrand s t n k) : t.now = s.now := (congrArg State.now h.1 :)

theorem OneStrand.modNum (h : OneStrand s t n k) : t.modNum = s.modNum := (congrArg State.modNum h.1 :)

theorem OneStrand.strandId (h : OneStrand s t n k) : strandId t n k = strandId s n k := by
  rw [Machine.strandId, h.modNum]; rfl

theorem setStrand_ctx (c : Core) (k : Kind) (st : Strand) : (c.setStrand k st).ctx = c.ctx := by cases k <;> rfl

theorem setStrand_toks (c : Core) (k : Kind) (st : Strand) : (c.setStrand k st).toks = c.toks := by cases k <;> rfl

theorem OneStrand.ctx (h : OneStrand s t n k) : (t.core n).ctx = (s.core n).ctx := by
  rw [← h.2.2, setStrand_ctx]

theorem OneStrand.toks (h : OneStrand s t n k) : (t.core n).toks = (s.core n).toks := by
  rw [← h.2.2, setStrand_toks]

/-! ### A head whose words have been fetched -/

/-- Nothing but lines of one strand's instruction cache differs (R150). -/
def Cached (s u : State) (n : Nat) (k : Kind) : Prop :=
  OneStrand s u n k ∧ ∃ ic, (u.core n).strand k = { (s.core n).strand k with icache := ic }

theorem Cached.refl (s : State) (n : Nat) (k : Kind) : Cached s s n k := ⟨.refl s n k, _, rfl⟩

theorem Cached.modStrand (s : State) (n : Nat) (k : Kind) (ic : List (Nat × BitVec 512)) :
    Cached s (s.modStrand n k fun x => { x with icache := ic }) n k :=
  ⟨.modStrand .., ic, strand_modStrand ..⟩

theorem judgeWords_go {hdr : Word32} {ws : List Word32} {bad : Option Fetched}
    (h : judgeWords s n k hdr ws bad = .go u b) : u = s := by
  simp only [judgeWords] at h
  split at h
  · split at h
    · cases h; rfl
    · cases h
    · cases h
  · split at h <;> cases h

/-- A head that decodes has changed nothing but its strand's cache. -/
theorem decodeHead_go (h : decodeHead s n k = .go u b) : Cached s u n k := by
  simp only [decodeHead] at h
  split at h
  · split at h
    · cases h
    · exact judgeWords_go h ▸ .modStrand ..
  · cases h

/-! ### Traps at the head -/

/-- What a trap at the head of a strand leaves alone, whatever becomes of the core's tokens. -/
def HeadKept (s t : State) (n : Nat) (k : Kind) : Prop :=
  { t with cores := s.cores, posts := s.posts } = s ∧ (∀ m, m ≠ n → t.core m = s.core m) ∧
  { (t.core n).setStrand k ((s.core n).strand k) with toks := (s.core n).toks } = s.core n

theorem OneStrand.headKept (h : OneStrand s u n k) (ps : List FaultRec) : HeadKept s { u with posts := ps } n k :=
  ⟨(congrArg (fun v : State => { v with posts := s.posts }) h.1 :), h.2.1,
    (congrArg (fun c : Core => { c with toks := (s.core n).toks }) h.2.2 :)⟩

/-- A fault of a strand whose head's words have been fetched: the record posted, and the strand stopped (R267, log 17). -/
theorem strandFault_posted (h : Cached s u n k) {fc : Nat} (hfc : fc < 256) (pc val : Word) :
    let t := u.strandFault n k fc 0 pc val 0
    HeadKept s t n k ∧ (t.core n).toks = (s.core n).toks ∧ Posted s t (s.core n).ctx fc (strandId s n k) val ∧
      (t.core n).strand k = ((u.core n).strand k).stop := by
  intro t
  have hone : OneStrand s (u.modStrand n k Strand.stop) n k := h.1.trans (.modStrand ..)
  refine ⟨hone.headKept t.posts, hone.toks, ⟨_, congrArg (· ++ _) h.1.posts, ?_, rfl, h.1.ctx, h.1.strandId, rfl, ?_⟩, ?_⟩
  · exact Nat.mod_eq_of_lt hfc
  · exact congrArg (BitVec.ofNat 64) h.1.now
  · exact strand_modStrand u n k Strand.stop

/-- A trap raised at a head whose words have been fetched (R121, R124, R125). -/
theorem trapEntry_headTraps (h : Cached s u n k) (code : Nat) (v : Word) :
    let t := trapEntry u n k code v ((s.core n).strand k).pc ((s.core n).strand k).pc 0 false
    HeadTraps s t n k code v ∧ (t.core n).toks = (s.core n).toks := by
  have hc := h
  obtain ⟨hone, ic, hst⟩ := h
  have hmode : ((u.core n).strand k).mode = ((s.core n).strand k).mode := by rw [hst]
  have hvec : ((u.core n).strand k).trapvec = ((s.core n).strand k).trapvec := by rw [hst]
  by_cases hm : ((s.core n).strand k).mode = .trapped
  · rw [trapEntry_double _ _ _ _ _ _ _ _ _ (hmode.trans hm)]
    obtain ⟨⟨hs, hothers, hcore⟩, htoks, hposted, hstop⟩ :=
      strandFault_posted hc (fc := 4) (by decide) ((s.core n).strand k).pc (BitVec.ofNat 64 code)
    rw [hst] at hstop
    exact ⟨⟨hs, hothers, hcore, ic, fun h => absurd hm h, fun _ => ⟨hposted, hstop⟩, fun h => absurd hm h⟩, htoks⟩
  · by_cases hv : ((s.core n).strand k).trapvec = 0
    · rw [trapEntry_none _ _ _ _ _ _ _ _ _ (by rwa [hmode]) (hvec.trans hv)]
      obtain ⟨⟨hs, hothers, hcore⟩, htoks, hposted, hstop⟩ :=
        strandFault_posted hc (fc := 5) (by decide) ((s.core n).strand k).pc (BitVec.ofNat 64 code)
      rw [hst] at hstop
      exact ⟨⟨hs, hothers, hcore, ic, fun _ h => absurd hv h, fun h => absurd h hm, fun _ _ => ⟨hposted, hstop⟩⟩, htoks⟩
    · rw [trapEntry_taken _ _ _ _ _ _ _ _ _ (by rwa [hmode]) (by rwa [hvec])]
      have ht := hone.trans (.modStrand u n k fun st =>
        { st with epc := ((s.core n).strand k).pc, cause := causeWord 0 false code, tval := v, mode := .trapped,
                  pc := st.trapvec, joinSince := none, fetchSince := none })
      obtain ⟨hs, hothers, hcore⟩ := ht.headKept u.posts
      refine ⟨⟨hs, hothers, hcore, ic, fun _ _ => ⟨hone.posts, ?_⟩, fun h => absurd h hm, fun _ h => absurd h hv⟩, ht.toks⟩
      rw [strand_modStrand, hst]

/-- A trap of the header of a head that decodes. -/
theorem headTrap_headTraps (h : Cached s u n k) (code : Nat) (v : Word) :
    HeadTraps s (headTrap u n k code v) n k code v ∧ ((headTrap u n k code v).core n).toks = (s.core n).toks := by
  have hpc : ((u.core n).strand k).pc = ((s.core n).strand k).pc := by obtain ⟨-, ic, hst⟩ := h; rw [hst]
  rw [headTrap, hpc]
  exact trapEntry_headTraps h code v

/-! ### The join traps (R18, R21) -/

theorem joinTrap_member {c : Core} {h : Header} (hs : h.sync ≠ 0) (hm : (c.joinMask h.jtag.toNat).getLsbD k.code = false) :
    joinTrap c k h = some 6 := by
  rw [joinTrap, if_neg hs]
  simp [hm]

theorem joinTrap_broken {c : Core} {h : Header} (hs : h.sync ≠ 0) (hm : (c.joinMask h.jtag.toNat).getLsbD k.code = true)
    (hp : partnerHalted c (c.joinMask h.jtag.toNat) k = true) : joinTrap c k h = some 7 := by
  rw [joinTrap, if_neg hs]
  simp [hm, hp]

/-- A join check of a head that may issue traps where the head meets it. -/
theorem joinEvent_traps (hat : atHead s n k = true) (hd : decodeHead s n k = .go u b)
    (hj : joinTrap (s.core n) k b.hdr = some code) :
    joinEvent code s n k = headTrap u n k code (b.hdr.jtag.zeroExtend 64) := by
  simp [joinEvent, hat, hd, hj]

/-- A head whose join checks and waits are over, and none of whose tokens is in error, may have its instructions tried. -/
theorem judgeHead_go {pre : Core} (hd : decodeHead s n k = .go u b) (hj : joinTrap pre k b.hdr = none)
    (hf : flagWaitOk pre b.hdr = true) (hb : tokBusy pre b.hdr.tokmask = false) (he : tokErrs pre b.hdr.tokmask = []) :
    judgeHead s pre n k = .go u b := by
  simp [judgeHead, hd, hj, hf, hb, he]

/-- JOIN_TIMEOUT at a head that the last issue turn found ready, past the join limit (R21, R143). -/
theorem joinLate_traps {since : Nat} (hs : ((s.core n).strand k).joinSince = some since) (hready : (n, k) ∈ s.joinReady)
    (hlate : (s.core n).waitPassed s.now since (s.core n).joinLimit.toNat = true)
    (hgo : judgeHead s (s.core n) n k = .go u b) (hsync : b.hdr.sync ≠ 0) :
    joinLate s n k = headTrap u n k 8 (b.hdr.jtag.zeroExtend 64) := by
  simp only [joinLate, hs, List.contains_iff_mem.2 hready, hlate, hgo, if_neg hsync]
  rfl

/-! ### Token errors (R117) -/

theorem tok_setTok_same (c : Core) (i : Nat) (x : Token) : (c.setTok i x).tok i = x := tget_tset_same ..

theorem tok_setTok_other (c : Core) {i j : Nat} (x : Token) (h : j ≠ i) : (c.setTok i x).tok j = c.tok j :=
  tget_tset_other _ _ _ _ _ h

/-- A report changes nothing of a core but its tokens. -/
theorem reportToks_core (c : Core) (ts : List Nat) : ∃ x, reportToks c ts = { c with toks := x } := by
  induction ts generalizing c with
  | nil => exact ⟨_, rfl⟩
  | cons i ts ih =>
    obtain ⟨x, hx⟩ := ih (c.setTok i (c.tok i).report)
    exact ⟨x, hx⟩

theorem tok_reportToks (c : Core) (ts : List Nat) (i : Nat) :
    (reportToks c ts).tok i = if i ∈ ts then (c.tok i).report else c.tok i := by
  induction ts generalizing c with
  | nil => rfl
  | cons j ts ih =>
    have step : (reportToks c (j :: ts)).tok i = _ := ih (c.setTok j (c.tok j).report)
    rw [step]
    by_cases h : i = j
    · subst h
      rw [tok_setTok_same, if_pos List.mem_cons_self]
      exact ite_self _
    · rw [tok_setTok_other c _ h]
      simp only [List.mem_cons, h, false_or]

/-- The state after the trap of a token error: the errors count as reported where the strand has entered its handler. -/
def reported (t : State) (n : Nat) (k : Kind) (es : List Nat) : State :=
  if ((t.core n).strand k).mode = .trapped then t.modCore n fun c => reportToks c es else t

/-- TOKEN_ERROR at a head whose join checks and waits are over, with a masked token in error (R117). -/
theorem tokenLate_reports (hd : decodeHead s n k = .go u b) (hj : joinTrap (s.core n) k b.hdr = none)
    (hf : flagWaitOk (s.core n) b.hdr = true) (hb : tokBusy (s.core n) b.hdr.tokmask = false)
    (he : tokErrs (s.core n) b.hdr.tokmask ≠ []) :
    tokenLate s n k =
      reported (headTrap u n k 9 (tokErrTval (s.core n) (tokErrs (s.core n) b.hdr.tokmask))) n k
        (tokErrs (s.core n) b.hdr.tokmask) := by
  obtain ⟨e, es, hes⟩ := List.exists_cons_of_ne_nil he
  simp [tokenLate, judgeHead, hd, hj, hf, hb, hes, reported]

/-- What becomes of the core's tokens is no part of a trap at the head. -/
theorem HeadTraps.withToks (h : HeadTraps s t n k code v) (x : Tab Token) :
    HeadTraps s (t.setCore n { t.core n with toks := x }) n k code v := by
  obtain ⟨hs, hothers, hcore, ic, htaken, hdouble, hnone⟩ := h
  have hstrand : ∀ c : Core, ({ c with toks := x } : Core).strand k = c.strand k := fun c => by cases k <;> rfl
  have hput : ∀ (c : Core) (st : Strand), { ({ c with toks := x } : Core).setStrand k st with toks := (s.core n).toks } =
      { c.setStrand k st with toks := (s.core n).toks } := fun c st => by cases k <;> rfl
  refine ⟨hs, fun m hm => (core_setCore_other _ _ _ _ hm).trans (hothers m hm), ?_, ic, ?_⟩
  · rw [core_setCore_same, hput, hcore]
  · rw [core_setCore_same, hstrand]
    exact ⟨htaken, hdouble, hnone⟩

/-- The errors are reported exactly where the strand has a handler to enter. -/
theorem reported_headTraps (h : HeadTraps s t n k code v) (htoks : (t.core n).toks = (s.core n).toks) (es : List Nat) :
    HeadTraps s (reported t n k es) n k code v ∧
    (((s.core n).strand k).mode ≠ .trapped → ((s.core n).strand k).trapvec ≠ 0 → ∀ i,
      ((reported t n k es).core n).tok i = if i ∈ es then ((s.core n).tok i).report else (s.core n).tok i) := by
  have htok : ∀ i, (t.core n).tok i = (s.core n).tok i := fun i => congrArg (fun x : Tab Token => tget ({} : Token) x i) htoks
  have hentered : ((s.core n).strand k).mode ≠ .trapped → ((s.core n).strand k).trapvec ≠ 0 →
      ((t.core n).strand k).mode = .trapped := by
    obtain ⟨-, -, -, ic, htaken, -, -⟩ := h
    intro hm hv
    rw [(htaken hm hv).2]
  unfold reported
  split
  · obtain ⟨x, hx⟩ := reportToks_core (t.core n) es
    refine ⟨?_, fun _ _ i => ?_⟩
    · rw [modCore_eq, hx]
      exact h.withToks x
    · rw [modCore_eq, core_setCore_same, tok_reportToks, htok]
  · next hnot => exact ⟨h, fun hm hv => absurd (hentered hm hv) hnot⟩

/-! ### Fetches (R150, R258) -/

/-- A head that cannot be fetched traps with the address. -/
theorem decodeHead_trap {va : Word} (h : fetchWord s n ((s.core n).strand k) ((s.core n).strand k).pc.toNat = .trap code va) :
    decodeHead s n k =
      .settled (trapEntry s n k code va ((s.core n).strand k).pc ((s.core n).strand k).pc 0 false) := by
  simp [decodeHead, h, fetchFail]

/-- A word that no cached line holds brings its line from memory (R150). -/
theorem fetchWord_brings {st : Strand} {va pa bits : Nat} {leaf : Word} {bs : List Byte}
    (hmiss : (st.icache.find? fun x => x.1 == va / 64) = none)
    (htr : translate s (coreCluster n) (s.core n).ctx va .fetch = .ok pa leaf bits)
    (hread : readUnder s { path := 0, core := n, task := (s.core n).task, kind := .a, id := s.nextId, reach := 0 }
      ((s.core n).stores.filter OutStore.atCore) (pa / 64 * 64) 64 = .ok bs) :
    fetchWord s n st va =
      .ok (lineWord (BitVec.ofNat 512 (leNat bs)) va) (st.cacheLine (va / 64) (BitVec.ofNat 512 (leNat bs))) := by
  simp [fetchWord, hmiss, htr, hread]

theorem instructionFetch_head (hat : atHead s n k = true) :
    exec (.instructionFetch n k ((s.core n).strand k).pc.toNat) s = .next (fetchHead s n k) := by
  simp [execInstructionFetch, hat]

theorem instructionFetch_ahead {va : Nat} (hat : atHead s n k = true) (hva : va ≠ ((s.core n).strand k).pc.toNat)
    (h4 : va % 4 = 0) : exec (.instructionFetch n k va) s = .next (prefetch s n k va) := by
  simp [execInstructionFetch, hat, hva, h4]

/-- Settles O47: each event comes to `headTrap` or `trapEntry` of a state in which only lines of the strand's cache differ, which
`trapEntry_headTraps` describes; a fetch that succeeds leaves that state. -/
theorem headEvents : Obligations.HeadEvents := by
  intro s n k hat c st traps
  have trapped : ∀ {i : Instr} {u : State} {code : Nat} {v : Word}, Cached s u n k → exec i s = .next (headTrap u n k code v) →
      traps i code v := fun hu e => ⟨_, e, headTrap_headTraps hu _ _⟩
  refine ⟨fun u b hd => ?_, fun u b hd => ?_, fun code va hf => ?_, fun va pa leaf bits bs h4 hva hmiss hroom htr hread => ?_⟩
  · intro tag m
    have hu := decodeHead_go hd
    refine ⟨fun hs hm => trapped hu (congrArg _ (joinEvent_traps hat hd (joinTrap_member hs hm))),
      fun hs hm hp => trapped hu (congrArg _ (joinEvent_traps hat hd (joinTrap_broken hs hm hp))), fun hj hf hb => ?_⟩
    intro es
    refine ⟨fun he hsync hready x hx hlate => trapped hu ?_, fun he => ?_⟩
    · rw [exec_joinTimeout, execJoinTimeout, if_pos hat, joinLate_traps hx hready hlate (judgeHead_go hd hj hf hb he) hsync]
    · obtain ⟨htraps, htoks⟩ := headTrap_headTraps hu 9 (tokErrTval c es)
      refine ⟨_, ?_, reported_headTraps htraps htoks es⟩
      rw [exec_tokenError, execTokenError, if_pos hat, tokenLate_reports hd hj hf hb he]
  · obtain ⟨hone, hic⟩ := decodeHead_go hd
    refine ⟨?_, hone, hic⟩
    rw [instructionFetch_head hat, fetchHead, hd]
  · refine ⟨_, ?_, trapEntry_headTraps (.refl s n k) code va⟩
    rw [instructionFetch_head hat, fetchHead, decodeHead_trap hf]
  · refine ⟨_, ?_, .modStrand s n k fun x => { x with icache := st.icache ++ [(va / 64, BitVec.ofNat 512 (leNat bs))] },
      strand_modStrand ..⟩
    rw [instructionFetch_ahead hat hva h4, prefetch, fetchWord_brings hmiss htr hread, Strand.cacheLine, if_pos hroom]

end Sys2Proof
end

section
/-! PROOFS. One strand's issue (R8, R16, R20, R25, R26, R150): the word that a fetch finds in memory, and the step in which one
strand of a core issues a bundle of one instruction. -/

namespace Sys2Proof.Machine

open Sys2Proof

variable {s u t : State} {pre : Core} {n : Nat} {k : Kind} {b : Bundle} {hdr : Word32} {ws : List Word32} {st st1 st2 : Strand}

/-! ### Bytes and words (R4) -/

theorem readBytes_append (m : List Host.Cell) (a i j : Nat) :
    readBytes m a (i + j) = readBytes m a i ++ readBytes m (a + i) j := by
  induction i generalizing a with
  | zero => simp [readBytes]
  | succ i ih => simp [Nat.succ_add, readBytes, ih, Nat.add_assoc]

theorem leNat_append (xs ys : List Byte) : leNat (xs ++ ys) = leNat xs + 256 ^ xs.length * leNat ys := by
  induction xs with
  | nil => simp [leNat]
  | cons x xs ih => simp [leNat, ih, pow_succ]; ring

theorem leNat_lt (xs : List Byte) : leNat xs < 256 ^ xs.length := by
  induction xs with
  | nil => simp [leNat]
  | cons x xs ih => have := x.isLt; simp only [leNat, List.length_cons, pow_succ]; omega

theorem leNat_lt_two_pow {xs : List Byte} {w : Nat} (h : w = 8 * xs.length) : leNat xs < 2 ^ w := by
  rw [h, pow_mul]
  exact leNat_lt xs

theorem toNat_extract_ofNat {x w : Nat} (h : x < 2 ^ w) (i j : Nat) :
    ((BitVec.ofNat w x).extractLsb' i j).toNat = x / 2 ^ i % 2 ^ j := by
  rw [BitVec.extractLsb'_toNat, BitVec.toNat_ofNat, Nat.mod_eq_of_lt h, Nat.shiftRight_eq_div_pow]

/-- The bytes from position `i` of a stretch of memory, as the digits of its number. -/
theorem leNat_readBytes_slice (m : List Host.Cell) (a i j r : Nat) :
    leNat (readBytes m a (i + (j + r))) / 256 ^ i % 256 ^ j = leNat (readBytes m (a + i) j) := by
  have hi := leNat_lt (readBytes m a i)
  have hj := leNat_lt (readBytes m (a + i) j)
  rw [readBytes_length] at hi hj
  rw [readBytes_append, readBytes_append, leNat_append, leNat_append, readBytes_length, readBytes_length,
    Nat.add_mul_div_left _ _ (by positivity), Nat.div_eq_of_lt hi, Nat.zero_add, Nat.add_mul_mod_self_left, Nat.mod_eq_of_lt hj]

/-- A line as it stands in memory has the word of memory at each of its addresses (R150). -/
theorem lineWord_readBytes (m : List Host.Cell) (a va : Nat) (h : va % 64 ≤ 60) :
    lineWord (BitVec.ofNat 512 (leNat (readBytes m a 64))) va = BitVec.ofNat 32 (leNat (readBytes m (a + va % 64) 4)) := by
  have hword := leNat_readBytes_slice m a (va % 64) 4 (60 - va % 64)
  rw [show va % 64 + (4 + (60 - va % 64)) = 64 by omega] at hword
  have hline : leNat (readBytes m a 64) < 2 ^ 512 := leNat_lt_two_pow (by rw [readBytes_length])
  apply BitVec.eq_of_toNat_eq
  rw [lineWord, toNat_extract_ofNat hline, BitVec.toNat_ofNat, ← hword, pow_mul, show 2 ^ 32 = 256 ^ 4 from rfl,
    show 2 ^ 8 = 256 from rfl, Nat.mod_mod]

/-! ### A read of memory in which nothing is in flight -/

theorem asSeen_no_writes (h : s.hist = []) (p : Party) : s.asSeen p = s := by simp [State.asSeen, h]

theorem cleanUnder_no_poison (h : s.poison = []) (ts : List OutStore) : cleanUnder s ts = s := by simp [cleanUnder, h]

theorem readPhys_reads {pa : Nat} (hp : s.poison = []) (hu : unreachable s pa = false) (m : Nat) :
    readPhys s pa m = .ok (readBytes s.mem pa m) := by
  simp [readPhys, poisonIn, hp, hu]

/-- A read of memory that no write is still on its way to, clean and reachable, finds its bytes. -/
theorem readUnder_reads {pa : Nat} (hh : s.hist = []) (hp : s.poison = []) (hu : unreachable s pa = false)
    (p : Party) (m : Nat) : readUnder s p [] pa m = .ok (readBytes s.mem pa m) := by
  rw [readUnder, asSeen_no_writes hh, cleanUnder_no_poison hp, readPhys_reads hp hu]
  rfl

/-- A word that is not in the cache is fetched from memory at its translated address (R150). -/
theorem fetchWord_from_memory {va pa bits : Nat} {leaf : Word} (hmiss : ∀ x ∈ st.icache, x.1 ≠ va / 64)
    (htr : translate s (coreCluster n) (s.core n).ctx va .fetch = .ok pa leaf bits) (h4 : va % 4 = 0) (h64 : pa % 64 = va % 64)
    (hh : s.hist = []) (hp : s.poison = []) (hst : ∀ x ∈ (s.core n).stores, x.atCore = false)
    (hu : unreachable s (pa / 64 * 64) = false) :
    ∃ st', fetchWord s n st va = .ok (BitVec.ofNat 32 (leNat (readBytes s.mem pa 4))) st' := by
  have hnone : (st.icache.find? fun x => x.1 == va / 64) = none := List.find?_eq_none.2 fun x hx => by simpa using hmiss x hx
  have hstores : (s.core n).stores.filter OutStore.atCore = [] := List.filter_eq_nil_iff.2 fun x hx => by simp [hst x hx]
  have hread := readUnder_reads hh hp hu
    { path := 0, core := n, task := (s.core n).task, kind := .a, id := s.nextId, reach := 0 } 64
  rw [← hstores] at hread
  rw [fetchWord_brings hnone htr hread, lineWord_readBytes _ _ _ (by omega), ← h64, Nat.div_add_mod' pa 64]
  exact ⟨_, rfl⟩

/-! ### A head whose words are at hand -/

/-- A bundle that decodes has a good header, which is its own, and as many words as that says (R25, R26, R27). -/
theorem decodeBundle_ok (h : decodeBundle k hdr ws = .ok b) :
    headerOk (decodeHeader hdr) = true ∧ ws.length = (decodeHeader hdr).words ∧ b.hdr = decodeHeader hdr := by
  simp only [decodeBundle] at h
  split_ifs at h with hok hlen hbrk
  · refine ⟨by simpa using hok, by simpa using hlen, ?_⟩
    split at h <;> cases h
    rfl
  · refine ⟨by simpa using hok, by simpa using hlen, ?_⟩
    split at h
    · cases h
    · split at h <;> cases h
      rfl

/-- Words fetched whole and that form a bundle are the strand's decoded head. -/
theorem decodeHead_fetched (h0 : fetchWord s n ((s.core n).strand k) ((s.core n).strand k).pc.toNat = .ok hdr st1)
    (h1 : fetchWords s n (((s.core n).strand k).pc.toNat + 4) (decodeHeader hdr).words st1 = ⟨ws, st2, none⟩)
    (hb : decodeBundle k hdr ws = .ok b) :
    decodeHead s n k = .go (s.modStrand n k fun x => { x with icache := st2.icache }) b := by
  obtain ⟨hok, hlen, -⟩ := decodeBundle_ok hb
  simp [decodeHead, judgeWords, h0, h1, hok, hlen, hb]

/-- A header that names no join, no flag and no token holds nothing back (R18, R26). -/
theorem judgeHead_free (hd : decodeHead s n k = .go u b) (hsync : b.hdr.sync = 0) (hwe : b.hdr.we = 0)
    (htok : b.hdr.tokmask = 0) : judgeHead s pre n k = .go u b := by
  have hnone : maskToks 0#8 = [] := by decide
  apply judgeHead_go hd
  · simp [joinTrap, hsync]
  · simp [flagWaitOk, hwe]
  · simp [tokBusy, htok, hnone]
  · simp [tokErrs, htok, hnone]

/-! ### One bundle, one strand, one cycle -/

/-- A bundle of one instruction that performs. -/
theorem tryItems_one {i : Instr} {pos : Nat} (he : exec i (s.atPos pos) = .next t) (hv : t.issue.verdict = .performing) :
    tryItems [(pos, i)] false none s = .next t := by
  simp [tryItems, he, hv]

/-- A bundle that no breakpoint stops and that does not go on has issued. -/
theorem finishItems_ready {h : Header}
    (hbp : ∀ c, s.ctx? (s.core n).ctx = some c → breakpointAt c k ((s.core n).strand k).pc = false)
    (hp : t.issue.paused = false) : finishItems s t n k h = .ready s h (advance t) := by
  cases hc : s.ctx? (s.core n).ctx with
  | none => simp [finishItems, hc, hp]
  | some c => simp [finishItems, hc, hbp c hc, hp]

/-- A strand whose head is ready and has one instruction which performs. -/
theorem attempt_ready {i : Instr} (hstall : traceStall s n k = false) (hj : judgeHead s pre n k = .go u b)
    (hi : b.items = [(1, i)])
    (he : exec i ((openBundle u pre n k b).atPos 1) = .next t) (hv : t.issue.verdict = .performing) (hp : t.issue.paused = false)
    (hbp : ∀ c, u.ctx? (u.core n).ctx = some c → breakpointAt c k ((u.core n).strand k).pc = false) :
    attempt s pre n k = .ready u b.hdr (advance t) := by
  simp [attempt, hstall, judgeGoing, hj, hi, tryItems_one he hv, finishItems_ready hbp hp]

/-- A cycle in which one strand tries to issue a bundle that is not joined, and does. -/
theorem cycleFrom_one {h : Header} {fuel : Nat} (ha : attempt s pre n k = .ready u h t) (hsync : h.sync = 0) :
    cycleFrom s pre n [k] (fuel + 1) [] = .next { countHead t n k 0 with issue := {} } := by
  simp [cycleFrom, turnOf, ha, hsync, countPairs]

/-- The strands of the mask that names one strand, which may issue. -/
theorem filter_one {p : Kind → Bool} (h : p k = true) :
    (Kind.all.filter fun j => (BitVec.ofNat 4 (2 ^ k.code)).getLsbD j.code && p j) = [k] := by
  cases k <;> simp [Kind.all, Kind.code, h]

/-- A step of which one strand's issue is the turn. -/
theorem step_issue_one {dt : Nat} {rest : List Turn} {h : Header}
    (hag : s.agenda = .issue n (BitVec.ofNat 4 (2 ^ k.code)) dt :: rest) (hn : n < 640)
    (hmay : mayIssue (openCycle { s with agenda := rest } n (BitVec.ofNat 4 (2 ^ k.code)) dt) n k = true)
    (ha : attempt (openCycle { s with agenda := rest } n (BitVec.ofNat 4 (2 ^ k.code)) dt)
      ((openCycle { s with agenda := rest } n (BitVec.ofNat 4 (2 ^ k.code)) dt).core n) n k = .ready u h t) (hsync : h.sync = 0) :
    step s = .next (afterTurn { countHead t n k 0 with issue := {} }) := by
  have hcount : ¬coreCount ≤ n := by simpa [coreCount] using hn
  simp only [step, stepOnce, nextTurn, hag, runTurn, issueTurn, if_neg hcount, filter_one hmay,
    cycleFrom_one ha hsync, settleTurn]

/-- Settles O13: `fetchWord_from_memory` is the first clause; for the second the head decodes, is held back by nothing, and
its one instruction performs. -/
theorem stepRunsDecoded : Obligations.StepRunsDecoded := by
  refine ⟨fun s n st va pa leaf bits hmiss htr h4 h64 hh hp hst _ hu =>
    fetchWord_from_memory hmiss htr h4 h64 hh hp hst hu, ?_⟩
  intro s n dt k rest hdr ws st1 st2 h i t hag hn s1 st s2 hmay hstall h0 h1 hb hsync hwe htok hbp he hv hp
  have hd : decodeHead s1 n k = .go s2 ⟨h, [(1, i)]⟩ := decodeHead_fetched h0 h1 hb
  have hst2 : (s2.core n).strand k = { st with icache := st2.icache } := strand_modStrand ..
  have hctx : (s2.core n).ctx = (s1.core n).ctx := (OneStrand.modStrand s1 n k _).ctx
  have ha := attempt_ready hstall (judgeHead_free hd hsync hwe htok) rfl he hv hp fun c hc => by
    rw [hctx] at hc
    rw [hst2]
    exact hbp c hc
  exact step_issue_one hag hn hmay ha hsync

end Sys2Proof.Machine
end

section
/-! PROOFS. Decoding after encoding (R28 to R38): the words of a sequence of instructions decode to that sequence, and words
written out from the layouts to the instructions whose encodings they are. -/

namespace Sys2Proof.Laws

open Sys2Proof

variable {k : Kind} {i : Instr} {w v : Word32}

/-! ### One instruction -/

/-- Every instruction is read back from its own words in every map in which it stands: the laws of the constructors,
in the order of the opcode table. -/
theorem roundTrip (i : Instr) : RoundTrip.Statement i :=
  Instr.casesOn (motive := RoundTrip.Statement) i
    RoundTrip.nop RoundTrip.halt RoundTrip.brk RoundTrip.trap RoundTrip.eret RoundTrip.icsync RoundTrip.fence
    RoundTrip.br RoundTrip.call RoundTrip.jr RoundTrip.callr RoundTrip.ret RoundTrip.loop RoundTrip.loopi
    RoundTrip.loopp RoundTrip.looppi RoundTrip.add RoundTrip.sub RoundTrip.mul RoundTrip.mulh RoundTrip.and RoundTrip.or
    RoundTrip.xor RoundTrip.andn RoundTrip.shl RoundTrip.shr RoundTrip.sar RoundTrip.ror RoundTrip.addi RoundTrip.andi
    RoundTrip.ori RoundTrip.xori RoundTrip.li RoundTrip.lih RoundTrip.shli RoundTrip.shri RoundTrip.sari RoundTrip.rori
    RoundTrip.min RoundTrip.max RoundTrip.minu RoundTrip.maxu RoundTrip.div RoundTrip.divu RoundTrip.rem RoundTrip.remu
    RoundTrip.lea1 RoundTrip.lea2 RoundTrip.lea4 RoundTrip.lea8 RoundTrip.cmpeq RoundTrip.cmpne RoundTrip.cmplt
    RoundTrip.cmpltu RoundTrip.cmpge RoundTrip.cmpgeu RoundTrip.tst RoundTrip.cmpeqi RoundTrip.cmplti RoundTrip.cmpltui
    RoundTrip.cmpgei RoundTrip.pand RoundTrip.por RoundTrip.pxor RoundTrip.pandn RoundTrip.pnot RoundTrip.pset
    RoundTrip.pclr RoundTrip.pmov RoundTrip.qmovPush RoundTrip.qmovPop RoundTrip.qpeek RoundTrip.finc RoundTrip.fset
    RoundTrip.fadd RoundTrip.frd RoundTrip.csrr RoundTrip.csrw RoundTrip.csrs RoundTrip.csrc RoundTrip.sext
    RoundTrip.zext RoundTrip.clz RoundTrip.popc RoundTrip.ld8 RoundTrip.ld16 RoundTrip.ld32 RoundTrip.ld64
    RoundTrip.ldz8 RoundTrip.ldz16 RoundTrip.ldz32 RoundTrip.st8 RoundTrip.st16 RoundTrip.st32 RoundTrip.st64
    RoundTrip.ldq8 RoundTrip.ldq16 RoundTrip.ldq32 RoundTrip.ldq64 RoundTrip.amoAdd RoundTrip.amoSwp RoundTrip.amoCas
    RoundTrip.amoAnd RoundTrip.amoOr RoundTrip.amoXor RoundTrip.amoMin RoundTrip.amoMax RoundTrip.rldq8 RoundTrip.rldq16
    RoundTrip.rldq32 RoundTrip.rldq64 RoundTrip.laydef RoundTrip.layinv RoundTrip.pin RoundTrip.unpin RoundTrip.lastuse
    RoundTrip.stream RoundTrip.pfit RoundTrip.pfitcan RoundTrip.copy RoundTrip.copyt RoundTrip.vrel RoundTrip.promote
    RoundTrip.kvapp RoundTrip.selTopk RoundTrip.selSeg RoundTrip.unmSetup RoundTrip.unmReg RoundTrip.unmRound
    RoundTrip.unmFree RoundTrip.rteSetup RoundTrip.rteCount RoundTrip.rtePlace RoundTrip.rteScatter RoundTrip.rteGather
    RoundTrip.collAr RoundTrip.collAg RoundTrip.collRs RoundTrip.collBc RoundTrip.collA2a RoundTrip.fencex
    RoundTrip.fpush RoundTrip.fqclose RoundTrip.renq RoundTrip.gbar RoundTrip.gleave RoundTrip.gjoin RoundTrip.gcast
    RoundTrip.prack RoundTrip.hostirq RoundTrip.cube RoundTrip.mma RoundTrip.ald RoundTrip.ast RoundTrip.aclr
    RoundTrip.acvt RoundTrip.acopy RoundTrip.atrn RoundTrip.vadd RoundTrip.vsub RoundTrip.vmul RoundTrip.vfma
    RoundTrip.vmin RoundTrip.vmax RoundTrip.vabs RoundTrip.vneg RoundTrip.vand RoundTrip.vor RoundTrip.vxor
    RoundTrip.vnot RoundTrip.vshl RoundTrip.vshr RoundTrip.vsar RoundTrip.vcmpeq RoundTrip.vcmplt RoundTrip.vcmple
    RoundTrip.vsel RoundTrip.vcvt RoundTrip.vrndi RoundTrip.vrsum RoundTrip.vrmax RoundTrip.vrmin RoundTrip.vrargmax
    RoundTrip.vexp2 RoundTrip.vlog2 RoundTrip.vrcp RoundTrip.vrsq RoundTrip.vtanh RoundTrip.vmov RoundTrip.vperm
    RoundTrip.vrot RoundTrip.vrng RoundTrip.vdistIp RoundTrip.vdistL2 RoundTrip.vdistHam RoundTrip.vlmask
    RoundTrip.viota RoundTrip.vmovs RoundTrip.vins RoundTrip.joinMember RoundTrip.joinBroken RoundTrip.joinTimeout
    RoundTrip.tokenError RoundTrip.loadReturn RoundTrip.atomicResponse RoundTrip.tileFillArrival RoundTrip.cubePerform
    RoundTrip.aldComplete RoundTrip.vectorComplete RoundTrip.tileMissTimeout RoundTrip.alcoveWriteback
    RoundTrip.hallFill RoundTrip.hallForward RoundTrip.homeRequest RoundTrip.homePublication RoundTrip.homeWriteback
    RoundTrip.homeRaise RoundTrip.requestResend RoundTrip.slotSwap RoundTrip.pageWalkComplete RoundTrip.copytRelease
    RoundTrip.copyStart RoundTrip.copyComplete RoundTrip.markerRemove RoundTrip.selectionPerform
    RoundTrip.landingPerform RoundTrip.concoursePerform RoundTrip.countContribution RoundTrip.routeTimeout
    RoundTrip.collectivePerform RoundTrip.collContribution RoundTrip.collectiveTimeout RoundTrip.engineComplete
    RoundTrip.groupArrival RoundTrip.moduleArrival RoundTrip.remoteFlagUpdate RoundTrip.pageMigrationCopy
    RoundTrip.pageMigrationSwitch RoundTrip.pageReturn RoundTrip.schedulerWalk RoundTrip.launchTake
    RoundTrip.hostLaunchTake RoundTrip.residencyTimeout RoundTrip.taskStart RoundTrip.taskRetire RoundTrip.launchRetire
    RoundTrip.preemptGraceExpiry RoundTrip.cut RoundTrip.saveComplete RoundTrip.taskResume RoundTrip.faultRecord
    RoundTrip.contextFaultStop RoundTrip.ctxCreate RoundTrip.ctxDestroy RoundTrip.lqtailWrite RoundTrip.nqreadWrite
    RoundTrip.tqreadWrite RoundTrip.ctlStop RoundTrip.ctlResume RoundTrip.ctlKill RoundTrip.ctlInvalidate
    RoundTrip.debugWindowAccess RoundTrip.hostRegisterWrite RoundTrip.traceSample RoundTrip.clockStep
    RoundTrip.unitFailure RoundTrip.thermalTrip RoundTrip.moduleReset RoundTrip.blackboxRearm RoundTrip.firmwareUpdate
    RoundTrip.attestationReport RoundTrip.domainConfig RoundTrip.hbmRetrain RoundTrip.retrainRequest
    RoundTrip.flitReceive RoundTrip.laneFecWindow RoundTrip.laneLockLoss RoundTrip.linkRetrainDone
    RoundTrip.fabricTimeout RoundTrip.instructionFetch RoundTrip.writeAcknowledgement
    RoundTrip.regionInstructionComplete RoundTrip.stackRetrainingDone

/-- An instruction with words has one or two of them, as the map says of its opcode, and they decode to it. -/
theorem encode_cases (hk : k ∈ i.kinds) :
    (∃ w, encode i = [w] ∧ isTwoWord k (fOp w).toNat = false ∧ decodePair k w 0 = some i) ∨
    (∃ w v, encode i = [w, v] ∧ isTwoWord k (fOp w).toNat = true ∧ decodePair k w v = some i) := by
  have h := roundTrip i k hk
  match encode i, h with
  | [], h => exact h.elim
  | [w], h => exact .inl ⟨w, rfl, h⟩
  | [w, v], h => exact .inr ⟨w, v, rfl, h⟩
  | _ :: _ :: _ :: _, h => exact h.elim

theorem decodePair_of_encode_one (hk : k ∈ i.kinds) (he : encode i = [w]) : decodePair k w 0 = some i := by
  obtain ⟨x, hx, -, hd⟩ | ⟨x, y, hx, -, -⟩ := encode_cases hk
  · obtain rfl : w = x := by simpa [he] using hx
    exact hd
  · simp [he] at hx

theorem decodePair_of_encode_two (hk : k ∈ i.kinds) (he : encode i = [w, v]) : decodePair k w v = some i := by
  obtain ⟨x, hx, -, -⟩ | ⟨x, y, hx, -, hd⟩ := encode_cases hk
  · simp [he] at hx
  · obtain ⟨rfl, rfl⟩ : w = x ∧ v = y := by simpa [he] using hx
    exact hd

/-! ### A sequence of instructions -/

theorem decodeLegal_of_wf {pos : Nat} (hd : decodePair k w v = some i) (hwf : i.wf k = true) : decodeLegal k pos w v = .ok i := by
  simp [decodeLegal, legal, hd, hwf]

theorem decodeItems_one {ws : List Word32} {xs : List (Nat × Instr)} {pos : Nat} (htwo : isTwoWord k (fOp w).toNat = false)
    (hd : decodeLegal k pos w 0 = .ok i) (hrest : decodeItems k (pos + 1) ws = .ok xs) :
    decodeItems k pos (w :: ws) = .ok ((pos, i) :: xs) := by
  rw [decodeItems.eq_def]
  simp only [htwo, hd, hrest, Bool.false_eq_true, if_false]

theorem decodeItems_two {ws : List Word32} {xs : List (Nat × Instr)} {pos : Nat} (htwo : isTwoWord k (fOp w).toNat = true)
    (hd : decodeLegal k pos w v = .ok i) (hrest : decodeItems k (pos + 2) ws = .ok xs) :
    decodeItems k pos (w :: v :: ws) = .ok ((pos, i) :: xs) := by
  simp only [decodeItems, htwo, hd, hrest, if_true]

/-- A well-formed instruction at the front is taken off by its own words, whatever words follow. -/
theorem decodeItems_encode_append {ws : List Word32} {xs : List (Nat × Instr)} {pos : Nat} (hk : k ∈ i.kinds)
    (hwf : i.wf k = true) (hrest : decodeItems k (pos + (encode i).length) ws = .ok xs) :
    decodeItems k pos (encode i ++ ws) = .ok ((pos, i) :: xs) := by
  obtain ⟨w, he, htwo, hd⟩ | ⟨w, v, he, htwo, hd⟩ := encode_cases hk
  · rw [he] at hrest ⊢
    exact decodeItems_one htwo (decodeLegal_of_wf hd hwf) hrest
  · rw [he] at hrest ⊢
    exact decodeItems_two htwo (decodeLegal_of_wf hd hwf) hrest

/-- Settles O11, by induction on the instructions: `decodeItems_encode_append` takes the first one off. -/
theorem encodeDecode : Obligations.EncodeDecode := by
  intro k pos is
  induction is generalizing pos with
  | nil => exact fun _ => ⟨[], rfl, rfl⟩
  | cons i is ih =>
    intro h
    obtain ⟨hk, hwf⟩ := h i List.mem_cons_self
    obtain ⟨xs, hxs, hmap⟩ := ih (pos + (encode i).length) fun j hj => h j (List.mem_cons_of_mem i hj)
    refine ⟨(pos, i) :: xs, ?_, by rw [List.map_cons, hmap]⟩
    rw [List.flatMap_cons]
    exact decodeItems_encode_append hk hwf hxs

/-! ### Words written out -/

/-- Settles O12: each word or word pair is the encoding of its instruction, which stands in the map that it is read in. -/
theorem decodeWords : Obligations.DecodeWords :=
  ⟨decodePair_of_encode_two (by decide) rfl, decodePair_of_encode_one (by decide) rfl,
    decodePair_of_encode_one (by decide) rfl, decodePair_of_encode_one (by decide) rfl,
    decodePair_of_encode_two (by decide) rfl, decodePair_of_encode_two (by decide) rfl,
    decodePair_of_encode_one (by decide) rfl, decodePair_of_encode_one (by decide) rfl,
    decodePair_of_encode_one (by decide) rfl, decodePair_of_encode_two (by decide) rfl,
    decodePair_of_encode_two (by decide) rfl, decodePair_of_encode_two (by decide) rfl⟩

end Sys2Proof.Laws
end

section
/-! PROOFS. Illegal bundles (R39, R40, R122, R123): a head whose words fail the decode checks traps with the word at fault, and
none of its instructions is tried. -/

namespace Sys2Proof.Machine

open Sys2Proof

variable {s t : State} {pre : Core} {n p : Nat} {k : Kind} {hdr w : Word32} {ws : List Word32} {st1 st2 : Strand}
  {bad : Option Fetched}

/-- The illegal-instruction trap of the word `w` at position `p` of a strand's head (R40, R122). -/
def illegalHead (s : State) (n : Nat) (k : Kind) (p : Nat) (w : Word32) : State :=
  trapEntry s n k 0 (illegalTval p w) ((s.core n).strand k).pc ((s.core n).strand k).pc p false

/-- A strand whose head is settled before its instructions are tried has done no more in this attempt. -/
theorem attempt_settled (hstall : traceStall s n k = false) (hd : decodeHead s n k = .settled t) :
    attempt s pre n k = .settled t := by
  simp [attempt, hstall, judgeGoing, judgeHead, hd]

/-! ### The header (R27) -/

theorem decodeHead_bad_header
    (h0 : fetchWord s n ((s.core n).strand k) ((s.core n).strand k).pc.toNat = .ok hdr st1)
    (hbad : headerOk (decodeHeader hdr) = false) : decodeHead s n k = .settled (illegalHead s n k 0 hdr) := by
  simp [decodeHead, h0, hbad, illegalHead]

/-- A head with a good header is judged by its words, in the state with the lines that their fetch has brought. -/
theorem decodeHead_judged
    (h0 : fetchWord s n ((s.core n).strand k) ((s.core n).strand k).pc.toNat = .ok hdr st1)
    (hok : headerOk (decodeHeader hdr) = true)
    (h1 : fetchWords s n (((s.core n).strand k).pc.toNat + 4) (decodeHeader hdr).words st1 = ⟨ws, st2, bad⟩) :
    decodeHead s n k = judgeWords (s.modStrand n k fun x => { x with icache := st2.icache }) n k hdr ws bad := by
  simp [decodeHead, h0, hok, h1]

/-! ### The words after it (R39) -/

/-- A bundle refused for an illegal word under a good header has all of its words. -/
theorem decodeBundle_illegal_length (hok : headerOk (decodeHeader hdr) = true)
    (h : decodeBundle k hdr ws = .error (.illegal p w)) : ws.length = (decodeHeader hdr).words := by
  by_contra hlen
  simp [decodeBundle, hok, hlen] at h

theorem judgeWords_illegal (hok : headerOk (decodeHeader hdr) = true)
    (h : decodeBundle k hdr ws = .error (.illegal p w)) :
    judgeWords s n k hdr ws none = .settled (illegalHead s n k p w) := by
  simp [judgeWords, decodeBundle_illegal_length hok h, h, illegalHead]

/-- A word at hand that is illegal goes before the failure of a later word's fetch (log 105). -/
theorem judgeWords_cut_short (hbad : bad.isSome = true) (hbrk : isBrkWord (ws.headD 0) = false)
    (h : itemsIllegal k 1 ws = some (p, w)) : judgeWords s n k hdr ws bad = .settled (illegalHead s n k p w) := by
  obtain ⟨f, rfl⟩ := Option.isSome_iff_exists.1 hbad
  simp only [judgeWords, hbrk, h, illegalHead, Option.isNone_some, Bool.and_false, Bool.or_false, Bool.false_eq_true, if_false]

/-- The bundle address in the trap is that of the strand before the fetch, which changes its cache alone (R150). -/
theorem illegalHead_modStrand (s : State) (n : Nat) (k : Kind) (ic : List (Nat × BitVec 512)) (p : Nat) (w : Word32) :
    illegalHead (s.modStrand n k fun x => { x with icache := ic }) n k p w =
      trapEntry (s.modStrand n k fun x => { x with icache := ic }) n k 0 (illegalTval p w)
        ((s.core n).strand k).pc ((s.core n).strand k).pc p false := by
  rw [illegalHead, strand_modStrand]

/-- Settles O14: the header is judged first (`decodeHead_bad_header`), then the words, all of them (`judgeWords_illegal`) or
those before the one whose fetch fails (`judgeWords_cut_short`). -/
theorem illegalBundleTraps : Obligations.IllegalBundleTraps := by
  intro s n k hdr ws st1 st2 bad p w st trap hstall h0
  refine ⟨fun hhdr => attempt_settled hstall (decodeHead_bad_header h0 hhdr), fun hok h1 => ?_⟩
  intro u
  have hjudged : decodeHead s n k = judgeWords u n k hdr ws bad := decodeHead_judged h0 hok h1
  have htrap : Attempt.settled (illegalHead u n k p w) = trap u p w := congrArg _ (illegalHead_modStrand ..)
  refine ⟨fun hnone h => ?_, fun hsome hbrk h => ?_⟩
  · subst hnone
    exact (attempt_settled hstall (hjudged.trans (judgeWords_illegal hok h))).trans htrap
  · exact (attempt_settled hstall (hjudged.trans (judgeWords_cut_short hsome hbrk h))).trans htrap

end Sys2Proof.Machine
end

section
/-! PROOFS. Pieces of the accumulator file (R131 to R133): a piece written reads back, a piece apart from it keeps its bits, and
so for the elements of a rectangle of the file. -/

namespace Sys2Proof.Machine

open Sys2Proof

variable {acc : Tab Word32} {x y : AccWrite} {xs : List AccWrite}

/-! ### Bits of a number -/

theorem testBit_bitsAt (x lo n i : Nat) : (bitsAt x lo n).testBit i = (decide (i < n) && x.testBit (lo + i)) := by
  simp [bitsAt, Nat.testBit_mod_two_pow]

/-- A number with bits replaced, in its three parts. -/
theorem setBits_eq (x lo n v : Nat) :
    setBits x lo n v = 2 ^ lo * (2 ^ n * (x / 2 ^ lo / 2 ^ n) + v % 2 ^ n) + x % 2 ^ lo := by
  have hx := Nat.div_add_mod x (2 ^ lo)
  have hy := Nat.div_add_mod (x / 2 ^ lo) (2 ^ n)
  rw [setBits, bitsAt, Nat.shiftRight_eq_div_pow, Nat.mul_comm _ (2 ^ lo), Nat.mul_comm _ (2 ^ lo), Nat.mul_add]
  rw [← hy, Nat.mul_add] at hx
  omega

theorem testBit_setBits (x lo n v i : Nat) :
    (setBits x lo n v).testBit i = if lo ≤ i ∧ i < lo + n then v.testBit (i - lo) else x.testBit i := by
  rw [setBits_eq, Nat.testBit_two_pow_mul_add _ (Nat.mod_lt _ (Nat.two_pow_pos _)),
    Nat.testBit_two_pow_mul_add _ (Nat.mod_lt _ (Nat.two_pow_pos _))]
  simp only [Nat.testBit_mod_two_pow, Nat.testBit_div_two_pow]
  by_cases h1 : i < lo
  · simp [h1]
  · by_cases h2 : i - lo < n
    · rw [if_neg h1, if_pos h2, if_pos (by omega)]; simp [h2]
    · rw [if_neg h1, if_neg h2, if_neg (by omega)]; congr 1; omega

/-! ### One piece -/

theorem testBit_accBits (acc : Tab Word32) (row bit w i : Nat) :
    (accBits acc row bit w).testBit i =
      (decide (i < w) && (tget 0 acc (512 * row + bit / 32)).toNat.testBit (bit % 32 + i)) :=
  testBit_bitsAt ..

theorem apart_symm (h : Apart x y) : Apart y x := by
  rcases h with h | h | h
  · exact .inl h.symm
  · exact .inr (.inr h)
  · exact .inr (.inl h)

/-- The bits of the cell that a piece has been written into. -/
theorem testBit_accSet (acc : Tab Word32) (x : AccWrite) (hx : InCell x) (i : Nat) :
    (tget 0 (accSet acc x) (512 * x.row + x.bit / 32)).toNat.testBit i =
      if x.bit % 32 ≤ i ∧ i < x.bit % 32 + x.width then x.bits.testBit (i - x.bit % 32)
      else (tget 0 acc (512 * x.row + x.bit / 32)).toNat.testBit i := by
  obtain ⟨-, hfit, -⟩ := hx
  rw [accSet, tget_tset_same, BitVec.toNat_ofNat, Nat.testBit_mod_two_pow, testBit_setBits]
  split
  · simp [show i < 32 by omega]
  · by_cases hi : i < 32
    · simp [hi]
    · simp [hi, Nat.testBit_lt_two_pow (BitVec.isLt _ |>.trans_le (Nat.pow_le_pow_right (by decide) (Nat.not_lt.mp hi)))]

theorem accBits_accSet_same (hx : InCell x) : accBits (accSet acc x) x.row x.bit x.width = x.bits % 2 ^ x.width := by
  refine Nat.eq_of_testBit_eq fun i => ?_
  rw [testBit_accBits, testBit_accSet acc x hx, Nat.testBit_mod_two_pow]
  by_cases hi : i < x.width <;> simp [hi]

theorem accBits_accSet_apart (hx : InCell x) (hy : InCell y) (h : Apart x y) :
    accBits (accSet acc x) y.row y.bit y.width = accBits acc y.row y.bit y.width := by
  by_cases hc : 512 * y.row + y.bit / 32 = 512 * x.row + x.bit / 32
  · obtain ⟨-, -, hxrow⟩ := id hx
    obtain ⟨-, -, hyrow⟩ := hy
    refine Nat.eq_of_testBit_eq fun i => ?_
    rw [testBit_accBits, testBit_accBits, hc, testBit_accSet acc x hx]
    by_cases hi : i < y.width
    · rw [if_neg]
      rintro ⟨hlo, hhi⟩
      rcases h with h | h | h <;> omega
    · simp [hi]
  · rw [accBits, accBits, accSet, tget_tset_other _ _ _ _ _ hc]

/-! ### Pieces written in order -/

theorem accBits_accSetAll_apart (hx : ∀ x ∈ xs, InCell x ∧ Apart x y) (hy : InCell y) :
    accBits (accSetAll acc xs) y.row y.bit y.width = accBits acc y.row y.bit y.width := by
  induction xs generalizing acc with
  | nil => rfl
  | cons x xs ih =>
    obtain ⟨hin, hap⟩ := hx x List.mem_cons_self
    exact (ih fun z hz => hx z (List.mem_cons_of_mem _ hz)).trans (accBits_accSet_apart hin hy hap)

/-- Of pieces that lie apart each reads back. -/
theorem accBits_accSetAll_written (hin : ∀ x ∈ xs, InCell x) (hap : xs.Pairwise Apart) (hy : y ∈ xs) :
    accBits (accSetAll acc xs) y.row y.bit y.width = y.bits % 2 ^ y.width := by
  induction xs generalizing acc with
  | nil => cases hy
  | cons x xs ih =>
    obtain ⟨hhead, htail⟩ := List.pairwise_cons.1 hap
    have hrest : ∀ z ∈ xs, InCell z := fun z hz => hin z (List.mem_cons_of_mem _ hz)
    rcases List.mem_cons.1 hy with rfl | hy
    · have hlast := hin y List.mem_cons_self
      exact (accBits_accSetAll_apart (fun z hz => ⟨hrest z hz, apart_symm (hhead z hz)⟩) hlast).trans (accBits_accSet_same hlast)
    · exact ih hrest htail hy

/-! ### Rectangles -/

/-- The widths of the views and of the accumulator formats (R31, R186). -/
def CellWidth (w : Nat) : Prop := w = 8 ∨ w = 16 ∨ w = 32

/-- An element of a rectangle of elements of one width, from a row and a bit on. -/
def inRect (row bit w : Nat) (p : Nat × Nat) (bits : Nat) : AccWrite :=
  { row := row + p.1, bit := bit + w * p.2, width := w, bits := bits }

theorem inCell_inRect {row bit w j n : Nat} (hw : CellWidth w) (hbit : bit % w = 0) (hfit : bit + w * n ≤ 16384) (hj : j < n)
    (i b : Nat) : InCell (inRect row bit w (i, j) b) := by
  simp only [InCell, inRect]
  rcases hw with rfl | rfl | rfl <;> omega

theorem apart_inRect {row bit w : Nat} {p q : Nat × Nat} (h : p ≠ q) (b c : Nat) :
    Apart (inRect row bit w p b) (inRect row bit w q c) := by
  by_cases hrow : p.1 = q.1
  · have hcol : p.2 ≠ q.2 := fun hcol => h (Prod.ext hrow hcol)
    rcases Nat.lt_or_gt_of_ne hcol with hlt | hlt
    · have := Nat.mul_le_mul_left w hlt
      exact .inr (.inl (by simp only [inRect, Nat.succ_eq_add_one, Nat.mul_add] at *; omega))
    · have := Nat.mul_le_mul_left w hlt
      exact .inr (.inr (by simp only [inRect, Nat.succ_eq_add_one, Nat.mul_add] at *; omega))
  · exact .inl fun h => hrow (Nat.add_left_cancel h)

/-- The elements of a rectangle written, each once: each reads back, and every piece apart from them keeps its bits. -/
theorem accSetAll_rect {α : Type} {row bit w n : Nat} {cells : List α} {pos : α → Nat × Nat} (val : α → Nat) (hw : CellWidth w)
    (hbit : bit % w = 0) (hfit : bit + w * n ≤ 16384) (hnd : cells.Nodup) (hpos : Function.Injective pos)
    (hcol : ∀ x ∈ cells, (pos x).2 < n) :
    let after := accSetAll acc (cells.map fun x => inRect row bit w (pos x) (val x))
    (∀ x ∈ cells, accBits after (row + (pos x).1) (bit + w * (pos x).2) w = val x % 2 ^ w) ∧
    ∀ y, InCell y → (∀ x ∈ cells, Apart (inRect row bit w (pos x) 0) y) →
      accBits after y.row y.bit y.width = accBits acc y.row y.bit y.width := by
  have hin : ∀ z ∈ cells.map fun x => inRect row bit w (pos x) (val x), InCell z :=
    List.forall_mem_map.2 fun x hx => inCell_inRect hw hbit hfit (hcol x hx) ..
  have hap : (cells.map fun x => inRect row bit w (pos x) (val x)).Pairwise Apart :=
    List.pairwise_map.2 (hnd.imp fun h => apart_inRect (hpos.ne h) ..)
  refine ⟨fun x hx => accBits_accSetAll_written (y := inRect row bit w (pos x) (val x)) hin hap (List.mem_map_of_mem hx),
    fun y hy hfar => accBits_accSetAll_apart (fun z hz => ⟨hin z hz, ?_⟩) hy⟩
  obtain ⟨x, hx, rfl⟩ := List.mem_map.1 hz
  exact hfar x hx

end Sys2Proof.Machine
end

section
/-! PROOFS. Tile lookups of an M command and what its reads set going (R135, R136, R139, R163, R165): of the other cores only
tile lines differ, of its own only the lines and what is kept of tiles, and memory stays where no line has to be written back. -/

namespace Sys2Proof.Machine

open Sys2Proof

variable {s t u : State} {n : Nat} {ls : List TileLine} {l : TileLine}

/-! ### Lines that need no write-back -/

/-- No line has still to be written back. -/
def Settled (ls : List TileLine) : Prop := ∀ l ∈ ls, l.st ≠ .dirty ∧ l.st ≠ .draining

theorem cleanAt_iff : CleanAt s n ↔ Settled (s.core n).alcove ∧ Settled (s.cluster (coreCluster n)).hall := .rfl

theorem Settled.filter (h : Settled ls) (p : TileLine → Bool) : Settled (ls.filter p) :=
  fun l hl => h l (List.mem_filter.1 hl).1

theorem Settled.map (h : Settled ls) {f : TileLine → TileLine} (hf : ∀ l, l.st ≠ .dirty → (f l).st = l.st) :
    Settled (ls.map f) :=
  List.forall_mem_map.2 fun l hl => hf l (h l hl).1 ▸ h l hl

theorem Settled.append_filling (h : Settled ls) (hl : l.st = .filling) : Settled (ls ++ [l]) := by
  intro x hx
  rcases List.mem_append.1 hx with hx | hx
  · exact h x hx
  · rw [List.mem_singleton.1 hx, hl]; exact ⟨nofun, nofun⟩

theorem Settled.modLine (h : Settled ls) (bank way : Nat) {f : TileLine → TileLine} (hf : ∀ l, (f l).st = l.st) :
    Settled (modLine ls bank way f) :=
  h.map fun l _ => by split <;> [exact hf l; rfl]

theorem Settled.retireLine (h : Settled ls) (now : Nat) (k : TileKey) : Settled (retireLine now ls k) :=
  (h.filter _).map fun l hl => by simp [hl]

/-- A victim of the replacement stands in its bank (R138). -/
theorem pickWay_victim_mem {depth tree : Nat} {bank : List TileLine} {eligible : Nat → Bool} {first cand : TileLine → Bool}
    (h : pickWay depth tree bank eligible first cand = .victim l) : l ∈ bank := by
  simp only [pickWay] at h
  split at h
  · cases h
  · split at h
    · next hfind => cases h; exact List.mem_of_find?_eq_some hfind
    · split at h
      · cases h
      · split at h
        · next hfind =>
          cases h
          exact (List.mem_filter.1 (List.mem_filter.1 (List.mem_of_find?_eq_some hfind)).1).1
        · cases h

theorem Settled.alcove_victim (h : Settled (s.core n).alcove) {k : TileKey} (hv : alcovePick (s.core n) k = .victim l) :
    l.st ≠ .dirty :=
  (h l (List.mem_filter.1 (pickWay_victim_mem hv)).1).1

theorem Settled.hall_victim {cl : Nat} (h : Settled (s.cluster cl).hall) {k : TileKey} (hv : hallPick s cl k = .victim l) :
    l.st ≠ .dirty :=
  (h l (List.mem_filter.1 (pickWay_victim_mem hv)).1).1

/-! ### Frames -/

/-- A core but for its tile lines. -/
def unlined (c : Core) : Core := { c with alcove := [] }

/-- A core but for what it keeps of tiles: lines and their trees, publications, last uses and itineraries. -/
def untiled (c : Core) : Core := { c with alcove := [], aplru := [], pubs := [], lastuse := [], itins := [] }

/-- Memory stays where no line of a core or of its hall has to be written back, and then none has to be afterwards. -/
def StaysClean (s t : State) (n : Nat) : Prop := CleanAt s n → CleanAt t n ∧ t.mem = s.mem

theorem StaysClean.trans (h : StaysClean s t n) (h2 : StaysClean t u n) : StaysClean s u n := fun hs =>
  have ⟨ht, hm⟩ := h hs
  have ⟨hu, hm2⟩ := h2 ht
  ⟨hu, hm2.trans hm⟩

theorem StaysClean.setCore {c : Core} (hc : Settled (s.core n).alcove → Settled c.alcove) : StaysClean s (s.setCore n c) n :=
  fun ⟨ha, hh⟩ => ⟨⟨by rw [core_setCore_same]; exact hc ha, hh⟩, rfl⟩

theorem StaysClean.modHall {f : Cluster → Cluster}
    (hf : Settled (s.cluster (coreCluster n)).hall → Settled (f (s.cluster (coreCluster n))).hall) :
    StaysClean s (s.modCluster (coreCluster n) f) n :=
  fun ⟨ha, hh⟩ => ⟨⟨ha, by rw [State.modCluster, cluster_setCluster_same]; exact hf hh⟩, rfl⟩

/-- What the tile lookups and hints of a core may change. -/
structure TilesOnly (s t : State) (n : Nat) : Prop where
  others : ∀ m, m ≠ n → unlined (t.core m) = unlined (s.core m)
  own : untiled (t.core n) = untiled (s.core n)
  clean : StaysClean s t n

theorem TilesOnly.refl (s : State) (n : Nat) : TilesOnly s s n := ⟨fun _ _ => rfl, rfl, fun h => ⟨h, rfl⟩⟩

theorem TilesOnly.trans (h : TilesOnly s t n) (h2 : TilesOnly t u n) : TilesOnly s u n :=
  ⟨fun m hm => (h2.others m hm).trans (h.others m hm), h2.own.trans h.own, h.clean.trans h2.clean⟩

theorem TilesOnly.foldl {α : Type} (f : State → α → State) (hf : ∀ t x, TilesOnly t (f t x) n) (xs : List α) (s : State) :
    TilesOnly s (xs.foldl f s) n := by
  induction xs generalizing s with
  | nil => exact .refl ..
  | cons x xs ih => exact (hf s x).trans (ih _)

theorem TilesOnly.of_lines (h : LinesOnly s t n) (hc : StaysClean s t n) : TilesOnly s t n := by
  obtain ⟨hothers, a, p, hown⟩ := h
  refine ⟨fun m hm => ?_, by rw [hown]; rfl, hc⟩
  obtain ⟨b, hb⟩ := hothers m hm
  rw [hb]; rfl

theorem TilesOnly.setCore {c : Core} (hown : untiled c = untiled (s.core n))
    (hc : Settled (s.core n).alcove → Settled c.alcove) : TilesOnly s (s.setCore n c) n :=
  ⟨fun m hm => by rw [core_setCore_other _ _ _ _ hm], by rw [core_setCore_same, hown], .setCore hc⟩

theorem TilesOnly.modHall {f : Cluster → Cluster}
    (hf : Settled (s.cluster (coreCluster n)).hall → Settled (f (s.cluster (coreCluster n))).hall) :
    TilesOnly s (s.modCluster (coreCluster n) f) n :=
  .of_lines (.of_alcoves n (.of_cores rfl)) (.modHall hf)

theorem TilesOnly.othersKept (h : TilesOnly s t n) : OthersKept s t n := fun m hm =>
  (congrArg (fun c : Core => { c with alcove := (s.core m).alcove }) (h.others m hm) :)

theorem TilesOnly.memKept (h : TilesOnly s t n) (hc : CleanAt s n) : MemKept s t := fun a => by rw [(h.clean hc).2]

theorem TilesOnly.acc (h : TilesOnly s t n) : (t.core n).acc = (s.core n).acc := (congrArg Core.acc h.own :)

theorem TilesOnly.replay (h : TilesOnly s t n) : (t.core n).replay = (s.core n).replay := (congrArg Core.replay h.own :)

theorem TilesOnly.strand (h : TilesOnly s t n) (k : Kind) : (t.core n).strand k = (s.core n).strand k := by
  cases k
  · exact (congrArg Core.a h.own :)
  · exact (congrArg Core.c h.own :)
  · exact (congrArg Core.m h.own :)
  · exact (congrArg Core.v h.own :)

/-! ### Requests and fills (R136, R276, R279) -/

theorem hallReserve_clean (r : TileReq) (pins : BitVec 16) (hr : r.cluster = coreCluster n) :
    StaysClean s (hallReserve s r pins).1 n := by
  intro hs
  obtain ⟨-, hh⟩ := cleanAt_iff.1 hs
  simp only [hallReserve, hr]
  split
  · exact StaysClean.modHall (fun h => h.append_filling rfl) hs
  · next v hv =>
    rw [if_neg (hh.hall_victim hv)]
    exact StaysClean.modHall (fun h => (h.filter _).append_filling rfl) hs
  · split <;> exact ⟨hs, rfl⟩

theorem hallLookup_clean (r : TileReq) (hr : r.cluster = coreCluster n) : StaysClean s (hallLookup s r).1 n := by
  intro hs
  obtain ⟨-, hh⟩ := cleanAt_iff.1 hs
  simp only [hallLookup, hr]
  split
  · split <;> exact StaysClean.modHall (fun h => h.modLine _ _ fun _ => rfl) hs
  · split
    · exact ⟨hs, rfl⟩
    · split
      · next l hl =>
        split
        · exact ⟨hs, rfl⟩
        · next hgoes =>
          have hst : l.st = .clean := by
            obtain ⟨hdirty, hdrain⟩ := hh l (List.mem_of_find?_eq_some hl)
            cases hcase : l.st with
            | filling => simp [hcase] at hgoes
            | clean => rfl
            | dirty => exact absurd hcase hdirty
            | draining => exact absurd hcase hdrain
          rw [if_pos hst]
          exact (StaysClean.modHall fun h => h.filter _).trans (hallReserve_clean r _ hr) hs
      · exact hallReserve_clean r _ hr hs

theorem newReq_clean (r : TileReq) (hr : r.cluster = coreCluster n) : StaysClean s (newReq s r) n := by
  intro hs
  have h := hallLookup_clean (s := s.takeId.2) { r with id := s.takeId.1, asOf := s.takeId.1 } hr hs
  simp only [newReq]
  split <;> exact h

theorem startFill_clean (k : TileKey) (r : Block) (f : FillFor) : StaysClean s (startFill s n k r f) n := by
  intro hs
  obtain ⟨ha, -⟩ := cleanAt_iff.1 hs
  simp only [startFill]
  split
  · exact (StaysClean.setCore fun h => h.append_filling rfl).trans (newReq_clean _ rfl) hs
  · next v hv =>
    rw [if_neg (ha.alcove_victim hv)]
    exact (StaysClean.setCore fun h => (h.filter _).append_filling rfl).trans (newReq_clean _ rfl) hs
  · split
    · exact ⟨hs, rfl⟩
    · simp only [awaitWay]; split <;> exact ⟨hs, rfl⟩

theorem startFill_tiles (s : State) (n : Nat) (k : TileKey) (r : Block) (f : FillFor) : TilesOnly s (startFill s n k r f) n :=
  .of_lines (startFill_lines ..) (startFill_clean k r f)

theorem fillHall_tiles (s : State) (n : Nat) (k : TileKey) (r : Block) (f : FillFor) (p : Option Nat) :
    TilesOnly s (fillHall s (coreCluster n) k r f p) n := by
  refine .of_lines (.of_alcoves n (fillHall_alcoves ..)) ?_
  unfold fillHall
  split
  · exact fun hs => ⟨hs, rfl⟩
  · exact newReq_clean _ rfl

/-! ### Lookups (R135) -/

theorem lookupTile_clean {k : TileKey} {r : Block} {m : Option (BitVec 8)} {who : Option (Kind × Word × Word)}
    (h : lookupTile s n k r m who = .missed t) : StaysClean s t n := by
  intro hs
  obtain ⟨ha, -⟩ := cleanAt_iff.1 hs
  simp only [lookupTile] at h
  split at h
  · cases h
  · split at h
    · cases h; exact startFill_clean _ _ _ hs
    · next l hl =>
      obtain ⟨hdirty, -⟩ := ha l (List.mem_of_find?_eq_some hl)
      split at h
      · cases h; exact ⟨hs, rfl⟩
      · cases h; exact ⟨hs, rfl⟩
      · cases h; exact (StaysClean.setCore fun h => h.filter _).trans (startFill_clean _ _ _) hs
      · next hst => exact absurd hst hdirty

theorem lookWant_tiles (n : Nat) (who : Kind × Word × Word) (s : State) (w : Want) : TilesOnly s (lookWant n who s w) n := by
  simp only [lookWant]
  split
  · exact .setCore rfl id
  · next h => exact .of_lines (lookupTile_lines _ _ _ _ _ _ _ h) (lookupTile_clean h)

theorem lookWants_tiles (s : State) (n : Nat) (p : Parked) : TilesOnly s (lookWants s n p) n :=
  .foldl _ (lookWant_tiles n _) _ _

/-! ### After the reads (R139, R163, R165) -/

theorem dropThru_tiles (n : Nat) (s : State) (k : TileKey) : TilesOnly s (dropThru n s k) n := by
  simp only [dropThru]
  split
  · exact .refl ..
  · exact .setCore rfl fun h => (h.filter _).map fun l hl => by simp [hl]

theorem retireTile_tiles (s : State) (n : Nat) (k : TileKey) (lvl : BitVec 2) : TilesOnly s (retireTile s n k lvl) n := by
  have hnear : TilesOnly s
      (if lvl.getLsbD 0 then s.modCore n fun c => { c with alcove := retireLine s.now c.alcove k } else s) n := by
    split
    · exact .setCore rfl fun h => h.retireLine _ _
    · exact .refl ..
  simp only [retireTile]
  split
  · split
    · exact hnear.trans (.modHall fun h => h.map fun l _ => by split <;> [(dsimp only; split <;> rfl); rfl])
    · exact hnear.trans (.modHall fun h => h.retireLine _ _)
  · exact hnear

theorem settleLastuse_tiles (s : State) (n : Nat) : TilesOnly s (settleLastuse s n) n :=
  (TilesOnly.setCore (by rfl) (by exact id)).trans (.foldl _ (fun _ _ => retireTile_tiles ..) _ _)

theorem startEntry_tiles (s : State) (n : Nat) (lvl : BitVec 2) (e : Word × Word) : TilesOnly s (startEntry s n lvl e) n := by
  unfold startEntry
  split
  · exact .refl ..
  · extract_lets cl near far s1 asked
    have hnear : TilesOnly s s1 n := by
      unfold s1
      split
      · exact startFill_tiles ..
      · exact .refl ..
    split
    · exact hnear.trans (fillHall_tiles ..)
    · exact hnear

theorem startEntries_tiles (s : State) (n it : Nat) (is : List Nat) : TilesOnly s (startEntries s n it is) n := by
  simp only [startEntries]
  split
  · exact .refl ..
  · exact (TilesOnly.foldl _ (fun _ _ => startEntry_tiles ..) _ _).trans (.setCore rfl id)

theorem advanceItins_tiles (s : State) (n : Nat) (k : TileKey) : TilesOnly s (advanceItins s n k) n :=
  .foldl _ (fun _ _ => startEntries_tiles ..) _ _

theorem afterReads_tiles (s : State) (n : Nat) (p : Parked) : TilesOnly s (afterReads s n p) n :=
  ((TilesOnly.foldl _ (dropThru_tiles n) _ _).trans (settleLastuse_tiles ..)).trans
    (.foldl _ (fun _ _ => advanceItins_tiles ..) _ _)

end Sys2Proof.Machine
end

section
/-! PROOFS. Cube commands and ALDs at their performing (R64, R66, R67, R143, R189, R194, R195, R197 to R199, R203): what a
command writes and what it leaves alone, the lookup of one that waits, and its time-out. -/

namespace Sys2Proof.Machine

open Sys2Proof

variable {s : State} {n i : Nat} {p : Parked} {c : Core}

/-! ### Performing and waiting (R197, R198, R203) -/

theorem cubePerform_ready (hp : (s.core n).replay[i]? = some p) (hk : p.kind ≠ 2) (hr : parkedReady (s.core n) p = true) :
    exec (.cubePerform n i) s = .next (finishParked s n p (cubeResults (s.core n) p)) := by
  simp [execCubePerform, hp, hk, hr]

theorem aldComplete_ready (hp : (s.core n).replay[i]? = some p) (hk : p.kind = 2) (hr : parkedReady (s.core n) p = true) :
    exec (.aldComplete n i) s = .next (finishParked s n p (aldResults (s.core n) p)) := by
  simp [execAldComplete, hp, hk, hr]

/-- A command that may not perform looks its tiles up again, unless it has timed out. -/
def lookAgain (s : State) (n : Nat) (p : Parked) : State := if p.dead then s else lookWants s n p

theorem cubePerform_missing (hp : (s.core n).replay[i]? = some p) (hk : p.kind ≠ 2) (hr : parkedReady (s.core n) p = false) :
    exec (.cubePerform n i) s = .next (lookAgain s n p) := by
  simp [execCubePerform, hp, hk, hr, lookAgain]

theorem aldComplete_missing (hp : (s.core n).replay[i]? = some p) (hk : p.kind = 2) (hr : parkedReady (s.core n) p = false) :
    exec (.aldComplete n i) s = .next (lookAgain s n p) := by
  simp [execAldComplete, hp, hk, hr, lookAgain]

theorem lookAgain_tiles (s : State) (n : Nat) (p : Parked) : TilesOnly s (lookAgain s n p) n := by
  unfold lookAgain; split <;> [exact .refl ..; exact lookWants_tiles ..]

/-- A command that waits: its lookups change nothing but lines and what is kept of tiles. -/
theorem lookAgain_waits (s : State) (n : Nat) (p : Parked) :
    let t := lookAgain s n p
    (OthersKept s t n ∧ (CleanAt s n → MemKept s t)) ∧ (t.core n).acc = (s.core n).acc ∧
      (t.core n).replay = (s.core n).replay ∧ ∀ k, (t.core n).strand k = (s.core n).strand k :=
  have h := lookAgain_tiles s n p
  ⟨⟨h.othersKept, h.memKept⟩, h.acc, h.replay, h.strand⟩

/-- A core that has taken a command's results, before the reads set anything going. -/
def takeParked (c : Core) (p : Parked) (xs : List (AccWrite × BitVec 7)) : Core :=
  { c.takeResults .m (xs.map fun x => x.1) (xs.foldl (fun f x => f ||| x.2) 0) with
    replay := c.replay.filter fun q => q.id != p.id }

/-- A command performed: its results, its sticky bits and its place in the queue, whatever its reads set going. -/
theorem finishParked_performs (s : State) (n : Nat) (p : Parked) (xs : List (AccWrite × BitVec 7)) :
    let c := s.core n
    let t := finishParked s n p xs
    (OthersKept s t n ∧ (CleanAt s n → MemKept s t)) ∧ (t.core n).acc = accSetAll c.acc (xs.map fun x => x.1) ∧
      (t.core n).replay = c.replay.filter (fun q => q.id != p.id) ∧
      (t.core n).m = { c.m with sticky := c.m.sticky ||| xs.foldl (fun f x => f ||| x.2) 0 } ∧
      (t.core n).a = c.a ∧ (t.core n).c = c.c ∧ (t.core n).v = c.v := by
  intro c t
  have h : TilesOnly (s.setCore n (takeParked c p xs)) t n := afterReads_tiles ..
  have hd : (s.setCore n (takeParked c p xs)).core n = takeParked c p xs := core_setCore_same ..
  have hothers : OthersKept s t n := fun m hm => by
    have hm' := h.othersKept m hm
    rwa [core_setCore_other _ _ _ _ hm] at hm'
  have hclean : CleanAt s n → MemKept s t := fun hs => h.memKept (StaysClean.setCore (c := takeParked c p xs) id hs).1
  refine ⟨⟨hothers, hclean⟩, ?_, ?_, ?_, ?_, ?_, ?_⟩
  · rw [h.acc, hd]; rfl
  · rw [h.replay, hd]; rfl
  · exact (h.strand .m).trans (by rw [hd]; rfl)
  · exact (h.strand .a).trans (by rw [hd]; rfl)
  · exact (h.strand .c).trans (by rw [hd]; rfl)
  · exact (h.strand .v).trans (by rw [hd]; rfl)

/-! ### The time-out (R143, R199) -/

theorem core_strandFault_same (s : State) (n : Nat) (k : Kind) (code reason : Nat) (pc val fqw : Word) :
    (s.strandFault n k code reason pc val fqw).core n = (s.core n).setStrand k ((s.core n).strand k).stop := by
  simp [State.strandFault]

theorem core_strandFault_other (s : State) (n : Nat) (k : Kind) (code reason : Nat) (pc val fqw : Word) {m : Nat} (h : m ≠ n) :
    (s.strandFault n k code reason pc val fqw).core m = s.core m := by
  simp [State.strandFault, core_setCore_other _ _ _ _ h]

/-- A command that waits and has not timed out misses a tile. -/
theorem missing_of_not_ready (hdead : p.dead = false) (hr : parkedReady c p = false) :
    ∃ w, (p.wants c.ctx).find? (fun w => !wantHit c w) = some w := by
  refine Option.isSome_iff_exists.1 (List.find?_isSome.2 ?_)
  simpa [parkedReady, hdead] using hr

/-- A command timed out for a tile that it misses: the fault posted, the M strand stopped (log 17), the command dead. -/
def timedOut (s : State) (n : Nat) (p : Parked) (w : Want) : State :=
  (s.strandFault n .m 2 0 p.pc (packKey w.1) (if p.kind = 2 then 0 else (s.core n).fqHead)).modCore n fun c =>
    { c with replay := c.replay.map fun q => if q.id == p.id then { q with dead := true } else q }

theorem tileMissTimeout_late {w : Want} (hp : (s.core n).replay[i]? = some p) (hm : (s.core n).m.mode ≠ .stopped)
    (hdead : p.dead = false) (hr : parkedReady (s.core n) p = false)
    (hlate : (s.core n).waitPassed s.now p.since (s.core n).missLimit.toNat = true)
    (hw : (p.wants (s.core n).ctx).find? (fun w => !wantHit (s.core n) w) = some w) :
    exec (.tileMissTimeout n i) s = .next (timedOut s n p w) := by
  simp [execTileMissTimeout, timedOut, firstMissing, hp, hm, hdead, hr, hlate, hw]

theorem timedOut_faults (s : State) (n : Nat) (p : Parked) (w : Want) :
    let c := s.core n
    let t := timedOut s n p w
    Posted s t c.ctx 2 (strandId s n .m) (packKey w.1) ∧ { t with cores := s.cores, posts := s.posts } = s ∧
      (∀ m, m ≠ n → t.core m = s.core m) ∧ t.core n = { c with
        m := c.m.stop, replay := c.replay.map fun q => if q.id == p.id then { q with dead := true } else q } := by
  refine ⟨⟨_, rfl, rfl, rfl, rfl, rfl, rfl, rfl⟩, rfl, fun m hmn => ?_, ?_⟩
  · rw [timedOut, State.modCore, core_setCore_other _ _ _ _ hmn, core_strandFault_other _ _ _ _ _ _ _ _ hmn]
  · rw [timedOut, State.modCore, core_setCore_same, core_strandFault_same]; rfl

/-! ### The arithmetic (R64 to R67) -/

/-- A term of R64: the product, rounded to Q24 for 16-bit operands before a gate (R67), times gate and scales. -/
theorem cubeTerm_val (c : Core) (p : Parked) (cw : CubeWord) (m j k : Nat) :
    (cubeTerm c p cw m j k).1 =
      let mul := fun (x y : Num) => (x.mul y).1
      let ab := mul (cubeA c p m k).1 (cubeB c p k j).1
      let x := if cw.gor = 0 then ab
        else mul (if fmtWidth (fwA p.fq) = 16 then decodeF fQ24 (roundF fQ24 .rne false ab).1 else ab)
          (cubeG c p cw.gor.toNat m k j).1
      let y := mul (mul x (scaleVal p.sa m)) (scaleVal p.sb j)
      if cw.amode = 2 then y.neg else y := by
  simp only [cubeTerm, mulSt, toQ24]
  split_ifs <;> rfl

/-- An output element takes each group of 16 terms in one exact sum that is rounded once (R64 to R66). -/
theorem cubeCell_bits (c : Core) (p : Parked) (cw : CubeWord) (m j : Nat) :
    (cubeCell c p cw m j).1 = (List.range (fwK p.fq / 16)).foldl
      (fun a g => (roundTo (fwAcc p.fq) (fwMode p.fq) (fwFtz p.fq) (sumNum (fwMode p.fq == .rdn)
        ((valOf (fwAcc p.fq) a).1 :: (List.range 16).map fun i => (cubeTerm c p cw m j (16 * g + i)).1)).1).1)
      (cubeStartBits c p cw m j) :=
  (List.foldl_hom Prod.fst fun x g => by simp only [cubeGroup, List.map_map]; rfl).symm

theorem scaleVal_eq (xs : List Word32) (j : Nat) :
    scaleVal xs j = if xs = [] then ofInt 1 else decodeF fF32 (xs.getD j 0).toNat := by
  cases xs <;> rfl

/-! ### The elements written (R194, R195, R203) -/

theorem fwAcc_width (fq : Word) : CellWidth (fmtWidth (fwAcc fq)) := by
  unfold fwAcc CellWidth; split <;> decide

theorem etWidth_cell (view : BitVec 3) : CellWidth (etWidth view) := by
  unfold etWidth CellWidth; split <;> decide

/-- The output elements of a cube command read back, and every piece of the file apart from them keeps its bits. -/
theorem cubeResults_written (c : Core) (p : Parked) (hfit : outFits (cubeOf p.w0 p.w1) (fwAcc p.fq) = true) :
    let cw := cubeOf p.w0 p.w1
    let w := fmtWidth (fwAcc p.fq)
    let after := accSetAll c.acc ((cubeResults c p).map fun x => x.1)
    (∀ m j, m < cubeM cw → j < cubeN cw →
      accBits after (cw.row0.toNat + m) (32 * cw.col0.toNat + w * j) w = (cubeCell c p cw m j).1 % 2 ^ w) ∧
    ∀ y, InCell y → (∀ m j, m < cubeM cw → j < cubeN cw → Apart (inRect cw.row0.toNat (32 * cw.col0.toNat) w (m, j) 0) y) →
      accBits after y.row y.bit y.width = accBits c.acc y.row y.bit y.width := by
  intro cw w after
  have hw : CellWidth w := fwAcc_width _
  have hbit : 32 * cw.col0.toNat % w = 0 := by rcases hw with h | h | h <;> rw [h] <;> omega
  have hcols : 32 * cw.col0.toNat + w * cubeN cw ≤ 16384 := by
    simp only [outFits, Bool.and_eq_true, decide_eq_true_eq] at hfit; exact hfit.2
  have hafter : after = accSetAll c.acc ((List.range (cubeM cw) ×ˢ List.range (cubeN cw)).map fun x =>
      inRect cw.row0.toNat (32 * cw.col0.toNat) w x (cubeCell c p cw x.1 x.2).1) := by
    simp only [after, cubeResults, List.map_flatMap, List.map_map, SProd.sprod, List.product]; rfl
  obtain ⟨hread, hkeep⟩ := accSetAll_rect (acc := c.acc) (row := cw.row0.toNat) (pos := id)
    (fun x => (cubeCell c p cw x.1 x.2).1) hw hbit hcols (List.nodup_range.product List.nodup_range) Function.injective_id
    fun x hx => List.mem_range.1 (List.mem_product.1 hx).2
  rw [hafter]
  refine ⟨fun m j hm hj => hread (m, j) (List.mem_product.2 ⟨List.mem_range.2 hm, List.mem_range.2 hj⟩),
    fun y hy hfar => hkeep y hy fun x hx => ?_⟩
  obtain ⟨hm, hj⟩ := List.mem_product.1 hx
  exact hfar _ _ (List.mem_range.1 hm) (List.mem_range.1 hj)

theorem transferRegion_cols {x : Word} {r : Block} {tr : Bool} {d : Region} (h : transferRegion x r tr = some d) :
    d.ncol = if tr then recRows r else recCols r := by
  simp only [transferRegion] at h
  split at h
  · cases h
  · split at h
    · cases h; cases tr <;> rfl
    · cases h

/-- The position in its region of an element of a tile, transposed or not. -/
def turned (tr : Bool) (x : Nat × Nat) : Nat × Nat := if tr then x.swap else x

theorem turned_injective (tr : Bool) : Function.Injective (turned tr) := by
  cases tr
  · exact Function.injective_id
  · exact Prod.swap_injective

theorem regionWrite_turned (d : Region) (w : Nat) (tr : Bool) (j k b : Nat) :
    (if tr then regionWrite d w k j b else regionWrite d w j k b) = inRect d.row (d.ecol * w) w (turned tr (j, k)) b := by
  cases tr <;> simp [regionWrite, inRect, turned, Nat.add_mul, Nat.mul_comm w]

theorem turned_col {x : Word} {r : Block} {tr : Bool} {d : Region} (h : transferRegion x r tr = some d) {q : Nat × Nat}
    (hq : q ∈ tileCells r) : (turned tr q).2 < d.ncol := by
  obtain ⟨hj, hk⟩ := List.mem_product.1 hq
  rw [transferRegion_cols h]
  cases tr
  · exact List.mem_range.1 hk
  · exact List.mem_range.1 hj

/-- An element of an ALD's tile converted into the view (R203). -/
def aldBits (c : Core) (p : Parked) (x : Nat × Nat) : Nat :=
  let r := p.recs.getD 0 0
  let co := p.regs.getD 2 0
  (convert (recTfmt r) (viewFmt (p.w1.extractLsb' 29 3)) (Mode.ofBits (p.w1.extractLsb' 26 3)) (p.w1.getLsbD 25)
    (tileBits c r p.minv (coOuter co).toNat (coRow co).toNat (coCol co).toNat x.1 x.2)).1

theorem aldResults_rect (c : Core) (p : Parked) {d : Region}
    (hd : transferRegion (p.regs.getD 0 0) (p.recs.getD 0 0) (p.w1.getLsbD 24) = some d) :
    (aldResults c p).map (fun x => x.1) = (tileCells (p.recs.getD 0 0)).map fun x =>
      inRect d.row (d.ecol * etWidth (p.w1.extractLsb' 29 3)) (etWidth (p.w1.extractLsb' 29 3))
        (turned (p.w1.getLsbD 24) x) (aldBits c p x) := by
  simp only [aldResults, hd, List.map_map]
  exact List.map_congr_left fun x _ => regionWrite_turned ..

/-- The elements of an ALD's tile read back from its region, and every piece of the file apart from them keeps its bits. -/
theorem aldResults_written (c : Core) (p : Parked) {d : Region} :
    let r := p.recs.getD 0 0
    let w := etWidth (p.w1.extractLsb' 29 3)
    let tr := p.w1.getLsbD 24
    let after := accSetAll c.acc ((aldResults c p).map fun x => x.1)
    let place := fun j k : Nat => if tr then regionWrite d w k j 0 else regionWrite d w j k 0
    transferRegion (p.regs.getD 0 0) r tr = some d → regionFits d w = true →
    (∀ j k, j < recRows r → k < recCols r → accBits after (place j k).row (place j k).bit w = aldBits c p (j, k) % 2 ^ w) ∧
    ∀ y, InCell y → (∀ j k, j < recRows r → k < recCols r → Apart (place j k) y) →
      accBits after y.row y.bit y.width = accBits c.acc y.row y.bit y.width := by
  intro r w tr after place hd hfit
  have hw : CellWidth w := etWidth_cell _
  have hcols : d.ecol * w + w * d.ncol ≤ 16384 := by
    simp only [regionFits, Bool.and_eq_true, decide_eq_true_eq] at hfit
    obtain ⟨-, hin⟩ := hfit
    rcases hw with h | h | h <;> rw [h] at hin ⊢ <;> omega
  have hplace : ∀ j k, place j k = inRect d.row (d.ecol * w) w (turned tr (j, k)) 0 := fun j k => regionWrite_turned ..
  obtain ⟨hread, hkeep⟩ := accSetAll_rect (acc := c.acc) (row := d.row) (aldBits c p) hw (Nat.mul_mod_left ..) hcols
    (List.nodup_range.product List.nodup_range) (turned_injective tr) fun _ => turned_col hd
  simp only [after, aldResults_rect c p hd]
  refine ⟨fun j k hj hk => ?_, fun y hy hfar => hkeep y hy fun x hx => ?_⟩
  · rw [hplace]
    exact hread (j, k) (List.mem_product.2 ⟨List.mem_range.2 hj, List.mem_range.2 hk⟩)
  · obtain ⟨hj, hk⟩ := List.mem_product.1 hx
    exact hplace _ _ ▸ hfar _ _ (List.mem_range.1 hj) (List.mem_range.1 hk)

/-! ### The obligation -/

/-- Settles O48: a ready command takes its results (`finishParked_performs`), another only looks again (`lookAgain_waits`) until
it times out (`timedOut_faults`); the results are R64's terms and groups (`cubeTerm_val`, `cubeCell_bits`) and R203's conversion,
at places of a rectangle of the file that do not overlap (`cubeResults_written`, `aldResults_written`). -/
theorem commandsPerform : Obligations.CommandsPerform := by
  intro s n i p hp c others performs waits
  have hcube : p.kind ≠ 2 → parkedReady c p = true → performs (.cubePerform n i) (cubeResults c p) :=
    fun hk hr => ⟨_, cubePerform_ready hp hk hr, finishParked_performs ..⟩
  have hald : p.kind = 2 → parkedReady c p = true → performs (.aldComplete n i) (aldResults c p) :=
    fun hk hr => ⟨_, aldComplete_ready hp hk hr, finishParked_performs ..⟩
  refine ⟨fun hk => ⟨hcube hk, fun hr => ⟨_, cubePerform_missing hp hk hr, lookAgain_waits ..⟩⟩,
    fun hk => ⟨hald hk, fun hr => ⟨_, aldComplete_missing hp hk hr, lookAgain_waits ..⟩⟩,
    fun hm hdead hr hlate => ?_, ?_⟩
  · obtain ⟨w, hw⟩ := missing_of_not_ready hdead hr
    exact ⟨_, w, hw, tileMissTimeout_late hp hm hdead hr hlate hw, timedOut_faults ..⟩
  · intro fq mul bits val keeps
    have hbits : ∀ r mv x u j k,
        bits r mv x u j k = tileBits c r mv (coOuter x).toNat (coRow x).toNat ((coCol x).toNat + u) j k := by
      intro r mv x u j k
      simp only [bits, tileBits]
      split <;> simp_all
    refine ⟨?_, ?_⟩
    · intro cw acc w opA opB opG scale term at_ elem hk hr hfit
      have hterm : ∀ m j k, term m j k = (cubeTerm c p cw m j k).1 := by
        intro m j k
        have hA : opA m k = (cubeA c p m k).1 := by
          simp only [opA, cubeA, val, hbits]
          split <;> rfl
        have hB : opB k j = (cubeB c p k j).1 := by simp only [opB, val, hbits]; rfl
        have hG : opG m k j = (cubeG c p cw.gor.toNat m k j).1 := by
          have hgor : cw.gor.toNat = 1 ↔ cw.gor = 1 := BitVec.toNat_inj (y := 1#2)
          simp only [opG, cubeG, val, hbits, hgor]
          split <;> rfl
        rw [cubeTerm_val, ← hA, ← hB, ← hG, scaleVal_eq, scaleVal_eq]
      have helem : ∀ m j, elem m j = (cubeCell c p cw m j).1 := by
        intro m j
        simp only [elem, hterm]
        exact (cubeCell_bits ..).symm
      obtain ⟨t, ht, -, hacc, -⟩ := hcube hk hr
      obtain ⟨hread, hkeep⟩ := cubeResults_written c p hfit
      refine ⟨t, ht, fun m j hm hj => ?_, fun y hy hfar => ?_⟩
      · rw [hacc, helem]
        exact hread m j hm hj
      · rw [hacc]
        exact hkeep y hy fun m j hm hj => hfar _ ⟨m, j, hm, hj, rfl⟩
    · intro r view w tr d hd hfit hk hr at_
      obtain ⟨t, ht, -, hacc, -⟩ := hald hk hr
      obtain ⟨hread, hkeep⟩ := aldResults_written c p hd hfit
      refine ⟨t, ht, fun j k hj hk => ?_, fun y hy hfar => ?_⟩
      · rw [hacc, hbits]
        exact hread j k hj hk
      · rw [hacc]
        exact hkeep y hy fun j k hj hk => hfar _ ⟨j, k, hj, hk, rfl⟩

end Sys2Proof.Machine
end

section
/-! PROOFS. Scalar arithmetic, comparisons and predicate logic (R87 to R91): the result of each instruction, as the operation that
the tables name. -/

namespace Sys2Proof.Machine

open Sys2Proof

variable {s : State} {g rd : BitVec 6}

/-! ### The operations in the words of the tables (R88, R89, R91) -/

theorem sextOf_eq (c : BitVec 6) (a : Word) : sextOf c a = (a.extractLsb' 0 (extWidth c)).signExtend 64 := by
  have h : 0 < extWidth c ∧ extWidth c ≤ 64 := by unfold extWidth; split_ifs <;> omega
  exact signedAt_eq _ a h.1 h.2

theorem zextOf_eq (c : BitVec 6) (a : Word) : zextOf c a = (a.extractLsb' 0 (extWidth c)).zeroExtend 64 :=
  mod_eq_zeroExtend ..

theorem shl_eq (a b : Word) : a <<< shAmt b = a <<< b.extractLsb' 0 6 := by rw [shAmt_eq, BitVec.shiftLeft_eq']

theorem shr_eq (a b : Word) : a >>> shAmt b = a >>> b.extractLsb' 0 6 := by rw [shAmt_eq, BitVec.ushiftRight_eq']

theorem sar_eq (a b : Word) : a.sshiftRight (shAmt b) = a.sshiftRight' (b.extractLsb' 0 6) := by
  rw [shAmt_eq, BitVec.sshiftRight_eq']

theorem ror_eq (a b : Word) : a.rotateRight (shAmt b) = a.rotateRight (b.extractLsb' 0 6).toNat := by rw [shAmt_eq]

theorem divS_min {a b : Word} (ha : a = BitVec.intMin 64) (hb : b = -1) : divS a b = BitVec.intMin 64 := by
  subst ha hb; decide

theorem remS_min {a b : Word} (ha : a = BitVec.intMin 64) (hb : b = -1) : remS a b = 0 := by
  subst ha hb; decide

theorem eq_eq_decide (a b : Word) : (a == b) = decide (a = b) := Bool.beq_eq_decide_eq ..

theorem ne_eq_decide (a b : Word) : (a != b) = decide (a ≠ b) := by simp [bne, Bool.beq_eq_decide_eq]

theorem ge_eq_not_slt (a b : Word) : decide (b.toInt ≤ a.toInt) = !a.slt b := by simp [BitVec.slt, ← decide_not]

theorem ge_eq_not_ult (a b : Word) : decide (b ≤ a) = !a.ult b := by simp [BitVec.ult, ← decide_not, BitVec.le_def]

/-! ### The forms that read no other register (R88) -/

theorem li_gives (h : Runs s g [rd]) (imm : BitVec 32) : GivesReg (.li g rd imm) s rd (imm.signExtend 64) :=
  ⟨_, guarded_ready h fun s => .next (s.wr rd (immOf imm)), wr_written ..⟩

theorem lih_gives (h : Runs s g [rd]) (imm : BitVec 32) :
    GivesReg (.lih g rd imm) s rd (imm ++ (s.rd rd).extractLsb' 0 32) :=
  aluR_gives (ra := rd) (fun a => imm ++ a.extractLsb' 0 32) _ ⟨h.1, by simpa using h.2⟩ rfl rfl

/-- Settles O1: each instruction has one of the forms of R87, and its operation is the one that R88 names. -/
theorem scalarResults : Obligations.ScalarResults := by
  intro s g rd ra rb amt imm
  refine ⟨fun h => ⟨?_, ?_, ?_, ?_, ?_, ?_, ?_, ?_, ?_, ?_, ?_, ?_, ?_, ?_, ?_, ?_, fun hb => ⟨?_, ?_, ?_, ?_⟩, ?_, ?_, ?_, ?_⟩,
    fun h => ⟨?_, ?_, ?_, ?_, ?_, ?_, ?_, ?_, ?_, ?_, ?_, ?_, ?_, ?_, ?_, ?_⟩, fun h => ⟨li_gives h imm, lih_gives h imm⟩⟩
  · exact aluRR_gives (fun a b => a + b) _ h rfl rfl
  · exact aluRR_gives (fun a b => a - b) _ h rfl rfl
  · exact aluRR_gives (fun a b => a * b) _ h rfl rfl
  · exact aluRR_gives mulHigh _ h rfl (mulHigh_eq ..)
  · exact aluRR_gives (fun a b => a &&& b) _ h rfl rfl
  · exact aluRR_gives (fun a b => a ||| b) _ h rfl rfl
  · exact aluRR_gives (fun a b => a ^^^ b) _ h rfl rfl
  · exact aluRR_gives (fun a b => a &&& ~~~b) _ h rfl rfl
  · exact aluRR_gives (fun a b => a <<< shAmt b) _ h rfl (shl_eq ..)
  · exact aluRR_gives (fun a b => a >>> shAmt b) _ h rfl (shr_eq ..)
  · exact aluRR_gives (fun a b => a.sshiftRight (shAmt b)) _ h rfl (sar_eq ..)
  · exact aluRR_gives (fun a b => a.rotateRight (shAmt b)) _ h rfl (ror_eq ..)
  · exact aluRR_gives (fun a b => if a.toInt ≤ b.toInt then a else b) _ h rfl (min_eq ..)
  · exact aluRR_gives (fun a b => if a.toInt ≤ b.toInt then b else a) _ h rfl (max_eq ..)
  · exact aluRR_gives (fun a b => if a ≤ b then a else b) _ h rfl (minu_eq ..)
  · exact aluRR_gives (fun a b => if a ≤ b then b else a) _ h rfl (maxu_eq ..)
  · exact aluRR_gives divS _ h rfl (divS_eq _ _ hb)
  · exact aluRR_gives remS _ h rfl (remS_eq _ _ hb)
  · exact aluRR_gives divU _ h rfl (divU_eq _ _ hb)
  · exact aluRR_gives remU _ h rfl (remU_eq _ _ hb)
  · exact aluRR_gives (fun a b => a + b) _ h rfl (by simp)
  · exact aluRR_gives (fun a b => a + b * 2) _ h rfl rfl
  · exact aluRR_gives (fun a b => a + b * 4) _ h rfl rfl
  · exact aluRR_gives (fun a b => a + b * 8) _ h rfl rfl
  · exact aluR_gives (fun a => a + immOf imm) _ h rfl rfl
  · exact aluR_gives (fun a => a &&& immOf imm) _ h rfl rfl
  · exact aluR_gives (fun a => a ||| immOf imm) _ h rfl rfl
  · exact aluR_gives (fun a => a ^^^ immOf imm) _ h rfl rfl
  · exact aluR_gives (fun a => a <<< amt.toNat) _ h rfl (BitVec.shiftLeft_eq' ..).symm
  · exact aluR_gives (fun a => a >>> amt.toNat) _ h rfl (BitVec.ushiftRight_eq' ..).symm
  · exact aluR_gives (fun a => a.sshiftRight amt.toNat) _ h rfl (BitVec.sshiftRight_eq' ..).symm
  · exact aluR_gives (fun a => a.rotateRight amt.toNat) _ h rfl rfl
  · exact aluR_gives (sextOf 0) _ h rfl (sextOf_eq ..)
  · exact aluR_gives (sextOf 1) _ h rfl (sextOf_eq ..)
  · exact aluR_gives (sextOf 2) _ h rfl (sextOf_eq ..)
  · exact aluR_gives (zextOf 0) _ h rfl (zextOf_eq ..)
  · exact aluR_gives (zextOf 1) _ h rfl (zextOf_eq ..)
  · exact aluR_gives (zextOf 2) _ h rfl (zextOf_eq ..)
  · obtain ⟨n, hn, hclz, hzero, hone⟩ := clz_spec (s.rd ra)
    exact ⟨n, hn, aluR_gives clz _ h rfl hclz, hzero, hone⟩
  · exact aluR_gives popc _ h rfl (popc_eq _)

/-- Settles O2: a division gives the value of its operation, whatever the operands, and nothing else. -/
theorem divisionCorners : Obligations.DivisionCorners := by
  intro s g rd ra rb h
  have hdiv {x : Word} (hx : divS (s.rd ra) (s.rd rb) = x) : GivesReg (.div g rd ra rb) s rd x := aluRR_gives divS x h rfl hx
  have hdivu {x : Word} (hx : divU (s.rd ra) (s.rd rb) = x) : GivesReg (.divu g rd ra rb) s rd x := aluRR_gives divU x h rfl hx
  have hrem {x : Word} (hx : remS (s.rd ra) (s.rd rb) = x) : GivesReg (.rem g rd ra rb) s rd x := aluRR_gives remS x h rfl hx
  have hremu {x : Word} (hx : remU (s.rd ra) (s.rd rb) = x) : GivesReg (.remu g rd ra rb) s rd x := aluRR_gives remU x h rfl hx
  exact ⟨⟨_, _, _, _, hdiv rfl, hdivu rfl, hrem rfl, hremu rfl⟩,
    fun hb => ⟨hdiv (if_pos hb), hdivu (if_pos hb), hrem (if_pos hb), hremu (if_pos hb)⟩,
    fun ha hb => ⟨hdiv (divS_min ha hb), hrem (remS_min ha hb)⟩⟩

/-- Settles O3: each instruction has one of the forms of R90, and its comparison is the one that R91 names. -/
theorem predicateResults : Obligations.PredicateResults := by
  intro s g pd ra rb imm
  refine ⟨fun h => ⟨?_, ?_, ?_, ?_, ?_, ?_, ?_⟩, fun h => ⟨?_, ?_, ?_, ?_⟩, fun h => ⟨?_, ?_, ?_, ?_, ?_, ?_, ?_, ?_⟩⟩
  · exact cmpRR_gives (fun a b => a == b) _ h rfl (eq_eq_decide ..)
  · exact cmpRR_gives (fun a b => a != b) _ h rfl (ne_eq_decide ..)
  · exact cmpRR_gives (fun a b => decide (a.toInt < b.toInt)) _ h rfl rfl
  · exact cmpRR_gives (fun a b => decide (a < b)) _ h rfl rfl
  · exact cmpRR_gives (fun a b => decide (b.toInt ≤ a.toInt)) _ h rfl (ge_eq_not_slt ..)
  · exact cmpRR_gives (fun a b => decide (b ≤ a)) _ h rfl (ge_eq_not_ult ..)
  · exact cmpRR_gives (fun a b => a &&& b != 0) _ h rfl (ne_eq_decide ..)
  · exact cmpR_gives (fun a => a == immOf imm) _ h rfl (eq_eq_decide ..)
  · exact cmpR_gives (fun a => decide (a.toInt < (immOf imm).toInt)) _ h rfl rfl
  · exact cmpR_gives (fun a => decide (a < immOf imm)) _ h rfl rfl
  · exact cmpR_gives (fun a => decide ((immOf imm).toInt ≤ a.toInt)) _ h rfl (ge_eq_not_slt ..)
  · exact predOp_gives (fun s => s.rdPred ra && s.rdPred rb) _ h rfl rfl
  · exact predOp_gives (fun s => s.rdPred ra || s.rdPred rb) _ h rfl rfl
  · exact predOp_gives (fun s => s.rdPred ra ^^ s.rdPred rb) _ h rfl rfl
  · exact predOp_gives (fun s => s.rdPred ra && !s.rdPred rb) _ h rfl rfl
  · exact predOp_gives (fun s => !s.rdPred ra) _ h rfl rfl
  · exact predOp_gives (fun s => s.rdPred ra) _ h rfl rfl
  · exact predOp_gives (fun _ => true) _ h rfl rfl
  · exact predOp_gives (fun _ => false) _ h rfl rfl

end Sys2Proof.Machine
end

section
/-! PROOFS. Hardware loops (R81 to R86): the levels that a branch leaves, the set-up of a level and the loop-back check. -/

namespace Sys2Proof.Machine

open Sys2Proof

variable {s : State} {g ra : BitVec 6} {i : Instr}

/-! ### A level ended (R85) -/

/-- A level that has ended: it is no longer active, and all else of it stays. -/
def LoopLevel.ended (l : LoopLevel) : LoopLevel := { l with endReg := l.endReg &&& 0x7FFF_FFFF_FFFF_FFFF#64 }

theorem loop_endLoop_same (st : Strand) (d : Nat) : (st.endLoop d).loop d = (st.loop d).ended := loop_setLoop_same ..

theorem loop_endLoop_other (st : Strand) {d m : Nat} (h : m ≠ d) : (st.endLoop d).loop m = st.loop m :=
  loop_setLoop_other _ _ _ _ h

theorem ended_act (l : LoopLevel) : l.ended.act = false := by
  rw [LoopLevel.act, LoopLevel.ended, endBit]; simp

theorem ended_endReg (l : LoopLevel) {j : Nat} (hj : j ≠ 63) : l.ended.endReg.getLsbD j = l.endReg.getLsbD j := by
  rw [LoopLevel.ended, endBit]; simp [hj]

/-- The end of the innermost level takes the stack down by one (R82). -/
theorem loopDepth_endLoop {q : Strand} {d : Nat} (h : q.loopDepth = d + 1) : (q.endLoop d).loopDepth = d := by
  have hact (m : Nat) : ((q.endLoop d).loop m).act = if m = d then false else (q.loop m).act := by
    split
    · next hm => rw [hm, loop_endLoop_same, ended_act]
    · next hm => rw [loop_endLoop_other q hm]
  have hd : d = 0 ∨ d = 1 ∨ d = 2 ∨ d = 3 := by have := loopDepth_le q; omega
  unfold Strand.loopDepth at h ⊢
  simp only [hact]
  generalize (q.loop 0).act = l0, (q.loop 1).act = l1, (q.loop 2).act = l2, (q.loop 3).act = l3 at h
  rcases hd with rfl | rfl | rfl | rfl
  all_goals revert l0 l1 l2 l3; decide

/-! ### The levels that a branch leaves (R85) -/

/-- Level `n` and every level inside it are without the target of a branch. -/
def Leaves (q : Strand) (x : Word) (n : Nat) : Prop :=
  n < q.loopDepth ∧ ∀ m, n ≤ m → m < q.loopDepth → ¬((q.loop m).start ≤ x ∧ x < (q.loop m).endAddr)

/-- Behind an innermost level without the target the levels outside it are judged as they are. -/
theorem leaves_endLoop_iff {q : Strand} {x : Word} {n d : Nat} (h : q.loopDepth = d + 1)
    (hout : ¬((q.loop d).start ≤ x ∧ x < (q.loop d).endAddr)) (hn : n ≠ d) : Leaves (q.endLoop d) x n ↔ Leaves q x n := by
  have hloop (m : Nat) (hm : m < d) : (q.endLoop d).loop m = q.loop m := loop_endLoop_other q (by omega)
  rw [Leaves, Leaves, loopDepth_endLoop h, h]
  constructor
  · rintro ⟨hlt, hall⟩
    refine ⟨by omega, fun m hnm hm => ?_⟩
    rcases Nat.lt_succ_iff_lt_or_eq.mp hm with hm | rfl
    · exact hloop m hm ▸ hall m hnm hm
    · exact hout
  · rintro ⟨hlt, hall⟩
    exact ⟨by omega, fun m hnm hm => (hloop m hm).symm ▸ hall m hnm (by omega)⟩

/-- A branch ends a level exactly where the level and those inside it are without its target. -/
theorem loop_leaveLoops (x : Word) (n : Nat) : ∀ (fuel : Nat) (q st : Strand), q.loopDepth < fuel →
    (Leaves q x n → (leaveLoops x fuel q st).loop n = (st.loop n).ended) ∧
    (¬Leaves q x n → (leaveLoops x fuel q st).loop n = st.loop n) := by
  intro fuel
  induction fuel with
  | zero => intro q st h; omega
  | succ fuel ih =>
    intro q st hfuel
    rcases hq : q.loopDepth with _ | d
    · have hno : ¬Leaves q x n := fun h => by have := h.1; omega
      simp [leaveLoops, hq, hno]
    by_cases hin : (q.loop d).start ≤ x ∧ x < (q.loop d).endAddr
    · have hno : ¬Leaves q x n := fun h => h.2 d (by have := h.1; omega) (by omega) hin
      simp [leaveLoops, hq, hno, hin]
    have hstep : leaveLoops x (fuel + 1) q st = leaveLoops x fuel (q.endLoop d) (st.endLoop d) := by
      simp [leaveLoops, hq, hin]
    obtain ⟨hyes, hno⟩ := ih (q.endLoop d) (st.endLoop d) (by rw [loopDepth_endLoop hq]; omega)
    rw [hstep]
    by_cases hn : n = d
    · have hself : Leaves q x n := ⟨by omega, fun m hm hm' => by rw [show m = d by omega]; exact hin⟩
      have hinner : ¬Leaves (q.endLoop d) x n := fun h => by have := h.1; rw [loopDepth_endLoop hq] at this; omega
      exact ⟨fun _ => by rw [hno hinner, hn, loop_endLoop_same], fun h => absurd hself h⟩
    · rw [leaves_endLoop_iff hq hin hn, loop_endLoop_other st hn] at *
      exact ⟨hyes, hno⟩

/-- Settles O6: `loop_leaveLoops` for each level, over a stack of at most four. -/
theorem loopsLeft : Obligations.LoopsLeft := by
  intro q st x n _ out r
  obtain ⟨hyes, hno⟩ := loop_leaveLoops x n 5 q st (by have := loopDepth_le q; omega)
  refine ⟨leaveLoops_frame x 5 q st, fun h => ?_, hno⟩
  have hended : r.loop n = (st.loop n).ended := hyes h
  rw [hended]
  exact ⟨ended_act _, rfl, rfl, fun j hj => ended_endReg _ hj⟩

/-! ### A level set up (R82, R83) -/

theorem bodyEnd_eq (e : Word) (blen : BitVec 24) : e + BitVec.ofNat 64 (4 * blen.toNat) = e + 4 * blen.zeroExtend 64 := by
  simp [BitVec.ofNat_mul]

theorem addrMask_bit {j : Nat} (h : j < 64) :
    (0x000F_FFFF_FFFF_FFFC#64).getLsbD j = decide (2 ≤ j ∧ j < 52) :=
  (by decide : ∀ j : Fin 64, (0x000F_FFFF_FFFF_FFFC#64).getLsbD j = decide (2 ≤ (j : Nat) ∧ (j : Nat) < 52)) ⟨j, h⟩

theorem actMask_bit {j : Nat} (h : j < 64) : (0x8000_0000_0000_0000#64).getLsbD j = decide (j = 63) :=
  (by decide : ∀ j : Fin 64, (0x8000_0000_0000_0000#64).getLsbD j = decide ((j : Nat) = 63)) ⟨j, h⟩

theorem pipeMask_bit {j : Nat} (h : j < 64) : (0x4000_0000_0000_0000#64).getLsbD j = decide (j = 62) :=
  (by decide : ∀ j : Fin 64, (0x4000_0000_0000_0000#64).getLsbD j = decide ((j : Nat) = 62)) ⟨j, h⟩

/-- The bits of the end register that a loop instruction lays out (R82). -/
theorem loopEnd_bit (e : Word) (pipe : Bool) (stg : BitVec 4) {j : Nat} (h : j < 64) :
    (loopEnd e pipe stg).getLsbD j = ((e.getLsbD j && decide (2 ≤ j ∧ j < 52)) || decide (j = 63) ||
      (decide (56 ≤ j) && stg.getLsbD (j - 56)) || (pipe && decide (j = 62))) := by
  have hstage : (stg.zeroExtend 64 <<< 56).getLsbD j = (decide (56 ≤ j) && stg.getLsbD (j - 56)) := by
    have hlow : (!decide (j < 56)) = decide (56 ≤ j) := by simp [← decide_not]
    simp [h, hlow]
  have hpipe : (if pipe then 0x4000_0000_0000_0000#64 else 0).getLsbD j = (pipe && decide (j = 62)) := by
    cases pipe
    · simp
    · simp [pipeMask_bit h]
  unfold loopEnd
  rw [BitVec.getLsbD_or, BitVec.getLsbD_or, BitVec.getLsbD_or, BitVec.getLsbD_and, addrMask_bit h, actMask_bit h, hstage, hpipe]

theorem loopEnd_endAddr (e : Word) (pipe : Bool) (stg : BitVec 4) :
    loopEnd e pipe stg &&& 0x000F_FFFF_FFFF_FFFC#64 = e &&& 0x000F_FFFF_FFFF_FFFC#64 := by
  apply BitVec.eq_of_getLsbD_eq
  intro j hj
  rw [BitVec.getLsbD_and, BitVec.getLsbD_and, loopEnd_bit _ _ _ hj, addrMask_bit hj]
  by_cases h : 2 ≤ j ∧ j < 52
  · have h1 : j ≠ 63 ∧ ¬56 ≤ j ∧ j ≠ 62 := by omega
    simp [h, h1]
  · simp [h]

theorem loopEnd_act (e : Word) (pipe : Bool) (stg : BitVec 4) : (loopEnd e pipe stg).getLsbD 63 = true := by
  rw [loopEnd_bit _ _ _ (by decide)]; simp

theorem loopEnd_pipe (e : Word) (pipe : Bool) (stg : BitVec 4) : (loopEnd e pipe stg).getLsbD 62 = pipe := by
  rw [loopEnd_bit _ _ _ (by decide)]; simp

theorem loopEnd_stg (e : Word) (pipe : Bool) (stg : BitVec 4) : (loopEnd e pipe stg).extractLsb' 56 4 = stg := by
  apply BitVec.eq_of_getLsbD_eq
  intro j hj
  have hsides : ¬56 + j < 52 ∧ ¬56 + j = 63 ∧ ¬56 + j = 62 := by omega
  rw [BitVec.getLsbD_extractLsb', loopEnd_bit _ _ _ (by omega)]
  simp [hj, hsides]

/-- The level that a loop instruction writes (R82, R83). -/
def newLevel (s : State) (blen : BitVec 24) (pipe : Bool) (stg : BitVec 4) (count : Nat) : LoopLevel :=
  { start := s.nextPc, endReg := loopEnd (s.nextPc + 4 * blen.zeroExtend 64) pipe stg, count := BitVec.ofNat 64 count }

theorem newLevel_fields (s : State) (blen : BitVec 24) (pipe : Bool) (stg : BitVec 4) (count : Nat) :
    let l := newLevel s blen pipe stg count
    l.start = s.nextPc ∧ l.endAddr = (s.nextPc + 4 * blen.zeroExtend 64) &&& 0x000F_FFFF_FFFF_FFFC#64 ∧ l.act = true ∧
      l.pipe = pipe ∧ l.stg = stg.toNat ∧ l.count = BitVec.ofNat 64 count :=
  ⟨rfl, loopEnd_endAddr .., loopEnd_act .., loopEnd_pipe .., congrArg BitVec.toNat (loopEnd_stg ..), rfl⟩

theorem enterLoop_zero {blen : BitVec 24} {stg : Option (BitVec 4)} (e : exec i s = enterLoop s 0 stg blen) :
    ∃ t, exec i s = .next t ∧ Jumped s t ((s.nextPc + 4 * blen.zeroExtend 64) &&& pcMask) :=
  ⟨_, by rw [e, enterLoop, if_pos rfl, bodyEnd_eq], jump_jumped ..⟩

theorem enterLoop_full {blen : BitVec 24} {n : Nat} {stg : Option (BitVec 4)} (e : exec i s = enterLoop s n stg blen)
    (hn : n ≠ 0) (hd : s.pre.loopDepth = 4) : TrapsWith i s 5 0 := by
  intro hh
  rw [e, enterLoop, if_neg hn, if_pos hd]
  exact trapAt_trapped s 5 0 hh

/-- The acting strand of a plain loop's set-up. -/
def enterPlain (s : State) (n : Nat) (blen : BitVec 24) (st : Strand) : Strand :=
  st.setLoop s.pre.loopDepth (newLevel s blen false (BitVec.ofNat 4 (st.loop s.pre.loopDepth).stg) (n - 1))

/-- The acting strand of a pipelined loop's set-up. -/
def enterPiped (s : State) (n : Nat) (stg : BitVec 4) (blen : BitVec 24) (st : Strand) : Strand :=
  (st.setLoop s.pre.loopDepth (newLevel s blen true stg (min (n + stg.toNat - 1) (2 ^ 64 - 1)))).setStagesAt s.pre.pbase

theorem enterLoop_plain {blen : BitVec 24} {n : Nat} (e : exec i s = enterLoop s n none blen)
    (hn : n ≠ 0) (hd : s.pre.loopDepth < 4) : exec i s = .next ((s.modActing (enterPlain s n blen)).jump s.nextPc) := by
  rw [e, enterLoop, if_neg hn, if_neg (by omega), bodyEnd_eq]; rfl

theorem enterLoop_piped {blen : BitVec 24} {n : Nat} {stg : BitVec 4} (e : exec i s = enterLoop s n (some stg) blen)
    (hn : n ≠ 0) (hd : s.pre.loopDepth < 4) : exec i s = .next ((s.modActing (enterPiped s n stg blen)).jump s.nextPc) := by
  rw [e, enterLoop, if_neg hn, if_neg (by omega), bodyEnd_eq]; rfl

/-- Where only predicates differ, nothing else does. -/
theorem loops_of_preds {r st : Strand} (h : { r with preds := st.preds } = st) : r.loops = st.loops :=
  (congrArg Strand.loops h :)

theorem pbase_of_preds {r st : Strand} (h : { r with preds := st.preds } = st) : r.pbase = st.pbase :=
  (congrArg Strand.pbase h :)

theorem kept_of_preds {r st : Strand} {d : Nat} {l : LoopLevel}
    (h : { r with preds := (st.setLoop d l).preds } = st.setLoop d l) : { r with loops := st.loops, preds := st.preds } = st :=
  (congrArg (fun v : Strand => { v with loops := st.loops }) h :)

theorem loop_congr {st st' : Strand} (h : st.loops = st'.loops) (m : Nat) : st.loop m = st'.loop m := by
  rw [Strand.loop, h]; rfl

theorem setStagesAt_loops (st : Strand) (b : BitVec 4) : (st.setStagesAt b).loops = st.loops :=
  loops_of_preds (setStagesAt_frame st b)

/-- The stage predicates set by the names that a base selects read, by those names, as R83 says. -/
theorem pred_setStagesAt (st : Strand) (b : BitVec 4) (j : BitVec 6) :
    ({ st.setStagesAt b with pbase := b } : Strand).pred j = if j.toNat < 48 then st.pred j else j == 48 := by
  obtain ⟨hframe, hpred⟩ := setStages_spec { st with pbase := b }
  have hbase : ({ st with pbase := b } : Strand).setStages.pbase = b := pbase_of_preds hframe
  have hsame : ({ st.setStagesAt b with pbase := b } : Strand).pred j = ({ st with pbase := b } : Strand).setStages.pred j := by
    rw [Strand.setStagesAt, Strand.pred, Strand.pred, Strand.physPred, Strand.physPred, hbase]
  rw [hsame, hpred]
  split
  · next hj => simp [Strand.pred, Strand.physPred, hj]
  · rfl

theorem enterPlain_kept (n : Nat) (blen : BitVec 24) (st : Strand) :
    { enterPlain s n blen st with loops := st.loops } = st := rfl

theorem enterPlain_other (n : Nat) (blen : BitVec 24) (st : Strand) {m : Nat} (hm : m ≠ s.pre.loopDepth) :
    (enterPlain s n blen st).loop m = st.loop m := loop_setLoop_other _ _ _ _ hm

theorem enterPlain_level (n : Nat) (blen : BitVec 24) (st : Strand) :
    (enterPlain s n blen st).loop s.pre.loopDepth =
      newLevel s blen false (BitVec.ofNat 4 (st.loop s.pre.loopDepth).stg) (n - 1) := loop_setLoop_same ..

theorem enterPiped_kept (n : Nat) (stg : BitVec 4) (blen : BitVec 24) (st : Strand) :
    { enterPiped s n stg blen st with loops := st.loops, preds := st.preds } = st :=
  kept_of_preds (setStagesAt_frame ..)

theorem enterPiped_other (n : Nat) (stg : BitVec 4) (blen : BitVec 24) (st : Strand) {m : Nat} (hm : m ≠ s.pre.loopDepth) :
    (enterPiped s n stg blen st).loop m = st.loop m :=
  (loop_congr (setStagesAt_loops ..) m).trans (loop_setLoop_other _ _ _ _ hm)

theorem enterPiped_level (n : Nat) (stg : BitVec 4) (blen : BitVec 24) (st : Strand) :
    (enterPiped s n stg blen st).loop s.pre.loopDepth =
      newLevel s blen true stg (min (n + stg.toNat - 1) (2 ^ 64 - 1)) :=
  (loop_congr (setStagesAt_loops ..) _).trans (loop_setLoop_same ..)

theorem loop_runs (h : Runs s g [ra]) (blen : BitVec 24) :
    exec (.loop g ra blen) s = enterLoop s (s.rd ra).toNat none blen :=
  guarded_ready h fun s => enterLoop s (s.rd ra).toNat none blen

theorem loopi_runs (h : Runs s g []) (n : BitVec 12) (blen : BitVec 24) :
    exec (.loopi g n blen) s = enterLoop s n.toNat none blen := guarded_on h.1 fun s => enterLoop s n.toNat none blen

theorem loopp_runs (h : Runs s g [ra]) (stg : BitVec 4) (blen : BitVec 24) :
    exec (.loopp g ra stg blen) s = enterLoop s (s.rd ra).toNat (some stg) blen :=
  guarded_ready h fun s => enterLoop s (s.rd ra).toNat (some stg) blen

theorem looppi_runs (h : Runs s g []) (n : BitVec 12) (stg : BitVec 4) (blen : BitVec 24) :
    exec (.looppi g n stg blen) s = enterLoop s n.toNat (some stg) blen :=
  guarded_on h.1 fun s => enterLoop s n.toNat (some stg) blen

/-- Settles O7: each loop instruction that runs is an `enterLoop`, which skips, traps, or sets up the level of `newLevel`. -/
theorem loopSetup : Obligations.LoopSetup := by
  constructor
  · intro s g ra n12 stg blen start e plain piped
    have hplain {i : Instr} {n : Nat} (he : exec i s = enterLoop s n none blen) : plain i n := by
      refine ⟨fun hn => enterLoop_zero (hn ▸ he), fun hn hd => ?_⟩
      refine ⟨_, _, enterLoop_plain he hn hd, StrandKept.modActing .., rfl, jump_jumped .., ?_⟩
      rw [act_modActing]
      refine ⟨enterPlain_kept .., fun m hm => enterPlain_other _ _ _ hm, ?_⟩
      obtain ⟨hstart, hend, hact, hpipe, hstg, hcount⟩ := newLevel_fields s blen false
        (BitVec.ofNat 4 ((act s).loop s.pre.loopDepth).stg) (n - 1)
      rw [enterPlain_level]
      exact ⟨hstart, hend, hact, hpipe, hstg.trans (by simp [LoopLevel.stg]), hcount⟩
    have hpiped {i : Instr} {n : Nat} (he : exec i s = enterLoop s n (some stg) blen) : piped i n := by
      refine ⟨fun hn => enterLoop_zero (hn ▸ he), fun hn hd => ?_⟩
      refine ⟨_, _, enterLoop_piped he hn hd, StrandKept.modActing .., rfl, jump_jumped .., ?_⟩
      rw [act_modActing, show n + (stg.toNat + 1) - 2 = n + stg.toNat - 1 by omega]
      refine ⟨enterPiped_kept .., fun m hm => enterPiped_other _ _ _ _ hm, fun j => pred_setStagesAt .., ?_⟩
      rw [enterPiped_level]
      exact newLevel_fields ..
    exact ⟨fun h => hplain (loop_runs h blen), fun h => hplain (loopi_runs h n12 blen),
      fun h => hpiped (loopp_runs h stg blen), fun h => hpiped (looppi_runs h n12 stg blen)⟩
  · intro s g ra n stg blen hd
    have hpos {w : Nat} {x : BitVec w} (hx : x ≠ 0) : x.toNat ≠ 0 := fun h => hx (BitVec.eq_of_toNat_eq (by simpa using h))
    exact ⟨fun h hn => ⟨enterLoop_full (loop_runs h blen) (hpos hn) hd, enterLoop_full (loopp_runs h stg blen) (hpos hn) hd⟩,
      fun h hn => ⟨enterLoop_full (loopi_runs h n blen) (hpos hn) hd, enterLoop_full (looppi_runs h n stg blen) (hpos hn) hd⟩⟩

/-! ### The loop-back check (R84) -/

/-- The bundle stands in the innermost body and its next address is the end of that body. -/
def AtBodyEnd (l : LoopLevel) (base next : Word) : Prop := l.start ≤ base ∧ base < l.endAddr ∧ next = l.endAddr

/-- The strand of a loop-back that goes on with a further iteration. -/
def iterate (l : LoopLevel) (d : Nat) (st : Strand) : Strand :=
  let st1 := if l.pipe then st.rotate else st
  let st2 := st1.setLoop d { st1.loop d with count := l.count - 1 }
  if l.pipe then st2.setStage 48 (decide (l.stg ≤ (l.count - 1).toNat)) else st2

variable {q st : Strand} {base next : Word} {d fuel : Nat}

theorem loopBack_iterates (hd : q.loopDepth = d + 1) (hat : AtBodyEnd (q.loop d) base next) (hc : (q.loop d).count ≠ 0) :
    loopBack base next (fuel + 1) q st = { iterate (q.loop d) d st with pc := (q.loop d).start } := by
  obtain ⟨hlo, hhi, hnext⟩ := hat
  simp only [loopBack, hd, hlo, hhi, hnext, hc, iterate]
  simp

theorem loopBack_ends (hd : q.loopDepth = d + 1) (hat : AtBodyEnd (q.loop d) base next) (hc : (q.loop d).count = 0) :
    loopBack base next (fuel + 1) q st = loopBack base next fuel (q.setLoop d (q.loop d).ended)
      ((if (q.loop d).pipe then st.rotate else st).setLoop d (st.loop d).ended) := by
  obtain ⟨hlo, hhi, hnext⟩ := hat
  have hlevel : (if (q.loop d).pipe then st.rotate else st).loop d = st.loop d := by split <;> rfl
  simp only [loopBack, hd, hlo, hhi, hnext, hc, Strand.endLoop, hlevel, LoopLevel.ended]
  simp

theorem loopBack_passes (hd : q.loopDepth = d + 1) (hat : ¬AtBodyEnd (q.loop d) base next) :
    loopBack base next (fuel + 1) q st = { st with pc := next } := by
  have hno : ((q.loop d).start ≤ base && base < (q.loop d).endAddr && next == (q.loop d).endAddr) = false := by
    rw [Bool.eq_false_iff]
    simpa [AtBodyEnd, and_assoc] using hat
  simp only [loopBack, hd]
  rw [hno]; rfl

theorem setStage_loops (st : Strand) (n : Nat) (b : Bool) : (st.setStage n b).loops = st.loops :=
  loops_of_preds (setStage_frame st n b)

/-- A further iteration of a plain level changes its count alone. -/
theorem iterate_plain {l : LoopLevel} (h : l.pipe = false) (d : Nat) (st : Strand) :
    iterate l d st = st.setLoop d { st.loop d with count := l.count - 1 } := by simp [iterate, h]

/-- A further iteration of a pipelined level rotates the windows besides and sets p48 (R84). -/
theorem iterate_piped {l : LoopLevel} (h : l.pipe = true) (d : Nat) (st : Strand) :
    iterate l d st = (st.rotate.setLoop d { st.loop d with count := l.count - 1 }).setStage 48
      (decide (l.stg ≤ (l.count - 1).toNat)) := by
  simp only [iterate, h, if_true]; rfl

theorem iterate_loops (l : LoopLevel) (d : Nat) (st : Strand) :
    (iterate l d st).loops = (st.setLoop d { st.loop d with count := l.count - 1 }).loops := by
  rcases h : l.pipe with _ | _
  · rw [iterate_plain h]
  · rw [iterate_piped h, setStage_loops]; rfl

theorem iterate_piped_kept {l : LoopLevel} (h : l.pipe = true) (d : Nat) (st : Strand) :
    { iterate l d st with loops := st.loops, preds := st.preds } = st.rotate := by
  rw [iterate_piped h]
  exact kept_of_preds (st := st.rotate) (setStage_frame ..)

theorem iterate_piped_pred {l : LoopLevel} (h : l.pipe = true) (d : Nat) (st : Strand) (j : BitVec 6) :
    (iterate l d st).pred j = if j.toNat = 48 then decide (l.stg ≤ (l.count - 1).toNat) else st.rotate.pred j := by
  rw [iterate_piped h, pred_setStage _ _ _ (by omega) (by omega)]; rfl

/-- Settles O8: `loopBack_iterates` with the parts of `iterate`, `loopBack_ends` and `loopBack_passes`. -/
theorem loopBackCheck : Obligations.LoopBack := by
  intro q st base next d fuel hd l here r
  refine ⟨fun hat hc => ?_, fun hat hc => loopBack_ends hd hat hc, fun hno => loopBack_passes hd hno⟩
  have hr : r = { iterate l d st with pc := l.start } := loopBack_iterates hd hat hc
  have hloop (m : Nat) : r.loop m = (st.setLoop d { st.loop d with count := l.count - 1 }).loop m :=
    loop_congr (by rw [hr]; exact iterate_loops l d st) m
  refine ⟨by rw [hr], (hloop d).trans (loop_setLoop_same ..), fun m hm => (hloop m).trans (loop_setLoop_other _ _ _ _ hm),
    fun hp => ?_, fun hp => ?_⟩
  · rw [hr, iterate_plain hp]; rfl
  · have hkept := iterate_piped_kept hp d st
    have hpred := iterate_piped_pred hp d st
    have hread (j : BitVec 6) : r.pred j = (iterate l d st).pred j := by rw [hr]; rfl
    refine ⟨by rw [hr]; exact (congrArg Strand.sbase hkept :), by rw [hr]; exact (congrArg Strand.pbase hkept :),
      (hread 48).trans (hpred 48), ?_, fun j hj => ?_⟩
    · rw [hr]
      exact (congrArg (fun v : Strand => { v with pc := st.pc, sbase := st.sbase, pbase := st.pbase }) hkept :)
    · rw [hread, hpred, if_neg fun h : j.toNat = 48 => hj (BitVec.eq_of_toNat_eq h)]

end Sys2Proof.Machine
end

section
/-! PROOFS. Traps (R73, R77, R78, R121, R124, R125): what entering and returning from a trap do, and the instructions BRK, TRAP and
ERET. -/

namespace Sys2Proof

open Sys2Proof.Machine

variable {s t : State} {g : BitVec 6} {n : Nat} {k : Kind}

/-! ### The cause register (R121) -/

/-- A field of the cause register, as the digits of its number. -/
theorem causeWord_field (word : Nat) (post : Bool) (code i : Nat) {w x : Nat}
    (h : (word % 8 * 512 + (if post then 256 else 0) + code % 64) / 2 ^ i % 2 ^ w = x) :
    (causeWord word post code).extractLsb' i w = BitVec.ofNat w x := by
  have hlt : word % 8 * 512 + (if post then 256 else 0) + code % 64 < 2 ^ 64 := by split <;> omega
  apply BitVec.eq_of_toNat_eq
  rw [causeWord, toNat_extract_ofNat hlt, h, BitVec.toNat_ofNat, ← h, Nat.mod_mod]

theorem causeWord_fields {word : Nat} (hw : word < 8) (post : Bool) {code : Nat} (hc : code < 64) :
    let c := causeWord word post code
    c.extractLsb' 0 6 = BitVec.ofNat 6 code ∧ c.extractLsb' 6 2 = 0 ∧ c.getLsbD 8 = post ∧
      c.extractLsb' 9 3 = BitVec.ofNat 3 word ∧ c.extractLsb' 12 52 = 0 := by
  refine ⟨causeWord_field _ _ _ _ ?_, causeWord_field _ _ _ _ ?_, ?_, causeWord_field _ _ _ _ ?_, causeWord_field _ _ _ _ ?_⟩
  · split <;> omega
  · split <;> omega
  · have hpost : (causeWord word post code).extractLsb' 8 1 = BitVec.ofNat 1 post.toNat :=
      causeWord_field _ _ _ _ (by cases post <;> simp <;> omega)
    have hbit := congrArg (BitVec.getLsbD · 0) hpost
    cases post <;> simpa using hbit
  · split <;> omega
  · split <;> omega

/-! ### Entry and return -/

theorem strandFault_posts (s : State) (n : Nat) (k : Kind) (code reason : Nat) (pc val fqw : Word) :
    (s.strandFault n k code reason pc val fqw).posts = s.posts ++
      [{ code := BitVec.ofNat 8 code, reason := BitVec.ofNat 8 reason, more := 0, ctx := (s.core n).ctx, unit := strandId s n k,
         pc := pc, val := val, time := s.counter, fqw := fqw }] := rfl

theorem strandFault_strand (s : State) (n : Nat) (k : Kind) (code reason : Nat) (pc val fqw : Word) :
    ((s.strandFault n k code reason pc val fqw).core n).strand k = ((s.core n).strand k).stop := by
  simp [State.strandFault]

/-- Settles O9: entry from each of the three situations of R124 and R125, and the return. -/
theorem trapEntryAndReturn : Obligations.TrapEntryAndReturn := by
  intro s n k code word tval epcv base x post hcode hword st t
  refine ⟨fun hm hv => ?_, fun hm => ?_, fun hm hv => ?_, strand_modStrand ..⟩
  · have ht := trapEntry_taken s n k code tval epcv base word post hm hv
    have hcause : ((t.core n).strand k).cause = causeWord word post code := by
      rw [show t = _ from ht, strand_modStrand]
    rw [hcause]
    exact ⟨ht, causeWord_fields hword post hcode⟩
  · have ht : t = _ := trapEntry_double s n k code tval epcv base word post hm
    rw [ht, strandFault_posts, strandFault_strand]
    exact ⟨rfl, rfl⟩
  · have ht : t = _ := trapEntry_none s n k code tval epcv base word post hm hv
    rw [ht, strandFault_posts, strandFault_strand]
    exact ⟨rfl, rfl⟩

/-! ### BRK, TRAP and ERET -/

/-- That a transfer is taken is noted in the bundle alone. -/
theorem StrandKept.take (h : StrandKept s t) : StrandKept s t.take := by
  obtain ⟨⟨⟨hs, hmem, hissue⟩, hothers⟩, hcore⟩ := h
  exact ⟨⟨⟨hs, hmem, hissue⟩, hothers⟩, hcore⟩

theorem iterate_mode (l : LoopLevel) (d : Nat) (st : Strand) : (iterate l d st).mode = st.mode := by
  rcases h : l.pipe with _ | _
  · rw [iterate_plain h]; rfl
  · exact (congrArg Strand.mode (iterate_piped_kept h d st) :)

/-- The loop-back check leaves the state of its strand (R84). -/
theorem loopBack_mode (base next : Word) : ∀ (fuel : Nat) (q st : Strand), (loopBack base next fuel q st).mode = st.mode := by
  intro fuel
  induction fuel with
  | zero => intro q st; rfl
  | succ fuel ih =>
    intro q st
    rcases hd : q.loopDepth with _ | d
    · simp [loopBack, hd]
    by_cases hat : AtBodyEnd (q.loop d) base next
    · by_cases hc : (q.loop d).count = 0
      · rw [loopBack_ends hd hat hc, ih]
        cases (q.loop d).pipe <;> rfl
      · rw [loopBack_iterates hd hat hc]
        exact iterate_mode ..
    · rw [loopBack_passes hd hat]

/-- The strand that has entered its handler after issue (R17, R124). -/
def enteredAfter (s : State) (code : Nat) (tval epcv : Word) (st : Strand) : Strand :=
  { st with epc := epcv, cause := causeWord s.issue.pos true code, tval := tval, mode := .trapped, pc := s.pre.trapvec,
            joinSince := none, fetchSince := none }

theorem trapAfter_taken (code : Nat) (tval epcv : Word) (hm : (act s).mode ≠ .trapped) (hv : s.pre.trapvec ≠ 0) :
    trapAfter s code tval epcv = s.modActing (enteredAfter s code tval epcv) := by
  change ((s.core s.issue.core).strand s.issue.kind).mode ≠ .trapped at hm
  rw [trapAfter, trapEntryVia, if_neg hm, if_neg hv]; rfl

theorem brk_traps (h : s.rdPred g = true) (hd : debugBreaks s = false) (code : BitVec 12) :
    TrapsWith (.brk g code) s 3 (code.zeroExtend 64) := by
  intro hh
  rw [exec_brk, execBrk, guarded_on h, hd]
  exact trapAt_trapped s 3 _ hh

theorem eret_returns (h : s.rdPred g = true) (hm : s.pre.mode = .trapped) :
    ∃ t, exec (.eret g) s = .next t ∧ StrandKept s t ∧ t.issue = { s.issue with taken := true } ∧
      act t = { act s with pc := s.pre.epc, mode := .running } := by
  refine ⟨(trapReturn s s.issue.core s.issue.kind s.pre.epc).take, by rw [exec_eret, execEret, guarded_on h, if_pos hm],
    (StrandKept.modActing s fun st => { st with pc := s.pre.epc, mode := .running }).take, rfl, ?_⟩
  exact act_modActing s fun st => { st with pc := s.pre.epc, mode := .running }

theorem eret_traps (h : s.rdPred g = true) (hm : s.pre.mode ≠ .trapped) :
    TrapsWith (.eret g) s 0 (illegalTval s.issue.pos ((encode (.eret g)).headD 0)) := by
  intro hh
  rw [exec_eret, execEret, guarded_on h, if_neg hm]
  exact trapAt_trapped s 0 _ hh

/-- The acting strand after the loop-back check of its bundle (R84). -/
def loopedBack (s : State) : State := s.modActing fun st => loopBack s.issue.base s.nextPc 5 s.pre st

theorem act_loopedBack (s : State) : act (loopedBack s) = loopBack s.issue.base s.nextPc 5 s.pre (act s) := act_modActing ..

theorem trap_runs (h : s.rdPred g = true) (code : BitVec 12) : exec (.trap g code) s =
    .next (trapAfter (loopedBack s) 4 (code.zeroExtend 64) (act (loopedBack s)).pc).take :=
  guarded_on h fun s => .next (trapAfter (loopedBack s) 4 (code.zeroExtend 64) (act (loopedBack s)).pc).take

/-- TRAP does the loop-back check, then enters the handler with the address that it has selected (R73, R84, log 95). -/
theorem trap_enters (h : s.rdPred g = true) (code : BitVec 12) (hm : (act s).mode ≠ .trapped) (hv : s.pre.trapvec ≠ 0) :
    ∃ t, exec (.trap g code) s = .next t ∧ StrandKept s t ∧ t.issue = { s.issue with taken := true } ∧
      (let u := loopBack s.issue.base s.nextPc 5 s.pre (act s)
       act t = { u with epc := u.pc, cause := causeWord s.issue.pos true 4, tval := code.zeroExtend 64, mode := .trapped,
                        pc := s.pre.trapvec, joinSince := none, fetchSince := none }) := by
  have hmode : (act (loopedBack s)).mode ≠ .trapped := by rwa [act_loopedBack, loopBack_mode]
  refine ⟨_, (trap_runs h code).trans (by rw [trapAfter_taken _ _ _ hmode hv]),
    ((StrandKept.modActing s _).trans (.modActing (loopedBack s) _)).take, rfl, ?_⟩
  rw [← act_loopedBack]
  exact act_modActing (loopedBack s) _

/-- Settles O10: `brk_traps`, `trap_enters`, `eret_returns` and `eret_traps`. -/
theorem trapInstructions : Obligations.TrapInstructions := by
  intro s g code h
  exact ⟨fun hd => brk_traps h.1 hd code, trap_enters h.1 code, eret_returns h.1, eret_traps h.1⟩

end Sys2Proof
end

section
/-! PROOFS. Queue moves (R93, R106): pushes, pops and peeks of lanes. -/

namespace Sys2Proof.Machine

open Sys2Proof

variable {s : State} {g rd ra : BitVec 6} {c : Core} {now : Nat}

/-! ### Lanes (R111) -/

theorem lane_setLane_same (c : Core) (key : Nat) (es : List LaneEntry) : (c.setLane key es).lane key = es := tget_tset_same ..

theorem lane_setLane_other (c : Core) {key key' : Nat} (es : List LaneEntry) (h : key' ≠ key) :
    (c.setLane key es).lane key' = c.lane key' := tget_tset_other _ _ _ _ _ h

/-- The entry that a push appends (R93). -/
def pushed (now : Nat) (x : Word) : LaneEntry := { born := now, load := 0, data := some (x, now) }

theorem lane_pushLane (c : Core) (now key : Nat) (x : Word) (key' : Nat) :
    (c.pushLane now key x).lane key' = c.lane key' ++ if key' = key then [pushed now x] else [] := by
  by_cases h : key' = key
  · subst h
    rw [if_pos rfl]
    exact lane_setLane_same ..
  · rw [if_neg h, List.append_nil]
    exact lane_setLane_other _ _ h

/-- Pushes into distinct lanes append one entry to each of them, and to no other. -/
theorem lane_foldl_pushLane (now : Nat) (x : Word) {ks : List Nat} (hks : ks.Nodup) (c : Core) (key : Nat) :
    (ks.foldl (fun c k => c.pushLane now k x) c).lane key = c.lane key ++ if key ∈ ks then [pushed now x] else [] := by
  induction ks generalizing c with
  | nil => simp
  | cons k ks ih =>
    obtain ⟨hk, hks⟩ := List.nodup_cons.mp hks
    rw [List.foldl_cons, ih hks, lane_pushLane]
    by_cases h : key = k
    · subst h
      simp [hk]
    · simp [h]

theorem foldl_pushLane_kept (now : Nat) (x : Word) (ks : List Nat) (c : Core) :
    { ks.foldl (fun c k => c.pushLane now k x) c with lanes := c.lanes } = c := by
  induction ks generalizing c with
  | nil => rfl
  | cons k ks ih => exact (congrArg (fun d : Core => { d with lanes := c.lanes }) (ih (c.pushLane now k x)) :)

/-- A push names no lane twice. -/
theorem nodup_pushKeys (s : State) (cmask : BitVec 4) (lane : BitVec 2) : (pushKeys s cmask lane).Nodup := by
  refine List.Nodup.map (fun c d h => ?_) (List.nodup_range.filter _)
  simp only [laneKey] at h
  omega

/-! ### The effect of each move (R93) -/

theorem push_runs (h : Runs s g [ra]) (cmask : BitVec 4) (lane : BitVec 2) : exec (.qmovPush g cmask lane ra) s =
    if roomFor s (pushKeys s cmask lane) then
      .next (s.modLive fun c => (pushKeys s cmask lane).foldl (fun c k => c.pushLane s.now k (s.rd ra)) c)
    else hold s := by
  rw [exec_qmovPush, execQmovPush, guarded_on h.1, ready_of h.2]

/-- The acting core without the head of a lane, as a pop leaves it. -/
def popped (s : State) (prod lane : BitVec 2) : State :=
  s.modLive fun c => (c.observed s.issue.kind prod (headBorn c (popKey s prod lane))).setLane (popKey s prod lane)
    ((c.lane (popKey s prod lane)).drop 1)

theorem pop_performs (h : Runs s g [rd]) {prod lane : BitVec 2} {x : Word}
    (hx : laneHead s.live s.now (popKey s prod lane) = some x) :
    exec (.qmovPop g rd prod lane) s = .next ((popped s prod lane).wr rd x) := by
  rw [exec_qmovPop, execQmovPop, guarded_on h.1, ready_of h.2]
  simp only [hx]
  rfl

theorem pop_held (h : Runs s g [rd]) {prod lane : BitVec 2} (hx : laneHead s.live s.now (popKey s prod lane) = none) :
    exec (.qmovPop g rd prod lane) s = .next (s.setVerdict .held) := by
  rw [exec_qmovPop, execQmovPop, guarded_on h.1, ready_of h.2]
  simp only [hx]
  rfl

theorem peek_gives (h : Runs s g [rd]) {prod lane : BitVec 2} {x : Word}
    (hx : laneHead s.issue.pre s.now (popKey s prod lane) = some x) : GivesReg (.qpeek g rd prod lane) s rd x := by
  refine ⟨s.wr rd x, ?_, wr_written ..⟩
  rw [exec_qpeek, execQpeek, guarded_on h.1, ready_of h.2]
  simp only [hx]

theorem peek_held (h : Runs s g [rd]) {prod lane : BitVec 2}
    (hx : laneHead s.issue.pre s.now (popKey s prod lane) = none) :
    exec (.qpeek g rd prod lane) s = .next (s.setVerdict .held) := by
  rw [exec_qpeek, execQpeek, guarded_on h.1, ready_of h.2]
  simp only [hx]
  rfl

/-- An observation of parked commands touches nothing but their notes (R106). -/
theorem observed_eq (c : Core) (k : Kind) (prod : BitVec 2) (born : Nat) :
    c.observed k prod born = { c with replay := c.replay.map fun p =>
      if prod = 2 ∧ p.since < born then { p with seenBy := p.seenBy ||| (1#4 <<< k.code) } else p } := by
  by_cases h : prod = 2
  · simp only [Core.observed, h, if_true, true_and]
  · simp only [Core.observed, h, if_false, false_and, List.map_id']

theorem live_popped (s : State) (prod lane : BitVec 2) : (popped s prod lane).live =
    (s.live.observed s.issue.kind prod (headBorn s.live (popKey s prod lane))).setLane (popKey s prod lane)
      (s.live.lane (popKey s prod lane)).tail := by
  rw [← List.drop_one, popped, modLive_eq, live_setCore]

/-- Settles O18: pushes by `lane_foldl_pushLane`, a pop as `popped` and then a register written, a peek as a register written. -/
theorem queueMoves : Obligations.QueueMoves := by
  intro s g rd ra cmask prod lane x
  refine ⟨fun h hroom => ?_, fun h hroom => ?_, fun h hx => ?_, fun h hx => pop_held h hx,
    fun h hx => peek_gives h hx, fun h hx => peek_held h hx⟩
  · refine ⟨_, (push_runs h cmask lane).trans (if_pos hroom), CoreKept.setCore .., rfl, ?_, fun key => ?_⟩
    · rw [modLive_eq, live_setCore]
      exact foldl_pushLane_kept ..
    · rw [modLive_eq, live_setCore]
      exact lane_foldl_pushLane s.now (s.rd ra) (nodup_pushKeys s cmask lane) s.live key
  · exact (push_runs h cmask lane).trans (if_neg (by simp [hroom]))
  · refine ⟨popped s prod lane, _, pop_performs h hx, CoreKept.setCore .., rfl, ?_⟩
    rw [live_popped, observed_eq]
    exact ⟨rfl, rfl, lane_setLane_same .., fun key hkey => lane_setLane_other _ _ hkey, wr_written ..⟩

end Sys2Proof.Machine
end

section
/-! PROOFS. The flag instructions (R97 to R101): a release, one operation on a flag, an acquire. -/

namespace Sys2Proof.Machine

open Sys2Proof

variable {s : State} {g fl rd ra : BitVec 6} {scope : BitVec 3} {ord : BitVec 2}

/-- A release of the M strand behind a parked command (log 8). -/
def ReleaseWaits (s : State) (ord : BitVec 2) : Prop :=
  ordRelease ord = true ∧ s.issue.kind = .m ∧ s.issue.pre.replay ≠ []

/-- The state in which a flag operation is done: what its release asks for has been performed (R101). -/
def flagReleased (s : State) (scope : BitVec 3) (ord : BitVec 2) : State :=
  if ordRelease ord then releaseAt s s.issue.core s.issue.kind scope.toNat else s

/-- The state after a flag operation, with what its acquire drops (R101). -/
def flagAcquired (s v : State) (scope : BitVec 3) (ord : BitVec 2) : State :=
  if ordAcquire ord then acquireAt v s.issue.core scope.toNat else v

theorem flagOp_waits (h : ReleaseWaits s ord) (f : State → State) : flagOp s scope ord f = hold s := by
  obtain ⟨hrel, hkind, hpark⟩ := h
  simp [flagOp, releasing, hrel, hkind, hpark]

theorem flagOp_performs (h : ¬ReleaseWaits s ord) (f : State → State) :
    flagOp s scope ord f = .next (flagAcquired s (f (flagReleased s scope ord)) scope ord) := by
  have hno : (ordRelease ord && s.issue.kind == .m && !s.issue.pre.replay.isEmpty) = false := by
    rw [Bool.eq_false_iff]
    simpa [ReleaseWaits, and_assoc] using h
  simp only [flagOp, releasing, hno]
  rfl

theorem finc_runs (h : Runs s g []) (fl : BitVec 6) (scope : BitVec 3) (ord : BitVec 2) :
    exec (.finc g fl scope ord) s = flagOp s scope ord fun s => s.modFlag fl fun x => x + 1 :=
  guarded_on h.1 fun s => flagOp s scope ord fun s => s.modFlag fl fun x => x + 1

theorem fset_runs (h : Runs s g [ra]) (fl : BitVec 6) (scope : BitVec 3) (ord : BitVec 2) :
    exec (.fset g fl ra scope ord) s = flagOp s scope ord fun s => s.modFlag fl fun _ => (s.rd ra).extractLsb' 0 32 := by
  rw [exec_fset, execFset, guarded_on h.1, ready_of h.2]

theorem fadd_runs (h : Runs s g [ra]) (fl : BitVec 6) (scope : BitVec 3) (ord : BitVec 2) :
    exec (.fadd g fl ra scope ord) s = flagOp s scope ord fun s => s.modFlag fl fun x => x + (s.rd ra).extractLsb' 0 32 := by
  rw [exec_fadd, execFadd, guarded_on h.1, ready_of h.2]

theorem frd_runs (h : Runs s g [rd]) (fl : BitVec 6) (scope : BitVec 3) (ord : BitVec 2) :
    exec (.frd g rd fl scope ord) s = flagOp s scope ord fun s => s.wr rd ((s.issue.pre.flag fl.toNat).zeroExtend 64) := by
  rw [exec_frd, execFrd, guarded_on h.1, ready_of h.2]

theorem flag_setFlag_same (c : Core) (n : Nat) (x : Word32) : (c.setFlag n x).flag n = x := tget_tset_same ..

theorem flag_setFlag_other (c : Core) {n m : Nat} (x : Word32) (h : m ≠ n) : (c.setFlag n x).flag m = c.flag m :=
  tget_tset_other _ _ _ _ _ h

/-- One flag of the acting core changed, and nothing else (R99, R100). -/
theorem modFlag_sets (u : State) (fl : BitVec 6) (f : Word32 → Word32) :
    let v := u.modFlag fl f
    CoreKept u v ∧ v.issue = u.issue ∧ { v.live with flags := u.live.flags } = u.live ∧
      v.live.flag fl.toNat = f (u.live.flag fl.toNat) ∧ ∀ m, m ≠ fl.toNat → v.live.flag m = u.live.flag m := by
  have hlive : (u.modFlag fl f).live = u.live.setFlag fl.toNat (f (u.live.flag fl.toNat)) := by
    rw [State.modFlag, modLive_eq, live_setCore]
  refine ⟨CoreKept.setCore .., rfl, ?_⟩
  rw [hlive]
  exact ⟨rfl, flag_setFlag_same .., fun m hm => flag_setFlag_other _ _ hm⟩

/-- Settles O19: each flag instruction that runs is a `flagOp`, which waits or performs its release, its operation (for FRD a
register, else `modFlag_sets`) and its acquire. -/
theorem flagResults : Obligations.FlagResults := by
  intro s g fl rd ra scope ord waits n u fin sets
  have hsets {i : Instr} {f : Word32 → Word32}
      (e : exec i s = .next (fin (u.modFlag fl f))) : sets i (f (u.live.flag fl.toNat)) := ⟨_, e, modFlag_sets u fl f⟩
  refine ⟨fun hgo => ⟨fun h => ?_, fun h => ⟨?_, ?_⟩, fun h => ?_⟩, fun hw => ⟨fun h => ?_, fun h => ⟨?_, ?_⟩, fun h => ?_⟩⟩
  · exact hsets (f := fun x => x + 1) ((finc_runs h fl scope ord).trans (flagOp_performs hgo _))
  · exact hsets (f := fun _ => (u.rd ra).extractLsb' 0 32) ((fset_runs h fl scope ord).trans (flagOp_performs hgo _))
  · exact hsets (f := fun x => x + (u.rd ra).extractLsb' 0 32) ((fadd_runs h fl scope ord).trans (flagOp_performs hgo _))
  · exact ⟨_, (frd_runs h fl scope ord).trans (flagOp_performs hgo _), wr_written ..⟩
  · exact (finc_runs h fl scope ord).trans (flagOp_waits hw _)
  · exact (fset_runs h fl scope ord).trans (flagOp_waits hw _)
  · exact (fadd_runs h fl scope ord).trans (flagOp_waits hw _)
  · exact (frd_runs h fl scope ord).trans (flagOp_waits hw _)

end Sys2Proof.Machine
end

section
/-! PROOFS. Fences (R105, R253): the claim on the hall after a FENCE over several paths beyond the cluster, refuted by a hall line
that is clean and still lists a writer. The model forgets a line's writers when it writes the line back, but the claim is made of
every state. -/

namespace Sys2Proof.Machine

open Sys2Proof

/-- A dirty alcove line of a tile of context 2, of version 0, written by the strand with the identifier `u`. -/
def dirtyLineBy (u : Word) : TileLine :=
  { bank := 0, way := 0, key := { ctx := 2, tid := 0, outer := 0, trow := 0, tcol := 0 }, ver := 0, cls := 0, pins := 0,
    st := .dirty, keep := false, thru := false, unit := u, pc := 0, base := 0, lrec := 0, data := 0, units := [u] }

/-- Core 0 in context 1, with the M strand's line of a tile of context 2 dirty in its alcove. -/
def staleWriterCore : Core := { ctx := 1, alcove := [dirtyLineBy 2] }

/-- The A strand of that core in issue, while the hall holds the tile's line clean and with the A strand among its writers. -/
def staleWriter : State :=
  { State.reset with
    cores := [(0, staleWriterCore)], clusters := [(0, { hall := [{ dirtyLineBy 0 with st := .clean }] })],
    issue := { pre := staleWriterCore } }

/-- FENCE over S and T at die scope passes over the clean line, then writes the alcove's line into it, which leaves a dirty line of
another context with the A strand among its writers. -/
theorem fence_leaves_writer : ∃ l ∈ ((fenceEffect staleWriter 0 .a 3 3).cluster 0).hall,
    l.st = .dirty ∧ coversWrite (strandId staleWriter 0 .a) (staleWriter.core 0).ctx l = true := by
  decide +kernel

/-- Refutes O20: FENCE on S and T beyond the cluster may leave the hall a line, not written back, that lists its strand as a writer:
it drains the strand's lines first, and what the core's other lines then bring to the hall takes over the writers that a clean hall
line still lists (`staleWriter`). -/
theorem not_fencesComplete : ¬ Obligations.FencesComplete := by
  intro h
  have hruns : Runs staleWriter 0 [] := ⟨rfl, nofun⟩
  have hgoes : fenceWaits staleWriter 3 = false := by decide +kernel
  have hexec : exec (.fence 0 3 3) staleWriter = .next (fenceEffect staleWriter 0 .a 3 3) := by
    rw [exec_fence, execFence, guarded_on hruns.1, hgoes]
    rfl
  obtain ⟨-, hfence, -⟩ := h staleWriter 0 3 0 0 3 hruns
  obtain ⟨t, ht, -, htiles, -⟩ := hfence hgoes
  obtain rfl : fenceEffect staleWriter 0 .a 3 3 = t := Host.Outcome.next.inj (hexec.symm.trans ht)
  obtain ⟨-, hhall⟩ := htiles rfl (by decide)
  obtain ⟨l, hl, hdirty, hcovers⟩ := fence_leaves_writer
  exact Bool.false_ne_true ((hhall (by decide) l hl (.inl hdirty)).symm.trans hcovers)

end Sys2Proof.Machine
end

section
/-! PROOFS. Groups (R403, R404): the claim on a peer's end of a domain group, refuted by a group table with two groups of one key.
The model forms a group only where its key has none, but the claim is made of every state. -/

namespace Sys2Proof.Machine

open Sys2Proof

/-- The key of a domain group of modules 0 and 3. -/
def twinKey : GroupKey := { domain := true, xkey := 5, mods := 9, launch := 0, grp := 0 }

/-- A group under that key, of the given members, at its first generation. -/
def twinGroup (members gone : List Nat) : GroupState :=
  { key := twinKey, cluster := 0, gen := 0, members := members, arrived := [], joiners := [], next := [], scope := 6,
    gone := gone, sent := false, mods := [] }

/-- A launch of context 1 whose group table has one entry: the key 5, with module 3 as peer. -/
def twinLaunch : Launch :=
  { id := 0, ctx := 1, recBits := 0, recs := [], cores := [], gtab := [1 <<< 63 ||| 5 ||| 1 <<< 128 ||| 8 <<< 768],
    slotImg := [], slotsOn := false, prio := 0, arrival := 0, cluster := 0, arg := 0, notify := 0, fe := none,
    fwhen := false, tag := none, ran := [] }

/-- A module 0 that holds two groups under the one key: the first waits for task 1 and is over on this module, the second has no
members left and has not yet told its peers. -/
def twins : State :=
  { State.reset with groups := [twinGroup [1] [0], twinGroup [] []], launches := [twinLaunch] }

/-- The state that the claim names for the end on module 3: the first group is forgotten, and nothing is sent. -/
def twinsEnded : State := endGroups (twins.modGroup twinKey fun x => { x with gone := x.gone ++ [3] })

/-- The end of a group on a module of its set: it is noted with the group, ended groups are forgotten, and what has the group's key
then settles. -/
theorem execModuleArrival_end {s : State} {xkey : BitVec 32} {md : Nat} {g : GroupState}
    (hfound : (s.groups.find? fun g => g.key.domain && g.key.xkey == xkey) = some g)
    (hpeer : ¬(md = s.modNum.toNat ∨ 512 ≤ md)) (hset : g.key.mods.getLsbD md = true) (hgone : g.gone.contains md = false) :
    execModuleArrival xkey { num := md, mods := g.key.mods } 0 s =
      .next (settleGroup (endGroups (s.modGroup g.key fun x => { x with gone := x.gone ++ [md] })) g.key 3) := by
  simp only [execModuleArrival, hfound, hpeer, hset, hgone, ne_eq, not_true_eq_false, Bool.true_eq_false, Bool.false_eq_true,
    or_false, if_true, if_false]

/-- The key finds the first of the two groups. -/
theorem twins_find : (twins.groups.find? fun g => g.key.domain && g.key.xkey == 5) = some (twinGroup [1] [0]) := by
  decide +kernel

/-- Module 3 is another module than this one. -/
theorem twins_peer : ¬(3 = twins.modNum.toNat ∨ 512 ≤ 3) := by
  decide

/-- Module 3 is in the group's set. -/
theorem twinKey_has_peer : twinKey.mods.getLsbD 3 = true := by
  decide +kernel

/-- Once the first group is forgotten the key finds the second, whose local part is complete: its arrival goes to the peers. -/
theorem settleGroup_twinsEnded_sends :
    (settleGroup twinsEnded twinKey 3).outbox.length ≠ twinsEnded.outbox.length := by
  decide +kernel

/-- Refutes O54: the end of a group on its last module may do more than forget the group: where another group has its key, the
model then settles that one, and here sends its module arrival (`twins`). -/
theorem not_groupsAndFlags : ¬ Obligations.GroupsAndFlags := by
  intro h
  obtain ⟨-, hmodule, -⟩ := h twins
  obtain ⟨-, hformed⟩ := hmodule 5 twinKey.mods 3 0
  obtain ⟨-, hsame⟩ := hformed (twinGroup [1] [0]) twins_find (by decide) (by decide)
  obtain ⟨-, hpresent⟩ := hsame rfl twinKey_has_peer
  obtain ⟨-, hend⟩ := hpresent (by decide) (by decide)
  have hrun : execModuleArrival 5 { num := 3, mods := twinKey.mods } 0 twins = .next (settleGroup twinsEnded twinKey 3) :=
    execModuleArrival_end (g := twinGroup [1] [0]) twins_find twins_peer twinKey_has_peer (by decide)
  have hstate : settleGroup twinsEnded twinKey 3 = twinsEnded := Host.Outcome.next.inj (hrun.symm.trans (hend rfl))
  exact settleGroup_twinsEnded_sends (congrArg (fun t => t.outbox.length) hstate)

end Sys2Proof.Machine
end

section
/-! PROOFS. Scalar accesses that trap (R122, R155 to R157, R160): a misaligned address, a page without a mapping, a page or a memory
that does not allow the access. -/

namespace Sys2Proof.Machine

open Sys2Proof

variable {s t : State} {i : Instr} {g rd ra rb cmp : BitVec 6} {ea : Word} {size : Nat} {acc : Access}

/-! ### Translations in another state -/

/-- Nothing differs but cores, clusters and the numbers given out. -/
def UnitsOnly (s t : State) : Prop := { t with cores := s.cores, clusters := s.clusters, nextId := s.nextId } = s

theorem UnitsOnly.trans {u : State} (h : UnitsOnly s t) (h2 : UnitsOnly t u) : UnitsOnly s u := by
  unfold UnitsOnly at *
  rw [← h, ← h2]

theorem walkFrom_units (cs : Tab Core) (ks : Tab Cluster) (id : Nat) (va : Nat) (levels : List (Nat × Nat)) (tbl : Nat) :
    walkFrom { s with cores := cs, clusters := ks, nextId := id } va tbl levels = walkFrom s va tbl levels := by
  induction levels generalizing tbl with
  | nil => rfl
  | cons l rest ih => simp only [walkFrom, ih]; rfl

/-- A translation reads of the units only the TLB of its cluster. -/
theorem UnitsOnly.lookupVa (h : UnitsOnly s t) {cl : Nat} (htlb : (t.cluster cl).tlb = (s.cluster cl).tlb) (ctx : BitVec 12) (va : Nat) :
    lookupVa t cl ctx va = lookupVa s cl ctx va := by
  have hwalk : walk t ctx va = walk s ctx va := by
    rw [← h]
    simp only [walk, walkFrom_units]
    rfl
  simp only [Machine.lookupVa, tlbHit, htlb, hwalk]

theorem UnitsOnly.translate (h : UnitsOnly s t) {cl : Nat} (htlb : (t.cluster cl).tlb = (s.cluster cl).tlb) (ctx : BitVec 12) (va : Nat)
    (acc : Access) : translate t cl ctx va acc = translate s cl ctx va acc := by
  simp only [Machine.translate, h.lookupVa htlb]

/-! ### The checks of an access (R155) -/

/-- A page that has no mapping, or none yet. -/
def Unmapped (x : Trans) : Prop := x = .noMap ∨ ∃ e, x = .onDemand e

theorem strandTranslate_unmapped (h : Unmapped (translate s (coreCluster s.issue.core) s.live.ctx ea.toNat acc)) (f : Nat → Word → Out) :
    strandTranslate s ea acc f = trapAt s 10 ea := by
  rcases h with h | ⟨e, h⟩ <;> simp only [strandTranslate, h]

theorem strandTranslate_forbidden (h : translate s (coreCluster s.issue.core) s.live.ctx ea.toNat acc = .forbidden)
    (f : Nat → Word → Out) : strandTranslate s ea acc f = trapAt s 11 ea := by
  simp only [strandTranslate, h]

theorem scalarAccess_misaligned (h : ea.toNat % size ≠ 0) (f : Nat → Word → Out) : scalarAccess s ea size acc f = trapAt s 1 ea :=
  if_pos h

theorem scalarAccess_aligned (h : ea.toNat % size = 0) (f : Nat → Word → Out) :
    scalarAccess s ea size acc f = strandTranslate s ea acc f :=
  if_neg (not_not_intro h)

theorem trapsWith_of_trapAt {code : Nat} {x : Word} (e : exec i s = trapAt s code x) : TrapsWith i s code x :=
  fun h => e ▸ trapAt_trapped s code x h

/-- What the checks of an access of `size` bytes at `ea` raise at an instruction. -/
def AccessTraps (i : Instr) (s : State) (ea : Word) (size : Nat) (acc : Access) : Prop :=
  let tr := translate s (coreCluster s.issue.core) s.live.ctx ea.toNat acc
  (ea.toNat % size ≠ 0 → TrapsWith i s 1 ea) ∧ (ea.toNat % size = 0 → Unmapped tr → TrapsWith i s 10 ea) ∧
  (ea.toNat % size = 0 → tr = .forbidden → TrapsWith i s 11 ea)

theorem accessTraps_of_scalarAccess {f : Nat → Word → Out} (e : exec i s = scalarAccess s ea size acc f) :
    AccessTraps i s ea size acc :=
  ⟨fun h => trapsWith_of_trapAt (e.trans (scalarAccess_misaligned h f)),
   fun h hm => trapsWith_of_trapAt ((e.trans (scalarAccess_aligned h f)).trans (strandTranslate_unmapped hm f)),
   fun h hm => trapsWith_of_trapAt ((e.trans (scalarAccess_aligned h f)).trans (strandTranslate_forbidden hm f))⟩

/-! ### Loads, stores and atomics -/

theorem loadReg_traps {off : BitVec 32} {signed : Bool} (h : Runs s g [rd, ra]) (e : exec i s = loadReg g rd ra off size signed s) :
    AccessTraps i s (s.rd ra + off.signExtend 64) size .read := by
  apply accessTraps_of_scalarAccess
  rw [e, loadReg, guarded_ready h]

theorem storeReg_traps {off : BitVec 32} (h : Runs s g [ra, rb]) (e : exec i s = storeReg g ra rb off size s) :
    AccessTraps i s (s.rd ra + off.signExtend 64) size .write := by
  apply accessTraps_of_scalarAccess
  rw [e, storeReg, guarded_ready h]

/-- An atomic makes the checks of its access, and then that of its memory (R160). -/
theorem atomicOp_traps {w : BitVec 1} {scope : BitVec 3} {ord : BitVec 2} {op : Nat} {un : Bool} {cm : BitVec 6}
    (e : exec i s = atomicOp g rd ra rb w scope ord op un cm s) (h : Runs s g [rd, ra, rb, cm]) :
    AccessTraps i s (s.rd ra) (if w = 1 then 8 else 4) .both ∧
    ((s.rd ra).toNat % (if w = 1 then 8 else 4) = 0 → 2 < op → ∀ pa leaf bits,
      translate s (coreCluster s.issue.core) s.live.ctx (s.rd ra).toNat .both = .ok pa leaf bits → memKind s pa = .host →
      TrapsWith i s 11 (s.rd ra)) := by
  rw [atomicOp, guarded_ready h] at e
  refine ⟨accessTraps_of_scalarAccess e, fun ha hop pa leaf bits htr hhost => trapsWith_of_trapAt ?_⟩
  have hno : amoSupported s pa op = false := by simp [amoSupported, hhost, hop]
  rw [e, scalarAccess_aligned ha]
  simp only [strandTranslate, htr, hno, Bool.not_false, if_true]

/-! ### Loads into lanes (R156, R157) -/

/-- The acting core with the load `i` outstanding and its lanes reserved: what a load into lanes takes before its address is judged. -/
def reservedFor (s : State) (l : OutLoad) (ks : List Nat) : State :=
  s.takeId.2.modLive fun c => ks.foldl (fun c k => c.reserveLane s.now k s.nextId) { c with loads := c.loads ++ [l] }

theorem foldl_reserveLane_kept (now id : Nat) (ks : List Nat) (c : Core) :
    { ks.foldl (fun c k => c.reserveLane now k id) c with lanes := c.lanes } = c := by
  induction ks generalizing c with
  | nil => rfl
  | cons k ks ih => exact (congrArg (fun x : Core => { x with lanes := c.lanes }) (ih (c.reserveLane now k id)) :)

theorem live_reservedFor (s : State) (l : OutLoad) (ks : List Nat) :
    { (reservedFor s l ks).live with loads := s.live.loads, lanes := s.live.lanes } = s.live := by
  have hkept := foldl_reserveLane_kept s.now s.nextId ks { s.live with loads := s.live.loads ++ [l] }
  have hlive : (reservedFor s l ks).live =
      ks.foldl (fun c k => c.reserveLane s.now k s.nextId) { s.live with loads := s.live.loads ++ [l] } := core_setCore_same ..
  rw [hlive]
  exact (congrArg (fun x : Core => { x with loads := s.live.loads }) hkept :)

theorem strand_of_lanes {c d : Core} (h : { c with loads := d.loads, lanes := d.lanes } = d) (k : Kind) : c.strand k = d.strand k := by
  rw [← h]; cases k <;> rfl

theorem ctx_reservedFor (s : State) (l : OutLoad) (ks : List Nat) : (reservedFor s l ks).live.ctx = s.live.ctx :=
  (congrArg Core.ctx (live_reservedFor s l ks) :)

theorem act_reservedFor (s : State) (l : OutLoad) (ks : List Nat) : act (reservedFor s l ks) = act s :=
  strand_of_lanes (live_reservedFor s l ks) s.issue.kind

theorem coreKept_reservedFor (s : State) (l : OutLoad) (ks : List Nat) :
    CoreKept { s with nextId := s.nextId + 1 } (reservedFor s l ks) := .setCore ..

/-- The load of `size` bytes into lanes that stands outstanding, from a page with the given leaf. -/
def laneLoad (s : State) (ea : Word) (size : Nat) (zx : BitVec 1) (remote : Bool) (acq : Option Nat) (pa : Nat) (leaf : Word) :
    OutLoad :=
  { id := s.nextId, use := .lanes, strand := s.issue.kind, va := ea.toNat, pa := pa, size := size, signed := zx == 0,
    cached := !remote && coreCaches leaf, alloc := !remote && coreCaches leaf, z := leafZ leaf, acq := acq, pc := s.issue.base,
    since := s.now }

theorem loadLanes_runs {cmask : BitVec 4} {lane : BitVec 2} {zx : BitVec 1} {off : BitVec 24} {remote : Bool} {acq : Option Nat}
    (h : Runs s g [ra]) (hloads : laneLoads s.live < 64) (hroom : laneRooms s (loadKeys cmask lane) = true) :
    let ea := s.rd ra + off.signExtend 64
    let reserved := fun (pa : Nat) (leaf : Word) => reservedFor s (laneLoad s ea size zx remote acq pa leaf) (loadKeys cmask lane)
    loadLanes g cmask lane ra zx off size remote acq s =
      scalarAccess (reserved 0 0) ea size .read fun pa leaf => .next (reserved pa leaf) := by
  have hgo : ¬((decide (laneLoadLimit ≤ laneLoads s.live) || !laneRooms s (loadKeys cmask lane)) = true) := by
    simp [laneLoadLimit, Nat.not_le.mpr hloads, hroom]
  rw [loadLanes, guarded_ready h, if_neg hgo]
  rfl

/-- A load into lanes traps with what it has reserved standing, and nothing else changed. -/
def LaneLoadTraps (i : Instr) (s : State) (code : Nat) (ea : Word) : Prop :=
  ∃ u t, exec i s = .next t ∧ Trapped u t code ea ∧ CoreKept { s with nextId := s.nextId + 1 } u ∧ u.issue = s.issue ∧
    act u = act s ∧ { u.live with loads := s.live.loads, lanes := s.live.lanes } = s.live

theorem laneLoadTraps_of_trapAt {l : OutLoad} {ks : List Nat} {code : Nat} (hh : HasHandler s)
    (e : exec i s = trapAt (reservedFor s l ks) code ea) : LaneLoadTraps i s code ea := by
  have hh' : HasHandler (reservedFor s l ks) := by rwa [HasHandler, act_reservedFor]
  obtain ⟨t, ht, htrap⟩ := trapAt_trapped _ code ea hh'
  exact ⟨_, t, e.trans ht, htrap, coreKept_reservedFor .., rfl, act_reservedFor .., live_reservedFor ..⟩

theorem loadLanes_traps {cmask : BitVec 4} {lane : BitVec 2} {zx : BitVec 1} {off : BitVec 24} {remote : Bool} {acq : Option Nat}
    (h : Runs s g [ra]) (hloads : laneLoads s.live < 64) (hroom : laneRooms s (loadKeys cmask lane) = true) (hh : HasHandler s)
    (e : exec i s = loadLanes g cmask lane ra zx off size remote acq s) :
    let ea := s.rd ra + off.signExtend 64
    let tr := translate s (coreCluster s.issue.core) s.live.ctx ea.toNat .read
    (ea.toNat % size ≠ 0 → LaneLoadTraps i s 1 ea) ∧ (ea.toNat % size = 0 → Unmapped tr → LaneLoadTraps i s 10 ea) ∧
    (ea.toNat % size = 0 → tr = .forbidden → LaneLoadTraps i s 11 ea) := by
  intro ea tr
  let u := reservedFor s (laneLoad s ea size zx remote acq 0 0) (loadKeys cmask lane)
  have htr : translate u (coreCluster s.issue.core) u.live.ctx ea.toNat .read = tr := by
    rw [ctx_reservedFor]
    exact UnitsOnly.translate (s := s) rfl rfl ..
  have htraps {code : Nat} (ht : ∀ f, scalarAccess u ea size .read f = trapAt u code ea) : LaneLoadTraps i s code ea :=
    laneLoadTraps_of_trapAt hh ((e.trans (loadLanes_runs h hloads hroom)).trans (ht _))
  exact ⟨fun ha => htraps (scalarAccess_misaligned ha),
    fun ha hm => htraps fun f => (scalarAccess_aligned ha f).trans (strandTranslate_unmapped (htr ▸ hm) f),
    fun ha hm => htraps fun f => (scalarAccess_aligned ha f).trans (strandTranslate_forbidden (htr.trans hm) f)⟩

/-! ### The obligation -/

/-- Settles O25: each access comes to `scalarAccess` of its address (`loadReg_traps`, `storeReg_traps`, `atomicOp_traps`), a load into
lanes to that of the state with its reservations (`loadLanes_traps`), which translates as before. -/
theorem scalarAccessTraps : Obligations.ScalarAccessTraps := by
  intro s g rd ra rb cmp off off24 cmask lane w un zx acq scope ord tr traps ea
  refine ⟨fun h => ?_, fun h => ?_, ?_, fun h hloads hroom hh => ?_⟩
  · exact ⟨loadReg_traps h (exec_ld8 ..), loadReg_traps h (exec_ld16 ..), loadReg_traps h (exec_ld32 ..),
      loadReg_traps h (exec_ld64 ..), loadReg_traps h (exec_ldz8 ..), loadReg_traps h (exec_ldz16 ..), loadReg_traps h (exec_ldz32 ..)⟩
  · exact ⟨storeReg_traps h (exec_st8 ..), storeReg_traps h (exec_st16 ..), storeReg_traps h (exec_st32 ..),
      storeReg_traps h (exec_st64 ..)⟩
  · exact ⟨atomicOp_traps (exec_amoAdd ..), atomicOp_traps (exec_amoSwp ..), atomicOp_traps (exec_amoCas ..),
      atomicOp_traps (exec_amoAnd ..), atomicOp_traps (exec_amoOr ..), atomicOp_traps (exec_amoXor ..),
      atomicOp_traps (exec_amoMin ..), atomicOp_traps (exec_amoMax ..)⟩
  · have hl {i : Instr} {size : Nat} {remote : Bool} {aq : Option Nat}
        (e : exec i s = loadLanes g cmask lane ra zx off24 size remote aq s) := loadLanes_traps h hloads hroom hh e
    exact ⟨hl (exec_ldq8 ..), hl (exec_ldq16 ..), hl (exec_ldq32 ..), hl (exec_ldq64 ..), hl (exec_rldq8 ..), hl (exec_rldq16 ..),
      hl (exec_rldq32 ..), hl (exec_rldq64 ..)⟩

end Sys2Proof.Machine
end

section
/-! PROOFS. Copies at issue (R116, R122, R153, R166, R168, R170, R171, R260, R329): what stops the read of a descriptor, what an
engine does with a command that arrives, and the outcomes of COPY and COPYT. -/

namespace Sys2Proof.Machine

open Sys2Proof

variable {s t u : State} {i : Instr} {a : Word} {cl e : Nat} {c c0 : EngineCmd}

/-! ### Reads of two pages that stop (R153) -/

/-- A page that has a mapping, whether or not it allows the access. -/
def Mapped (x : Trans) : Prop := x = .forbidden ∨ ∃ pa leaf bits, x = .ok pa leaf bits

/-- The translation of a read at issue. -/
def readTrans (s : State) (x : Word) : Trans := translate s (coreCluster s.issue.core) s.live.ctx x.toNat .read

theorem mapStop_unmapped {x : Word} (h : Unmapped (readTrans s x)) : mapStop s x = some (trapAt s 10 x) := by
  unfold mapStop
  simp only [readTrans, translate] at h
  cases hl : lookupVa s (coreCluster s.issue.core) s.live.ctx x.toNat with
  | ok pa leaf bits => cases ha : leafAllows leaf .read <;> simp [hl, ha, Unmapped] at h
  | forbidden | malformed | poisoned => simp [hl, Unmapped] at h
  | noMap | onDemand => rfl

theorem mapStop_mapped {x : Word} (h : Mapped (readTrans s x)) : mapStop s x = none := by
  unfold mapStop
  simp only [readTrans, translate] at h
  cases hl : lookupVa s (coreCluster s.issue.core) s.live.ctx x.toNat with
  | ok | forbidden => rfl
  | noMap | onDemand | malformed | poisoned => simp [hl, Mapped] at h

section

variable {va : Word} {n : Nat} {f : List Byte → Out}

/-- How much of a read of `n` bytes lies in its first page. -/
def firstPart (va : Word) (n : Nat) : Nat := Nat.min n (0x4000 - va.toNat % 0x4000)

/-- The second page of a read that crosses into one. -/
def secondPage (va : Word) (n : Nat) : Word := va + BitVec.ofNat 64 (firstPart va n)

theorem strandRead_one (h : firstPart va n = n) :
    strandRead s va n f = strandTranslate s va .read fun pa _ => pageRead s pa n f := if_pos h

theorem strandRead_stopped {o : Out} (h : firstPart va n ≠ n) (hm : (mapStop s va).or (mapStop s (secondPage va n)) = some o) :
    strandRead s va n f = o := by
  refine (if_neg h).trans ?_
  rw [secondPage, firstPart] at hm
  rw [hm]

theorem strandRead_two (h : firstPart va n ≠ n) (hva : Mapped (readTrans s va)) (hvb : Mapped (readTrans s (secondPage va n))) :
    strandRead s va n f =
      strandTranslate s va .read fun pa _ => strandTranslate s (secondPage va n) .read fun pb _ =>
        pageRead s pa (firstPart va n) fun xs => pageRead s pb (n - firstPart va n) fun ys => f (xs ++ ys) := by
  have hb := mapStop_mapped hvb
  refine (if_neg h).trans ?_
  rw [secondPage, firstPart] at hb
  rw [mapStop_mapped hva, hb]
  rfl

theorem strandRead_unmapped (h : Unmapped (readTrans s va)) : strandRead s va n f = trapAt s 10 va := by
  by_cases hn : firstPart va n = n
  · exact (strandRead_one hn).trans (strandTranslate_unmapped h _)
  · exact strandRead_stopped hn (by rw [mapStop_unmapped h]; rfl)

theorem strandRead_unmapped_second (hn : firstPart va n ≠ n) (hva : Mapped (readTrans s va))
    (hvb : Unmapped (readTrans s (secondPage va n))) : strandRead s va n f = trapAt s 10 (secondPage va n) :=
  strandRead_stopped hn (by rw [mapStop_mapped hva, mapStop_unmapped hvb]; rfl)

theorem strandRead_forbidden (h : readTrans s va = .forbidden) (hvb : firstPart va n ≠ n → Mapped (readTrans s (secondPage va n))) :
    strandRead s va n f = trapAt s 11 va := by
  by_cases hn : firstPart va n = n
  · exact (strandRead_one hn).trans (strandTranslate_forbidden h _)
  · exact (strandRead_two hn (.inl h) (hvb hn)).trans (strandTranslate_forbidden h _)

theorem strandRead_forbidden_second {pa bits : Nat} {leaf : Word} (h : readTrans s va = .ok pa leaf bits)
    (hn : firstPart va n ≠ n) (hvb : readTrans s (secondPage va n) = .forbidden) :
    strandRead s va n f = trapAt s 11 (secondPage va n) := by
  have hva : Mapped (readTrans s va) := .inr ⟨pa, leaf, bits, h⟩
  have hok : translate s (coreCluster s.issue.core) s.live.ctx va.toNat .read = .ok pa leaf bits := h
  rw [strandRead_two hn hva (.inl hvb), strandTranslate, hok]
  exact strandTranslate_forbidden hvb _

end

/-! ### One engine changed (R329) -/

@[simp] theorem bte_modBte_same (s : State) (cl e : Nat) (f : Bte → Bte) : (s.modBte cl e f).bte cl e = f (s.bte cl e) := by
  simp only [State.bte, State.modBte, State.modCluster, cluster_setCluster_same, tget_tset_same]

/-- Nothing differs but one engine of a cluster. -/
structure EngineOnly (s t : State) (cl e : Nat) : Prop where
  outside : { t with clusters := s.clusters } = s
  others : ∀ m, m ≠ cl → t.cluster m = s.cluster m
  own : { t.cluster cl with btes := (s.cluster cl).btes } = s.cluster cl
  engines : ∀ d, d ≠ e → t.bte cl d = s.bte cl d

theorem EngineOnly.refl (s : State) (cl e : Nat) : EngineOnly s s cl e := ⟨rfl, fun _ _ => rfl, rfl, fun _ _ => rfl⟩

theorem EngineOnly.trans (h : EngineOnly s u cl e) (h2 : EngineOnly u t cl e) : EngineOnly s t cl e where
  outside := by rw [← h.outside, ← h2.outside]
  others m hm := (h2.others m hm).trans (h.others m hm)
  own := by rw [← h.own, ← h2.own]
  engines d hd := (h2.engines d hd).trans (h.engines d hd)

theorem EngineOnly.modBte (s : State) (cl e : Nat) (f : Bte → Bte) : EngineOnly s (s.modBte cl e f) cl e where
  outside := rfl
  others m hm := cluster_setCluster_other _ _ _ _ hm
  own := by rw [State.modBte, State.modCluster, cluster_setCluster_same]
  engines d hd := by
    simp only [State.bte, State.modBte, State.modCluster, cluster_setCluster_same]
    exact tget_tset_other _ _ _ _ _ hd

theorem EngineOnly.bte_other (h : EngineOnly s t cl e) {d f : Nat} (hdf : (d, f) ≠ (cl, e)) : t.bte d f = s.bte d f := by
  by_cases hd : d = cl
  · subst hd
    exact h.engines f fun hf => hdf (by rw [hf])
  · rw [State.bte, h.others d hd, State.bte]

theorem EngineOnly.tlb (h : EngineOnly s t cl e) : (t.cluster cl).tlb = (s.cluster cl).tlb := (congrArg Cluster.tlb h.own :)

theorem EngineOnly.units (h : EngineOnly s t cl e) : UnitsOnly s t :=
  (congrArg (fun x : State => { x with cores := s.cores, nextId := s.nextId }) h.outside :)

theorem EngineOnly.cores (h : EngineOnly s t cl e) : t.cores = s.cores := (congrArg State.cores h.outside :)

theorem EngineOnly.issue (h : EngineOnly s t cl e) : t.issue = s.issue := (congrArg State.issue h.outside :)

/-! ### Release (R171, R172) -/

/-- An engine with the commands of its vestibule whose time has come released, as far as its run queue has room. -/
def releasedBte (s : State) (cl : Nat) (b : Bte) : Bte :=
  let k := Nat.min (16 - runCount b) (releasedCount b s.now)
  { b with vest := b.vest.drop k, runq := b.runq ++ (b.vest.take k).map fun c => .cmd (admitted s cl c) }

theorem releaseDue_engineOnly (s : State) (cl e : Nat) : EngineOnly s (releaseDue s cl e) cl e := by
  simp only [releaseDue]
  split
  · exact .refl ..
  · exact .modBte ..

theorem bte_releaseDue (s : State) (cl e : Nat) : (releaseDue s cl e).bte cl e = releasedBte s cl (s.bte cl e) := by
  simp only [releaseDue]
  split
  · next h => simp [releasedBte, h]
  · exact bte_modBte_same ..

theorem UnitsOnly.admitted (h : UnitsOnly s t) (htlb : (t.cluster cl).tlb = (s.cluster cl).tlb) (c : EngineCmd) :
    admitted t cl c = admitted s cl c := by
  have hmap : pageMap t cl c.ctx = pageMap s cl c.ctx := funext fun page => by simp only [pageMap, h.lookupVa htlb]
  simp only [Machine.admitted, hmap]

/-- What a release leaves is the same in a state that translates alike. -/
theorem UnitsOnly.releasedBte (h : UnitsOnly s t) (htlb : (t.cluster cl).tlb = (s.cluster cl).tlb) (b : Bte) :
    releasedBte t cl b = releasedBte s cl b := by
  have hnow : t.now = s.now := (congrArg State.now h :)
  simp only [Machine.releasedBte, hnow, h.admitted htlb]

theorem bte_releaseDue_put (s : State) (cl e : Nat) (b : Bte) :
    (releaseDue (s.modBte cl e fun _ => b) cl e).bte cl e = releasedBte s cl b := by
  have hput := EngineOnly.modBte s cl e fun _ => b
  rw [bte_releaseDue, bte_modBte_same, hput.units.releasedBte hput.tlb]

/-! ### Arrival (R171, R329) -/

theorem arrive_engineOnly (s : State) (cl : Nat) (c : EngineCmd) : EngineOnly s (arrive s cl c) cl c.eng := by
  have hdue := releaseDue_engineOnly s cl c.eng
  simp only [arrive]
  split
  · exact hdue.trans (.modBte ..)
  · exact (hdue.trans (.modBte ..)).trans (releaseDue_engineOnly ..)

theorem bte_arrive_copy (h : c.fn = 0) : (arrive s cl c).bte cl c.eng =
    { releasedBte s cl (s.bte cl c.eng) with
      runq := (releasedBte s cl (s.bte cl c.eng)).runq ++ [.cmd (admitted s cl c)] } := by
  simp only [arrive, h, if_true, bte_modBte_same, bte_releaseDue]

/-- An engine with a COPYT in its vestibule, late when its time has passed. -/
def vestibuled (now : Nat) (c : EngineCmd) (b : Bte) : Bte :=
  { b with vest := vestInsert { c with since := Nat.max c.time now } b.vest, late := if c.time < now then b.late + 1 else b.late }

theorem bte_arrive_copyt (h : c.fn ≠ 0) : (arrive s cl c).bte cl c.eng =
    releasedBte s cl (vestibuled s.now c (releasedBte s cl (s.bte cl c.eng))) := by
  have hframe := (releaseDue_engineOnly s cl c.eng).trans (.modBte _ cl c.eng (vestibuled s.now c))
  calc (arrive s cl c).bte cl c.eng
      = (releaseDue ((releaseDue s cl c.eng).modBte cl c.eng (vestibuled s.now c)) cl c.eng).bte cl c.eng := by
        rw [arrive, if_neg h]; rfl
    _ = _ := by rw [bte_releaseDue, bte_modBte_same, bte_releaseDue, hframe.units.releasedBte hframe.tlb]

/-! ### COPY and COPYT (R168) -/

theorem tokIs_modTok (s : State) (tok : BitVec 3) (f : Token → Token) :
    TokIs s (s.modTok tok f) tok.toNat (f (s.live.tok tok.toNat)) := by
  have hlive : (s.modTok tok f).live = s.live.setTok tok.toNat (f (s.live.tok tok.toNat)) := core_setCore_same ..
  refine ⟨rfl, fun m hm => core_setCore_other _ _ _ _ hm, ?_, ?_, fun m hm => ?_⟩ <;> rw [hlive]
  · rfl
  · exact tok_setTok_same ..
  · exact tok_setTok_other _ _ hm

theorem tokIs_of_cores {n : Nat} {x : Token} (h : TokIs s u n x) (hc : t.cores = u.cores) (hi : t.issue = u.issue) : TokIs s t n x := by
  have hcore : t.core = u.core := by funext m; rw [State.core, hc]; rfl
  simpa only [TokIs, State.live, hcore, hi] using h

section

variable {fn : Nat} {tok : BitVec 3} {rs rt bx : BitVec 6} {fe : BitVec 1} {fl : BitVec 6} {scope eng : BitVec 3}
  {time : Option Word} {bs : List Byte}

/-- The engine that a copy names has room for it. -/
def copyRoom (s : State) (fn : Nat) (eng : BitVec 3) : Bool :=
  let b := s.bte (coreCluster s.issue.core) eng.toNat
  if fn = 0 then runRoom b s.now else vestRoom b s.now

/-- A copy as it is accepted. -/
def copyCmd (s : State) (i : Instr) (fn : Nat) (tok : BitVec 3) (fe : BitVec 1) (fl : BitVec 6) (scope eng : BitVec 3)
    (time : Option Word) (regs : List Word) (b : Block) (recs : List Block) : EngineCmd :=
  { mkCmd s s.nextId 0x2A fn i tok fe fl scope regs b recs with
    eng := eng.toNat, time := (time.map fun t => t.toNat).getD 0 }

theorem copyRoom_eq (s : State) (fn : Nat) (eng : BitVec 3) :
    (if fn = 0 then !runRoom (s.bte (coreCluster s.issue.core) eng.toNat) s.now
      else !vestRoom (s.bte (coreCluster s.issue.core) eng.toNat) s.now) = !copyRoom s fn eng := by
  simp only [copyRoom]; split <;> rfl

/-- A copy whose descriptor has been read. -/
def copyJudged (s : State) (i : Instr) (fn : Nat) (tok : BitVec 3) (rs rt bx : BitVec 6) (fe : BitVec 1) (fl : BitVec 6)
    (scope eng : BitVec 3) (time : Option Word) (bs : List Byte) : Out :=
  let src := handleRec s.issue.pre.recs (s.rd rs)
  let dst := handleRec s.issue.pre.recs (s.rd rt)
  match copyReason s src dst (blockOf bs) (time.map fun t => t.toNat) with
  | some r => .next (s.modTok tok fun t => t.reject r)
  | none => .next (arrive (s.takeId.2.modTok tok Token.accept) (coreCluster s.issue.core)
      (copyCmd s i fn tok fe fl scope eng time ([s.rd rs, s.rd rt, s.rd bx] ++ time.toList) (blockOf bs)
        (src.toList ++ dst.toList)))

theorem copyIssue_eq (hm : MayAccess s) : copyIssue i fn tok rs rt bx fe fl scope eng time s =
    if !cmdRoom s tok || !copyRoom s fn eng then hold s
    else if (s.rd bx).toNat % 8 ≠ 0 then trapAt s 1 (s.rd bx)
    else strandRead s (s.rd bx) 128 (copyJudged s i fn tok rs rt bx fe fl scope eng time) := by
  rw [copyIssue, memReady_of hm, ← copyRoom_eq]
  rfl

theorem copyIssue_held (hm : MayAccess s) (h : cmdRoom s tok = false ∨ copyRoom s fn eng = false) :
    copyIssue i fn tok rs rt bx fe fl scope eng time s = hold s := by
  rw [copyIssue_eq hm, if_pos]
  rcases h with h | h <;> simp [h]

theorem copyIssue_misaligned (hm : MayAccess s) (hc : cmdRoom s tok = true) (hr : copyRoom s fn eng = true)
    (ha : (s.rd bx).toNat % 8 ≠ 0) : copyIssue i fn tok rs rt bx fe fl scope eng time s = trapAt s 1 (s.rd bx) := by
  rw [copyIssue_eq hm, hc, hr]
  exact if_pos ha

theorem copyIssue_reads (hm : MayAccess s) (hc : cmdRoom s tok = true) (hr : copyRoom s fn eng = true)
    (ha : (s.rd bx).toNat % 8 = 0) : copyIssue i fn tok rs rt bx fe fl scope eng time s =
      strandRead s (s.rd bx) 128 (copyJudged s i fn tok rs rt bx fe fl scope eng time) := by
  rw [copyIssue_eq hm, hc, hr]
  exact if_neg (not_not_intro ha)

theorem copyJudged_rejects {r : BitVec 4}
    (h : copyReason s (handleRec s.issue.pre.recs (s.rd rs)) (handleRec s.issue.pre.recs (s.rd rt)) (blockOf bs)
      (time.map fun t => t.toNat) = some r) :
    copyJudged s i fn tok rs rt bx fe fl scope eng time bs = .next (s.modTok tok fun t => t.reject r) := by
  simp only [copyJudged, h]

theorem copyJudged_accepts {x y : Block} (hx : handleRec s.issue.pre.recs (s.rd rs) = some x)
    (hy : handleRec s.issue.pre.recs (s.rd rt) = some y)
    (h : copyReason s (some x) (some y) (blockOf bs) (time.map fun t => t.toNat) = none) :
    copyJudged s i fn tok rs rt bx fe fl scope eng time bs =
      .next (arrive (s.takeId.2.modTok tok Token.accept) (coreCluster s.issue.core)
        (copyCmd s i fn tok fe fl scope eng time ([s.rd rs, s.rd rt, s.rd bx] ++ time.toList) (blockOf bs) [x, y])) := by
  simp only [copyJudged, hx, hy, h, Option.toList, List.cons_append, List.nil_append]

theorem cmdOf_of_maps {op : Nat} {regs : List Word} {block : Block} {recs : List Block}
    (h : CmdOf s c0 op fn tok fe fl scope regs block recs) (hc : { c with maps := c0.maps } = c0) :
    CmdOf s c op fn tok fe fl scope regs block recs := by
  rw [← hc] at h
  exact h

end

/-- A descriptor of 128 bytes crosses into a second page. -/
theorem firstPart_descriptor (a : Word) :
    (firstPart a 128 ≠ 128 ↔ 0x3F80 < a.toNat % 0x4000) ∧ (0x3F80 < a.toNat % 0x4000 → firstPart a 128 = 0x4000 - a.toNat % 0x4000) := by
  have hmin : firstPart a 128 = min 128 (0x4000 - a.toNat % 0x4000) := rfl
  omega

theorem secondPage_descriptor {a : Word} (h : 0x3F80 < a.toNat % 0x4000) :
    secondPage a 128 = a + BitVec.ofNat 64 (0x4000 - a.toNat % 0x4000) := by
  rw [secondPage, (firstPart_descriptor a).2 h]

section

variable {fn : Nat} {tok : BitVec 3} {rs rt bx : BitVec 6} {fe : BitVec 1} {fl : BitVec 6} {scope eng : BitVec 3}
  {time : Option Word} {bs : List Byte}

theorem copyCmd_of (s : State) (i : Instr) (regs : List Word) (b : Block) (recs : List Block) :
    CmdOf s (copyCmd s i fn tok fe fl scope eng time regs b recs) 0x2A fn tok fe fl scope regs b recs :=
  ⟨rfl, rfl, rfl, rfl, rfl, rfl, rfl, rfl, rfl, rfl, rfl, rfl, rfl, rfl, rfl, rfl, rfl⟩

/-- A copy whose descriptor may not be read traps, a page without a mapping before the permission of either (R153). -/
theorem copy_traps (e : exec i s = strandRead s a 128 (copyJudged s i fn tok rs rt bx fe fl scope eng time)) :
    let vb := a + BitVec.ofNat 64 (0x4000 - a.toNat % 0x4000)
    let crosses := 0x3F80 < a.toNat % 0x4000
    (Unmapped (readTrans s a) → TrapsWith i s 10 a) ∧
    (Mapped (readTrans s a) → crosses → Unmapped (readTrans s vb) → TrapsWith i s 10 vb) ∧
    (readTrans s a = .forbidden → (crosses → Mapped (readTrans s vb)) → TrapsWith i s 11 a) ∧
    (∀ pa leaf bits, readTrans s a = .ok pa leaf bits → crosses → readTrans s vb = .forbidden → TrapsWith i s 11 vb) := by
  intro vb crosses
  have hcross : firstPart a 128 ≠ 128 ↔ crosses := (firstPart_descriptor a).1
  have hpage (h : crosses) : secondPage a 128 = vb := secondPage_descriptor h
  refine ⟨fun h => ?_, fun h hc hb => ?_, fun h hb => ?_, fun pa leaf bits h hc hb => ?_⟩
  · exact trapsWith_of_trapAt (e.trans (strandRead_unmapped h))
  · rw [← hpage hc] at hb ⊢
    exact trapsWith_of_trapAt (e.trans (strandRead_unmapped_second (hcross.2 hc) h hb))
  · refine trapsWith_of_trapAt (e.trans (strandRead_forbidden h fun hn => ?_))
    rw [hpage (hcross.1 hn)]
    exact hb (hcross.1 hn)
  · rw [← hpage hc] at hb ⊢
    exact trapsWith_of_trapAt (e.trans (strandRead_forbidden_second h (hcross.2 hc) hb))

end

/-! ### The obligation -/

/-- Settles O30: what holds or traps a copy is decided before its descriptor is read (`copyIssue_held`, `copyIssue_misaligned`,
`copy_traps`); then `copyJudged` rejects it or lets it arrive, as `bte_arrive_copy` and `bte_arrive_copyt` say. -/
theorem copiesIssue : Obligations.CopiesIssue := by
  intro s g rs rt bx tr tok fe fl scope eng bs hruns hm cl e e1 a b src dst tk look gone there crosses vb judged tm
  let s1 := s.takeId.2.modTok tok Token.accept
  have hunits : UnitsOnly s s1 := rfl
  have hjudged {i : Instr} {fn : Nat} (time : Option Word) {room : Bool} {regs : List Word} {after : EngineCmd → Bte}
      (hroom : copyRoom s fn eng = room) (hregs : [s.rd rs, s.rd rt, a] ++ time.toList = regs)
      (hexec : exec i s = copyIssue i fn tok rs rt bx fe fl scope eng time s)
      (harrive : ∀ c0 : EngineCmd, c0.eng = eng.toNat → c0.fn = fn → c0.time = (time.map fun t => t.toNat).getD 0 →
        ∃ c, { c with maps := c0.maps } = c0 ∧ (arrive s1 cl c0).bte cl c0.eng = after c) :
      judged i fn (time.map fun t => t.toNat) room regs after := by
    subst hroom hregs
    refine ⟨fun h => hexec.trans (copyIssue_held hm h), fun hc hr => ⟨fun ha => ?_, fun ha => ?_, fun ha hread => ⟨fun r h => ?_, ?_⟩⟩⟩
    · exact trapsWith_of_trapAt (hexec.trans (copyIssue_misaligned hm hc hr ha))
    · exact copy_traps (hexec.trans (copyIssue_reads hm hc hr ha))
    · have hrun := (hexec.trans (copyIssue_reads hm hc hr ha)).trans ((strandRead_reads hread _).trans (copyJudged_rejects h))
      exact ⟨_, hrun, .setCore .., tokIs_modTok ..⟩
    · intro x y hx hy h
      rw [hx, hy] at h
      have hrun := (hexec.trans (copyIssue_reads hm hc hr ha)).trans ((strandRead_reads hread _).trans (copyJudged_accepts hx hy h))
      obtain ⟨c, hmaps, hbte⟩ := harrive (copyCmd s i fn tok fe fl scope eng time ([s.rd rs, s.rd rt, a] ++ time.toList) b [x, y])
        rfl rfl rfl
      have hframe := arrive_engineOnly s1 cl
        (copyCmd s i fn tok fe fl scope eng time ([s.rd rs, s.rd rt, a] ++ time.toList) b [x, y])
      have htok : TokIs s s1 tok.toNat tk.accept := tokIs_modTok s.takeId.2 tok Token.accept
      exact ⟨_, c, hrun, tokIs_of_cores htok hframe.cores hframe.issue, cmdOf_of_maps (copyCmd_of ..) hmaps,
        (congrArg EngineCmd.eng hmaps :), (congrArg EngineCmd.time hmaps :), hbte, fun d f h => hframe.bte_other h,
        hunits.trans hframe.units⟩
  have hbase : releasedBte s1 cl (s1.bte cl eng.toNat) = e1 :=
    (hunits.releasedBte rfl _).trans (bte_releaseDue s cl eng.toNat).symm
  constructor
  · refine hjudged none rfl rfl ((exec_copy ..).trans (guarded_ready ?_ _)) fun c0 heng hfn htime => ⟨admitted s1 cl c0, rfl, ?_⟩
    · exact ⟨hruns.1, fun n hn => hruns.2 n (List.mem_append_left [tr] hn)⟩
    · rw [bte_arrive_copy hfn, heng, hbase]
  · refine hjudged (some (s.rd tr)) rfl rfl ((exec_copyt ..).trans (guarded_ready hruns _)) fun c0 heng hfn htime => ⟨c0, rfl, ?_⟩
    have htm : c0.time = tm := htime
    have hnow : s1.now = s.now := rfl
    calc (arrive s1 cl c0).bte cl c0.eng
        = releasedBte s cl (vestibuled s.now c0 e1) := by
          rw [bte_arrive_copyt (by omega), heng, hbase, hunits.releasedBte rfl, hnow]
      _ = _ := by
          rw [vestibuled, htm]
          exact (bte_releaseDue_put ..).symm

end Sys2Proof.Machine
end

section
/-! PROOFS. Promotions at issue (R116, R176, R285, R364): which ranges are good, and what an accepted promotion posts and moves. -/

namespace Sys2Proof.Machine

open Sys2Proof

variable {s : State} {g ra rb dr : BitVec 6} {tok : BitVec 3} {lu : BitVec 1} {a len : Nat}

theorem promoteOk_iff (a len : Word) : promoteOk a len = true ↔
    a.toNat % 0x4000 = 0 ∧ len.toNat % 0x4000 = 0 ∧ 0 < len.toNat ∧ len.toNat ≤ 2 ^ 40 := by
  have hne : len ≠ 0 ↔ 0 < len.toNat := by rw [Nat.pos_iff_ne_zero, ne_eq, ← BitVec.toNat_inj]; rfl
  simp only [promoteOk, Bool.and_eq_true, beq_iff_eq, bne_iff_ne, decide_eq_true_eq, hne, and_assoc]

theorem promote_runs (h : Runs s g [ra, rb, dr]) (hm : MayAccess s) : exec (.promote g tok ra rb dr lu) s =
    if (s.live.tok tok.toNat).count = 63 then hold s
    else if !promoteOk (s.rd ra) (s.rd rb) then .next (s.modTok tok fun t => t.reject 8)
    else .next (promoteAccepted s tok (s.rd ra).toNat (s.rd rb).toNat (s.rd dr) (lu == 1)) := by
  rw [exec_promote, execPromote, guarded_ready h, memReady_of hm]

/-! ### The moves that are asked for -/

/-- The page of an address that a promotion by the acting strand moves, as its far frame. -/
def movable (s : State) (va : Nat) : Option Nat := promotable s (coreCluster s.issue.core) s.live.ctx va

/-- The move that a promotion asks for at a page, `x.2` its number among the pages. -/
def askedMove (s : State) (tok : BitVec 3) (id cmd deadline : Nat) (lu : Bool) (x : Nat × Nat) : Option PageMove :=
  (movable s x.1).map fun pa =>
    { id := id + x.2, ctx := s.live.ctx, core := s.issue.core, task := s.live.task, tok := tok.toNat, cmd := cmd,
      va := x.1, old := pa, new := 0, lu := lu, deadline := deadline, st := .wait, copied := 0, read := 0,
      wrote := 0, inval := none }

theorem promoteMoves_eq (s : State) (tok : BitVec 3) (id cmd deadline : Nat) (lu : Bool) (vas : List Nat) :
    promoteMoves s tok id cmd deadline lu vas = vas.zipIdx.filterMap (askedMove s tok id cmd deadline lu) := by
  refine congrArg (fun f => vas.zipIdx.filterMap f) (funext fun x => ?_)
  simp only [askedMove, movable]
  split <;> next h => simp only [h, Option.map_none, Option.map_some]

theorem filterMap_askedMove_va (s : State) (tok : BitVec 3) (id cmd deadline : Nat) (lu : Bool) (vas : List Nat) (k : Nat) :
    ((vas.zipIdx k).filterMap (askedMove s tok id cmd deadline lu)).map (fun m => m.va) =
      vas.filter fun v => (movable s v).isSome := by
  induction vas generalizing k with
  | nil => rfl
  | cons v vs ih => cases h : movable s v <;> simp [askedMove, h, ih]

/-- The pages that are moved are those that may be, in order. -/
theorem promoteMoves_va (s : State) (tok : BitVec 3) (id cmd deadline : Nat) (lu : Bool) (vas : List Nat) :
    (promoteMoves s tok id cmd deadline lu vas).map (fun m => m.va) = vas.filter fun v => (movable s v).isSome := by
  rw [promoteMoves_eq, filterMap_askedMove_va]

theorem mem_promoteMoves {id cmd deadline : Nat} {lu : Bool} {vas : List Nat} {m : PageMove}
    (h : m ∈ promoteMoves s tok id cmd deadline lu vas) :
    m.ctx = s.live.ctx ∧ m.core = s.issue.core ∧ m.tok = tok.toNat ∧ m.lu = lu ∧ m.deadline = deadline ∧ m.st = .wait ∧
      movable s m.va = some m.old := by
  rw [promoteMoves_eq] at h
  obtain ⟨x, -, hx⟩ := List.mem_filterMap.mp h
  obtain ⟨pa, hpa, rfl⟩ := Option.map_eq_some_iff.mp hx
  exact ⟨rfl, rfl, rfl, rfl, rfl, rfl, hpa⟩

theorem promoteMoves_isEmpty_iff {id cmd deadline : Nat} {lu : Bool} {vas : List Nat} :
    (promoteMoves s tok id cmd deadline lu vas).isEmpty = true ↔ ∀ v ∈ vas, movable s v = none := by
  rw [← List.isEmpty_map (f := fun m : PageMove => m.va), promoteMoves_va, List.isEmpty_iff, List.filter_eq_nil_iff]
  simp only [Option.not_isSome_iff_eq_none]

/-! ### An accepted promotion -/

/-- The fault record of the first page of a range that has a fault. -/
def promotePosts (s : State) (a len : Nat) : List FaultRec :=
  ((pagesOf a len).findSome? fun v => promoteFault s (coreCluster s.issue.core) s.live.ctx v).toList

/-- A promotion posts the fault that it meets, then completes at once or asks for its moves. -/
theorem promoteAccepted_eq (deadline : Word) (lu : Bool) :
    let t := { s with posts := s.posts ++ promotePosts s a len }
    let ms := promoteMoves s tok (s.nextId + 1) s.nextId deadline.toNat lu (pagesOf a len)
    promoteAccepted s tok a len deadline lu =
      if ms.isEmpty then countLate t s.live.ctx deadline.toNat
      else { t.modTok tok Token.accept with moves := t.moves ++ ms, nextId := t.nextId + 1 + (pagesOf a len).length } := by
  intro t ms
  have ht : (match (pagesOf a len).findSome? fun v => promoteFault s (coreCluster s.issue.core) s.live.ctx v with
      | none => s
      | some f => { s with posts := s.posts ++ [f] }) = t := by
    simp only [t, promotePosts]
    split <;> next h => simp only [h, Option.toList, List.append_nil]
  rw [← ht]
  rfl

/-! ### The obligation -/

/-- Settles O32: a promotion is held, rejected, or accepted by its range (`promote_runs`, `promoteOk_iff`); an accepted one does as
`promoteAccepted_eq` says, with the moves of `promoteMoves_va` and `mem_promoteMoves`. -/
theorem promotions : Obligations.Promotions := by
  intro s g ra rb dr tok lu hruns hm i tk cl a len good page posts
  have hrun := promote_runs (tok := tok) (lu := lu) hruns hm
  have hpage (v : Nat) : v ∈ pagesOf a len ↔ ∃ j, j < len / 0x4000 ∧ page j = v := by simp [pagesOf, page]
  have haccepted (hc : tk.count ≠ 63) (hgood : good) :
      exec i s = .next (promoteAccepted s tok a len (s.rd dr) (lu == 1)) := by
    rw [hrun, if_neg hc, (promoteOk_iff ..).2 hgood]
    rfl
  refine ⟨fun hc => hrun.trans (if_pos hc), fun hc hbad => ?_, fun hc hgood => ⟨fun hnone => ?_, fun j pa hj hpa => ?_⟩⟩
  · have hno : promoteOk (s.rd ra) (s.rd rb) = false := Bool.eq_false_iff.2 fun h => hbad ((promoteOk_iff ..).1 h)
    refine ⟨s.modTok tok fun t => t.reject 8, ?_, .setCore .., tokIs_modTok ..⟩
    rw [hrun, if_neg hc, hno]
    rfl
  · have hempty := (promoteMoves_isEmpty_iff (s := s) (tok := tok) (id := s.nextId + 1) (cmd := s.nextId)
      (deadline := (s.rd dr).toNat) (lu := lu == 1) (vas := pagesOf a len)).2 fun v hv => by
        obtain ⟨j, hj, rfl⟩ := (hpage v).1 hv
        exact hnone j hj
    rw [haccepted hc hgood, promoteAccepted_eq, if_pos hempty]
    rfl
  · have hsome : ¬(promoteMoves s tok (s.nextId + 1) s.nextId (s.rd dr).toNat (lu == 1) (pagesOf a len)).isEmpty = true := fun h =>
      Option.some_ne_none pa (hpa.symm.trans (promoteMoves_isEmpty_iff.1 h _ ((hpage _).2 ⟨j, hj, rfl⟩)))
    refine ⟨_, promoteMoves s tok (s.nextId + 1) s.nextId (s.rd dr).toNat (lu == 1) (pagesOf a len),
      (haccepted hc hgood).trans (congrArg _ ((promoteAccepted_eq ..).trans (if_neg hsome))), ?_, rfl, rfl, rfl,
      fun m hm => mem_promoteMoves hm, promoteMoves_va ..⟩
    exact tokIs_of_cores (tokIs_modTok s tok Token.accept) rfl rfl

end Sys2Proof.Machine
end

section
/-! PROOFS. Copies and commands in progress (R116, R168, R171, R284, R301, R329, R330): what an engine's accesses leave alone, what
the completion of a command changes, and the engines' events. -/

namespace Sys2Proof.Machine

open Sys2Proof

variable {s t u : State} {c : EngineCmd} {cl e : Nat}

/-! ### What writes to memory change -/

/-- Nothing differs but memory, what stands with it, and the numbers given out. -/
def MemoryOnly (s t : State) : Prop :=
  { t with mem := s.mem, poison := s.poison, zeros := s.zeros, moves := s.moves, hist := s.hist, nextId := s.nextId } = s

theorem MemoryOnly.refl (s : State) : MemoryOnly s s := rfl

theorem MemoryOnly.trans (h : MemoryOnly s u) (h2 : MemoryOnly u t) : MemoryOnly s t := by
  unfold MemoryOnly at *
  rw [← h, ← h2]

theorem MemoryOnly.foldl {α : Type} (f : State → α → State) (hf : ∀ t x, MemoryOnly t (f t x)) (xs : List α) (s : State) :
    MemoryOnly s (xs.foldl f s) := by
  induction xs generalizing s with
  | nil => exact .refl s
  | cons x xs ih => exact (hf s x).trans (ih _)

/-- The same for a fold whose state stands beside something else. -/
theorem MemoryOnly.foldl_fst {α β : Type} (f : State × β → α → State × β) (hf : ∀ t x, MemoryOnly t.1 (f t x).1) (xs : List α)
    (a : State × β) : MemoryOnly a.1 (xs.foldl f a).1 := by
  induction xs generalizing a with
  | nil => exact .refl a.1
  | cons x xs ih => exact (hf a x).trans (ih _)

theorem MemoryOnly.cores (h : MemoryOnly s t) : t.cores = s.cores := (congrArg State.cores h :)

theorem MemoryOnly.clusters (h : MemoryOnly s t) : t.clusters = s.clusters := (congrArg State.clusters h :)

theorem writeGranule_memoryOnly (z : Bool) (s : State) (pa : Nat) (bs : List Byte) (g : Nat) :
    MemoryOnly s (writeGranule z s pa bs g).1 := by
  simp only [writeGranule]; split_ifs <;> rfl

theorem writeHome_memoryOnly (z : Bool) (s : State) (pa : Nat) (bs : List Byte) : MemoryOnly s (writeHome z s pa bs).1 := by
  unfold writeHome
  split
  · rfl
  · exact .foldl_fst _ (fun a g => by exact writeGranule_memoryOnly z a.1 pa bs g) _ (s, none)

theorem copyGranule_memoryOnly (z : Bool) (s : State) (a b : Nat) : MemoryOnly s (copyGranule z s a b) := by
  simp only [copyGranule]
  split_ifs
  · rfl
  · rfl
  · exact writeHome_memoryOnly ..

theorem copyTouched_memoryOnly (z : Bool) (s : State) (a b pa n : Nat) : MemoryOnly s (copyTouched z s a b pa n) := by
  refine .foldl _ (fun t i => ?_) _ s
  split
  · exact .foldl _ (fun _ _ => copyGranule_memoryOnly ..) _ t
  · rfl

theorem mirrorWrite_memoryOnly (z : Bool) (pa : Nat) (bs : List Byte) (a : State × List PageMove) (m : PageMove) :
    MemoryOnly a.1 (mirrorWrite z pa bs a m).1 := by
  simp only [mirrorWrite]
  split_ifs
  · exact copyTouched_memoryOnly ..
  · exact copyTouched_memoryOnly ..
  · rfl
  · rfl

theorem writePhys_memoryOnly (z : Bool) (s : State) (pa : Nat) (bs : List Byte) : MemoryOnly s (writePhys z s pa bs).1 := by
  have hhome := writeHome_memoryOnly z s pa bs
  simp only [writePhys]
  split_ifs
  · rfl
  · exact hhome
  · have hmirror := MemoryOnly.foldl_fst (mirrorWrite z pa bs) (mirrorWrite_memoryOnly z pa bs) s.moves ((writeHome z s pa bs).1, [])
    exact (hhome.trans hmirror).trans rfl

theorem noteElems_memoryOnly (s : State) (p : Party) (cl : Nat) (ctx : BitVec 12) (r : Block) (is : List (List (Nat × Nat))) :
    MemoryOnly s (s.noteElems p cl ctx r is) := by
  have hnote (t : State) (g : Nat) : MemoryOnly t (t.noteOld p g 1) := by
    unfold State.noteOld
    split
    · rfl
    · exact .foldl _ (fun _ _ => by rfl) _ t
  unfold State.noteElems
  split
  · rfl
  · exact .foldl _ hnote _ s

theorem clearCovered_memoryOnly (s : State) (cl : Nat) (ctx : BitVec 12) (r : Block) (is : List (List (Nat × Nat))) :
    MemoryOnly s (clearCovered s cl ctx r is) := by
  simp only [clearCovered]; split <;> rfl

theorem markElem_memoryOnly (s : State) (cl : Nat) (ctx : BitVec 12) (r : Block) (idx : List (Nat × Nat)) :
    MemoryOnly s (markElem s cl ctx r idx) := by
  simp only [markElem, markRead]
  split_ifs
  · rfl
  · split <;> rfl

theorem writeElem_memoryOnly {ctx : BitVec 12} {r : Block} {idx : List (Nat × Nat)} {x : Nat}
    (h : writeElem s cl ctx r idx x = .ok t) : MemoryOnly s t := by
  simp only [writeElem] at h
  split at h <;> try cases h
  split at h <;> cases h
  exact writePhys_memoryOnly ..

/-! ### What a copy leaves alone -/

/-- What a function of a cluster finds in every cluster once one has changed in nothing that it reads. -/
theorem cluster_modCluster {α : Type} (p : Cluster → α) {f : Cluster → Cluster} (hf : ∀ x, p (f x) = p x) (s : State) (n m : Nat) :
    p ((s.modCluster n f).cluster m) = p (s.cluster m) := by
  by_cases h : m = n
  · rw [h, State.modCluster, cluster_setCluster_same, hf]
  · rw [State.modCluster, cluster_setCluster_other _ _ _ _ h]

/-- The cores and the queues of the block-transfer engines are as they were. -/
structure EnginesKept (s t : State) : Prop where
  cores : t.cores = s.cores
  btes : ∀ m, (t.cluster m).btes = (s.cluster m).btes

theorem EnginesKept.trans (h : EnginesKept s u) (h2 : EnginesKept u t) : EnginesKept s t :=
  ⟨h2.cores.trans h.cores, fun m => (h2.btes m).trans (h.btes m)⟩

theorem EnginesKept.modCluster (s : State) (n : Nat) {f : Cluster → Cluster} (hf : ∀ x, (f x).btes = x.btes) :
    EnginesKept s (s.modCluster n f) := ⟨rfl, cluster_modCluster (fun x => x.btes) hf s n⟩

theorem MemoryOnly.enginesKept (h : MemoryOnly s t) : EnginesKept s t :=
  ⟨h.cores, fun m => by rw [State.cluster, h.clusters, State.cluster]⟩

theorem EnginesKept.bte (h : EnginesKept s t) (cl e : Nat) : t.bte cl e = s.bte cl e := by rw [State.bte, h.btes, State.bte]

theorem EnginesKept.core (h : EnginesKept s t) (n : Nat) : t.core n = s.core n := core_of_cores h.cores n

theorem engineWrite_enginesKept {own : Option Nat} {ctx : BitVec 12} {r : Block} {idx : List Nat} {x : Nat}
    (h : engineWrite s own cl ctx r idx x = .ok t) : EnginesKept s t := by
  simp only [engineWrite] at h
  split at h
  · cases h
  · next u hu =>
    have hu := (writeElem_memoryOnly hu).enginesKept
    split at h
    · cases h; exact hu
    · split at h <;> cases h
      · exact hu
      · exact hu.trans (.modCluster _ _ fun _ => rfl)

theorem copyElem_enginesKept {s0 v : State} {x : List Nat} {r : State × State} (h : copyElem s0 cl c v s x = .ok r) :
    EnginesKept s r.2 := by
  simp only [copyElem] at h
  split at h
  · cases h
  · cases h
  · split at h
    · cases h
    · cases h
    · next hw =>
      cases h
      refine EnginesKept.trans ?_ (engineWrite_enginesKept hw)
      have hmark : EnginesKept s (if outside (c.recs.getD 0 0) (addIdx (boxList c.block 0x08) x) then s
          else markElem s cl c.ctx (c.recs.getD 0 0) (pairIdx (c.recs.getD 0 0) (addIdx (boxList c.block 0x08) x))) := by
        split
        · exact (MemoryOnly.refl s).enginesKept
        · exact (markElem_memoryOnly ..).enginesKept
      split
      · exact hmark
      · exact hmark.trans ⟨rfl, fun _ => rfl⟩

theorem copyFrom_enginesKept {s0 : State} (xs : List (List Nat)) {v s : State} (h : copyFrom s0 cl c xs v s = .ok t) :
    EnginesKept s t := by
  induction xs generalizing v s with
  | nil => cases h; exact (MemoryOnly.refl _).enginesKept
  | cons x xs ih =>
    simp only [copyFrom] at h
    split at h
    · cases h
    · next hx => exact (copyElem_enginesKept hx).trans (ih h)

theorem copyAll_enginesKept (h : copyAll s cl c = .ok t) : EnginesKept s t :=
  ((noteElems_memoryOnly ..).trans (clearCovered_memoryOnly ..)).enginesKept.trans (copyFrom_enginesKept _ h)

/-- A copy changes no core and no engine's queue. -/
theorem performCopy_enginesKept (h : performCopy s cl c = .ok t) : EnginesKept s t := by
  simp only [performCopy] at h
  split at h
  · exact copyAll_enginesKept h
  · split at h
    · cases h
    · next hu =>
      cases h
      exact ((EnginesKept.modCluster s cl fun _ => by rfl).trans (copyAll_enginesKept hu)).trans (.modCluster _ _ fun _ => rfl)

/-! ### Completion (R116, R301) -/

/-- A core with a command's token and flag after it. -/
def endedCore (c : EngineCmd) (x : Core) : Core :=
  let y := x.setTok c.tok (x.tok c.tok).complete
  if c.fe then y.setFlag c.flag (y.flag c.flag + 1) else y

theorem endedCore_tok (c : EngineCmd) (x : Core) (i : Nat) :
    (endedCore c x).tok i = if i = c.tok then (x.tok i).complete else x.tok i := by
  have hset : (endedCore c x).tok i = (x.setTok c.tok (x.tok c.tok).complete).tok i := by
    simp only [endedCore]; split <;> rfl
  rw [hset]
  split
  · next h => rw [h, tok_setTok_same]
  · next h => exact tok_setTok_other _ _ h

theorem endedCore_flag (c : EngineCmd) (x : Core) (i : Nat) :
    (endedCore c x).flag i = if c.fe = true ∧ i = c.flag then x.flag i + 1 else x.flag i := by
  simp only [endedCore]
  by_cases hfe : c.fe = true
  · by_cases hi : i = c.flag
    · rw [if_pos hfe, if_pos ⟨hfe, hi⟩, hi, flag_setFlag_same]; rfl
    · rw [if_pos hfe, if_neg fun h => hi h.2, flag_setFlag_other _ _ hi]; rfl
  · rw [if_neg hfe, if_neg fun h => hfe h.1]; rfl

theorem endedCore_kept (c : EngineCmd) (x : Core) : { endedCore c x with toks := x.toks, flags := x.flags } = x := by
  simp only [endedCore]; split <;> rfl

/-- A state whose cores are those of `s` but for a command's token and flag. -/
theorem cmdEnds_of_cores (h : t.cores = tput s.cores c.core (endedCore c (s.core c.core))) : CmdEnds s t c := by
  have hown : t.core c.core = endedCore c (s.core c.core) := by rw [State.core, h]; exact tget_tput_same ..
  refine ⟨fun m hm => ?_, ?_, fun i => ?_, fun i => ?_⟩
  · rw [State.core, h]; exact tget_tput_other _ _ _ _ _ hm
  · rw [hown]; exact endedCore_kept ..
  · rw [hown]; exact endedCore_tok ..
  · rw [hown]; exact endedCore_flag ..

theorem completeCmd_cores (h : (s.core c.core).task = c.task) :
    (completeCmd s c).cores = tput s.cores c.core (endedCore c (s.core c.core)) := by
  rw [completeCmd, if_pos h]
  by_cases hfe : c.fe = true <;> simp only [hfe, if_true, endedCore] <;> rfl

/-- Completion changes a token and a flag, drops hall lines, and tells of the release. -/
theorem completeCmd_outside (s : State) (c : EngineCmd) :
    { completeCmd s c with cores := s.cores, clusters := s.clusters, hist := s.hist, reqs := s.reqs } = s := by
  simp only [completeCmd]; split_ifs <;> rfl

theorem completeCmd_clusters (s : State) (c : EngineCmd) :
    (completeCmd s c).clusters = s.clusters ∨
      (completeCmd s c).clusters = (s.modCluster (coreCluster c.core) dropHallClean).clusters := by
  simp only [completeCmd]
  split_ifs
  · exact .inr rfl
  · exact .inl rfl
  · exact .inl rfl

/-- What a function that reads no hall finds in a cluster after a completion. -/
theorem cluster_completeCmd {α : Type} (p : Cluster → α) (hp : ∀ x, p (dropHallClean x) = p x) (s : State) (c : EngineCmd) (m : Nat) :
    p ((completeCmd s c).cluster m) = p (s.cluster m) := by
  rcases completeCmd_clusters s c with h | h <;> rw [State.cluster, h]
  · rfl
  · exact cluster_modCluster p hp s _ m

theorem completeCmd_mem (s : State) (c : EngineCmd) : (completeCmd s c).mem = s.mem := (congrArg State.mem (completeCmd_outside s c) :)

/-! ### The events of the block-transfer engines -/

theorem copyStart_begins {rest : List RunEntry} (hq : ((releaseDue s cl e).bte cl e).runq = .cmd c :: rest)
    (hroom : ((releaseDue s cl e).bte cl e).act.length < 4) (hp : performCopy (releaseDue s cl e) cl c = .ok u) :
    exec (.copyStart cl e) s =
      .next ((releaseDue s cl e).modBte cl e fun b => { b with runq := rest, act := b.act ++ [{ c with begun := true }] }) := by
  rw [exec_copyStart]
  simp only [execCopyStart, hq, hp, Nat.not_le.mpr hroom, if_false]

/-- COPY_COMPLETE of a command that has not faulted and waits for no earlier one. -/
theorem copyComplete_runs {i : Nat} (hc : (s.bte cl e).act[i]? = some c) (hf : c.failed = false) (ho : olderCopy s cl c = false) :
    exec (.copyComplete cl e i) s = .next (if c.done then endCopy s cl e c else finishCopy true s cl e c) := by
  rw [exec_copyComplete]
  simp only [execCopyComplete, hc, hf, ho, Bool.or_false, Bool.false_eq_true, if_false]

/-- A completed copy leaves its engine, its token and flag count it, and memory stays. -/
theorem endCopy_ends (h : EnginesKept s u) (htask : (s.core c.core).task = c.task) :
    CmdEnds s (endCopy u cl e c) c ∧ (endCopy u cl e c).mem = u.mem ∧
      ((endCopy u cl e c).bte cl e).act = (s.bte cl e).act.filter (fun x => x.id != c.id) ∧
      ((endCopy u cl e c).bte cl e).runq = (s.bte cl e).runq := by
  let v := u.modBte cl e fun b => { b with act := b.act.filter fun x => x.id != c.id }
  have hbte : (endCopy u cl e c).bte cl e = { s.bte cl e with act := (s.bte cl e).act.filter fun x => x.id != c.id } := by
    rw [← h.bte]
    exact (cluster_completeCmd (fun x => (tget {} x.btes e : Bte)) (fun _ => rfl) v c cl).trans (bte_modBte_same ..)
  have hcores : (endCopy u cl e c).cores = tput s.cores c.core (endedCore c (s.core c.core)) := by
    have hcore : v.core c.core = s.core c.core := h.core c.core
    have hend := completeCmd_cores (s := v) (c := c) ((congrArg Core.task hcore).trans htask)
    rw [hcore] at hend
    rw [← h.cores]
    exact hend
  exact ⟨cmdEnds_of_cores hcores, completeCmd_mem .., by rw [hbte], by rw [hbte]⟩

/-! ### Markers (R284, R330) -/

theorem markerRemove_runs {id : Nat} {rest : List RunEntry} (hq : (s.bte cl e).runq = .marker id :: rest)
    (hact : (s.bte cl e).act = []) : exec (.markerRemove cl e) s =
      .next (markerGone (s.modBte cl e fun b => { b with runq := rest }) id (8 * cl + e)) := by
  rw [exec_markerRemove]
  simp only [execMarkerRemove, hq, hact, List.isEmpty_nil, if_true]

theorem markerGone_more {id i : Nat} {v : Inval} (hv : (s.invals.find? fun x => x.id == id) = some v)
    (h : (v.left.filter fun x => x != i) ≠ []) : markerGone s id i =
      { s with invals := s.invals.map fun x => if x.id = id then { x with left := v.left.filter fun x => x != i } else x } := by
  simp only [markerGone, hv, List.isEmpty_iff, h, if_false]

theorem markerGone_last {id i : Nat} {v : Inval} (hv : (s.invals.find? fun x => x.id == id) = some v)
    (h : (v.left.filter fun x => x != i) = []) : markerGone s id i =
      let u := { s with invals := s.invals.filter fun x => x.id != id }
      if v.notify then postNote u v.ctx 0 4 4 0 0 else u := by
  simp only [markerGone, hv, h, List.isEmpty_nil, if_true]

/-! ### The commands of every engine -/

/-- The commands that a cluster's engines hold. -/
def clusterCmds (x : Cluster) : List EngineCmd := (x.btes.flatMap fun b => b.2.cmds) ++ x.selq ++ x.lndq

/-- The commands that a die's engines hold. -/
def dieCmds (x : Die) : List EngineCmd := x.rteq ++ x.collq

theorem mem_allCmds {x : EngineCmd} : x ∈ allCmds s ↔
    (∃ y ∈ s.clusters, x ∈ clusterCmds y.2) ∨ (∃ y ∈ s.dies, x ∈ dieCmds y.2) ∨
      ∃ y ∈ s.tasks, x ∈ (if y.saved then [] else y.cmds) := by
  simp only [allCmds, clusterCmds, dieCmds, List.mem_append, List.mem_flatMap, or_assoc]

/-- What a table lists under some key it goes on listing when another value that holds as much is put at a key. -/
theorem exists_mem_tput {α : Type} (d : α) (p : α → Prop) {n : Nat} {x : α} (t : Tab α) (hx : p (tget d t n) → p x)
    (h : ∃ y ∈ t, p y.2) : ∃ y ∈ tput t n x, p y.2 := by
  induction t with
  | nil => obtain ⟨y, hy, -⟩ := h; cases hy
  | cons a t ih =>
    obtain ⟨k, v⟩ := a
    obtain ⟨y, hy, hpy⟩ := h
    simp only [tget] at hx
    simp only [tput]
    split_ifs with hlt heq
    · exact ⟨y, List.mem_cons_of_mem _ hy, hpy⟩
    · rw [if_pos heq.symm] at hx
      rcases List.mem_cons.mp hy with rfl | hy
      · exact ⟨_, List.mem_cons_self, hx hpy⟩
      · exact ⟨y, List.mem_cons_of_mem _ hy, hpy⟩
    · rw [if_neg (Ne.symm heq)] at hx
      rcases List.mem_cons.mp hy with rfl | hy
      · exact ⟨_, List.mem_cons_self, hpy⟩
      · obtain ⟨z, hz, hpz⟩ := ih hx ⟨y, hy, hpy⟩
        exact ⟨z, List.mem_cons_of_mem _ hz, hpz⟩

theorem allCmds_modCluster {n : Nat} {f : Cluster → Cluster} (hf : ∀ x, clusterCmds (f x) = clusterCmds x) {x : EngineCmd}
    (h : x ∈ allCmds s) : x ∈ allCmds (s.modCluster n f) := by
  rw [mem_allCmds] at h ⊢
  exact h.imp (exists_mem_tput {} (fun y => x ∈ clusterCmds y) s.clusters fun hx => (hf _).symm ▸ hx) id

theorem allCmds_congr (hc : t.clusters = s.clusters) (hd : t.dies = s.dies) (ht : t.tasks = s.tasks) : allCmds t = allCmds s := by
  rw [allCmds, hc, hd, ht, allCmds]

theorem allCmds_completeCmd {x : EngineCmd} (h : x ∈ allCmds s) (c : EngineCmd) : x ∈ allCmds (completeCmd s c) := by
  have hdies : (completeCmd s c).dies = s.dies := (congrArg State.dies (completeCmd_outside s c) :)
  have htasks : (completeCmd s c).tasks = s.tasks := (congrArg State.tasks (completeCmd_outside s c) :)
  rcases completeCmd_clusters s c with hc | hc
  · rwa [allCmds_congr hc hdies htasks]
  · rw [allCmds_congr (s := s.modCluster (coreCluster c.core) dropHallClean) hc hdies htasks]
    exact allCmds_modCluster (f := dropHallClean) (fun _ => rfl) h

theorem allCmds_tidySlots (s : State) : allCmds (tidySlots s) = allCmds s := by
  simp only [allCmds, tidySlots, List.flatMap_map]

/-- The end of a round changes a slot of a Landing. -/
theorem endRound_eq (s : State) (c : EngineCmd) :
    endRound s c = s ∨ ∃ n f, (∀ x : Cluster, { f x with slots := x.slots } = x) ∧ endRound s c = s.modCluster n f := by
  simp only [endRound]
  split
  · exact .inr ⟨_, _, fun _ => by rfl, rfl⟩
  · exact .inl rfl

theorem allCmds_endRound {x : EngineCmd} (h : x ∈ allCmds s) (c : EngineCmd) : x ∈ allCmds (endRound s c) := by
  rcases endRound_eq s c with hs | ⟨n, f, hf, hs⟩ <;> rw [hs]
  · exact h
  · exact allCmds_modCluster (f := f) (fun y => (congrArg clusterCmds (hf y) :)) h

theorem allCmds_dropEngineCmd {x : EngineCmd} {id : Nat} (h : x ∈ allCmds s) (hid : x.id ≠ id) : x ∈ allCmds (s.dropEngineCmd id) := by
  rw [mem_allCmds] at h ⊢
  simp only [State.dropEngineCmd]
  rcases h with ⟨y, hy, hx⟩ | ⟨y, hy, hx⟩ | h
  · exact .inl ⟨_, List.mem_map_of_mem hy, by simpa [clusterCmds, hid] using hx⟩
  · exact .inr (.inl ⟨_, List.mem_map_of_mem hy, by simpa [dieCmds, hid] using hx⟩)
  · exact .inr (.inr h)

/-- A function that keeps the default, mapped over a table. -/
theorem tget_map_default {α : Type} (d : α) {f : α → α} (hf : f d = d) (t : Tab α) (n : Nat) :
    tget d (t.map fun x => (x.1, f x.2)) n = f (tget d t n) := by
  induction t with
  | nil => exact hf.symm
  | cons x xs ih =>
    simp only [List.map_cons, tget, ih]
    split <;> rfl

/-! ### ENGINE_COMPLETE (R301) -/

/-- The state in which a performed command has left its queue, and the slots that it held are settled. -/
def engineLeft (s : State) (c : EngineCmd) : State := tidySlots (endRound (s.dropEngineCmd c.id) c)

theorem engineComplete_runs {i : Nat} (hc : (doneCmds s)[i]? = some c) (hr : (s.raises.any fun r => r.cmd == c.id) = false)
    (ho : owesAcks s c = false) : exec (.engineComplete i) s = .next (completeCmd (engineLeft s c) c) := by
  rw [exec_engineComplete]
  simp only [execEngineComplete, hc, hr, ho, Bool.or_false, Bool.false_eq_true, if_false, engineLeft]

theorem engineLeft_outside (s : State) (c : EngineCmd) :
    { engineLeft s c with clusters := s.clusters, dies := s.dies } = s := by
  rcases endRound_eq (s.dropEngineCmd c.id) c with hs | ⟨n, f, -, hs⟩ <;> rw [engineLeft, hs] <;> rfl

theorem engineLeft_dies (s : State) (c : EngineCmd) : (engineLeft s c).dies = (s.dropEngineCmd c.id).dies := by
  rcases endRound_eq (s.dropEngineCmd c.id) c with hs | ⟨n, f, -, hs⟩ <;> rw [engineLeft, hs] <;> rfl

theorem engineLeft_queues (s : State) (c : EngineCmd) (m : Nat) :
    ((engineLeft s c).cluster m).selq ++ ((engineLeft s c).cluster m).lndq =
      ((s.dropEngineCmd c.id).cluster m).selq ++ ((s.dropEngineCmd c.id).cluster m).lndq := by
  let p : Cluster → List EngineCmd := fun x => x.selq ++ x.lndq
  let tidied : Cluster → Cluster := fun x =>
    { x with slots := x.slots.filter fun l =>
        !(l.st == .free && l.owner.isNone) || x.lndq.any fun c => bitsAt (cmdPlace c) 0 8 == l.num }
  have htidy : p ((engineLeft s c).cluster m) = p ((endRound (s.dropEngineCmd c.id) c).cluster m) :=
    tget_map (α := Cluster) {} (fun _ => tidied) p (fun _ _ => rfl) _ m
  refine htidy.trans ?_
  rcases endRound_eq (s.dropEngineCmd c.id) c with hs | ⟨n, f, hf, hs⟩ <;> rw [hs]
  exact cluster_modCluster p (f := f) (fun x => (congrArg p (hf x) :)) _ n m

theorem cluster_dropEngineCmd (s : State) (id m : Nat) : (s.dropEngineCmd id).cluster m =
    { s.cluster m with selq := (s.cluster m).selq.filter fun c => c.id != id, lndq := (s.cluster m).lndq.filter fun c => c.id != id } :=
  tget_map_default (α := Cluster) {} (f := fun x =>
    { x with selq := x.selq.filter fun c => c.id != id, lndq := x.lndq.filter fun c => c.id != id }) rfl s.clusters m

theorem die_dropEngineCmd (s : State) (id d : Nat) : (s.dropEngineCmd id).die d =
    { s.die d with rteq := (s.die d).rteq.filter fun c => c.id != id, collq := (s.die d).collq.filter fun c => c.id != id } :=
  tget_map_default (α := Die) {} (f := fun x =>
    { x with rteq := x.rteq.filter fun c => c.id != id, collq := x.collq.filter fun c => c.id != id }) rfl s.dies d

theorem left_of_queue {xs ys : List EngineCmd} {id : Nat} {x : EngineCmd}
    (h : x ∈ xs.filter (fun c => c.id != id) ++ ys.filter fun c => c.id != id) : x.id ≠ id := by
  simp only [List.mem_append, List.mem_filter, bne_iff_ne] at h
  exact h.elim And.right And.right

/-- A performed command completes: its token and flag count it, its queue loses it, and no other command is lost. -/
theorem engineComplete_ends (htask : (s.core c.core).task = c.task) :
    let t := completeCmd (engineLeft s c) c
    CmdEnds s t c ∧ t.mem = s.mem ∧ t.posts = s.posts ∧
      (∀ m, ∀ x ∈ (t.cluster m).selq ++ (t.cluster m).lndq, x.id ≠ c.id) ∧
      (∀ d, ∀ x ∈ (t.die d).rteq ++ (t.die d).collq, x.id ≠ c.id) ∧ ∀ x ∈ doneCmds s, x.id ≠ c.id → x ∈ doneCmds t := by
  intro t
  have hleft := engineLeft_outside s c
  have hout := completeCmd_outside (engineLeft s c) c
  have hposts : t.posts = (engineLeft s c).posts := (congrArg State.posts hout :)
  have hdies : t.dies = (engineLeft s c).dies := (congrArg State.dies hout :)
  have hcores : (engineLeft s c).cores = s.cores := (congrArg State.cores hleft :)
  have hcore : (engineLeft s c).core c.core = s.core c.core := core_of_cores hcores _
  refine ⟨cmdEnds_of_cores ?_, ?_, ?_, fun m x hx => ?_, fun d x hx => ?_, fun x hx hid => ?_⟩
  · have hend := completeCmd_cores (s := engineLeft s c) (c := c) ((congrArg Core.task hcore).trans htask)
    rwa [hcores, hcore] at hend
  · exact (completeCmd_mem ..).trans (congrArg State.mem hleft :)
  · exact hposts.trans (congrArg State.posts hleft :)
  · have hq := cluster_completeCmd (fun x => x.selq ++ x.lndq) (fun _ => rfl) (engineLeft s c) c m
    rw [hq, engineLeft_queues, cluster_dropEngineCmd] at hx
    exact left_of_queue hx
  · have hd : t.die d = (s.dropEngineCmd c.id).die d := by
      rw [State.die, hdies, engineLeft_dies, State.die]
    rw [hd, die_dropEngineCmd] at hx
    exact left_of_queue hx
  · obtain ⟨hmem, hdone⟩ := List.mem_filter.mp hx
    refine List.mem_filter.mpr ⟨allCmds_completeCmd ?_ c, hdone⟩
    rw [engineLeft, allCmds_tidySlots]
    exact allCmds_endRound (allCmds_dropEngineCmd hmem hid) c

/-! ### The obligation -/

/-- Settles O51: releases and starts change one engine (`releaseDue_engineOnly`, `copyStart_begins`), a copy changes no queue
(`performCopy_enginesKept`), and its completion, a marker's removal and an engine command's completion are `endCopy_ends`,
`markerGone_more` with `markerGone_last`, and `engineComplete_ends`. -/
theorem copiesProgress : Obligations.CopiesProgress := by
  intro s cl e
  have hdue := releaseDue_engineOnly s cl e
  refine ⟨⟨exec_copytRelease .., bte_releaseDue s cl e, hdue.outside, hdue.others, hdue.engines⟩, ?_, ?_, ?_, ?_⟩
  · intro c rest u s1 hq hroom hp
    have hstart := hdue.trans (.modBte s1 cl e fun b => { b with runq := rest, act := b.act ++ [{ c with begun := true }] })
    exact ⟨_, copyStart_begins hq hroom hp, bte_modBte_same .., hstart.outside, hstart.others⟩
  · intro i c hc hf ho ends
    have hrun := copyComplete_runs hc hf ho
    refine ⟨fun hdone htask => ⟨_, hrun.trans (by rw [if_pos hdone]), endCopy_ends ⟨rfl, fun _ => rfl⟩ htask⟩,
      fun u hdone hp => ?_⟩
    have hkept := performCopy_enginesKept hp
    have hfree : EnginesKept s u.takeBool.2 := hkept.trans ⟨rfl, fun _ => rfl⟩
    rw [hdone, if_neg Bool.false_ne_true] at hrun
    simp only [finishCopy, hp, if_true] at hrun
    refine ⟨fun hnow htask => ?_, fun hlater => ?_⟩
    · rw [hnow, if_neg Bool.false_ne_true] at hrun
      exact ⟨_, hrun, endCopy_ends hfree htask⟩
    · rw [hlater, if_pos rfl] at hrun
      refine ⟨_, hrun, rfl, hkept.cores, ?_⟩
      rw [bte_modBte_same, hfree.bte]
  · intro id rest v hq hact hv
    let u := s.modBte cl e fun b => { b with runq := rest }
    have hput := EngineOnly.modBte s cl e fun b => { b with runq := rest }
    have hrun := markerRemove_runs hq hact
    have hrunq : (u.bte cl e).runq = rest := congrArg Bte.runq (bte_modBte_same ..)
    by_cases hleft : (v.left.filter fun x => x != 8 * cl + e) = []
    · exact ⟨{ u with invals := s.invals.filter fun x => x.id != id }, hrunq, rfl, hput.others, fun hne => absurd hleft hne,
        fun _ => ⟨rfl, hrun.trans (congrArg _ (markerGone_last (s := u) hv hleft))⟩⟩
    · exact ⟨{ u with invals := s.invals.map fun x => if x.id = id then { x with left := v.left.filter fun y => y != 8 * cl + e } else x },
        hrunq, rfl, hput.others, fun _ => ⟨rfl, hrun.trans (congrArg _ (markerGone_more (s := u) hv hleft))⟩, fun h => absurd h hleft⟩
  · intro i c hc hr ho htask
    exact ⟨_, engineComplete_runs hc hr ho, engineComplete_ends htask⟩

end Sys2Proof.Machine
end

section
/-! PROOFS. The retirement of a launch (R174, R293): the claim that it leaves of every core all but tile lines, refuted by another
launch of the same context whose publication it performs. -/

namespace Sys2Proof.Machine

open Sys2Proof

/-- A tile of context 1. -/
def sharedKey : TileKey := { ctx := 1, tid := 5, outer := 0, trow := 0, tcol := 0 }

/-- A record that says of its tensor no more than that it is versioned. -/
def versionedRec : Block := 1 <<< 12

/-- The dirty line of that tile in a hall, drained there for a publication. -/
def drainedLine : TileLine :=
  { bank := 0, way := 0, key := sharedKey, ver := 1, cls := 0, pins := 0, st := .dirty, keep := false, thru := false, unit := 0,
    pc := 0, base := 0, lrec := versionedRec, data := 0 }

/-- The publication of that tile, still on its way to the home. -/
def sharedPub : Publication := { id := 0, key := sharedKey, lrec := versionedRec, pa := none, drained := true }

/-- The only task of launch 0, retired. -/
def retiredTask : Task := { placeTask 1 0 with st := .retired }

/-- Launch 0 with its task retired, while task 2 of launch 7 of the same context runs on core 1 of the cluster that ran launch 0,
and has published a tile that the hall holds. -/
def besidePublisher : State :=
  { State.reset with
    cores := [(1, { pubs := [sharedPub], ctx := 1, task := some 2 })], clusters := [(0, { hall := [drainedLine] })],
    dir := [{ key := sharedKey, nv := 0, req := 0, hv := true, hdie := 0, hcl := 0, pk := false }], ctxs := [placeCtx],
    launches := [placeLaunch 0, placeLaunch 7], tasks := [retiredTask, { placeTask 2 7 with core := 1 }] }

/-- The publications of a core after a step that goes on. -/
def pubsAfter (o : Out) (n : Nat) : List Publication :=
  match o with
  | .next t => (t.core n).pubs
  | _ => []

/-- The retirement writes the cluster's hall lines of the context back, and first performs the publications of them. -/
theorem launchRetire_performs_publication :
    pubsAfter (exec (.launchRetire retiredTask.launch) besidePublisher) 1 = [] := by
  decide +kernel

/-- Refutes O56: LAUNCH_RETIRE may change more of a core than its tile lines: before it writes a hall line back it performs the
publications for which that line has drained, those of another launch of the context among them (`besidePublisher`). -/
theorem not_tasksEnd : ¬ Obligations.TasksEnd := by
  intro h
  obtain ⟨-, hretire, -⟩ := h besidePublisher 1 retiredTask (placeLaunch 0) (by decide +kernel) (by decide +kernel)
  obtain ⟨t, ht, -, -, hcores⟩ := hretire (by decide) (by decide +kernel)
  have hkept : (t.core 1).pubs = [sharedPub] := congrArg Core.pubs (hcores 1)
  have hgone : (t.core 1).pubs = [] := by
    have hafter := launchRetire_performs_publication
    rwa [ht] at hafter
  exact List.cons_ne_nil _ _ (hkept.symm.trans hgone)

end Sys2Proof.Machine
end

section
/-! PROOFS. The completion of an instruction in progress of the V strand and of regions (R206, R209): what its core has, and what
its pieces read back. -/

namespace Sys2Proof.Machine

open Sys2Proof

variable {s : State} {c : Core} {o : AccOp} {n : Nat}

theorem finishVec_acc : (c.finishVec o).acc = accSetAll c.acc o.writes := by
  unfold Core.finishVec
  split <;> rfl

theorem finishVec_vops : (c.finishVec o).vops = c.vops.filter fun x => x.id != o.id := by
  unfold Core.finishVec
  split <;> rfl

theorem finishVec_sticky : (c.finishVec o).v.sticky = c.v.sticky ||| o.sticky := by
  unfold Core.finishVec
  split
  · rfl
  · simp only [Core.landReg, Core.setStrand, Strand.setPhys]
    split <;> rfl

theorem finishVec_noReg (h : o.reg = none) : (c.finishVec o).v = { c.v with sticky := c.v.sticky ||| o.sticky } := by
  simp only [Core.finishVec, h]
  rfl

/-- A register that a load or a VMOVS lands in takes its value and waits no longer. -/
theorem landReg_reads (c : Core) (k : Kind) {p : Nat} (x : Word) (hp : p ≠ 0) :
    tget 0 ((c.landReg k p x).strand k).regs p = x ∧ p ∉ ((c.landReg k p x).strand k).pend := by
  rw [Core.landReg, strand_setStrand_same]
  refine ⟨?_, fun h => ?_⟩
  · simp only [Strand.setPhys, if_neg hp, tget_tset_same]
  · exact bne_iff_ne.mp (List.mem_filter.mp h).2 rfl

theorem finishVec_reg {p : Nat} {x : Word} (h : o.reg = some (p, x)) (hp : p ≠ 0) :
    tget 0 (c.finishVec o).v.regs p = x ∧ p ∉ (c.finishVec o).v.pend := by
  simp only [Core.finishVec, h]
  exact landReg_reads _ .v x hp

/-- The pieces of an operation read back in a file that they were written into, and a piece apart from them its old bits. -/
theorem accSetAll_reads (acc : Tab Word32) {xs : List AccWrite} (hin : ∀ x ∈ xs, InCell x) (hap : xs.Pairwise Apart) :
    (∀ x ∈ xs, accBits (accSetAll acc xs) x.row x.bit x.width = x.bits % 2 ^ x.width) ∧
    ∀ y : AccWrite, InCell y → (∀ x ∈ xs, Apart x y) →
      accBits (accSetAll acc xs) y.row y.bit y.width = accBits acc y.row y.bit y.width :=
  ⟨fun _ hx => accBits_accSetAll_written hin hap hx,
    fun _ hy hfar => accBits_accSetAll_apart (fun x hx => ⟨hin x hx, hfar x hx⟩) hy⟩

/-- Settles O46: both completions put one core in place of the old one (`finishVec_acc` and its companions), whose accumulator has
the pieces written in order (`accSetAll_reads`). -/
theorem accumulatorCompletes : Obligations.AccumulatorCompletes := by
  intro s n idx o reads rest
  have hrest : ∀ d, rest (s.setCore n d) := fun d => ⟨rfl, fun m hm => core_setCore_other s n m d hm⟩
  have hreads : ∀ d : Core, d.acc = accSetAll (s.core n).acc o.writes → reads (s.setCore n d) := by
    intro d hacc hin hap
    rw [core_setCore_same, hacc]
    exact accSetAll_reads _ hin hap
  refine ⟨fun ho => ⟨s.setCore n ((s.core n).finishVec o), ?_, hrest _, hreads _ finishVec_acc, ?_⟩,
    fun ho => ⟨s.setCore n ((s.core n).finishRegion o), ?_, hrest _, hreads _ rfl, ?_⟩⟩
  · simp [execVectorComplete, ho]
  · rw [core_setCore_same]
    refine ⟨finishVec_vops, finishVec_sticky, fun hr => ?_, fun p x hr hp => finishVec_reg hr hp⟩
    rw [finishVec_noReg hr]
  · simp [execRegionInstructionComplete, ho]
  · rw [core_setCore_same]
    exact ⟨rfl, rfl⟩

end Sys2Proof.Machine
end

section
/-! PROOFS. Accesses of strands performed (R155, R159, R256): a write that nothing stands in the way of, a load into a register, and
an atomic. -/

namespace Sys2Proof.Machine

open Sys2Proof

variable {s : State} {n pa : Nat} {l : OutLoad} {p : Party} {z : Bool} {bs : List Byte}

/-! ### Reads and writes of granules without an error, where no page moves -/

theorem noteOld_eq (s : State) (p : Party) (pa n : Nat) : ∃ i h, s.noteOld p pa n = { s with nextId := i, hist := h } := by
  unfold State.noteOld
  split
  · exact ⟨_, _, rfl⟩
  · generalize granules pa n = gs
    induction gs generalizing s with
    | nil => exact ⟨_, _, rfl⟩
    | cons g gs ih => exact ih { s with nextId := _, hist := _ }

theorem writePhys_clean (hp : s.poison = []) (hm : s.moves = []) (hu : unreachable s pa = false) :
    writePhys z s pa bs = (writeClean z s pa bs, none) := by simp [writePhys, writeHome, hp, hm, hu]

/-- A write by a party enters the order of its granules and writes memory, no more. -/
theorem writeAs_clean (hp : s.poison = []) (hm : s.moves = []) (hu : unreachable s pa = false) :
    ∃ i h, writeAs p z s pa bs = (writeClean z { s with nextId := i, hist := h } pa bs, none) := by
  obtain ⟨i, h, hnote⟩ := noteOld_eq s p pa bs.length
  refine ⟨i, h, ?_⟩
  rw [writeAs, hnote]
  exact writePhys_clean hp hm hu

theorem asSeen_poison : (s.asSeen p).poison = s.poison := by
  unfold State.asSeen
  split <;> rfl

theorem unreachable_asSeen : unreachable (s.asSeen p) pa = unreachable s pa := by
  unfold State.asSeen
  split <;> rfl

theorem markRead_still (h : s.moves = []) (pa n : Nat) : markRead s pa n = s := by simp [markRead, h]

theorem leBytes_length (n x : Nat) : (leBytes n x).length = n := by
  induction n generalizing x with
  | zero => rfl
  | succ n ih => simp [leBytes, ih]

/-! ### Loads -/

theorem landReg_loads (c : Core) (k : Kind) (q : Nat) (x : Word) : (c.landReg k q x).loads = c.loads := by cases k <;> rfl

/-- A load that misses finds the bytes as they have reached its strand. -/
theorem loadBase_reads {c : Core} (hp : s.poison = []) (hu : unreachable s l.pa = false)
    (hmiss : l.cached = true → ∀ x ∈ c.scache, x.1 ≠ l.pa / 64) :
    loadBase s n c l = .ok (readBytes (s.asSeen (strandParty s n l.strand l.id)).mem l.pa l.size) := by
  have hnone : (if l.cached then c.scache.find? fun x => x.1 == l.pa / 64 else none) = none := by
    split
    · next hc => exact List.find?_eq_none.2 fun x hx => by simpa using hmiss hc x hx
    · rfl
  rw [loadBase, hnone, cleanUnder_no_poison (asSeen_poison.trans hp)]
  exact readPhys_reads (asSeen_poison.trans hp) (unreachable_asSeen.trans hu) _

/-- A load allocates a line of the scalar cache at most. -/
theorem allocLine_eq (s : State) (p : Party) (c : Core) (pa : Nat) : ∃ ls, allocLine s p c pa = { c with scache := ls } := by
  unfold allocLine
  split <;> exact ⟨_, rfl⟩

/-- A load into a register performed. -/
theorem performLoad_register {k : Kind} {q : Nat} {base : List Byte} (hm : s.moves = []) (huse : l.use = .reg k q)
    (hbase : loadBase s n (s.core n) l = .ok base) : ∃ ls, performLoad s n l =
      s.setCore n ((takeLoad { s.core n with scache := ls } l.id).landReg k q
        (loadedWord l.signed ((visibleStores (s.core n) l.strand l.id).foldl (overlay l.pa) base))) := by
  have hstill (d : Core) : markRead (s.setCore n d) l.pa l.size = s.setCore n d := markRead_still (by exact hm) ..
  simp only [performLoad, hbase, hstill, landLoad, huse]
  split
  · obtain ⟨ls, hls⟩ := allocLine_eq s (strandParty s n l.strand l.id) (s.core n) l.pa
    exact ⟨ls, by rw [hls]⟩
  · exact ⟨_, rfl⟩

theorem loadReturn_performs {idx : Nat} {k : Kind} {q : Nat} (hl : (s.core n).loads[idx]? = some l)
    (hr : loadReady s (s.core n) l = true) (hacq : l.acq = none) (huse : l.use = .reg k q) :
    exec (.loadReturn n idx) s = .next (performLoad s n l) := by
  simp [execLoadReturn, hl, hr, OutLoad.isAtomic, huse, finishLoad, hacq]

/-! ### Stores -/

/-- A store performed writes its bytes, and its core keeps all but its list of stores and its scalar cache. -/
theorem performStore_writes {t : OutStore} (hp : s.poison = []) (hm : s.moves = []) (hu : unreachable s t.pa = false) :
    (performStore s n t).mem = writeBytes s.mem t.pa t.bytes ∧
    ∃ ls, (performStore s n t).cores =
      (s.setCore n { s.core n with stores := (s.core n).stores.filter fun x => x.id != t.id, scache := ls }).cores := by
  obtain ⟨i, h, hw⟩ := writeAs_clean (p := strandParty s n t.strand t.id) (z := t.z) (bs := t.bytes) hp hm hu
  simp only [performStore, hw]
  exact ⟨rfl, _, rfl⟩

/-! ### Atomics -/

theorem flushStores_none (h : (s.core n).stores = []) (f : OutStore → Bool) : flushStores s n f = s := by
  simp [flushStores, h]

/-- What an atomic does to memory with its new value. -/
def atomicMem (s : State) (l : OutLoad) (x : Option Nat) : List Host.Cell :=
  match x with
  | none => s.mem
  | some x => writeBytes s.mem l.pa (leBytes l.size x)

/-- An atomic performed: its new value in memory, its old one in its register. -/
theorem performAtomic_performs {k : Kind} {q op : Nat} {un : Bool} {arg cmp : Word} (hp : s.poison = []) (hm : s.moves = [])
    (huse : l.use = .atomic k q op un arg cmp) (hu : unreachable s l.pa = false) :
    let old := leNat (readBytes s.mem l.pa l.size)
    (performAtomic s n l op un arg cmp).mem = atomicMem s l (amoNew op (8 * l.size) un old arg.toNat cmp.toNat) ∧
    ∃ ls, (performAtomic s n l op un arg cmp).core n =
      { (takeLoad (s.core n) l.id).landReg k q (BitVec.ofNat 64 old) with scache := ls } := by
  intro old
  rw [performAtomic, readPhys_reads hp hu]
  simp only [landLoad, huse]
  cases amoNew op (8 * l.size) un (leNat (readBytes s.mem l.pa l.size)) arg.toNat cmp.toNat with
  | none =>
    simp only
    rw [markRead_still (by exact hm)]
    exact ⟨rfl, _, core_setCore_same ..⟩
  | some x =>
    let s1 := s.meetWrites (strandParty s n l.strand l.id) l.pa l.size
    obtain ⟨i, h, hw⟩ := writeAs_clean (s := s1) (pa := l.pa) (p := strandParty s n l.strand l.id) (z := l.z)
      (bs := leBytes l.size x) hp hm hu
    simp only
    rw [hw, markRead_still (by exact hm)]
    exact ⟨rfl, _, core_setCore_same ..⟩

theorem atomicResponse_performs {idx : Nat} {k : Kind} {q op : Nat} {un : Bool} {arg cmp : Word}
    (hl : (s.core n).loads[idx]? = some l) (hr : loadReady s (s.core n) l = true) (hacq : l.acq = none)
    (huse : l.use = .atomic k q op un arg cmp) (hst : (s.core n).stores = []) :
    exec (.atomicResponse n idx) s = .next (performAtomic s n l op un arg cmp) := by
  simp [execAtomicResponse, hl, hr, OutLoad.isAtomic, huse, finishLoad, hacq, flushStores_none hst]

/-! ### The obligation -/

/-- Settles O26: what each of the three events performs is `performLoad_register`, `performStore_writes` and
`performAtomic_performs`; the bytes then follow from the laws of reads after writes. -/
theorem accessesPerform : Obligations.AccessesPerform := by
  intro s n idx l t k q op un arg cmp hp hm
  refine ⟨fun hl hr hacq huse hu hmiss hq => ?_, fun ht hr hu => ?_, fun hl hr hacq huse hu hst hq => ?_⟩
  · obtain ⟨ls, hperf⟩ := performLoad_register hm huse (loadBase_reads hp hu hmiss)
    refine ⟨_, loadReturn_performs hl hr hacq huse, ?_⟩
    rw [hperf, core_setCore_same]
    obtain ⟨hreg, hpend⟩ := landReg_reads (takeLoad { s.core n with scache := ls } l.id) k
      (loadedWord l.signed ((visibleStores (s.core n) l.strand l.id).foldl (overlay l.pa)
        (readBytes (s.asSeen (strandParty s n l.strand l.id)).mem l.pa l.size))) hq
    exact ⟨hreg, hpend, landReg_loads .., fun _ => rfl, fun m hne => core_setCore_other _ _ _ _ hne⟩
  · obtain ⟨hmem, ls, hcores⟩ := performStore_writes (n := n) hp hm hu
    refine ⟨performStore s n t, by simp [execWriteAcknowledgement, ht, hr], fun i hi => ?_, fun a ha => ?_, ?_, fun m hne => ?_⟩
    · rw [hmem]
      exact readByte_writeBytes_inside ..
    · rw [hmem]
      exact readByte_writeBytes_other _ _ _ _ ha
    · rw [core_of_cores hcores, core_setCore_same]
    · rw [core_of_cores hcores, core_setCore_other _ _ _ _ hne]
  · obtain ⟨hmem, ls, hcore⟩ := performAtomic_performs (n := n) hp hm huse hu
    refine ⟨_, atomicResponse_performs hl hr hacq huse hst, ?_⟩
    rw [hcore, hmem]
    refine ⟨⟨(landReg_reads _ k _ hq).1, fun hnone => ?_, fun x hx => ?_⟩, landReg_loads ..⟩
    · rw [hnone]
      exact fun _ => rfl
    · have hlen : (leBytes l.size x).length = l.size := leBytes_length ..
      rw [hx, atomicMem]
      refine ⟨?_, fun a ha => readByte_writeBytes_other _ _ _ _ (by rwa [hlen])⟩
      have hread := readBytes_writeBytes_same s.mem l.pa (leBytes l.size x)
      rwa [hlen] at hread

end Sys2Proof.Machine
end

section
/-! PROOFS. Tile requests (R276, R353): what a lookup in a hall, a judgement at a home and the arrival of the data do to the list
of requests and to the line that waits. -/

namespace Sys2Proof.Machine

open Sys2Proof

variable {s : State} {r : TileReq} {k : TileKey} {ls : List TileLine} {l : TileLine} {m : Option (BitVec 8)} {i : Nat}

/-! ### Lines of a cache -/

theorem lineOf_mem (h : lineOf ls k = some l) : l ∈ ls ∧ l.key = k :=
  ⟨List.mem_of_find?_eq_some h, by simpa using List.find?_some h⟩

theorem lookupLine_lineOf (h : lookupLine ls k m = some l) : lineOf ls k = some l ∧ l.readable = true := by
  unfold lookupLine at h
  split at h
  · cases h
  · next l2 hl =>
    split_ifs at h with hok
    cases h
    exact ⟨hl, (Bool.and_eq_true_iff.mp hok).1⟩

theorem lookupLine_mem (h : lookupLine ls k m = some l) : l ∈ ls ∧ l.key = k := lineOf_mem (lookupLine_lineOf h).1

theorem fillingLine_mem (h : fillingLine ls r = some l) : l ∈ ls ∧ l.key = r.key := by
  have hl := List.find?_some h
  simp only [Bool.and_eq_true, beq_iff_eq] at hl
  exact ⟨List.mem_of_find?_eq_some h, hl.1.1⟩

theorem mem_modLine (h : l ∈ ls) (f : TileLine → TileLine) : f l ∈ modLine ls l.bank l.way f :=
  List.mem_map.mpr ⟨l, h, if_pos ⟨rfl, rfl⟩⟩

theorem modLine_id (ls : List TileLine) (bank way : Nat) {f : TileLine → TileLine} (hf : ∀ l, f l = l) :
    modLine ls bank way f = ls := by simp [modLine, hf]

/-! ### The list of requests -/

/-- The requests with the one of a number replaced where it stands. -/
def putReq (s : State) (id : Nat) (x : TileReq) : State := { s with reqs := s.reqs.map fun q => if q.id == id then x else q }

theorem setReq_put {x : TileReq} (h : x.stage ≠ .parked) (id : Nat) : setReq s id (some x) = putReq s id x := by
  simp [setReq, putReq, h]

/-- A request that goes on to its core, or that filled the hall alone and ends. -/
theorem setReq_toCore (ver : BitVec 8) (data : Line) : setReq s r.id (toCore r ver data) =
    { s with reqs := if r.core.isNone then s.reqs.filter (fun q => q.id != r.id)
        else s.reqs.map fun q => if q.id == r.id then { r with stage := .toCore ver data } else q } := by
  cases h : r.core with
  | none => simp [toCore, h, setReq]
  | some n =>
    simp only [toCore, h]
    exact setReq_put (by simp) _

/-! ### A lookup in the hall (R276) -/

theorem reqPins_demand (h : r.core.isSome = true) (old : BitVec 16) : reqPins r old = old := by
  obtain ⟨n, hn⟩ := Option.isSome_iff_exists.mp h
  simp [reqPins, hn]

/-- A line that may be read serves a request of a core, with no change to the hall's lines. -/
theorem hallLookup_serves (hl : lookupLine (s.cluster r.cluster).hall r.key r.minv = some l) (hc : r.core.isSome = true) :
    ∃ c, c.hall = (s.cluster r.cluster).hall ∧
      hallLookup s r = (s.setCluster r.cluster c, some { r with stage := .toCore l.ver l.data }) := by
  obtain ⟨n, hn⟩ := Option.isSome_iff_exists.mp hc
  refine ⟨_, ?_, by simp only [hallLookup, hl, hn, State.modCluster]; rfl⟩
  exact modLine_id _ _ _ fun x => by simp [reqPins_demand hc]

/-- A PIN that waited in the hall alone sets its pin on the line. -/
theorem hallLookup_pins {n : Nat} (hl : lookupLine (s.cluster r.cluster).hall r.key r.minv = some l) (hc : r.core = none)
    (hp : r.pinBy = some n) :
    ∃ c, { l with pins := l.pins ||| pinBit n } ∈ c.hall ∧ hallLookup s r = (s.setCluster r.cluster c, none) := by
  refine ⟨_, ?_, by simp only [hallLookup, hl, hc, State.modCluster]; rfl⟩
  have hmem := mem_modLine (lookupLine_mem hl).1 fun x => { x with pins := reqPins r x.pins }
  have hpin : reqPins r l.pins = l.pins ||| pinBit n := by simp [reqPins, hc, hp]
  rwa [hpin] at hmem

/-! ### The data arrives (R136, R277) -/

theorem tileFillArrival_lands {ver : BitVec 8} {data : Line} {n : Nat} (hi : s.reqs[i]? = some r) (hst : r.stage = .toCore ver data)
    (hn : r.core = some n) (hl : fillingLine (s.core n).alcove r = some l) :
    exec (.tileFillArrival i) s = .next ((setReq s r.id none).setCore n (touchAlcove { s.core n with
      alcove := modLine (s.core n).alcove l.bank l.way fun x => { x with st := .clean, ver := ver, data := data, lrec := r.lrec } }
      l.bank l.way)) := by
  simp only [exec_tileFillArrival, execTileFillArrival, hi, hst, hn, hl]
  rfl

theorem tileFillArrival_discards {ver : BitVec 8} {data : Line} {n : Nat} (hi : s.reqs[i]? = some r)
    (hst : r.stage = .toCore ver data) (hn : r.core = some n) (hl : fillingLine (s.core n).alcove r = none) :
    exec (.tileFillArrival i) s = .next (setReq s r.id none) := by
  simp only [exec_tileFillArrival, execTileFillArrival, hi, hst, hn, hl]

theorem hallFill_runs {ver : BitVec 8} {data : Line} (hi : s.reqs[i]? = some r) (hst : r.stage = .toHall ver data)
    (hl : fillingLine (s.cluster r.cluster).hall r = some l) : exec (.hallFill i) s =
      .next (setReq (s.modCluster r.cluster fun c => fillHallLine c l r ver data) r.id (toCore r ver data)) := by
  simp [execHallFill, hi, hst, hl]

theorem hallFill_passes {ver : BitVec 8} {data : Line} (hi : s.reqs[i]? = some r) (hst : r.stage = .toHall ver data)
    (hl : lineOf (s.cluster r.cluster).hall r.key = none) (hline : r.line = false) :
    exec (.hallFill i) s = .next (setReq s r.id (toCore r ver data)) := by
  have hno : ∀ x ∈ (s.cluster r.cluster).hall, x.key ≠ r.key := by simpa [lineOf] using hl
  have hfill : fillingLine (s.cluster r.cluster).hall r = none := List.find?_eq_none.mpr fun x hx => by simp [hno x hx]
  have hstale : fillStale (s.cluster r.cluster) r = false := by
    simp only [fillStale, hline, Bool.false_or, List.any_eq_false]
    exact fun x hx => by simp [hno x hx]
  simp [execHallFill, hi, hst, hfill, hstale]

theorem hallFill_looksUp {ver : BitVec 8} {data : Line} (hi : s.reqs[i]? = some r) (hst : r.stage = .toHall ver data)
    (hfill : fillingLine (s.cluster r.cluster).hall r = none)
    (hl : lookupLine (s.cluster r.cluster).hall r.key r.minv = some l) : exec (.hallFill i) s =
      .next (let x := hallLookup s { r with stage := .hall, line := false }; setReq x.1 r.id x.2) := by
  have hstale : fillStale (s.cluster r.cluster) r = true := by
    obtain ⟨hline, hread⟩ := lookupLine_lineOf hl
    obtain ⟨hmem, hkey⟩ := lineOf_mem hline
    have hst : l.st ≠ .filling := fun h => by simp [TileLine.readable, h] at hread
    simp only [fillStale, Bool.or_eq_true, List.any_eq_true]
    exact .inr ⟨l, hmem, by simp [hkey, hst]⟩
  simp [execHallFill, hi, hst, hfill, hstale]

theorem hallFill_waiting (hi : s.reqs[i]? = some r) (hst : r.stage = .hall) :
    exec (.hallFill i) s = .next (setReq (hallLookup s r).1 r.id (hallLookup s r).2) := by
  simp [execHallFill, hi, hst]

/-! ### The hall to which a request was forwarded (R276) -/

theorem retireServed_kept {hall : Nat} (h : ∀ l ∈ (s.cluster hall).hall, l.key = k → l.thru = false) :
    retireServed s hall k = s := by
  have hnone : ((s.cluster hall).hall.any fun l => l.key == k && l.thru) = false :=
    List.any_eq_false.mpr fun l hl => by simpa using h l hl
  simp [retireServed, hnone]

theorem rejudgeHall_unparked (h : ∀ q ∈ s.reqs, q.stage ≠ .parked) (home hall : Nat) : rejudgeHall s home hall = s := by
  have hnone : (s.reqs.filter fun r =>
      r.stage == .parked && homeOf r.key == home && (dirOf s r.key).hv && (dirOf s r.key).holder == hall) = [] :=
    List.filter_eq_nil_iff.mpr fun q hq => by simp [h q hq]
  simp [rejudgeHall, hnone]

/-- A forwarded request answered in a hall in which nothing else waited for the answer. -/
theorem hallForward_answers {hall : Nat} {nv : BitVec 8} (hi : s.reqs[i]? = some r) (hst : r.stage = .forwarded hall nv)
    (hpark : ∀ q ∈ s.reqs, q.stage ≠ .parked) (hthru : ∀ l ∈ (s.cluster hall).hall, l.key = r.key → l.thru = false) :
    exec (.hallForward i) s = .next (putReq s r.id { r with stage := match lookupLine (s.cluster hall).hall r.key r.minv with
      | some l => .toHall nv l.data
      | none => .waitClean }) := by
  let st : ReqStage := match lookupLine (s.cluster hall).hall r.key r.minv with
    | some l => .toHall nv l.data
    | none => .waitClean
  have hgoes : st ≠ .parked := by unfold st; split <;> simp
  have hserved : retireServed (putReq s r.id { r with stage := st }) hall r.key = putReq s r.id { r with stage := st } :=
    retireServed_kept hthru
  have hjudged : rejudgeHall (putReq s r.id { r with stage := st }) (homeOf r.key) hall = putReq s r.id { r with stage := st } := by
    refine rejudgeHall_unparked (fun q hq => ?_) _ _
    obtain ⟨q0, hq0, rfl⟩ := List.mem_map.mp hq
    split
    · exact hgoes
    · exact hpark q0 hq0
  have hput : setReq s r.id (some { r with stage := st }) = putReq s r.id { r with stage := st } := setReq_put hgoes _
  simp only [exec_hallForward, execHallForward, hi, hst]
  have hall : rejudgeHall (retireServed (setReq s r.id (some { r with stage := st })) hall r.key) (homeOf r.key) hall =
      putReq s r.id { r with stage := st } := by rw [hput, hserved, hjudged]
  exact congrArg Host.Outcome.next hall

/-! ### The home (R353) -/

theorem markTile_eq (s : State) (cl : Nat) (ctx : BitVec 12) (r : Block) (o a b : Nat) :
    ∃ ms, markTile s cl ctx r o a b = { s with moves := ms } := by
  have helem (t : State) (idx : List (Nat × Nat)) : ∃ ms, markElem t cl ctx r idx = { t with moves := ms } := by
    simp only [markElem, markRead]
    split_ifs
    · exact ⟨_, rfl⟩
    · split <;> exact ⟨_, rfl⟩
  unfold markTile
  split
  · exact ⟨_, rfl⟩
  · next hmoves =>
    clear hmoves
    generalize tileCells r = xs
    induction xs generalizing s with
    | nil => exact ⟨_, rfl⟩
    | cons x xs ih =>
      rw [List.foldl_cons]
      split
      · exact ih s
      · next idx _ =>
        obtain ⟨ms, h⟩ := helem s idx
        rw [h]
        exact ih _

/-- What a home reads of the tile of a request. -/
def homeGather (s : State) (r : TileReq) : Except AccFail Line :=
  gatherTile (s.asSeen (r.reader s)) r.cluster r.key.ctx r.lrec r.key.outer.toNat r.key.trow.toNat r.key.tcol.toNat

theorem homeServe_gathered {d : Line} (e : DirEntry) (h : homeGather s r = .ok d) :
    ∃ ms, homeServe s r e = ({ s with moves := ms }, some { r with stage := .toHall e.nv d }) := by
  obtain ⟨ms, hmark⟩ := markTile_eq s r.cluster r.key.ctx r.lrec r.key.outer.toNat r.key.trow.toNat r.key.tcol.toNat
  unfold homeGather at h
  exact ⟨ms, by simp only [homeServe, h, hmark]⟩

theorem dirOf_key (s : State) (k : TileKey) : (dirOf s k).key = k := by
  unfold dirOf
  cases h : s.dir.find? fun e => e.key == k with
  | none => rfl
  | some e => simpa using List.find?_some h

/-- An entry that says something is written in place of the one of its tile. -/
theorem dirOf_setDir {e : DirEntry} (hd : e.isDefault = false) (hin : (s.dir.any fun x => x.key == e.key) = true) :
    dirOf (setDir s e) e.key = e := by
  simp only [setDir, hd, hin, if_true, Bool.false_eq_true, if_false, dirOf, List.find?_map]
  obtain ⟨x, hx, hkey⟩ := List.any_eq_true.mp hin
  have hsame : (fun y : DirEntry => y.key == e.key) ∘ (fun x => if x.key == e.key then e else x) = fun x => x.key == e.key := by
    funext y
    by_cases hy : y.key = e.key <;> simp [hy]
  rw [hsame]
  cases hf : s.dir.find? fun x => x.key == e.key with
  | none => exact absurd hkey (by simpa using List.find?_eq_none.mp hf x hx)
  | some y =>
    have hy : y.key = e.key := by simpa using List.find?_some hf
    simp [hy]

theorem setDir_outside (s : State) (e : DirEntry) : { setDir s e with dir := s.dir, posts := s.posts } = s := by
  simp only [setDir]
  split_ifs <;> rfl

theorem setDir_reqs (s : State) (e : DirEntry) : (setDir s e).reqs = s.reqs := (congrArg State.reqs (setDir_outside s e) :)

/-- A request at its home. -/
theorem homeRequest_judges (full : Bool) (hi : s.reqs[i]? = some r) (hst : r.stage = .home) :
    exec (.homeRequest i full) s = .next (setReq (judgeReq s r full).1 r.id (judgeReq s r full).2) := by
  simp [execHomeRequest, hi, hst]

/-- What keeps a request of a versioned tile from being served at its home: a version, or a credit. -/
def Held (s : State) (r : TileReq) : Prop :=
  (dirOf s r.key).meets r.minv r.free = false ∨
    ((dirOf s r.key).hv = true ∧ 2 ≤ forwardedTo s (homeOf r.key) (dirOf s r.key).holder)

theorem judgeReq_held (full : Bool) (hv : recVersioned r.lrec = true) (h : Held s r) : judgeReq s r full =
    if full then (s, some { r with stage := .retry s.now })
    else (setDir s { dirOf s r.key with pk := true }, some { r with stage := .parked }) := by
  have hheld : (!(dirOf s r.key).meets r.minv r.free ||
      ((dirOf s r.key).hv && decide (forwardCredits ≤ forwardedTo s (homeOf r.key) (dirOf s r.key).holder))) = true := by
    rcases h with h | ⟨h, h2⟩
    · simp [h]
    · simp [h, forwardCredits, h2]
  simp [judgeReq, hv, hheld]

theorem judgeReq_forwards (full : Bool) (hv : recVersioned r.lrec = true) (hm : (dirOf s r.key).meets r.minv r.free = true)
    (hh : (dirOf s r.key).hv = true) (hc : forwardedTo s (homeOf r.key) (dirOf s r.key).holder < 2) :
    judgeReq s r full = (s, some { r with stage := .forwarded (dirOf s r.key).holder (dirOf s r.key).nv }) := by
  have hcredit : ¬forwardCredits ≤ forwardedTo s (homeOf r.key) (dirOf s r.key).holder := by simpa [forwardCredits] using hc
  simp [judgeReq, hv, hm, hh, hcredit]

theorem judgeReq_serves (full : Bool) (hv : recVersioned r.lrec = true) (hm : (dirOf s r.key).meets r.minv r.free = true)
    (hh : (dirOf s r.key).hv = false) : judgeReq s r full = homeServe s r (dirOf s r.key) := by
  simp [judgeReq, hv, hm, hh]

theorem judgeReq_unversioned (full : Bool) (hv : recVersioned r.lrec = false) : judgeReq s r full = homeServe s r (noEntry r.key) := by
  simp [judgeReq, hv]

/-- A request served from memory goes to its hall. -/
theorem served_put {x : State × Option TileReq} {e : DirEntry} {d : Line}
    (h : ∃ ms, x = ({ s with moves := ms }, some { r with stage := .toHall e.nv d })) :
    (setReq x.1 r.id x.2).reqs = (putReq s r.id { r with stage := .toHall e.nv d }).reqs ∧
      { setReq x.1 r.id x.2 with reqs := s.reqs, moves := s.moves } = s := by
  obtain ⟨ms, rfl⟩ := h
  rw [setReq_put (by simp)]
  exact ⟨rfl, rfl⟩

/-- A request that its home does not serve now is told to come again, or parks with its tile's entry marked. -/
theorem homeRequest_held (full : Bool) (hi : s.reqs[i]? = some r) (hst : r.stage = .home) (hv : recVersioned r.lrec = true)
    (h : Held s r) :
    (full = true → exec (.homeRequest i full) s = .next (putReq s r.id { r with stage := .retry s.now })) ∧
    (full = false → ∃ t, exec (.homeRequest i full) s = .next t ∧
      t.reqs = (s.reqs.filter fun q => q.id != r.id) ++ [{ r with stage := .parked }] ∧
      { t with reqs := s.reqs, dir := s.dir, posts := s.posts } = s ∧
      ((s.dir.any fun x => x.key == r.key) = true → (dirOf t r.key).pk = true)) := by
  rw [homeRequest_judges full hi hst, judgeReq_held full hv h]
  refine ⟨fun hf => ?_, fun hf => ⟨_, rfl, ?_, ?_, fun hin => ?_⟩⟩
  · simp only [hf, if_true]
    rw [setReq_put (by simp)]
  · simp [hf, setReq, setDir_reqs]
  · simp only [hf, Bool.false_eq_true, if_false]
    have hout := setDir_outside s { dirOf s r.key with pk := true }
    exact (congrArg (fun u : State => { u with reqs := s.reqs }) hout :)
  · have hdir := dirOf_setDir (s := s) (e := { dirOf s r.key with pk := true }) (by simp [DirEntry.isDefault])
      (by rwa [dirOf_key])
    rw [show ({ dirOf s r.key with pk := true } : DirEntry).key = r.key from dirOf_key ..] at hdir
    simp only [hf, Bool.false_eq_true, if_false]
    exact (congrArg DirEntry.pk hdir :)

/-! ### The obligation -/

/-- Settles O49: each event is one of the lemmas above, by the stage of the request. -/
theorem tileFills : Obligations.TileFills := by
  intro s i r hi e put ends gather passes
  refine ⟨?_, ?_, ?_, ?_, ?_, ?_, ?_, ?_⟩
  · intro ver data n hst hn
    refine ⟨fun l hl => ?_, fun hnone => ?_⟩
    · obtain ⟨hmem, hkey⟩ := fillingLine_mem hl
      refine ⟨_, { l with st := .clean, ver := ver, data := data, lrec := r.lrec }, tileFillArrival_lands hi hst hn hl, rfl, rfl,
        fun m hm => core_setCore_other _ _ _ _ hm, ?_⟩
      rw [core_setCore_same]
      exact ⟨rfl, mem_modLine hmem _, hkey, rfl, rfl, rfl, rfl⟩
    · exact tileFillArrival_discards hi hst hn hnone
  · intro ver data hst
    refine ⟨fun l hl => ?_, fun hnone hline => ?_, fun l hfill hc hl => ?_⟩
    · obtain ⟨hmem, hkey⟩ := fillingLine_mem hl
      refine ⟨_, { l with st := .clean, ver := ver, data := data, lrec := r.lrec, cls := r.cls }, hallFill_runs hi hst hl, ?_⟩
      rw [setReq_toCore]
      refine ⟨rfl, rfl, fun m hm => cluster_setCluster_other _ _ _ _ hm, ?_, hkey, rfl, rfl, rfl, rfl⟩
      have hat : ((s.modCluster r.cluster fun c => fillHallLine c l r ver data).cluster r.cluster).hall =
          (fillHallLine (s.cluster r.cluster) l r ver data).hall := congrArg Cluster.hall (cluster_setCluster_same ..)
      exact hat ▸ mem_modLine hmem _
    · rw [hallFill_passes hi hst hnone hline, setReq_toCore]
    · obtain ⟨c, hc1, hx⟩ := hallLookup_serves (r := { r with stage := .hall, line := false }) hl hc
      rw [hallFill_looksUp hi hst hfill hl, hx]
      refine ⟨_, rfl, ?_⟩
      rw [setReq_put (by simp)]
      exact ⟨rfl, rfl, (congrArg Cluster.hall (cluster_setCluster_same ..)).trans hc1⟩
  · intro l m hst hc hp hl
    obtain ⟨c, hmem, hx⟩ := hallLookup_pins hl hc hp
    rw [hallFill_waiting hi hst, hx]
    refine ⟨_, _, rfl, rfl, rfl, ?_, rfl⟩
    have hat : ((s.setCluster r.cluster c).cluster r.cluster).hall = c.hall := congrArg Cluster.hall (cluster_setCluster_same ..)
    exact hat ▸ hmem
  · intro l hst hc hl
    obtain ⟨c, hc1, hx⟩ := hallLookup_serves hl hc
    rw [hallFill_waiting hi hst, hx]
    refine ⟨_, rfl, ?_⟩
    rw [setReq_put (by simp)]
    exact ⟨rfl, rfl, (congrArg Cluster.hall (cluster_setCluster_same ..)).trans hc1⟩
  · intro hall nv hst hpark hthru
    rw [hallForward_answers hi hst hpark hthru]
    exact ⟨fun l hl => by rw [hl]; rfl, fun hl => by rw [hl]; rfl⟩
  · intro hst
    refine ⟨fun hv full => by simp [execHomeRequest, hi, hst, show (dirOf s r.key).hv = true from hv], fun d hv hg full => ?_⟩
    have hrun : exec (.homeRequest i full) s =
        .next (setReq (homeServe s r (dirOf s r.key)).1 r.id (homeServe s r (dirOf s r.key)).2) := by
      simp [execHomeRequest, hi, hst, show (dirOf s r.key).hv = false from hv]
    exact ⟨_, hrun, served_put (homeServe_gathered _ hg)⟩
  · intro full hst credit parks
    refine ⟨fun d hv hg => ?_, fun d hv hm hh hg => ?_, fun hv hm hh hc => ?_, fun hv _ hc => ?_, fun hv hm => ?_⟩
    · refine ⟨_, (homeRequest_judges full hi hst).trans (by rw [judgeReq_unversioned full hv]), ?_⟩
      exact served_put (e := noEntry r.key) (homeServe_gathered _ hg)
    · refine ⟨_, (homeRequest_judges full hi hst).trans (by rw [judgeReq_serves full hv hm hh]), ?_⟩
      exact served_put (homeServe_gathered _ hg)
    · rw [homeRequest_judges full hi hst, judgeReq_forwards full hv hm hh hc, setReq_put (by simp)]
      rfl
    · obtain ⟨hh, hfull⟩ := Classical.not_imp.mp hc
      exact homeRequest_held full hi hst hv (.inr ⟨hh, Nat.not_lt.mp hfull⟩)
    · exact homeRequest_held full hi hst hv (.inl hm)
  · intro x hst
    refine ⟨fun h => ?_, fun h => ?_⟩
    · have hput := setReq_put (s := s) (x := { r with stage := .home, since := s.now }) (by simp) r.id
      simp only [exec_requestResend, execRequestResend, hi, hst, if_pos h, hput]
      rfl
    · simp only [exec_requestResend, execRequestResend, hi, hst, if_neg (Nat.not_le.mpr h)]

end Sys2Proof.Machine
end

section
/-! PROOFS. Instructions that change the lines of tiles (R139, R162, R163, R174): the lines of one core's alcove and of its hall
rewritten, key by key, and the requests for them. -/

namespace Sys2Proof.Machine

open Sys2Proof

variable {s t u : State} {n : Nat} {ls : List TileLine} {f : TileLine → TileLine} {p q : TileKey → Bool}

/-! ### Lines chosen by their keys -/

/-- The lines of the tiles of a set changed. -/
def onKeys (p : TileKey → Bool) (f : TileLine → TileLine) (ls : List TileLine) : List TileLine :=
  ls.map fun l => if p l.key = true then f l else l

/-- Changing lines twice in the same way, by two sets of tiles, changes those of either. -/
theorem onKeys_onKeys (hkey : ∀ l, (f l).key = l.key) (hagain : ∀ l, f (f l) = f l) (p q : TileKey → Bool) :
    onKeys q f (onKeys p f ls) = onKeys (fun k => p k || q k) f ls := by
  rw [onKeys, onKeys, onKeys, List.map_map]
  refine List.map_congr_left fun l _ => ?_
  by_cases hp : p l.key <;> by_cases hq : q l.key <;> simp [hp, hq, hkey, hagain]

theorem onKeys_none (f : TileLine → TileLine) (ls : List TileLine) : onKeys (fun _ => false) f ls = ls := by simp [onKeys]

theorem onKeys_one (k : TileKey) (f : TileLine → TileLine) (ls : List TileLine) :
    onKeys (fun x => x == k) f ls = ls.map fun l => if l.key = k then f l else l := by simp [onKeys]

/-! ### What a hint changes -/

/-- The alcove of a core and its hall hold their lines of before, changed in the given ways, and so do the requests; nothing else
differs. -/
structure LinesMapped (s t : State) (n : Nat) (near far : List TileLine → List TileLine) (asked : TileReq → TileReq) : Prop where
  outside : { t with cores := s.cores, clusters := s.clusters, reqs := s.reqs } = s
  others : ∀ m, m ≠ n → t.core m = s.core m
  own : t.core n = { s.core n with alcove := near (s.core n).alcove }
  elsewhere : ∀ m, m ≠ coreCluster n → t.cluster m = s.cluster m
  hall : t.cluster (coreCluster n) = { s.cluster (coreCluster n) with hall := far (s.cluster (coreCluster n)).hall }
  reqs : t.reqs = s.reqs.map asked

variable {near near2 far far2 : List TileLine → List TileLine} {asked asked2 : TileReq → TileReq}

theorem LinesMapped.refl (s : State) (n : Nat) : LinesMapped s s n id id id :=
  ⟨rfl, fun _ _ => rfl, rfl, fun _ _ => rfl, rfl, by simp⟩

theorem LinesMapped.trans (h : LinesMapped s u n near far asked) (h2 : LinesMapped u t n near2 far2 asked2) :
    LinesMapped s t n (near2 ∘ near) (far2 ∘ far) (asked2 ∘ asked) where
  outside := by
    have hu := h.outside
    have ht := h2.outside
    rw [← hu, ← ht]
  others m hm := (h2.others m hm).trans (h.others m hm)
  own := by rw [h2.own, h.own]; rfl
  elsewhere m hm := (h2.elsewhere m hm).trans (h.elsewhere m hm)
  hall := by rw [h2.hall, h.hall]; rfl
  reqs := by rw [h2.reqs, h.reqs, List.map_map]

theorem LinesMapped.of_eq (h : LinesMapped s t n near far asked) (hnear : near = near2) (hfar : far = far2)
    (hasked : asked = asked2) : LinesMapped s t n near2 far2 asked2 := by
  subst hnear hfar hasked
  exact h

/-- The lines of a core's alcove changed. -/
theorem LinesMapped.modCore (s : State) (n : Nat) (near : List TileLine → List TileLine) :
    LinesMapped s (s.modCore n fun c => { c with alcove := near c.alcove }) n near id id :=
  ⟨rfl, fun _ hm => core_setCore_other _ _ _ _ hm, core_setCore_same .., fun _ _ => rfl, rfl, (List.map_id _).symm⟩

/-- The lines of its hall changed. -/
theorem LinesMapped.modCluster (s : State) (n : Nat) (far : List TileLine → List TileLine) :
    LinesMapped s (s.modCluster (coreCluster n) fun c => { c with hall := far c.hall }) n id far id :=
  ⟨rfl, fun _ _ => rfl, rfl, fun _ hm => cluster_setCluster_other _ _ _ _ hm, cluster_setCluster_same .., (List.map_id _).symm⟩

/-- The requests changed. -/
theorem LinesMapped.modReqs (s : State) (n : Nat) (asked : TileReq → TileReq) :
    LinesMapped s { s with reqs := s.reqs.map asked } n id id asked :=
  ⟨rfl, fun _ _ => rfl, rfl, fun _ _ => rfl, rfl, rfl⟩

theorem LinesMapped.issue (h : LinesMapped s t n near far asked) : t.issue = s.issue := (congrArg State.issue h.outside :)

theorem LinesMapped.linesKept (h : LinesMapped s t s.issue.core near far asked) :
    LinesKept { s with reqs := s.reqs.map asked } t := by
  refine ⟨?_, h.others, ?_, h.elsewhere, ?_⟩
  · exact (congrArg (fun x : State => { x with reqs := t.reqs }) h.outside).trans (by rw [h.reqs])
  · rw [State.live, h.issue, h.own]
    rfl
  · exact (congrArg (fun x => { x with hall := (s.cluster (coreCluster s.issue.core)).hall }) h.hall :)

/-- The instruction's bundle is as it was, and so is its core but for the lines. -/
theorem LinesMapped.live (h : LinesMapped s t s.issue.core near far asked) :
    t.live = { s.live with alcove := near s.live.alcove } := by
  rw [State.live, h.issue, h.own]
  rfl

theorem LinesMapped.linesKept_noReq (h : LinesMapped s t s.issue.core near far id) : LinesKept s t := by
  have hkept := h.linesKept
  rwa [List.map_id] at hkept

end Sys2Proof.Machine
end

section
/-! PROOFS. VREL (R174): the lines of its range begin to drain, and a publication of each of its tiles is sent. -/

namespace Sys2Proof.Machine

open Sys2Proof

variable {s t u : State} {n : Nat} {g rd rp : BitVec 6} {nrow ncol : BitVec 8} {r : Block}

/-! ### The drains -/

/-- A line that begins to drain for a publication, where it holds data to write back. -/
def drained (l : TileLine) : TileLine := if l.st = .dirty ∨ l.st = .draining then { l with st := .draining, keep := true } else l

theorem drained_key (l : TileLine) : (drained l).key = l.key := by unfold drained; split <;> rfl

theorem drained_drained (l : TileLine) : drained (drained l) = drained l := by
  by_cases h : l.st = .dirty ∨ l.st = .draining <;> simp [drained, h]

theorem beginDrain_mapped (n : Nat) (s : State) (k : TileKey) :
    LinesMapped s (beginDrain n s k) n (onKeys (fun x => x == k) drained) id id :=
  .of_eq (LinesMapped.modCore s n fun ls => ls.map fun l : TileLine => if l.key = k then drained l else l)
    (funext fun ls => (onKeys_one k drained ls).symm) rfl rfl

theorem beginDrains_mapped (n : Nat) (ks : List TileKey) (s : State) :
    LinesMapped s (ks.foldl (beginDrain n) s) n (onKeys (fun k => ks.contains k) drained) id id := by
  induction ks generalizing s with
  | nil => exact .of_eq (.refl s n) (funext fun ls => (onKeys_none drained ls).symm) rfl rfl
  | cons k ks ih =>
    refine .of_eq ((beginDrain_mapped n s k).trans (ih _)) (funext fun ls => ?_) rfl rfl
    rw [Function.comp_apply, onKeys_onKeys drained_key drained_drained]
    simp only [List.contains_cons]

theorem beginDrains_outside (n : Nat) (ks : List TileKey) (s : State) :
    { ks.foldl (beginDrain n) s with cores := s.cores } = s := by
  induction ks generalizing s with
  | nil => rfl
  | cons k ks ih => exact (congrArg (fun x : State => { x with cores := s.cores }) (ih (beginDrain n s k)) :)

/-! ### The publications -/

/-- The publications sent by a core for a list of tiles: their lines stand last in its list, in order. -/
structure PubsSent (r : Block) (n : Nat) (xs : List (TileKey × Option (Kind × Nat))) (s t : State) (ps : List Publication) : Prop where
  outside : { t with cores := s.cores, nextId := s.nextId } = s
  ids : t.nextId = s.nextId + xs.length
  others : ∀ m, m ≠ n → t.core m = s.core m
  own : t.core n = { s.core n with pubs := (s.core n).pubs ++ ps }
  tiles : ps.map (fun p => (p.key, p.pa)) = xs
  records : ∀ p ∈ ps, p.lrec = r

theorem addPubs_sent (pre : Core) (n : Nat) (r : Block) (xs : List (TileKey × Option (Kind × Nat))) (s : State) :
    ∃ ps, PubsSent r n xs s (xs.foldl (addPub pre n r) s) ps := by
  induction xs generalizing s with
  | nil => exact ⟨[], rfl, rfl, fun _ _ => rfl, by simp, rfl, by simp⟩
  | cons x xs ih =>
    obtain ⟨ps, h⟩ := ih (addPub pre n r s x)
    have hother : ∀ m, m ≠ n → (addPub pre n r s x).core m = s.core m := fun m hm => core_setCore_other _ _ _ _ hm
    refine ⟨{ id := s.nextId, key := x.1, lrec := r, pa := x.2, drained := !drainsFor pre x.1 } :: ps, ?_, ?_,
      fun m hm => (h.others m hm).trans (hother m hm), ?_, ?_, ?_⟩
    · exact (congrArg (fun y : State => { y with cores := s.cores, nextId := s.nextId }) h.outside :)
    · rw [List.foldl_cons, h.ids, List.length_cons]
      simp only [addPub, State.takeId, modCore_eq, State.setCore]
      omega
    · rw [List.foldl_cons, h.own, addPub, modCore_eq, core_setCore_same]
      simp only [State.takeId, List.append_assoc, List.cons_append, List.nil_append]
      rfl
    · rw [List.map_cons, h.tiles]
    · exact List.forall_mem_cons.mpr ⟨rfl, h.records⟩

theorem pubList_keys (ks : List TileKey) (pa : Option (Kind × Nat)) : (pubList ks pa).map (fun x => x.1) = ks := by
  cases ks with
  | nil => rfl
  | cons k ks => simp [pubList, Function.comp_def]

theorem pubList_length (ks : List TileKey) (pa : Option (Kind × Nat)) : (pubList ks pa).length = ks.length := by
  cases ks <;> simp [pubList]

theorem pubList_regs {ks : List TileKey} (h : ks ≠ []) (pa : Option (Kind × Nat)) :
    (pubList ks pa).map (fun x => x.2) = pa :: List.replicate (ks.length - 1) none := by
  cases ks with
  | nil => exact absurd rfl h
  | cons k ks => simp [pubList, Function.comp_def]

/-! ### The register -/

theorem awaitReg_snd (s : State) (rd : BitVec 6) :
    (s.awaitReg rd).2 = if rd = 0 then none else some (s.issue.kind, destReg s rd) := by
  unfold State.awaitReg destReg
  split <;> rfl

/-- A core with a register of a strand waiting for data. -/
def Core.awaits (c : Core) (k : Kind) (ps : List Nat) : Core :=
  c.setStrand k { c.strand k with pend := (c.strand k).pend ++ ps }

theorem awaits_alcove (c : Core) (k : Kind) (ps : List Nat) : (c.awaits k ps).alcove = c.alcove := by cases k <;> rfl

theorem awaits_pubs (c : Core) (k : Kind) (ps : List Nat) : (c.awaits k ps).pubs = c.pubs := by cases k <;> rfl

theorem strand_withPubs (c : Core) (k : Kind) (ps : List Publication) : ({ c with pubs := ps } : Core).strand k = c.strand k := by
  cases k <;> rfl

theorem strand_withAlcove (c : Core) (k : Kind) (ls : List TileLine) : ({ c with alcove := ls } : Core).strand k = c.strand k := by
  cases k <;> rfl

theorem awaits_strand (c : Core) (k : Kind) (ps : List Nat) :
    (c.awaits k ps).strand k = { c.strand k with pend := (c.strand k).pend ++ ps } := strand_setStrand_same ..

theorem awaitReg_outside (s : State) (rd : BitVec 6) :
    { (s.awaitReg rd).1 with cores := s.cores } = s ∧
    (∀ m, m ≠ s.issue.core → (s.awaitReg rd).1.core m = s.core m) ∧
    (s.awaitReg rd).1.core s.issue.core = s.live.awaits s.issue.kind (if rd = 0 then [] else [destReg s rd]) := by
  unfold State.awaitReg destReg
  split
  · refine ⟨rfl, fun _ _ => rfl, ?_⟩
    rw [Core.awaits, List.append_nil]
    exact (setStrand_strand ..).symm
  · exact ⟨rfl, fun m hm => core_setCore_other _ _ _ _ hm, core_setCore_same ..⟩

/-! ### The obligation -/

/-- VREL where it goes on: without a tile to publish its register takes 0. -/
theorem vrel_runs (h : Runs s g [rd, rp, pairOdd rp]) (hm : MayAccess s) (hr : handleRec s.issue.pre.recs (s.rd rp) = some r)
    {ks : List TileKey} (hks : ks = rangeKeys s r (s.rd (pairOdd rp)) nrow ncol)
    {t : State} (ht : t = ks.foldl (beginDrain s.issue.core) s) :
    exec (.vrel g rd rp nrow ncol) s = if !recVersioned r || ks.isEmpty then .next (t.wr rd 0)
      else .next ((pubList ks (t.awaitReg rd).2).foldl (addPub s.live s.issue.core r) (t.awaitReg rd).1) := by
  subst hks ht
  rw [exec_vrel, execVrel, guarded_ready h, memReady_of hm]
  simp only [hr]

theorem vrel_faults (h : Runs s g [rd, rp, pairOdd rp]) (hm : MayAccess s) (hr : handleRec s.issue.pre.recs (s.rd rp) = none) :
    FaultsWith (.vrel g rd rp nrow ncol) s 6 0 (s.rd rp) := by
  obtain ⟨t, ht, hf⟩ := faultAt_faulted s 6 0 (s.rd rp) 0 (by decide) (by decide)
  refine ⟨t, ?_, hf⟩
  rw [exec_vrel, execVrel, guarded_ready h, memReady_of hm]
  simp only [hr, ht]

/-- The lines of an alcove after the drains of VREL, as the statement writes them. -/
theorem onKeys_drained (ks : List TileKey) (ls : List TileLine) : onKeys (fun k => ks.contains k) drained ls = ls.map fun l =>
    if ks.contains l.key = true ∧ (l.st = .dirty ∨ l.st = .draining) then { l with st := .draining, keep := true } else l := by
  refine List.map_congr_left fun l _ => ?_
  rw [drained, ite_and]

/-- Settles O31: the drains are `beginDrains_mapped`, the publications `addPubs_sent`. -/
theorem versionRelease : Obligations.VersionRelease := by
  intro s g rd rp nrow ncol h hm i drains
  refine ⟨vrel_faults h hm, fun r hr => ?_⟩
  intro ks
  obtain ⟨t, ht⟩ : ∃ t, t = ks.foldl (beginDrain s.issue.core) s := ⟨_, rfl⟩
  have hrun := vrel_runs (nrow := nrow) (ncol := ncol) h hm hr rfl ht
  have hdr : LinesMapped s t s.issue.core (onKeys (fun k => ks.contains k) drained) id id := ht ▸ beginDrains_mapped ..
  have hout : { t with cores := s.cores } = s := ht ▸ beginDrains_outside ..
  have hissue := hdr.issue
  have hlines : t.live.alcove = drains ks s.live.alcove := (congrArg Core.alcove hdr.live).trans (onKeys_drained ks _)
  have hdest : destReg t rd = destReg s rd := by rw [destReg, State.pre, hissue]; rfl
  refine ⟨fun hnone => ⟨t, t.wr rd 0, hrun.trans (if_pos ?_), hdr.linesKept_noReq, (congrArg State.clusters hout :), hlines,
    hdest ▸ wr_written t rd 0⟩, fun hver hks => ?_⟩
  · rcases hnone with hv | hks
    · simp [hv]
    · simp [show rangeKeys s r (s.rd (pairOdd rp)) nrow ncol = [] from hks]
  · obtain ⟨haout, haother, halive⟩ := awaitReg_outside t rd
    obtain ⟨ps, hps⟩ := addPubs_sent s.live s.issue.core r (pubList ks (t.awaitReg rd).2) (t.awaitReg rd).1
    generalize hu : (t.awaitReg rd).1 = u at *
    generalize hv : (pubList ks (t.awaitReg rd).2).foldl (addPub s.live s.issue.core r) u = v at *
    rw [hissue] at haother
    have houtv : { v with cores := s.cores, nextId := s.nextId } = s :=
      ((congrArg (fun x : State => { x with cores := s.cores, nextId := s.nextId }) hps.outside :).trans
        (congrArg (fun x : State => { x with cores := s.cores, nextId := s.nextId }) haout :)).trans
        (congrArg (fun x : State => { x with cores := s.cores, nextId := s.nextId }) hout :)
    have hids : u.nextId = s.nextId := (congrArg State.nextId haout :).trans (congrArg State.nextId hout :)
    have hissuev : v.issue = s.issue := (congrArg State.issue houtv :)
    have hlive : v.live = { t.live.awaits s.issue.kind (if rd = 0 then [] else [destReg s rd]) with pubs := s.live.pubs ++ ps } := by
      rw [hissue, hdest] at halive
      rw [State.live, hissuev, hps.own, halive, awaits_pubs, hdr.live]
    have hkeys : ps.map (fun p => p.key) = ks := by
      rw [← pubList_keys ks (t.awaitReg rd).2, ← hps.tiles, List.map_map]
      rfl
    refine ⟨v, ps, hrun.trans (if_neg (by simpa [hver] using hks)), houtv, ?_, fun n hn => ?_, ?_, ?_, hkeys, hps.records, ?_, ?_⟩
    · rw [hps.ids, hids, pubList_length]
    · rw [hps.others n hn, haother n hn, hdr.others n hn]
    · rw [hlive]
      exact (awaits_alcove ..).trans hlines
    · rw [hlive]
    · have hregs := pubList_regs hks (t.awaitReg rd).2
      rwa [← hps.tiles, List.map_map, awaitReg_snd, hissue, hdest] at hregs
    · rw [act, hlive, hissuev]
      rw [strand_withPubs, awaits_strand, hdr.live, strand_withAlcove]
      rfl

end Sys2Proof.Machine
end

section
/-! PROOFS. The traffic of tiles (R134 to R140, R275 to R282, R351 to R356, R415): what lookups, fills, write-backs and
publications may change of the state, whatever their outcome. -/

namespace Sys2Proof.Machine

open Sys2Proof

variable {s t u : State}

/-! ### The frame -/

/-- Nothing differs but cores, clusters, memory with what the device keeps of it, the directory, the requests for tiles, the
numbers given to new ones, and the faults posted. -/
def TileTraffic (s t : State) : Prop :=
  { t with cores := s.cores, clusters := s.clusters, mem := s.mem, poison := s.poison, zeros := s.zeros, moves := s.moves,
           hist := s.hist, nextId := s.nextId, dir := s.dir, reqs := s.reqs, posts := s.posts } = s

theorem TileTraffic.refl (s : State) : TileTraffic s s := rfl

theorem TileTraffic.trans (h : TileTraffic s u) (h2 : TileTraffic u t) : TileTraffic s t := by
  unfold TileTraffic at *
  rw [← h, ← h2]

theorem TileTraffic.foldl {α : Type} (f : State → α → State) (hf : ∀ t x, TileTraffic t (f t x)) (xs : List α) (s : State) :
    TileTraffic s (xs.foldl f s) := by
  induction xs generalizing s with
  | nil => exact .refl s
  | cons x xs ih => exact (hf s x).trans (ih _)

theorem TileTraffic.foldl_fst {α β : Type} (f : State × β → α → State × β) (hf : ∀ t x, TileTraffic t.1 (f t x).1) (xs : List α)
    (a : State × β) : TileTraffic a.1 (xs.foldl f a).1 := by
  induction xs generalizing a with
  | nil => exact .refl a.1
  | cons x xs ih => exact (hf a x).trans (ih _)

theorem TileTraffic.ite {p : Prop} [Decidable p] (ht : TileTraffic s t) (hu : TileTraffic s u) :
    TileTraffic s (if p then t else u) := by split <;> assumption

theorem TileTraffic.modCluster (h : TileTraffic s t) (n : Nat) (f : Cluster → Cluster) : TileTraffic s (t.modCluster n f) :=
  h.trans rfl

theorem TileTraffic.setCore (h : TileTraffic s t) (n : Nat) (c : Core) : TileTraffic s (t.setCore n c) := h.trans rfl

theorem TileTraffic.putReqs (h : TileTraffic s t) (qs : List TileReq) : TileTraffic s { t with reqs := qs } := h.trans rfl

theorem TileTraffic.setReq (h : TileTraffic s t) (id : Nat) (r : Option TileReq) : TileTraffic s (setReq t id r) := h.trans rfl

theorem TileTraffic.issue (h : TileTraffic s t) : t.issue = s.issue := (congrArg State.issue h :)

theorem MemoryOnly.traffic (h : MemoryOnly s t) : TileTraffic s t :=
  (congrArg (fun x : State => { x with cores := s.cores, clusters := s.clusters, dir := s.dir, reqs := s.reqs, posts := s.posts }) h :)

/-! ### The home (R353, R354, R356) -/

theorem setDir_traffic (s : State) (e : DirEntry) : TileTraffic s (setDir s e) := by
  simp only [setDir]
  split_ifs <;> rfl

theorem dataFault_traffic (s : State) (ctx : BitVec 12) (code die : Nat) (unit pc : Word) (pa : Nat) :
    TileTraffic s (s.dataFault ctx code die unit pc pa) := by
  unfold State.dataFault
  split <;> rfl

theorem tileFault_traffic (s : State) (ctx : BitVec 12) (unit pc base fqw : Word) (f : AccFail) :
    TileTraffic s (tileFault s ctx unit pc base fqw f) := by
  cases f with
  | access => rfl
  | walk => rfl
  | data => exact .ite (dataFault_traffic ..) rfl

theorem dropFilling_traffic (s : State) (r : TileReq) : TileTraffic s (dropFilling s r) := by
  simp only [dropFilling]
  split <;> rfl

theorem endHint_traffic (s : State) (r : TileReq) (f : AccFail) : TileTraffic s (endHint s r f) := by
  refine TileTraffic.trans ?_ (dropFilling_traffic ..)
  cases f with
  | access => rfl
  | walk => rfl
  | data => exact .ite (dataFault_traffic ..) rfl

theorem homeServe_traffic (s : State) (r : TileReq) (e : DirEntry) : TileTraffic s (homeServe s r e).1 := by
  simp only [homeServe]
  split
  · obtain ⟨ms, h⟩ := markTile_eq s r.cluster r.key.ctx r.lrec r.key.outer.toNat r.key.trow.toNat r.key.tcol.toNat
    rw [h]
    rfl
  · split
    · exact endHint_traffic ..
    · split <;> exact tileFault_traffic ..

theorem judgeReq_traffic (s : State) (r : TileReq) (full : Bool) : TileTraffic s (judgeReq s r full).1 := by
  simp only [judgeReq]
  split_ifs
  · exact homeServe_traffic ..
  · rfl
  · exact setDir_traffic ..
  · rfl
  · exact homeServe_traffic ..

theorem rejudge_traffic (s : State) (k : TileKey) : TileTraffic s (rejudge s k) := by
  have h (ps : List TileReq) : TileTraffic s (ps.foldl (fun t r =>
      setReq (judgeReq t { r with stage := .home } false).1 r.id (judgeReq t { r with stage := .home } false).2) s) := by
    refine .foldl _ (fun t r => ?_) ps s
    exact (judgeReq_traffic ..).setReq ..
  simp only [rejudge]
  split_ifs
  · exact (h _).trans (setDir_traffic ..)
  · exact h _

theorem scatterTile_traffic {p : Party} {ast : Bool} {cl : Nat} {ctx : BitVec 12} {r : Block} {o a b : Nat} {l : Line}
    (e : scatterTile p ast s cl ctx r o a b l = .ok t) : TileTraffic s t := by
  have hfrom {xs : List (Nat × Nat)} {v : State} (e : scatterFrom ast cl ctx r o a b l xs v = .ok t) : MemoryOnly v t := by
    induction xs generalizing v with
    | nil => cases e; rfl
    | cons x xs ih =>
      simp only [scatterFrom] at e
      split at e
      · exact ih e
      · split at e
        · exact ih e
        · split at e
          · cases e
          · next h => exact (writeElem_memoryOnly h).trans (ih e)
  exact (((noteElems_memoryOnly ..).trans (clearCovered_memoryOnly ..)).trans (hfrom e)).traffic

theorem homeWrite_traffic (s : State) (cl : Nat) (l : TileLine) : TileTraffic s (homeWrite s cl l) := by
  simp only [homeWrite]
  split
  · rfl
  · split
    · exact tileFault_traffic ..
    · next hw =>
      have ht := scatterTile_traffic hw
      exact .ite ((ht.trans (.ite (setDir_traffic ..) rfl)).trans (rejudge_traffic ..)) ht

/-! ### Write-backs (R415) -/

theorem writeBack_traffic (s : State) (n : Nat) (l : TileLine) (own : BitVec 8) : TileTraffic s (writeBack s n l own) := by
  have hthen {v : State} (hv : TileTraffic s v) (p : TileLine) (b : Bool) :
      TileTraffic s (if b then homeWrite v (coreCluster n) p else v) := .ite (hv.trans (homeWrite_traffic ..)) hv
  have hvictim (v : TileLine) : TileTraffic s (if v.st = .dirty then homeWrite s (coreCluster n) v else s) :=
    .ite (homeWrite_traffic ..) rfl
  simp only [writeBack]
  split
  · exact .ite rfl (hthen (.modCluster (.refl s) ..) _ _)
  · refine .ite (homeWrite_traffic ..) ?_
    split
    · exact hthen (.modCluster (.refl s) ..) _ _
    · exact hthen ((hvictim _).modCluster ..) _ _
    · exact homeWrite_traffic ..

theorem drainLine_traffic (s : State) (n : Nat) (l : TileLine) (keep : Bool) : TileTraffic s (drainLine s n l keep) :=
  (writeBack_traffic ..).setCore ..

/-! ### Requests and fills (R136, R276, R279) -/

theorem hallReserve_traffic (s : State) (r : TileReq) (pins : BitVec 16) : TileTraffic s (hallReserve s r pins).1 := by
  have hvictim (v : TileLine) : TileTraffic s (if v.st = .dirty then homeWrite s r.cluster v else s) :=
    .ite (homeWrite_traffic ..) rfl
  simp only [hallReserve]
  split
  · rfl
  · exact (hvictim _).modCluster ..
  · split <;> rfl

theorem hallLookup_traffic (s : State) (r : TileReq) : TileTraffic s (hallLookup s r).1 := by
  have hdrop (v : TileLine) : TileTraffic s (if v.st = .clean then s else homeWrite s r.cluster v) :=
    .ite rfl (homeWrite_traffic ..)
  simp only [hallLookup]
  split
  · split <;> rfl
  · split
    · rfl
    · split
      · split
        · rfl
        · exact ((hdrop _).modCluster ..).trans (hallReserve_traffic ..)
      · exact hallReserve_traffic ..

theorem newReq_traffic (s : State) (r : TileReq) : TileTraffic s (newReq s r) := by
  have h := (show TileTraffic s s.takeId.2 from rfl).trans
    (hallLookup_traffic s.takeId.2 { r with id := s.takeId.1, asOf := s.takeId.1 })
  simp only [newReq]
  split
  · exact h
  · exact h.trans rfl

theorem fillHall_traffic (s : State) (cl : Nat) (k : TileKey) (r : Block) (f : FillFor) (p : Option Nat) :
    TileTraffic s (fillHall s cl k r f p) := by
  unfold fillHall
  exact .ite rfl (newReq_traffic ..)

theorem startFill_traffic (s : State) (n : Nat) (k : TileKey) (r : Block) (f : FillFor) : TileTraffic s (startFill s n k r f) := by
  have hvictim (v : TileLine) : TileTraffic s (if v.st = .dirty then drainLine s n v false else s) :=
    .ite (drainLine_traffic ..) rfl
  simp only [startFill]
  split
  · exact (TileTraffic.setCore (.refl s) ..).trans (newReq_traffic ..)
  · exact ((hvictim _).setCore ..).trans (newReq_traffic ..)
  · refine .ite rfl ?_
    simp only [awaitWay]
    exact .ite rfl rfl

theorem lookupTile_traffic {n : Nat} {k : TileKey} {r : Block} {m : Option (BitVec 8)} {who : Option (Kind × Word × Word)}
    (h : lookupTile s n k r m who = .missed t) : TileTraffic s t := by
  simp only [lookupTile] at h
  split at h
  · cases h
  · split at h
    · cases h; exact startFill_traffic ..
    · split at h <;> cases h
      · rfl
      · rfl
      · exact (TileTraffic.setCore (.refl s) ..).trans (startFill_traffic ..)
      · rfl

theorem lookWants_traffic (s : State) (n : Nat) (p : Parked) : TileTraffic s (lookWants s n p) := by
  refine .foldl _ (fun t w => ?_) _ s
  simp only [lookWant]
  split
  · rfl
  · next h => exact lookupTile_traffic h

/-! ### Publications and record changes (R140, R174) -/

theorem publishTile_traffic (s : State) (cl : Nat) (k : TileKey) : TileTraffic s (publishTile s cl k) :=
  ((TileTraffic.modCluster (.refl s) ..).trans (setDir_traffic ..)).trans (rejudge_traffic ..)

theorem performPub_traffic (s : State) (n : Nat) (p : Publication) : TileTraffic s (performPub s n p) := by
  have hdrain : TileTraffic s (match lineOf (s.core n).alcove p.key with
      | none => s
      | some l => if !p.drained && l.st == LineState.draining then drainLine s n l true else s) := by
    split
    · rfl
    · exact .ite (drainLine_traffic ..) rfl
  simp only [performPub]
  exact .ite (hdrain.setCore ..) (((hdrain.setCore ..).trans (publishTile_traffic ..)).setCore ..)

theorem performPubs_traffic (s : State) (n : Nat) : TileTraffic s (performPubs s n) :=
  .foldl _ (fun _ _ => performPub_traffic ..) _ s

theorem drainAlcove_traffic (s : State) (n : Nat) (p : TileLine → Bool) : TileTraffic s (drainAlcove s n p) := by
  have hpubs : TileTraffic s (if (s.core n).alcove.any fun l => l.forPub && p l then performPubs s n else s) :=
    .ite (performPubs_traffic ..) rfl
  exact hpubs.trans (.foldl _ (fun _ _ => drainLine_traffic ..) _ _)

theorem purgeTensor_traffic (s : State) (n : Nat) (ctx : BitVec 12) (tid : BitVec 24) : TileTraffic s (purgeTensor s n ctx tid) :=
  ((drainAlcove_traffic ..).setCore ..).putReqs _

end Sys2Proof.Machine
end

section
/-! PROOFS. Layout records (R140, R145, R148, R161): the record cache after an installation, the tensor whose lines are purged, and
LAYDEF and LAYINV. -/

namespace Sys2Proof.Machine

open Sys2Proof

variable {s t u : State} {n : Nat} {g ra : BitVec 6} {r x : Block} {rs qs : List Block} {bs : List Byte} {tid : BitVec 24}

/-! ### The record cache (R145, R148) -/

theorem findRec_isSome : (findRec rs tid).isSome = rs.any fun x => recTid x == tid := by
  rw [Bool.eq_iff_iff, findRec, List.find?_isSome, List.any_eq_true]

/-- Records replaced by one of the same tensor are found in its place. -/
theorem findRec_replaced (rs : List Block) (r : Block) (tid : BitVec 24) :
    findRec (rs.map fun x => if recTid x == recTid r then r else x) tid =
      (findRec rs tid).map fun x => if tid = recTid r then r else x := by
  have hsame : (fun y : Block => recTid y == tid) ∘ (fun x => if recTid x == recTid r then r else x) = fun x => recTid x == tid := by
    funext y
    by_cases hy : recTid y = recTid r <;> simp [hy]
  rw [findRec, List.find?_map, hsame, findRec]
  cases hf : rs.find? fun x => recTid x == tid with
  | none => rfl
  | some y =>
    have hy : recTid y = tid := by simpa using List.find?_some hf
    simp [hy]

/-- An installed record is found, and the records of other tensors as before. -/
theorem findRec_installRec (h : installRec rs r = some qs) :
    findRec qs (recTid r) = some r ∧ ∀ tid, tid ≠ recTid r → findRec qs tid = findRec rs tid := by
  unfold installRec at h
  split_ifs at h with hin hroom <;> cases h
  · refine ⟨?_, fun tid htid => ?_⟩
    · rw [← findRec_isSome] at hin
      obtain ⟨y, hy⟩ := Option.isSome_iff_exists.mp hin
      rw [findRec_replaced, hy]
      simp
    · rw [findRec_replaced]
      simp [htid]
  · rw [Bool.not_eq_true, ← findRec_isSome, Option.isSome_eq_false_iff, Option.isNone_iff_eq_none] at hin
    refine ⟨?_, fun tid htid => ?_⟩
    · rw [findRec, List.find?_append, show rs.find? (fun x => recTid x == recTid r) = none from hin]
      simp
    · simp [findRec, List.find?_append, htid.symm]

theorem installRec_room (h : (findRec rs (recTid r)).isSome = true ∨ rs.length < 64) : ∃ qs, installRec rs r = some qs := by
  rw [findRec_isSome] at h
  unfold installRec
  split_ifs with hin hroom
  · exact ⟨_, rfl⟩
  · exact ⟨_, rfl⟩
  · exact absurd h (not_or.mpr ⟨hin, hroom⟩)

/-! ### A tensor purged (R140) -/

/-- No core has other records than before. -/
structure RecsKept (s t : State) : Prop where
  recs : ∀ m, (t.core m).recs = (s.core m).recs

theorem RecsKept.refl (s : State) : RecsKept s s := ⟨fun _ => rfl⟩

theorem RecsKept.trans (h : RecsKept s u) (h2 : RecsKept u t) : RecsKept s t := ⟨fun m => (h2.recs m).trans (h.recs m)⟩

theorem RecsKept.foldl {α : Type} (f : State → α → State) (hf : ∀ t x, RecsKept t (f t x)) (xs : List α) (s : State) :
    RecsKept s (xs.foldl f s) := by
  induction xs generalizing s with
  | nil => exact .refl s
  | cons x xs ih => exact (hf s x).trans (ih _)

theorem AlcovesOnly.recsKept (h : AlcovesOnly s t) : RecsKept s t := ⟨fun m => by
  obtain ⟨a, ha⟩ := h.lines m
  rw [ha]⟩

theorem RecsKept.modCore (h : RecsKept s t) (n : Nat) {f : Core → Core} (hf : ∀ c, (f c).recs = c.recs) :
    RecsKept s (t.modCore n f) := ⟨fun m => by
  rw [modCore_eq]
  by_cases hm : m = n
  · rw [hm, core_setCore_same, hf, h.recs n]
  · rw [core_setCore_other _ _ _ _ hm, h.recs m]⟩

theorem drainLine_recs (s : State) (n : Nat) (l : TileLine) (keep : Bool) : RecsKept s (drainLine s n l keep) := by
  unfold drainLine
  exact .modCore (writeBack_alcoves ..).recsKept n fun _ => by rfl

theorem publishTile_recs (s : State) (cl : Nat) (k : TileKey) : RecsKept s (publishTile s cl k) :=
  (((AlcovesOnly.of_cores (modCluster_cores ..)).then_cores (setDir_cores ..)).trans (rejudge_alcoves ..)).recsKept

theorem setStrand_recs (c : Core) (k : Kind) (st : Strand) : (c.setStrand k st).recs = c.recs := by cases k <;> rfl

theorem performPub_recs (s : State) (n : Nat) (p : Publication) : RecsKept s (performPub s n p) := by
  unfold performPub
  extract_lets s1 s2 v s3
  have h1 : RecsKept s s1 := by
    unfold s1
    split
    · exact .refl s
    · split
      · exact drainLine_recs ..
      · exact .refl s
  have h2 : RecsKept s s2 := h1.modCore n fun _ => by rfl
  split
  · exact h2
  · refine (h2.trans (publishTile_recs s2 (coreCluster n) p.key)).modCore n fun c => ?_
    dsimp only
    split
    · rfl
    · exact setStrand_recs ..

theorem drainAlcove_recs (s : State) (n : Nat) (p : TileLine → Bool) : RecsKept s (drainAlcove s n p) := by
  have hpubs : RecsKept s (if (s.core n).alcove.any fun l => l.forPub && p l then performPubs s n else s) := by
    split
    · exact .foldl _ (fun _ _ => performPub_recs ..) _ s
    · exact .refl s
  exact hpubs.trans (.foldl _ (fun _ _ => drainLine_recs ..) _ _)

theorem purgeTensor_recs (s : State) (n : Nat) (ctx : BitVec 12) (tid : BitVec 24) : RecsKept s (purgeTensor s n ctx tid) := by
  unfold purgeTensor
  extract_lets mine t
  have ht : RecsKept s t := (drainAlcove_recs ..).modCore n fun _ => by rfl
  exact ⟨ht.recs⟩

/-- No line of a purged tensor stays. -/
theorem purgeTensor_purged (s : State) (n : Nat) (ctx : BitVec 12) (tid : BitVec 24) :
    ∀ l ∈ ((purgeTensor s n ctx tid).core n).alcove, ¬(l.key.ctx = ctx ∧ l.key.tid = tid) := by
  intro l hl
  have hcore : (purgeTensor s n ctx tid).core n = { (drainAlcove s n fun l => l.key.ctx == ctx && l.key.tid == tid).core n with
      alcove := ((drainAlcove s n fun l => l.key.ctx == ctx && l.key.tid == tid).core n).alcove.filter fun l =>
        !(l.key.ctx == ctx && l.key.tid == tid) } := core_setCore_same ..
  rw [hcore] at hl
  have hkeep := (List.mem_filter.mp hl).2
  simpa only [Bool.not_eq_true', Bool.and_eq_false_iff, beq_eq_false_iff_ne, not_and_or] using hkeep

/-- A core none of whose lines drains for a publication changes in its lines only. -/
theorem purgeTensor_lines (h : ∀ l ∈ (s.core n).alcove, l.forPub = false) (ctx : BitVec 12) (tid : BitVec 24) :
    LinesOnly s (purgeTensor s n ctx tid) n := by
  have hnone : ((s.core n).alcove.any fun l => l.forPub && (l.key.ctx == ctx && l.key.tid == tid)) = false :=
    List.any_eq_false.mpr fun l hl => by simp [h l hl]
  exact (drainAlcove_lines s n _ hnone).trans (.setAlcove ..)

/-- Without a line to write back a purge leaves memory alone. -/
theorem purgeTensor_mem (h : CleanAt s n) (ctx : BitVec 12) (tid : BitVec 24) : (purgeTensor s n ctx tid).mem = s.mem := by
  have hforPub (p : TileLine → Bool) : ((s.core n).alcove.any fun l => l.forPub && p l) = false :=
    List.any_eq_false.mpr fun l hl => by simp [TileLine.forPub, h.1 l hl]
  have hlines (p : TileLine → Bool) : ((s.core n).alcove.filter fun l => (l.st == .dirty || l.st == .draining) && p l) = [] :=
    List.filter_eq_nil_iff.mpr fun l hl => by simp [h.1 l hl]
  have hdrain (p : TileLine → Bool) : drainAlcove s n p = s := by
    simp only [drainAlcove, hforPub, Bool.false_eq_true, if_false, hlines, List.foldl_nil]
  simp only [purgeTensor, hdrain]
  rfl

theorem LinesOnly.othersKept (h : LinesOnly s t n) : OthersKept s t n := fun m hm => by
  obtain ⟨a, ha⟩ := h.1 m hm
  rw [ha]

theorem LinesOnly.strand (h : LinesOnly s t n) (k : Kind) : (t.core n).strand k = (s.core n).strand k := by
  obtain ⟨-, a, p, ha⟩ := h
  rw [ha]
  cases k <;> rfl

/-- The acting core's lines changed, and then its records. -/
theorem strandsKept_putRecs (hi : t.issue = s.issue) (h : LinesOnly s t s.issue.core) (rs : List Block) :
    StrandsKept s (t.setCore s.issue.core { t.core s.issue.core with recs := rs }) := by
  refine ⟨hi, fun m hm => ?_, fun k => ?_⟩
  · rw [core_setCore_other _ _ _ _ hm]
    exact h.othersKept m hm
  · have hlive : (t.setCore s.issue.core { t.core s.issue.core with recs := rs }).live =
        { t.core s.issue.core with recs := rs } := by
      rw [State.live, show (t.setCore s.issue.core _).issue = s.issue from hi, core_setCore_same]
    rw [hlive, State.live, ← h.strand k]
    cases k <;> rfl

/-! ### The instructions -/

theorem laydef_misaligned (h : Runs s g [ra]) (hm : MayAccess s) (ha : (s.rd ra).toNat % 128 ≠ 0) :
    exec (.laydef g ra) s = trapAt s 1 (s.rd ra) := by
  rw [exec_laydef, execLaydef, guarded_ready h, memReady_of hm]
  exact if_pos ha

theorem laydef_refused (h : Runs s g [ra]) (hm : MayAccess s) (ha : (s.rd ra).toNat % 128 = 0) (hr : ReadsAt s (s.rd ra) 128 bs)
    (hbad : (recordOk (blockOf bs) && arenaOk (blockOf bs)) = false ∨ installRec s.live.recs (blockOf bs) = none) :
    exec (.laydef g ra) s = trapAt s 12 (s.rd ra) := by
  rw [exec_laydef, execLaydef, guarded_ready h, memReady_of hm, if_neg (not_not.2 ha), strandRead_reads hr]
  rcases hbad with hbad | hfull
  · exact if_neg (by simp [hbad])
  · simp only [hfull]
    exact ite_self _

theorem laydef_installs (h : Runs s g [ra]) (hm : MayAccess s) (ha : (s.rd ra).toNat % 128 = 0) (hr : ReadsAt s (s.rd ra) 128 bs)
    (hok : (recordOk (blockOf bs) && arenaOk (blockOf bs)) = true) (hi : installRec s.live.recs (blockOf bs) = some rs) :
    exec (.laydef g ra) s = .next (installAt s s.issue.core (blockOf bs) rs) := by
  rw [exec_laydef, execLaydef, guarded_ready h, memReady_of hm, if_neg (not_not.2 ha), strandRead_reads hr]
  simp only [hok, hi, if_true]

/-- The state before a record is put into the cache: a record of its tensor is replaced after the purge of its lines. -/
def beforeInstall (s : State) (r : Block) : State :=
  if (findRec s.live.recs (recTid r)).isSome then purgeTensor s s.issue.core s.live.ctx (recTid r) else s

theorem installAt_eq (s : State) (r : Block) (rs : List Block) : installAt s s.issue.core r rs =
    (beforeInstall s r).setCore s.issue.core { (beforeInstall s r).core s.issue.core with recs := rs } := rfl

theorem beforeInstall_issue (s : State) (r : Block) : (beforeInstall s r).issue = s.issue := by
  unfold beforeInstall
  split
  · exact (purgeTensor_traffic ..).issue
  · rfl

theorem layinv_nothing (h : Runs s g [ra]) (hm : MayAccess s) (hx : handleRec s.issue.pre.recs (s.rd ra) = none) :
    exec (.layinv g ra) s = .next s := by
  rw [exec_layinv, execLayinv, guarded_ready h, memReady_of hm]
  simp only [hx]

theorem layinv_removes (h : Runs s g [ra]) (hm : MayAccess s) (hx : handleRec s.issue.pre.recs (s.rd ra) = some x)
    (ht : t = purgeTensor s s.issue.core s.live.ctx (recTid x)) : exec (.layinv g ra) s =
      .next (t.setCore s.issue.core { t.core s.issue.core with
        recs := (t.core s.issue.core).recs.filter fun y => recTid y != recTid x }) := by
  have hissue : t.issue = s.issue := ht ▸ (purgeTensor_traffic ..).issue
  rw [exec_layinv, execLayinv, guarded_ready h, memReady_of hm]
  simp only [hx, ← ht]
  rw [modLive_eq, State.live, hissue]

/-! ### The obligation -/

/-- Settles O27: the cache is `findRec_installRec`, and what else may change is the purge of the tensor's lines
(`purgeTensor_lines`, `purgeTensor_purged`, `purgeTensor_mem`). -/
theorem recordInstructions : Obligations.RecordInstructions := by
  intro s g ra bs h hm ea r ok purged
  have hlive {t : State} (hi : t.issue = s.issue) (c : Core) : (t.setCore s.issue.core c).live = c := by
    rw [State.live, show (t.setCore s.issue.core c).issue = s.issue from hi, core_setCore_same]
  refine ⟨fun ha => trapsWith_of_trapAt (laydef_misaligned h hm ha),
    fun ha hr hbad => trapsWith_of_trapAt (laydef_refused h hm ha hr hbad), fun ha hr hok hroom => ?_,
    fun hx => layinv_nothing h hm hx, fun x hx => ?_⟩
  · obtain ⟨rs, hrs⟩ := installRec_room hroom
    obtain ⟨hsame, hother⟩ := findRec_installRec hrs
    have hissue := beforeInstall_issue s r
    refine ⟨_, laydef_installs h hm ha hr hok hrs, ?_⟩
    rw [installAt_eq, hlive hissue]
    refine ⟨fun hnd => strandsKept_putRecs hissue ?_ rs, hsame, hother, fun hnone => ?_, fun hsome => ?_, fun hc a => ?_⟩
    · unfold beforeInstall
      split
      · exact purgeTensor_lines hnd ..
      · exact .refl ..
    · have hbefore : beforeInstall s r = s := by simp [beforeInstall, hnone]
      rw [show blockOf bs = r from rfl, hbefore]
      exact ⟨.setCore .., rfl⟩
    · have hbefore : beforeInstall s r = purgeTensor s s.issue.core s.live.ctx (recTid r) := by simp [beforeInstall, hsome]
      intro l hl
      rw [hlive hissue, hbefore] at hl
      exact purgeTensor_purged _ _ _ _ l hl
    · have hmem : (beforeInstall s r).mem = s.mem := by
        unfold beforeInstall
        split
        · exact purgeTensor_mem hc ..
        · rfl
      exact congrArg (fun m => readByte m a) hmem
  · obtain ⟨t, ht⟩ : ∃ t, t = purgeTensor s s.issue.core s.live.ctx (recTid x) := ⟨_, rfl⟩
    have hissue : t.issue = s.issue := ht ▸ (purgeTensor_traffic ..).issue
    refine ⟨_, layinv_removes h hm hx ht, fun hnd => strandsKept_putRecs hissue (ht ▸ purgeTensor_lines hnd ..) _, ?_, fun l hl => ?_,
      fun hc a => ?_⟩
    · rw [hlive hissue]
      exact congrArg (List.filter _) (ht ▸ (purgeTensor_recs s s.issue.core _ _).recs s.issue.core)
    · rw [hlive hissue, ht] at hl
      exact purgeTensor_purged _ _ _ _ l hl
    · exact congrArg (fun m => readByte m a) (ht ▸ purgeTensor_mem hc .. : t.mem = s.mem)

end Sys2Proof.Machine
end

section
/-! PROOFS. The hints of tiles (R162, R163, R164, R280): PIN, UNPIN, STREAM and LASTUSE, over the tiles of their range. -/

namespace Sys2Proof.Machine

open Sys2Proof

variable {s t u : State} {n : Nat} {g rd rp : BitVec 6} {nrow ncol : BitVec 8} {lvl : BitVec 2}

/-- The tiles of a hint's range, in order; none for one that is skipped. -/
abbrev Tiles := List (Option (TileKey × Block))

variable {x : Option (TileKey × Block)} {ts : Tiles} {k : TileKey} {r : Block}

/-! ### A change made tile by tile -/

theorem named_cons (x : Option (TileKey × Block)) (ts : Tiles) (k : TileKey) : named (x :: ts) k = (named [x] k || named ts k) := by
  simp [named]

theorem named_nil (k : TileKey) : named [] k = false := rfl

theorem named_none (k : TileKey) : named [none] k = false := rfl

theorem named_one (k : TileKey) (r : Block) (k2 : TileKey) : named [some (k, r)] k2 = (k == k2) := by simp [named]

/-- A change of lines at one of a hint's levels. -/
def atLevel (lvl : BitVec 2) (i : Nat) (f : List TileLine → List TileLine) : List TileLine → List TileLine :=
  if lvl.getLsbD i = true then f else id

theorem atLevel_apply (lvl : BitVec 2) (i : Nat) (f : List TileLine → List TileLine) (ls : List TileLine) :
    atLevel lvl i f ls = if lvl.getLsbD i = true then f ls else ls := by
  unfold atLevel
  split <;> rfl

/-- A change of what a list of tiles names that may be made one tile after the other. -/
structure ByTile {α : Type} (f : Tiles → α → α) : Prop where
  nil : f [] = id
  cons : ∀ x ts, f (x :: ts) = f ts ∘ f [x]

theorem ByTile.atLevel {f : Tiles → List TileLine → List TileLine} (h : ByTile f) (lvl : BitVec 2) (i : Nat) :
    ByTile fun ts => atLevel lvl i (f ts) where
  nil := by
    unfold Machine.atLevel
    split
    · exact h.nil
    · rfl
  cons x ts := by
    unfold Machine.atLevel
    split
    · exact h.cons x ts
    · rfl

theorem ByTile.onKeys {f : TileLine → TileLine} (hkey : ∀ l, (f l).key = l.key) (hagain : ∀ l, f (f l) = f l) :
    ByTile fun ts => onKeys (named ts) f where
  nil := funext fun ls => onKeys_none f ls
  cons x ts := by
    funext ls
    rw [Function.comp_apply, onKeys_onKeys hkey hagain]
    exact congrArg (fun p => Machine.onKeys p f ls) (funext (named_cons x ts))

theorem ByTile.id {α : Type} : ByTile fun _ : Tiles => (id : α → α) := ⟨rfl, fun _ _ => rfl⟩

/-- A hint that changes lines and requests tile by tile changes those of the tiles of its range. `good` is what the step for a tile
needs of the state, and every step keeps. -/
theorem LinesMapped.hint {step : State → Option (TileKey × Block) → State} {near far : Tiles → List TileLine → List TileLine}
    {asked : Tiles → TileReq → TileReq} (hnear : ByTile near) (hfar : ByTile far) (hasked : ByTile asked)
    {good : State → Option (TileKey × Block) → Prop}
    (hstep : ∀ s x, good s x → LinesMapped s (step s x) n (near [x]) (far [x]) (asked [x]))
    (hkeep : ∀ s x y, good s x → good s y → good (step s x) y) (hgood : ∀ x ∈ ts, good s x) :
    LinesMapped s (ts.foldl step s) n (near ts) (far ts) (asked ts) := by
  induction ts generalizing s with
  | nil => exact (LinesMapped.refl s n).of_eq hnear.nil.symm hfar.nil.symm hasked.nil.symm
  | cons x ts ih =>
    obtain ⟨hx, hts⟩ := List.forall_mem_cons.mp hgood
    exact ((hstep s x hx).trans (ih fun y hy => hkeep s x y hx (hts y hy))).of_eq (hnear.cons x ts).symm (hfar.cons x ts).symm
      (hasked.cons x ts).symm

/-! ### One tile -/

theorem LinesMapped.modAlcove (s : State) (n : Nat) (k : TileKey) (r : Block) (f : TileLine → TileLine) :
    LinesMapped s (modAlcove s n k f) n (onKeys (named [some (k, r)]) f) id id := by
  refine (LinesMapped.modCore s n fun ls => ls.map fun l : TileLine => if l.key = k then f l else l).of_eq ?_ rfl rfl
  funext ls
  simp [onKeys, named_one, eq_comm (a := k)]

theorem LinesMapped.modHall (s : State) (n : Nat) (k : TileKey) (r : Block) (f : TileLine → TileLine) :
    LinesMapped s (modHall s (coreCluster n) k f) n id (onKeys (named [some (k, r)]) f) id := by
  refine (LinesMapped.modCluster s n fun ls => ls.map fun l : TileLine => if l.key = k then f l else l).of_eq rfl ?_ rfl
  funext ls
  simp [onKeys, named_one, eq_comm (a := k)]

/-- A step at the first level of a hint, where the hint names it. -/
theorem LinesMapped.near {near : List TileLine → List TileLine} {asked : TileReq → TileReq} (lvl : BitVec 2)
    (h : LinesMapped s t n near id asked) :
    LinesMapped s (if lvl.getLsbD 0 = true then t else s) n (atLevel lvl 0 near) id (if lvl.getLsbD 0 = true then asked else id) := by
  unfold atLevel
  split
  · exact h
  · exact .refl s n

/-- A step at the second level. -/
theorem LinesMapped.far {far : List TileLine → List TileLine} {asked : TileReq → TileReq} (lvl : BitVec 2)
    (h : LinesMapped s t n id far asked) :
    LinesMapped s (if lvl.getLsbD 1 = true then t else s) n id (atLevel lvl 1 far) (if lvl.getLsbD 1 = true then asked else id) := by
  unfold atLevel
  split
  · exact h
  · exact .refl s n

/-- The first level, and then the second: the lines of both, and the requests of both. -/
theorem LinesMapped.both {near far : List TileLine → List TileLine} {asked asked2 asked3 : TileReq → TileReq}
    (h : LinesMapped s u n near id asked) (h2 : LinesMapped u t n id far asked2) (hr : asked2 ∘ asked = asked3) :
    LinesMapped s t n near far asked3 := (h.trans h2).of_eq rfl rfl hr

/-! ### STREAM (R164) -/

/-- A line of class 0. -/
def streamed (l : TileLine) : TileLine := { l with cls := 0 }

theorem streamTile_mapped (s : State) (x : Option (TileKey × Block)) :
    LinesMapped s (streamTile n lvl s x) n (atLevel lvl 0 (onKeys (named [x]) streamed)) (atLevel lvl 1 (onKeys (named [x]) streamed))
      id := by
  cases x with
  | none =>
    have hno : onKeys (named [none]) streamed = id := funext fun ls => onKeys_none streamed ls
    rw [hno]
    exact (LinesMapped.refl s n).of_eq (ite_self _).symm (ite_self _).symm rfl
  | some x =>
    obtain ⟨k, r⟩ := x
    exact ((LinesMapped.modAlcove s n k r streamed).near lvl).both ((LinesMapped.modHall _ n k r streamed).far lvl) (by simp)

theorem stream_mapped (s : State) (n : Nat) (lvl : BitVec 2) (ts : Tiles) :
    LinesMapped s (ts.foldl (streamTile n lvl) s) n (atLevel lvl 0 (onKeys (named ts) streamed))
      (atLevel lvl 1 (onKeys (named ts) streamed)) id :=
  have hline : ByTile fun ts => onKeys (named ts) streamed := .onKeys (fun _ => rfl) fun _ => rfl
  .hint (hline.atLevel lvl 0) (hline.atLevel lvl 1) .id (good := fun _ _ => True) (fun s x _ => streamTile_mapped s x)
    (fun _ _ _ _ _ => trivial) fun _ _ => trivial

/-! ### UNPIN (R163) -/

/-- A line without a pin in the alcove. -/
def unpinned (l : TileLine) : TileLine := { l with pins := 0 }

/-- A line without a core's pin in the hall. -/
def unpinnedBy (n : Nat) (l : TileLine) : TileLine := { l with pins := l.pins &&& ~~~pinBit n }

/-- A request that pins for a core no longer, where its fill is of a level that a hint names. -/
def unpinReq (n : Nat) (lvl : BitVec 2) (q : TileReq) : TileReq :=
  if q.pinBy = some n ∧ lvl.getLsbD (if q.core.isNone = true then 1 else 0) = true then { q with pinBy := none } else q

theorem unpinReq_key (n : Nat) (lvl : BitVec 2) (q : TileReq) : (unpinReq n lvl q).key = q.key :=
  (apply_ite TileReq.key ..).trans (ite_self _)

theorem unpinReq_pin {q : TileReq} (h : q.pinBy ≠ some n) : unpinReq n lvl q = q := if_neg fun hq => h hq.1

theorem unpinReq_unpinReq (n : Nat) (lvl : BitVec 2) (q : TileReq) : unpinReq n lvl (unpinReq n lvl q) = unpinReq n lvl q := by
  by_cases hq : q.pinBy = some n ∧ lvl.getLsbD (if q.core.isNone = true then 1 else 0) = true
  · have hgone : unpinReq n lvl q = { q with pinBy := none } := if_pos hq
    rw [hgone]
    exact unpinReq_pin nofun
  · have hstays : unpinReq n lvl q = q := if_neg hq
    rw [hstays, hstays]

/-- The requests for the tiles that a hint names, changed. -/
def unpinNamed (n : Nat) (lvl : BitVec 2) (ts : Tiles) (q : TileReq) : TileReq :=
  if named ts q.key = true then unpinReq n lvl q else q

theorem ByTile.unpinNamed (n : Nat) (lvl : BitVec 2) : ByTile (unpinNamed n lvl) where
  nil := rfl
  cons x ts := by
    funext q
    rw [Function.comp_apply, Machine.unpinNamed, Machine.unpinNamed, Machine.unpinNamed, named_cons]
    by_cases hx : named [x] q.key = true <;> simp [hx, unpinReq_key, unpinReq_unpinReq]

/-- The request for a tile at one level. -/
def unpinLevel (n : Nat) (hall : Bool) (k : TileKey) (q : TileReq) : TileReq :=
  if q.pinBy = some n ∧ q.core.isNone = hall ∧ (some k = none ∨ some k = some q.key) then { q with pinBy := none } else q

/-- A request is of one level: both taken, it changes as the hint says. -/
theorem unpinLevels (n : Nat) (lvl : BitVec 2) (k : TileKey) (r : Block) (q : TileReq) :
    ((if lvl.getLsbD 1 = true then unpinLevel n true k ∘ id else id) ∘
      (if lvl.getLsbD 0 = true then unpinLevel n false k ∘ id else id)) q = unpinNamed n lvl [some (k, r)] q := by
  have hstays (b : Bool) (h : ¬(q.pinBy = some n ∧ k = q.key)) : unpinLevel n b k q = q :=
    if_neg fun hq => h ⟨hq.1, Option.some.inj (hq.2.2.resolve_left nofun)⟩
  by_cases hp : q.pinBy = some n ∧ k = q.key
  · obtain ⟨hpin, rfl⟩ := hp
    have hlevel (b : Bool) : unpinLevel n b q.key q = if q.core.isNone = b then { q with pinBy := none } else q := by
      simp only [unpinLevel, hpin, true_and, or_true, and_true]
    have hdone (b : Bool) : unpinLevel n b q.key { q with pinBy := none } = { q with pinBy := none } := if_neg fun hq => nomatch hq.1
    have hnamed : unpinNamed n lvl [some (q.key, r)] q =
        if lvl.getLsbD (if q.core.isNone = true then 1 else 0) = true then { q with pinBy := none } else q := by
      simp only [unpinNamed, named_one, beq_self_eq_true, if_true, unpinReq, hpin, true_and]
    rw [hnamed]
    cases hc : q.core.isNone <;> cases h0 : lvl.getLsbD 0 <;> cases h1 : lvl.getLsbD 1 <;>
      simp only [h0, h1, hlevel, hdone, hc, Function.comp_apply, id, if_true, Bool.false_eq_true, if_false, reduceCtorEq]
  · have hnamed : unpinNamed n lvl [some (k, r)] q = q := by
      unfold unpinNamed
      split
      · next hk => exact unpinReq_pin fun hpin => hp ⟨hpin, by simpa [named_one] using hk⟩
      · rfl
    rw [hnamed, Function.comp_apply]
    have hnear : (if lvl.getLsbD 0 = true then unpinLevel n false k ∘ id else id) q = q := by
      split
      · exact hstays false hp
      · rfl
    rw [hnear]
    split
    · exact hstays true hp
    · rfl

theorem unpinTile_mapped (s : State) (x : Option (TileKey × Block)) :
    LinesMapped s (unpinTile n lvl s x) n (atLevel lvl 0 (onKeys (named [x]) unpinned))
      (atLevel lvl 1 (onKeys (named [x]) (unpinnedBy n))) (unpinNamed n lvl [x]) := by
  cases x with
  | none =>
    have hno (f : TileLine → TileLine) : onKeys (named [none]) f = id := funext fun ls => onKeys_none f ls
    rw [hno, hno]
    exact (LinesMapped.refl s n).of_eq (ite_self _).symm (ite_self _).symm (funext fun q => by simp [unpinNamed, named_none])
  | some x =>
    obtain ⟨k, r⟩ := x
    have hnear := ((LinesMapped.modAlcove s n k r unpinned).trans
      (.modReqs (modAlcove s n k unpinned) n (unpinLevel n false k))).near lvl
    have hfar (v : State) := ((LinesMapped.modHall v n k r (unpinnedBy n)).trans
      (.modReqs (modHall v (coreCluster n) k (unpinnedBy n)) n (unpinLevel n true k))).far lvl
    exact hnear.both (hfar _) (funext fun q => unpinLevels n lvl k r q)

theorem unpin_mapped (s : State) (n : Nat) (lvl : BitVec 2) (ts : Tiles) :
    LinesMapped s (ts.foldl (unpinTile n lvl) s) n (atLevel lvl 0 (onKeys (named ts) unpinned))
      (atLevel lvl 1 (onKeys (named ts) (unpinnedBy n))) (unpinNamed n lvl ts) :=
  have hnear : ByTile fun ts => onKeys (named ts) unpinned := .onKeys (fun _ => rfl) fun _ => rfl
  have hfar : ByTile fun ts => onKeys (named ts) (unpinnedBy n) :=
    .onKeys (fun _ => rfl) fun l => by simp [unpinnedBy, BitVec.and_assoc]
  .hint (hnear.atLevel lvl 0) (hfar.atLevel lvl 1) (.unpinNamed n lvl) (good := fun _ _ => True) (fun s x _ => unpinTile_mapped s x)
    (fun _ _ _ _ _ => trivial) fun _ _ => trivial

/-! ### LASTUSE (R163) -/

/-- Lines after the last use of the tiles of a set: the clean ones leave, the dirty ones drain. -/
def retireKeys (now : Nat) (p : TileKey → Bool) (ls : List TileLine) : List TileLine :=
  (ls.filter fun l => !(p l.key && l.st == .clean)).map fun l =>
    if p l.key = true ∧ l.st = .dirty then { l with st := .draining, keep := false, since := now } else l

theorem retireKeys_cons (now : Nat) (p : TileKey → Bool) (l : TileLine) (ls : List TileLine) :
    retireKeys now p (l :: ls) = (if p l.key = true ∧ l.st = .clean then [] else
      [if p l.key = true ∧ l.st = .dirty then { l with st := .draining, keep := false, since := now } else l]) ++
        retireKeys now p ls := by
  by_cases hp : p l.key = true <;> by_cases hc : l.st = .clean <;> simp [retireKeys, hp, hc]

theorem ByTile.retireKeys (now : Nat) : ByTile fun ts => retireKeys now (named ts) where
  nil := by
    funext ls
    simp [Machine.retireKeys, named_nil]
  cons x ts := by
    funext ls
    induction ls with
    | nil => rfl
    | cons l ls ih =>
      rw [Function.comp_apply, retireKeys_cons, retireKeys_cons, named_cons, ih, Function.comp_apply]
      by_cases hx : named [x] l.key = true <;> cases hst : l.st <;> simp [hx, hst, retireKeys_cons]

/-- What LASTUSE needs of a tile to take its last use at once: no earlier command reads it, and its hall serves no other with it. -/
def ReadyToRetire (n now : Nat) (s : State) (x : Option (TileKey × Block)) : Prop :=
  s.now = now ∧ ∀ k r, x = some (k, r) → readsBefore (s.core n) k s.nextId = false ∧ forwarding s (coreCluster n) k = false

/-- A step that changes lines alone keeps what LASTUSE needs. -/
theorem ReadyToRetire.step {near far : List TileLine → List TileLine} {now : Nat} (h : ReadyToRetire n now s x)
    (ht : LinesMapped s t n near far id) : ReadyToRetire n now t x := by
  obtain ⟨hnow, hready⟩ := h
  have hreqs : t.reqs = s.reqs := by rw [ht.reqs, List.map_id]
  have hid : t.nextId = s.nextId := (congrArg State.nextId ht.outside :)
  refine ⟨(congrArg State.now ht.outside :).trans hnow, fun k r hk => ?_⟩
  rw [ht.own, hid, forwarding, hreqs]
  exact hready k r hk

theorem lastuseTile_mapped {now : Nat} (s : State) (x : Option (TileKey × Block)) (hx : ReadyToRetire n now s x) :
    LinesMapped s (lastuseTile n lvl s x) n (atLevel lvl 0 (retireKeys now (named [x]))) (atLevel lvl 1 (retireKeys now (named [x])))
      id := by
  obtain ⟨rfl, hready⟩ := hx
  cases x with
  | none =>
    have hno : retireKeys s.now (named [none]) = id := (ByTile.retireKeys s.now).nil
    rw [hno]
    exact (LinesMapped.refl s n).of_eq (ite_self _).symm (ite_self _).symm rfl
  | some x =>
    obtain ⟨k, r⟩ := x
    obtain ⟨hreads, hfwd⟩ := hready k r rfl
    have hkeys : (fun ls => retireLine s.now ls k) = retireKeys s.now (named [some (k, r)]) := by
      funext ls
      simp [retireLine, retireKeys, named_one, Bool.beq_comm (a := k)]
    simp only [lastuseTile, hreads, Bool.false_eq_true, if_false, retireTile, hfwd]
    rw [← hkeys]
    have hnear := (LinesMapped.modCore s n fun ls => retireLine s.now ls k).near lvl
    exact hnear.both ((LinesMapped.modCluster _ n fun ls => retireLine s.now ls k).far lvl) (by simp)

theorem lastuse_mapped {now : Nat} (h : ∀ x ∈ ts, ReadyToRetire n now s x) (lvl : BitVec 2) :
    LinesMapped s (ts.foldl (lastuseTile n lvl) s) n (atLevel lvl 0 (retireKeys now (named ts)))
      (atLevel lvl 1 (retireKeys now (named ts))) id :=
  have hline := ByTile.retireKeys now
  .hint (hline.atLevel lvl 0) (hline.atLevel lvl 1) .id (good := ReadyToRetire n now) (fun s x hx => lastuseTile_mapped s x hx)
    (fun s x _ hx hy => hy.step (lastuseTile_mapped (lvl := lvl) s x hx)) h

/-! ### PIN (R162, R163) -/

theorem pinAlcove_traffic (s : State) (n : Nat) (k : TileKey) (r : Block) : TileTraffic s (pinAlcove s n k r).1 := by
  simp only [pinAlcove]
  split_ifs
  · rfl
  · rfl
  · rfl
  · exact startFill_traffic ..

theorem pinHall_traffic (s : State) (n : Nat) (k : TileKey) (r : Block) : TileTraffic s (pinHall s n k r).1 := by
  simp only [pinHall]
  split_ifs
  · rfl
  · rfl
  · exact (fillHall_traffic ..).modCluster ..

theorem pinTile_traffic (n : Nat) (lvl : BitVec 2) (a : State × Nat) (x : Option (TileKey × Block)) :
    TileTraffic a.1 (pinTile n lvl a x).1 := by
  cases x with
  | none => rfl
  | some x =>
    simp only [pinTile]
    generalize hnear : (if lvl.getLsbD 0 = true then pinAlcove a.1 n x.1 x.2 else (a.1, false)) = u
    have hu : TileTraffic a.1 u.1 := by
      rw [← hnear]
      split
      · exact pinAlcove_traffic ..
      · rfl
    split
    · exact hu.trans (pinHall_traffic ..)
    · exact hu

theorem pinTiles_none (h : ∀ x ∈ ts, x = none) (n : Nat) (lvl : BitVec 2) (s : State) (m : Nat) :
    ts.foldl (pinTile n lvl) (s, m) = (s, m + ts.length) := by
  induction ts generalizing m with
  | nil => rfl
  | cons x ts ih =>
    obtain ⟨rfl, hts⟩ := List.forall_mem_cons.mp h
    rw [List.foldl_cons, pinTile, ih hts, List.length_cons]
    congr 1
    omega

theorem hintTiles_length (s : State) (sa : BitVec 6) (nrow ncol : BitVec 8) :
    (hintTiles s sa nrow ncol).length = (nrow.toNat + 1) * (ncol.toNat + 1) := by
  simp [hintTiles, tileRange]

/-- PIN of one tile at the alcove. -/
theorem pinTile_alcove (s : State) (n : Nat) (k : TileKey) (r : Block) :
    pinTile n 1 (s, 0) (some (k, r)) = ((pinAlcove s n k r).1, if (pinAlcove s n k r).2 then 1 else 0) := by
  simp [pinTile]

theorem pin_runs (h : Runs s g [rd, rp, pairOdd rp]) (hm : MayAccess s) :
    exec (.pin g rd rp nrow ncol lvl) s =
      .next (((hintTiles s rp nrow ncol).foldl (pinTile s.issue.core lvl) (s, 0)).1.wr rd
        (BitVec.ofNat 64 ((hintTiles s rp nrow ncol).foldl (pinTile s.issue.core lvl) (s, 0)).2)) := by
  rw [exec_pin, execPin, guarded_ready h, memReady_of hm]

theorem unpin_runs (h : Runs s g [rp, pairOdd rp]) (hm : MayAccess s) :
    exec (.unpin g rp nrow ncol lvl) s = .next ((hintTiles s rp nrow ncol).foldl (unpinTile s.issue.core lvl) s) := by
  rw [exec_unpin, execUnpin, guarded_ready h, memReady_of hm]

theorem stream_runs (h : Runs s g [rp, pairOdd rp]) (hm : MayAccess s) :
    exec (.stream g rp nrow ncol lvl) s = .next ((hintTiles s rp nrow ncol).foldl (streamTile s.issue.core lvl) s) := by
  rw [exec_stream, execStream, guarded_ready h, memReady_of hm]

theorem lastuse_runs (h : Runs s g [rp, pairOdd rp]) (hm : MayAccess s) :
    exec (.lastuse g rp nrow ncol lvl) s = .next ((hintTiles s rp nrow ncol).foldl (lastuseTile s.issue.core lvl) s) := by
  rw [exec_lastuse, execLastuse, guarded_ready h, memReady_of hm]

theorem pinAlcove_forbidden (h : tileLvl s (coreCluster n) k r ≠ 0) : pinAlcove s n k r = (s, true) := by simp [pinAlcove, h]

theorem pinAlcove_full (hp : isPinned (s.core n).alcove k = false) (hw : k ∉ alcoveWaits s n)
    (hfull : 12 ≤ pinnedIn (s.core n).alcove (alcoveWaits s n) alcoveBank (alcoveBank k)) : pinAlcove s n k r = (s, true) := by
  simp [pinAlcove, hp, hw, hfull]

theorem pinAlcove_present (h0 : tileLvl s (coreCluster n) k r = 0) (hl : (lineOf (s.core n).alcove k).isSome = true)
    (hroom : isPinned (s.core n).alcove k = true ∨ k ∈ alcoveWaits s n ∨
      pinnedIn (s.core n).alcove (alcoveWaits s n) alcoveBank (alcoveBank k) < 12) :
    pinAlcove s n k r = (modAlcove s n k fun l => { l with pins := 1 }, false) := by
  have hnot : (!isPinned (s.core n).alcove k && !(alcoveWaits s n).contains k &&
      decide (12 ≤ pinnedIn (s.core n).alcove (alcoveWaits s n) alcoveBank (alcoveBank k))) = false := by
    rcases hroom with h | h | h
    · simp [h]
    · simp [h]
    · simp [Nat.not_le.mpr h]
  simp only [pinAlcove, h0, hnot, hl, ne_eq, not_true_eq_false, Bool.false_eq_true, if_true, if_false]

/-- PIN of one tile that is refused. -/
theorem pin_refuses (h : Runs s g [rd, rp, pairOdd rp]) (hm : MayAccess s) (hts : hintTiles s rp nrow ncol = [some (k, r)])
    (hp : pinAlcove s s.issue.core k r = (s, true)) : GivesReg (.pin g rd rp nrow ncol 1) s rd 1 := by
  refine ⟨_, pin_runs h hm, ?_⟩
  rw [hts, List.foldl_cons, List.foldl_nil, pinTile_alcove, hp]
  exact wr_written ..

/-! ### The obligation -/

/-- The lines after a hint, as the statement writes them. -/
theorem LinesMapped.acts {fa fh : List TileLine → List TileLine} {asked : TileReq → TileReq}
    (h : LinesMapped s t s.issue.core (atLevel lvl 0 fa) (atLevel lvl 1 fh) asked) :
    LinesKept { s with reqs := s.reqs.map asked } t ∧
    t.live.alcove = (if lvl.getLsbD 0 then fa s.live.alcove else s.live.alcove) ∧
    (t.cluster (coreCluster s.issue.core)).hall = (if lvl.getLsbD 1 then fh (s.cluster (coreCluster s.issue.core)).hall
      else (s.cluster (coreCluster s.issue.core)).hall) :=
  ⟨h.linesKept, (congrArg Core.alcove h.live).trans (atLevel_apply ..), (congrArg Cluster.hall h.hall).trans (atLevel_apply ..)⟩

/-- Settles O28: the hints that change lines are `unpin_mapped`, `stream_mapped` and `lastuse_mapped`; PIN is `pin_refuses`,
`pinAlcove_present` and, for any range, the frame `pinTile_traffic`. -/
theorem tileHints : Obligations.TileHints := by
  intro s g rd rp nrow ncol lvl h hm ts cl pw acts onNamed retire
  have h2 : Runs s g [rp, pairOdd rp] := ⟨h.1, fun q hq => h.2 q (List.mem_cons_of_mem _ hq)⟩
  refine ⟨fun hnone => ?_, fun k r hts hl hlvl => ?_, fun k r hts hl hp hw hfull => ?_, fun k r hts hl h0 hline hroom => ?_, ?_, ?_, ?_,
    fun hready => ?_⟩
  · refine ⟨_, pin_runs h hm, ?_⟩
    rw [pinTiles_none hnone, Nat.zero_add, hintTiles_length]
    exact wr_written ..
  · subst hl
    exact pin_refuses h hm hts (pinAlcove_forbidden hlvl)
  · subst hl
    exact pin_refuses h hm hts (pinAlcove_full hp hw hfull)
  · subst hl
    have hpin := LinesMapped.modAlcove s s.issue.core k r fun l => { l with pins := 1 }
    refine ⟨modAlcove s s.issue.core k fun l => { l with pins := 1 }, _, pin_runs h hm, hpin.linesKept_noReq, rfl, ?_, ?_⟩
    · exact congrArg Core.alcove (core_setCore_same ..)
    · rw [show hintTiles s rp nrow ncol = [some (k, r)] from hts, List.foldl_cons, List.foldl_nil, pinTile_alcove,
        pinAlcove_present h0 hline hroom]
      exact wr_written (modAlcove s s.issue.core k fun l => { l with pins := 1 }) rd 0
  · refine ⟨_, pin_runs h hm, fun hd => ?_⟩
    obtain ⟨v, hv⟩ : ∃ v, v = ((hintTiles s rp nrow ncol).foldl (pinTile s.issue.core lvl) (s, 0)).1 := ⟨_, rfl⟩
    have hissue : v.issue = s.issue := hv ▸ (TileTraffic.foldl_fst _ (pinTile_traffic s.issue.core lvl) _ (s, 0)).issue
    have hdest : destReg v rd = destReg s rd := by rw [destReg, State.pre, hissue]; rfl
    rw [← hv]
    obtain ⟨-, -, -, -, hreg, -⟩ := wr_written v rd (BitVec.ofNat 64 (ts.foldl (pinTile s.issue.core lvl) (s, 0)).2)
    rw [hdest] at hreg
    exact hreg hd
  · exact ⟨_, unpin_runs h2 hm, (LinesMapped.of_eq (unpin_mapped s s.issue.core lvl ts) rfl rfl (funext fun q => by
      simp only [unpinNamed, unpinReq, ite_and])).acts⟩
  · exact ⟨_, stream_runs h2 hm, (stream_mapped s s.issue.core lvl ts).acts⟩
  · refine ⟨_, lastuse_runs h2 hm, (lastuse_mapped (now := s.now) (fun x hx => ⟨rfl, fun k r hk => ?_⟩) lvl).acts⟩
    exact hready k (List.any_eq_true.mpr ⟨x, hx, by simp [hk]⟩)

end Sys2Proof.Machine
end

section
/-! PROOFS. Cube commands and accumulator loads at issue (R184, R188 to R192, R197, R203): what a command that parks leaves of its
core, and the judgement of CUBE and MMA. -/

namespace Sys2Proof.Machine

open Sys2Proof

variable {s t u : State} {n : Nat} {g : BitVec 6} {c : CubeWord} {mma : Bool} {p : Parked} {i : Instr} {w h fq : Word}

/-! ### A command parks (R189, R197) -/

/-- A command stands last in the replay queue of its core, whose strands, cells and format queue are as they were; of the other
cores only tile lines may differ, and memory only where a line has to be written back. -/
structure Parks (s t : State) (n : Nat) (p : Parked) : Prop where
  issue : t.issue = s.issue
  others : OthersKept s t n
  strand : ∀ k, (t.core n).strand k = (s.core n).strand k
  replay : (t.core n).replay = (s.core n).replay ++ [p]
  fq : (t.core n).fq = (s.core n).fq
  acc : (t.core n).acc = (s.core n).acc
  mem : CleanAt s n → MemKept s t

theorem parkCmd_parks (s : State) (n : Nat) (p : Parked) : Parks s (parkCmd s n p) n p := by
  obtain ⟨u, hu⟩ : ∃ u, u = s.setCore n { s.core n with replay := (s.core n).replay ++ [p] } := ⟨_, rfl⟩
  have hcore : u.core n = { s.core n with replay := (s.core n).replay ++ [p] } := hu ▸ core_setCore_same ..
  have hother (m : Nat) (hm : m ≠ n) : u.core m = s.core m := hu ▸ core_setCore_other _ _ _ _ hm
  have htiles := lookWants_tiles u n p
  have hpark : parkCmd s n p = lookWants u n p := by rw [hu]; rfl
  rw [hpark]
  refine ⟨(lookWants_traffic u n p).issue.trans (hu ▸ rfl), fun m hm => ?_, fun k => ?_, ?_, ?_, ?_, fun hc => ?_⟩
  · rw [← hother m hm]
    exact htiles.othersKept m hm
  · rw [htiles.strand, hcore]
    cases k <;> rfl
  · rw [htiles.replay, hcore]
  · have hfq : (u.core n).fq = (s.core n).fq := by rw [hcore]
    exact (congrArg Core.fq htiles.own :).trans hfq
  · rw [htiles.acc, hcore]
  · have hclean : CleanAt u n := by
      obtain ⟨halcove, hhall⟩ := hc
      refine ⟨?_, hu ▸ hhall⟩
      rw [hcore]
      exact halcove
    have hmem : u.mem = s.mem := hu ▸ rfl
    intro a
    rw [htiles.memKept hclean a, hmem]

/-! ### CUBE and MMA -/

theorem cube_runs (hr : Runs s g (cubeRegs mma c)) :
    exec (if mma then .mma g c else .cube g c) s = cubeIssue mma (if mma then .mma g c else .cube g c) c s := by
  cases mma with
  | false => exact guarded_ready hr _
  | true => exact guarded_ready hr _

/-- A fault at issue, where an instruction does nothing else. -/
theorem faultsWith_of {code reason : Nat} {val : Word} (e : exec i s = faultAt s code reason val fq) (h1 : code < 256)
    (h2 : reason < 256) : FaultsWith i s code reason val := by
  obtain ⟨t, ht, hf⟩ := faultAt_faulted s code reason val fq h1 h2
  exact ⟨t, e.trans ht, hf⟩

theorem cubeIssue_delivered {x : FqWord} {rest : List FqWord} (hq : s.issue.pre.fq = x :: rest) (hx : x.born < s.now) :
    cubeIssue mma i c s = cubeJudge mma i c x.w s := by
  simp [cubeIssue, hq, hx]

theorem cubeRec_none {f : Block → Out} (hr : handleRec s.issue.pre.recs h = none) : cubeRec s h fq f = faultAt s 6 0 h fq := by
  simp only [cubeRec, hr]

theorem cubeRec_some {f : Block → Out} {r : Block} (hr : handleRec s.issue.pre.recs h = some r) : cubeRec s h fq f = f r := by
  simp only [cubeRec, hr]

/-- The judgement of a command whose A operand, where it has one, names a record. -/
def cubeWithA (mma : Bool) (i : Instr) (c : CubeWord) (w : Word) (s : State) (a : Option Block) : Out :=
  cubeRec s (s.rd (pairEven c.pb)) w fun b =>
    let fin := fun (g : Option Block) =>
      match cubeReason mma c w a (some b) g (s.rd (pairEven c.pa)) with
      | some x => faultAt s 7 x 0 w
      | none => cubeStart mma i c w [a.getD 0, b, g.getD 0] s
    if c.gor = 0 then fin none else cubeRec s (s.rd (pairEven c.pg)) w fun g => fin (some g)

theorem cubeJudge_withoutA (hr : handleRec s.issue.pre.recs (s.rd (pairEven c.pa)) = none) :
    cubeJudge false i c w s = faultAt s 6 0 (s.rd (pairEven c.pa)) w := cubeRec_none hr

/-- The record of the A operand: an MMA has none. -/
def recOfA (s : State) (mma : Bool) (c : CubeWord) : Option Block :=
  if mma then none else handleRec s.issue.pre.recs (s.rd (pairEven c.pa))

theorem cubeJudge_withA (hr : mma = true ∨ (handleRec s.issue.pre.recs (s.rd (pairEven c.pa))).isSome = true) :
    cubeJudge mma i c w s = cubeWithA mma i c w s (recOfA s mma c) := by
  cases mma with
  | true => rfl
  | false =>
    obtain ⟨a, ha⟩ := Option.isSome_iff_exists.mp (hr.resolve_left Bool.false_ne_true)
    rw [recOfA, if_neg Bool.false_ne_true, ha]
    exact cubeRec_some ha

/-- The record of the G operand, where the command has one. -/
def recOfG (s : State) (c : CubeWord) : Option Block :=
  if c.gor = 0 then none else handleRec s.issue.pre.recs (s.rd (pairEven c.pg))

theorem cubeWithA_withoutG {a : Option Block} {b : Block} (hb : handleRec s.issue.pre.recs (s.rd (pairEven c.pb)) = some b)
    (hg : c.gor ≠ 0) (hr : handleRec s.issue.pre.recs (s.rd (pairEven c.pg)) = none) :
    cubeWithA mma i c w s a = faultAt s 6 0 (s.rd (pairEven c.pg)) w := by
  rw [cubeWithA, cubeRec_some hb]
  simp only [if_neg hg]
  exact cubeRec_none hr

theorem cubeWithA_withG {a : Option Block} {b : Block} (hb : handleRec s.issue.pre.recs (s.rd (pairEven c.pb)) = some b)
    (hg : c.gor ≠ 0 → (recOfG s c).isSome = true) : cubeWithA mma i c w s a =
      match cubeReason mma c w a (some b) (recOfG s c) (s.rd (pairEven c.pa)) with
      | some x => faultAt s 7 x 0 w
      | none => cubeStart mma i c w [a.getD 0, b, (recOfG s c).getD 0] s := by
  rw [cubeWithA, cubeRec_some hb]
  by_cases h0 : c.gor = 0
  · simp only [recOfG, if_pos h0]
  · obtain ⟨r, hr⟩ := Option.isSome_iff_exists.mp (hg h0)
    rw [recOfG, if_neg h0] at hr
    simp only [recOfG, if_neg h0, hr]
    exact cubeRec_some hr

/-- The command that a word makes, with the keys of its tiles. -/
def parkedCube (s : State) (mma : Bool) (i : Instr) (c : CubeWord) (w : Word) (recs : List Block) : Parked :=
  { cubeCmd s mma i c w recs with keys := ((cubeCmd s mma i c w recs).wants s.live.ctx).map fun x => x.1 }

/-- The state in which it parks: its cells are noted, the next number is taken, and its word has left the format queue. -/
def beforePark (s : State) (mma : Bool) (c : CubeWord) (w : Word) : State :=
  { s.readCells (cubeCells mma c w (s.rd (pairEven c.pa))) with nextId := s.nextId + 1 }.modLive fun x => { x with fq := x.fq.drop 1 }

theorem cubeStart_parks {recs : List Block} (hb : cellsMeet (cubeCells mma c w (s.rd (pairEven c.pa))) (busyForM s) = false)
    (hroom : parkedCount s.live < 16) : cubeStart mma i c w recs s =
      .next (parkCmd (beforePark s mma c w) s.issue.core (parkedCube s mma i c w recs)) := by
  have hnot : (decide (16 ≤ parkedCount s.live)) = false := decide_eq_false (Nat.not_le.mpr hroom)
  simp only [cubeStart, hb, hnot, Bool.false_and, Bool.false_eq_true, if_false]
  rfl

theorem cubeVals_eq (s : State) (mma : Bool) (c : CubeWord) : cubeVals s mma c =
    [s.rd (pairEven c.pa), if mma then 0 else s.rd (pairOdd (pairEven c.pa)), s.rd (pairEven c.pb), s.rd (pairOdd (pairEven c.pb)),
      if c.gor = 0 then 0 else s.rd (pairEven c.pg), if c.gor = 0 then 0 else s.rd (pairOdd (pairEven c.pg))] := by
  by_cases h0 : c.gor = 0
  · simp only [cubeVals, if_pos h0]
    rfl
  · simp only [cubeVals, if_neg h0]
    rfl

/-- What a cube command that issues leaves: it parks, its word is gone, and its cells are noted. -/
theorem beforePark_core (s : State) (mma : Bool) (c : CubeWord) (w : Word) :
    (beforePark s mma c w).core s.issue.core = { s.live with fq := s.live.fq.drop 1 } ∧
    (∀ m, m ≠ s.issue.core → (beforePark s mma c w).core m = s.core m) :=
  ⟨core_setCore_same .., fun _ hm => core_setCore_other _ _ _ _ hm⟩

theorem live_of_issue (hi : t.issue.core = n) : t.live = t.core n := by rw [State.live, hi]

/-- Settles O40: the judgement is taken operand by operand (`cubeJudge_withA`, `cubeWithA_withG`), and a command that issues is
`parkCmd_parks` after `beforePark`. -/
theorem cubesIssue : Obligations.CubeIssue := by
  intro s g c mma hr i hA hB hG rc
  have hrun : exec i s = cubeIssue mma i c s := cube_runs hr
  refine ⟨fun hq hend => ?_, fun hq hopen hgoes => ?_, fun x rest hq hx => ?_, fun x rest hq hx => ?_⟩
  · refine faultsWith_of (fq := 0) (hrun.trans ?_) (by decide) (by decide)
    have hclosed : (s.issue.pre.fqClosed || s.issue.pre.c.mode == .halted) = true := by simpa using hend
    simp only [cubeIssue, hq, hclosed, if_true]
  · have hnot : (s.issue.pre.fqClosed || s.issue.pre.c.mode == .halted) = false := by simp [hopen, hgoes]
    simp only [hrun, cubeIssue, hq, hnot, Bool.false_eq_true, if_false, hold]
  · simp only [hrun, cubeIssue, hq, if_neg (Nat.not_lt.mpr hx), hold]
  have hjudge : exec i s = cubeJudge mma i c x.w s := hrun.trans (cubeIssue_delivered hq hx)
  refine ⟨fun hm hn => ?_, fun ha hn => ?_, fun ha hb hg hn => ?_, fun a b gg ha hsa hb hgg hsg => ?_⟩
  · subst hm
    exact faultsWith_of (hjudge.trans (cubeJudge_withoutA hn)) (by decide) (by decide)
  · exact faultsWith_of ((hjudge.trans (cubeJudge_withA ha)).trans (cubeRec_none hn)) (by decide) (by decide)
  · obtain ⟨b, hb⟩ := Option.isSome_iff_exists.mp hb
    exact faultsWith_of ((hjudge.trans (cubeJudge_withA ha)).trans (cubeWithA_withoutG hb hg hn)) (by decide) (by decide)
  obtain rfl : a = recOfA s mma c := ha
  obtain rfl : gg = recOfG s c := hgg
  have hfound : mma = true ∨ (rc hA).isSome = true := by
    cases mma with
    | true => exact .inl rfl
    | false => exact .inr (hsa rfl)
  have hfin := (hjudge.trans (cubeJudge_withA hfound)).trans (cubeWithA_withG hb hsg)
  refine ⟨fun r hreason hr256 => ?_, fun hlegal => ⟨fun hbusy => ?_, fun hfree hroom => ?_⟩⟩
  · rw [hreason] at hfin
    exact faultsWith_of hfin (by decide) hr256
  · rw [hlegal] at hfin
    exact hfin.trans (if_pos hbusy)
  · rw [hlegal] at hfin
    have hstart := hfin.trans (cubeStart_parks hfree hroom)
    generalize hp : parkedCube s mma i c x.w [(recOfA s mma c).getD 0, b, (recOfG s c).getD 0] = p at hstart
    obtain ⟨hissue, hothers, hstrand, hreplay, hfq, hacc, hmem⟩ := parkCmd_parks (beforePark s mma c x.w) s.issue.core p
    obtain ⟨hown, hother⟩ := beforePark_core s mma c x.w
    have hlive := live_of_issue (t := parkCmd (beforePark s mma c x.w) s.issue.core p) (n := s.issue.core) (by rw [hissue]; rfl)
    rw [hown] at hreplay hfq hacc
    refine ⟨_, p, hstart, ⟨hissue, fun m hm => ?_, fun k => ?_⟩, hlive ▸ hreplay, hlive ▸ hfq, hlive ▸ hacc, ?_⟩
    · have hkept := hothers m hm
      rw [hother m hm] at hkept
      exact hkept
    · rw [hlive, hstrand, hown]
      cases k <;> rfl
    · subst hp
      refine ⟨rfl, rfl, rfl, rfl, rfl, cubeVals_eq .., rfl, rfl, rfl, fun hc => hmem ⟨?_, hc.2⟩⟩
      rw [hown]
      exact hc.1

end Sys2Proof.Machine
end

section
/-! PROOFS. Accumulator transfers at issue (R201, R203, R204): ALD parks, and AST puts its tile into the alcove. -/

namespace Sys2Proof.Machine

open Sys2Proof

variable {s t u : State} {n : Nat} {g rr rp : BitVec 6} {view rm : BitVec 3} {ftz tr ve : BitVec 1} {minv : BitVec 8} {r : Block}
  {d : Region} {k : TileKey} {data : Line} {ver : BitVec 8} {l : TileLine} {i : Instr}

/-! ### ALD -/

theorem ald_unrecorded (h : Runs s g [rr, rp, pairOdd rp]) (hr : handleRec s.issue.pre.recs (s.rd rp) = none) :
    exec (.ald g rr rp view rm ftz tr ve minv) s = faultAt s 6 0 (s.rd rp) 0 := by
  rw [exec_ald, execAld, guarded_ready h]
  simp only [hr]

theorem ald_illegal (h : Runs s g [rr, rp, pairOdd rp]) (hr : handleRec s.issue.pre.recs (s.rd rp) = some r)
    (hd : transferOk false (s.rd rr) r view (tr == 1) (ve == 1) = none) :
    exec (.ald g rr rp view rm ftz tr ve minv) s = faultAt s 7 9 0 0 := by
  rw [exec_ald, execAld, guarded_ready h]
  simp only [hr, hd]

theorem ald_starts (h : Runs s g [rr, rp, pairOdd rp]) (hr : handleRec s.issue.pre.recs (s.rd rp) = some r)
    (hd : transferOk false (s.rd rr) r view (tr == 1) (ve == 1) = some d) :
    exec (.ald g rr rp view rm ftz tr ve minv) s =
      aldStart (.ald g rr rp view rm ftz tr ve minv) rr rp r (verOpt ve minv) (regionSpans d (etWidth view)) s := by
  rw [exec_ald, execAld, guarded_ready h]
  simp only [hr, hd]

/-- The command of an ALD, with the key of its tile. -/
def parkedAld (s : State) (i : Instr) (rr rp : BitVec 6) (r : Block) (m : Option (BitVec 8)) (spans : List (Nat × Nat × Nat)) :
    Parked :=
  { aldCmd s i rr rp r m spans with keys := ((aldCmd s i rr rp r m spans).wants s.live.ctx).map fun x => x.1 }

theorem aldStart_parks {m : Option (BitVec 8)} {spans : List (Nat × Nat × Nat)} (hb : cellsMeet spans (busyForM s) = false)
    (hroom : parkedCount s.live < 16) :
    aldStart i rr rp r m spans s = .next (parkCmd { s with nextId := s.nextId + 1 } s.issue.core (parkedAld s i rr rp r m spans)) := by
  have hnot : (decide (16 ≤ parkedCount s.live)) = false := decide_eq_false (Nat.not_le.mpr hroom)
  simp only [aldStart, hb, hnot, Bool.false_and, Bool.false_eq_true, if_false]
  rfl

/-! ### A whole tile into the alcove (R136, R138, R203) -/

/-- A state in which a core has made room for a tile: of the cores only lines differ, and memory only where one had to be written
back. -/
structure RoomMade (s u : State) (n : Nat) : Prop where
  issue : u.issue = s.issue
  lines : LinesOnly s u n
  mem : CleanAt s n → u.mem = s.mem

theorem RoomMade.refl (s : State) (n : Nat) : RoomMade s s n := ⟨rfl, .refl s n, fun _ => rfl⟩

/-- A whole tile stands in a core's alcove, to be written back; nothing else of the cores differs but lines, and memory only where
one had to be written back. -/
structure TileStored (s t : State) (n : Nat) (k : TileKey) (r : Block) (data : Line) : Prop where
  issue : t.issue = s.issue
  others : OthersKept s t n
  acc : (t.core n).acc = (s.core n).acc
  strand : ∀ j, (t.core n).strand j = (s.core n).strand j
  line : ∃ l ∈ (t.core n).alcove, l.key = k ∧ l.lrec = r ∧ (l.st = .dirty ∨ l.st = .draining) ∧ l.data = data
  mem : CleanAt s n → t.mem = s.mem

theorem putLine_stored (h : RoomMade s u n) (l : TileLine) (hst : l.st = .dirty ∨ l.st = .draining) :
    TileStored s (putLine u n l) n l.key l.lrec l.data := by
  obtain ⟨hissue, hlines, hmem⟩ := h
  obtain ⟨x, hx, hput⟩ : ∃ x : TileLine, (x.key = l.key ∧ x.lrec = l.lrec ∧ (x.st = .dirty ∨ x.st = .draining) ∧ x.data = l.data) ∧
      putLine u n l = u.setCore n (touchAlcove { u.core n with alcove := dropAtWay (u.core n).alcove l.bank l.way ++ [x] } l.bank l.way) := by
    refine ⟨match lineOf (u.core n).alcove l.key with
      | none => { l with units := [l.unit] }
      | some o => { l with units := (l.unit :: o.units).eraseDups, rels := o.rels }, ?_, rfl⟩
    split <;> exact ⟨rfl, rfl, hst, rfl⟩
  rw [hput]
  refine ⟨hissue, fun m hm => ?_, ?_, fun j => ?_, ⟨x, ?_, hx⟩, hmem⟩
  · rw [core_setCore_other _ _ _ _ hm]
    exact hlines.othersKept m hm
  · obtain ⟨-, a, p, hown⟩ := hlines
    rw [core_setCore_same, hown]
    rfl
  · rw [core_setCore_same, ← hlines.strand j]
    cases j <;> rfl
  · rw [core_setCore_same]
    exact List.mem_append_right _ List.mem_cons_self

theorem writtenLine_written (s : State) (n : Nat) (k : TileKey) (r : Block) (way : Nat) (pins : BitVec 16) (ver : BitVec 8)
    (data : Line) : (writtenLine s n k r way pins ver data).st = .dirty ∨ (writtenLine s n k r way pins ver data).st = .draining := by
  simp only [writtenLine]
  split
  · exact .inl rfl
  · exact .inr rfl

/-- The line of a whole-tile write in a way of a core that has made room for it. -/
theorem putWritten_stored (h : RoomMade s u n) (k : TileKey) (r : Block) (way : Nat) (pins : BitVec 16) (ver : BitVec 8) (data : Line) :
    TileStored s (putLine u n (writtenLine u n k r way pins ver data)) n k r data :=
  putLine_stored h (writtenLine u n k r way pins ver data) (writtenLine_written ..)

/-- A victim leaves, written back if it is dirty. -/
theorem victim_roomMade (h : alcovePick (s.core n) k = .victim l) :
    RoomMade s (if l.st = .dirty then drainLine s n l false else s) n := by
  split
  · next hd =>
    exact ⟨(drainLine_traffic ..).issue, drainLine_lines .., fun hc => absurd hd (Settled.alcove_victim hc.1 h)⟩
  · exact .refl s n

theorem allocWrite_stored (h : alcovePick (s.core n) k ≠ .none) : ∃ t, allocWrite s n k r ver data = some t ∧ TileStored s t n k r data := by
  cases hp : alcovePick (s.core n) k with
  | free w => exact ⟨_, by simp only [allocWrite, hp]; rfl, putWritten_stored (.refl s n) ..⟩
  | victim v => exact ⟨_, by simp only [allocWrite, hp]; rfl, putWritten_stored (victim_roomMade hp) ..⟩
  | none => exact absurd hp h

/-- The line that holds a tile may take a whole new one. -/
def Overwritable (l : TileLine) (m : Option (BitVec 8)) : Prop :=
  l.st = .clean ∨ l.st = .filling ∨ (l.st = .dirty ∧ m.getD l.ver = l.ver)

theorem storeTile_stored {m : Option (BitVec 8)}
    (h : (lineOf (s.core n).alcove k = none ∧ alcovePick (s.core n) k ≠ .none) ∨
      ∃ l, lineOf (s.core n).alcove k = some l ∧ Overwritable l m) :
    ∃ t, storeTile s n k r m data = some t ∧ TileStored s t n k r data := by
  rcases h with ⟨hnone, hpick⟩ | ⟨l, hl, hst | hst | ⟨hst, hver⟩⟩
  · obtain ⟨t, ht, hstored⟩ := allocWrite_stored (r := r) (data := data) (ver := m.getD 0) hpick
    exact ⟨t, by simp only [storeTile, hnone, ht], hstored⟩
  · exact ⟨_, by simp only [storeTile, hl, hst]; rfl, putWritten_stored (.refl s n) ..⟩
  · exact ⟨_, by simp only [storeTile, hl, hst]; rfl, putWritten_stored (.refl s n) ..⟩
  · exact ⟨_, by simp only [storeTile, hl, hst, if_pos hver]; rfl, putWritten_stored (.refl s n) ..⟩

/-! ### AST -/

theorem ast_unrecorded (h : Runs s g [rr, rp, pairOdd rp]) (hr : handleRec s.issue.pre.recs (s.rd rp) = none) :
    exec (.ast g rr rp view rm ftz tr ve minv) s = faultAt s 6 0 (s.rd rp) 0 := by
  rw [exec_ast, execAst, guarded_ready h]
  simp only [hr]

theorem ast_illegal (h : Runs s g [rr, rp, pairOdd rp]) (hr : handleRec s.issue.pre.recs (s.rd rp) = some r)
    (hd : transferOk true (s.rd rr) r view (tr == 1) (ve == 1) = none) :
    exec (.ast g rr rp view rm ftz tr ve minv) s = faultAt s 7 9 0 0 := by
  rw [exec_ast, execAst, guarded_ready h]
  simp only [hr, hd]

section

variable (h : Runs s g [rr, rp, pairOdd rp]) (hr : handleRec s.issue.pre.recs (s.rd rp) = some r)
  (hd : transferOk true (s.rd rr) r view (tr == 1) (ve == 1) = some d)
  (hk : k = tileKey s.live.ctx r (coOuter (s.rd (pairOdd rp))).toNat (coRow (s.rd (pairOdd rp))).toNat
    (coCol (s.rd (pairOdd rp))).toNat)

include h hr hd hk

theorem ast_waits (hw : cellsMeet (regionSpans d (etWidth view)) (busyForM s) = true ∨ foundBy s.live k = true) :
    exec (.ast g rr rp view rm ftz tr ve minv) s = .next (s.setVerdict .held) := by
  subst hk
  rw [exec_ast, execAst, guarded_ready h]
  simp only [hr, hd]
  exact if_pos (by simpa using hw)

/-- The elements of the tile that an AST writes. -/
def astElems (s : State) (r : Block) (view rm : BitVec 3) (ftz tr : BitVec 1) (d : Region) : List (Nat × BitVec 7) :=
  (tileCells r).map (astElem s.live.acc r view rm (ftz == 1) (tr == 1) d)

theorem ast_stores (hb : cellsMeet (regionSpans d (etWidth view)) (busyForM s) = false) (hf : foundBy s.live k = false)
    (ht : storeTile s s.issue.core k r (verOpt ve minv)
      (BitVec.ofNat 32768 (packElems (fmtWidth (recTfmt r)) (astElems s r view rm ftz tr d))) = some t) :
    exec (.ast g rr rp view rm ftz tr ve minv) s = .next ((t.readCells (regionSpans d (etWidth view))).raiseSticky
      ((astElems s r view rm ftz tr d).foldl (fun f x => f ||| x.2) 0)) := by
  subst hk
  unfold astElems at ht ⊢
  rw [exec_ast, execAst, guarded_ready h]
  simp only [hr, hd, hb, hf, Bool.or_false, Bool.false_eq_true, if_false, ht]

end

/-- Sticky bits raised: those of the acting strand and of the bundle, and no more. -/
theorem raiseSticky_core (s : State) (b : BitVec 7) :
    (s.raiseSticky b).core s.issue.core = s.live.setStrand s.issue.kind { act s with sticky := (act s).sticky ||| b } ∧
    ∀ m, m ≠ s.issue.core → (s.raiseSticky b).core m = s.core m :=
  ⟨core_setCore_same .., fun _ hm => core_setCore_other _ _ _ _ hm⟩

theorem setStrand_acc (c : Core) (j : Kind) (st : Strand) : (c.setStrand j st).acc = c.acc := by cases j <;> rfl

theorem setStrand_alcove (c : Core) (j : Kind) (st : Strand) : (c.setStrand j st).alcove = c.alcove := by cases j <;> rfl

/-! ### The obligation -/

/-- Settles O41: a legal ALD is `parkCmd_parks`, a legal AST `storeTile_stored`. -/
theorem transfersIssue : Obligations.TransfersIssue := by
  intro s g rr rp view rm ftz tr ve minv h ald ast hnd co
  refine ⟨fun hr => ⟨faultsWith_of (ald_unrecorded h hr) (by decide) (by decide),
    faultsWith_of (ast_unrecorded h hr) (by decide) (by decide)⟩, fun r hr => ?_⟩
  intro rg k
  refine ⟨fun hd => faultsWith_of (ald_illegal h hr hd) (by decide) (by decide),
    fun hd => faultsWith_of (ast_illegal h hr hd) (by decide) (by decide), fun d hd hb => ?_, fun d hd hb hroom => ?_, fun d hd => ?_⟩
  · exact (ald_starts h hr hd).trans (if_pos hb)
  · have hrun := (ald_starts (rm := rm) (ftz := ftz) (minv := minv) h hr hd).trans (aldStart_parks hb hroom)
    generalize hp : parkedAld s _ rr rp r (verOpt ve minv) (regionSpans d (etWidth view)) = p at hrun
    obtain ⟨hissue, hothers, hstrand, hreplay, -, hacc, hmem⟩ := parkCmd_parks { s with nextId := s.nextId + 1 } s.issue.core p
    have hlive := live_of_issue (t := parkCmd { s with nextId := s.nextId + 1 } s.issue.core p) (n := s.issue.core) (by rw [hissue])
    refine ⟨_, p, hrun, ⟨hissue, hothers, fun j => hlive ▸ hstrand j⟩, hlive ▸ hreplay, hlive ▸ hacc, ?_⟩
    subst hp
    exact ⟨rfl, rfl, rfl, rfl, rfl, rfl, hmem⟩
  · refine ⟨ast_waits h hr hd rfl, fun hb hf => ?_⟩
    intro es hroom fl
    obtain ⟨u, hu, hissue, hothers, hacc, hstrand, ⟨l, hl, hkey, hrec, hst, hdata⟩, hmem⟩ := storeTile_stored (r := r)
      (data := BitVec.ofNat 32768 (packElems (fmtWidth (recTfmt r)) (astElems s r view rm ftz tr d))) hroom
    generalize hv : u.readCells (regionSpans d (etWidth view)) = v
    have hvissue : v.issue = { s.issue with mreads := s.issue.mreads ++ regionSpans d (etWidth view) } := by
      rw [← hv, State.readCells, hissue]
    have hvcore (m : Nat) : v.core m = u.core m := by rw [← hv]; rfl
    obtain ⟨hown, hother⟩ := raiseSticky_core v fl
    have hvlive : v.live = u.core s.issue.core := by rw [State.live, hvissue, hvcore]
    have hact : act v = act s := by
      rw [act, hvlive, hvissue]
      exact hstrand _
    have hraised : (v.raiseSticky fl).issue = { s.issue with
        raised := s.issue.raised ||| fl, mreads := s.issue.mreads ++ regionSpans d (etWidth view) } := by
      rw [State.raiseSticky]
      exact congrArg (fun x : Issue => { x with raised := x.raised ||| fl }) hvissue
    have hlive : (v.raiseSticky fl).live = (u.core s.issue.core).setStrand s.issue.kind { act s with sticky := (act s).sticky ||| fl } := by
      rw [State.live, hraised, ← hvlive, ← hact]
      rwa [hvissue] at hown
    rw [hvissue] at hother
    refine ⟨v.raiseSticky fl, l, (ast_stores h hr hd rfl hb hf hu).trans (by rw [hv]; rfl), fun m hm => ?_, hraised, ?_, hkey, hrec, hst,
      hdata, ?_, ?_, fun hc a => ?_⟩
    · rw [hother m hm, hvcore]
      exact hothers m hm
    · rw [hlive, setStrand_alcove]
      exact hl
    · rw [hlive, setStrand_acc]
      exact hacc
    · rw [act, hlive, hraised]
      exact strand_setStrand_same ..
    · exact congrArg (fun x => readByte x a) ((show (v.raiseSticky fl).mem = u.mem by rw [← hv]; rfl).trans (hmem hc))

end Sys2Proof.Machine
end

section
/-! PROOFS. What the reports of a context may change: its notification and trace records (R380, R388, R389), the status of
a launch (R238, R379), and the faults posted with them. -/

namespace Sys2Proof.Machine

open Sys2Proof

variable {s t u : State} {ctx : BitVec 12}

/-! ### Reports (R380, R388, R389) -/

/-- What the reports of a context leave of it: its number and the head of its launch ring. -/
def ringOf (c : Context) : BitVec 12 × BitVec 64 := (c.id, c.lqhead)

/-- What a report may change: memory and what stands with it, the contexts' rings of records, the black box, messages on
their way, and posted faults. -/
structure Reported (s t : State) : Prop where
  rest : { t with mem := s.mem, poison := s.poison, zeros := s.zeros, moves := s.moves, hist := s.hist, nextId := s.nextId,
                  ctxs := s.ctxs, outbox := s.outbox, posts := s.posts, fmsgs := s.fmsgs, bbox := s.bbox,
                  bbOver := s.bbOver } = s
  rings : t.ctxs.map ringOf = s.ctxs.map ringOf

theorem Reported.refl (s : State) : Reported s s := ⟨rfl, rfl⟩

theorem Reported.trans (h : Reported s u) (h2 : Reported u t) : Reported s t := by
  refine ⟨?_, h2.rings.trans h.rings⟩
  have h1 := h.rest
  rw [← h2.rest] at h1
  exact h1

theorem Reported.foldl {α : Type} (f : State → α → State) (hf : ∀ t x, Reported t (f t x)) (xs : List α) (s : State) :
    Reported s (xs.foldl f s) := by
  induction xs generalizing s with
  | nil => exact .refl s
  | cons x xs ih => exact (hf s x).trans (ih _)

theorem Reported.ite {b : Prop} [Decidable b] (h : Reported s t) (h2 : Reported s u) : Reported s (if b then t else u) := by
  split
  · exact h
  · exact h2

theorem Reported.launches (h : Reported s t) : t.launches = s.launches := (congrArg State.launches h.rest :)

theorem Reported.tasks (h : Reported s t) : t.tasks = s.tasks := (congrArg State.tasks h.rest :)

theorem Reported.cores (h : Reported s t) : t.cores = s.cores := (congrArg State.cores h.rest :)

theorem Reported.core (h : Reported s t) (m : Nat) : t.core m = s.core m := (congrArg (fun v : State => v.core m) h.rest :)

theorem Reported.clusters (h : Reported s t) : t.clusters = s.clusters := (congrArg State.clusters h.rest :)

/-- Contexts with the same numbers and ring heads are found with the same ring heads. -/
theorem ctx?_ringOf {id : BitVec 12} (h : t.ctxs.map ringOf = s.ctxs.map ringOf) :
    (t.ctx? id).map ringOf = (s.ctx? id).map ringOf := by
  have hfind (v : State) : (v.ctx? id).map ringOf = (v.ctxs.map ringOf).find? fun y => y.1 == id := by
    rw [List.find?_map]
    rfl
  rw [hfind, hfind, h]

theorem MemoryOnly.reported (h : MemoryOnly s t) : Reported s t := by
  refine ⟨?_, congrArg (List.map ringOf) (congrArg State.ctxs h :)⟩
  exact (congrArg (fun x : State => { x with ctxs := s.ctxs, outbox := s.outbox, posts := s.posts, fmsgs := s.fmsgs,
                                             bbox := s.bbox, bbOver := s.bbOver }) h :)

theorem postFault_reported (s : State) (ctx : BitVec 12) (code reason : Nat) (unit pc val fqw : Word) :
    Reported s (s.postFault ctx code reason unit pc val fqw) := ⟨rfl, rfl⟩

theorem send_reported (s : State) (kind : String) (ws : List Word) : Reported s (s.send kind ws) := ⟨rfl, rfl⟩

/-- A change of a context that leaves its number and the head of its launch ring. -/
theorem modCtx_reported (s : State) (id : BitVec 12) {f : Context → Context} (hf : ∀ c, ringOf (f c) = ringOf c) :
    Reported s (s.modCtx id f) := by
  refine ⟨rfl, ?_⟩
  rw [State.modCtx, List.map_map]
  refine List.map_congr_left fun c _ => ?_
  rw [Function.comp_apply]
  split
  · exact hf c
  · rfl

/-- What follows such a change, and the change. -/
theorem Reported.after_modCtx {id : BitVec 12} {f : Context → Context} (h : Reported (s.modCtx id f) t)
    (hf : ∀ c, ringOf (f c) = ringOf c) : Reported s t :=
  (modCtx_reported s id hf).trans h

theorem sysWrite_reported (s : State) (pa : Nat) (ws : List Word) : Reported s (sysWrite s pa ws).1 :=
  (writePhys_memoryOnly ..).reported

theorem writeNote_reported (s : State) (c : Context) (vec : Nat) (ws : List Word) : Reported s (writeNote s c vec ws) := by
  unfold writeNote
  extract_lets r
  have hr : Reported s r.1 := sysWrite_reported ..
  split
  · exact hr.trans (postFault_reported ..)
  · exact hr.trans (.after_modCtx (send_reported ..) fun _ => rfl)

theorem drainNotes_reported (ctx : BitVec 12) (fuel : Nat) (s : State) : Reported s (drainNotes ctx fuel s) := by
  induction fuel generalizing s with
  | zero => exact .refl s
  | succ fuel ih =>
    rw [drainNotes]
    split
    · exact .refl s
    · split
      · exact .refl s
      · exact .ite (.after_modCtx ((writeNote_reported ..).trans (ih _)) fun _ => rfl) (.refl s)

theorem postNote_reported (s : State) (ctx : BitVec 12) (vec kind sub : Nat) (a b : Word) :
    Reported s (postNote s ctx vec kind sub a b) := by
  simp only [postNote]
  split
  · exact .refl s
  · exact .after_modCtx (drainNotes_reported ..) fun _ => rfl

theorem bboxPost_reported (s : State) (ws : List Word) : Reported s (bboxPost s ws) := by
  simp only [bboxPost]
  exact .ite ⟨rfl, rfl⟩ ⟨rfl, rfl⟩

theorem writeTrace_reported (s : State) (c : Context) (ws : List Word) : Reported s (writeTrace s c ws) := by
  unfold writeTrace
  extract_lets r
  have hr : Reported s r.1 := sysWrite_reported ..
  split
  · exact hr.trans (postFault_reported ..)
  · exact hr.trans (.after_modCtx (send_reported ..) fun _ => rfl)

theorem drainTrace_reported (ctx : BitVec 12) (fuel : Nat) (s : State) : Reported s (drainTrace ctx fuel s) := by
  induction fuel generalizing s with
  | zero => exact .refl s
  | succ fuel ih =>
    rw [drainTrace]
    split
    · exact .refl s
    · split
      · exact .refl s
      · exact .ite (.after_modCtx ((writeTrace_reported ..).trans (ih _)) fun _ => rfl) (.refl s)

theorem traceRing_reported (s : State) (ctx : BitVec 12) (who : Option (Nat × Kind)) (ws : List Word) :
    Reported s (traceRing s ctx who ws) := by
  unfold traceRing
  split
  · exact .refl s
  · refine .ite (.refl s) (.ite (.after_modCtx (drainTrace_reported ..) fun _ => rfl)
      (.ite (modCtx_reported _ _ fun _ => rfl) (.ite (writeTrace_reported ..) ?_)))
    extract_lets s1
    have hdrops : Reported s s1 := .after_modCtx (writeTrace_reported ..) fun _ => rfl
    split
    · exact hdrops
    · exact hdrops.trans (.ite (writeTrace_reported ..) (modCtx_reported _ _ fun _ => rfl))

theorem tracePost_reported (s : State) (ctx : BitVec 12) (who : Option (Nat × Kind)) (kind sub flag : Nat) (a b : Word) :
    Reported s (tracePost s ctx who kind sub flag a b) :=
  (Reported.ite (bboxPost_reported s _) (.refl s)).trans (traceRing_reported ..)

/-! ### The status of a launch (R238, R379) -/

theorem enginePut_reported {cl va : Nat} {bs : List Byte} (h : enginePut cl ctx va bs s = .ok t) : Reported s t := by
  simp only [enginePut] at h
  split at h
  case h_1 =>
    split at h
    · cases h
    · cases h
      exact (writePhys_memoryOnly ..).reported
  all_goals cases h

theorem putStatus_reported (s : State) (cl : Nat) (ctx : BitVec 12) (notify v : Word) :
    Reported s (putStatus s cl ctx notify v) := by
  unfold putStatus
  refine .ite (.refl s) ?_
  split
  next t h => exact enginePut_reported h
  next => exact postFault_reported ..

theorem noteStatus_reported (s : State) (ctx : BitVec 12) (tag : Option Word) (v : Word) :
    Reported s (noteStatus s ctx tag v) := by
  unfold noteStatus
  split
  · exact .refl s
  · split
    · exact .refl s
    · exact postNote_reported ..

theorem statusFlag_reported (s : State) (fe : Option FlagTarget) : Reported s (statusFlag s fe) := by
  unfold statusFlag
  split
  · exact .refl s
  · split
    · exact .refl s
    · exact ⟨rfl, rfl⟩

theorem fabricGroup_reported (s : State) (xkey : BitVec 32) (cl : Nat) : Reported s (fabricGroup s xkey cl) :=
  .foldl _ (fun _ _ => postFault_reported ..) _ s

theorem checkSets_reported (s : State) (cl : Nat) (gtab : List (BitVec 2048)) : Reported s (checkSets s cl gtab) :=
  .foldl _ (fun _ _ => fabricGroup_reported ..) _ s

end Sys2Proof.Machine
end

section
/-! PROOFS. Launches taken, placed and started (R151, R238, R287, R290 to R292, R295, R379). -/

namespace Sys2Proof.Machine

open Sys2Proof

variable {s t u : State} {n cl q lrec : Nat} {id : BitVec 12} {ctx : BitVec 12} {x : LaunchSource} {r : BitVec 4096}
  {p : LaunchParts} {k : Task} {l : Launch} {c : Context} {e : RenqEntry}

/-! ### A launch queued -/

/-- A launch as its source and its record have it queued. -/
structure LaunchOf (x : LaunchSource) (r : BitVec 4096) (p : LaunchParts) (l : Launch) : Prop where
  ctx : l.ctx = x.ctx
  recBits : l.recBits = r
  recs : l.recs = p.recs
  gtab : l.gtab = p.gtab
  cluster : l.cluster = x.cluster
  prio : l.prio = x.prio
  arg : l.arg = x.arg
  notify : l.notify = x.notify
  tag : l.tag = x.tag

/-- What the taking of a launch does: the launch and its tasks stand last, cores, clusters and the rings of the contexts
stay. -/
structure LaunchQueued (x : LaunchSource) (r : BitVec 4096) (p : LaunchParts) (l : Launch) (s t : State) : Prop where
  launch : LaunchOf x r p l
  launches : t.launches = s.launches ++ [l]
  tasks : t.tasks = s.tasks ++ (List.range (lTasks r)).map (fun i => newTask s l.id i r)
  cores : t.cores = s.cores
  clusters : t.clusters = s.clusters
  rings : t.ctxs.map ringOf = s.ctxs.map ringOf

theorem LaunchQueued.reported (h : LaunchQueued x r p l s u) (h2 : Reported u t) : LaunchQueued x r p l s t where
  launch := h.launch
  launches := h2.launches.trans h.launches
  tasks := h2.tasks.trans h.tasks
  cores := h2.cores.trans h.cores
  clusters := h2.clusters.trans h.clusters
  rings := h2.rings.trans h.rings

/-- The groups that a launch's entries name are noted in its context, and nothing else is. -/
theorem queueLaunch_queued (s : State) (x : LaunchSource) (r : BitVec 4096) (p : LaunchParts) :
    ∃ l, LaunchQueued x r p l s (queueLaunch s x r p) := by
  unfold queueLaunch
  extract_lets id keys v
  have hv : Reported s v := .ite (.refl s) (modCtx_reported s _ fun _ => rfl)
  have hnow : v.now = s.now := (congrArg State.now hv.rest :)
  exact ⟨_, ⟨rfl, rfl, rfl, rfl, rfl, rfl, rfl, rfl, rfl⟩, congrArg (· ++ [_]) hv.launches,
    by simp only [hv.tasks, newTask, hnow], hv.cores, hv.clusters, hv.rings⟩

/-- The source of a launch with the priority that it gets (R287). -/
def LaunchSource.raised (x : LaunchSource) (r : BitVec 4096) : LaunchSource :=
  { x with prio := BitVec.ofNat 2 (Nat.max x.prio.toNat (lPrio r)) }

theorem raised_prio (x : LaunchSource) (r : BitVec 4096) : (x.raised r).prio.toNat = Nat.max x.prio.toNat (lPrio r) := by
  have hr : lPrio r < 2 ^ 2 := BitVec.isLt _
  exact Nat.mod_eq_of_lt (Nat.max_lt.2 ⟨x.prio.isLt, hr⟩)

theorem decideLaunch_queued (h : judgeLaunch s x.cluster x.ctx lrec x.target = .ok (r, p)) :
    ∃ l, LaunchQueued (x.raised r) r p l s (decideLaunch s x lrec) := by
  obtain ⟨l, hl⟩ := queueLaunch_queued s (x.raised r) r p
  refine ⟨l, hl.reported ?_⟩
  unfold decideLaunch
  extract_lets report
  simp only [h]
  have hreport (v : State) (w : Word) : Reported v (report v w) :=
    (putStatus_reported ..).trans (noteStatus_reported ..)
  have hdone := (checkSets_reported (queueLaunch s (x.raised r) r p) x.cluster p.gtab).trans (hreport _ 1)
  exact .ite hdone (hdone.trans (statusFlag_reported ..))

/-! ### LAUNCH_TAKE (R236, R238) -/

theorem renqOf_setRenq (s : State) (qu : Nat × Nat) (es : List RenqEntry) : renqOf (setRenq s qu es) qu = es := by
  rw [renqOf, setRenq, State.modCluster, cluster_setCluster_same, tget_tset_same]

theorem renqOf_clusters (h : t.clusters = s.clusters) (qu : Nat × Nat) : renqOf t qu = renqOf s qu := by
  rw [renqOf, renqOf, State.cluster, State.cluster, h]

theorem launchTake_waits {rest : List RenqEntry} (hq : renqOf s (cl, q) = e :: rest) (hc : s.ctx? e.ctx = some c)
    (hw : c.ctl = .stopping ∨ c.ctl = .stopped) : exec (.launchTake cl q) s = .next s := by
  rw [exec_launchTake, execLaunchTake]
  rcases hw with hw | hw <;> simp only [hq, hc, hw]

theorem launchTake_takes {rest : List RenqEntry} (hq : renqOf s (cl, q) = e :: rest) (hc : s.ctx? e.ctx = some c)
    (hr : c.ctl = .running) :
    exec (.launchTake cl q) s =
      .next (takeEntry (setRenq s (cl, q) rest) cl (if q = 16 then none else some (16 * cl + q)) e) := by
  rw [exec_launchTake, execLaunchTake]
  simp only [hq, hc, hr]

theorem takeEntry_queued {bs : List Byte} {target : Option Nat}
    (hb : engineBytes s cl e.ctx e.addr.toNat 256 = .ok bs) (hok : commandOk (BitVec.ofNat 2048 (leNat bs)) = true)
    (hj : judgeLaunch s cl e.ctx ((BitVec.ofNat 2048 (leNat bs)).extractLsb' 64 64).toNat target = .ok (r, p)) :
    ∃ l, LaunchQueued ((blockSource (BitVec.ofNat 2048 (leNat bs)) cl target e).raised r) r p l s
      (takeEntry s cl target e) := by
  simp only [takeEntry, hb, hok, if_pos]
  exact decideLaunch_queued hj

/-! ### HOST_LAUNCH_TAKE (R379) -/

theorem hostLaunchTake_takes {ctx cl : Nat} {bs : List Byte} (hc : s.ctxAt ctx = some c) (hne : c.lqtail ≠ c.lqhead)
    (hsize : (c.lqtail - c.lqhead).toNat ≤ c.lqsize) (hctl : c.ctl = .running) (hf : c.fault = none)
    (hnote : noteReady s c.id = true) (hcl : cl < 40) (hw : clusterWorks s cl = true)
    (hb : engineBytes s cl c.id (c.lq + 64 * (c.lqhead.toNat % c.lqsize)) 64 = .ok bs) :
    exec (.hostLaunchTake ctx cl) s =
      .next (takeRing (s.modCtx c.id fun c => { c with lqhead := c.lqhead + 1 }) c cl (BitVec.ofNat 512 (leNat bs))) := by
  have hn : (c.lqtail - c.lqhead).toNat ≠ 0 := fun h => hne (by bv_omega)
  rw [exec_hostLaunchTake, execHostLaunchTake]
  simp only [hc, hb]
  rw [if_neg (by simp [-BitVec.toNat_sub, hn, hsize, hctl, hf, hnote, hcl, hw])]

/-- A context is found under its own number. -/
theorem ctxAt_id {ctx : Nat} (h : s.ctxAt ctx = some c) : s.ctx? c.id = some c := by
  rw [State.ctxAt] at h
  split at h
  · rwa [show c.id = BitVec.ofNat 12 ctx by simpa using List.find?_some h]
  · cases h

theorem ctx?_modCtx_same {f : Context → Context} (hf : ∀ c, (f c).id = c.id) (h : s.ctx? id = some c) :
    (s.modCtx id f).ctx? id = some (f c) := by
  have hid : c.id = id := by simpa using List.find?_some h
  have hkeep : ((fun c : Context => c.id == id) ∘ fun c => if c.id == id then f c else c) = fun c => c.id == id := by
    funext y
    rw [Function.comp_apply]
    split
    · rw [hf]
    · rfl
  rw [State.ctx?, State.modCtx, List.find?_map, hkeep]
  rw [State.ctx?] at h
  simp [h, hid]

/-- What an entry of the launch ring says of its launch. -/
def ringSource (c : Context) (cl : Nat) (b : BitVec 512) : LaunchSource :=
  { ctx := c.id, cluster := cl, prio := BitVec.ofNat 2 c.pmin, arg := 0, notify := b.extractLsb' 64 64, fe := none,
    fwhen := false, tag := some (b.extractLsb' 128 64), target := none }

theorem takeRing_queued {b : BitVec 512} (hz : b.extractLsb' 192 320 = 0)
    (hj : judgeLaunch s cl c.id (b.extractLsb' 0 64).toNat none = .ok (r, p)) :
    ∃ l, LaunchQueued ((ringSource c cl b).raised r) r p l s (takeRing s c cl b) := by
  have hrun : takeRing s c cl b = decideLaunch s (ringSource c cl b) (b.extractLsb' 0 64).toNat := if_pos hz
  rw [hrun]
  exact decideLaunch_queued hj

theorem ringSource_prio (c : Context) (cl : Nat) (b : BitVec 512) : (ringSource c cl b).prio.toNat = c.pmin := by
  have hc : c.pmin < 2 ^ 2 := BitVec.isLt _
  exact Nat.mod_eq_of_lt hc

/-! ### What the forming of groups may change (R290, R403, R404) -/

/-- Nothing differs but the groups, what is on its way to them and from them, and posted faults. -/
def GroupsOnly (s t : State) : Prop :=
  { t with groups := s.groups, colls := s.colls, collSeqs := s.collSeqs, dies := s.dies, fmsgs := s.fmsgs, early := s.early,
           outbox := s.outbox, posts := s.posts } = s

theorem GroupsOnly.refl (s : State) : GroupsOnly s s := rfl

theorem GroupsOnly.trans (h : GroupsOnly s u) (h2 : GroupsOnly u t) : GroupsOnly s t := by
  unfold GroupsOnly at *
  rw [← h2] at h
  exact h

theorem GroupsOnly.foldl {α : Type} (f : State → α → State) (hf : ∀ t x, GroupsOnly t (f t x)) (xs : List α) (s : State) :
    GroupsOnly s (xs.foldl f s) := by
  induction xs generalizing s with
  | nil => exact .refl s
  | cons x xs ih => exact (hf s x).trans (ih _)

theorem GroupsOnly.ite {b : Prop} [Decidable b] (h : GroupsOnly s t) (h2 : GroupsOnly s u) :
    GroupsOnly s (if b then t else u) := by
  split
  · exact h
  · exact h2

theorem GroupsOnly.cores (h : GroupsOnly s t) : t.cores = s.cores := (congrArg State.cores h :)

theorem GroupsOnly.tasks (h : GroupsOnly s t) : t.tasks = s.tasks := (congrArg State.tasks h :)

theorem modGroup_groups (s : State) (k : GroupKey) (f : GroupState → GroupState) : GroupsOnly s (s.modGroup k f) := rfl

theorem formGroups_groups (s : State) (l : Launch) : GroupsOnly s (formGroups s l) := by
  refine .foldl _ (fun v g => ?_) _ s
  unfold formGroup
  extract_lets key ms
  split <;> rfl

theorem sendModule_groups (s : State) (g : GroupState) : GroupsOnly s (sendModule s g) := .ite rfl rfl

theorem sendFlag_groups (s : State) (task flag : Nat) (y : Word32) (scope : Nat) :
    GroupsOnly s (sendFlag s task flag y scope) := rfl

theorem completeGen_groups (s : State) (g : GroupState) : GroupsOnly s (completeGen s g) :=
  (GroupsOnly.foldl _ (fun _ _ => sendFlag_groups ..) g.arrived s).trans (modGroup_groups ..)

theorem settleGroup_groups (s : State) (k : GroupKey) (fuel : Nat) : GroupsOnly s (settleGroup s k fuel) := by
  induction fuel generalizing s with
  | zero => exact .refl s
  | succ fuel ih =>
    rw [settleGroup]
    split
    · exact .refl s
    · refine .ite (.refl s) ?_
      have hsent := sendModule_groups s ‹GroupState›
      extract_lets v
      split
      · exact hsent
      · exact hsent.trans (.ite ((completeGen_groups ..).trans (ih _)) (.refl _))

theorem endGroups_groups (s : State) : GroupsOnly s (endGroups s) := by
  unfold endGroups
  extract_lets ended keys
  exact .ite (.refl s) rfl

theorem postFault_groupsOnly (s : State) (ctx : BitVec 12) (code reason : Nat) (unit pc val fqw : Word) :
    GroupsOnly s (s.postFault ctx code reason unit pc val fqw) := rfl

theorem fabricGroup_groups (s : State) (xkey : BitVec 32) (cl : Nat) : GroupsOnly s (fabricGroup s xkey cl) :=
  .foldl _ (fun _ _ => postFault_groupsOnly ..) _ s

theorem peerCast_groups (s : State) (xkey : BitVec 32) (flag : Nat) (y : Word32) :
    GroupsOnly s (peerCast s xkey flag y) := by
  unfold peerCast
  split
  · rfl
  · exact .foldl _ (fun _ _ => sendFlag_groups ..) _ s

theorem moduleArrival_groups {xkey : BitVec 32} {sender : PeerModule} {gen : Nat}
    (h : execModuleArrival xkey sender gen s = .next t) : GroupsOnly s t := by
  unfold execModuleArrival at h
  extract_lets mods module early at h
  split at h
  · split at h <;> cases h
    · exact fabricGroup_groups ..
    · exact .ite rfl rfl
  · split_ifs at h <;> cases h
    · exact .refl s
    · exact fabricGroup_groups ..
    · rfl
    · exact (GroupsOnly.trans (modGroup_groups ..) (endGroups_groups _)).trans (settleGroup_groups ..)
    · exact .refl s
    · exact (modGroup_groups ..).trans (settleGroup_groups ..)

theorem takeEarly_groups (s : State) (m : EarlyMsg) : GroupsOnly s (takeEarly s m) := by
  unfold takeEarly
  refine .ite (peerCast_groups ..) ?_
  split
  next h => exact moduleArrival_groups h
  · exact .refl s
  · exact .refl s

theorem joinEarly_groups (s : State) (l : Launch) : GroupsOnly s (joinEarly s l) :=
  GroupsOnly.trans (u := { s with early := s.early.filter fun m => !l.hasKey m.xkey }) rfl
    (.foldl _ takeEarly_groups _ _)

/-! ### Tasks by number -/

theorem task?_modTask_same {i : Nat} {f : Task → Task} (hf : ∀ y, (f y).id = y.id) (h : s.task? i = some k) :
    (s.modTask i f).task? i = some (f k) := by
  have hid : k.id = i := by simpa using List.find?_some h
  have hkeep : ((fun y : Task => y.id == i) ∘ fun y => if y.id == i then f y else y) = fun y => y.id == i := by
    funext y
    rw [Function.comp_apply]
    split
    · rw [hf]
    · rfl
  rw [State.task?, State.modTask, List.find?_map, hkeep]
  rw [State.task?] at h
  simp [h, hid]

theorem task?_tasks {i : Nat} (h : t.tasks = s.tasks) : t.task? i = s.task? i := by
  rw [State.task?, State.task?, h]

/-! ### TASK_START (R151, R290) -/

theorem enterStrands_startCore (c : Core) (l : Launch) (prio : BitVec 2) (i : Nat) :
    enterStrands (startCore c l prio i) l =
      { startCore c l prio i with
        a := { mode := .running, pc := BitVec.ofNat 64 (lEntry l.recBits .a) }
        c := { mode := .running, pc := BitVec.ofNat 64 (lEntry l.recBits .c) }
        m := { mode := .running, pc := BitVec.ofNat 64 (lEntry l.recBits .m) }
        v := { mode := .running, pc := BitVec.ofNat 64 (lEntry l.recBits .v) } } := rfl


theorem taskStart_starts {i : Nat} {y : Task} (hy : s.task? i = some y) (hl : s.launch? y.launch = some l)
    (hr : readyToStart s y l = true) (hs : y.saved = false) :
    ∃ t, exec (.taskStart i) s = .next t ∧
      Reported ((s.modCore y.core fun c => enterStrands (startCore c l c.prio i) l).modTask i fun z =>
        { z with st := .running, since := s.now, why := 0, cutAt := none, grps := firstGroups l z.index }) t := by
  rw [exec_taskStart, execTaskStart]
  simp only [hy, hl]
  rw [if_neg (by simp [hr, hs])]
  exact ⟨_, rfl, tracePost_reported ..⟩

/-! ### SCHEDULER_WALK (R291, R292, R295) -/

/-- What areas and the slot-table image change: the tasks' areas, the launches and the routers. -/
structure AreasGiven (s t : State) : Prop where
  rest : { t with tasks := s.tasks, launches := s.launches, slotTables := s.slotTables } = s
  tasks : t.tasks.map (fun y => y.id) = s.tasks.map (fun y => y.id)

theorem AreasGiven.refl (s : State) : AreasGiven s s := ⟨rfl, rfl⟩

theorem AreasGiven.trans (h : AreasGiven s u) (h2 : AreasGiven u t) : AreasGiven s t := by
  refine ⟨?_, h2.tasks.trans h.tasks⟩
  have h1 := h.rest
  rw [← h2.rest] at h1
  exact h1

theorem AreasGiven.foldl {α : Type} (f : State → α → State) (hf : ∀ t x, AreasGiven t (f t x)) (xs : List α) (s : State) :
    AreasGiven s (xs.foldl f s) := by
  induction xs generalizing s with
  | nil => exact .refl s
  | cons x xs ih => exact (hf s x).trans (ih _)

theorem giveArea_given (s : State) (i a : Nat) : AreasGiven s (s.modTask i fun y => { y with area := a }) := by
  refine ⟨rfl, ?_⟩
  rw [State.modTask, List.map_map]
  refine List.map_congr_left fun y _ => ?_
  rw [Function.comp_apply]
  split <;> rfl

theorem giveAreas_given (s : State) (c : Context) (l : Launch) : AreasGiven s (giveAreas s c l) :=
  .foldl _ (fun _ _ => giveArea_given ..) _ s

theorem setSlotEntry_given (s : State) (i : Nat) (e : BitVec 16) : AreasGiven s (setSlotEntry s i e) := ⟨rfl, rfl⟩

theorem loadSlots_given (s : State) (l : Launch) : AreasGiven s (loadSlots s l) := by
  unfold loadSlots
  split
  · exact .refl s
  · exact (AreasGiven.foldl _ (fun _ _ => setSlotEntry_given ..) _ s).trans ⟨rfl, rfl⟩

theorem AreasGiven.now (h : AreasGiven s t) : t.now = s.now := (congrArg State.now h.rest :)

theorem AreasGiven.core (h : AreasGiven s t) (m : Nat) : t.core m = s.core m :=
  (congrArg (fun v : State => v.core m) h.rest :)

/-- A task that stood before stands with its number. -/
theorem AreasGiven.task? {i : Nat} (h : AreasGiven s t) (hk : s.task? i = some k) : ∃ y, t.task? i = some y := by
  have hin : i ∈ s.tasks.map (fun y => y.id) := by
    rw [State.task?] at hk
    exact List.mem_map.2 ⟨k, List.mem_of_find?_eq_some hk, by simpa using List.find?_some hk⟩
  rw [← h.tasks] at hin
  obtain ⟨y, hy, hid⟩ := List.mem_map.1 hin
  exact Option.isSome_iff_exists.1 (List.find?_isSome.2 ⟨y, hy, by simpa using hid⟩)

theorem fetchResidency_alcoves (l : Launch) (s : State) (cl : Nat) : AlcovesOnly s (fetchResidency l s cl) :=
  .foldl _ (fun _ _ => fillHall_alcoves ..) _ s

theorem fetchResidency_traffic (l : Launch) (s : State) (cl : Nat) : TileTraffic s (fetchResidency l s cl) :=
  .foldl _ (fun _ _ => fillHall_traffic ..) _ s

/-- A task seated holds its core, and the other cores and the tasks' numbers stand. -/
theorem seatTask_core (l : Launch) (prio : Nat) (s : State) (k : Task) (n : Nat) :
    (seatTask l prio s (k, n)).core n =
      { s.core n with task := some k.id, ctx := l.ctx, prio := BitVec.ofNat 2 prio } :=
  core_setCore_same ..

theorem seatTask_core_other (l : Launch) (prio : Nat) (s : State) (k : Task) {n m : Nat} (h : m ≠ n) :
    (seatTask l prio s (k, n)).core m = s.core m :=
  core_setCore_other _ _ _ _ h

/-- A task as it stands on its core until its residency ends. -/
structure Seated (l : Launch) (prio i n : Nat) (s t : State) : Prop where
  task : ∃ y, t.task? i = some y ∧ y.st = .residing ∧ y.core = n ∧ y.since = s.now
  core : (t.core n).task = some i ∧ (t.core n).ctx = l.ctx ∧ (t.core n).prio = BitVec.ofNat 2 prio
  others : OthersKept s t n

theorem seatTask_seated {prio : Nat} (h : AreasGiven s t) (hk : s.task? k.id = some k) :
    Seated l prio k.id n s (seatTask l prio t (k, n)) where
  task := by
    obtain ⟨y, hy⟩ := h.task? hk
    exact ⟨_, task?_modTask_same (fun _ => rfl) hy, rfl, rfl, h.now⟩
  core := by
    rw [seatTask_core]
    exact ⟨rfl, rfl, rfl⟩
  others := fun m hm => by
    rw [seatTask_core_other _ _ _ _ hm, h.core]

/-- What changes alcoves alone, and no task, leaves a task seated. -/
theorem Seated.then_alcoves {prio i : Nat} (h : Seated l prio i n s u) (ha : AlcovesOnly u t) (ht : t.tasks = u.tasks) :
    Seated l prio i n s t where
  task := by
    rw [task?_tasks ht]
    exact h.task
  core := by
    obtain ⟨a, ha⟩ := ha.lines n
    rw [ha]
    exact h.core
  others := fun m hm => by
    obtain ⟨a, ha⟩ := ha.lines m
    rw [ha]
    exact h.others m hm

theorem placeAll_seated {prio : Nat} (hk : s.task? k.id = some k) :
    Seated l prio k.id n s (placeAll s c l prio [(k, n)]) := by
  have hseat : Seated l prio k.id n s (seatTask l prio (loadSlots (giveAreas s c l) l) (k, n)) :=
    seatTask_seated ((giveAreas_given s c l).trans (loadSlots_given ..)) hk
  unfold placeAll
  rw [if_neg (by simp)]
  extract_lets cls v w
  have hgroups : GroupsOnly v w := (formGroups_groups ..).trans (joinEarly_groups ..)
  have hw : Seated l prio k.id n s w := hseat.then_alcoves (.of_cores hgroups.cores) hgroups.tasks
  have hfetch : Seated l prio k.id n s (cls.foldl (fetchResidency l) w) :=
    hw.then_alcoves (.foldl _ (fetchResidency_alcoves l) cls w)
      (congrArg State.tasks (TileTraffic.foldl _ (fetchResidency_traffic l) cls w) :)
  exact hfetch.then_alcoves (.of_cores rfl) rfl

/-- One task with a free core among those that it may take is paired with the lowest. -/
theorem pairUp_one (h : (usableCores s l k).find? (coreFree s) = some n) :
    pairUp s l (((usableCores s l k).eraseDups).filter (coreFree s)) [k] = [(k, n)] := by
  have hsame : (usableCores s l k).find? (fun m => (((usableCores s l k).eraseDups).filter (coreFree s)).contains m) =
      some n := by
    rw [← h]
    refine List.find?_congr fun m hm => ?_
    simp [hm]
  simp only [pairUp, hsame]

theorem schedulerWalk_places {w : Waiting} (hcl : cl < 40) (hw : waitingAt s cl = [w]) (hts : w.tasks = [k])
    (hgang : isGang w.launch = false) (hc : s.ctx? w.launch.ctx = some c) (hmay : mayPlace s c w.launch = true)
    (hfree : (usableCores s w.launch k).find? (coreFree s) = some n) :
    ∃ cs, exec (.schedulerWalk cl) s =
      .next { placeAll s c w.launch (eprio s w.launch w.arrival) [(k, n)] with claims := cs } := by
  rw [exec_schedulerWalk, execSchedulerWalk, if_neg (by omega), hw]
  have hwalk : walkEntry { s := s, claimed := [] } w =
      { s := placeAll s c w.launch (eprio s w.launch w.arrival) [(k, n)], claimed := [] } := by
    simp [walkEntry, hc, hts, hmay, hgang, pairUp_one hfree]
  simp only [sortBy, List.foldl_cons, List.foldl_nil, insertBy, hwalk]
  exact ⟨_, rfl⟩

/-- Settles O55: a taken launch is queued with its tasks and then reported, and reports change neither cores, launches,
tasks nor ring heads; the walk's one task pairs with its lowest free core; a start writes the whole core. -/
theorem launchesPlaced : Obligations.LaunchesPlaced := by
  intro s
  refine ⟨fun cl q e rest c bs r p hq hc => ⟨launchTake_waits hq hc, ?_⟩, ?_,
    fun cl w k c n hcl hw hts hgang hc hmay hfree hk => ?_, fun k y hy hres hlim => ?_, ?_⟩
  · intro hrun u b hb hok hj
    obtain ⟨l, hl⟩ := takeEntry_queued hb hok hj
    refine ⟨_, l, launchTake_takes hq hc hrun, hl.launches, hl.launch.ctx, hl.launch.recBits, hl.launch.recs, hl.launch.gtab,
      hl.launch.cluster, ?_, hl.launch.arg, hl.tasks, hl.cores, ?_⟩
    · rw [hl.launch.prio, raised_prio]
      rfl
    · rw [renqOf_clusters hl.clusters, renqOf_setRenq]
  · intro ctx cl c bs r p hc hne hsize hctl hf hnote hcl hw hb b hz hj
    obtain ⟨l, hl⟩ := takeRing_queued hz hj
    have hring := ctx?_ringOf (id := c.id) hl.rings
    rw [ctx?_modCtx_same (f := fun c => { c with lqhead := c.lqhead + 1 }) (fun _ => rfl) (ctxAt_id hc)] at hring
    obtain ⟨d, hd, hdr⟩ := Option.map_eq_some_iff.1 hring
    refine ⟨_, l, d, hostLaunchTake_takes hc hne hsize hctl hf hnote hcl hw hb, hl.launches, hl.launch.ctx,
      hl.launch.recBits, hl.launch.notify, hl.launch.tag, ?_, hl.tasks, hl.cores, hd, congrArg Prod.snd hdr⟩
    rw [hl.launch.prio, raised_prio, ringSource_prio]
  · obtain ⟨cs, hrun⟩ := schedulerWalk_places hcl hw hts hgang hc hmay hfree
    have hseat : Seated w.launch (eprio s w.launch w.arrival) k.id n s _ :=
      (placeAll_seated (c := c) hk).then_alcoves (.of_cores rfl)
        (t := { placeAll s c w.launch (eprio s w.launch w.arrival) [(k, n)] with claims := cs }) rfl
    obtain ⟨y, hy, hst, hcore, hsince⟩ := hseat.task
    obtain ⟨htask, hctx, hprio⟩ := hseat.core
    exact ⟨_, y, hrun, hy, hst, hcore, hsince, htask, hctx, hprio, hseat.others⟩
  · rw [exec_residencyTimeout, execResidencyTimeout]
    simp only [hy]
    exact if_pos ⟨hres, hlim⟩
  · intro k y l hy hl hr hs old at_
    obtain ⟨t, hrun, hrep⟩ := taskStart_starts hy hl hr hs
    refine ⟨t, _, hrun, (task?_tasks hrep.tasks).trans (task?_modTask_same (fun _ => rfl) hy), rfl, rfl, rfl,
      fun m hm => (hrep.core m).trans (core_setCore_other _ _ _ _ hm), (hrep.core _).trans ?_⟩
    exact (core_setCore_same ..).trans (enterStrands_startCore ..)

end Sys2Proof.Machine
end

section
/-! PROOFS. KVAPP as an instruction (R177 to R180, R259): what stops a batch before its first entry, how a batch goes from
entry to entry, and what stands in the acting strand when it is over, stops or pauses. -/

namespace Sys2Proof.Machine

open Sys2Proof

variable {s t u v : State} {g rd ra kr vr : BitVec 6} {cnt : BitVec 8} {x y : Block} {n tbl j m b code val : Nat}
  {ctx : BitVec 12} {f : KvStop} {i : Instr}

/-! ### Before the first entry -/

theorem kvapp_keyless (h : Runs s g [rd, ra, kr, vr]) (hm : MayAccess s) (hx : arenaRec s.issue.pre.recs (s.rd kr) = none) :
    exec (.kvapp g rd ra kr vr cnt) s = faultAt s 6 0 (s.rd kr) 0 := by
  rw [exec_kvapp, execKvapp, guarded_ready h, memReady_of hm]
  simp only [hx]

theorem kvapp_valueless (h : Runs s g [rd, ra, kr, vr]) (hm : MayAccess s) (hx : arenaRec s.issue.pre.recs (s.rd kr) = some x)
    (hy : arenaRec s.issue.pre.recs (s.rd vr) = none) : exec (.kvapp g rd ra kr vr cnt) s = faultAt s 6 0 (s.rd vr) 0 := by
  rw [exec_kvapp, execKvapp, guarded_ready h, memReady_of hm]
  simp only [hx, hy]

theorem kvapp_misaligned (h : Runs s g [rd, ra, kr, vr]) (hm : MayAccess s) (hx : arenaRec s.issue.pre.recs (s.rd kr) = some x)
    (hy : arenaRec s.issue.pre.recs (s.rd vr) = some y) (ha : (s.rd ra).toNat % 32 ≠ 0) :
    exec (.kvapp g rd ra kr vr cnt) s = trapAt s 1 (s.rd ra) := by
  rw [exec_kvapp, execKvapp, guarded_ready h, memReady_of hm]
  simp only [hx, hy]
  exact if_pos ha

/-- The batch of a KVAPP that nothing holds: its index, its table and its count as they stand. -/
def kvBatch (s : State) (rd ra : BitVec 6) (cnt : BitVec 8) (x y : Block) : State × KvEnd :=
  kvFrom s.issue.core s.live.ctx x y (s.rd ra).toNat (cnt.toNat + 1 - (s.rd rd).toNat) (s.rd rd).toNat s

/-- What a batch that has come to an end makes of its instruction. -/
def kvOutcome (rd : BitVec 6) (cnt : BitVec 8) (u : State) : KvEnd → Out
  | .all => .next ((kvOver u).wr rd (BitVec.ofNat 64 (cnt.toNat + 1)))
  | .pause j => .next (kvPaused u rd j)
  | .stop j f => kvStopped u rd j f

theorem kvapp_runs (h : Runs s g [rd, ra, kr, vr]) (hm : MayAccess s) (hx : arenaRec s.issue.pre.recs (s.rd kr) = some x)
    (hy : arenaRec s.issue.pre.recs (s.rd vr) = some y) (ha : (s.rd ra).toNat % 32 = 0) :
    exec (.kvapp g rd ra kr vr cnt) s =
      kvOutcome rd cnt (kvBatch s rd ra cnt x y).1 (kvBatch s rd ra cnt x y).2 := by
  rw [exec_kvapp, execKvapp, guarded_ready h, memReady_of hm]
  simp only [hx, hy]
  rw [if_neg (not_not.2 ha), kvBatch]
  obtain ⟨u, z⟩ := kvFrom s.issue.core s.live.ctx x y (s.rd ra).toNat (cnt.toNat + 1 - (s.rd rd).toNat) (s.rd rd).toNat s
  cases z <;> rfl

/-! ### From entry to entry (R179, R259) -/

theorem kvFrom_stops (h : (kvEntryAt u n ctx x y tbl j).1 = .stop v f) (m : Nat) :
    kvFrom n ctx x y tbl (m + 1) j u = (v, .stop j f) := by
  simp only [kvFrom, h]

theorem kvFrom_waits (h : (kvEntryAt u n ctx x y tbl j).1 = .wait v) (m : Nat) :
    kvFrom n ctx x y tbl (m + 1) j u = (v, .pause j) := by
  simp only [kvFrom, h]

theorem kvFrom_done (h : (kvEntryAt u n ctx x y tbl j).1 = .done v) (m : Nat) :
    kvFrom n ctx x y tbl (m + 1) j u =
      if m = 0 ∨ (kvEntryAt u n ctx x y tbl j).2 = true then kvFrom n ctx x y tbl m (j + 1) v
      else if v.takeBool.1 then (v.takeBool.2, .pause (j + 1)) else kvFrom n ctx x y tbl m (j + 1) v.takeBool.2 := by
  simp only [kvFrom, h]

/-- Entry `j` of a table says that nothing is appended (R178). -/
def SkipsAt (s : State) (n : Nat) (ctx : BitVec 12) (tbl j : Nat) : Prop :=
  ∃ e, kvRead s n ctx (tbl + 32 * j) = .ok e ∧ e.zero = 0 ∧ e.slot = 0xFFFFFFFF

theorem kvEntryAt_skips (hrun : (s.core n).kvRun = none) (h : SkipsAt s n ctx tbl j) :
    kvEntryAt s n ctx x y tbl j = (.done s, true) := by
  obtain ⟨e, he, hzero, hslot⟩ := h
  simp [kvEntryAt, hrun, he, kvStep, hzero, hslot]

/-- A batch of padding alone leaves the state as it was. -/
theorem kvFrom_skips (hrun : (s.core n).kvRun = none) (m j : Nat) (h : ∀ a, j ≤ a → a < j + m → SkipsAt s n ctx tbl a) :
    kvFrom n ctx x y tbl m j s = (s, .all) := by
  induction m generalizing j with
  | zero => rfl
  | succ m ih =>
    have hskip : kvEntryAt s n ctx x y tbl j = (.done s, true) := kvEntryAt_skips hrun (h j le_rfl (by omega))
    rw [kvFrom_done (congrArg Prod.fst hskip), hskip, if_pos (.inr rfl)]
    exact ih (j + 1) fun a ha hb => h a (by omega) (by omega)

/-! ### A batch that is over (R180) -/

/-- An entry given up: its core has none in progress, and memory and the bundle in issue stand. -/
theorem dropRun_drops (s : State) (n : Nat) (ctx : BitVec 12) :
    (dropRun s n ctx).core n = { s.core n with kvRun := none } ∧ (dropRun s n ctx).mem = s.mem ∧
      (dropRun s n ctx).issue = s.issue := by
  unfold dropRun
  split
  next h =>
    rw [← h]
    exact ⟨rfl, rfl, rfl⟩
  · split <;> exact ⟨core_setCore_same .., rfl, rfl⟩

theorem kvOver_issue (s : State) : (kvOver s).issue = s.issue := (dropRun_drops s ..).2.2

theorem kvOver_mem (s : State) : (kvOver s).mem = s.mem := (dropRun_drops s ..).2.1

theorem kvOver_live (s : State) : (kvOver s).live = { s.live with kvRun := none, kvAt := none } := by
  obtain ⟨hcore, -, hissue⟩ := dropRun_drops s s.issue.core s.live.ctx
  rw [State.live, kvOver_issue, kvOver, State.modLive, hissue, core_setCore_same, State.live, hissue, hcore]
  rfl

theorem strand_of_kvOver (c : Core) (k : Kind) : ({ c with kvRun := none, kvAt := none } : Core).strand k = c.strand k := by
  cases k <;> rfl

theorem act_kvOver (s : State) : act (kvOver s) = act s := by
  rw [act, act, kvOver_live, kvOver_issue, strand_of_kvOver]

theorem destReg_issue (h : t.issue = s.issue) (rd : BitVec 6) : destReg t rd = destReg s rd := by
  rw [destReg, destReg, State.pre, State.pre, h]

/-- A batch that was never in progress is over with nothing changed. -/
theorem kvOver_kept (hat : s.live.kvAt = none) (hrun : s.live.kvRun = none) : StrandKept s (kvOver s) := by
  have hover : kvOver s = s.modLive fun c => { c with kvAt := none } := by
    have hdrop : dropRun s s.issue.core s.live.ctx = s := by
      rw [State.live] at hrun
      rw [dropRun, hrun]
    rw [kvOver, hdrop]
  have hkeep : ({ s.live with kvAt := none } : Core) = s.live := by rw [← hat]
  rw [hover, State.modLive, hkeep]
  exact ⟨.setCore s s.live, by simp [act, State.live]⟩

/-- What is written after a change that keeps the acting strand is written in the state before it. -/
theorem RegWritten.after {p : Nat} {w : Word} (h : StrandKept s u) (hi : u.issue = s.issue) (hact : act u = act s)
    (hw : RegWritten u t p w) : RegWritten s t p w := by
  obtain ⟨hkept, hissue, hregs⟩ := hw
  rw [hact] at hregs
  exact ⟨h.trans hkept, hissue.trans hi, hregs⟩

theorem kvapp_skips (h : Runs s g [rd, ra, kr, vr]) (hm : MayAccess s) (hx : arenaRec s.issue.pre.recs (s.rd kr) = some x)
    (hy : arenaRec s.issue.pre.recs (s.rd vr) = some y) (ha : (s.rd ra).toNat % 32 = 0) (hat : s.live.kvAt = none)
    (hrun : s.live.kvRun = none)
    (hskip : ∀ j, (s.rd rd).toNat ≤ j → j ≤ cnt.toNat → SkipsAt s s.issue.core s.live.ctx (s.rd ra).toNat j) :
    GivesReg (.kvapp g rd ra kr vr cnt) s rd (BitVec.ofNat 64 (cnt.toNat + 1)) := by
  have hall : kvBatch s rd ra cnt x y = (s, .all) := kvFrom_skips hrun _ _ fun j h1 h2 => hskip j h1 (by omega)
  refine ⟨_, (kvapp_runs h hm hx hy ha).trans (by rw [hall]; rfl), ?_⟩
  rw [← destReg_issue (kvOver_issue s)]
  exact RegWritten.after (kvOver_kept hat hrun) (kvOver_issue s) (act_kvOver s) (wr_written ..)

/-! ### A batch that pauses or stops (R180, R259) -/

theorem act_wr_pc (s : State) (rd : BitVec 6) (w : Word) : (act (s.wr rd w)).pc = (act s).pc := by
  rw [State.wr, act_modActing]
  exact (apply_ite Strand.pc ..).trans (ite_self _)

theorem act_wr_mode (s : State) (rd : BitVec 6) (w : Word) : (act (s.wr rd w)).mode = (act s).mode := by
  rw [State.wr, act_modActing]
  exact (apply_ite Strand.mode ..).trans (ite_self _)

theorem kvPaused_live (s : State) (rd : BitVec 6) (j : Nat) :
    (kvPaused s rd j).live = { (s.wr rd (BitVec.ofNat 64 j)).live with
      kvAt := some s.issue.base
      kvRun := (s.wr rd (BitVec.ofNat 64 j)).live.kvRun.map fun r => { r with idx := destReg s rd } } :=
  core_setCore_same ..

theorem kvPaused_pc (s : State) (rd : BitVec 6) (j : Nat) : (act (kvPaused s rd j)).pc = (act s).pc := by
  rw [← act_wr_pc s rd (BitVec.ofNat 64 j), act, kvPaused_live, act]
  change Strand.pc (Core.strand _ s.issue.kind) = Strand.pc (Core.strand _ s.issue.kind)
  cases s.issue.kind <;> rfl

/-- A batch paused at `j`: its register names the entry, the head stands, and the core notes the batch (log 109). -/
theorem kvPaused_effect (hi : u.issue = s.issue) (rd : BitVec 6) (j : Nat) : ∃ v,
    RegWritten u v (destReg s rd) (BitVec.ofNat 64 j) ∧
    (kvPaused u rd j).live = { v.live with kvAt := some s.issue.base,
                                           kvRun := v.live.kvRun.map fun r => { r with idx := destReg s rd } } ∧
    (kvPaused u rd j).issue = { s.issue with taken := true, paused := true } ∧ (kvPaused u rd j).mem = u.mem ∧
    (act (kvPaused u rd j)).pc = (act u).pc := by
  refine ⟨u.wr rd (BitVec.ofNat 64 j), ?_, ?_, ?_, rfl, kvPaused_pc ..⟩
  · rw [← destReg_issue hi]
    exact wr_written ..
  · rw [← destReg_issue hi, ← hi]
    exact kvPaused_live ..
  · rw [← hi]
    rfl

theorem modActing_live (s : State) (f : Strand → Strand) :
    (s.modActing f).live = s.live.setStrand s.issue.kind (f (act s)) := core_setCore_same ..

theorem setStrand_kv (c : Core) (k : Kind) (st : Strand) :
    (c.setStrand k st).kvAt = c.kvAt ∧ (c.setStrand k st).kvRun = c.kvRun := by
  cases k <;> exact ⟨rfl, rfl⟩

theorem modActing_kv (s : State) (f : Strand → Strand) :
    (s.modActing f).live.kvAt = s.live.kvAt ∧ (s.modActing f).live.kvRun = s.live.kvRun := by
  rw [modActing_live]
  exact setStrand_kv ..

/-- A batch stopped by a trap: no entry is in progress, and the entry's index stands in its register. -/
theorem kvOver_wr (s : State) (rd : BitVec 6) (w : Word) :
    ((kvOver s).wr rd w).mem = s.mem ∧ ((kvOver s).wr rd w).issue = s.issue ∧
    ((kvOver s).wr rd w).live.kvAt = none ∧ ((kvOver s).wr rd w).live.kvRun = none ∧
    (act ((kvOver s).wr rd w)).mode = (act s).mode ∧
    (destReg s rd ≠ 0 → tget 0 (act ((kvOver s).wr rd w)).regs (destReg s rd) = w) := by
  obtain ⟨hat, hrun⟩ := modActing_kv (kvOver s) fun st => st.setPhys (destReg (kvOver s) rd) w
  rw [kvOver_live] at hat hrun
  obtain ⟨-, -, -, -, hreg, -⟩ := wr_written (kvOver s) rd w
  rw [destReg_issue (kvOver_issue s)] at hreg
  exact ⟨kvOver_mem s, kvOver_issue s, hat, hrun, by rw [act_wr_mode, act_kvOver], hreg⟩

theorem kvStopped_trap {w : State} (rd : BitVec 6) (j code val : Nat) (hw : w = (kvOver s).wr rd (BitVec.ofNat 64 j))
    (hmode : (act s).mode ≠ .trapped) (hvec : s.pre.trapvec ≠ 0) :
    kvStopped s rd j (.trap code val) =
      .next (w.modActing (enteredAfter w code (BitVec.ofNat 64 val) s.issue.base)).take := by
  obtain ⟨-, hissue, -, -, hm, -⟩ := kvOver_wr s rd (BitVec.ofNat 64 j)
  rw [← hw] at hissue hm
  have hv : w.pre.trapvec ≠ 0 := by
    rw [State.pre, hissue]
    exact hvec
  unfold kvStopped
  simp only
  rw [← hw, trapAfter_taken _ _ _ (hm ▸ hmode) hv]

/-- A trap that stops a batch enters the handler, with the entry's index in its register (R180). -/
theorem kvStopped_effect (hi : u.issue = s.issue) (rd : BitVec 6) (j code val : Nat) (hmode : (act u).mode ≠ .trapped)
    (hvec : s.pre.trapvec ≠ 0) : ∃ t, kvStopped u rd j (.trap code val) = .next t ∧ (act t).epc = s.issue.base ∧
      (act t).cause = causeWord s.issue.pos true code ∧ (act t).tval = BitVec.ofNat 64 val ∧
      (act t).mode = .trapped ∧ (act t).pc = s.pre.trapvec ∧ t.mem = u.mem ∧ t.live.kvAt = none ∧
      t.live.kvRun = none ∧ (destReg s rd ≠ 0 → tget 0 (act t).regs (destReg s rd) = BitVec.ofNat 64 j) := by
  have hpre : s.pre = u.pre := by rw [State.pre, State.pre, hi]
  rw [hpre] at hvec
  rw [hpre, ← hi, ← destReg_issue hi]
  obtain ⟨hmem, hissue, hat, hrun, -, hreg⟩ := kvOver_wr u rd (BitVec.ofNat 64 j)
  set w := (kvOver u).wr rd (BitVec.ofNat 64 j) with hw
  obtain ⟨hat2, hrun2⟩ := modActing_kv w (enteredAfter w code (BitVec.ofNat 64 val) u.issue.base)
  have hact : act (w.modActing (enteredAfter w code (BitVec.ofNat 64 val) u.issue.base)).take =
      enteredAfter w code (BitVec.ofNat 64 val) u.issue.base (act w) := act_modActing ..
  refine ⟨_, kvStopped_trap rd j code val hw hmode hvec, ?_⟩
  rw [hact]
  refine ⟨rfl, ?_, rfl, rfl, ?_, hmem, hat2.trans hat, hrun2.trans hrun, hreg⟩
  · rw [← hissue]
    rfl
  · rw [State.pre, ← hissue]
    rfl

end Sys2Proof.Machine
end

section
/-! PROOFS. A row of an arena in the lines of its tiles (R136, R146, R177, R179): where its elements stand, what a line holds
after they were put there, and the row's tiles written in turn. -/

namespace Sys2Proof.Machine

open Sys2Proof

variable {s t u : State} {n : Nat} {ctx : BitVec 12} {r : Block} {slot x : Nat} {bs : List Byte} {k : TileKey}
  {ks : List TileKey} {d : Line}

/-! ### Elements of a line -/

theorem lineElem_eq (r : Block) (d : Line) (i j : Nat) :
    lineElem r d i j = bitsAt d.toNat (fmtWidth (recTfmt r) * (i * recCols r + j)) (fmtWidth (recTfmt r)) :=
  BitVec.extractLsb'_toNat ..

/-- A cell of a tile lies within its line. -/
theorem cell_fits {p q : Nat} (hp : p < recRows r) (hq : q < recCols r) :
    fmtWidth (recTfmt r) * (p * recCols r + q) + fmtWidth (recTfmt r) ≤ 32768 := by
  have hcell : p * recCols r + q + 1 ≤ recRows r * recCols r := by
    calc p * recCols r + q + 1 ≤ (p + 1) * recCols r := by rw [Nat.succ_mul]; omega
      _ ≤ recRows r * recCols r := Nat.mul_le_mul_right _ hp
  calc fmtWidth (recTfmt r) * (p * recCols r + q) + fmtWidth (recTfmt r)
      = fmtWidth (recTfmt r) * (p * recCols r + q + 1) := rfl
    _ ≤ fmtWidth (recTfmt r) * (recRows r * recCols r) := Nat.mul_le_mul_left _ hcell
    _ = fmtWidth (recTfmt r) * recRows r * recCols r := (Nat.mul_assoc ..).symm
    _ ≤ 32768 := Nat.mul_div_le ..

theorem testBit_setLineElem (d : Line) (i j y b : Nat) : (setLineElem r d i j y).toNat.testBit b =
    (decide (b < 32768) &&
      (setBits d.toNat (fmtWidth (recTfmt r) * (i * recCols r + j)) (fmtWidth (recTfmt r)) y).testBit b) := by
  rw [setLineElem, BitVec.testBit_toNat, BitVec.getLsbD_ofNat]

theorem lineElem_setLineElem_same {p q : Nat} (hp : p < recRows r) (hq : q < recCols r) (d : Line) (y : Nat) :
    lineElem r (setLineElem r d p q y) p q = y % 2 ^ fmtWidth (recTfmt r) := by
  have hfit := cell_fits hp hq
  rw [lineElem_eq]
  refine Nat.eq_of_testBit_eq fun b => ?_
  rw [testBit_bitsAt, testBit_setLineElem, testBit_setBits, Nat.testBit_mod_two_pow]
  by_cases hb : b < fmtWidth (recTfmt r)
  · rw [if_pos (by omega)]
    simp [hb, show fmtWidth (recTfmt r) * (p * recCols r + q) + b < 32768 by omega]
  · simp [hb]

theorem lineElem_setLineElem_other {i j p q : Nat} (hj : j < recCols r) (hq : q < recCols r) (h : (i, j) ≠ (p, q))
    (d : Line) (y : Nat) : lineElem r (setLineElem r d i j y) p q = lineElem r d p q := by
  have hcell : i * recCols r + j ≠ p * recCols r + q := by
    intro he
    have hdiv := congrArg (· / recCols r) he
    have hmod := congrArg (· % recCols r) he
    simp only [Nat.mul_add_mod_self_right, Nat.mod_eq_of_lt hj, Nat.mod_eq_of_lt hq] at hmod
    simp only [Nat.add_comm _ j, Nat.add_comm _ q, Nat.add_mul_div_right _ _ (Nat.zero_lt_of_lt hj), Nat.div_eq_of_lt hj,
      Nat.div_eq_of_lt hq, Nat.zero_add] at hdiv
    exact h (Prod.ext hdiv hmod)
  rw [lineElem_eq, lineElem_eq]
  refine Nat.eq_of_testBit_eq fun b => ?_
  rw [testBit_bitsAt, testBit_bitsAt, testBit_setLineElem, testBit_setBits]
  by_cases hb : b < fmtWidth (recTfmt r)
  · have hout : ¬ (fmtWidth (recTfmt r) * (i * recCols r + j) ≤ fmtWidth (recTfmt r) * (p * recCols r + q) + b ∧
        fmtWidth (recTfmt r) * (p * recCols r + q) + b <
          fmtWidth (recTfmt r) * (i * recCols r + j) + fmtWidth (recTfmt r)) := by
      rcases Nat.lt_or_gt_of_ne hcell with hlt | hgt
      · have := Nat.mul_le_mul_left (fmtWidth (recTfmt r)) (Nat.succ_le_of_lt hlt)
        rw [Nat.succ_eq_add_one, Nat.mul_succ] at this
        omega
      · have := Nat.mul_le_mul_left (fmtWidth (recTfmt r)) (Nat.succ_le_of_lt hgt)
        rw [Nat.succ_eq_add_one, Nat.mul_succ] at this
        omega
    rw [if_neg hout]
    by_cases hw : fmtWidth (recTfmt r) * (p * recCols r + q) + b < 32768
    · simp [hw]
    · have hd := BitVec.getLsbD_of_ge d _ (Nat.not_lt.1 hw)
      simp [hw, BitVec.testBit_toNat, hd]
  · simp [hb]

/-! ### Elements put into a line in turn -/

/-- The place of a row's element in its tile. -/
def cellOf (e : TileKey × Nat × Nat × Nat) : Nat × Nat := (e.2.1, e.2.2.1)

/-- A row's element put into a line. -/
def putElem (r : Block) (bs : List Byte) (d : Line) (e : TileKey × Nat × Nat × Nat) : Line :=
  setLineElem r d e.2.1 e.2.2.1 (bitsAt (leNat bs) (e.2.2.2 * fmtWidth (recEfmt r)) (fmtWidth (recEfmt r)))

section
variable {es : List (TileKey × Nat × Nat × Nat)} {e : TileKey × Nat × Nat × Nat} {p q : Nat}

theorem putElems_kept (hes : ∀ a ∈ es, a.2.2.1 < recCols r) (hq : q < recCols r) (h : ∀ a ∈ es, cellOf a ≠ (p, q)) (d : Line) :
    lineElem r (es.foldl (putElem r bs) d) p q = lineElem r d p q := by
  induction es generalizing d with
  | nil => rfl
  | cons a es ih =>
    rw [List.forall_mem_cons] at hes h
    rw [List.foldl_cons, ih hes.2 h.2]
    exact lineElem_setLineElem_other hes.1 hq h.1 ..

/-- An element reads back where all that are put into its place are the same. -/
theorem putElems_written (hfmt : recEfmt r = recTfmt r) (hes : ∀ a ∈ es, a.2.1 < recRows r ∧ a.2.2.1 < recCols r)
    (he : e ∈ es) (h : ∀ a ∈ es, cellOf a = cellOf e → a = e) (d : Line) :
    lineElem r (es.foldl (putElem r bs) d) e.2.1 e.2.2.1 =
      bitsAt (leNat bs) (e.2.2.2 * fmtWidth (recEfmt r)) (fmtWidth (recEfmt r)) := by
  induction es generalizing d with
  | nil => cases he
  | cons a es ih =>
    obtain ⟨hrow, hcol⟩ := hes e he
    rw [List.forall_mem_cons] at hes h
    rw [List.foldl_cons]
    by_cases hin : e ∈ es
    · exact ih hes.2 hin h.2 _
    · have hea : e = a := (List.mem_cons.1 he).resolve_right hin
      rw [putElems_kept (fun b hb => (hes.2 b hb).2) hcol (fun b hb hc => hin (h.2 b hb hc ▸ hb)), ← hea, putElem,
        lineElem_setLineElem_same hrow hcol, hfmt]
      exact Nat.mod_mod ..

end

/-! ### The rows of an arena (R146, R177) -/

/-- What a valid record of class arena says of its tiles: rows of dimension 1, columns of dimension 0, one format, and columns
that a tile's coordinate can number. -/
structure ArenaTiles (r : Block) : Prop where
  rank : recRank r = 3
  tdr : recTdr r = 1
  tdc : recTdc r = 0
  fmt : recEfmt r = recTfmt r
  rows : 0 < recRows r
  cols : 0 < recCols r
  grid : gridCols r ≤ 2 ^ 20

theorem arenaTiles_of (hr : recordOk r = true) (ha : arenaOk r = true) (hc : recClass r = 1) : ArenaTiles r := by
  simp only [arenaOk, hc, bne_self_eq_false, Bool.false_or, Bool.and_eq_true, beq_iff_eq, decide_eq_true_eq] at ha
  obtain ⟨⟨⟨⟨hrank, htdr⟩, htdc⟩, hfmt⟩, -⟩ := ha
  simp only [recordOk, Bool.and_eq_true, decide_eq_true_eq] at hr
  obtain ⟨⟨⟨⟨⟨⟨⟨⟨⟨⟨-, hrows⟩, hcols⟩, -⟩, -⟩, -⟩, -⟩, hgrid⟩, -⟩, -⟩, -⟩ := hr
  rw [recGridOk, if_neg (by omega)] at hgrid
  simp only [Bool.and_eq_true, decide_eq_true_eq] at hgrid
  exact ⟨hrank, htdr, htdc, hfmt, by omega, by omega, hgrid.1.2⟩

/-- Element `i` of a row, with its tile and its place there. -/
def rowElem (ctx : BitVec 12) (r : Block) (slot x i : Nat) : TileKey × Nat × Nat × Nat :=
  (tileKey ctx r slot (x / recRows r) (i / recCols r), x % recRows r, i % recCols r, i)

theorem rowElems_arena (h : ArenaTiles r) (ctx : BitVec 12) (slot x : Nat) :
    rowElems ctx r slot x = (List.range (recExt r 0)).map (rowElem ctx r slot x) := by
  refine List.map_congr_left fun i _ => ?_
  simp [elemTile, h.rank, h.tdr, h.tdc, List.range_succ, rowElem]

theorem mem_rowElems (h : ArenaTiles r) {e : TileKey × Nat × Nat × Nat} :
    e ∈ rowElems ctx r slot x ↔ ∃ i, i < recExt r 0 ∧ rowElem ctx r slot x i = e := by
  rw [rowElems_arena h, List.mem_map]
  simp only [List.mem_range]

theorem mem_rowTiles (h : ArenaTiles r) :
    k ∈ rowTiles ctx r slot x ↔ ∃ i, i < recExt r 0 ∧ (rowElem ctx r slot x i).1 = k := by
  rw [rowTiles, List.mem_eraseDups, rowElems_arena h, List.map_map, List.mem_map]
  simp only [List.mem_range, Function.comp_apply]

theorem tileCol_lt (h : ArenaTiles r) {i : Nat} (hi : i < recExt r 0) : i / recCols r < 2 ^ 20 := by
  have hgrid := h.grid
  rw [gridCols, if_neg (by rw [h.rank]; decide), h.tdc, ceilDiv, if_neg h.cols.ne'] at hgrid
  refine Nat.lt_of_lt_of_le ?_ hgrid
  calc i / recCols r < (i + recCols r) / recCols r := by rw [Nat.add_div_right _ h.cols]; exact Nat.lt_succ_self _
    _ ≤ (recExt r 0 + recCols r - 1) / recCols r := Nat.div_le_div_right (by omega)

/-- Elements of a row in one place of one tile are one element. -/
theorem rowElem_inj (h : ArenaTiles r) {i j : Nat} (hi : i < recExt r 0) (hj : j < recExt r 0)
    (hk : (rowElem ctx r slot x i).1 = (rowElem ctx r slot x j).1)
    (hc : cellOf (rowElem ctx r slot x i) = cellOf (rowElem ctx r slot x j)) : i = j := by
  have hcol : BitVec.ofNat 20 (i / recCols r) = BitVec.ofNat 20 (j / recCols r) := congrArg TileKey.tcol hk
  have hdiv := congrArg BitVec.toNat hcol
  rw [BitVec.toNat_ofNat, BitVec.toNat_ofNat, Nat.mod_eq_of_lt (tileCol_lt h hi), Nat.mod_eq_of_lt (tileCol_lt h hj)] at hdiv
  have hmod : i % recCols r = j % recCols r := congrArg Prod.snd hc
  rw [← Nat.div_add_mod i (recCols r), ← Nat.div_add_mod j (recCols r), hdiv, hmod]

theorem rowElem_cell (h : ArenaTiles r) (ctx : BitVec 12) (slot x i : Nat) :
    (rowElem ctx r slot x i).2.1 < recRows r ∧ (rowElem ctx r slot x i).2.2.1 < recCols r :=
  ⟨Nat.mod_lt _ h.rows, Nat.mod_lt _ h.cols⟩

/-- The elements of a row in one tile. -/
theorem mem_tileElems (h : ArenaTiles r) {e : TileKey × Nat × Nat × Nat} :
    e ∈ (rowElems ctx r slot x).filter (fun e => e.1 == k) ↔
      ∃ i, i < recExt r 0 ∧ rowElem ctx r slot x i = e ∧ e.1 = k := by
  rw [List.mem_filter, mem_rowElems h, beq_iff_eq]
  exact ⟨fun ⟨⟨i, hi, he⟩, hk⟩ => ⟨i, hi, he, hk⟩, fun ⟨i, hi, he, hk⟩ => ⟨⟨i, hi, he⟩, hk⟩⟩

theorem tileElems_cell (h : ArenaTiles r) {e : TileKey × Nat × Nat × Nat}
    (he : e ∈ (rowElems ctx r slot x).filter (fun e => e.1 == k)) : e.2.1 < recRows r ∧ e.2.2.1 < recCols r := by
  obtain ⟨i, -, rfl, -⟩ := (mem_tileElems h).1 he
  exact rowElem_cell h ..

theorem rowData_eq (ctx : BitVec 12) (r : Block) (slot x : Nat) (bs : List Byte) (k : TileKey) (d : Line) :
    rowData ctx r slot x bs k d = ((rowElems ctx r slot x).filter fun e => e.1 == k).foldl (putElem r bs) d := rfl

theorem rowData_written (h : ArenaTiles r) {e : Nat} (he : e < recExt r 0) (hk : (rowElem ctx r slot x e).1 = k) (d : Line) :
    lineElem r (rowData ctx r slot x bs k d) (x % recRows r) (e % recCols r) =
      bitsAt (leNat bs) (e * fmtWidth (recEfmt r)) (fmtWidth (recEfmt r)) := by
  rw [rowData_eq]
  refine putElems_written h.fmt (fun a ha => tileElems_cell h ha) ((mem_tileElems h).2 ⟨e, he, rfl, hk⟩) ?_ d
  intro a ha hcell
  obtain ⟨i, hi, rfl, hik⟩ := (mem_tileElems h).1 ha
  rw [rowElem_inj h hi he (hik.trans hk.symm) hcell]

theorem rowData_kept (h : ArenaTiles r) {p q : Nat} (hq : q < recCols r)
    (hout : ∀ e, e < recExt r 0 → ((rowElem ctx r slot x e).1, cellOf (rowElem ctx r slot x e)) ≠ (k, p, q)) (d : Line) :
    lineElem r (rowData ctx r slot x bs k d) p q = lineElem r d p q := by
  rw [rowData_eq]
  refine putElems_kept (fun a ha => (tileElems_cell h ha).2) hq (fun a ha hcell => ?_) d
  obtain ⟨i, hi, rfl, hik⟩ := (mem_tileElems h).1 ha
  exact hout i hi (Prod.ext hik hcell)

/-! ### A row's tiles written in turn (R179) -/

/-- What the writing of a row makes of the lines of an alcove: those of the tiles take their elements and become dirty, every
other one stands. -/
structure LinesTake (ctx : BitVec 12) (r : Block) (slot x : Nat) (bs : List Byte) (ks : List TileKey)
    (f : TileLine → TileLine) : Prop where
  place : ∀ l, ((f l).bank, (f l).way, (f l).key) = (l.bank, l.way, l.key)
  rest : ∀ l, l.key ∉ ks → f l = l
  state : ∀ l, l.key ∈ ks → (f l).st = .dirty ∨ (f l).st = .draining
  data : ∀ l, l.key ∈ ks → (f l).data = rowData ctx r slot x bs l.key l.data

/-- A line of tile `k` as a row leaves it. -/
def takesRow (n : Nat) (ctx : BitVec 12) (r : Block) (slot x : Nat) (bs : List Byte) (s : State) (k : TileKey) (l : TileLine) :
    TileLine :=
  if l.key = k then kvWrote s n { l with data := rowData ctx r slot x bs k l.data } else l

theorem takesRow_place (n : Nat) (ctx : BitVec 12) (r : Block) (slot x : Nat) (bs : List Byte) (s : State) (k : TileKey)
    (l : TileLine) : ((takesRow n ctx r slot x bs s k l).bank, (takesRow n ctx r slot x bs s k l).way,
      (takesRow n ctx r slot x bs s k l).key) = (l.bank, l.way, l.key) := by
  unfold takesRow
  split <;> rfl

theorem takesRow_other {l : TileLine} (h : l.key ≠ k) : takesRow n ctx r slot x bs s k l = l := if_neg h

theorem takesRow_written {l : TileLine} (h : l.key = k) :
    ((takesRow n ctx r slot x bs s k l).st = .dirty ∨ (takesRow n ctx r slot x bs s k l).st = .draining) ∧
      (takesRow n ctx r slot x bs s k l).data = rowData ctx r slot x bs k l.data := by
  rw [takesRow, if_pos h]
  refine ⟨?_, rfl⟩
  change (if l.thru then LineState.draining else .dirty) = .dirty ∨ (if l.thru then LineState.draining else .dirty) = .draining
  cases l.thru
  · exact .inl rfl
  · exact .inr rfl

/-- One tile's part of the row written: its lines, the use of the bank, and nothing else. -/
theorem rowIntoLine_eq (h : rowLine s n k r = true) : ∃ a, rowIntoLine n ctx r slot x bs s k =
    s.setCore n { s.core n with alcove := (s.core n).alcove.map (takesRow n ctx r slot x bs s k), aplru := a } := by
  unfold rowLine at h
  unfold rowIntoLine
  split at h
  · cases h
  next l hl =>
    simp only [State.modCore, hl]
    exact ⟨_, rfl⟩

theorem lineOf_takesRow {j : TileKey} (h : j ≠ k) (ls : List TileLine) :
    lineOf (ls.map (takesRow n ctx r slot x bs s k)) j = lineOf ls j := by
  induction ls with
  | nil => rfl
  | cons l ls ih =>
    have hkey : (takesRow n ctx r slot x bs s k l).key = l.key := congrArg (fun p => p.2.2) (takesRow_place ..)
    rw [lineOf, lineOf] at ih ⊢
    rw [List.map_cons, List.find?_cons, List.find?_cons, hkey, ih]
    by_cases hj : l.key = j
    · rw [takesRow_other (hj ▸ h)]
    · rw [beq_false_of_ne hj]

theorem rowLine_rowIntoLine {j : TileKey} (h : rowLine s n k r = true) (hjk : j ≠ k) (hj : rowLine s n j r = true) :
    rowLine (rowIntoLine n ctx r slot x bs s k) n j r = true := by
  obtain ⟨a, ha⟩ := rowIntoLine_eq (ctx := ctx) (slot := slot) (x := x) (bs := bs) h
  rw [ha, rowLine, core_setCore_same, lineOf_takesRow hjk]
  exact hj

/-- A row written: the lines of one alcove, and nothing else of what strands, other cores and memory hold. -/
structure RowWritten (n : Nat) (f : TileLine → TileLine) (s t : State) : Prop where
  mem : t.mem = s.mem
  strands : AllStrands s t
  others : ∀ m, m ≠ n → t.core m = s.core m
  lines : (t.core n).alcove = (s.core n).alcove.map f

theorem RowWritten.trans {f g : TileLine → TileLine} (h : RowWritten n f s u) (h2 : RowWritten n g u t) :
    RowWritten n (g ∘ f) s t where
  mem := h2.mem.trans h.mem
  strands := fun m k => (h2.strands m k).trans (h.strands m k)
  others := fun m hm => (h2.others m hm).trans (h.others m hm)
  lines := by rw [h2.lines, h.lines, List.map_map]

theorem rowIntoLine_written (h : rowLine s n k r = true) :
    RowWritten n (takesRow n ctx r slot x bs s k) s (rowIntoLine n ctx r slot x bs s k) := by
  obtain ⟨a, ha⟩ := rowIntoLine_eq (ctx := ctx) (slot := slot) (x := x) (bs := bs) h
  rw [ha]
  refine ⟨rfl, fun m j => ?_, fun m hm => core_setCore_other _ _ _ _ hm, ?_⟩
  · by_cases hm : m = n
    · rw [hm, core_setCore_same]
      cases j <;> rfl
    · rw [core_setCore_other _ _ _ _ hm]
  · rw [core_setCore_same]

theorem LinesTake.nil : LinesTake ctx r slot x bs [] id where
  place := fun _ => rfl
  rest := fun _ _ => rfl
  state := fun _ h => nomatch h
  data := fun _ h => nomatch h

theorem LinesTake.cons {f : TileLine → TileLine} (h : LinesTake ctx r slot x bs ks f) (hk : k ∉ ks) :
    LinesTake ctx r slot x bs (k :: ks) (f ∘ takesRow n ctx r slot x bs s k) := by
  have hkey (l : TileLine) : (takesRow n ctx r slot x bs s k l).key = l.key := congrArg (fun p => p.2.2) (takesRow_place ..)
  have hfirst (l : TileLine) (hl : l.key = k) :
      f (takesRow n ctx r slot x bs s k l) = takesRow n ctx r slot x bs s k l := h.rest _ (by rw [hkey, hl]; exact hk)
  have hlater (l : TileLine) (hl : l.key ≠ k) : f (takesRow n ctx r slot x bs s k l) = f l := by rw [takesRow_other hl]
  refine ⟨fun l => (h.place _).trans (takesRow_place ..), fun l hl => ?_, fun l hl => ?_, fun l hl => ?_⟩
  · rw [List.mem_cons, not_or] at hl
    rw [Function.comp_apply, hlater l hl.1, h.rest l hl.2]
  · rw [Function.comp_apply]
    by_cases hlk : l.key = k
    · rw [hfirst l hlk]
      exact (takesRow_written hlk).1
    · rw [hlater l hlk]
      exact h.state l ((List.mem_cons.1 hl).resolve_left hlk)
  · rw [Function.comp_apply]
    by_cases hlk : l.key = k
    · rw [hfirst l hlk, (takesRow_written hlk).2, hlk]
    · rw [hlater l hlk]
      exact h.data l ((List.mem_cons.1 hl).resolve_left hlk)

theorem writeTiles_writes (hnd : ks.Nodup) (h : ∀ k ∈ ks, rowLine s n k r = true) :
    ∃ t f, writeTiles n ctx r slot x bs ks s = (t, []) ∧ RowWritten n f s t ∧ LinesTake ctx r slot x bs ks f := by
  induction ks generalizing s with
  | nil => exact ⟨s, id, rfl, ⟨rfl, fun _ _ => rfl, fun _ _ => rfl, (List.map_id _).symm⟩, .nil⟩
  | cons k ks ih =>
    obtain ⟨hk, hks⟩ := List.nodup_cons.1 hnd
    rw [List.forall_mem_cons] at h
    have hrest : ∀ j ∈ ks, rowLine (rowIntoLine n ctx r slot x bs s k) n j r = true := fun j hj =>
      rowLine_rowIntoLine h.1 (fun he => hk (he ▸ hj)) (h.2 j hj)
    obtain ⟨t, f, ht, hw, hf⟩ := ih hks hrest
    refine ⟨t, _, ?_, (rowIntoLine_written h.1).trans hw, hf.cons hk⟩
    rw [writeTiles, if_pos h.1, ht]

theorem nodup_eraseDups {α : Type} [BEq α] [LawfulBEq α] (xs : List α) : xs.eraseDups.Nodup := by
  induction hm : xs.length using Nat.strong_induction_on generalizing xs with
  | _ m ih =>
    cases xs with
    | nil => exact List.nodup_nil
    | cons a xs =>
      have hlen : (xs.filter fun b => !b == a).length < m := by
        rw [← hm, List.length_cons]
        exact Nat.lt_succ_of_le (List.length_filter_le ..)
      rw [List.eraseDups_cons, List.nodup_cons, List.mem_eraseDups]
      exact ⟨by simp, ih _ hlen _ rfl⟩

end Sys2Proof.Machine
end

section
/-! PROOFS. The entries of a KVAPP in progress (R136, R178, R179): the value row after the key row, and the length word past the
lines; with them O33 is settled. -/

namespace Sys2Proof.Machine

open Sys2Proof

variable {s t u v : State} {n va z : Nat} {ctx : BitVec 12} {r : KvRun} {bs : List Byte}

/-! ### From the key row to the value row -/

theorem rowsRun_value (hv : r.value = false) (hw : writeTiles n ctx r.krec r.e.slot r.x r.bytes r.left u = (v, []))
    (hb : readRange v n ctx (pieces r.e.vsrc (rowBytes r.vrec)) = .ok bs) :
    rowsRun u n ctx r = rowsRun (touchRange v n ctx r.e.vsrc (rowBytes r.vrec)) n ctx
      { r with value := true, bytes := bs, left := rowTiles ctx r.vrec r.e.slot r.x } := by
  simp only [rowsRun, hv, hw, hb]
  rfl

/-! ### The length word (R128, R136) -/

/-- A length word lies within one page. -/
theorem pieces_length (h : va % 4 = 0) : pieces va 4 = [(va, 4)] := by
  have hpage : (va + 4 - 1) / 0x4000 - va / 0x4000 + 1 = 1 := by omega
  have hlo : Nat.max va ((va / 0x4000 + 0) * 0x4000) = va := Nat.max_eq_left (by omega)
  have hhi : Nat.min (va + 4) ((va / 0x4000 + 0 + 1) * 0x4000) = va + 4 := Nat.min_eq_left (by omega)
  rw [pieces, if_neg (by decide), hpage, List.range_one, List.map_singleton]
  simp only [hlo, hhi, Nat.add_sub_cancel_left]

/-- No line of the context near a core holds a byte of a length word. -/
def Unheld (s : State) (n : Nat) (ctx : BitVec 12) (va : Nat) : Prop :=
  ∀ l ∈ (s.cluster (coreCluster n)).hall ++ (s.core n).alcove, l.key.ctx = ctx → lineHolds va 4 l = false

theorem Unheld.noHit (h : Unheld s n ctx va) {l : TileLine} (hl : l ∈ (s.cluster (coreCluster n)).hall ++ (s.core n).alcove) :
    (l.serves ctx && lineHolds va 4 l) = false := by
  by_cases hc : l.key.ctx = ctx
  · rw [h l hl hc, Bool.and_false]
  · simp [TileLine.serves, hc]

theorem Unheld.noHits (h : Unheld s n ctx va) {ls : List TileLine}
    (hls : ∀ l ∈ ls, l ∈ (s.cluster (coreCluster n)).hall ++ (s.core n).alcove) :
    ls.filter (fun l => l.serves ctx && lineHolds va 4 l) = [] :=
  List.filter_eq_nil_iff.2 fun l hl => by rw [h.noHit (hls l hl)]; decide

theorem lenWaits_unheld (h : Unheld s n ctx va) : lenWaits s n ctx va = false := by
  rw [lenWaits, List.any_eq_false]
  intro l hl
  by_cases hc : l.key.ctx = ctx
  · simp [h l hl hc]
  · simp [hc]

/-- The state with a core and a cluster listed as they stand. -/
def relisted (s : State) (n : Nat) : State :=
  (s.setCore n (s.core n)).setCluster (coreCluster n) (s.cluster (coreCluster n))

theorem touchRange_unheld (h : Unheld s n ctx va) : touchRange s n ctx va 4 = relisted s n := by
  have halcove := h.noHits (ls := (s.core n).alcove) fun l hl => List.mem_append_right _ hl
  have hhall := h.noHits (ls := (s.cluster (coreCluster n)).hall) fun l hl => List.mem_append_left _ hl
  simp only [touchRange, State.modCore, halcove, List.foldl_nil]
  rw [State.modCluster]
  change State.setCluster _ _ (((s.cluster (coreCluster n)).hall.filter _).foldl _ _) = _
  rw [hhall]
  rfl

theorem writeLen_unheld (h : Unheld s n ctx va) (ha : va % 4 = 0) (y : Nat) :
    writeLen s n ctx va y = writeRange n ctx [(va, 4)] (leBytes 4 y) ((relisted s n).setCore n (s.core n)) := by
  have halcove := h.noHits (ls := (s.core n).alcove) fun l hl => List.mem_append_right _ hl
  have hcore : (relisted s n).core n = s.core n := core_setCore_same ..
  have hmap : ((s.core n).alcove.map fun l =>
      if l.serves ctx && lineHolds va 4 l then kvWrote s n (lineTakes va (leBytes 4 y) l) else l) = (s.core n).alcove := by
    conv_rhs => rw [← List.map_id (s.core n).alcove]
    exact List.map_congr_left fun l hl => if_neg (by rw [h.noHit (List.mem_append_right _ hl)]; decide)
  unfold writeLen
  extract_lets bytes hit t
  have ht : t = (relisted s n).setCore n (s.core n) := by
    simp only [t, touchRange_unheld h, State.modCore, hcore, hit, bytes, hmap]
  rw [ht, show (s.core n).alcove.filter hit = [] from halcove, pieces_length ha]
  exact if_neg (by rw [List.foldl_nil]; decide)

theorem writeRange_one {pa : Nat} {leaf : Word} {b : Nat} (ht : translate s (coreCluster n) ctx va .write = .ok pa leaf b)
    (hlen : bs.length = 4) (hp : s.poison = []) (hm : s.moves = []) (hu : unreachable s pa = false) :
    ∃ t, writeRange n ctx [(va, 4)] bs s = .ok t ∧ t.mem = writeBytes s.mem pa bs ∧ t.cores = s.cores := by
  obtain ⟨i, h, hw⟩ := writeAs_clean (p := kvParty s n) (z := leafZ leaf) (bs := bs) hp hm hu
  have htake : bs.take 4 = bs := List.take_of_length_le hlen.le
  simp only [writeRange, ht, htake, hw]
  exact ⟨_, rfl, rfl, rfl⟩

theorem relisted_cluster (s : State) (n m : Nat) (cl : Nat) :
    (((relisted s n).setCore m (s.core m)).cluster cl) = s.cluster cl := by
  by_cases hcl : cl = coreCluster n
  · rw [hcl]
    exact cluster_setCluster_same ..
  · exact cluster_setCluster_other _ _ _ _ hcl

theorem relisted_core (s : State) (n m : Nat) : ((relisted s n).setCore n (s.core n)).core m = s.core m := by
  by_cases hm : m = n
  · rw [hm, core_setCore_same]
  · rw [core_setCore_other _ _ _ _ hm]
    exact core_setCore_other _ _ _ _ hm

/-- The last step of an entry, where no line holds its length word: the word stands in memory, every other byte as it was. -/
theorem lenRun_unheld {pa : Nat} {leaf : Word} {b : Nat} (h : Unheld s n ctx r.e.lenp) (ha : r.e.lenp % 4 = 0)
    (ht : translate s (coreCluster n) ctx r.e.lenp .write = .ok pa leaf b) (hp : s.poison = []) (hm : s.moves = [])
    (hu : unreachable s pa = false) :
    ∃ t, lenRun s n ctx r = .done t ∧ t.mem = writeBytes s.mem pa (leBytes 4 (r.x + 1)) ∧ AllStrands s t := by
  have hunits : UnitsOnly s ((relisted s n).setCore n (s.core n)) := rfl
  rw [← hunits.translate (by rw [relisted_cluster])] at ht
  obtain ⟨t, hrun, hmem, hcores⟩ := writeRange_one (bs := leBytes 4 (r.x + 1)) ht (leBytes_length ..) hp hm hu
  refine ⟨t, ?_, hmem, fun m k => ?_⟩
  · rw [lenRun, lenWaits_unheld h, writeLen_unheld h ha, hrun]
    rfl
  · rw [State.core, hcores]
    exact congrArg (fun c : Core => c.strand k) (relisted_core s n m)

theorem rowsRun_length {pa : Nat} {leaf : Word} {b : Nat} (hv : r.value = true)
    (hw : writeTiles n ctx r.vrec r.e.slot r.x r.bytes r.left u = (v, [])) (h : Unheld v n ctx r.e.lenp) (ha : r.e.lenp % 4 = 0)
    (ht : translate v (coreCluster n) ctx r.e.lenp .write = .ok pa leaf b) (hp : v.poison = []) (hm : v.moves = [])
    (hu : unreachable v pa = false) :
    ∃ t, rowsRun u n ctx r = .done t ∧ t.mem = writeBytes v.mem pa (leBytes 4 (r.x + 1)) ∧ AllStrands v t := by
  have hrun : rowsRun u n ctx r = lenRun v n ctx { r with left := [] } := by
    simp only [rowsRun, hv, if_true, valueRun, hw]
    rfl
  rw [hrun]
  exact lenRun_unheld (r := { r with left := [] }) h ha ht hp hm hu

/-- A row's tiles with lines, written: the elements stand at their places, and the rest of the alcove as it was. -/
theorem writeTiles_row {r : Block} {slot x : Nat} {ks : List TileKey} (hr : recordOk r = true) (ha : arenaOk r = true)
    (hc : recClass r = 1) (hks : ks = rowTiles ctx r slot x) (hl : ∀ k ∈ ks, rowLine u n k r = true) :
    ∃ t f, writeTiles n ctx r slot x bs ks u = (t, []) ∧ RowWritten n f u t ∧ ∀ l,
      ((f l).bank, (f l).way, (f l).key) = (l.bank, l.way, l.key) ∧ (l.key ∉ ks → f l = l) ∧
      (l.key ∈ ks → (f l).st = .dirty ∨ (f l).st = .draining) ∧
      (∀ e, e < recExt r 0 → (rowElem ctx r slot x e).1 = l.key →
        lineElem r (f l).data (x % recRows r) (e % recCols r) =
          bitsAt (leNat bs) (e * fmtWidth (recEfmt r)) (fmtWidth (recEfmt r))) ∧
      ∀ p q, q < recCols r →
        (∀ e, e < recExt r 0 → ((rowElem ctx r slot x e).1, cellOf (rowElem ctx r slot x e)) ≠ (l.key, p, q)) →
        lineElem r (f l).data p q = lineElem r l.data p q := by
  have hat := arenaTiles_of hr ha hc
  obtain ⟨t, f, ht, hw, hf⟩ := writeTiles_writes (ctx := ctx) (slot := slot) (x := x) (bs := bs)
    (hks ▸ nodup_eraseDups _ : ks.Nodup) hl
  refine ⟨t, f, ht, hw, fun l => ⟨hf.place l, hf.rest l, hf.state l, fun e he hk => ?_, fun p q hq hout => ?_⟩⟩
  · have hin : l.key ∈ ks := hks ▸ (mem_rowTiles hat).2 ⟨e, he, hk⟩
    rw [hf.data l hin]
    exact rowData_written hat he hk _
  · by_cases hin : l.key ∈ ks
    · rw [hf.data l hin]
      exact rowData_kept hat hq hout _
    · rw [hf.rest l hin]

/-- Settles O33: the batch goes by its first entry's outcome; a row is put into the lines of its tiles by `rowData`, whose
elements share no place; and a length word that no line holds is four bytes of memory. -/
theorem kvappBatch : Obligations.KvappBatch := by
  intro s g rd ra kr vr cnt h hm i tbl n b rs
  refine ⟨fun hx => faultsWith_of (kvapp_keyless h hm hx) (by decide) (by decide),
    fun x hx hy => faultsWith_of (kvapp_valueless h hm hx hy) (by decide) (by decide), ?_, ?_, ?_⟩
  · intro x y hx hy
    refine ⟨fun ha => trapsWith_of_trapAt (kvapp_misaligned h hm hx hy ha), ?_⟩
    intro ha run
    have hend {u : State} {z : KvEnd} (hz : run (cnt.toNat + 1 - b) b s = (u, z)) : exec i s = kvOutcome rd cnt u z := by
      have hb : kvBatch s rd ra cnt x y = (u, z) := hz
      rw [kvapp_runs h hm hx hy ha, hb]
    refine ⟨fun u hz => ⟨_, hend hz, rfl⟩, fun hat hrun hskip => kvapp_skips h hm hx hy ha hat hrun hskip,
      fun u j hz hi => ?_, fun u j code val hz hi hmode hvec => ?_, ?_⟩
    · obtain ⟨v, hw, hlive, hissue, hmem, hpc⟩ := kvPaused_effect hi rd j
      exact ⟨v, _, hend hz, hw, hlive, hissue, hmem, hpc⟩
    · obtain ⟨t, ht, heffect⟩ := kvStopped_effect hi rd j code val hmode hvec
      exact ⟨t, (hend hz).trans ht, heffect⟩
    · intro m j u z
      exact ⟨fun v f hz => kvFrom_stops hz m, fun v hz => kvFrom_waits hz m, fun v hz => kvFrom_done hz m⟩
  · intro u c r slot x bs ks hr ha hc _ _ hks hl place w
    obtain ⟨t, f, ht, hw, hf⟩ := writeTiles_row (bs := bs) hr ha hc hks hl
    refine ⟨t, ht, fun a => by rw [hw.mem], hw.strands, hw.others, ?_, fun j l hj => ⟨f l, ?_, ?_⟩⟩
    · rw [hw.lines, List.map_map]
      exact List.map_congr_left fun l _ => (hf l).1
    · rw [hw.lines, List.getElem?_map, hj]
      rfl
    · obtain ⟨-, hrest, hst, helem, hkept⟩ := hf l
      exact ⟨hrest, hst, helem, fun p q _ hq hout => hkept p q hq hout⟩
  · intro u v c r
    refine ⟨fun hv hw bs hb => rowsRun_value hv hw hb, fun hv hw hun pa leaf bits ha ht hp hmv hu => ?_⟩
    obtain ⟨t, hrun, hmem, hst⟩ := rowsRun_length hv hw hun ha ht hp hmv hu
    have hlen : (leBytes 4 (r.x + 1)).length = 4 := leBytes_length ..
    refine ⟨t, hrun, hst, ?_, fun a hout => ?_⟩
    · rw [hmem]
      exact readBytes_writeBytes_same v.mem pa (leBytes 4 (r.x + 1))
    · rw [hmem]
      exact readByte_writeBytes_other _ _ _ _ (by rwa [hlen])

end Sys2Proof.Machine
end

section
/-! PROOFS. Scalar accesses at issue (R22, R154 to R160): the load, store or atomic that stands outstanding once its address has
been found good. -/

namespace Sys2Proof.Machine

open Sys2Proof

variable {s : State} {i : Instr} {g rd ra rb : BitVec 6} {ea : Word} {size pa bits : Nat} {acc : Access} {leaf : Word}

/-! ### An access whose address is good (R155) -/

theorem scalarAccess_runs (ha : ea.toNat % size = 0)
    (ht : translate s (coreCluster s.issue.core) s.live.ctx ea.toNat acc = .ok pa leaf bits) (f : Nat → Word → Out) :
    scalarAccess s ea size acc f = f pa leaf := by
  rw [scalarAccess_aligned ha, strandTranslate, ht]

/-- A load of the acting core stands outstanding, and a register of the acting strand waits for it. -/
structure LoadPends (u t : State) (l : OutLoad) (phys : Nat) : Prop where
  kept : CoreKept { u with nextId := u.nextId + 1 } t
  issue : t.issue = u.issue
  loads : t.live.loads = u.live.loads ++ [l]
  pend : (act t).pend = (act u).pend ++ (if phys = 0 then [] else [phys])
  regs : (act t).regs = (act u).regs

theorem strand_withLoads (c : Core) (ls : List OutLoad) (k : Kind) : ({ c with loads := ls } : Core).strand k = c.strand k := by
  cases k <;> rfl

theorem loads_setStrand (c : Core) (k : Kind) (st : Strand) : (c.setStrand k st).loads = c.loads := by cases k <;> rfl

/-- The acting core with an access outstanding. -/
theorem live_addLoad (u : State) (f : Nat → OutLoad) : (addLoad u f).live = { u.live with loads := u.live.loads ++ [f u.nextId] } :=
  core_setCore_same ..

theorem loadPends_addLoad (u : State) (f : Nat → OutLoad) (phys : Nat) :
    LoadPends u ((addLoad u f).pendReg phys) (f u.nextId) phys := by
  have hadd : CoreKept { u with nextId := u.nextId + 1 } (addLoad u f) := .setCore ..
  have hact : act (addLoad u f) = act u := (congrArg (fun c : Core => c.strand u.issue.kind) (live_addLoad u f)).trans
    (strand_withLoads ..)
  unfold State.pendReg
  split
  · next h => exact ⟨hadd, rfl, congrArg Core.loads (live_addLoad u f), by rw [hact, if_pos h, List.append_nil], by rw [hact]⟩
  · next h =>
    refine ⟨⟨⟨rfl, fun _ => rfl, rfl, rfl, rfl, rfl, rfl, rfl⟩, fun n hn => (core_setCore_other _ _ n _ hn).trans (hadd.2 n hn)⟩,
      rfl, ?_, ?_, ?_⟩
    · rw [modActing_eq, live_setCore, loads_setStrand, live_addLoad]
    · rw [act_modActing, hact, if_neg h]
    · rw [act_modActing, hact]

/-! ### LD and LDZ (R154, R155) -/

theorem loadReg_pends {off : BitVec 32} {signed : Bool} (h : Runs s g [rd, ra]) (e : exec i s = loadReg g rd ra off size signed s)
    (ha : (s.rd ra + off.signExtend 64).toNat % size = 0)
    (ht : translate s (coreCluster s.issue.core) s.live.ctx (s.rd ra + off.signExtend 64).toNat .read = .ok pa leaf bits) :
    ∃ t l, exec i s = .next t ∧ LoadPends s t l (destReg s rd) ∧ l.id = s.nextId ∧
      l.use = .reg s.issue.kind (destReg s rd) ∧ l.strand = s.issue.kind ∧ l.pa = pa ∧ l.size = size ∧ l.signed = signed ∧
      l.acq = none := by
  rw [loadReg, guarded_ready h] at e
  exact ⟨_, _, e.trans (scalarAccess_runs ha ht _), loadPends_addLoad .., rfl, rfl, rfl, rfl, rfl, rfl, rfl⟩

/-! ### Atomics (R158 to R160) -/

/-- The state in which an atomic's access is added: its release has been performed. -/
def afterRelease (s : State) (scope : BitVec 3) (ord : BitVec 2) : State :=
  if ordRelease ord then releaseAt s s.issue.core s.issue.kind scope.toNat else s

theorem atomicOp_pends {w : BitVec 1} {scope : BitVec 3} {ord : BitVec 2} {op : Nat} {sg : Bool} {cm : BitVec 6}
    (h : Runs s g [rd, ra, rb, cm]) (e : exec i s = atomicOp g rd ra rb w scope ord op sg cm s)
    (hop : memKind s pa ≠ .host ∨ op ≤ 2) (ha : (s.rd ra).toNat % (if w = 1 then 8 else 4) = 0)
    (ht : translate s (coreCluster s.issue.core) s.live.ctx (s.rd ra).toNat .both = .ok pa leaf bits) :
    ∃ t l, exec i s = .next t ∧ LoadPends (afterRelease s scope ord) t l (destReg s rd) ∧ l.id = (afterRelease s scope ord).nextId ∧
      l.use = .atomic s.issue.kind (destReg s rd) op sg (s.rd rb) (s.rd cm) ∧ l.strand = s.issue.kind ∧ l.pa = pa ∧
      l.size = (if w = 1 then 8 else 4) ∧ l.acq = (if ordAcquire ord then some scope.toNat else none) := by
  have hok : amoSupported s pa op = true := by simpa [amoSupported] using hop
  rw [atomicOp, guarded_ready h] at e
  have hrun := e.trans (scalarAccess_runs ha ht _)
  simp only [hok, Bool.not_true, Bool.false_eq_true, if_false] at hrun
  exact ⟨_, _, hrun, loadPends_addLoad .., rfl, rfl, rfl, rfl, rfl, rfl⟩

/-! ### LDQ and RLDQ (R156, R157, R22) -/

/-- The entry that a load reserves in a lane (R22). -/
def reservedEntry (now load : Nat) : LaneEntry := { born := now, load := load, data := none }

theorem lane_reserveLane (c : Core) (now load key key' : Nat) :
    (c.reserveLane now key load).lane key' = c.lane key' ++ if key' = key then [reservedEntry now load] else [] := by
  by_cases h : key' = key
  · subst h
    rw [if_pos rfl]
    exact lane_setLane_same ..
  · rw [if_neg h, List.append_nil]
    exact lane_setLane_other _ _ h

theorem lane_foldl_reserveLane (now load : Nat) {ks : List Nat} (hks : ks.Nodup) (c : Core) (key : Nat) :
    (ks.foldl (fun c k => c.reserveLane now k load) c).lane key =
      c.lane key ++ if key ∈ ks then [reservedEntry now load] else [] := by
  induction ks generalizing c with
  | nil => simp
  | cons k ks ih =>
    obtain ⟨hk, hks⟩ := List.nodup_cons.mp hks
    rw [List.foldl_cons, ih hks, lane_reserveLane]
    by_cases h : key = k
    · subst h
      simp [hk]
    · simp [h]

/-- A load names no lane twice. -/
theorem nodup_loadKeys (cmask : BitVec 4) (lane : BitVec 2) : (loadKeys cmask lane).Nodup := by
  refine List.Nodup.map (fun c d h => ?_) (List.nodup_range.filter _)
  simp only [laneKey] at h
  omega

theorem loads_reservedFor (s : State) (l : OutLoad) (ks : List Nat) : (reservedFor s l ks).live.loads = s.live.loads ++ [l] := by
  rw [reservedFor, modLive_eq, live_setCore]
  exact (congrArg Core.loads (foldl_reserveLane_kept s.now s.nextId ks { s.live with loads := s.live.loads ++ [l] }) :)

theorem lane_reservedFor (s : State) (l : OutLoad) {ks : List Nat} (hks : ks.Nodup) (key : Nat) :
    (reservedFor s l ks).live.lane key = s.live.lane key ++ if key ∈ ks then [reservedEntry s.now s.nextId] else [] := by
  rw [reservedFor, modLive_eq, live_setCore]
  exact lane_foldl_reserveLane s.now s.nextId hks ..

theorem loadLanes_reserves {cmask : BitVec 4} {lane : BitVec 2} {zx : BitVec 1} {off : BitVec 24} {remote : Bool} {acq : Option Nat}
    (h : Runs s g [ra]) (hloads : laneLoads s.live < 64) (hroom : laneRooms s (loadKeys cmask lane) = true)
    (ha : (s.rd ra + off.signExtend 64).toNat % size = 0)
    (ht : translate s (coreCluster s.issue.core) s.live.ctx (s.rd ra + off.signExtend 64).toNat .read = .ok pa leaf bits) :
    loadLanes g cmask lane ra zx off size remote acq s = .next
      (reservedFor s (laneLoad s (s.rd ra + off.signExtend 64) size zx remote acq pa leaf) (loadKeys cmask lane)) := by
  refine (loadLanes_runs h hloads hroom).trans (scalarAccess_runs (bits := bits) ha ?_ _)
  rw [ctx_reservedFor]
  exact (UnitsOnly.translate (s := s) rfl rfl ..).trans ht

/-! ### The obligations -/

/-- Settles O22: a load into a register is `loadReg_pends`, one into lanes `loadLanes_reserves`, which names no lane twice. -/
theorem loadsIssue : Obligations.LoadsIssue := by
  intro s g rd ra off off24 cmask lane zx acq scope pa bits leaf u ea maps toReg qea toLanes
  refine ⟨fun h => ?_, fun h => ?_⟩
  · have hreg {i : Instr} {size : Nat} {signed : Bool} (e : exec i s = loadReg g rd ra off size signed s) : toReg i size signed := by
      intro ⟨ha, ht⟩
      obtain ⟨t, l, hrun, hl, hfields⟩ := loadReg_pends h e ha ht
      obtain ⟨hid, huse, hstrand, hpa, hsize, hsigned, hacq⟩ := hfields
      exact ⟨t, l, hrun, hl.kept, hl.issue, hl.loads, hid, huse, hstrand, hpa, hsize, hsigned, hacq, hl.pend, hl.regs⟩
    exact ⟨hreg (exec_ld8 ..), hreg (exec_ld16 ..), hreg (exec_ld32 ..), hreg (exec_ld64 ..), hreg (exec_ldz8 ..),
      hreg (exec_ldz16 ..), hreg (exec_ldz32 ..)⟩
  · have hlanes {i : Instr} {size : Nat} {remote : Bool} {aq : Option Nat}
        (e : exec i s = loadLanes g cmask lane ra zx off24 size remote aq s) : toLanes i size aq := by
      intro ⟨ha, ht⟩ hloads hroom
      exact ⟨_, _, e.trans (loadLanes_reserves h hloads hroom ha ht), coreKept_reservedFor .., rfl, loads_reservedFor .., rfl, rfl,
        rfl, rfl, rfl, rfl, lane_reservedFor s _ (nodup_loadKeys cmask lane)⟩
    exact ⟨hlanes (exec_ldq8 ..), hlanes (exec_ldq16 ..), hlanes (exec_ldq32 ..), hlanes (exec_ldq64 ..), hlanes (exec_rldq8 ..),
      hlanes (exec_rldq16 ..), hlanes (exec_rldq32 ..), hlanes (exec_rldq64 ..)⟩

/-- Settles O23: each width is `storeReg`, whose store stands last in the list of the acting core. -/
theorem storesIssue : Obligations.StoresIssue := by
  intro s g ra rs off pa bits leaf h u ea stores
  have hstore {i : Instr} {size : Nat} (e : exec i s = storeReg g ra rs off size s) : stores i size := by
    intro ha ht
    rw [storeReg, guarded_ready h] at e
    exact ⟨_, e.trans (scalarAccess_runs ha ht _), .setCore .., rfl, core_setCore_same ..⟩
  exact ⟨hstore (exec_st8 ..), hstore (exec_st16 ..), hstore (exec_st32 ..), hstore (exec_st64 ..)⟩

/-- Settles O24: past its checks an atomic performs its release and then stands outstanding (`atomicOp_pends`). -/
theorem atomicsIssue : Obligations.AtomicsIssue := by
  intro s g rd ra rb cmp w un scope ord pa bits leaf size u ha ht gives
  have hgives {i : Instr} {op : Nat} {sg : Bool} {cm : BitVec 6}
      (e : exec i s = atomicOp g rd ra rb w scope ord op sg cm s) : gives i op sg cm := by
    intro h hop
    obtain ⟨t, l, hrun, hl, hfields⟩ := atomicOp_pends h e hop ha ht
    exact ⟨t, l, hrun, hl.kept, hl.loads, hfields⟩
  exact ⟨hgives (exec_amoAdd ..), hgives (exec_amoSwp ..), hgives (exec_amoCas ..), hgives (exec_amoAnd ..), hgives (exec_amoOr ..),
    hgives (exec_amoXor ..), hgives (exec_amoMin ..), hgives (exec_amoMax ..)⟩

end Sys2Proof.Machine
end

section
/-! PROOFS. Itineraries (R165): what starting an entry may change, and what PFIT leaves of the list of itineraries. -/

namespace Sys2Proof.Machine

open Sys2Proof

variable {s t u : State} {n : Nat} {it : Itinerary}

/-! ### The entries started -/

/-- What the fill of an entry may change: tile lines, of its core the publications too, and what the traffic of tiles changes. -/
def FillsOnly (s t : State) (n : Nat) : Prop := LinesOnly s t n ∧ TileTraffic s t

theorem FillsOnly.refl (s : State) (n : Nat) : FillsOnly s s n := ⟨.refl .., .refl s⟩

theorem FillsOnly.trans (h : FillsOnly s u n) (h2 : FillsOnly u t n) : FillsOnly s t n := ⟨h.1.trans h2.1, h.2.trans h2.2⟩

theorem FillsOnly.foldl {α : Type} (f : State → α → State) (hf : ∀ t x, FillsOnly t (f t x) n) (xs : List α) (s : State) :
    FillsOnly s (xs.foldl f s) n :=
  ⟨.foldl f n (fun t x => (hf t x).1) xs s, .foldl f (fun t x => (hf t x).2) xs s⟩

theorem FillsOnly.itins (h : FillsOnly s t n) : (t.core n).itins = (s.core n).itins := by
  obtain ⟨⟨-, a, p, hown⟩, -⟩ := h
  rw [hown]

theorem startEntry_fills (s : State) (n : Nat) (lvl : BitVec 2) (e : Word × Word) : FillsOnly s (startEntry s n lvl e) n := by
  unfold startEntry
  split
  · exact .refl ..
  · extract_lets cl near far s1 asked
    have hnear : FillsOnly s s1 n := by
      unfold s1
      split
      · exact ⟨startFill_lines .., startFill_traffic ..⟩
      · exact .refl ..
    split
    · exact hnear.trans ⟨.of_alcoves n (fillHall_alcoves ..), fillHall_traffic ..⟩
    · exact hnear

theorem startEntry_skipped {lvl : BitVec 2} {e : Word × Word} (h : entryTile (s.core n) e = none) : startEntry s n lvl e = s := by
  simp only [startEntry, h]

/-! ### An itinerary installed -/

/-- Of the acting core the list of itineraries may differ, and nothing else. -/
def ItinsOnly (s t : State) : Prop := CoreKept s t ∧ { t.live with itins := s.live.itins } = s.live

theorem ItinsOnly.modItins (s : State) (f : List Itinerary → List Itinerary) :
    ItinsOnly s (s.modLive fun c => { c with itins := f c.itins }) :=
  ⟨.setCore .., by rw [modLive_eq, live_setCore]⟩

/-- The acting core with an itinerary in the place of the one of its number. -/
def withItin (s : State) (it : Itinerary) : State :=
  s.modLive fun c => { c with itins := (c.itins.filter fun x => x.id != it.id) ++ [it] }

/-- The entries of an itinerary among its first `m`. -/
def firstEntries (it : Itinerary) (m : Nat) : List Nat := (List.range m).filter fun i => decide (i < it.entries.length)

/-- The state in which the first `m` entries of an itinerary have been started. -/
def withEntries (s : State) (n : Nat) (it : Itinerary) (m : Nat) : State :=
  (firstEntries it m).foldl (fun s i => startEntry s n it.lvl (it.entries.getD i (0, 0))) s

/-- The list of itineraries once some entries of one have begun: it leaves with its last. -/
def begunItins (it : Itinerary) (is : List Nat) (xs : List Itinerary) : List Itinerary :=
  if is.contains (it.entries.length - 1) then xs.filter fun x => x.id != it.id
  else xs.map fun x => if x.id = it.id then { x with begun := is } else x

theorem find_withItin (s : State) (it : Itinerary) :
    ((withItin s it).core s.issue.core).itins.find? (fun t => t.id == it.id) = some it := by
  have hrest : (s.live.itins.filter fun x => x.id != it.id).find? (fun t => t.id == it.id) = none := by
    rw [List.find?_eq_none]
    intro x hx
    simpa using (List.mem_filter.mp hx).2
  rw [withItin, modLive_eq, core_setCore_same, List.find?_append, hrest]
  simp

theorem begunItins_installed (is : List Nat) (xs : List Itinerary) :
    begunItins it is ((xs.filter fun x => x.id != it.id) ++ [it]) =
      (xs.filter fun x => x.id != it.id) ++ if is.contains (it.entries.length - 1) then [] else [{ it with begun := is }] := by
  have hother : ∀ x ∈ xs.filter (fun x => x.id != it.id), ¬x.id = it.id := fun x hx => by simpa using (List.mem_filter.mp hx).2
  unfold begunItins
  split
  · simp
  · rw [List.map_append, List.map_congr_left fun x hx => if_neg (hother x hx)]
    simp

theorem startEntries_first {m : Nat} (hfind : ((s.core n).itins.find? fun t => t.id == it.id) = some it) (hnew : it.begun = []) :
    startEntries s n it.id (List.range m) =
      (withEntries s n it m).modCore n fun c => { c with itins := begunItins it (firstEntries it m) c.itins } := by
  have hfirst : (List.range m).filter (fun i => decide (i < it.entries.length) && !List.contains [] i) = firstEntries it m := by
    simp [firstEntries]
  simp only [startEntries, hfind, hnew, hfirst, List.nil_append]
  rfl

theorem withEntries_fills (s : State) (n : Nat) (it : Itinerary) (m : Nat) : FillsOnly s (withEntries s n it m) n :=
  .foldl _ (fun _ _ => startEntry_fills ..) _ s

/-- A fold of which no step changes the state leaves it. -/
theorem foldl_unchanged {α : Type} {f : State → α → State} {xs : List α} (h : ∀ x ∈ xs, f s x = s) : xs.foldl f s = s := by
  induction xs with
  | nil => rfl
  | cons x xs ih =>
    obtain ⟨hx, hxs⟩ := List.forall_mem_cons.mp h
    rw [List.foldl_cons, hx, ih hxs]

/-- Entries that name no tile start nothing. -/
theorem withEntries_skipped (m : Nat) (h : ∀ e ∈ it.entries, entryTile (s.core n) e = none) : withEntries s n it m = s := by
  refine foldl_unchanged fun i hi => startEntry_skipped (h _ ?_)
  have hlt : i < it.entries.length := by simpa using (List.mem_filter.mp hi).2
  rw [List.getD_eq_getElem _ _ hlt]
  exact List.getElem_mem hlt

/-- The state that PFIT leaves with an itinerary of which the first `m` entries have been started. -/
def installed (s : State) (it : Itinerary) (m : Nat) : State :=
  startEntries (withItin s it) s.issue.core it.id (List.range m)

theorem withItin_tiles (s : State) (it : Itinerary) : TilesOnly s (withItin s it) s.issue.core := .setCore rfl id

theorem installed_tiles (s : State) (it : Itinerary) (m : Nat) : TilesOnly s (installed s it m) s.issue.core :=
  (withItin_tiles s it).trans (startEntries_tiles ..)

theorem installed_eq (hnew : it.begun = []) (m : Nat) : installed s it m =
    (withEntries (withItin s it) s.issue.core it m).modCore s.issue.core fun c =>
      { c with itins := begunItins it (firstEntries it m) c.itins } :=
  startEntries_first (find_withItin s it) hnew

theorem installed_issue (hnew : it.begun = []) (m : Nat) : (installed s it m).issue = s.issue := by
  rw [installed_eq hnew]
  exact (withEntries_fills (withItin s it) s.issue.core it m).2.issue

theorem installed_strandsKept (hnew : it.begun = []) (m : Nat) : StrandsKept s (installed s it m) := by
  have h := installed_tiles s it m
  refine ⟨installed_issue hnew m, h.othersKept, fun k => ?_⟩
  rw [State.live, installed_issue hnew]
  exact h.strand k

theorem installed_itins (hnew : it.begun = []) (m : Nat) : (installed s it m).live.itins =
    (s.live.itins.filter fun x => x.id != it.id) ++
      if (firstEntries it m).contains (it.entries.length - 1) then [] else [{ it with begun := firstEntries it m }] := by
  have hkept : ((withEntries (withItin s it) s.issue.core it m).core s.issue.core).itins =
      (s.live.itins.filter fun x => x.id != it.id) ++ [it] := by
    rw [(withEntries_fills ..).itins, withItin, modLive_eq, core_setCore_same]
  rw [State.live, installed_issue hnew, installed_eq hnew, modCore_eq, core_setCore_same]
  simp only [hkept, begunItins_installed]

/-- Where no entry names a tile, nothing differs but the list of itineraries. -/
theorem installed_skipped (hnew : it.begun = []) (m : Nat) (h : ∀ e ∈ it.entries, entryTile s.live e = none) :
    ItinsOnly s (installed s it m) := by
  have hcore : (withItin s it).live = { s.live with itins := (s.live.itins.filter fun x => x.id != it.id) ++ [it] } :=
    live_setCore ..
  have hskip : withEntries (withItin s it) s.issue.core it m = withItin s it :=
    withEntries_skipped m fun e he => (congrArg (fun c : Core => entryTile c e) hcore :).trans (h e he)
  rw [installed_eq hnew, hskip]
  obtain ⟨⟨-, hothers⟩, hlive⟩ := ItinsOnly.modItins (withItin s it) (begunItins it (firstEntries it m))
  refine ⟨⟨⟨rfl, fun _ => rfl, rfl, rfl, rfl, rfl, rfl, rfl⟩, fun k hk => ?_⟩, ?_⟩
  · exact (hothers k hk).trans (core_setCore_other _ _ _ _ hk)
  · exact (congrArg (fun c : Core => { c with itins := s.live.itins }) (hlive.trans hcore) :)

/-! ### The obligation -/

theorem length_itinEntries (m : Nat) (bs : List Byte) : (itinEntries m bs).length = m := by
  induction m generalizing bs with
  | zero => rfl
  | succ m ih => rw [itinEntries, List.length_cons, ih]

theorem pfit_aligned {g ra : BitVec 6} {cnt ld : BitVec 4} {itin lvl : BitVec 2} {bs : List Byte} (h : Runs s g [ra])
    (hm : MayAccess s) (ha : (s.rd ra).toNat % 16 = 0) (hread : ReadsAt s (s.rd ra) (16 * (cnt.toNat + 1)) bs) :
    exec (.pfit g ra cnt ld itin lvl) s = .next (installed s
      { id := itin.toNat, lvl := lvl, lead := ld.toNat, entries := itinEntries (cnt.toNat + 1) bs, begun := [] } (ld.toNat + 1)) := by
  rw [exec_pfit, execPfit, guarded_ready h, memReady_of hm]
  exact (if_neg (not_not_intro ha)).trans (strandRead_reads hread _)

theorem pfit_misaligned {g ra : BitVec 6} {cnt ld : BitVec 4} {itin lvl : BitVec 2} (h : Runs s g [ra]) (hm : MayAccess s)
    (ha : (s.rd ra).toNat % 16 ≠ 0) : exec (.pfit g ra cnt ld itin lvl) s = trapAt s 1 (s.rd ra) := by
  rw [exec_pfit, execPfit, guarded_ready h, memReady_of hm]
  exact if_pos ha

/-- The first `m` entries of a list of `k`, where it has as many, and whether the last is among them. -/
theorem firstEntries_of_length {k m : Nat} (h : it.entries.length = k + 1) :
    (firstEntries it (m + 1)).contains (it.entries.length - 1) = !decide (m < k) ∧
      (m < k → firstEntries it (m + 1) = List.range (m + 1)) := by
  refine ⟨?_, fun hlt => ?_⟩
  · rw [Bool.eq_iff_iff]
    simp [firstEntries, h]
  · rw [firstEntries, List.filter_eq_self]
    intro i hi
    have := List.mem_range.mp hi
    simp only [h, decide_eq_true_eq]
    omega

/-- Settles O29: an aligned list is read and its itinerary installed (`pfit_aligned`), of whose entries the first `ld` + 1 have been
started (`installed_itins`). -/
theorem itineraries : Obligations.Itineraries := by
  intro s g ra cnt ld itin lvl bs h hm ea others es
  refine ⟨fun ha => trapsWith_of_trapAt (pfit_misaligned h hm ha), fun ha hread => ?_, ?_⟩
  · let it : Itinerary := { id := itin.toNat, lvl := lvl, lead := ld.toNat, entries := es, begun := [] }
    obtain ⟨hlast, hfirst⟩ := firstEntries_of_length (it := it) (m := ld.toNat) (length_itinEntries (cnt.toNat + 1) bs)
    refine ⟨installed s it (ld.toNat + 1), pfit_aligned h hm ha hread, installed_strandsKept rfl _, ?_,
      installed_skipped (it := it) rfl _, (installed_tiles ..).memKept⟩
    rw [installed_itins rfl, hlast]
    by_cases hlt : ld.toNat < cnt.toNat
    · simp only [hlt, hfirst hlt, decide_true, Bool.not_true, Bool.false_eq_true, if_false, if_true]
      rfl
    · simp only [hlt, decide_false, Bool.not_false, if_true, if_false]
      rfl
  · exact ⟨_, (exec_pfitcan ..).trans (guarded_on h.1 _), .setCore .., rfl, core_setCore_same ..⟩

end Sys2Proof.Machine
end

section
/-! PROOFS. Commands of the engines at issue (R182, R300, R307, R316, R333, R341, R405, R409): a block that is misaligned, a command
rejected with its reason, and one accepted at the tail of its queue. -/

namespace Sys2Proof.Machine

open Sys2Proof

variable {s : State} {i : Instr} {e : EngineWord} {g : BitVec 6} {op fn n : Nat} {a : Word} {block : Block} {recs : List Block}
  {bs : List Byte} {reason : Option Nat} {q : State → List EngineCmd} {put : EngineCmd → State → State}

/-! ### Acceptance (R300) -/

/-- Nothing differs but clusters, dies and the numbers of collectives. -/
def EnginesOnly (s t : State) : Prop := { t with clusters := s.clusters, dies := s.dies, collSeqs := s.collSeqs } = s

/-- What places a command of the acting core behind those of a queue, and changes nothing but what the engines hold. -/
structure PutsLast (s : State) (q : State → List EngineCmd) (put : EngineCmd → State → State) : Prop where
  units : ∀ u, u.clusters = s.clusters → u.dies = s.dies → q u = q s
  kept : ∀ c u, EnginesOnly u (put c u)
  last : ∀ c u, c.core = s.issue.core → ∃ seq, q (put c u) = q u ++ [{ c with seq := seq }]

/-- The command of a word is accepted at the tail of a queue. -/
def AcceptsCmd (i : Instr) (s : State) (e : EngineWord) (op fn : Nat) (block : Block) (recs : List Block)
    (q : State → List EngineCmd) : Prop :=
  let tk := s.live.tok e.tok.toNat
  ∃ t c, exec i s = .next t ∧ TokIs s t e.tok.toNat { tk with count := tk.count + 1 } ∧
    CmdOf s c op fn e.tok e.fe e.fl e.scope [s.rd e.sa] block recs ∧ q t = q s ++ [c] ∧
    { t with cores := s.cores, clusters := s.clusters, dies := s.dies, nextId := s.nextId, collSeqs := s.collSeqs } = s

theorem acceptsCmd_of_engineAccept (hput : PutsLast s q put) (h : exec i s = engineAccept s op fn i e block recs put) :
    AcceptsCmd i s e op fn block recs q := by
  let u := s.takeId.2.modTok e.tok Token.accept
  let c := mkCmd s s.nextId op fn i e.tok e.fe e.fl e.scope [s.rd e.sa] block recs
  have hkept := hput.kept c u
  obtain ⟨seq, hlast⟩ := hput.last c u rfl
  have hcores : (put c u).cores = u.cores := (congrArg State.cores hkept :)
  have hissue : (put c u).issue = u.issue := (congrArg State.issue hkept :)
  have htok : TokIs s u e.tok.toNat (s.live.tok e.tok.toNat).accept := tokIs_modTok s.takeId.2 e.tok Token.accept
  refine ⟨put c u, { c with seq := seq }, h, tokIs_of_cores htok hcores hissue,
    ⟨rfl, rfl, rfl, rfl, rfl, rfl, rfl, rfl, rfl, rfl, rfl, rfl, rfl, rfl, rfl, rfl, rfl⟩, ?_, ?_⟩
  · rw [hlast, hput.units u rfl rfl]
  · exact (congrArg (fun t : State => { t with cores := s.cores, clusters := s.clusters, dies := s.dies, nextId := s.nextId,
                                               collSeqs := s.collSeqs }) hkept :)

/-! ### Judgement (R122, R300) -/

/-- A command judged: rejected with its reason, or let through. -/
def judgedBy (s : State) (reason : Option Nat) (accept : Out) : Out :=
  match reason with
  | some r => engineReject s r
  | none => accept

theorem trapsWith_of_judgedBy {accept : Out} {r : Nat} (h : exec i s = judgedBy s reason accept) (hr : reason = some r) :
    TrapsWith i s 15 (BitVec.ofNat 64 r) := by
  subst hr
  exact trapsWith_of_trapAt h

/-- A command that is rejected with its reason, or accepted at the tail of a queue. -/
def EngineJudged (i : Instr) (s : State) (e : EngineWord) (op fn : Nat) (block : Block) (recs : List Block)
    (q : State → List EngineCmd) (reason : Option Nat) : Prop :=
  (∀ r, reason = some r → TrapsWith i s 15 (BitVec.ofNat 64 r)) ∧ (reason = none → AcceptsCmd i s e op fn block recs q)

theorem engineJudged_of (hput : PutsLast s q put) (h : exec i s = judgedBy s reason (engineAccept s op fn i e block recs put)) :
    EngineJudged i s e op fn block recs q reason := by
  refine ⟨fun r hr => trapsWith_of_judgedBy h hr, fun hr => ?_⟩
  subst hr
  exact acceptsCmd_of_engineAccept hput h

/-- A command that has room for itself and in its queue is not held. -/
theorem not_full {tok : BitVec 3} {cs : List EngineCmd} (hc : cmdRoom s tok = true) (hq : cs.length < 32) :
    ¬(!cmdRoom s tok || decide (engineDepth ≤ cs.length)) = true := by
  simp [hc, engineDepth, Nat.not_le.mpr hq]

/-! ### The operand block (R300) -/

theorem engineBlock_misaligned (ha : a.toNat % n ≠ 0) (f : Block → Out) : engineBlock s a n f = trapAt s 1 a := if_pos ha

theorem engineBlock_reads (ha : a.toNat % n = 0) (h : ReadsAt s a n bs) (f : Block → Out) : engineBlock s a n f = f (blockOf bs) :=
  (if_neg (not_not_intro ha)).trans (strandRead_reads h _)

/-- A command with a block traps where it is misaligned, and is judged by what is read of it. -/
theorem blockJudged_of {room rest : Prop} {f : Block → Out} (hrun : room → exec i s = engineBlock s a n f)
    (hrest : room → exec i s = f (blockOf bs) → rest) :
    (a.toNat % n ≠ 0 → room → TrapsWith i s 1 a) ∧ (a.toNat % n = 0 → ReadsAt s a n bs → room → rest) :=
  ⟨fun ha hroom => trapsWith_of_trapAt ((hrun hroom).trans (engineBlock_misaligned ha f)),
   fun ha hread hroom => hrest hroom ((hrun hroom).trans (engineBlock_reads ha hread f))⟩

/-! ### The selection unit (R307) -/

/-- The selection queue of the acting core's cluster. -/
def selQueue (s u : State) : List EngineCmd := (u.cluster (coreCluster s.issue.core)).selq

/-- A selection command placed in its cluster's queue. -/
def selPut (c : EngineCmd) (t : State) : State := t.modCluster (coreCluster c.core) fun q => { q with selq := q.selq ++ [c] }

theorem selq_selPut (c : EngineCmd) (u : State) :
    ((selPut c u).cluster (coreCluster c.core)).selq = (u.cluster (coreCluster c.core)).selq ++ [c] := by
  rw [selPut, State.modCluster, cluster_setCluster_same]

theorem selPut_last (s : State) : PutsLast s (selQueue s) selPut where
  units u hu _ := by rw [selQueue, State.cluster, hu]; rfl
  kept _ _ := rfl
  last c u hc := ⟨c.seq, by unfold selQueue; rw [← hc]; exact selq_selPut ..⟩

theorem selIssue_runs (hm : MayAccess s) (hc : cmdRoom s e.tok = true) (hq : (selQueue s s).length < 32) :
    selIssue i fn e s = engineBlock s (s.rd e.sa) 64 fun b => judgedBy s (selReason fn b s.issue.pre.recs)
      (engineAccept s 0x30 fn i e b ((selRecs fn b s.issue.pre.recs).filterMap id) selPut) := by
  rw [selIssue, memReady_of hm]
  exact (if_neg (not_full hc hq)).trans rfl

/-! ### The Landing (R316) -/

/-- The queue of a Landing. -/
def landingQueue (lnd : Nat) (u : State) : List EngineCmd := (u.cluster lnd).lndq

/-- A Landing command placed in the queue of its Landing, and its slot as its acceptance leaves it. -/
def landingPut (lnd slot : Nat) (acc : LandingSlot → LandingSlot) (c : EngineCmd) (t : State) : State :=
  (t.modCluster lnd fun q => { q with lndq := q.lndq ++ [c] }).modSlot lnd slot acc

theorem withSlot_lndq (c : Cluster) (slot : Nat) : (withSlot c slot).lndq = c.lndq := by
  unfold withSlot
  split <;> rfl

theorem landingPut_last (s : State) (lnd slot : Nat) (acc : LandingSlot → LandingSlot) :
    PutsLast s (landingQueue lnd) (landingPut lnd slot acc) where
  units u hu _ := by rw [landingQueue, State.cluster, hu]; rfl
  kept _ _ := rfl
  last c u _ := ⟨c.seq, by
    simp only [landingQueue, landingPut, State.modSlot, State.modCluster, cluster_setCluster_same, withSlot_lndq]⟩

theorem landingIssue_runs (hm : MayAccess s) (hc : cmdRoom s e.tok = true) (f : State → Out) : landingIssue s e.tok f = f s := by
  rw [landingIssue, memReady_of hm, if_neg (by simp [hc])]

theorem landingJudge_runs {lnd : Nat} (hq : (landingQueue lnd s).length < 32) (accept : Out) :
    landingJudge s lnd reason accept = judgedBy s reason accept :=
  (if_neg (Nat.not_le.mpr hq)).trans rfl

/-- A Landing command whose block or register has been read. -/
theorem landing_judged {lnd slot : Nat} {acc : LandingSlot → LandingSlot}
    (h : exec i s = landingJudge s lnd reason (landingAccept i fn e lnd slot block recs acc s))
    (hq : (landingQueue lnd s).length < 32) : EngineJudged i s e 0x31 fn block recs (landingQueue lnd) reason :=
  engineJudged_of (landingPut_last s lnd slot acc) (h.trans (landingJudge_runs hq _))

/-! ### The Concourse (R333, R341) -/

/-- The queue of the acting core's Concourse. -/
def routeQueue (s u : State) : List EngineCmd := (u.die (coreDie s.issue.core)).rteq

/-- A Concourse command placed in its die's queue, and its session as its acceptance leaves it. -/
def routePut (sess : Nat) (acc : Session → Session) (c : EngineCmd) (t : State) : State :=
  (t.modDie (coreDie c.core) fun d => { d with rteq := d.rteq ++ [c] }).modSession (coreDie c.core) sess acc

theorem withSession_rteq (d : Die) (sess : Nat) : (withSession d sess).rteq = d.rteq := by
  unfold withSession
  split <;> rfl

theorem rteq_routePut (sess : Nat) (acc : Session → Session) (c : EngineCmd) (u : State) :
    ((routePut sess acc c u).die (coreDie c.core)).rteq = (u.die (coreDie c.core)).rteq ++ [c] := by
  simp only [routePut, State.modSession, State.modDie, die_setDie_same, withSession_rteq]

theorem routePut_last (s : State) (sess : Nat) (acc : Session → Session) : PutsLast s (routeQueue s) (routePut sess acc) where
  units u _ hu := by rw [routeQueue, State.die, hu]; rfl
  kept _ _ := rfl
  last c u hc := ⟨c.seq, by unfold routeQueue; rw [← hc]; exact rteq_routePut ..⟩

theorem routeIssue_runs (hm : MayAccess s) (hc : cmdRoom s e.tok = true) (hq : (routeQueue s s).length < 32) (f : State → Out) :
    routeIssue s e.tok f = f s := by
  rw [routeIssue, memReady_of hm]
  exact if_neg (not_full hc hq)

/-- A Concourse command whose block or register has been read. -/
theorem route_judged {sess : Nat} {acc : Session → Session}
    (h : exec i s = judgedBy s reason (routeAccept i op fn e sess block recs acc s)) :
    EngineJudged i s e op fn block recs (routeQueue s) reason :=
  engineJudged_of (routePut_last s sess acc) h

theorem sessIssue_runs {ok : SessState → Bool} {next : SessState} (hm : MayAccess s) (hc : cmdRoom s e.tok = true)
    (hq : (routeQueue s s).length < 32) : sessIssue i op fn e ok next s =
      judgedBy s (sessReason s (s.rd e.sa) ok)
        (routeAccept i op fn e (s.rd e.sa).toNat 0 [] (fun x => { x with accState := next }) s) :=
  (routeIssue_runs hm hc hq _).trans rfl

/-! ### The collective unit (R405, R409) -/

/-- The queue of the collective unit of the acting core's die. -/
def collQueue (s u : State) : List EngineCmd := (u.die (coreDie s.issue.core)).collq

/-- A collective command placed in its die's queue with the next number of its rank in its group. -/
def collPut (s : State) (grp r : Nat) (c : EngineCmd) (t : State) : State :=
  let key := cmdGroup s c grp
  let m := collNext s key r
  (setCollNext t key r (m + 1)).modDie (coreDie c.core) fun d => { d with collq := d.collq ++ [{ c with seq := m }] }

theorem collq_collPut (s : State) (grp r : Nat) (c : EngineCmd) (u : State) :
    ((collPut s grp r c u).die (coreDie c.core)).collq =
      (u.die (coreDie c.core)).collq ++ [{ c with seq := collNext s (cmdGroup s c grp) r }] := by
  rw [collPut, State.modDie, die_setDie_same]
  rfl

theorem collPut_last (s : State) (grp r : Nat) : PutsLast s (collQueue s) (collPut s grp r) where
  units u _ hu := by rw [collQueue, State.die, hu]; rfl
  kept _ _ := rfl
  last c u hc := ⟨collNext s (cmdGroup s c grp) r, by unfold collQueue; rw [← hc]; exact collq_collPut ..⟩

/-- The rank of the acting task in a group. -/
def actingRank (s : State) (grp : Nat) : Nat := rankOf s (actingEntry s grp).1 (actingEntry s grp).2

/-- The reason to reject a collective command of the acting task. -/
def actingReason (s : State) (k : Nat) (b : Block) : Option Nat :=
  collReason s k b (rankCount s (actingEntry s (collGrp b)).1) (actingRank s (collGrp b))

theorem collIssue_runs {k : Nat} (hm : MayAccess s) (hc : cmdRoom s e.tok = true) (hq : (collQueue s s).length < 32) :
    collIssue i k e s = engineBlock s (s.rd e.sa) 64 fun b => judgedBy s (actingReason s k b)
      (engineAccept s (if k = 4 then 0x35 else 0x34) (k % 4) i e b
        [(tidRec s.issue.pre.recs b 8).getD 0, (tidRec s.issue.pre.recs b 0x10).getD 0]
        (collPut s (collGrp b) (actingRank s (collGrp b)))) := by
  rw [collIssue, memReady_of hm]
  exact (if_neg (not_full hc hq)).trans rfl

/-! ### The obligation -/

/-- Settles O34: with room each command comes to `judgedBy` of its unit's reason (`selIssue_runs`, `landing_judged`, `route_judged`,
`collIssue_runs`), which rejects it or places it last in its queue (`engineJudged_of`). -/
theorem engineCommandsIssue : Obligations.EngineCommandsIssue := by
  intro s g e bs h hm hc a b die tk judged selq lndq rteq collq block sel sess coll
  have hsel {i : Instr} {fn : Nat} (hexec : exec i s = guarded g s fun s => ready s [e.sa] (selIssue i fn e s)) : sel i fn := by
    have hrun (hq : (selQueue s s).length < 32) := (hexec.trans (guarded_ready h _)).trans (selIssue_runs hm hc hq)
    have hblock := blockJudged_of (bs := bs) hrun fun _ => engineJudged_of (selPut_last s)
    exact ⟨fun ha hq _ _ => hblock.1 ha hq, hblock.2⟩
  have hlanding {i : Instr} {fn lnd slot : Nat} {block : Block} {recs : List Block} {reason : Option Nat}
      {acc : LandingSlot → LandingSlot}
      (hexec : exec i s = landingJudge s lnd reason (landingAccept i fn e lnd slot block recs acc s)) :
      judged i 0x31 fn block recs (landingQueue lnd) reason := landing_judged hexec
  have hsess {i : Instr} {op fn : Nat} {ok : SessState → Bool} {next : SessState}
      (hexec : exec i s = guarded g s fun s => ready s [e.sa] (sessIssue i op fn e ok next s)) : sess i op fn ok := fun hq =>
    route_judged ((hexec.trans (guarded_ready h _)).trans (sessIssue_runs hm hc hq))
  have hcoll {i : Instr} {k : Nat} (hexec : exec i s = guarded g s fun s => ready s [e.sa] (collIssue i k e s)) :
      coll i k (if k = 4 then 0x35 else 0x34) := by
    have hrun (hq : (collQueue s s).length < 32) := (hexec.trans (guarded_ready h _)).trans (collIssue_runs hm hc hq)
    refine ⟨fun ha _ _ hq => trapsWith_of_trapAt ((hrun hq).trans (engineBlock_misaligned ha _)), fun ha hread hq => ?_⟩
    have hjudge := (hrun hq).trans (engineBlock_reads ha hread _)
    refine ⟨fun r hr => trapsWith_of_judgedBy hjudge hr, fun p q hp hq2 hnone _ => ?_⟩
    rw [show actingReason s k (blockOf bs) = none from hnone, hp, hq2] at hjudge
    exact engineJudged_of (reason := none) (collPut_last ..) hjudge
  refine ⟨hsel (exec_selTopk ..), hsel (exec_selSeg ..), ?_, ?_, ?_, ?_, ?_, hsess (exec_rteCount ..), hsess (exec_rtePlace ..),
    hsess (exec_rteScatter ..), hsess (exec_rteGather ..), hcoll (exec_collAr ..), hcoll (exec_collAg ..), hcoll (exec_collRs ..),
    hcoll (exec_collBc ..), hcoll (exec_collA2a ..)⟩
  · have hrun := ((exec_unmSetup ..).trans (guarded_ready h _)).trans (landingIssue_runs hm hc _)
    exact ⟨fun ha _ _ _ => trapsWith_of_trapAt (hrun.trans (engineBlock_misaligned ha _)),
      fun ha hread => hlanding (hrun.trans (engineBlock_reads ha hread _))⟩
  · have hrun := ((exec_unmReg ..).trans (guarded_ready h _)).trans (landingIssue_runs hm hc _)
    exact ⟨fun ha _ _ _ => trapsWith_of_trapAt (hrun.trans (engineBlock_misaligned ha _)),
      fun ha hread => hlanding (hrun.trans (engineBlock_reads ha hread _))⟩
  · exact hlanding (((exec_unmRound ..).trans (guarded_ready h _)).trans (landingIssue_runs hm hc _))
  · exact hlanding (((exec_unmFree ..).trans (guarded_ready h _)).trans (landingIssue_runs hm hc _))
  · have hrun (hq : (routeQueue s s).length < 32) :=
      ((exec_rteSetup ..).trans (guarded_ready h _)).trans (routeIssue_runs hm hc hq _)
    exact ⟨fun ha _ hq _ => trapsWith_of_trapAt ((hrun hq).trans (engineBlock_misaligned ha _)),
      fun ha hread hq => route_judged ((hrun hq).trans (engineBlock_reads ha hread _))⟩

end Sys2Proof.Machine
end

section
/-! PROOFS. What a home keeps when it judges requests and takes write-backs (R353, R354, R356): the versions of its entries, and
the lines that each alcove had. -/

namespace Sys2Proof.Machine

open Sys2Proof

variable {s t u : State} {n cl : Nat} {k : TileKey} {e : DirEntry}

/-! ### Entries written (R352) -/

theorem find_absent (h : (s.dir.any fun x => x.key == k) = false) : (s.dir.find? fun x => x.key == k) = none :=
  List.find?_eq_none.mpr fun x hx => by simpa using List.any_eq_false.mp h x hx

theorem dirOf_absent (h : (s.dir.any fun x => x.key == k) = false) : dirOf s k = noEntry k := by rw [dirOf, find_absent h]; rfl

/-- An entry after its writing: as it was written, or without an entry, because it says nothing or found no room. -/
theorem dirOf_setDir_same (s : State) (e : DirEntry) : dirOf (setDir s e) e.key = e ∨
    (dirOf (setDir s e) e.key = noEntry e.key ∧ (e.isDefault = true ∨ (s.dir.any fun x => x.key == e.key) = false)) := by
  by_cases hd : e.isDefault = true
  · refine .inr ⟨?_, .inl hd⟩
    have hnone : (s.dir.filter fun x => x.key != e.key).find? (fun x => x.key == e.key) = none := by
      rw [List.find?_eq_none]
      intro x hx
      simpa using (List.mem_filter.mp hx).2
    simp [setDir, hd, dirOf, hnone]
  · have hd : e.isDefault = false := by simpa using hd
    by_cases hin : (s.dir.any fun x => x.key == e.key) = true
    · exact .inl (dirOf_setDir hd hin)
    · have hin : (s.dir.any fun x => x.key == e.key) = false := by simpa using hin
      have habsent := dirOf_absent hin
      simp only [setDir, hd, hin, Bool.false_eq_true, if_false]
      split
      · exact .inr ⟨habsent, .inr trivial⟩
      · exact .inl (by simp [dirOf, find_absent hin])

theorem dirOf_setDir_other (s : State) (h : k ≠ e.key) : dirOf (setDir s e) k = dirOf s k := by
  have hne : ¬e.key = k := fun h2 => h h2.symm
  have hfilter : (s.dir.filter fun x => x.key != e.key).find? (fun x => x.key == k) = s.dir.find? fun x => x.key == k := by
    rw [List.find?_filter]
    congr 1
    funext x
    by_cases hx : x.key = k <;> simp [hx, h]
  have hmap : (s.dir.map fun x => if x.key == e.key then e else x).find? (fun x => x.key == k) =
      s.dir.find? fun x => x.key == k := by
    have hcomp : (fun y : DirEntry => y.key == k) ∘ (fun x => if x.key == e.key then e else x) = fun x => x.key == k := by
      funext x
      by_cases hx : x.key = e.key <;> simp [hx]
    rw [List.find?_map, hcomp]
    cases hf : s.dir.find? fun x => x.key == k with
    | none => rfl
    | some y =>
      have hy : y.key = k := by simpa using List.find?_some hf
      simp [hy, h]
  simp only [setDir]
  split
  · simp only [dirOf, hfilter]
  · split
    · simp only [dirOf, hmap]
    · split
      · rfl
      · simp [dirOf, hne]

/-- The newest and the required version of every tile are as they were. -/
structure VersionsKept (s t : State) : Prop where
  nv : ∀ k, (dirOf t k).nv = (dirOf s k).nv
  req : ∀ k, (dirOf t k).req = (dirOf s k).req

theorem VersionsKept.of_dir (h : t.dir = s.dir) : VersionsKept s t := by
  have hdir : ∀ k, dirOf t k = dirOf s k := fun k => by rw [dirOf, h]; rfl
  exact ⟨fun k => by rw [hdir], fun k => by rw [hdir]⟩

theorem VersionsKept.refl (s : State) : VersionsKept s s := .of_dir rfl

theorem VersionsKept.trans (h : VersionsKept s u) (h2 : VersionsKept u t) : VersionsKept s t :=
  ⟨fun k => (h2.nv k).trans (h.nv k), fun k => (h2.req k).trans (h.req k)⟩

theorem VersionsKept.then_dir (h : VersionsKept s u) (h2 : t.dir = u.dir) : VersionsKept s t := h.trans (.of_dir h2)

theorem VersionsKept.modCluster (h : VersionsKept s t) (n : Nat) (f : Cluster → Cluster) : VersionsKept s (t.modCluster n f) :=
  h.then_dir rfl

/-- An entry that says nothing has the versions of a tile without one. -/
theorem isDefault_versions (h : e.isDefault = true) : e.nv = 0 ∧ e.req = 0 := by
  simp only [DirEntry.isDefault, Bool.and_eq_true, beq_iff_eq] at h
  exact ⟨h.1.1.1, h.1.1.2⟩

theorem VersionsKept.setDir (hnv : e.nv = (dirOf s e.key).nv) (hreq : e.req = (dirOf s e.key).req) :
    VersionsKept s (setDir s e) := by
  have hsame : (dirOf (Machine.setDir s e) e.key).nv = (dirOf s e.key).nv ∧
      (dirOf (Machine.setDir s e) e.key).req = (dirOf s e.key).req := by
    rcases dirOf_setDir_same s e with h | ⟨h, hd | habsent⟩
    · rw [h]
      exact ⟨hnv, hreq⟩
    · obtain ⟨hnv0, hreq0⟩ := isDefault_versions hd
      rw [h, ← hnv, ← hreq, hnv0, hreq0]
      exact ⟨rfl, rfl⟩
    · rw [h, dirOf_absent habsent]
      exact ⟨rfl, rfl⟩
  constructor <;> intro k <;> by_cases hk : k = e.key
  · rw [hk, hsame.1]
  · rw [dirOf_setDir_other s hk]
  · rw [hk, hsame.2]
  · rw [dirOf_setDir_other s hk]

/-! ### Relations that a home keeps -/

/-- A relation between states that holds across each thing that a home does when it judges a request or takes a write-back. -/
structure KeptAtHome (R : State → State → Prop) : Prop where
  refl : ∀ s, R s s
  trans : ∀ {s u t}, R s u → R u t → R s t
  memory : ∀ {s t}, MemoryOnly s t → R s t
  posts : ∀ {s t : State}, { t with posts := s.posts } = s → R s t
  reqs : ∀ s qs, R s { s with reqs := qs }
  drops : ∀ s r, R s (dropFilling s r)
  entry : ∀ {s e}, e.nv = (dirOf s e.key).nv → e.req = (dirOf s e.key).req → R s (setDir s e)

variable {R : State → State → Prop}

/-- An entry changed in neither version. -/
theorem KeptAtHome.setDir (h : KeptAtHome R) (s : State) (hkey : e.key = k) (hnv : e.nv = (dirOf s k).nv)
    (hreq : e.req = (dirOf s k).req) : R s (setDir s e) := by
  subst hkey
  exact h.entry hnv hreq

theorem KeptAtHome.foldl {α : Type} (h : KeptAtHome R) (f : State → α → State) (hf : ∀ t x, R t (f t x)) (xs : List α) (s : State) :
    R s (xs.foldl f s) := by
  induction xs generalizing s with
  | nil => exact h.refl s
  | cons x xs ih => exact h.trans (hf s x) (ih _)

theorem KeptAtHome.dataFault (h : KeptAtHome R) (s : State) (ctx : BitVec 12) (code die : Nat) (unit pc : Word) (pa : Nat) :
    R s (s.dataFault ctx code die unit pc pa) := by
  unfold State.dataFault
  split <;> exact h.posts rfl

theorem KeptAtHome.tileFault (h : KeptAtHome R) (s : State) (ctx : BitVec 12) (unit pc base fqw : Word) (f : AccFail) :
    R s (tileFault s ctx unit pc base fqw f) := by
  unfold Machine.tileFault
  split
  · exact h.posts rfl
  · exact h.posts rfl
  · split
    · exact h.dataFault ..
    · exact h.posts rfl

theorem KeptAtHome.endHint (h : KeptAtHome R) (s : State) (r : TileReq) (f : AccFail) : R s (endHint s r f) := by
  refine h.trans ?_ (h.drops _ r)
  split
  · exact h.refl s
  · exact h.refl s
  · split
    · exact h.dataFault ..
    · exact h.refl s

theorem KeptAtHome.homeServe (h : KeptAtHome R) (s : State) (r : TileReq) (e : DirEntry) : R s (homeServe s r e).1 := by
  simp only [Machine.homeServe]
  split
  · obtain ⟨ms, hmark⟩ := markTile_eq s r.cluster r.key.ctx r.lrec r.key.outer.toNat r.key.trow.toNat r.key.tcol.toNat
    rw [hmark]
    exact h.memory rfl
  · split
    · exact h.endHint ..
    · split <;> exact h.tileFault ..

theorem KeptAtHome.judgeReq (h : KeptAtHome R) (s : State) (r : TileReq) (full : Bool) : R s (judgeReq s r full).1 := by
  simp only [Machine.judgeReq]
  split_ifs
  · exact h.homeServe ..
  · exact h.refl s
  · exact h.setDir s (dirOf_key s r.key) rfl rfl
  · exact h.refl s
  · exact h.homeServe ..

theorem KeptAtHome.rejudge (h : KeptAtHome R) (s : State) (k : TileKey) : R s (rejudge s k) := by
  have hjudged (ps : List TileReq) : R s (ps.foldl (fun t r =>
      setReq (Machine.judgeReq t { r with stage := .home } false).1 r.id
        (Machine.judgeReq t { r with stage := .home } false).2) s) :=
    h.foldl _ (fun t r => h.trans (h.judgeReq ..) (h.reqs ..)) ps s
  simp only [Machine.rejudge]
  split_ifs
  · exact h.trans (hjudged _) (h.setDir _ (dirOf_key _ k) rfl rfl)
  · exact hjudged _

theorem scatterTile_memoryOnly {p : Party} {ast : Bool} {ctx : BitVec 12} {r : Block} {o a b : Nat} {l : Line}
    (e : scatterTile p ast s cl ctx r o a b l = .ok t) : MemoryOnly s t := by
  have hfrom {xs : List (Nat × Nat)} {v : State} (e : scatterFrom ast cl ctx r o a b l xs v = .ok t) : MemoryOnly v t := by
    induction xs generalizing v with
    | nil => cases e; rfl
    | cons x xs ih =>
      simp only [scatterFrom] at e
      split at e
      · exact ih e
      · split at e
        · exact ih e
        · split at e
          · cases e
          · next h => exact (writeElem_memoryOnly h).trans (ih e)
  exact ((noteElems_memoryOnly ..).trans (clearCovered_memoryOnly ..)).trans (hfrom e)

theorem dirOf_memoryOnly (h : MemoryOnly s t) (k : TileKey) : dirOf t k = dirOf s k := by
  have hdir : t.dir = s.dir := (congrArg State.dir h :)
  rw [dirOf, hdir]
  rfl

theorem KeptAtHome.homeWrite (h : KeptAtHome R) (s : State) (cl : Nat) (l : TileLine) : R s (homeWrite s cl l) := by
  simp only [Machine.homeWrite]
  split
  · exact h.refl s
  · split
    · exact h.tileFault ..
    · next t ht =>
      have hmem := scatterTile_memoryOnly ht
      split
      · refine h.trans (h.trans (h.memory hmem) ?_) (h.rejudge ..)
        split
        · refine h.setDir t (dirOf_key s l.key) ?_ ?_ <;> rw [dirOf_memoryOnly hmem]
        · exact h.refl t
      · exact h.memory hmem

/-! ### Versions -/

theorem dropFilling_dir (s : State) (r : TileReq) : (dropFilling s r).dir = s.dir := by
  simp only [dropFilling]
  split <;> rfl

theorem versionsKept_atHome : KeptAtHome VersionsKept where
  refl := .refl
  trans := .trans
  memory h := .of_dir (congrArg State.dir h :)
  posts h := .of_dir (congrArg State.dir h :)
  reqs _ _ := .of_dir rfl
  drops s r := .of_dir (dropFilling_dir s r)
  entry := .setDir

theorem writeBack_versions (s : State) (n : Nat) (l : TileLine) (own : BitVec 8) : VersionsKept s (writeBack s n l own) := by
  have hwrite := versionsKept_atHome.homeWrite
  have hthen {v : State} (hv : VersionsKept s v) (p : TileLine) (b : Bool) :
      VersionsKept s (if b then homeWrite v (coreCluster n) p else v) := by
    split
    · exact hv.trans (hwrite ..)
    · exact hv
  have hvictim (v : TileLine) : VersionsKept s (if v.st = .dirty then homeWrite s (coreCluster n) v else s) := by
    split
    · exact hwrite ..
    · exact .refl s
  simp only [writeBack]
  split
  · split
    · exact .refl s
    · exact hthen (.modCluster (.refl s) ..) _ _
  · split
    · exact hwrite ..
    · split
      · exact hthen (.modCluster (.refl s) ..) _ _
      · exact hthen ((hvictim _).modCluster ..) _ _
      · exact hwrite ..

theorem drainLine_versions (s : State) (n : Nat) (l : TileLine) (keep : Bool) : VersionsKept s (drainLine s n l keep) :=
  (writeBack_versions ..).then_dir rfl

/-! ### Alcove lines -/

/-- Every alcove holds no line that it did not hold before. -/
structure LinesFrom (s t : State) : Prop where
  lines : ∀ n, (t.core n).alcove ⊆ (s.core n).alcove

theorem LinesFrom.of_cores (h : t.cores = s.cores) : LinesFrom s t := ⟨fun n => by rw [core_of_cores h n]; exact List.Subset.refl _⟩

theorem LinesFrom.trans (h : LinesFrom s u) (h2 : LinesFrom u t) : LinesFrom s t := ⟨fun n => List.Subset.trans (h2.lines n) (h.lines n)⟩

theorem LinesFrom.filterAlcove (s : State) (n : Nat) (p : TileLine → Bool) :
    LinesFrom s (s.modCore n fun c => { c with alcove := c.alcove.filter p }) := ⟨fun m => by
  by_cases hm : m = n
  · rw [hm, modCore_eq, core_setCore_same]
    exact List.filter_subset_self _
  · rw [modCore_eq, core_setCore_other _ _ _ _ hm]
    exact List.Subset.refl _⟩

theorem dropFilling_linesFrom (s : State) (r : TileReq) : LinesFrom s (dropFilling s r) := by
  simp only [dropFilling]
  split
  · exact .of_cores rfl
  · exact (LinesFrom.of_cores (modCluster_cores ..)).trans (.filterAlcove ..)

theorem linesFrom_atHome : KeptAtHome LinesFrom where
  refl _ := .of_cores rfl
  trans := .trans
  memory h := .of_cores h.cores
  posts h := .of_cores (congrArg State.cores h :)
  reqs _ _ := .of_cores rfl
  drops := dropFilling_linesFrom
  entry _ _ := .of_cores (setDir_cores ..)

end Sys2Proof.Machine
end

section
/-! PROOFS. Write-backs, publications and raises of tiles (R174, R278, R313, R354, R356, R370, R415): the events that write lines
back, publish a version and raise a required one. -/

namespace Sys2Proof.Machine

open Sys2Proof

variable {s t u : State} {n i cl : Nat} {k : TileKey} {l h : TileLine} {p : Publication} {x : Raise}

/-! ### ALCOVE_WRITEBACK (R415) -/

/-- The version that a line takes when it is written back (R370). -/
def writtenVer (s : State) (n : Nat) (l : TileLine) : BitVec 8 := if l.forPub then (pubLabel s n l.key).getD l.ver else l.ver

theorem asPublished_eq (s : State) (n : Nat) (l : TileLine) : asPublished s n l = { l with ver := writtenVer s n l } := by
  unfold asPublished writtenVer
  split <;> rfl

/-- The hall after the write-back of an alcove line of whose tile it holds a line. -/
theorem writeBack_overHall {own : BitVec 8} (hwt : tileWt s (coreCluster n) l.key l.lrec = false)
    (hh : lineOf (s.cluster (coreCluster n)).hall l.key = some h) (hver : verMeets l.ver (some h.ver) = true) :
    writeBack s n l own = s.modCluster (coreCluster n) fun c =>
      touchHall { c with hall := modLine c.hall h.bank h.way fun y => hallWritten l y.bank y.way y.pins y.cls .dirty (some y) }
        h.bank h.way := by
  simp [writeBack, hh, hwt, hver]

/-- A core after the write-back of one of its lines: the publication that it drains for has it, and the line stays clean or leaves. -/
def lineDrained (l : TileLine) (keep : Bool) (c : Core) : Core :=
  { c with
    pubs := if l.forPub then markDrained l.key c.pubs else c.pubs
    alcove :=
      if keep then modLine c.alcove l.bank l.way fun x => { x with st := .clean, keep := false, units := [], rels := [], byAst := false }
      else dropAtWay c.alcove l.bank l.way }

/-- A line that drains over the hall's line of its tile. -/
theorem drainLine_overHall {keep : Bool} (hwt : tileWt s (coreCluster n) l.key l.lrec = false)
    (hh : lineOf (s.cluster (coreCluster n)).hall l.key = some h) (hver : verMeets (writtenVer s n l) (some h.ver) = true) :
    let t := drainLine s n l keep
    { t with cores := s.cores, clusters := s.clusters } = s ∧ (∀ m, m ≠ n → t.core m = s.core m) ∧
    (t.core n).alcove = (if keep then
        modLine (s.core n).alcove l.bank l.way fun x => { x with st := .clean, keep := false, units := [], rels := [], byAst := false }
      else dropAtWay (s.core n).alcove l.bank l.way) ∧
    (t.cluster (coreCluster n)).hall = modLine (s.cluster (coreCluster n)).hall h.bank h.way fun y =>
      hallWritten { l with ver := writtenVer s n l } y.bank y.way y.pins y.cls .dirty (some y) := by
  have hrun := writeBack_overHall (l := { l with ver := writtenVer s n l }) (own := l.ver) hwt hh hver
  intro t
  have ht : t = (writeBack s n { l with ver := writtenVer s n l } l.ver).modCore n (lineDrained l keep) := by
    rw [← asPublished_eq]
    rfl
  rw [ht, hrun, modCore_eq]
  refine ⟨rfl, fun m hm => core_setCore_other _ _ _ _ hm, ?_, ?_⟩
  · rw [core_setCore_same]
    rfl
  · rw [cluster_setCore, State.modCluster, cluster_setCluster_same]
    rfl

theorem alcoveWriteback_drains (hi : (s.core n).alcove[i]? = some l) (hst : l.st = .draining) :
    exec (.alcoveWriteback n i) s = .next (drainLine s n l l.keep) := by
  simp [execAlcoveWriteback, hi, hst]

theorem mem_dropAtWay {ls : List TileLine} {bank way : Nat} {y : TileLine} (hy : y ∈ dropAtWay ls bank way) :
    ¬(y.bank = bank ∧ y.way = way) := fun ⟨hbank, hway⟩ => by
  simpa [hbank, hway] using (List.mem_filter.mp hy).2

/-! ### HOME_WRITEBACK (R354) -/

theorem rejudge_unparked (hp : ∀ q ∈ s.reqs, q.key = k → q.stage ≠ .parked) :
    rejudge s k = if (dirOf s k).pk = true then setDir s { dirOf s k with pk := false } else s := by
  have hnone : (s.reqs.filter fun r => r.key == k && r.stage == .parked) = [] :=
    List.filter_eq_nil_iff.mpr fun q hq => by simpa using hp q hq
  have hstill : (s.reqs.any fun r => r.key == k && r.stage == .parked) = false :=
    List.any_eq_false.mpr fun q hq => by simpa using hp q hq
  simp only [rejudge, hnone, List.foldl_nil, hstill, Bool.not_false, Bool.and_true]

/-- Nothing differs but the directory and the faults posted. -/
def DirOnly (s t : State) : Prop := { t with dir := s.dir, posts := s.posts } = s

theorem DirOnly.trans (h : DirOnly s u) (h2 : DirOnly u t) : DirOnly s t := by
  unfold DirOnly at *
  rw [← h, ← h2]

theorem DirOnly.setDir (s : State) (e : DirEntry) : DirOnly s (setDir s e) := setDir_outside s e

/-- An entry written without a holder has none. -/
theorem hv_setDir (s : State) {e : DirEntry} (he : e.hv = false) : (dirOf (setDir s e) e.key).hv = false := by
  rcases dirOf_setDir_same s e with h | ⟨h, -⟩ <;> rw [h]
  · exact he
  · rfl

/-- The home after a holder's write-back of a tile for which no request is parked: the entry has no holder. -/
theorem rejudge_released (hp : ∀ q ∈ s.reqs, q.key = k → q.stage ≠ .parked) :
    let t := rejudge (setDir s { dirOf s k with hv := false }) k
    DirOnly s t ∧ (dirOf t k).hv = false := by
  let e : DirEntry := { dirOf s k with hv := false }
  have hkey : e.key = k := dirOf_key s k
  have hreqs : (setDir s e).reqs = s.reqs := setDir_reqs s e
  have hhv : (dirOf (setDir s e) k).hv = false := hkey ▸ hv_setDir s (e := e) rfl
  intro t
  have ht : t = _ := rejudge_unparked (hreqs ▸ hp)
  rw [ht]
  split
  · refine ⟨(DirOnly.setDir s e).trans (.setDir ..), ?_⟩
    have h := hv_setDir (setDir s e) (e := { dirOf (setDir s e) k with pk := false }) hhv
    rwa [show ({ dirOf (setDir s e) k with pk := false } : DirEntry).key = k from dirOf_key ..] at h
  · exact ⟨.setDir s e, hhv⟩

/-- A write-back at the home from the hall that holds the tile, or of an unversioned one, for which no request is parked. -/
theorem homeWrite_written (hp : ∀ q ∈ s.reqs, q.key = l.key → q.stage ≠ .parked)
    (hholds : recVersioned l.lrec = false ∨ ((dirOf s l.key).hv = true ∧ (dirOf s l.key).holder = cl))
    (hw : scatterTile (l.writer s) l.byAst s cl l.key.ctx l.lrec l.key.outer.toNat l.key.trow.toNat l.key.tcol.toNat l.data = .ok u) :
    DirOnly u (homeWrite s cl l) ∧ (recVersioned l.lrec = true → (dirOf (homeWrite s cl l) l.key).hv = false) := by
  have hmem := scatterTile_memoryOnly hw
  rcases hholds with hv | ⟨hhv, hholder⟩
  · have hrun : homeWrite s cl l = u := by simp [homeWrite, hv, hw]
    rw [hrun]
    exact ⟨rfl, fun h => by rw [hv] at h; cases h⟩
  · by_cases hv : recVersioned l.lrec = true
    · have hreqs : u.reqs = s.reqs := (congrArg State.reqs hmem :)
      have hrun : homeWrite s cl l = rejudge (setDir u { dirOf u l.key with hv := false }) l.key := by
        simp [homeWrite, hv, hw, hhv, hholder, dirOf_memoryOnly hmem]
      rw [hrun]
      obtain ⟨hdir, hgone⟩ := rejudge_released (s := u) (hreqs ▸ hp)
      exact ⟨hdir, fun _ => hgone⟩
    · have hrun : homeWrite s cl l = u := by simp [homeWrite, hv, hw]
      rw [hrun]
      exact ⟨rfl, fun h => absurd h hv⟩

theorem homeWriteback_drains (hi : (s.cluster cl).hall[i]? = some l) (hst : l.st = .draining) (hheld : heldLine s cl l.key = false) :
    exec (.homeWriteback cl i) s = .next ((homeWrite s cl l).modCluster cl fun c =>
      { c with hall := dropAtWay c.hall l.bank l.way }) := by
  simp [execHomeWriteback, hi, hst, hheld, drainHallLine]

/-- What the write-back of a hall line leaves: memory as it was written, the tile without a holder, the line gone. -/
theorem homeWriteback_written (hp : ∀ q ∈ s.reqs, q.key = l.key → q.stage ≠ .parked)
    (hholds : recVersioned l.lrec = false ∨ ((dirOf s l.key).hv = true ∧ (dirOf s l.key).holder = cl))
    (hw : scatterTile (l.writer s) l.byAst s cl l.key.ctx l.lrec l.key.outer.toNat l.key.trow.toNat l.key.tcol.toNat l.data = .ok u) :
    let t := (homeWrite s cl l).modCluster cl fun c => { c with hall := dropAtWay c.hall l.bank l.way }
    t.mem = u.mem ∧ t.cores = s.cores ∧ t.reqs = s.reqs ∧ (∀ m, m ≠ cl → t.cluster m = s.cluster m) ∧
    (recVersioned l.lrec = true → (s.dir.any fun x => x.key == l.key) = true → (dirOf t l.key).hv = false) ∧
    ∀ y ∈ (t.cluster cl).hall, ¬(y.bank = l.bank ∧ y.way = l.way) := by
  obtain ⟨hdir, hgone⟩ := homeWrite_written hp hholds hw
  have hmem := scatterTile_memoryOnly hw
  have hclusters : (homeWrite s cl l).clusters = s.clusters := (congrArg State.clusters hdir :).trans hmem.clusters
  refine ⟨(congrArg State.mem hdir :), (congrArg State.cores hdir :).trans hmem.cores,
    (congrArg State.reqs hdir :).trans (congrArg State.reqs hmem :), fun m hm => ?_, fun hv _ => hgone hv, fun y hy => ?_⟩
  · rw [State.modCluster, cluster_setCluster_other _ _ _ _ hm, State.cluster, hclusters]
    rfl
  · rw [State.modCluster, cluster_setCluster_same] at hy
    exact mem_dropAtWay hy

theorem homeWriteback_stays (hi : (s.cluster cl).hall[i]? = some l) (h : l.st ≠ .draining ∨ heldLine s cl l.key = true) :
    exec (.homeWriteback cl i) s = .next s := by
  rcases h with h | h <;> simp [execHomeWriteback, hi, h]

/-! ### HOME_PUBLICATION (R354) -/

/-- A core after a publication at the home: its clean line and the register take the version. -/
def takesVersion (c : Core) (p : Publication) (v : BitVec 8) : Core :=
  let c1 := { c with alcove := c.alcove.map fun l => if l.key == p.key && l.st == .clean then { l with ver := v } else l }
  match p.pa with
  | none => c1
  | some (k, phys) =>
    c1.setStrand k { (c1.strand k).setPhys phys (v.zeroExtend 64) with pend := (c1.strand k).pend.filter fun x => x != phys }

theorem performPub_versioned (hp : recVersioned p.lrec = true) (hd : awaitsDrain (s.core n) p = false) :
    performPub s n p =
      (publishTile (s.modCore n fun c => { c with pubs := c.pubs.filter fun q => q.id != p.id }) (coreCluster n) p.key).modCore n
        fun c => takesVersion c p ((dirOf s p.key).nv + 1) := by
  unfold performPub
  extract_lets s1 s2 v s3
  have hs1 : s1 = s := by
    unfold s1
    split
    · rfl
    · next l hl =>
      obtain ⟨hmem, hkey⟩ := lineOf_mem hl
      refine if_neg fun h => ?_
      obtain ⟨hnot, hst⟩ := Bool.and_eq_true_iff.mp h
      have hany : ((s.core n).alcove.any fun l => l.key == p.key && l.st == .draining) = true :=
        List.any_eq_true.mpr ⟨l, hmem, by simp [hkey, hst]⟩
      simp [awaitsDrain, hnot, hany] at hd
  have hversioned : ¬(!recVersioned p.lrec) = true := by simp [hp]
  rw [if_neg hversioned]
  unfold s3 v s2
  rw [hs1]
  rfl

theorem dirOf_modCore (s : State) (n : Nat) (f : Core → Core) (k : TileKey) : dirOf (s.modCore n f) k = dirOf s k := rfl

theorem publishTile_alcoves (s : State) (cl : Nat) (k : TileKey) : AlcovesOnly s (publishTile s cl k) :=
  ((AlcovesOnly.of_cores (modCluster_cores ..)).then_cores (setDir_cores ..)).trans (rejudge_alcoves ..)

theorem publishTile_nv (cl : Nat) (hin : (s.dir.any fun x => x.key == k) = true) :
    (dirOf (publishTile s cl k) k).nv = (dirOf s k).nv + 1 := by
  unfold publishTile
  extract_lets e dirty e1 v
  rw [(versionsKept_atHome.rejudge ..).nv]
  generalize he : (if dirty then { e1 with hv := true, hdie := cl / 10, hcl := cl % 10 } else e1) = e2
  have hkey : e2.key = k := by
    rw [← he]
    split <;> exact dirOf_key s k
  have hnv : e2.nv = (dirOf s k).nv + 1 := by
    rw [← he]
    split <;> rfl
  have hsame := dirOf_setDir_same v e2
  rw [hkey] at hsame
  rcases hsame with h | ⟨h, hd | habsent⟩
  · rw [h, hnv]
  · rw [h, ← hnv, (isDefault_versions hd).1]
    rfl
  · rw [show (v.dir.any fun x => x.key == k) = true from hin] at habsent
    cases habsent

theorem strand_withLines (c : Core) (a : List TileLine) (ps : List Publication) (j : Kind) :
    ({ c with alcove := a, pubs := ps } : Core).strand j = c.strand j := by cases j <;> rfl

theorem takesVersion_pubs (c : Core) (p : Publication) (v : BitVec 8) : (takesVersion c p v).pubs = c.pubs := by
  unfold takesVersion
  dsimp only
  split
  · rfl
  · next k x _ => cases k <;> rfl

theorem takesVersion_unnamed (c : Core) (v : BitVec 8) (h : p.pa = none) (j : Kind) :
    (takesVersion c p v).strand j = c.strand j := by
  unfold takesVersion
  simp only [h]
  exact strand_withAlcove ..

theorem takesVersion_named (c : Core) (v : BitVec 8) {k : Kind} {x : Nat} (h : p.pa = some (k, x)) :
    (takesVersion c p v).strand k =
      { (c.strand k).setPhys x (v.zeroExtend 64) with pend := (c.strand k).pend.filter fun y => y != x } ∧
    ∀ j, j ≠ k → (takesVersion c p v).strand j = c.strand j := by
  unfold takesVersion
  simp only [h, strand_setStrand_same, strand_withAlcove]
  exact ⟨trivial, fun j hj => (strand_setStrand_other _ _ _ _ hj).trans (strand_withAlcove ..)⟩

/-- A strand's register written, register 0 not. -/
theorem setPhys_regs (st : Strand) (x : Nat) (w : Word) : { st.setPhys x w with regs := st.regs } = st ∧
    (x ≠ 0 → tget 0 (st.setPhys x w).regs x = w) ∧ ∀ y, y ≠ x → tget 0 (st.setPhys x w).regs y = tget 0 st.regs y := by
  unfold Strand.setPhys
  split
  · next h => exact ⟨rfl, fun hx => absurd h hx, fun _ _ => rfl⟩
  · exact ⟨rfl, fun _ => tget_tset_same .., fun y hy => tget_tset_other _ _ _ _ _ hy⟩

section

variable (hp : recVersioned p.lrec = true) (hd : awaitsDrain (s.core n) p = false)

include hp hd

theorem performPub_mem_drained : (performPub s n p).mem = s.mem := by
  rw [performPub_versioned hp hd, modCore_eq, setCore_mem, publishTile_mem, modCore_eq, setCore_mem]

theorem performPub_nv (hin : (s.dir.any fun x => x.key == p.key) = true) :
    (dirOf (performPub s n p) p.key).nv = (dirOf s p.key).nv + 1 := by
  rw [performPub_versioned hp hd, dirOf_modCore, publishTile_nv (s := s.modCore n _) _ hin, dirOf_modCore]

/-- The core of a publication has sent it, and takes its version. -/
theorem performPub_core : ∃ a, (performPub s n p).core n = takesVersion
    { s.core n with alcove := a, pubs := (s.core n).pubs.filter fun q => q.id != p.id } p ((dirOf s p.key).nv + 1) := by
  obtain ⟨a, ha⟩ :=
    (publishTile_alcoves (s.modCore n fun c => { c with pubs := c.pubs.filter fun q => q.id != p.id }) (coreCluster n) p.key).lines n
  refine ⟨a, ?_⟩
  rw [performPub_versioned hp hd, modCore_eq, core_setCore_same, ha, modCore_eq, core_setCore_same]

theorem performPub_others {m : Nat} (hm : m ≠ n) (j : Kind) : ((performPub s n p).core m).strand j = (s.core m).strand j := by
  obtain ⟨a, ha⟩ :=
    (publishTile_alcoves (s.modCore n fun c => { c with pubs := c.pubs.filter fun q => q.id != p.id }) (coreCluster n) p.key).lines m
  rw [performPub_versioned hp hd, modCore_eq, core_setCore_other _ _ _ _ hm, ha, strand_withAlcove, modCore_eq,
    core_setCore_other _ _ _ _ hm]

theorem performPub_pubs : ((performPub s n p).core n).pubs = (s.core n).pubs.filter fun q => q.id != p.id := by
  obtain ⟨a, ha⟩ := performPub_core hp hd
  rw [ha, takesVersion_pubs]

theorem performPub_unnamed (hpa : p.pa = none) : AllStrands s (performPub s n p) := fun m j => by
  by_cases hm : m = n
  · obtain ⟨a, ha⟩ := performPub_core hp hd
    rw [hm, ha, takesVersion_unnamed _ _ hpa]
    exact strand_withLines ..
  · exact performPub_others hp hd hm j

/-- The register that a publication names takes the version and no longer waits. -/
theorem performPub_named {k : Kind} {x : Nat} (hpa : p.pa = some (k, x)) :
    ((performPub s n p).core n).strand k = { ((s.core n).strand k).setPhys x (((dirOf s p.key).nv + 1).zeroExtend 64) with
      pend := ((s.core n).strand k).pend.filter fun y => y != x } ∧
    ∀ j, j ≠ k → ((performPub s n p).core n).strand j = (s.core n).strand j := by
  obtain ⟨a, ha⟩ := performPub_core hp hd
  obtain ⟨hnamed, hrest⟩ := takesVersion_named
    { s.core n with alcove := a, pubs := (s.core n).pubs.filter fun q => q.id != p.id } ((dirOf s p.key).nv + 1) hpa
  rw [strand_withLines] at hnamed
  rw [ha]
  exact ⟨hnamed, fun j hj => (hrest j hj).trans (strand_withLines ..)⟩

end

theorem homePublication_first {ps : List Publication} (hpubs : (s.core n).pubs = p :: ps) : exec (.homePublication n 0) s =
    .next (if awaitsDrain (s.core n) p = false then performPub s n p else s) := by
  simp [execHomePublication, hpubs]

/-! ### HOME_RAISE (R313) -/

/-- What dealing with the lines of a raised tile keeps: every strand, the versions at the homes, and all that tiles do not touch. -/
structure RaiseKept (s t : State) : Prop where
  strands : AllStrands s t
  versions : VersionsKept s t
  traffic : TileTraffic s t

theorem RaiseKept.refl (s : State) : RaiseKept s s := ⟨fun _ _ => rfl, .refl s, .refl s⟩

theorem RaiseKept.trans (h : RaiseKept s u) (h2 : RaiseKept u t) : RaiseKept s t :=
  ⟨fun n k => (h2.strands n k).trans (h.strands n k), h.versions.trans h2.versions, h.traffic.trans h2.traffic⟩

theorem RaiseKept.foldl {α : Type} (f : State → α → State) (hf : ∀ t x, RaiseKept t (f t x)) (xs : List α) (s : State) :
    RaiseKept s (xs.foldl f s) := by
  induction xs generalizing s with
  | nil => exact .refl s
  | cons x xs ih => exact (hf s x).trans (ih _)

theorem AlcovesOnly.allStrands (h : AlcovesOnly s t) : AllStrands s t := fun m k => by
  obtain ⟨a, ha⟩ := h.lines m
  rw [ha, strand_withAlcove]

theorem LinesOnly.allStrands (h : LinesOnly s t n) : AllStrands s t := fun m k => by
  obtain ⟨hothers, a, p, hown⟩ := h
  by_cases hm : m = n
  · rw [hm, hown]
    cases k <;> rfl
  · obtain ⟨b, hb⟩ := hothers m hm
    rw [hb, strand_withAlcove]

theorem RaiseKept.setAlcove (s : State) (n : Nat) (a : List TileLine) :
    RaiseKept s (s.setCore n { s.core n with alcove := a }) :=
  ⟨(AlcovesOnly.setAlcove ..).allStrands, .of_dir rfl, .setCore (.refl s) ..⟩

theorem RaiseKept.modCluster (s : State) (n : Nat) (f : Cluster → Cluster) : RaiseKept s (s.modCluster n f) :=
  ⟨fun _ _ => rfl, .of_dir rfl, .modCluster (.refl s) ..⟩

theorem raiseAlcove_kept (k : TileKey) (req : BitVec 8) (before : Nat) (s : State) (n : Nat) :
    RaiseKept s (raiseAlcove k req before s n) := by
  unfold raiseAlcove
  split
  · exact .refl s
  · next l _ =>
    split
    · exact .refl s
    · have hdrain : RaiseKept s (if l.st = .clean then s else drainLine s n l true) := by
        split
        · exact .refl s
        · exact ⟨(drainLine_lines ..).allStrands, drainLine_versions .., drainLine_traffic ..⟩
      exact hdrain.trans (.setAlcove ..)

theorem raiseAlcove_absent {req : BitVec 8} {before : Nat} (h : lineOf (s.core n).alcove k = none) :
    raiseAlcove k req before s n = s := by
  simp only [raiseAlcove, h]

theorem raiseHall_kept (s : State) (cl : Nat) (k : TileKey) (req : BitVec 8) : RaiseKept s (raiseHall s cl k req) := by
  unfold raiseHall
  split
  · exact .refl s
  · next l _ =>
    split
    · exact .refl s
    · have hwrite : RaiseKept s (if l.st = .clean then s else homeWrite s cl l) := by
        split
        · exact .refl s
        · exact ⟨(homeWrite_alcoves ..).allStrands, versionsKept_atHome.homeWrite .., homeWrite_traffic ..⟩
      exact hwrite.trans (.modCluster ..)

theorem raiseHall_linesFrom (s : State) (cl : Nat) (k : TileKey) (req : BitVec 8) : LinesFrom s (raiseHall s cl k req) := by
  unfold raiseHall
  split
  · exact .of_cores rfl
  · next l _ =>
    split
    · exact .of_cores rfl
    · have hwrite : LinesFrom s (if l.st = .clean then s else homeWrite s cl l) := by
        split
        · exact .of_cores rfl
        · exact linesFrom_atHome.homeWrite ..
      exact hwrite.trans (.of_cores (modCluster_cores ..))

theorem retireServed_cores (s : State) (hall : Nat) (k : TileKey) : (retireServed s hall k).cores = s.cores := by
  unfold retireServed
  split <;> rfl

theorem retireServed_raiseKept (s : State) (hall : Nat) (k : TileKey) : RaiseKept s (retireServed s hall k) := by
  unfold retireServed
  split
  · exact .refl s
  · exact .modCluster ..

/-- The home's state with the required version of a raised tile. -/
def raisedAt (s : State) (k : TileKey) : State := setDir s { dirOf s k with req := (dirOf s k).nv + 1 }

theorem raisedAt_raises (s : State) (k : TileKey) : (raisedAt s k).raises = s.raises :=
  (congrArg State.raises (setDir_outside s _) :)

theorem TileTraffic.raises (h : TileTraffic s t) : t.raises = s.raises := (congrArg State.raises h :)

/-- The required version of a raised tile is one past its newest. -/
theorem dirOf_raisedAt (hin : (s.dir.any fun y => y.key == k) = true) :
    (dirOf (raisedAt s k) k).req = (dirOf s k).nv + 1 ∧ (dirOf (raisedAt s k) k).nv = (dirOf s k).nv := by
  let e : DirEntry := { dirOf s k with req := (dirOf s k).nv + 1 }
  have hkey : e.key = k := dirOf_key s k
  have hd : e.isDefault = false := by
    by_contra h
    obtain ⟨hnv, hreq⟩ := isDefault_versions (e := e) (by simpa using h)
    have hnv : (dirOf s k).nv = 0 := hnv
    have hreq : (dirOf s k).nv + 1 = 0 := hreq
    rw [hnv] at hreq
    cases hreq
  have h := dirOf_setDir (s := s) (e := e) hd (hkey.symm ▸ hin)
  rw [hkey] at h
  rw [raisedAt, h]
  exact ⟨rfl, rfl⟩

theorem dealRaise_kept (s : State) (x : Raise) (before : Nat) : RaiseKept s (dealRaise s x before) := by
  unfold dealRaise
  extract_lets req
  have hcores := RaiseKept.foldl (raiseAlcove x.key req before) (raiseAlcove_kept x.key req before) (clusterCores x.cluster) s
  exact hcores.trans (raiseHall_kept ..)

/-- The last uses of a tile taken in every hall where they waited (R163). -/
def retireEverywhere (s : State) (k : TileKey) : State := (List.range 40).foldl (fun u h => retireServed u h k) s

theorem retireEverywhere_kept (s : State) (k : TileKey) : RaiseKept s (retireEverywhere s k) :=
  .foldl _ (fun u h => retireServed_raiseKept u h k) _ s

theorem retireEverywhere_cores (s : State) (k : TileKey) : (retireEverywhere s k).cores = s.cores :=
  foldl_cores _ (fun u h => retireServed_cores u h k) _ s

/-- What the home does with a raise: its entry, the lines in the cluster, the tiles on their way, the last uses, the parked requests. -/
theorem takeRaise_eq (s : State) (x : Raise) : ∃ asked : TileReq → TileReq,
    let t := dealRaise (raisedAt s x.key) x s.nextId
    takeRaise s x = rejudge (retireEverywhere { t with reqs := t.reqs.map asked } x.key) x.key :=
  ⟨raiseReq s.now x.cluster x.key ((dirOf s x.key).nv + 1), by
    intro t
    unfold takeRaise retireEverywhere
    rfl⟩

theorem RaiseKept.putReqs (s : State) (qs : List TileReq) : RaiseKept s { s with reqs := qs } :=
  ⟨fun _ _ => rfl, .of_dir rfl, .putReqs (.refl s) _⟩

theorem rejudge_kept (s : State) (k : TileKey) : RaiseKept s (rejudge s k) :=
  ⟨(rejudge_alcoves ..).allStrands, versionsKept_atHome.rejudge .., rejudge_traffic ..⟩

theorem takeRaise_kept (s : State) (x : Raise) : RaiseKept (raisedAt s x.key) (takeRaise s x) := by
  obtain ⟨asked, h⟩ := takeRaise_eq s x
  rw [h]
  exact (((dealRaise_kept ..).trans (.putReqs ..)).trans (retireEverywhere_kept ..)).trans (rejudge_kept ..)

/-- The cores of the raised tile's cluster hold no line of it. -/
def NoLines (s : State) (x : Raise) : Prop := ∀ n ∈ clusterCores x.cluster, lineOf (s.core n).alcove x.key = none

theorem takeRaise_linesFrom (h : NoLines s x) : LinesFrom s (takeRaise s x) := by
  obtain ⟨asked, hrun⟩ := takeRaise_eq s x
  have hraised : (raisedAt s x.key).cores = s.cores := setDir_cores ..
  have hdeal : LinesFrom s (dealRaise (raisedAt s x.key) x s.nextId) := by
    unfold dealRaise
    extract_lets req
    rw [foldl_unchanged fun n hn => raiseAlcove_absent (by rw [core_of_cores hraised n]; exact h n hn)]
    exact (LinesFrom.of_cores hraised).trans (raiseHall_linesFrom ..)
  rw [hrun]
  exact ((hdeal.trans (linesFrom_atHome.reqs ..)).trans (.of_cores (retireEverywhere_cores ..))).trans (linesFrom_atHome.rejudge ..)

theorem raiseWaits_none (hno : NoLines s x) (ht : LinesFrom s t) : raiseWaits t x = false := by
  refine List.any_eq_false.mpr fun n hn => ?_
  have hkeys : ∀ l ∈ (t.core n).alcove, l.key ≠ x.key := fun l hl => by
    simpa using List.find?_eq_none.mp (hno n hn) l (ht.lines n hl)
  rw [Bool.not_eq_true, List.any_eq_false]
  exact fun l hl => by simp [TileLine.failsReq, hkeys l hl]

/-- A raise that reaches its home is dealt with, and leaves once nothing waits. -/
theorem homeRaise_taken (hi : s.raises[i]? = some x) (hx : x.since = none) :
    ∃ t, exec (.homeRaise i) s = .next t ∧ t.cores = (takeRaise s x).cores ∧ t.dir = (takeRaise s x).dir ∧
      (raiseWaits (takeRaise s x) x = false → t.raises = dropAt (takeRaise s x).raises i) := by
  simp only [exec_homeRaise, execHomeRaise, hi, hx]
  generalize takeRaise s x = v
  refine ⟨_, rfl, ?_⟩
  split
  · next hw => exact ⟨rfl, rfl, fun h => by rw [hw] at h; cases h⟩
  · exact ⟨rfl, rfl, fun _ => rfl⟩

/-! ### The obligation -/

/-- Settles O50: a draining alcove line goes over the hall's (`drainLine_overHall`), a hall line home (`homeWriteback_written`);
a publication is `performPub_nv` and `performPub_named`, and a raise `takeRaise_kept` after its entry is written
(`dirOf_raisedAt`). -/
theorem tileWritebacks : Obligations.TileWritebacks := by
  intro s
  refine ⟨?_, fun cl i l hi => ⟨homeWriteback_stays hi, fun u hst hheld hp hholds hw => ?_⟩,
    fun n p ps hpubs hp hin => ⟨fun hd => ?_, fun hd => ?_⟩, fun i x hi hx hin => ?_⟩
  · intro n i l h hi hst hwt hh ver hver
    obtain ⟨houtside, hothers, halcove, hhall⟩ := drainLine_overHall (keep := l.keep) hwt hh hver
    refine ⟨_, hallWritten { l with ver := writtenVer s n l } h.bank h.way h.pins h.cls .dirty (some h),
      alcoveWriteback_drains hi hst, (drainLine_lines ..).allStrands, houtside, hothers,
      hhall ▸ mem_modLine (lineOf_mem hh).1 _, rfl, rfl, rfl, rfl, rfl, fun hk y hy => ?_, fun hk => ?_⟩
    · rw [halcove, hk] at hy
      exact mem_dropAtWay hy
    · rw [halcove, hk]
      exact mem_modLine (List.mem_of_getElem? hi) _
  · exact ⟨_, homeWriteback_drains hi hst hheld, homeWriteback_written hp hholds hw⟩
  · rw [homePublication_first hpubs, hd]
    rfl
  · refine ⟨performPub s n p, by rw [homePublication_first hpubs, if_pos hd], fun b => by rw [performPub_mem_drained hp hd],
      performPub_nv hp hd hin, performPub_pubs hp hd, fun m hm j => performPub_others hp hd hm j, performPub_unnamed hp hd,
      fun k x hpa => ?_⟩
    obtain ⟨hnamed, hrest⟩ := performPub_named hp hd hpa
    obtain ⟨hregs, hx, hy⟩ := setPhys_regs ((s.core n).strand k) x (((dirOf s p.key).nv + 1).zeroExtend 64)
    refine ⟨hrest, ?_⟩
    rw [hnamed]
    exact ⟨(congrArg (fun st : Strand => { st with pend := ((s.core n).strand k).pend }) hregs :), rfl, hx, hy⟩
  · obtain ⟨t, hrun, hcores, hdir, hleaves⟩ := homeRaise_taken hi hx
    have hkept := takeRaise_kept s x
    obtain ⟨hreq, hnv⟩ := dirOf_raisedAt hin
    have hversions := hkept.versions.then_dir hdir
    have hraises : (takeRaise s x).raises = s.raises := hkept.traffic.raises.trans (raisedAt_raises ..)
    have hraised : (raisedAt s x.key).cores = s.cores := setDir_cores ..
    refine ⟨t, hrun, fun m j => ?_, (hversions.req x.key).trans hreq, (hversions.nv x.key).trans hnv, fun hno => ?_⟩
    · rw [core_of_cores hcores, hkept.strands m j, core_of_cores hraised]
    · rw [hleaves (raiseWaits_none hno (takeRaise_linesFrom hno)), hraises]

end Sys2Proof.Machine
end

section
/-! PROOFS. Region instructions at issue (R129, R130, R202, R205 to R207): what one leaves in progress, and the judgement of its
regions. -/

namespace Sys2Proof.Machine

open Sys2Proof

variable {s : State} {i : Instr} {g rd ra : BitVec 6} {dv sv : BitVec 3} {d a : Region} {w : Nat} {trn : Bool}
  {f : Nat → Nat × BitVec 7} {dst src : List (Nat × Nat × Nat)}

/-! ### An instruction in progress (R129, R206) -/

/-- With a busy cell it is held; else the cells that it reads are noted, the next number is taken, and it stands last. -/
theorem areaStart_starts {xs : List (AccWrite × BitVec 7)} (e : exec i s = areaStart s dst src xs) :
    RegionStarts i s dst src (xs.map fun x => x.1) (xs.foldl (fun f x => f ||| x.2) 0) := by
  refine ⟨fun hbusy => e.trans (if_pos hbusy), fun hfree => ?_⟩
  have hnoted : CoreKept { s with nextId := s.nextId + 1 } { s.readCells src with nextId := s.nextId + 1 } :=
    ⟨⟨rfl, fun _ => rfl, rfl, rfl, rfl, rfl, rfl, rfl⟩, fun _ _ => rfl⟩
  exact ⟨_, e.trans (if_neg (Bool.eq_false_iff.mp hfree)), hnoted.trans (.setCore ..), rfl, live_setCore ..⟩

/-- The elements of a region, each with what `v` gives at its place and with the sticky bits raised there. -/
def elemsOf (d : Region) (w : Nat) (v : Nat → Nat → Nat × BitVec 7) : List (AccWrite × BitVec 7) :=
  (regionCells d).map fun x => (regionWrite d w x.1 x.2 (v x.1 x.2).1, (v x.1 x.2).2)

theorem elemsOf_writes (d : Region) (w : Nat) (v : Nat → Nat → Nat × BitVec 7) :
    ((elemsOf d w v).map fun x => x.1) = (regionCells d).map fun x => regionWrite d w x.1 x.2 (v x.1 x.2).1 := by
  rw [elemsOf, List.map_map]
  rfl

theorem elemsOf_sticky (d : Region) (w : Nat) (v : Nat → Nat → Nat × BitVec 7) :
    (elemsOf d w v).foldl (fun f x => f ||| x.2) 0 = (regionCells d).foldl (fun f x => f ||| (v x.1 x.2).2) 0 :=
  List.foldl_map

theorem elemsOf_start {v : Nat → Nat → Nat × BitVec 7} (e : exec i s = areaStart s dst src (elemsOf d w v)) :
    RegionStarts i s dst src ((regionCells d).map fun x => regionWrite d w x.1 x.2 (v x.1 x.2).1)
      ((regionCells d).foldl (fun f x => f ||| (v x.1 x.2).2) 0) := by
  rw [← elemsOf_writes, ← elemsOf_sticky]
  exact areaStart_starts e

/-- Elements written as they are raise no sticky bit. -/
theorem elemsOf_start_exact {v : Nat → Nat → Nat} (e : exec i s = areaStart s dst src (elemsOf d w fun i j => (v i j, 0))) :
    RegionStarts i s dst src ((regionCells d).map fun x => regionWrite d w x.1 x.2 (v x.1 x.2)) 0 := by
  have hnone : (regionCells d).foldl (fun (f : BitVec 7) _ => f ||| 0) 0 = 0 := by simp
  have h := elemsOf_start e
  rwa [hnone] at h

/-! ### The judgement of two regions (R202, R206, R207) -/

/-- A destination and its source have the same size, or the one has the size of the other transposed. -/
def SizesAgree (trn : Bool) (d a : Region) : Prop :=
  if trn then d.nrow = a.ncol ∧ d.ncol = a.nrow else d.nrow = a.nrow ∧ d.ncol = a.ncol

/-- The source's element for a place of the destination: the one at that place, or at the transposed one. -/
def sourceElem (s : State) (a : Region) (w : Nat) (trn : Bool) (i j : Nat) : Nat :=
  if trn then regionElem s.live.acc a w j i else regionElem s.live.acc a w i j

theorem areaMove_without (h : areaOf (s.rd rd) dv = none ∨ areaOf (s.rd ra) sv = none) :
    areaMove s rd ra dv sv trn f = faultAt s 7 10 0 0 := by
  rcases h with h | h
  · simp only [areaMove, h]
  · simp only [areaMove, h]
    cases areaOf (s.rd rd) dv <;> rfl

theorem areaMove_mismatched (hd : areaOf (s.rd rd) dv = some d) (ha : areaOf (s.rd ra) sv = some a) (h : ¬SizesAgree trn d a) :
    areaMove s rd ra dv sv trn f = faultAt s 7 10 0 0 := by
  simp only [areaMove, hd, ha]
  exact if_neg h

theorem areaMove_agreeing (hd : areaOf (s.rd rd) dv = some d) (ha : areaOf (s.rd ra) sv = some a) (h : SizesAgree trn d a) :
    areaMove s rd ra dv sv trn f = areaStart s (regionSpans d (etWidth dv)) (regionSpans a (etWidth sv))
      (elemsOf d (etWidth dv) fun i j => f (sourceElem s a (etWidth sv) trn i j)) := by
  simp only [areaMove, hd, ha]
  exact if_pos h

/-! ### The four instructions (R205) -/

theorem runs_first {n : BitVec 6} {ns : List (BitVec 6)} (h : Runs s g (n :: ns)) : Runs s g [n] := by
  obtain ⟨hguard, hready⟩ := h
  exact ⟨hguard, List.forall_mem_singleton.2 (hready n List.mem_cons_self)⟩

theorem aclr_without (h : Runs s g [rd]) (hd : areaOf (s.rd rd) dv = none) : exec (.aclr g rd dv) s = faultAt s 7 10 0 0 := by
  rw [exec_aclr, execAclr, guarded_ready h]
  simp only [hd]

theorem aclr_starts (h : Runs s g [rd]) (hd : areaOf (s.rd rd) dv = some d) : exec (.aclr g rd dv) s =
    areaStart s (regionSpans d (etWidth dv)) [] (elemsOf d (etWidth dv) fun _ _ => (0, 0)) := by
  rw [exec_aclr, execAclr, guarded_ready h]
  simp only [hd]
  rfl

theorem acopy_runs (h : Runs s g [rd, ra]) :
    exec (.acopy g rd ra dv) s = areaMove s rd ra dv dv false fun x => (x, 0) := by
  rw [exec_acopy, execAcopy, guarded_ready h]

theorem atrn_runs (h : Runs s g [rd, ra]) :
    exec (.atrn g rd ra dv) s = areaMove s rd ra dv dv true fun x => (x, 0) := by
  rw [exec_atrn, execAtrn, guarded_ready h]

theorem acvt_runs (h : Runs s g [rd, ra]) (rm : BitVec 3) (ftz : BitVec 1) : exec (.acvt g rd ra sv dv rm ftz) s =
    areaMove s rd ra dv sv false (recode (viewFmt sv) (viewFmt dv) (Mode.ofBits rm) (ftz == 1)) := by
  rw [exec_acvt, execAcvt, guarded_ready h]

/-! ### The obligation -/

theorem region_faultsWith (e : exec i s = faultAt s 7 10 0 0) : FaultsWith i s 7 10 0 := faultsWith_of e (by decide) (by decide)

/-- Settles O42: a region that is missing or of another size faults (`areaMove_without`, `areaMove_mismatched`); agreeing ones
start with the elements of `areaMove_agreeing`, which for all but ACVT raise no sticky bit (`elemsOf_start_exact`). -/
theorem regionInstructions : Obligations.RegionInstructions := by
  intro s g rd ra dv sv rm ftz h w d? a? b? put src
  have hclr := runs_first h
  have hcopy := acopy_runs (dv := dv) h
  have htrn := atrn_runs (dv := dv) h
  have hcvt := acvt_runs (dv := dv) (sv := sv) h rm ftz
  refine ⟨fun hd => region_faultsWith (aclr_without hclr hd), fun d hd => elemsOf_start_exact (aclr_starts hclr hd),
    fun hn => ⟨region_faultsWith (hcopy.trans (areaMove_without hn)), region_faultsWith (htrn.trans (areaMove_without hn))⟩,
    fun hn => region_faultsWith (hcvt.trans (areaMove_without hn)), fun d a hd ha => ⟨fun hne => ?_, fun hrow hcol => ?_,
    fun hne => ?_, fun hrow hcol => ?_⟩, fun d b hd hb => ⟨fun hne => ?_, fun hrow hcol => ?_⟩⟩
  · exact region_faultsWith (hcopy.trans (areaMove_mismatched hd ha hne))
  · exact elemsOf_start_exact (hcopy.trans (areaMove_agreeing hd ha ⟨hrow, hcol⟩))
  · exact region_faultsWith (htrn.trans (areaMove_mismatched hd ha hne))
  · exact elemsOf_start_exact (htrn.trans (areaMove_agreeing hd ha ⟨hrow, hcol⟩))
  · exact region_faultsWith (hcvt.trans (areaMove_mismatched hd hb hne))
  · exact elemsOf_start (hcvt.trans (areaMove_agreeing hd hb ⟨hrow, hcol⟩))

end Sys2Proof.Machine
end

section
/-! PROOFS. Instructions of the V strand at issue (R209, R215): what one leaves in progress, and the lanes of each shape of instruction
(R133, R212, R224, R229). -/

namespace Sys2Proof.Machine

open Sys2Proof

variable {s : State} {i : Instr} {w : VecWord} {regs : List (BitVec 6)} {reads writes : List (Nat × Nat × Nat)}

/-! ### An instruction in progress (R209, R215, R227) -/

/-- The physical register in which a scalar result lands; none for `s0`, which takes no value (R9, R227). -/
def scalarDest (s : State) (dst : Option (BitVec 6 × Word)) : Option (Nat × Word) :=
  dst.bind fun x => if x.1 = 0 then none else some (destReg s x.1, x.2)

/-- The next number taken, and the register of a scalar result waiting. -/
def awaited (s : State) (reg : Option (Nat × Word)) : State :=
  match reg with
  | none => { s with nextId := s.nextId + 1 }
  | some x => { s with nextId := s.nextId + 1 }.modActing fun st => { st with pend := st.pend ++ [x.1] }

theorem awaited_kept (s : State) (reg : Option (Nat × Word)) :
    CoreKept { s with nextId := s.nextId + 1 } (awaited s reg) ∧ (awaited s reg).issue = s.issue := by
  cases reg with
  | none => exact ⟨⟨.refl _, fun _ _ => rfl⟩, rfl⟩
  | some x => exact ⟨(StrandKept.modActing ..).1, rfl⟩

theorem live_awaited (s : State) (reg : Option (Nat × Word)) : (awaited s reg).live =
    s.live.setStrand s.issue.kind { act s with pend := (act s).pend ++ reg.toList.map fun x => x.1 } := by
  cases reg with
  | none => simp only [Option.toList_none, List.map_nil, List.append_nil]; exact (setStrand_strand ..).symm
  | some x => exact modActing_live ..

/-- The state with an operation last among those of the V strand. -/
def withVop (s : State) (o : AccOp) : State := s.modLive fun c => { c with vops := c.vops ++ [o] }

theorem live_withVop (s : State) (o : AccOp) : (withVop s o).live = { s.live with vops := s.live.vops ++ [o] } := live_setCore ..

theorem vops_setStrand (c : Core) (k : Kind) (st : Strand) : (c.setStrand k st).vops = c.vops := by cases k <;> rfl

theorem strand_vops (c : Core) (k : Kind) (vs : List AccOp) : ({ c with vops := vs } : Core).strand k = c.strand k := by
  cases k <;> rfl

theorem setStrand_vops_restored (c : Core) (k : Kind) (st : Strand) (vs : List AccOp) :
    ({ ({ c.setStrand k st with vops := vs } : Core) with vops := c.vops } : Core).setStrand k (c.strand k) = c := by
  cases k <;> rfl

/-- An issue whose registers are there waits for cells, or takes its number and stands in progress. -/
theorem vecIssue_ready {xs : List AccWrite} {f : BitVec 7} {dst : Option (BitVec 6 × Word)}
    (hready : ∀ n ∈ regs, s.isPending n = false) :
    vecIssue s regs reads writes xs f dst =
      if cellsMeet (reads ++ writes) (busyForV s) || cellsMeet writes s.issue.mreads then hold s
      else .next (withVop (awaited s (scalarDest s dst))
        { id := s.nextId, spans := writes, writes := xs, sticky := f, reg := scalarDest s dst }) := by
  refine (ready_of hready _).trans ?_
  cases dst with
  | none => rfl
  | some x =>
    by_cases hx : x.1 = 0
    · simp only [scalarDest, Option.bind_some, hx, if_true]; rfl
    · simp only [scalarDest, Option.bind_some, destReg, hx, if_false]; rfl

theorem vecIssue_starts {xs : List AccWrite} {f : BitVec 7} {dst : Option (BitVec 6 × Word)}
    (e : exec i s = vecIssue s regs reads writes xs f dst) :
    VecStarts i s regs reads writes xs f (scalarDest s dst) := by
  intro hready waits
  rw [vecIssue_ready hready] at e
  refine ⟨fun hwaits => e.trans (if_pos hwaits), fun hfree => ?_⟩
  obtain ⟨hkept, hissue⟩ := awaited_kept s (scalarDest s dst)
  refine ⟨_, e.trans (if_neg (Bool.eq_false_iff.mp hfree)), hkept.trans (.setCore ..), hissue, ?_, ?_, ?_⟩
  · rw [live_withVop, live_awaited, vops_setStrand]
  · rw [live_withVop, live_awaited]
    exact setStrand_vops_restored ..
  · rw [act, live_withVop, strand_vops, show (withVop _ _).issue = s.issue from hissue, live_awaited, strand_setStrand_same]

/-! ### Lanes (R133, R212) -/

theorem mapIdx_lanes {α β : Type} (n : Nat) (f : Nat → α) (put : Nat → α → β) :
    ((List.range n).map f).mapIdx put = (List.range n).map fun j => put j (f j) :=
  List.ext_getElem (by simp) fun j _ _ => by simp

theorem allSticky_lanes (n : Nat) (f : Nat → Nat × BitVec 7) :
    allSticky ((List.range n).map f) = (List.range n).foldl (fun a j => a ||| (f j).2) 0 := List.foldl_map

theorem foldl_no_sticky (n : Nat) : (List.range n).foldl (fun (a : BitVec 7) _ => a ||| 0) 0 = 0 := by simp

theorem laneMask_decide (w : VecWord) (p : Prop) [Decidable p] :
    laneMask w (decide p) = (if p then 2 ^ etWidth w.etype - 1 else 0, 0) := by
  simp only [laneMask, decide_eq_true_iff]

/-- Results written lane by lane, with the sticky bits of all of them. -/
theorem results_start {n : Nat} {f : Nat → Nat × BitVec 7} {put : Nat → Nat → AccWrite}
    (e : exec i s = vecIssue s regs reads writes (((List.range n).map f).mapIdx fun j y => put j y.1)
      (allSticky ((List.range n).map f)) none) :
    VecStarts i s regs reads writes ((List.range n).map fun j => put j (f j).1)
      ((List.range n).foldl (fun a j => a ||| (f j).2) 0) none := by
  rw [mapIdx_lanes, allSticky_lanes] at e
  exact vecIssue_starts e

/-- Bits written lane by lane as they are, without a sticky bit. -/
theorem bits_start {n : Nat} {f : Nat → Nat} {put : Nat → Nat → AccWrite}
    (e : exec i s = vecIssue s regs reads writes (((List.range n).map f).mapIdx fun j y => put j y) 0 none) :
    VecStarts i s regs reads writes ((List.range n).map fun j => put j (f j)) 0 none := by
  rw [mapIdx_lanes] at e
  exact vecIssue_starts e

/-- The same, with its sticky bits said as those of results that raise none. -/
theorem bits_start_folded {n : Nat} {f : Nat → Nat} {put : Nat → Nat → AccWrite}
    (e : exec i s = vecIssue s regs reads writes (((List.range n).map f).mapIdx fun j y => put j y) 0 none) :
    VecStarts i s regs reads writes ((List.range n).map fun j => put j (f j))
      ((List.range n).foldl (fun a _ => a ||| 0) 0) none := by
  rw [foldl_no_sticky]
  exact bits_start e

/-- An instruction over the lanes of `va`, `vb` and the old `vd`, whose result in lane `j` is `r j`. -/
theorem vecLanes_start {ops : List (BitVec 11)} {f : Nat → Nat → Nat → Nat × BitVec 7} {r : Nat → Nat × BitVec 7}
    (e : exec i s = vecLanes s w ops f) (hr : ∀ j, f (srcLane s w w.va j) (srcLane s w w.vb j) (srcLane s w w.vd j) = r j) :
    LanesStart i s w ops r := by
  have hlanes : (fun j => f (srcLane s w w.va j) (srcLane s w w.vb j) (srcLane s w w.vd j)) = r := funext hr
  subst hlanes
  exact results_start e

/-- An instruction over the lane numbers, whose result in lane `j` is `r j` (R230). -/
theorem vecIndex_start {f r : Nat → Nat × BitVec 7} (e : exec i s = vecIndex s w regs f) (hr : ∀ j, f j = r j) :
    VecStarts i s regs [] (allSpans w.etype w.vd)
      ((List.range (dstLanes w)).map fun j => laneWrite (etWidth w.etype) w.vd j (r j).1)
      ((List.range (dstLanes w)).foldl (fun a j => a ||| (r j).2) 0) none := by
  have hlanes : f = r := funext hr
  subst hlanes
  exact results_start e

/-- An instruction that writes one lane with `y`, got from every lane of `va` (R224). -/
theorem vecReduce_start {f : List Nat → Nat × BitVec 7} {y : Nat × BitVec 7} (e : exec i s = vecReduce s w f)
    (hy : f ((List.range (lanesOf w.etype w.va)).map (srcLane s w w.va)) = y) :
    let x := laneWrite (etWidth w.etype) w.vd (redLane w) y.1
    VecStarts i s (opRegs w.va) (readSpans w.etype w.va) [(x.row, x.bit, x.width)] [x] y.2 none := by
  subst hy
  exact vecIssue_starts (dst := none) e

end Sys2Proof.Machine
end

section
/-! PROOFS. The instructions of the V strand (R216 to R230), each an issue of one of the shapes above. -/

namespace Sys2Proof.Machine

open Sys2Proof

/-- Settles O43: each instruction's lanes stand in its definition (`vecLanes_start`), where the view takes one branch of those that
differ for integers and floats; VCVT has lanes of its own (`results_start`). -/
theorem vectorArithmetic : Obligations.VectorArithmetic := by
  intro s g w hg a b d val sg rnd sum ab fn
  refine ⟨fun hint => ⟨?_, ?_, ?_, ?_, ?_, ?_⟩, fun hfloat => ?_, ?_, ?_, ?_, ?_, ?_, ?_, ?_, ?_, ?_⟩
  · exact vecLanes_start ((exec_vadd ..).trans (guarded_on hg _)) fun _ => if_pos hint
  · exact vecLanes_start ((exec_vsub ..).trans (guarded_on hg _)) fun _ => if_pos hint
  · exact vecLanes_start ((exec_vmul ..).trans (guarded_on hg _)) fun _ => if_pos hint
  · exact vecLanes_start ((exec_vfma ..).trans (guarded_on hg _)) fun _ => if_pos hint
  · exact vecLanes_start ((exec_vabs ..).trans (guarded_on hg _)) fun _ => if_pos hint
  · exact vecLanes_start ((exec_vneg ..).trans (guarded_on hg _)) fun _ => if_pos hint
  · have hnot : ¬isIntView w.etype = true := Bool.eq_false_iff.mp hfloat
    refine ⟨?_, ?_, ?_, ?_, ?_, ?_⟩
    · exact vecLanes_start ((exec_vadd ..).trans (guarded_on hg _)) fun _ => if_neg hnot
    · exact vecLanes_start ((exec_vsub ..).trans (guarded_on hg _)) fun _ => if_neg hnot
    · exact vecLanes_start ((exec_vmul ..).trans (guarded_on hg _)) fun _ => if_neg hnot
    · exact vecLanes_start ((exec_vfma ..).trans (guarded_on hg _)) fun _ => if_neg hnot
    · exact vecLanes_start ((exec_vabs ..).trans (guarded_on hg _)) fun _ => if_neg hnot
    · exact vecLanes_start ((exec_vneg ..).trans (guarded_on hg _)) fun _ => if_neg hnot
  · exact vecLanes_start ((exec_vmin ..).trans (guarded_on hg _)) fun _ => rfl
  · exact vecLanes_start ((exec_vmax ..).trans (guarded_on hg _)) fun _ => rfl
  · exact vecLanes_start ((exec_vrndi ..).trans (guarded_on hg _)) fun _ => rfl
  · exact vecLanes_start ((exec_vexp2 ..).trans (guarded_on hg _)) fun _ => rfl
  · exact vecLanes_start ((exec_vlog2 ..).trans (guarded_on hg _)) fun _ => rfl
  · exact vecLanes_start ((exec_vrcp ..).trans (guarded_on hg _)) fun _ => rfl
  · exact vecLanes_start ((exec_vrsq ..).trans (guarded_on hg _)) fun _ => rfl
  · exact vecLanes_start ((exec_vtanh ..).trans (guarded_on hg _)) fun _ => rfl
  · exact results_start ((exec_vcvt ..).trans (guarded_on hg _))

/-- Settles O44: lane by lane the bits of each definition (`vecLanes_start`, `bits_start`), which from lane numbers alone come with
the sticky bits of VIOTA (`vecIndex_start`); VMOVS and VINS are issues by themselves, the one with a register that waits. -/
theorem vectorBitsAndMoves : Obligations.VectorBitsAndMoves := by
  intro s g w hg n a b val ab bits mask rA rB index
  refine ⟨?_, ?_, ?_, ?_, ?_, ?_, ?_, ?_, ?_, ?_, ?_, ?_, ?_, ?_, ?_, ?_, ?_, ?_⟩
  · exact vecLanes_start ((exec_vand ..).trans (guarded_on hg _)) fun _ => rfl
  · exact vecLanes_start ((exec_vor ..).trans (guarded_on hg _)) fun _ => rfl
  · exact vecLanes_start ((exec_vxor ..).trans (guarded_on hg _)) fun _ => rfl
  · exact vecLanes_start ((exec_vnot ..).trans (guarded_on hg _)) fun _ => rfl
  · exact vecLanes_start ((exec_vshl ..).trans (guarded_on hg _)) fun _ => rfl
  · exact vecLanes_start ((exec_vshr ..).trans (guarded_on hg _)) fun _ => rfl
  · exact vecLanes_start ((exec_vsar ..).trans (guarded_on hg _)) fun _ => rfl
  · exact vecLanes_start ((exec_vcmpeq ..).trans (guarded_on hg _)) fun _ => rfl
  · exact vecLanes_start ((exec_vcmplt ..).trans (guarded_on hg _)) fun _ => rfl
  · exact vecLanes_start ((exec_vcmple ..).trans (guarded_on hg _)) fun _ => rfl
  · exact bits_start ((exec_vsel ..).trans (guarded_on hg _))
  · exact vecLanes_start ((exec_vmov ..).trans (guarded_on hg _)) fun _ => rfl
  · exact bits_start_folded ((exec_vperm ..).trans (guarded_on hg _))
  · exact bits_start_folded ((exec_vrot ..).trans (guarded_on hg _))
  · exact vecIndex_start ((exec_vlmask ..).trans (guarded_on hg _)) fun _ => laneMask_decide ..
  · exact vecIndex_start ((exec_viota ..).trans (guarded_on hg _)) fun _ => rfl
  · exact vecIssue_starts ((exec_vmovs ..).trans (guarded_on hg _))
  · exact vecIssue_starts (dst := none) ((exec_vins ..).trans (guarded_on hg _))

/-- Settles O45: a reduction folds the values of the lanes of `va` (`vecReduce_start`), a distance has one result for each candidate
row (`results_start`), and VRNG issues its numbers as they are. -/
theorem vectorReductions : Obligations.VectorReductions := by
  intro s g w hg n xs red m ev q r cells dist metric
  have hvals : ((List.range (lanesOf w.etype w.va)).map (srcLane s w w.va)).map (laneVal w) = xs := List.map_map
  refine ⟨?_, ?_, ?_, ?_, ?_, ?_, ?_, ?_⟩
  · exact vecReduce_start ((exec_vrsum ..).trans (guarded_on hg _))
      (congrArg (fun vs => laneRound w (sumNum (isRdn w) vs)) hvals)
  · exact vecReduce_start ((exec_vrmax ..).trans (guarded_on hg _))
      (congrArg (fun vs => laneExact w (maxOf vs)) hvals)
  · exact vecReduce_start ((exec_vrmin ..).trans (guarded_on hg _))
      (congrArg (fun vs => laneExact w (vs.foldl Num.min .nan)) hvals)
  · exact vecReduce_start ((exec_vrargmax ..).trans (guarded_on hg _))
      (congrArg (fun vs => ((vs.findIdx? fun v => !v.isNaN && !v.below (maxOf vs)).getD 0, 0)) hvals)
  · exact results_start ((exec_vdistIp ..).trans (guarded_on hg _))
  · exact results_start ((exec_vdistL2 ..).trans (guarded_on hg _))
  · exact bits_start_folded ((exec_vdistHam ..).trans (guarded_on hg _))
  · exact vecIssue_starts (dst := none) ((exec_vrng ..).trans (guarded_on hg _))

end Sys2Proof.Machine
end

section
/-! PROOFS. The format queue (R233, R234) and RENQ (R235 to R237): a word pushed, the queue closed, and an entry put behind
those of the queue that a target names. -/

namespace Sys2Proof.Machine

open Sys2Proof

variable {s : State} {g ra rb : BitVec 6}

/-! ### The format queue (R233, R234) -/

/-- The acting core changed, and nothing else. -/
theorem modLive_changes (s : State) (f : Core → Core) :
    CoreKept s (s.modLive f) ∧ (s.modLive f).issue = s.issue ∧ (s.modLive f).live = f s.live :=
  ⟨CoreKept.setCore .., rfl, live_setCore ..⟩

theorem fpush_runs (h : Runs s g [ra]) :
    exec (.fpush g ra) s =
      if !fqRoom s then hold s
      else if s.issue.pre.fqClosed then illegalAt s (.fpush g ra)
      else .next (s.modLive fun c => { c with fq := c.fq ++ [{ w := s.rd ra, born := s.now }] }) :=
  (exec_fpush ..).trans (guarded_ready h _)

/-- Settles O35: FPUSH is held, traps or pushes by the two tests of `fpush_runs`; what it pushes and what FQCLOSE closes is of the
acting core alone (`modLive_changes`). -/
theorem formatQueue : Obligations.FormatQueue := by
  intro s g ra
  refine ⟨fun h => ⟨fun hfull => ?_, fun hroom hclosed => ?_, fun hroom hopen => ?_⟩, fun h => ?_⟩
  · rw [fpush_runs h, hfull]
    rfl
  · refine trapsWith_of_trapAt ?_
    rw [fpush_runs h, hroom, hclosed]
    rfl
  · refine ⟨_, ?_, modLive_changes s fun c => { c with fq := c.fq ++ [{ w := s.rd ra, born := s.now }] }⟩
    rw [fpush_runs h, hroom, hopen]
    rfl
  · exact ⟨_, (exec_fqclose ..).trans (guarded_on h.1 _), modLive_changes s _⟩

/-! ### RENQ (R235 to R237) -/

theorem setRenq_clusters_only (u : State) (q : Nat × Nat) (es : List RenqEntry) :
    { setRenq u q es with clusters := u.clusters } = u := rfl

theorem cluster_setRenq (u : State) (q : Nat × Nat) (es : List RenqEntry) :
    (setRenq u q es).cluster q.1 = { u.cluster q.1 with renq := tset [] (u.cluster q.1).renq q.2 es } :=
  cluster_setCluster_same ..

theorem cluster_setRenq_other (u : State) {q : Nat × Nat} (es : List RenqEntry) {n : Nat} (h : n ≠ q.1) :
    (setRenq u q es).cluster n = u.cluster n :=
  cluster_setCluster_other _ _ _ _ h

theorem renqOf_setRenq_same (u : State) (q : Nat × Nat) (es : List RenqEntry) : renqOf (setRenq u q es) q = es := by
  rw [renqOf, cluster_setRenq]
  exact tget_tset_same ..

theorem renqOf_setRenq_other (u : State) {q y : Nat × Nat} (es : List RenqEntry) (h : y ≠ q) :
    renqOf (setRenq u q es) y = renqOf u y := by
  by_cases hcl : y.1 = q.1
  · have hplace : y.2 ≠ q.2 := fun e => h (Prod.ext hcl e)
    rw [renqOf, renqOf, hcl, cluster_setRenq]
    exact tget_tset_other _ _ _ _ _ hplace
  · rw [renqOf, renqOf, cluster_setRenq_other u es hcl]

/-- Of every cluster nothing differs but its queues. -/
theorem cluster_setRenq_kept (u : State) (q : Nat × Nat) (es : List RenqEntry) (n : Nat) :
    { (setRenq u q es).cluster n with renq := (u.cluster n).renq } = u.cluster n := by
  by_cases hcl : n = q.1
  · subst hcl
    rw [cluster_setRenq]
  · rw [cluster_setRenq_other u es hcl]

/-- What RENQ does once its block may be read (R237): a trap for a target that names no unit, else the release and the entry. -/
def renqEnter (s : State) (a : Word) : Option (Nat × Nat) → Out
  | none => trapAt s 11 a
  | some q =>
    let u := releaseAt s s.issue.core s.issue.kind 4
    .next (setRenq u q (renqOf u q ++
      [{ addr := a, core := s.issue.core, task := s.live.task, ctx := s.live.ctx, prio := launchPrio s }]))

theorem renq_runs (h : Runs s g [ra, rb]) (ha : MayAccess s) :
    exec (.renq g ra rb) s =
      if renqFull s (renqTarget s (s.rd rb)) then hold s
      else if (s.rd ra).toNat % 256 ≠ 0 then trapAt s 1 (s.rd ra)
      else strandTranslate s (s.rd ra) .read fun _ _ => renqEnter s (s.rd ra) (renqTarget s (s.rd rb)) := by
  rw [exec_renq, execRenq, guarded_ready h, memReady_of ha]
  rfl

theorem renq_room (h : Runs s g [ra, rb]) (ha : MayAccess s)
    (hroom : ∀ x, renqTarget s (s.rd rb) = some x → (renqOf s x).length < 16) :
    exec (.renq g ra rb) s =
      if (s.rd ra).toNat % 256 ≠ 0 then trapAt s 1 (s.rd ra)
      else strandTranslate s (s.rd ra) .read fun _ _ => renqEnter s (s.rd ra) (renqTarget s (s.rd rb)) := by
  have hfree : ¬renqFull s (renqTarget s (s.rd rb)) = true := by
    cases hq : renqTarget s (s.rd rb) with
    | none => exact Bool.false_ne_true
    | some x => simpa [renqFull] using hroom x hq
  rw [renq_runs h ha, if_neg hfree]

/-- Settles O36: the checks of `renq_runs` in their order, then the entry at the tail of its queue (`renqOf_setRenq_same`,
`renqOf_setRenq_other`, `cluster_setRenq_kept`). -/
theorem renqEnqueues : Obligations.RenqEnqueues := by
  intro s g ra rb pa bits leaf h ha i a q tr u
  refine ⟨fun x hq hfull => ?_, fun hroom => ?_⟩
  · have hheld : renqFull s (renqTarget s (s.rd rb)) = true := by
      rw [show renqTarget s (s.rd rb) = some x from hq]
      exact decide_eq_true hfull
    exact (renq_runs h ha).trans (if_pos hheld)
  · have hrun := renq_room h ha hroom
    have haligned (hal : a.toNat % 256 = 0) : exec i s = strandTranslate s a .read fun _ _ => renqEnter s a q :=
      hrun.trans (if_neg (not_not_intro hal))
    refine ⟨fun hmis => ?_, fun hal htr => ?_, fun hal htr => ?_, fun hal htr => ?_⟩
    · exact trapsWith_of_trapAt (hrun.trans (if_pos hmis))
    · exact trapsWith_of_trapAt ((haligned hal).trans (strandTranslate_unmapped (.inl htr) _))
    · exact trapsWith_of_trapAt ((haligned hal).trans (strandTranslate_forbidden htr _))
    · have hread : exec i s = renqEnter s a q := by
        rw [haligned hal, strandTranslate, show translate s _ _ _ _ = _ from htr]
      refine ⟨fun hq => ?_, fun x hq => ?_⟩
      · rw [hq] at hread
        exact trapsWith_of_trapAt hread
      · rw [hq] at hread
        exact ⟨_, hread, setRenq_clusters_only .., renqOf_setRenq_same .., fun y hy => renqOf_setRenq_other u _ hy,
          cluster_setRenq_kept u x _⟩

end Sys2Proof.Machine
end

section
/-! PROOFS. Releases (R101, R255): what of the state they may change, whatever accesses they perform. -/

namespace Sys2Proof.Machine

open Sys2Proof

variable {s t : State}

theorem writeAs_traffic (p : Party) (z : Bool) (s : State) (pa : Nat) (bs : List Byte) : TileTraffic s (writeAs p z s pa bs).1 := by
  obtain ⟨i, h, hnote⟩ := noteOld_eq s p pa bs.length
  have hnoted : TileTraffic s (s.noteOld p pa bs.length) := by rw [hnote]; rfl
  exact hnoted.trans (writePhys_memoryOnly ..).traffic

theorem performStore_traffic (s : State) (n : Nat) (x : OutStore) : TileTraffic s (performStore s n x) := by
  have hwrite := (writeAs_traffic (strandParty s n x.strand x.id) x.z s x.pa x.bytes).setCore n
  simp only [performStore]
  split
  · exact hwrite _
  · exact (hwrite _).trans (dataFault_traffic ..)

theorem flushStores_traffic (s : State) (n : Nat) (p : OutStore → Bool) : TileTraffic s (flushStores s n p) :=
  .foldl _ (fun _ _ => performStore_traffic ..) _ s

theorem markRead_traffic (s : State) (pa n : Nat) : TileTraffic s (markRead s pa n) := .ite rfl rfl

theorem loadError_traffic (s : State) (n : Nat) (l : OutLoad) (a : Nat) : TileTraffic s (loadError s n l a) :=
  (TileTraffic.setCore (.refl s) ..).trans (dataFault_traffic ..)

theorem performLoad_traffic (s : State) (n : Nat) (l : OutLoad) : TileTraffic s (performLoad s n l) := by
  simp only [performLoad]
  split
  · exact loadError_traffic ..
  · exact (TileTraffic.setCore (.refl s) ..).trans (markRead_traffic ..)

theorem performAtomic_traffic (s : State) (n : Nat) (l : OutLoad) (op : Nat) (un : Bool) (arg cmp : Word) :
    TileTraffic s (performAtomic s n l op un arg cmp) := by
  unfold performAtomic
  split
  next =>
    have hpoison : TileTraffic s (poisonLine s l.pa) := rfl
    exact (TileTraffic.ite (.refl s) hpoison).trans (loadError_traffic ..)
  next =>
    extract_lets old p s1 v
    have hmet : TileTraffic s s1 := rfl
    have hwritten : TileTraffic s v := by
      simp only [v]
      split
      · exact hmet
      · exact hmet.trans (writeAs_traffic ..)
    exact (hwritten.setCore n _).trans (markRead_traffic ..)

theorem dropCoreTiles_traffic (s : State) (n : Nat) : TileTraffic s (dropCoreTiles s n) := rfl

theorem dropHallTiles_traffic (s : State) (cl : Nat) : TileTraffic s (dropHallTiles s cl) := rfl

theorem acquireAt_traffic (s : State) (n scope : Nat) : TileTraffic s (acquireAt s n scope) := by
  unfold acquireAt
  extract_lets v
  have hcore : TileTraffic s v := (TileTraffic.setCore (.refl s) n _).trans (dropCoreTiles_traffic ..)
  exact .ite (.refl s) (.ite hcore (hcore.trans (dropHallTiles_traffic ..)))

theorem finishLoad_traffic (s : State) (n : Nat) (l : OutLoad) : TileTraffic s (finishLoad s n l) := by
  unfold finishLoad
  extract_lets v
  have hperformed : TileTraffic s v := by
    simp only [v]
    split
    · exact performLoad_traffic ..
    · exact performLoad_traffic ..
    · exact (flushStores_traffic ..).trans (performAtomic_traffic ..)
  split
  · exact hperformed
  · exact hperformed.trans (acquireAt_traffic ..)

theorem settlePubs_traffic (s : State) (cl : Nat) (p : TileLine → Bool) : TileTraffic s (settlePubs s cl p) :=
  .foldl _ (fun t _ => .ite (performPubs_traffic ..) (.refl t)) _ s

theorem drainHallLine_traffic (s : State) (cl : Nat) (l : TileLine) : TileTraffic s (drainHallLine s cl l) :=
  (homeWrite_traffic ..).modCluster ..

theorem drainHall_traffic (s : State) (cl : Nat) (p : TileLine → Bool) : TileTraffic s (drainHall s cl p) := by
  unfold drainHall
  extract_lets v
  exact (settlePubs_traffic s cl p).trans (.foldl _ (fun _ _ => drainHallLine_traffic ..) _ v)

theorem tilesAt_traffic (s : State) (n : Nat) (k : Kind) (scope : Nat) : TileTraffic s (tilesAt s n k scope) := by
  unfold tilesAt
  extract_lets u s1 s2
  have hpubs : TileTraffic s s1 := .ite (performPubs_traffic ..) (.refl s)
  have hdrained : TileTraffic s s2 := hpubs.trans (drainAlcove_traffic ..)
  exact .ite (.refl s) (.ite hdrained (hdrained.trans (drainHall_traffic ..)))

theorem finishLoads_traffic (s : State) (n : Nat) (k : Kind) : TileTraffic s (finishLoads s n k) :=
  .foldl _ (fun _ _ => finishLoad_traffic ..) _ s

theorem passRelease_traffic (s : State) (n : Nat) (k : Kind) (scope : Nat) : TileTraffic s (s.passRelease n k scope) := rfl

/-- A release changes nothing but cores, clusters, memory with what the device keeps of it, the directory, requests for tiles and
posted faults. -/
theorem releaseAt_traffic (s : State) (n : Nat) (k : Kind) (scope : Nat) : TileTraffic s (releaseAt s n k scope) := by
  unfold releaseAt
  extract_lets v
  have hloads : TileTraffic s v := finishLoads_traffic ..
  refine .ite hloads (.ite ?_ ?_)
  · exact (hloads.setCore n _).trans (passRelease_traffic ..)
  · exact ((hloads.trans (flushStores_traffic ..)).trans (tilesAt_traffic ..)).trans (passRelease_traffic ..)

end Sys2Proof.Machine
end

section
/-! PROOFS. The membership of groups (R239, R240, R241, R297, R298): what a group's scheduler makes of a leave or a join, and the
instructions that tell it. -/

namespace Sys2Proof.Machine

open Sys2Proof

variable {s t : State} {k : GroupKey} {m : GroupMsg} {y : GroupState} {i x fuel : Nat} {f : Task → Task} {b : Prop}

/-! ### One group -/

theorem group?_key (h : s.group? k = some y) : y.key = k := by
  simpa using List.find?_some h

theorem group?_modGroup (s : State) (k : GroupKey) {f : GroupState → GroupState} (hf : ∀ y, (f y).key = y.key) :
    (s.modGroup k f).group? k = (s.group? k).map f := by
  have hkeep : ((fun y : GroupState => y.key == k) ∘ fun y => if y.key == k then f y else y) = fun y => y.key == k := by
    funext y
    rw [Function.comp_apply]
    split
    · rw [hf]
    · rfl
  rw [State.group?, State.modGroup, List.find?_map, hkeep, State.group?]
  cases hy : s.groups.find? fun y => y.key == k with
  | none => rfl
  | some y =>
    have hkey : (y.key == k) = true := List.find?_some (p := fun y : GroupState => y.key == k) hy
    rw [Option.map_some, Option.map_some, if_pos hkey]

theorem apply_key (y : GroupState) (now : Nat) (m : GroupMsg) : (y.apply now m).key = y.key := by
  unfold GroupState.apply
  split
  · exact apply_ite GroupState.key .. |>.trans (ite_self _)
  · rfl
  · exact apply_ite GroupState.key .. |>.trans (ite_self _)

/-- A group as it stands once its pending generation has completed (R241). -/
def nextGeneration (now : Nat) (y : GroupState) : GroupState :=
  { y with gen := y.gen + 1, members := y.members ++ y.joiners, joiners := [], arrived := y.next, next := [], sent := false,
           doneAt := some now, mods := y.mods.filter fun m => decide (y.gen < m.2) }

/-- Flag updates sent behind those on their way. -/
def sendFlags (s : State) (ms : List FlagMsg) : State := { s with fmsgs := s.fmsgs ++ ms }

/-- An update for a task on its way. -/
def flagMsg (task flag : Nat) (z : Word32) (scope : Nat) : FlagMsg :=
  { task := some task, core := 0, flag := flag, add := z, scope := scope }

theorem sendFlags_append (s : State) (ms ns : List FlagMsg) : sendFlags (sendFlags s ms) ns = sendFlags s (ms ++ ns) := by
  rw [sendFlags, sendFlags, sendFlags, List.append_assoc]

/-- Updates sent one after another, with a scope that they leave as it is. -/
theorem foldl_sendFlag {α : Type} (task flag : α → Nat) (z : Word32) {scope : State → Nat}
    (hscope : ∀ v ms, scope (sendFlags v ms) = scope v) (xs : List α) (s : State) :
    xs.foldl (fun v a => sendFlag v (task a) (flag a) z (scope v)) s =
      sendFlags s (xs.map fun a => flagMsg (task a) (flag a) z (scope s)) := by
  induction xs generalizing s with
  | nil => rw [List.map_nil, sendFlags, List.append_nil]; rfl
  | cons a xs ih =>
    have hstep := ih (sendFlags s [flagMsg (task a) (flag a) z (scope s)])
    rw [sendFlags_append, hscope] at hstep
    exact hstep

theorem completeGen_eq (s : State) (y : GroupState) :
    completeGen s y =
      (sendFlags s (y.arrived.map fun a => flagMsg a.1 a.2 1 y.scope)).modGroup y.key (nextGeneration s.now) := by
  rw [completeGen, foldl_sendFlag Prod.fst Prod.snd 1 (scope := fun _ => y.scope) fun _ _ => rfl]
  rfl

/-! ### Who belongs to a group -/

/-- A task is a member of a group from its pending generation on, or from the next. -/
def GroupState.lists (y : GroupState) (x : Nat) : Prop := x ∈ y.members ∨ x ∈ y.joiners

theorem lists_nextGeneration (now : Nat) (y : GroupState) (x : Nat) : (nextGeneration now y).lists x ↔ y.lists x := by
  simp [GroupState.lists, nextGeneration]

theorem lists_leave (y : GroupState) (x : Nat) : (y.leave x).lists x ↔ False := by
  simp [GroupState.lists, GroupState.leave]

theorem lists_join (y : GroupState) (now x : Nat) : (y.join now x).lists x ↔ True := by
  unfold GroupState.join
  split <;> simp [GroupState.lists]

/-- The group of a key, if there is one, lists a task or does not. -/
def GroupLists (s : State) (k : GroupKey) (x : Nat) (b : Prop) : Prop := ∀ y, s.group? k = some y → (y.lists x ↔ b)

theorem GroupLists.modGroup {f : GroupState → GroupState} (hf : ∀ y, (f y).key = y.key)
    (h : ∀ y, s.group? k = some y → ((f y).lists x ↔ b)) : GroupLists (s.modGroup k f) k x b := by
  intro z hz
  rw [group?_modGroup s k hf] at hz
  obtain ⟨y, hy, rfl⟩ := Option.map_eq_some_iff.mp hz
  exact h y hy

theorem GroupLists.sendModule (h : GroupLists s k x b) (hy : s.group? k = some y) : GroupLists (sendModule s y) k x b := by
  unfold Machine.sendModule
  split
  · rw [group?_key hy]
    exact GroupLists.modGroup (f := fun x => { x with sent := true }) (fun _ => rfl) h
  · exact h

theorem GroupLists.completeGen (h : GroupLists s k x b) (hy : s.group? k = some y) : GroupLists (completeGen s y) k x b := by
  rw [completeGen_eq, group?_key hy]
  exact .modGroup (fun _ => rfl) fun z hz => (lists_nextGeneration ..).trans (h z hz)

/-- The generations that complete leave the memberships as they are. -/
theorem GroupLists.settleGroup (h : GroupLists s k x b) (fuel : Nat) : GroupLists (settleGroup s k fuel) k x b := by
  induction fuel generalizing s with
  | zero => exact h
  | succ fuel ih =>
    rw [Machine.settleGroup]
    split
    · exact h
    next y hy =>
      split
      · exact h
      · extract_lets v
        have hsent : GroupLists v k x b := h.sendModule hy
        split
        · exact hsent
        next z hz =>
          split
          · exact ih (hsent.completeGen hz)
          · exact hsent

/-- An event recorded with its group, before what it completes. -/
def recorded (s : State) (m : GroupMsg) : State := s.modGroup m.key fun y => y.apply s.now m

theorem group?_recorded (hy : s.group? m.key = some y) : (recorded s m).group? m.key = some (y.apply s.now m) := by
  rw [recorded, group?_modGroup _ _ fun y => apply_key y s.now m, hy, Option.map_some]

theorem takeMsg_lists (hm : ∀ y : GroupState, (y.apply s.now m).lists x ↔ b) : GroupLists (takeMsg s m) m.key x b :=
  (GroupLists.modGroup (fun y => apply_key y s.now m) fun y _ => hm y).settleGroup 3

/-! ### A group told of an event (R298) -/

theorem tellGroup_sent (hy : s.group? m.key = some y) (hwide : y.scope ≠ 2) :
    tellGroup s m = { s with gmsgs := s.gmsgs ++ [m] } := by
  simp [tellGroup, hy, hwide]

theorem tellGroup_taken (hy : s.group? m.key = some y) (hnear : y.scope = 2) : tellGroup s m = takeMsg s m := by
  simp [tellGroup, hy, hnear]

theorem takeMsg_groups (s : State) (m : GroupMsg) : GroupsOnly s (takeMsg s m) :=
  (modGroup_groups ..).trans (settleGroup_groups ..)

theorem modTask_tasks_eq (s : State) (i : Nat) (f : Task → Task) :
    (s.modTask i f).tasks = s.tasks.map fun z => if z.id = i then f z else z := by
  simp [State.modTask]

/-- A group that spans clusters is told by one message; besides, a task has changed. -/
theorem tellGroup_modTask_sent (hy : s.group? m.key = some y) (hwide : y.scope ≠ 2) (i : Nat) (f : Task → Task) :
    let t := (tellGroup s m).modTask i f
    t.gmsgs = s.gmsgs ++ [m] ∧ t.tasks = s.tasks.map (fun z => if z.id = i then f z else z) ∧
      { t with gmsgs := s.gmsgs, tasks := s.tasks } = s := by
  rw [tellGroup_sent hy hwide]
  exact ⟨rfl, modTask_tasks_eq .., rfl⟩

/-- A group of one cluster is told at once. -/
theorem tellGroup_modTask_taken (hy : s.group? m.key = some y) (hnear : y.scope = 2) (i : Nat) (f : Task → Task)
    (hm : ∀ y : GroupState, (y.apply s.now m).lists x ↔ b) :
    let t := (tellGroup s m).modTask i f
    t.tasks = s.tasks.map (fun z => if z.id = i then f z else z) ∧ t.cores = s.cores ∧ t.mem = s.mem ∧ t.gmsgs = s.gmsgs ∧
      GroupLists t m.key x b := by
  have hkept := takeMsg_groups s m
  have htasks := modTask_tasks_eq (takeMsg s m) i f
  rw [tellGroup_taken hy hnear]
  refine ⟨?_, hkept.cores, (congrArg State.mem hkept :), (congrArg State.gmsgs hkept :), takeMsg_lists hm⟩
  rw [htasks, hkept.tasks]

/-! ### The instructions -/

section
variable {g fl ra rb : BitVec 6} {scope : BitVec 3} {v : Word} {k : Task} {l : Launch} {n : Nat}

theorem gleave_none (h : Runs s g [ra]) (hm : memberOf s (s.rd ra) = none) : exec (.gleave g ra) s = trapAt s 14 (s.rd ra) := by
  rw [exec_gleave, execGleave, guarded_ready h, hm]

theorem gbar_none (h : Runs s g [ra]) (ha : MayAccess s) (hm : memberOf s (s.rd ra) = none) :
    exec (.gbar g fl ra scope) s = trapAt s 14 (s.rd ra) := by
  rw [exec_gbar, execGbar, guarded_ready h, memReady_of ha, hm]

theorem gcast_none (h : Runs s g [ra, rb]) (ha : MayAccess s) (hm : memberOf s (s.rd ra) = none) :
    exec (.gcast g fl ra rb) s = trapAt s 14 (s.rd ra) := by
  rw [exec_gcast, execGcast, guarded_ready h, memReady_of ha, hm]

/-- A leave as it is told (R241). -/
def leaveMsg (k : GroupKey) (x : Nat) : GroupMsg := { key := k, task := x, what := 1, flag := 0 }

/-- A join as it is told (R241). -/
def joinMsg (k : GroupKey) (x : Nat) : GroupMsg := { key := k, task := x, what := 2, flag := 0 }

theorem gleave_member (h : Runs s g [ra]) (hm : memberOf s (s.rd ra) = some (k, l, n)) :
    exec (.gleave g ra) s =
      .next ((tellGroup s (leaveMsg (groupKey s l n) k.id)).modTask k.id fun z =>
        { z with grps := z.grps.filter fun x => x != n }) := by
  rw [exec_gleave, execGleave, guarded_ready h, hm]
  rfl

theorem gjoin_runs (h : Runs s g [ra]) (hk : actingTask s = some (k, l)) :
    exec (.gjoin g ra) s =
      if 256 ≤ (s.rd ra).toNat ∨ entLists (l.ent (s.rd ra).toNat) k.index = false then trapAt s 14 (s.rd ra)
      else if k.grps.contains (s.rd ra).toNat then .next s
      else if 4 ≤ k.grps.length then trapAt s 14 (s.rd ra)
      else
        .next ((tellGroup s (joinMsg (groupKey s l (s.rd ra).toNat) k.id)).modTask k.id fun z =>
          { z with grps := z.grps ++ [(s.rd ra).toNat] }) := by
  rw [exec_gjoin, execGjoin, guarded_ready h]
  simp only [hk]
  rfl

end

/-- Settles O37: a group that spans clusters is told by one message (`tellGroup_modTask_sent`), one of a single cluster at once, in
which no completed generation changes who belongs to it (`tellGroup_modTask_taken`). -/
theorem groupMembership : Obligations.GroupMembership := by
  intro s g fl ra rb scope h ha v
  refine ⟨fun hm => ⟨?_, ?_, ?_⟩, fun x l i y hm hy hwide => ?_, fun x l i y hm hy hnear => ?_,
    fun x l hx => ⟨fun hbad => ?_, ?_⟩⟩
  · exact trapsWith_of_trapAt (gbar_none (runs_first h) ha hm)
  · exact trapsWith_of_trapAt (gleave_none (runs_first h) hm)
  · exact trapsWith_of_trapAt (gcast_none h ha hm)
  · exact ⟨_, gleave_member (runs_first h) hm, tellGroup_modTask_sent (m := leaveMsg (groupKey s l i) x.id) hy hwide x.id _⟩
  · obtain ⟨htasks, hcores, hmem, hgmsgs, hleft⟩ := tellGroup_modTask_taken (m := leaveMsg (groupKey s l i) x.id) hy hnear
      x.id (fun z => { z with grps := z.grps.filter fun n => n != i }) fun y => lists_leave y x.id
    exact ⟨_, gleave_member (runs_first h) hm, htasks, hcores, hmem, hgmsgs, fun z hz => not_or.mp (hleft z hz).mp⟩
  · exact trapsWith_of_trapAt ((gjoin_runs (runs_first h) hx).trans (if_pos hbad))
  · intro hsmall hlist
    have hok : ¬(256 ≤ v.toNat ∨ entLists (l.ent v.toNat) x.index = false) :=
      not_or.mpr ⟨Nat.not_le.mpr hsmall, fun hno => Bool.noConfusion (hlist.symm.trans hno)⟩
    have hlisted := (gjoin_runs (runs_first h) hx).trans (if_neg hok)
    have hnew (hout : v.toNat ∉ x.grps) := hlisted.trans (if_neg (mt List.contains_iff_mem.mp hout))
    have hjoins (hout : v.toNat ∉ x.grps) (hfew : x.grps.length < 4) := (hnew hout).trans (if_neg (Nat.not_le.mpr hfew))
    refine ⟨fun hin => ?_, fun hout hfull => ?_, fun hout hfew y hy hwide => ?_, fun hout hfew y hy hnear => ?_⟩
    · exact hlisted.trans (if_pos (List.contains_iff_mem.mpr hin))
    · exact trapsWith_of_trapAt ((hnew hout).trans (if_pos hfull))
    · exact ⟨_, hjoins hout hfew, tellGroup_modTask_sent (m := joinMsg (groupKey s l v.toNat) x.id) hy hwide x.id _⟩
    · obtain ⟨htasks, hcores, hmem, hgmsgs, hin⟩ := tellGroup_modTask_taken (m := joinMsg (groupKey s l v.toNat) x.id) hy hnear
        x.id (fun z => { z with grps := z.grps ++ [v.toNat] }) fun y => lists_join y s.now x.id
      exact ⟨_, hjoins hout hfew, htasks, hcores, hmem, hgmsgs, fun z hz => (hin z hz).mpr trivial⟩

end Sys2Proof.Machine
end

section
/-! PROOFS. Barriers and broadcasts (R240 to R242, R297, R298): an arrival after which the generation waits, one that completes it, and
the flag updates of a broadcast. -/

namespace Sys2Proof.Machine

open Sys2Proof

variable {s u : State} {k : GroupKey} {y : GroupState} {x flag fuel : Nat}

/-! ### The pending generation (R241, R297) -/

theorem localDone_iff (y : GroupState) : y.localDone = true ↔ ∀ m ∈ y.members, ∃ a ∈ y.arrived, a.1 = m := by
  simp [GroupState.localDone]

theorem sendModule_near (h : y.key.domain = false) : sendModule s y = s := by
  simp [sendModule, h]

theorem settleGroup_pending (hy : s.group? k = some y) (hk : k.domain = false) (hwait : y.localDone = false) (fuel : Nat) :
    settleGroup s k fuel = s := by
  have hnear := sendModule_near (s := s) (y := y) (group?_key hy ▸ hk)
  cases fuel with
  | zero => rfl
  | succ fuel => simp [settleGroup, hy, hnear, hwait]

theorem settleGroup_completes (hy : s.group? k = some y) (hk : k.domain = false) (hlive : groupDead s k = false)
    (hdone : y.localDone = true) (harrived : y.arrived ≠ []) :
    settleGroup s k (fuel + 1) = settleGroup (completeGen s y) k fuel := by
  have hkey : y.key.domain = false := group?_key hy ▸ hk
  simp [settleGroup, hy, hlive, sendModule_near hkey, hdone, GroupState.modsDone, hkey, harrived]

theorem group?_completeGen (hy : s.group? k = some y) : (completeGen s y).group? k = some (nextGeneration s.now y) := by
  rw [completeGen_eq, group?_key hy, group?_modGroup (f := nextGeneration s.now) _ _ fun _ => rfl]
  exact congrArg (Option.map _) hy

theorem completeGen_fmsgs (s : State) (y : GroupState) :
    (completeGen s y).fmsgs = s.fmsgs ++ y.arrived.map fun a => flagMsg a.1 a.2 1 y.scope := by
  rw [completeGen_eq]
  rfl

theorem completeGen_kept (s : State) (y : GroupState) :
    { completeGen s y with groups := s.groups, fmsgs := s.fmsgs } = s := by
  rw [completeGen_eq]
  rfl

/-! ### An arrival (R241) -/

/-- An arrival as it is told (R241). -/
def arriveMsg (k : GroupKey) (x flag : Nat) : GroupMsg := { key := k, task := x, what := 0, flag := flag }

/-- A group with one more arrival at its pending generation. -/
def withArrival (y : GroupState) (x flag : Nat) : GroupState := { y with arrived := y.arrived ++ [(x, flag)] }

theorem arrive_pending (h : x ∉ y.joiners) : y.arrive x flag = withArrival y x flag := if_neg (mt List.contains_iff_mem.mp h)

theorem group?_arrived (hy : u.group? k = some y) (hj : x ∉ y.joiners) :
    (recorded u (arriveMsg k x flag)).group? k = some (withArrival y x flag) := by
  rw [← arrive_pending hj]
  exact group?_recorded (m := arriveMsg k x flag) hy

/-- An arrival that leaves the generation pending is recorded, and nothing else changes. -/
theorem takeMsg_arrive_waits (hy : u.group? k = some y) (hk : k.domain = false) (hj : x ∉ y.joiners)
    (hmiss : ∃ m ∈ y.members, m ≠ x ∧ ∀ a ∈ y.arrived, a.1 ≠ m) :
    (takeMsg u (arriveMsg k x flag)).group? k = some (withArrival y x flag) ∧
      { takeMsg u (arriveMsg k x flag) with groups := u.groups } = u := by
  obtain ⟨m, hm, hne, hnone⟩ := hmiss
  have hwait : (withArrival y x flag).localDone = false := by
    refine Bool.eq_false_iff.mpr fun hdone => ?_
    obtain ⟨a, ha, rfl⟩ := (localDone_iff _).mp hdone m hm
    rcases List.mem_append.mp ha with h | h
    · exact hnone a h rfl
    · exact hne (congrArg Prod.fst (List.mem_singleton.mp h))
  have hgroup := group?_arrived (flag := flag) hy hj
  have htake : takeMsg u (arriveMsg k x flag) = recorded u (arriveMsg k x flag) := settleGroup_pending hgroup hk hwait 3
  rw [htake]
  exact ⟨hgroup, rfl⟩

/-- The last arrival completes the generation: the next one begins, with nobody arrived yet. -/
theorem takeMsg_arrive_completes (hy : u.group? k = some y) (hk : k.domain = false) (hx : x ∈ y.members)
    (hall : ∀ m ∈ y.members, m ≠ x → ∃ a ∈ y.arrived, a.1 = m) (hj : y.joiners = []) (hn : y.next = [])
    (hlive : groupDead u k = false) :
    takeMsg u (arriveMsg k x flag) = completeGen (recorded u (arriveMsg k x flag)) (withArrival y x flag) := by
  have hdone : (withArrival y x flag).localDone = true := by
    refine (localDone_iff _).mpr fun m hm => ?_
    by_cases hmx : m = x
    · exact ⟨(x, flag), by simp [withArrival], hmx.symm⟩
    · obtain ⟨a, ha, ham⟩ := hall m hm hmx
      exact ⟨a, List.mem_append_left _ ha, ham⟩
  have hwait : (nextGeneration u.now (withArrival y x flag)).localDone = false := by
    refine Bool.eq_false_iff.mpr fun hdone => ?_
    obtain ⟨a, ha, -⟩ := (localDone_iff _).mp hdone x (List.mem_append_left _ hx)
    have hnone : a ∈ y.next := ha
    simp [hn] at hnone
  have hgroup := group?_arrived (flag := flag) hy (x := x) (by simp [hj])
  exact (settleGroup_completes hgroup hk hlive hdone (by simp [withArrival])).trans
    (settleGroup_pending (group?_completeGen hgroup) hk hwait 2)

/-! ### The instructions -/

section
variable {g fl ra rb : BitVec 6} {scope : BitVec 3} {x : Task} {l : Launch} {n : Nat}

theorem gbar_member (h : Runs s g [ra]) (ha : MayAccess s) (hm : memberOf s (s.rd ra) = some (x, l, n)) :
    exec (.gbar g fl ra scope) s =
      if hasArrived s (groupKey s l n) x.id then hold s
      else
        .next (tellGroup (releaseAt s s.issue.core s.issue.kind (Nat.max scope.toNat (groupExtent s l n)))
          (arriveMsg (groupKey s l n) x.id fl.toNat)) := by
  rw [exec_gbar, execGbar, guarded_ready h, memReady_of ha, hm]
  rfl

theorem send_if (s : State) (b : Bool) (kind : String) (ws : List Word) :
    (if b then s.send kind ws else s) = { s with outbox := s.outbox ++ if b then [⟨kind, ws⟩] else [] } := by
  cases b
  · simp
  · rfl

/-- A group's extent is that of its placement, in every state that has the same groups and tasks (R290). -/
theorem TileTraffic.groupExtent (h : TileTraffic s u) (l : Launch) (n : Nat) : groupExtent u l n = groupExtent s l n := by
  rw [← h]
  rfl

/-- What GCAST leaves of the state in which its release is performed (R242): updates for the members, and, of a domain group, a
message to its peers. -/
def castTo (w : State) (k : GroupKey) (fl : BitVec 6) (z : Word32) (scope : Nat) : State :=
  { sendFlags w ((membersOf w k).map fun m => flagMsg m fl.toNat z scope) with
    outbox := w.outbox ++ if k.domain then [⟨"gcast", [k.xkey.zeroExtend 64, fl.zeroExtend 64, z.zeroExtend 64]⟩] else [] }

theorem gcast_member (h : Runs s g [ra, rb]) (ha : MayAccess s) (hm : memberOf s (s.rd ra) = some (x, l, n)) :
    exec (.gcast g fl ra rb) s =
      .next (castTo (releaseAt s s.issue.core s.issue.kind (groupExtent s l n)) (groupKey s l n) fl
        ((s.rd rb).extractLsb' 0 32) (groupExtent s l n)) := by
  rw [exec_gcast, execGcast, guarded_ready h, memReady_of ha, hm]
  simp only
  rw [foldl_sendFlag (fun m : Nat => m) (fun _ => fl.toNat) _ (scope := fun v => groupExtent v l n) fun _ _ => rfl, send_if,
    (releaseAt_traffic ..).groupExtent]
  rfl

end

/-- Settles O38: an arrival leaves its generation pending or completes it (`takeMsg_arrive_waits`, `takeMsg_arrive_completes`), and a
broadcast is `castTo`. -/
theorem barrierAndBroadcast : Obligations.BarrierAndBroadcast := by
  intro s g fl ra rb scope x l i h ha hm k u w
  have hrun := gbar_member (fl := fl) (scope := scope) (runs_first h) ha hm
  refine ⟨fun hin => hrun.trans (if_pos hin), fun y hnew hy => ?_, ?_⟩
  · have hgo := hrun.trans (if_neg (Bool.eq_false_iff.mp hnew))
    refine ⟨fun hwide => ?_, fun hnear hk hx hj => ?_⟩
    · exact hgo.trans (congrArg _ (tellGroup_sent hy hwide))
    · have htold := hgo.trans (congrArg _ (tellGroup_taken (m := arriveMsg k x.id fl.toNat) hy hnear))
      refine ⟨fun hmiss => ⟨_, htold, takeMsg_arrive_waits hy hk hj hmiss⟩, fun hall hjoin hnext hlive => ?_⟩
      have hdone := takeMsg_arrive_completes (flag := fl.toNat) hy hk hx hall hjoin hnext hlive
      have hgroup := group?_completeGen (group?_arrived (flag := fl.toNat) hy hj)
      have hscope : (withArrival y x.id fl.toNat).scope = 2 := hnear
      have hsent := completeGen_fmsgs (recorded u (arriveMsg k x.id fl.toNat)) (withArrival y x.id fl.toNat)
      rw [hdone] at htold
      rw [hscope] at hsent
      have hmembers : y.members ++ y.joiners = y.members := by rw [hjoin, List.append_nil]
      exact ⟨_, _, htold, hgroup, rfl, hnext, hmembers, hsent,
        congrArg (fun t : State => { t with groups := u.groups }) (completeGen_kept ..)⟩
  · exact ⟨_, gcast_member h ha hm, rfl, rfl, rfl⟩

end Sys2Proof.Machine
end

section
/-! PROOFS. Pre-emption and the host (R244 to R246, R380): what PRACK makes of its task, and the record that HOSTIRQ writes. -/

namespace Sys2Proof.Machine

open Sys2Proof

variable {s u : State} {g rd ra vec : BitVec 6} {ctx : BitVec 12} {c : Context}

/-! ### PRACK (R245) -/

/-- A task asked to stop at a cut, where there is one. -/
def stopAtCut (s : State) : Option Nat → State
  | none => s
  | some i => s.modTask i fun x => { x with st := .stopping, why := 1 }

theorem stopAtCut_tasks_only (s : State) (o : Option Nat) : { stopAtCut s o with tasks := s.tasks } = s := by
  cases o <;> rfl

theorem stopAtCut_tasks (s : State) (o : Option Nat) :
    (stopAtCut s o).tasks = s.tasks.map fun x => if o = some x.id then { x with st := .stopping, why := 1 } else x := by
  cases o with
  | none => simp [stopAtCut]
  | some i =>
    rw [stopAtCut, modTask_tasks_eq]
    simp only [Option.some.injEq, eq_comm]

theorem prack_idle (h : Runs s g [rd, ra]) (hp : s.issue.pre.preqPend = false) : exec (.prack g rd ra) s = .next (s.wr rd 0) := by
  rw [exec_prack, execPrack, guarded_ready h, hp]
  rfl

theorem prack_requested (h : Runs s g [rd, ra]) (hp : s.issue.pre.preqPend = true) :
    exec (.prack g rd ra) s =
      .next (stopAtCut ((s.wr rd 1).modLive fun c => { c with afileDead := (s.rd ra).getLsbD 0 }) s.live.task) := by
  rw [exec_prack, execPrack, guarded_ready h, hp]
  cases htask : s.live.task <;> rfl

/-! ### Writes beside the contexts -/

/-- The state with other contexts. -/
def withCtxs (cs : List Context) (s : State) : State := { s with ctxs := cs }

variable (cs : List Context)

theorem writeGranule_withCtxs (z : Bool) (s : State) (pa : Nat) (bs : List Byte) (g : Nat) :
    writeGranule z (withCtxs cs s) pa bs g = (writeGranule z s pa bs g).map (withCtxs cs) id := by
  simp only [writeGranule, apply_ite (Prod.map (withCtxs cs) id)]
  rfl

/-- One granule's part of a write behind those of the granules before it (R349). -/
def writePart (z : Bool) (pa : Nat) (bs : List Byte) (a : State × Option Nat) (g : Nat) : State × Option Nat :=
  ((writeGranule z a.1 pa bs g).1, a.2.or (writeGranule z a.1 pa bs g).2)

theorem writeHome_eq (z : Bool) (s : State) (pa : Nat) (bs : List Byte) :
    writeHome z s pa bs =
      if s.poison.isEmpty then (writeClean z s pa bs, none) else (granules pa bs.length).foldl (writePart z pa bs) (s, none) := rfl

theorem writePart_withCtxs (z : Bool) (pa : Nat) (bs : List Byte) (a : State × Option Nat) (g : Nat) :
    writePart z pa bs (a.map (withCtxs cs) id) g = (writePart z pa bs a g).map (withCtxs cs) id := by
  rw [writePart, Prod.map_fst, writeGranule_withCtxs]
  rfl

theorem writeHome_withCtxs (z : Bool) (s : State) (pa : Nat) (bs : List Byte) :
    writeHome z (withCtxs cs s) pa bs = (writeHome z s pa bs).map (withCtxs cs) id := by
  have hparts : (granules pa bs.length).foldl (writePart z pa bs) (withCtxs cs s, none) =
      Prod.map (withCtxs cs) id ((granules pa bs.length).foldl (writePart z pa bs) (s, none)) :=
    List.foldl_hom (Prod.map (withCtxs cs) id) (init := (s, none)) fun a g => writePart_withCtxs cs z pa bs a g
  simp only [writeHome_eq, hparts, apply_ite (Prod.map (withCtxs cs) id)]
  rfl

theorem copyGranule_withCtxs (z : Bool) (s : State) (a b : Nat) :
    copyGranule z (withCtxs cs s) a b = withCtxs cs (copyGranule z s a b) := by
  simp only [copyGranule, writeHome_withCtxs, apply_ite (withCtxs cs)]
  rfl

theorem copyTouched_withCtxs (z : Bool) (s : State) (a b pa n : Nat) :
    copyTouched z (withCtxs cs s) a b pa n = withCtxs cs (copyTouched z s a b pa n) := by
  have hline (t : State) (a b : Nat) : copyLine z (withCtxs cs t) a b = withCtxs cs (copyLine z t a b) :=
    List.foldl_hom (withCtxs cs) fun _ _ => copyGranule_withCtxs ..
  refine List.foldl_hom (withCtxs cs) fun t i => ?_
  simp only [hline, apply_ite (withCtxs cs)]

theorem mirrorWrite_withCtxs (z : Bool) (pa : Nat) (bs : List Byte) (a : State × List PageMove) (m : PageMove) :
    mirrorWrite z pa bs (a.map (withCtxs cs) id) m = (mirrorWrite z pa bs a m).map (withCtxs cs) id := by
  simp only [mirrorWrite, Prod.map_fst, copyTouched_withCtxs, apply_ite (Prod.map (withCtxs cs) id)]
  rfl

/-- A write to physical memory neither reads nor changes the contexts. -/
theorem writePhys_withCtxs (z : Bool) (s : State) (pa : Nat) (bs : List Byte) :
    writePhys z (withCtxs cs s) pa bs = (writePhys z s pa bs).map (withCtxs cs) id := by
  have hmoves : s.moves.foldl (mirrorWrite z pa bs) (withCtxs cs (writeHome z s pa bs).1, []) =
      Prod.map (withCtxs cs) id (s.moves.foldl (mirrorWrite z pa bs) ((writeHome z s pa bs).1, [])) :=
    List.foldl_hom (Prod.map (withCtxs cs) id) (init := ((writeHome z s pa bs).1, [])) fun a m =>
      mirrorWrite_withCtxs cs z pa bs a m
  have hsame : (withCtxs cs s).moves = s.moves := rfl
  simp only [writePhys, writeHome_withCtxs, Prod.map_fst, hsame, hmoves, apply_ite (Prod.map (withCtxs cs) id)]
  rfl

/-! ### HOSTIRQ (R246, R380) -/

theorem hostirq_waits (h : Runs s g [ra]) (ha : MayAccess s) (hn : noteReady s s.live.ctx = false) :
    exec (.hostirq g ra vec) s = hold s := by
  rw [exec_hostirq, execHostirq, guarded_ready h, memReady_of ha, hn]
  rfl

theorem hostirq_posts (h : Runs s g [ra]) (ha : MayAccess s) (hn : noteReady s s.live.ctx = true) :
    exec (.hostirq g ra vec) s =
      .next (postNote (releaseAt s s.issue.core s.issue.kind 7) s.live.ctx (vec.toNat + 1) 2 vec.toNat (s.rd ra)
        (strandId s s.issue.core s.issue.kind)) := by
  rw [exec_hostirq, execHostirq, guarded_ready h, memReady_of ha, hn]
  rfl

theorem postNote_none (hc : u.ctx? ctx = none) (v kind sub : Nat) (a b : Word) : postNote u ctx v kind sub a b = u := by
  simp [postNote, hc]

/-- The words of a notification (R380). -/
def noteWords (u : State) (ctx : BitVec 12) (kind sub : Nat) (a b : Word) : List Word :=
  [BitVec.ofNat 64 (kind * 2 ^ 56 + sub % 256 * 2 ^ 48 + ctx.toNat), a, b, u.counter]

/-- The address at which a context's next notification stands (R380). -/
def noteAddr (c : Context) : Nat := c.nq + 32 * (c.nqwrite.toNat % c.nqsize)

theorem postNote_live (hc : u.ctx? ctx = some c) (v kind sub : Nat) (a b : Word) :
    postNote u ctx v kind sub a b =
      drainNotes ctx (c.noteq.length + 1)
        (u.modCtx ctx fun c => { c with noteq := c.noteq ++ [(v, noteWords u ctx kind sub a b)] }) := by
  simp only [postNote, hc]
  rfl

theorem drainNotes_single {v : Nat} {ws : List Word} (hc : u.ctx? ctx = some c) (hq : c.noteq = [(v, ws)])
    (hroom : c.noteRoom = true) :
    drainNotes ctx 1 u = writeNote (u.modCtx ctx fun c => { c with noteq := [] }) c v ws := by
  simp only [drainNotes, hc, hq, hroom, if_true]

/-- A record that the ring takes at once is written in a state in which the context pends no other. -/
theorem postNote_room (hc : u.ctx? ctx = some c) (hq : c.noteq = []) (hroom : c.noteRoom = true) {v kind sub : Nat} {a b : Word}
    {ws : List Word} (hws : noteWords u ctx kind sub a b = ws) :
    ∃ cs, (withCtxs cs u).ctx? ctx = some c ∧
      postNote u ctx v kind sub a b = writeNote (withCtxs cs u) { c with noteq := [(v, ws)] } v ws := by
  have hposted := ctx?_modCtx_same (f := fun c => { c with noteq := c.noteq ++ [(v, ws)] }) (fun _ => rfl) hc
  have htaken := ctx?_modCtx_same (f := fun c => { c with noteq := [] }) (fun _ => rfl) hposted
  rw [hq, List.nil_append] at hposted
  refine ⟨_, htaken.trans (by rw [← hq]), ?_⟩
  rw [postNote_live hc, hq, hws]
  exact drainNotes_single hposted rfl hroom

theorem writeNote_written {ws : List Word} {v : Nat} (hw : (sysWrite u (noteAddr c) ws).2 = none) (hv : v ≠ 0) :
    writeNote u c v ws =
      ((sysWrite u (noteAddr c) ws).1.modCtx c.id fun c => { c with nqwrite := c.nqwrite + 1 }).send "msix"
        [BitVec.ofNat 64 (v - 1)] := by
  rw [noteAddr] at hw
  simp only [writeNote, hw, if_neg hv, noteAddr]

/-- A record that the ring takes at once stands at its write index, which rises, and the message of its vector is sent (R380). -/
theorem postNote_writes (hc : u.ctx? ctx = some c) (hq : c.noteq = []) (hroom : c.noteRoom = true) {v : Nat} (hv : v ≠ 0)
    {kind sub : Nat} {a b : Word} {ws : List Word} (hws : noteWords u ctx kind sub a b = ws)
    (hw : (sysWrite u (noteAddr c) ws).2 = none) :
    let t := postNote u ctx v kind sub a b
    t.ctx? ctx = some { c with nqwrite := c.nqwrite + 1 } ∧ t.mem = (sysWrite u (noteAddr c) ws).1.mem ∧ t.cores = u.cores ∧
      t.outbox = u.outbox ++ [⟨"msix", [BitVec.ofNat 64 (v - 1)]⟩] := by
  obtain ⟨cs, hctx, hpost⟩ := postNote_room (v := v) hc hq hroom hws
  obtain rfl : c.id = ctx := by simpa using List.find?_some hc
  have hsys : sysWrite (withCtxs cs u) (noteAddr c) ws = (sysWrite u (noteAddr c) ws).map (withCtxs cs) id :=
    writePhys_withCtxs ..
  have hmemory : MemoryOnly u (sysWrite u (noteAddr c) ws).1 := writePhys_memoryOnly ..
  have hnote := writeNote_written (u := withCtxs cs u) (c := { c with noteq := [(v, ws)] }) (ws := ws)
    ((congrArg Prod.snd hsys).trans hw) hv
  rw [show noteAddr { c with noteq := [(v, ws)] } = noteAddr c from rfl, hsys, Prod.map_fst] at hnote
  generalize (sysWrite u (noteAddr c) ws).1 = r at hnote hmemory ⊢
  have houtbox : r.outbox = u.outbox := (congrArg State.outbox hmemory :)
  rw [hpost, hnote]
  refine ⟨?_, rfl, hmemory.cores, ?_⟩
  · exact ctx?_modCtx_same (s := withCtxs cs r) (fun _ => rfl) hctx
  · rw [← houtbox]
    rfl

/-- Settles O39: PRACK answers and asks its task to stop (`prack_requested`); HOSTIRQ is held or posts its record
(`postNote_writes`). -/
theorem preemptionAndHost : Obligations.PreemptionAndHost := by
  intro s g rd ra vec h ha
  have hra : Runs s g [ra] := ⟨h.1, fun n hn => h.2 n (List.mem_cons_of_mem _ hn)⟩
  refine ⟨fun hp => ⟨_, prack_idle h hp, wr_written ..⟩, fun hp => ?_, fun hn => hostirq_waits hra ha hn, fun hn => ?_⟩
  · obtain ⟨⟨⟨-, hcores⟩, -⟩, -⟩ := wr_written s rd 1
    let u := s.wr rd 1
    let v := u.modLive fun c => { c with afileDead := (s.rd ra).getLsbD 0 }
    have hkept : { stopAtCut v s.live.task with tasks := v.tasks } = v := stopAtCut_tasks_only ..
    refine ⟨u, _, prack_requested h hp, wr_written .., ?_, ?_, fun n hn => ?_, stopAtCut_tasks ..⟩
    · exact congrArg (fun t : State => { t with cores := u.cores, tasks := u.tasks }) hkept
    · exact (congrArg State.live hkept :).trans (live_setCore ..)
    · exact (congrArg (fun t : State => t.core n) hkept :).trans ((core_setCore_other _ _ _ _ hn).trans (hcores n hn))
  · intro u ws
    have hpost := hostirq_posts (vec := vec) hra ha hn
    refine ⟨fun hc => ?_, fun c hc hq hroom => ?_⟩
    · rw [hpost, postNote_none hc]
    · intro r hw
      have hwords : noteWords u s.live.ctx 2 vec.toNat (s.rd ra) (strandId s s.issue.core s.issue.kind) = ws := by
        rw [noteWords, Nat.mod_eq_of_lt (by omega)]
      have hvec : BitVec.ofNat 64 (vec.toNat + 1 - 1) = vec.zeroExtend 64 := BitVec.eq_of_toNat_eq (by simp)
      have hwrites := postNote_writes hc hq hroom (Nat.succ_ne_zero vec.toNat) hwords hw
      rw [Nat.succ_eq_add_one, hvec] at hwrites
      exact ⟨_, hpost, hwrites⟩

end Sys2Proof.Machine
end

section
/-! PROOFS. What reset leaves (R295, R308, R323, R333, R370; 18_package_memory.md): every reading of the state of reset is that of an
entry nobody wrote. -/

namespace Sys2Proof.Machine

open Sys2Proof

/-! ### What reset leaves -/

theorem core_reset (n : Nat) : State.reset.core n = {} := rfl

theorem strand_fresh (k : Kind) : Core.strand {} k = {} := by cases k <;> rfl

/-- A register of a fresh strand reads 0, s0 by its name and every other for want of a value. -/
theorem reg_fresh (r : BitVec 6) : Strand.reg {} r = 0 := by
  unfold Strand.reg
  split <;> rfl

/-- A predicate of a fresh strand other than p0 is false. -/
theorem pred_fresh {p : BitVec 6} (hp : p ≠ 0) : Strand.pred {} p = false := by
  rw [Strand.pred, if_neg hp]
  exact BitVec.getLsbD_zero

theorem strand_reset (n : Nat) (k : Kind) :
    ((State.reset.core n).strand k).mode = .idle ∧ ((State.reset.core n).strand k).pc = 0 ∧
      ∀ r p, ((State.reset.core n).strand k).reg r = 0 ∧ (p ≠ 0 → ((State.reset.core n).strand k).pred p = false) := by
  rw [core_reset, strand_fresh]
  exact ⟨rfl, rfl, fun r _ => ⟨reg_fresh r, pred_fresh⟩⟩

/-- A cell of an empty accumulator file is made of bits of zero words. -/
theorem accBits_fresh (row bit w : Nat) : accBits [] row bit w = 0 := by
  simp [accBits, tget, bitsAt]

/-- Settles O15: the state of reset holds no table entry, so each reading is that of an entry nobody wrote. -/
theorem resetState : Obligations.ResetState :=
  ⟨rfl, rfl, rfl, rfl, rfl, rfl, strand_reset, fun _ => accBits_fresh, fun _ _ => ⟨rfl, rfl, rfl⟩, fun _ => ⟨rfl, rfl⟩,
    fun _ => rfl, rfl, fun _ => rfl⟩

/-- Settles O16: memory is empty after reset (`reset_mem`), and the empty list rises and lists no byte. -/
theorem invReset : Obligations.InvReset := by
  rw [Obligations.InvReset, Inv, reset_mem]
  rfl

end Sys2Proof.Machine
end

section
/-! PROOFS. Memory in its canonical form: the outcomes of issue, scalar instructions, fences and scalar accesses. -/

namespace Sys2Proof.Machine

open Sys2Proof

variable {s t u : State}

/-! ### Outcomes -/

/-- An outcome whose next state, if there is one, has memory in its canonical form. -/
def OutInv (o : Out) : Prop := ∀ t, o = .next t → Inv t

theorem outInv_next (h : Inv s) : OutInv (.next s) := fun _ e => by cases e; exact h

theorem outInv_fault (f : Fault) : OutInv (.fault f) := fun _ e => by cases e

theorem outInv_refused (r : Refusal) : OutInv (.refused r) := fun _ e => by cases e

/-- An outcome that is a next state with the memory there was. -/
theorem outInv_of_mem (h : Inv s) (e : t.mem = s.mem) : OutInv (.next t) := outInv_next (inv_of_mem h e)

/-- A choice between two states. -/
theorem inv_ite {c : Prop} [Decidable c] (ht : Inv t) (hu : Inv u) : Inv (if c then t else u) := by
  split
  · exact ht
  · exact hu

theorem outInv_ite {c : Prop} [Decidable c] {o p : Out} (ho : OutInv o) (hp : OutInv p) : OutInv (if c then o else p) := by
  split
  · exact ho
  · exact hp

theorem mem_ite {c : Prop} [Decidable c] (ht : t.mem = s.mem) (hu : u.mem = s.mem) : (if c then t else u).mem = s.mem := by
  split
  · exact ht
  · exact hu

/-! ### Waits, traps and faults at issue -/

@[simp] theorem strandFault_mem (s : State) (n : Nat) (k : Kind) (code reason : Nat) (pc val fqw : Word) :
    (s.strandFault n k code reason pc val fqw).mem = s.mem := rfl

@[simp] theorem strandData_mem (s : State) (n : Nat) (k : Kind) (pc : Word) (pa : Nat) :
    (s.strandData n k pc pa).mem = s.mem := dataFault_mem ..

@[simp] theorem trapEntryVia_mem (vec : Word) (s : State) (n : Nat) (k : Kind) (code : Nat) (tval epcv base : Word)
    (word : Nat) (post : Bool) : (trapEntryVia vec s n k code tval epcv base word post).mem = s.mem := by
  simp only [trapEntryVia]
  split_ifs <;> rfl

theorem hold_inv (h : Inv s) : OutInv (hold s) := outInv_next h

theorem guarded_inv {g : BitVec 6} {f : State → Out} (h : Inv s) (hf : OutInv (f s)) : OutInv (guarded g s f) :=
  outInv_ite hf (outInv_next h)

theorem ready_inv {ns : List (BitVec 6)} {o : Out} (h : Inv s) (ho : OutInv o) : OutInv (ready s ns o) :=
  outInv_ite (hold_inv h) ho

theorem memReady_inv {o : Out} (h : Inv s) (ho : OutInv o) : OutInv (memReady s o) := outInv_ite (hold_inv h) ho

theorem releasing_inv {b : Bool} {o : Out} (h : Inv s) (ho : OutInv o) : OutInv (releasing s b o) := outInv_ite (hold_inv h) ho

theorem trapAt_inv (code : Nat) (tval : Word) (h : Inv s) : OutInv (trapAt s code tval) :=
  outInv_of_mem h (trapEntry_mem ..)

theorem illegalAt_inv (i : Instr) (h : Inv s) : OutInv (illegalAt s i) := trapAt_inv _ _ h

theorem faultAt_inv (code reason : Nat) (val fqw : Word) (h : Inv s) : OutInv (faultAt s code reason val fqw) := outInv_next h

theorem walkErrorAt_inv (va : Word) (h : Inv s) : OutInv (walkErrorAt s va) := outInv_next h

theorem dataAt_inv (pa : Nat) (h : Inv s) : OutInv (dataAt s pa) := outInv_of_mem h (strandData_mem ..)

/-- An access whose address is good goes on; a bad one traps or stops its strand (R155, R285). -/
theorem strandTranslate_inv {va : Word} {acc : Access} {f : Nat → Word → Out} (h : Inv s) (hf : ∀ pa leaf, OutInv (f pa leaf)) :
    OutInv (strandTranslate s va acc f) := by
  unfold strandTranslate
  split
  · exact hf _ _
  · exact trapAt_inv _ _ h
  · exact trapAt_inv _ _ h
  · exact trapAt_inv _ _ h
  · exact walkErrorAt_inv _ h
  · exact walkErrorAt_inv _ h

theorem pageRead_inv {pa n : Nat} {f : List Byte → Out} (h : Inv s) (hf : ∀ bs, OutInv (f bs)) : OutInv (pageRead s pa n f) := by
  unfold pageRead
  split
  · exact dataAt_inv _ h
  · exact hf _

theorem mapStop_inv {va : Word} {o : Out} (h : Inv s) (e : mapStop s va = some o) : OutInv o := by
  unfold mapStop at e
  split at e <;> cases e
  · exact trapAt_inv _ _ h
  · exact trapAt_inv _ _ h
  · exact walkErrorAt_inv _ h
  · exact walkErrorAt_inv _ h

/-- A read at issue, of one page or two (R153). -/
theorem strandRead_inv {va : Word} {n : Nat} {f : List Byte → Out} (h : Inv s) (hf : ∀ bs, OutInv (f bs)) :
    OutInv (strandRead s va n f) := by
  simp only [strandRead]
  split
  · exact strandTranslate_inv h fun _ _ => pageRead_inv h hf
  · split
    · next o e =>
      rcases Option.or_eq_some_iff.mp e with e | ⟨-, e⟩
      · exact mapStop_inv h e
      · exact mapStop_inv h e
    · exact strandTranslate_inv h fun _ _ => strandTranslate_inv h fun _ _ =>
        pageRead_inv h fun _ => pageRead_inv h fun _ => hf _

/-! ### Scalar instructions and control transfers -/

theorem aluRR_inv (g rd ra rb : BitVec 6) (f : Word → Word → Word) (h : Inv s) : OutInv (aluRR g rd ra rb f s) :=
  guarded_inv h (ready_inv h (outInv_of_mem h rfl))

theorem aluR_inv (g rd ra : BitVec 6) (f : Word → Word) (h : Inv s) : OutInv (aluR g rd ra f s) :=
  guarded_inv h (ready_inv h (outInv_of_mem h rfl))

theorem cmpRR_inv (g pd ra rb : BitVec 6) (f : Word → Word → Bool) (h : Inv s) : OutInv (cmpRR g pd ra rb f s) :=
  guarded_inv h (ready_inv h (outInv_of_mem h rfl))

theorem cmpR_inv (g pd ra : BitVec 6) (f : Word → Bool) (h : Inv s) : OutInv (cmpR g pd ra f s) :=
  guarded_inv h (ready_inv h (outInv_of_mem h rfl))

theorem predOp_inv (g pd : BitVec 6) (b : State → Bool) (h : Inv s) : OutInv (predOp g pd b s) :=
  guarded_inv h (outInv_of_mem h rfl)

@[simp] theorem unplace_mem (s : State) (t : Task) : (unplace s t).mem = s.mem := by
  unfold unplace
  split <;> rfl

@[simp] theorem stopContext_mem (s : State) (ctx : BitVec 12) (why : Nat) : (stopContext s ctx why).mem = s.mem :=
  foldl_mem _ unplace_mem _ _

theorem execBrk_inv (g : BitVec 6) (code : BitVec 12) (h : Inv s) : OutInv (execBrk g code s) :=
  guarded_inv h (outInv_ite (outInv_of_mem h (stopContext_mem ..)) (trapAt_inv _ _ h))

theorem execTrap_inv (g : BitVec 6) (code : BitVec 12) (h : Inv s) : OutInv (execTrap g code s) :=
  guarded_inv h (outInv_of_mem h (trapEntryVia_mem ..))

theorem execEret_inv (g : BitVec 6) (h : Inv s) : OutInv (execEret g s) :=
  guarded_inv h (outInv_ite (outInv_of_mem h rfl) (illegalAt_inv _ h))

theorem transferTo_inv {x : Word} {f : State → State} (h : Inv s) (hf : (f s).mem = s.mem) : OutInv (transferTo s x f) :=
  outInv_ite (trapAt_inv _ _ h) (outInv_ite (trapAt_inv _ _ h) (outInv_of_mem h hf))

@[simp] theorem leaveFor_mem (x : Word) (s : State) : (leaveFor x s).mem = s.mem := mem_ite rfl rfl

theorem enterLoop_inv (n : Nat) (stg : Option (BitVec 4)) (blen : BitVec 24) (h : Inv s) : OutInv (enterLoop s n stg blen) := by
  refine outInv_ite (outInv_of_mem h rfl) (outInv_ite (trapAt_inv _ _ h) ?_)
  split <;> exact outInv_of_mem h rfl

/-! ### Registers of R12 -/

theorem csrWrite_mem {n : Nat} {x : Word} (e : csrWrite s n x = some t) : t.mem = s.mem := by
  unfold csrWrite at e
  split_ifs at e
  · cases e; rfl
  · cases e; rfl
  · split at e <;> cases e
    rfl

theorem csrUpdate_inv (i : Instr) (n : BitVec 12) (x : Word) (h : Inv s) : OutInv (csrUpdate s i n x) := by
  unfold csrUpdate
  split
  · exact illegalAt_inv _ h
  · next e => exact outInv_of_mem h (csrWrite_mem e)

theorem stickyReady_inv {n : BitVec 12} {o : Out} (h : Inv s) (ho : OutInv o) : OutInv (stickyReady s n o) :=
  outInv_ite (hold_inv h) ho

/-! ### Queues, flags and fences -/

theorem execFpush_inv (g ra : BitVec 6) (h : Inv s) : OutInv (execFpush g ra s) :=
  guarded_inv h (ready_inv h (outInv_ite (hold_inv h) (outInv_ite (illegalAt_inv _ h) (outInv_of_mem h rfl))))

theorem execQmovPush_inv (g : BitVec 6) (cmask : BitVec 4) (lane : BitVec 2) (ra : BitVec 6) (h : Inv s) :
    OutInv (execQmovPush g cmask lane ra s) :=
  guarded_inv h (ready_inv h (outInv_ite (outInv_of_mem h rfl) (hold_inv h)))

theorem execQmovPop_inv (g rd : BitVec 6) (prod lane : BitVec 2) (h : Inv s) :     OutInv (execQmovPop g rd prod lane s) := by
  refine guarded_inv h (ready_inv h ?_)
  extract_lets k
  split
  · exact hold_inv h
  · exact outInv_of_mem h rfl

theorem execQpeek_inv (g rd : BitVec 6) (prod lane : BitVec 2) (h : Inv s) : OutInv (execQpeek g rd prod lane s) := by
  refine guarded_inv h (ready_inv h ?_)
  split
  · exact hold_inv h
  · exact outInv_of_mem h rfl

theorem flagOp_inv {scope : BitVec 3} {ord : BitVec 2} {f : State → State} (h : Inv s) (hf : ∀ t, (f t).mem = t.mem) :
    OutInv (flagOp s scope ord f) := by
  have h1 : Inv (if ordRelease ord then releaseAt s s.issue.core s.issue.kind scope.toNat else s) :=
    inv_ite (releaseAt_inv _ _ _ h) h
  have h2 := inv_of_mem h1 (hf _)
  exact releasing_inv h (outInv_next (inv_ite (inv_of_mem h2 (acquireAt_mem ..)) h2))

@[simp] theorem dropHallTiles_mem (s : State) (cl : Nat) : (dropHallTiles s cl).mem = s.mem := rfl

@[simp] theorem dropStale_mem (s : State) (n scope : Nat) : (dropStale s n scope).mem = s.mem := by
  unfold dropStale
  refine (foldl_mem _ (fun t cl => ?_) _ _).trans rfl
  exact mem_ite rfl rfl

theorem pathSAt_inv (n : Nat) (k : Kind) (scope : Nat) (h : Inv s) : Inv (pathSAt s n k scope) :=
  inv_ite (inv_of_mem (finishLoads_inv n k h) rfl) (flushStores_inv _ _ (finishLoads_inv n k h))

theorem crossTiles_inv (n : Nat) (scope : Nat) (toS : Bool) (h : Inv s) : Inv (crossTiles s n scope toS) := by
  have h1 := performPubs_inv n h
  have h2 := drainAlcove_inv n (fun _ => true) h1
  exact inv_ite h1 (inv_ite h2 (drainHall_inv _ _ h2))

theorem fenceOwn_inv (n : Nat) (k : Kind) (m : BitVec 5) (scope : Nat) (h : Inv s) : Inv (fenceOwn s n k m scope) := by
  have h1 := inv_ite (c := onPath m 0 = true) (flushStores_inv n (fun t => t.strand == k) h) h
  have h2 := inv_ite (c := onPath m 1 = true) (crossTiles_inv n scope (onPath m 0 || onPath m 3 || onPath m 4) h1) h1
  exact inv_of_mem h2 (dropStale_mem ..)

theorem fenceEffect_inv (n : Nat) (k : Kind) (m : BitVec 5) (scope : Nat) (h : Inv s) : Inv (fenceEffect s n k m scope) := by
  have h1 : Inv (if onPath m 0 then emptyScache (pathSAt s n k scope) n else s) :=
    inv_ite (inv_of_mem (pathSAt_inv n k scope h) rfl) h
  have h2 := inv_ite (c := onPath m 1 = true) (tilesAt_inv n k scope h1) h1
  exact inv_ite h2 (fenceOwn_inv _ _ _ _ h2)

theorem execFence_inv (g : BitVec 6) (paths : BitVec 5) (scope : BitVec 3) (h : Inv s) : OutInv (execFence g paths scope s) :=
  guarded_inv h (outInv_ite (hold_inv h) (outInv_next (fenceEffect_inv _ _ _ _ h)))

theorem fencexEffect_inv (n : Nat) (k : Kind) (x y : BitVec 5) (scope : Nat) (h : Inv s) : Inv (fencexEffect s n k x y scope) := by
  have hloads := finishLoads_inv n (if k = .a then .c else .a) (finishLoads_inv n k h)
  unfold fencexEffect
  extract_lets t s1 s2 s3 s4 s5
  have h1 : Inv s1 := inv_ite (inv_ite (inv_of_mem hloads rfl) (flushStores_inv _ _ hloads)) h
  have h2 : Inv s2 := inv_ite (flushStores_inv _ _ h1) h1
  have h3 : Inv s3 := inv_ite (crossTiles_inv _ _ _ h2) h2
  have h4 : Inv s4 := inv_ite (inv_of_mem h3 rfl) h3
  have h5 : Inv s5 := inv_ite (inv_of_mem h4 (dropStale_mem ..)) h4
  exact inv_of_mem h5 rfl

theorem execFencex_inv (g : BitVec 6) (frm dst : BitVec 5) (scope : BitVec 3) (h : Inv s) : OutInv (execFencex g frm dst scope s) :=
  guarded_inv h (outInv_ite (hold_inv h) (outInv_next (fencexEffect_inv _ _ _ _ _ h)))

@[simp] theorem icsyncAt_mem (s : State) (n : Nat) (k : Kind) (scope : Nat) : (icsyncAt s n k scope).mem = s.mem := mem_ite rfl rfl

theorem execIcsync_inv (g : BitVec 6) (scope : BitVec 3) (h : Inv s) : OutInv (execIcsync g scope s) :=
  guarded_inv h (outInv_ite (hold_inv h)
    (outInv_of_mem (flushStores_inv _ _ (fenceEffect_inv _ _ _ _ h)) (icsyncAt_mem ..)))

/-! ### Scalar accesses -/

theorem scalarAccess_inv {ea : Word} {size : Nat} {acc : Access} {f : Nat → Word → Out} (h : Inv s)
    (hf : ∀ pa leaf, OutInv (f pa leaf)) : OutInv (scalarAccess s ea size acc f) :=
  outInv_ite (trapAt_inv _ _ h) (strandTranslate_inv h hf)

@[simp] theorem pendReg_mem (s : State) (p : Nat) : (s.pendReg p).mem = s.mem := mem_ite rfl rfl

theorem loadReg_inv (g rd ra : BitVec 6) (off : BitVec 32) (size : Nat) (signed : Bool) (h : Inv s) :
    OutInv (loadReg g rd ra off size signed s) :=
  guarded_inv h (ready_inv h (scalarAccess_inv h fun _ _ => outInv_of_mem h (pendReg_mem ..)))

theorem storeReg_inv (g ra rs : BitVec 6) (off : BitVec 32) (size : Nat) (h : Inv s) : OutInv (storeReg g ra rs off size s) :=
  guarded_inv h (ready_inv h (scalarAccess_inv h fun _ _ => outInv_of_mem h rfl))

theorem loadLanes_inv (g : BitVec 6) (cmask : BitVec 4) (lane : BitVec 2) (ra : BitVec 6) (zx : BitVec 1) (off : BitVec 24)
    (size : Nat) (remote : Bool) (acq : Option Nat) (h : Inv s) :
    OutInv (loadLanes g cmask lane ra zx off size remote acq s) :=
  guarded_inv h (ready_inv h (outInv_ite (hold_inv h)
    (scalarAccess_inv (inv_of_mem h rfl) fun _ _ => outInv_of_mem h rfl)))

theorem atomicOp_inv (g rd ra rb : BitVec 6) (w : BitVec 1) (scope : BitVec 3) (ord : BitVec 2) (op : Nat) (unsigned : Bool)
    (cmp : BitVec 6) (h : Inv s) : OutInv (atomicOp g rd ra rb w scope ord op unsigned cmp s) := by
  have h1 : Inv (if ordRelease ord then releaseAt s s.issue.core s.issue.kind scope.toNat else s) :=
    inv_ite (releaseAt_inv _ _ _ h) h
  exact guarded_inv h (ready_inv h (scalarAccess_inv h fun _ _ =>
    outInv_ite (trapAt_inv _ _ h) (outInv_of_mem h1 (pendReg_mem ..))))

end Sys2Proof.Machine
end

section
/-! PROOFS. Memory in its canonical form: vectors, layouts, tile hints, the M strand, groups and flags. -/

namespace Sys2Proof.Machine

open Sys2Proof

variable {s t u : State}

/-- A fold over pairs, of whose first parts each step keeps the form. -/
theorem inv_foldl_fst {α β : Type} (f : State × β → α → State × β) (hf : ∀ a x, Inv a.1 → Inv (f a x).1) (xs : List α)
    (a : State × β) (h : Inv a.1) : Inv (xs.foldl f a).1 := by
  induction xs generalizing a with
  | nil => exact h
  | cons x xs ih => exact ih _ (hf _ _ h)

/-! ### The V strand -/

theorem vecIssue_inv {regs : List (BitVec 6)} {reads writes : List (Nat × Nat × Nat)} {xs : List AccWrite} {f : BitVec 7}
    {dst : Option (BitVec 6 × Word)} (h : Inv s) : OutInv (vecIssue s regs reads writes xs f dst) := by
  refine ready_inv h (outInv_ite (hold_inv h) ?_)
  extract_lets reg t u
  have hu : u.mem = s.mem := by
    unfold u
    clear_value reg
    split <;> rfl
  exact outInv_of_mem h hu

theorem execVectorComplete_inv (core idx : Nat) (h : Inv s) : OutInv (execVectorComplete core idx s) := by
  unfold execVectorComplete
  split
  · exact outInv_next h
  · exact outInv_of_mem h rfl

/-! ### Layout records and hints -/

/-- The purge of a tensor's lines. -/
theorem purgeTensor_inv (n : Nat) (ctx : BitVec 12) (tid : BitVec 24) (h : Inv s) : Inv (purgeTensor s n ctx tid) :=
  inv_of_mem (drainAlcove_inv n _ h) rfl

theorem installAt_inv (n : Nat) (r : Block) (rs : List Block) (h : Inv s) : Inv (installAt s n r rs) :=
  inv_of_mem (inv_ite (purgeTensor_inv _ _ _ h) h) rfl

theorem execLaydef_inv (g ra : BitVec 6) (h : Inv s) : OutInv (execLaydef g ra s) := by
  refine guarded_inv h (ready_inv h (memReady_inv h (outInv_ite (trapAt_inv _ _ h) (strandRead_inv h fun bs => ?_))))
  refine outInv_ite ?_ (trapAt_inv _ _ h)
  split
  · exact trapAt_inv _ _ h
  · exact outInv_next (installAt_inv _ _ _ h)

theorem execLayinv_inv (g ra : BitVec 6) (h : Inv s) : OutInv (execLayinv g ra s) := by
  refine guarded_inv h (ready_inv h (memReady_inv h ?_))
  split
  · exact outInv_next h
  · exact outInv_of_mem (purgeTensor_inv _ _ _ h) rfl

theorem pinAlcove_inv (n : Nat) (k : TileKey) (r : Block) (h : Inv s) : Inv (pinAlcove s n k r).1 := by
  simp only [pinAlcove]
  split_ifs
  · exact h
  · exact h
  · exact h
  · exact startFill_inv _ _ _ _ h

theorem pinHall_inv (n : Nat) (k : TileKey) (r : Block) (h : Inv s) : Inv (pinHall s n k r).1 := by
  simp only [pinHall]
  split_ifs
  · exact h
  · exact h
  · exact inv_of_mem (fillHall_inv _ _ _ _ _ h) rfl

theorem pinTile_inv (n : Nat) (lvl : BitVec 2) (a : State × Nat) (x : Option (TileKey × Block)) (h : Inv a.1) :
    Inv (pinTile n lvl a x).1 := by
  unfold pinTile
  split
  · exact h
  · next k r =>
    extract_lets a' b'
    have h1 : Inv a'.1 := by
      unfold a'
      split
      · exact pinAlcove_inv _ _ _ h
      · exact h
    have h2 : Inv b'.1 := by
      unfold b'
      split
      · exact pinHall_inv _ _ _ h1
      · exact h1
    exact h2

theorem execPin_inv (g rd rp : BitVec 6) (nrow ncol : BitVec 8) (lvl : BitVec 2) (h : Inv s) :
    OutInv (execPin g rd rp nrow ncol lvl s) :=
  guarded_inv h (ready_inv h (memReady_inv h
    (outInv_of_mem (inv_foldl_fst _ (pinTile_inv _ _) (hintTiles s rp nrow ncol) (s, 0) h) rfl)))

@[simp] theorem unpinTile_mem (n : Nat) (lvl : BitVec 2) (s : State) (x : Option (TileKey × Block)) :
    (unpinTile n lvl s x).mem = s.mem := by
  simp only [unpinTile]
  split
  · rfl
  · split_ifs <;> rfl

@[simp] theorem retireTile_mem (s : State) (n : Nat) (k : TileKey) (lvl : BitVec 2) : (retireTile s n k lvl).mem = s.mem := by
  simp only [retireTile]
  split_ifs <;> rfl

@[simp] theorem lastuseTile_mem (n : Nat) (lvl : BitVec 2) (s : State) (x : Option (TileKey × Block)) :
    (lastuseTile n lvl s x).mem = s.mem := by
  unfold lastuseTile
  split
  · rfl
  · exact mem_ite rfl (retireTile_mem ..)

@[simp] theorem settleLastuse_mem (s : State) (n : Nat) : (settleLastuse s n).mem = s.mem :=
  (foldl_mem _ (fun _ _ => retireTile_mem ..) _ _).trans rfl

@[simp] theorem streamTile_mem (n : Nat) (lvl : BitVec 2) (s : State) (x : Option (TileKey × Block)) :
    (streamTile n lvl s x).mem = s.mem := by
  simp only [streamTile]
  split
  · rfl
  · split_ifs <;> rfl

/-- A hint whose tiles are dealt with one by one, none of which writes memory. -/
theorem hintFold_inv {f : State → Option (TileKey × Block) → State} (hf : ∀ t x, (f t x).mem = t.mem) (rp : BitVec 6)
    (nrow ncol : BitVec 8) (h : Inv s) :
    OutInv (ready s [rp, pairOdd rp] (memReady s (.next ((hintTiles s rp nrow ncol).foldl f s)))) :=
  ready_inv h (memReady_inv h (outInv_of_mem h (foldl_mem _ hf _ _)))

theorem startEntry_inv (n : Nat) (lvl : BitVec 2) (e : Word × Word) (h : Inv s) : Inv (startEntry s n lvl e) := by
  unfold startEntry
  split
  · exact h
  · have h1 : ∀ b : Bool, ∀ k r f, Inv (if b then startFill s n k r f else s) := fun _ _ _ _ =>
      inv_ite (startFill_inv _ _ _ _ h) h
    exact inv_ite (fillHall_inv _ _ _ _ _ (h1 ..)) (h1 ..)

theorem startEntries_inv (n id : Nat) (is : List Nat) (h : Inv s) : Inv (startEntries s n id is) := by
  unfold startEntries
  split
  · exact h
  · exact inv_of_mem (inv_foldl _ (fun _ _ => startEntry_inv _ _ _) _ h) rfl

theorem advanceItins_inv (n : Nat) (k : TileKey) (h : Inv s) : Inv (advanceItins s n k) :=
  inv_foldl _ (fun _ _ => startEntries_inv _ _ _) _ h

theorem execPfit_inv (g ra : BitVec 6) (cnt ld : BitVec 4) (itin lvl : BitVec 2) (h : Inv s) :
    OutInv (execPfit g ra cnt ld itin lvl s) :=
  guarded_inv h (ready_inv h (memReady_inv h (outInv_ite (trapAt_inv _ _ h) (strandRead_inv h fun _ =>
    outInv_next (startEntries_inv _ _ _ (inv_of_mem h rfl))))))

/-! ### The M strand -/

theorem lookupTile_inv {n : Nat} {k : TileKey} {r : Block} {m : Option (BitVec 8)} {who : Option (Kind × Word × Word)} (h : Inv s)
    (e : lookupTile s n k r m who = .missed t) : Inv t := by
  simp only [lookupTile] at e
  split at e
  · cases e
  · split at e
    · cases e; exact startFill_inv _ _ _ _ h
    · split at e <;> cases e
      · exact h
      · exact h
      · exact startFill_inv _ _ _ _ (inv_of_mem h rfl)
      · exact h

theorem lookWant_inv (n : Nat) (who : Kind × Word × Word) (w : Want) (h : Inv s) : Inv (lookWant n who s w) := by
  unfold lookWant
  split
  · exact inv_of_mem h rfl
  · next e => exact lookupTile_inv h e

theorem lookWants_inv (n : Nat) (p : Parked) (h : Inv s) : Inv (lookWants s n p) := inv_foldl _ (fun _ _ => lookWant_inv _ _ _) _ h

theorem parkCmd_inv (n : Nat) (p : Parked) (h : Inv s) : Inv (parkCmd s n p) := lookWants_inv _ _ (inv_of_mem h rfl)

@[simp] theorem readCells_mem (s : State) (xs : List (Nat × Nat × Nat)) : (s.readCells xs).mem = s.mem := rfl

theorem cubeStart_inv (mma : Bool) (i : Instr) (c : CubeWord) (w : Word) (recs : List Block) (h : Inv s) :
    OutInv (cubeStart mma i c w recs s) :=
  outInv_ite (hold_inv h) (outInv_ite (hold_inv h) (outInv_next (parkCmd_inv _ _ (inv_of_mem h rfl))))

theorem cubeRec_inv {x fq : Word} {f : Block → Out} (h : Inv s) (hf : ∀ r, OutInv (f r)) : OutInv (cubeRec s x fq f) := by
  unfold cubeRec
  split
  · exact faultAt_inv _ _ _ _ h
  · exact hf _

theorem cubeJudge_inv (mma : Bool) (i : Instr) (c : CubeWord) (w : Word) (h : Inv s) : OutInv (cubeJudge mma i c w s) := by
  unfold cubeJudge
  extract_lets withB
  have hB : ∀ a, OutInv (withB a) := fun a => by
    refine cubeRec_inv h fun b => ?_
    extract_lets fin
    have hfin : ∀ g, OutInv (fin g) := fun g => by
      unfold fin
      split
      · exact faultAt_inv _ _ _ _ h
      · exact cubeStart_inv _ _ _ _ _ h
    exact outInv_ite (hfin _) (cubeRec_inv h fun _ => hfin _)
  exact outInv_ite (hB _) (cubeRec_inv h fun _ => hB _)

theorem cubeIssue_inv (mma : Bool) (i : Instr) (c : CubeWord) (h : Inv s) : OutInv (cubeIssue mma i c s) := by
  unfold cubeIssue
  split
  · exact outInv_ite (faultAt_inv _ _ _ _ h) (hold_inv h)
  · exact outInv_ite (cubeJudge_inv _ _ _ _ h) (hold_inv h)

@[simp] theorem dropThru_mem (n : Nat) (s : State) (k : TileKey) : (dropThru n s k).mem = s.mem := mem_ite rfl rfl

theorem afterReads_inv (n : Nat) (p : Parked) (h : Inv s) : Inv (afterReads s n p) :=
  inv_foldl _ (fun _ _ => advanceItins_inv _ _) _
    (inv_of_mem h ((settleLastuse_mem ..).trans (foldl_mem _ (dropThru_mem n) _ _)))

theorem finishParked_inv (n : Nat) (p : Parked) (xs : List (AccWrite × BitVec 7)) (h : Inv s) : Inv (finishParked s n p xs) :=
  afterReads_inv _ _ (inv_of_mem h rfl)

theorem execCubePerform_inv (core idx : Nat) (h : Inv s) : OutInv (execCubePerform core idx s) := by
  unfold execCubePerform
  split
  · exact outInv_next h
  · exact outInv_ite (outInv_next h) (outInv_ite (outInv_next (finishParked_inv _ _ _ h))
      (outInv_next (inv_ite h (lookWants_inv _ _ h))))

theorem execTileMissTimeout_inv (core idx : Nat) (h : Inv s) : OutInv (execTileMissTimeout core idx s) := by
  simp only [execTileMissTimeout]
  split
  · exact outInv_next h
  · exact outInv_ite (outInv_next h) (outInv_of_mem h rfl)

theorem areaStart_inv {dst src : List (Nat × Nat × Nat)} {xs : List (AccWrite × BitVec 7)} (h : Inv s) :
    OutInv (areaStart s dst src xs) := outInv_ite (hold_inv h) (outInv_of_mem h rfl)

theorem areaMove_inv (rd ra : BitVec 6) (dv sv : BitVec 3) (trn : Bool) (f : Nat → Nat × BitVec 7) (h : Inv s) :
    OutInv (areaMove s rd ra dv sv trn f) := by
  unfold areaMove
  split
  · exact outInv_ite (areaStart_inv h) (faultAt_inv _ _ _ _ h)
  · exact faultAt_inv _ _ _ _ h

theorem execAclr_inv (g rd : BitVec 6) (dv : BitVec 3) (h : Inv s) : OutInv (execAclr g rd dv s) := by
  refine guarded_inv h (ready_inv h ?_)
  split
  · exact faultAt_inv _ _ _ _ h
  · exact areaStart_inv h

theorem execRegionInstructionComplete_inv (core idx : Nat) (h : Inv s) : OutInv (execRegionInstructionComplete core idx s) := by
  unfold execRegionInstructionComplete
  split
  · exact outInv_next h
  · exact outInv_of_mem h rfl

/-! ### Groups and flags -/

@[simp] theorem formGroup_mem (l : Launch) (s : State) (g : Nat) : (formGroup l s g).mem = s.mem := by
  simp only [formGroup]
  split <;> rfl

@[simp] theorem formGroups_mem (s : State) (l : Launch) : (formGroups s l).mem = s.mem := foldl_mem _ (formGroup_mem l) _ _

@[simp] theorem flagAt_mem (s : State) (core flag : Nat) (x : Word32) (scope : Nat) : (flagAt s core flag x scope).mem = s.mem :=
  mem_ite rfl rfl

@[simp] theorem sendFlag_mem (s : State) (task flag : Nat) (x : Word32) (scope : Nat) : (sendFlag s task flag x scope).mem = s.mem := rfl

theorem savedFlag_inv (x : Task) (flag : Nat) (w : Word32) (h : Inv s) : Inv (savedFlag s x flag w) := by
  simp only [savedFlag]
  split
  · exact inv_of_mem h rfl
  · split
    · exact inv_of_mem h rfl
    · exact writePhys_inv _ _ _ h

theorem applyFlag_inv {task flag scope : Nat} {x : Word32} (h : Inv s) (e : applyFlag s task flag x scope = some t) : Inv t := by
  unfold applyFlag at e
  extract_lets u at e
  have hu : Inv u := inv_ite h (inv_of_mem h rfl)
  clear_value u
  split at e
  · cases e; exact hu
  · split at e
    · cases e; exact hu
    · cases e; exact hu
    · split_ifs at e <;> cases e
      · exact inv_of_mem hu (flagAt_mem ..)
      · exact savedFlag_inv _ _ _ hu

theorem execRemoteFlagUpdate_inv (idx : Nat) (h : Inv s) : OutInv (execRemoteFlagUpdate idx s) := by
  unfold execRemoteFlagUpdate
  split
  · exact outInv_next h
  · split
    · exact outInv_of_mem h rfl
    · refine outInv_ite (outInv_next h) ?_
      split
      · exact outInv_next h
      · next e => exact outInv_of_mem (applyFlag_inv h e) rfl

@[simp] theorem completeGen_mem (s : State) (g : GroupState) : (completeGen s g).mem = s.mem :=
  foldl_mem _ (fun _ _ => sendFlag_mem ..) _ _

@[simp] theorem sendModule_mem (s : State) (g : GroupState) : (sendModule s g).mem = s.mem := mem_ite rfl rfl

@[simp] theorem settleGroup_mem (s : State) (k : GroupKey) (fuel : Nat) : (settleGroup s k fuel).mem = s.mem := by
  induction fuel generalizing s with
  | zero => rfl
  | succ fuel ih =>
    simp only [settleGroup]
    split
    · rfl
    · refine mem_ite rfl ?_
      split
      · exact sendModule_mem ..
      · exact mem_ite ((ih _).trans ((completeGen_mem ..).trans (sendModule_mem ..))) (sendModule_mem ..)

@[simp] theorem takeMsg_mem (s : State) (m : GroupMsg) : (takeMsg s m).mem = s.mem := (settleGroup_mem ..).trans rfl

@[simp] theorem tellGroup_mem (s : State) (m : GroupMsg) : (tellGroup s m).mem = s.mem := by
  unfold tellGroup
  split
  · rfl
  · exact mem_ite (takeMsg_mem ..) rfl

theorem execGroupArrival_inv (idx : Nat) (h : Inv s) : OutInv (execGroupArrival idx s) := by
  unfold execGroupArrival
  split
  · exact outInv_next h
  · exact outInv_ite (outInv_next h) (outInv_of_mem h (takeMsg_mem ..))

@[simp] theorem leaveAll_mem (s : State) (l : Launch) (x : Task) : (leaveAll s l x).mem = s.mem :=
  foldl_mem _ (fun _ _ => tellGroup_mem ..) _ _

@[simp] theorem endGroups_mem (s : State) : (endGroups s).mem = s.mem := mem_ite rfl rfl

@[simp] theorem fabricGroup_mem (s : State) (xkey : BitVec 32) (cl : Nat) : (fabricGroup s xkey cl).mem = s.mem :=
  foldl_mem _ (fun _ _ => postFault_mem ..) _ _

theorem execModuleArrival_inv (xkey : BitVec 32) (sender : PeerModule) (gen : Nat) (h : Inv s) :
    OutInv (execModuleArrival xkey sender gen s) := by
  simp only [execModuleArrival]
  split
  · split
    · exact outInv_of_mem h (fabricGroup_mem ..)
    · exact outInv_of_mem h (mem_ite rfl rfl)
  · split_ifs
    · exact outInv_next h
    · exact outInv_of_mem h (fabricGroup_mem ..)
    · exact outInv_of_mem h rfl
    · exact outInv_of_mem h ((settleGroup_mem ..).trans (endGroups_mem ..))
    · exact outInv_next h
    · exact outInv_of_mem h (settleGroup_mem ..)

@[simp] theorem peerCast_mem (s : State) (xkey : BitVec 32) (flag : Nat) (x : Word32) : (peerCast s xkey flag x).mem = s.mem := by
  unfold peerCast
  split
  · rfl
  · exact foldl_mem _ (fun _ _ => sendFlag_mem ..) _ _

theorem takeEarly_inv (m : EarlyMsg) (h : Inv s) : Inv (takeEarly s m) := by
  unfold takeEarly
  refine inv_ite (inv_of_mem h (peerCast_mem ..)) ?_
  split
  · next e => exact execModuleArrival_inv _ _ _ h _ e
  · exact h
  · exact h

theorem joinEarly_inv (l : Launch) (h : Inv s) : Inv (joinEarly s l) := inv_foldl _ (fun _ => takeEarly_inv) _ (inv_of_mem h rfl)

end Sys2Proof.Machine
end

section
/-! PROOFS. What the performing of an engine's command changes: memory, in its canonical form, and the command's own bookkeeping. -/

namespace Sys2Proof.Machine

open Sys2Proof

variable {s t u : State} {ε : Type}

/-! ### What an engine's command changes -/

/-- What a function of a die finds in every die once one has changed in nothing that it reads. -/
theorem die_modDie {α : Type} (p : Die → α) {f : Die → Die} (hf : ∀ x, p (f x) = p x) (s : State) (n m : Nat) :
    p ((s.modDie n f).die m) = p (s.die m) := by
  by_cases h : m = n
  · rw [h, State.modDie, die_setDie_same, hf]
  · rw [State.modDie, die_setDie_other _ _ _ _ h]

theorem cluster_modEngineCmd (s : State) (id : Nat) (f : EngineCmd → EngineCmd) (n : Nat) : (s.modEngineCmd id f).cluster n =
    { s.cluster n with selq := modCmd (s.cluster n).selq id f, lndq := modCmd (s.cluster n).lndq id f } :=
  tget_map_default (α := Cluster) {} (f := fun x => { x with selq := modCmd x.selq id f, lndq := modCmd x.lndq id f }) rfl s.clusters n

theorem die_modEngineCmd (s : State) (id : Nat) (f : EngineCmd → EngineCmd) (n : Nat) : (s.modEngineCmd id f).die n =
    { s.die n with rteq := modCmd (s.die n).rteq id f, collq := modCmd (s.die n).collq id f } :=
  tget_map_default (α := Die) {} (f := fun x => { x with rteq := modCmd x.rteq id f, collq := modCmd x.collq id f }) rfl s.dies n

/-- The numbers of the commands in a queue. -/
def cmdIds (q : List EngineCmd) : List Nat := q.map fun c => c.id

/-- The numbers of the commands that the units of a cluster hold. -/
def clusterIds (x : Cluster) : List Nat × List Nat := (cmdIds x.selq, cmdIds x.lndq)

/-- The numbers of the commands that the units of a die hold. -/
def dieIds (x : Die) : List Nat × List Nat := (cmdIds x.rteq, cmdIds x.collq)

theorem cmdIds_modCmd {f : EngineCmd → EngineCmd} (hf : ∀ c, (f c).id = c.id) (q : List EngineCmd) (id : Nat) :
    cmdIds (modCmd q id f) = cmdIds q := by
  rw [cmdIds, cmdIds, modCmd, List.map_map]
  refine List.map_congr_left fun c _ => ?_
  dsimp only [Function.comp]
  split
  · exact hf c
  · rfl

/-- What the accesses and the bookkeeping of an engine's command change: memory, whose form they keep, what stands with it, the
units of clusters and dies, whose queues go on holding the same commands, and what is sent and chosen. -/
structure EngineRun (s t : State) : Prop where
  inv : Inv s → Inv t
  outside : { t with mem := s.mem, poison := s.poison, zeros := s.zeros, moves := s.moves, hist := s.hist, nextId := s.nextId,
                     fresh := s.fresh, outbox := s.outbox, raises := s.raises, clusters := s.clusters, dies := s.dies } = s
  clusters : ∀ n, clusterIds (t.cluster n) = clusterIds (s.cluster n)
  dies : ∀ n, dieIds (t.die n) = dieIds (s.die n)

theorem EngineRun.refl (s : State) : EngineRun s s := ⟨fun h => h, rfl, fun _ => rfl, fun _ => rfl⟩

theorem EngineRun.trans (h : EngineRun s u) (h2 : EngineRun u t) : EngineRun s t where
  inv := h2.inv ∘ h.inv
  outside := by
    have h1 := h.outside
    rw [← h2.outside] at h1
    exact h1
  clusters n := (h2.clusters n).trans (h.clusters n)
  dies n := (h2.dies n).trans (h.dies n)

theorem EngineRun.cores (h : EngineRun s t) : t.cores = s.cores := (congrArg State.cores h.outside :)

theorem EngineRun.posts (h : EngineRun s t) : t.posts = s.posts := (congrArg State.posts h.outside :)

theorem EngineRun.of_memoryOnly (h : MemoryOnly s t) (hi : Inv s → Inv t) : EngineRun s t where
  inv := hi
  outside := by
    unfold MemoryOnly at h
    rw [← h]
  clusters n := by rw [State.cluster, h.clusters, State.cluster]
  dies n := by
    have hd : t.dies = s.dies := (congrArg State.dies h :)
    rw [State.die, hd, State.die]

theorem EngineRun.modCluster (s : State) (n : Nat) {f : Cluster → Cluster} (hf : ∀ x, clusterIds (f x) = clusterIds x) :
    EngineRun s (s.modCluster n f) := ⟨fun h => h, rfl, cluster_modCluster _ hf s n, fun _ => rfl⟩

theorem EngineRun.modDie (s : State) (n : Nat) {f : Die → Die} (hf : ∀ x, dieIds (f x) = dieIds x) :
    EngineRun s (s.modDie n f) := ⟨fun h => h, rfl, fun _ => rfl, die_modDie _ hf s n⟩

theorem EngineRun.send (s : State) (kind : String) (ws : List Word) : EngineRun s (s.send kind ws) :=
  ⟨fun h => h, rfl, fun _ => rfl, fun _ => rfl⟩

theorem EngineRun.raise (s : State) (rs : List Raise) : EngineRun s { s with raises := s.raises ++ rs } :=
  ⟨fun h => h, rfl, fun _ => rfl, fun _ => rfl⟩

theorem EngineRun.modEngineCmd (s : State) (id : Nat) {f : EngineCmd → EngineCmd} (hf : ∀ c, (f c).id = c.id) :
    EngineRun s (s.modEngineCmd id f) where
  inv h := h
  outside := rfl
  clusters n := by rw [cluster_modEngineCmd, clusterIds, clusterIds, cmdIds_modCmd hf, cmdIds_modCmd hf]
  dies n := by rw [die_modEngineCmd, dieIds, dieIds, cmdIds_modCmd hf, cmdIds_modCmd hf]

theorem EngineRun.foldl {α : Type} (f : State → α → State) (hf : ∀ t x, EngineRun t (f t x)) (xs : List α) (s : State) :
    EngineRun s (xs.foldl f s) := by
  induction xs generalizing s with
  | nil => exact .refl s
  | cons x xs ih => exact (hf s x).trans (ih _)

/-! ### Accesses that may fail -/

/-- What a command comes to is, if it does not fail, a state that it may leave. -/
structure RunsFrom (s : State) (r : Except ε State) : Prop where
  run : ∀ t, r = .ok t → EngineRun s t

theorem RunsFrom.ok (h : EngineRun s t) : RunsFrom (ε := ε) s (.ok t) := ⟨fun _ e => by cases e; exact h⟩

theorem RunsFrom.error (e : ε) : RunsFrom s (.error e) := ⟨fun _ e => by cases e⟩

/-- A read before the rest. -/
theorem RunsFrom.read {α : Type} {x : Except ε α} {f : α → Except ε State} (hf : ∀ a, RunsFrom s (f a)) : RunsFrom s (x >>= f) := by
  cases x with
  | error e => exact .error e
  | ok a => exact hf a

/-- A step before the rest. -/
theorem RunsFrom.step {x : Except ε State} {f : State → Except ε State} (hx : RunsFrom s x) (hf : ∀ t, RunsFrom t (f t)) :
    RunsFrom s (x >>= f) := by
  cases x with
  | error e => exact .error e
  | ok u => exact ⟨fun t e => (hx.run u rfl).trans ((hf u).run t e)⟩

theorem RunsFrom.after {r : Except ε State} (h : EngineRun s u) (hr : RunsFrom u r) : RunsFrom s r := ⟨fun t e => h.trans (hr.run t e)⟩

theorem RunsFrom.liftAcc {r : Except AccFail State} (h : RunsFrom s r) : RunsFrom s (liftAcc r) := by
  cases r with
  | error e => exact .error _
  | ok t => exact .ok (h.run t rfl)

theorem RunsFrom.liftAt {r : Except AccFail State} (h : RunsFrom s r) (d : Nat) : RunsFrom s (liftAt d r) := by
  cases r with
  | error e => exact .error _
  | ok t => exact .ok (h.run t rfl)

theorem openElems_run (p : Party) (cl : Nat) (ctx : BitVec 12) (r : Block) (is : List (List Nat)) (s : State) :
    EngineRun s (openElems p cl ctx r is s) :=
  .of_memoryOnly ((noteElems_memoryOnly ..).trans (clearCovered_memoryOnly ..))
    fun h => inv_of_mem h ((clearCovered_mem ..).trans (noteElems_mem ..))

theorem markElem_run (s : State) (cl : Nat) (ctx : BitVec 12) (r : Block) (idx : List (Nat × Nat)) :
    EngineRun s (markElem s cl ctx r idx) :=
  .of_memoryOnly (markElem_memoryOnly ..) fun h => inv_of_mem h (markElem_mem ..)

theorem markElems_run (s : State) (cl : Nat) (ctx : BitVec 12) (r : Block) (is : List (List Nat)) :
    EngineRun s (markElems s cl ctx r is) := by
  unfold markElems
  split
  · exact .refl s
  · exact .foldl _ (fun _ _ => markElem_run ..) _ _

theorem engineWrite_run (s : State) (own : Option Nat) (cl : Nat) (ctx : BitVec 12) (r : Block) (idx : List Nat) (x : Nat) :
    RunsFrom s (engineWrite s own cl ctx r idx x) := by
  unfold engineWrite
  split
  · exact .error _
  · next u hu =>
    have hu : EngineRun s u := .of_memoryOnly (writeElem_memoryOnly hu) fun h => writeElem_inv h hu
    split
    · exact .ok hu
    · dsimp only
      split
      · exact .ok hu
      · exact .ok (hu.trans (.modCluster _ _ fun _ => rfl))

theorem foldE_run {α : Type} {f : State → α → Except AccFail State} (hf : ∀ t x, RunsFrom t (f t x)) (xs : List α) (s : State) :
    RunsFrom s (foldE f xs s) := by
  induction xs generalizing s with
  | nil => exact .ok (.refl s)
  | cons x xs ih =>
    unfold foldE
    split
    · exact .error _
    · next e => exact .after ((hf _ _).run _ e) (ih _)

theorem writeElems_run (p : Party) (cl : Nat) (ctx : BitVec 12) (r : Block) (xs : List (List Nat × Nat)) (s : State) :
    RunsFrom s (writeElems p cl ctx r xs s) :=
  .after (openElems_run ..) (foldE_run (fun _ _ => engineWrite_run ..) _ _)

theorem enginePut_run (cl : Nat) (ctx : BitVec 12) (va : Nat) (bs : List Byte) (s : State) :
    RunsFrom s (enginePut cl ctx va bs s) := by
  refine ⟨fun t e => .of_memoryOnly ?_ fun h => enginePut_inv h e⟩
  simp only [enginePut] at e
  split at e <;> try cases e
  split at e <;> cases e
  exact writePhys_memoryOnly ..

theorem noteOld_memoryOnly (s : State) (p : Party) (pa n : Nat) : MemoryOnly s (s.noteOld p pa n) := by
  unfold State.noteOld
  split
  · rfl
  · exact .foldl _ (fun _ _ => by rfl) _ _

theorem enginePutAs_run (p : Party) (cl : Nat) (ctx : BitVec 12) (va : Nat) (bs : List Byte) (s : State) :
    RunsFrom s (enginePutAs p cl ctx va bs s) := by
  unfold enginePutAs
  split
  · exact .after (.of_memoryOnly (noteOld_memoryOnly ..) fun h => inv_of_mem h (noteOld_mem ..)) (enginePut_run ..)
  · exact enginePut_run ..

/-! ### Copies (R168, R169) -/

theorem copyElem_run {s0 v : State} {cl : Nat} {c : EngineCmd} {x : List Nat} {r : State × State} (e : copyElem s0 cl c v s x = .ok r) :
    EngineRun s r.2 := by
  simp only [copyElem] at e
  split at e
  · cases e
  · cases e
  · split at e
    · cases e
    · cases e
    · next hw =>
      cases e
      refine EngineRun.trans ?_ ((engineWrite_run ..).run _ hw)
      have hmark : EngineRun s (if outside (c.recs.getD 0 0) (addIdx (boxList c.block 0x08) x) then s
          else markElem s cl c.ctx (c.recs.getD 0 0) (pairIdx (c.recs.getD 0 0) (addIdx (boxList c.block 0x08) x))) := by
        split
        · exact .refl s
        · exact markElem_run ..
      split
      · exact hmark
      · exact hmark.trans ⟨fun h => h, rfl, fun _ => rfl, fun _ => rfl⟩

theorem copyFrom_run (s0 : State) (cl : Nat) (c : EngineCmd) (xs : List (List Nat)) (v s : State) :
    RunsFrom s (copyFrom s0 cl c xs v s) := by
  induction xs generalizing v s with
  | nil => exact .ok (.refl s)
  | cons x xs ih =>
    unfold copyFrom
    split
    · exact .error _
    · next e => exact .after (copyElem_run e) (ih ..)

theorem copyAll_run (s : State) (cl : Nat) (c : EngineCmd) : RunsFrom s (copyAll s cl c) :=
  .after (.of_memoryOnly ((noteElems_memoryOnly ..).trans (clearCovered_memoryOnly ..))
    fun h => inv_of_mem h ((clearCovered_mem ..).trans (noteElems_mem ..))) (copyFrom_run ..)

theorem performCopy_run (s : State) (cl : Nat) (c : EngineCmd) : RunsFrom s (performCopy s cl c) := by
  unfold performCopy
  split
  · exact copyAll_run ..
  · split
    · exact .error _
    · next e =>
      refine .after (.modCluster _ _ fun _ => ?_) (.after ((copyAll_run ..).run _ e) (.ok (.modCluster _ _ fun _ => rfl)))
      rfl

/-! ### The selection unit (R306) -/

theorem performSelection_run (s : State) (cl : Nat) (c : EngineCmd) : RunsFrom s (performSelection s cl c) :=
  .read fun _ => .after (((markElems_run ..).trans (openElems_run ..)).trans (openElems_run ..))
    (foldE_run (fun _ _ => .step (engineWrite_run ..) fun _ => engineWrite_run ..) _ _)

/-! ### The Landing (R309 to R312) -/

theorem withSlot_queues (q : Cluster) (n : Nat) : clusterIds (withSlot q n) = clusterIds q := by
  unfold withSlot
  split <;> rfl

theorem modSlot_run (s : State) (lnd n : Nat) (f : LandingSlot → LandingSlot) : EngineRun s (s.modSlot lnd n f) :=
  .modCluster _ _ fun q => withSlot_queues q n

theorem performSetup_run (s : State) (lnd : Nat) (c : EngineCmd) : RunsFrom s (performSetup s lnd c) :=
  .read fun _ => .ok ((markElems_run ..).trans (modSlot_run ..))

theorem performRound_run (s : State) (lnd : Nat) (c : EngineCmd) (l : LandingSlot) : RunsFrom s (performRound s lnd c l) := by
  refine .read fun conf => .read fun cand => ?_
  dsimp only
  refine .after ((markElems_run ..).trans (markElems_run ..)) (.step (writeElems_run ..) fun s2 => ?_)
  refine .step (writeElems_run ..) fun s3 => .step (writeElems_run ..) fun s4 =>
    .ok (((EngineRun.raise _ _).trans (modSlot_run ..)).trans (.modEngineCmd _ _ fun _ => ?_))
  rfl

/-! ### The Concourse (R334 to R343) -/

theorem withSession_queues (d : Die) (n : Nat) : dieIds (withSession d n) = dieIds d := by
  unfold withSession
  split <;> rfl

theorem modSession_run (s : State) (die n : Nat) (f : Session → Session) : EngineRun s (s.modSession die n f) :=
  .modDie _ _ fun d => withSession_queues d n

theorem performRouteSetup_run (s : State) (die : Nat) (c : EngineCmd) : RunsFrom s (performRouteSetup s die c) := by
  unfold performRouteSetup
  split
  · exact .ok (.modDie _ _ fun _ => rfl)
  · exact .read fun _ => .ok (modSession_run ..)

theorem performPlace_run (s : State) (die : Nat) (c : EngineCmd) (x : Session) : RunsFrom s (performPlace s die c x) := by
  refine .read fun ids => ?_
  dsimp only
  refine .after (markElems_run ..) (.step (writeElems_run ..).liftAcc fun s1 => ?_)
  refine .step (writeElems_run ..).liftAcc fun s2 => ?_
  refine .step (writeElems_run ..).liftAcc fun s3 => .step (enginePutAs_run ..).liftAcc fun s4 => ?_
  exact .ok (modSession_run ..)

theorem scatterRow_run (die : Nat) (c : EngineCmd) (x : Session) (s : State) (y : (Nat × Nat) × Nat × Nat) :
    RunsFrom s (scatterRow die c x s y) := by
  unfold scatterRow
  split
  · exact .ok (.refl s)
  · refine .read fun vs => ?_
    dsimp only
    split
    · exact .after (markElems_run ..) ((writeElems_run ..).liftAt _)
    · split
      · exact .ok (((markElems_run ..).trans (modSession_run ..)).trans (.send ..))
      · exact .error _

theorem scatterRows_run (die : Nat) (c : EngineCmd) (x : Session) (ys : List ((Nat × Nat) × Nat × Nat)) (s : State) :
    RunsFrom s (scatterRows die c x ys s) := by
  induction ys generalizing s with
  | nil => exact .ok (.refl s)
  | cons y ys ih =>
    unfold scatterRows
    split
    · exact .error _
    · next e => exact .after ((scatterRow_run ..).run _ e) (ih _)

theorem performScatter_run (s : State) (die : Nat) (c : EngineCmd) (x : Session) : RunsFrom s (performScatter s die c x) :=
  .read fun _ => scatterRows_run ..

theorem gatherRows_run (s : State) (c : EngineCmd) (x : Session) (inv : List ((Nat × Nat) × Nat × Nat)) :
    RunsFrom s (gatherRows s c x inv) :=
  .read fun _ => (writeElems_run ..).liftAcc

theorem performGather_run (s : State) (die : Nat) (c : EngineCmd) (x : Session) : RunsFrom s (performGather s die c x) := by
  refine .read fun inv => ?_
  split
  · exact gatherRows_run ..
  · split
    · refine .ok (((modSession_run ..).trans (.foldl _ (fun _ _ => ?_) _ _)).trans (.modEngineCmd _ _ fun _ => ?_))
      · exact .send ..
      · rfl
    · exact .error _

/-! ### Faults and the ends of commands -/

@[simp] theorem engineFault_mem (s : State) (ctx : BitVec 12) (unit code : Nat) (f : AccFail) :
    (engineFault s ctx unit code f).mem = s.mem := by
  unfold engineFault
  split
  · rfl
  · rfl
  · exact dataFault_mem ..

@[simp] theorem routeFault_mem (s : State) (ctx : BitVec 12) (die : Nat) (f : RouteStop) : (routeFault s ctx die f).mem = s.mem := by
  unfold routeFault
  split
  · exact engineFault_mem ..
  · rfl
  · rfl

@[simp] theorem copyFault_mem (s : State) (ctx : BitVec 12) (cl eng : Nat) (f : AccFail) : (copyFault s ctx cl eng f).mem = s.mem := by
  unfold copyFault
  split
  · rfl
  · rfl
  · exact dataFault_mem ..

theorem settleCmd_inv {r : Except AccFail State} (c : EngineCmd) (unit code : Nat) (h : Inv s) (hr : RunsFrom s r) :
    Inv (settleCmd s c unit code r) := by
  unfold settleCmd
  split
  · exact inv_of_mem ((hr.run _ rfl).inv h) rfl
  · exact inv_of_mem h (engineFault_mem ..)

theorem settleRoute_inv {r : Except RouteStop State} (die : Nat) (c : EngineCmd) (h : Inv s) (hr : RunsFrom s r) :
    Inv (settleRoute s die c r) := by
  unfold settleRoute
  split
  · exact inv_of_mem ((hr.run _ rfl).inv h) rfl
  · exact inv_of_mem h (routeFault_mem ..)

end Sys2Proof.Machine
end

section
/-! PROOFS. Memory in its canonical form: records of the rings, the copy engines and invalidations. -/

namespace Sys2Proof.Machine

open Sys2Proof

variable {s t u : State}

/-! ### Records of the rings (R379, R380, R388) -/

@[simp] theorem bboxPost_mem (s : State) (ws : List Word) : (bboxPost s ws).mem = s.mem := by
  unfold bboxPost
  split <;> rfl

@[simp] theorem moduleEvent_mem (s : State) (kind : Nat) (a : Word) : (moduleEvent s kind a).mem = s.mem := bboxPost_mem ..

theorem writeNote_inv (c : Context) (vec : Nat) (ws : List Word) (h : Inv s) : Inv (writeNote s c vec ws) := by
  have hw := sysWrite_inv (c.nq + 32 * (c.nqwrite.toNat % c.nqsize)) ws h
  simp only [writeNote]
  split <;> exact inv_of_mem hw rfl

theorem drainNotes_inv (ctx : BitVec 12) (fuel : Nat) (h : Inv s) : Inv (drainNotes ctx fuel s) := by
  induction fuel generalizing s with
  | zero => exact h
  | succ fuel ih =>
    unfold drainNotes
    split
    · exact h
    · split
      · exact h
      · exact inv_ite (ih (writeNote_inv _ _ _ h)) h

theorem postNote_inv (ctx : BitVec 12) (vec kind sub : Nat) (a b : Word) (h : Inv s) : Inv (postNote s ctx vec kind sub a b) := by
  simp only [postNote]
  split
  · exact h
  · exact drainNotes_inv _ _ h

theorem writeTrace_inv (c : Context) (ws : List Word) (h : Inv s) : Inv (writeTrace s c ws) := by
  have hw := sysWrite_inv (c.tq + 32 * (c.tqwrite.toNat % c.tqsize)) ws h
  simp only [writeTrace]
  split <;> exact inv_of_mem hw rfl

theorem drainTrace_inv (ctx : BitVec 12) (fuel : Nat) (h : Inv s) : Inv (drainTrace ctx fuel s) := by
  induction fuel generalizing s with
  | zero => exact h
  | succ fuel ih =>
    unfold drainTrace
    split
    · exact h
    · split
      · exact h
      · exact inv_ite (ih (writeTrace_inv _ _ h)) h

theorem traceRing_inv (ctx : BitVec 12) (who : Option (Nat × Kind)) (ws : List Word) (h : Inv s) : Inv (traceRing s ctx who ws) := by
  unfold traceRing
  split
  · exact h
  · next c _ =>
    refine inv_ite h (inv_ite (drainTrace_inv _ _ h) (inv_ite h (inv_ite (writeTrace_inv _ _ h) ?_)))
    have hd : Inv (writeTrace (s.modCtx ctx fun c => { c with dropSince := 0 }) c [traceHead 6 0 0 ctx, c.dropSince, 0, s.counter]) :=
      writeTrace_inv _ _ h
    dsimp only
    split
    · exact hd
    · exact inv_ite (writeTrace_inv _ _ hd) hd

theorem tracePost_inv (ctx : BitVec 12) (who : Option (Nat × Kind)) (kind sub flag : Nat) (a b : Word) (h : Inv s) :
    Inv (tracePost s ctx who kind sub flag a b) :=
  traceRing_inv _ _ _ (inv_ite (inv_of_mem h (bboxPost_mem ..)) h)

/-! ### The copy engines (R168 to R171, R329 to R332) -/

@[simp] theorem modBte_mem (s : State) (cl e : Nat) (f : Bte → Bte) : (s.modBte cl e f).mem = s.mem := rfl

@[simp] theorem releaseDue_mem (s : State) (cl e : Nat) : (releaseDue s cl e).mem = s.mem := mem_ite rfl rfl

@[simp] theorem arrive_mem (s : State) (cl : Nat) (c : EngineCmd) : (arrive s cl c).mem = s.mem := by
  simp only [arrive]
  split <;> simp

theorem copyIssue_inv (i : Instr) (fn : Nat) (tok : BitVec 3) (rs rt bx : BitVec 6) (fe : BitVec 1) (fl : BitVec 6)
    (scope eng : BitVec 3) (time : Option Word) (h : Inv s) : OutInv (copyIssue i fn tok rs rt bx fe fl scope eng time s) := by
  refine memReady_inv h (outInv_ite (hold_inv h) (outInv_ite (trapAt_inv _ _ h) (strandRead_inv h fun bs => ?_)))
  dsimp only
  split
  · exact outInv_next h
  · exact outInv_of_mem h (arrive_mem ..)

theorem execCopy_inv (g : BitVec 6) (tok : BitVec 3) (rs rt bx : BitVec 6) (fe : BitVec 1) (fl : BitVec 6) (scope eng : BitVec 3)
    (h : Inv s) : OutInv (execCopy g tok rs rt bx fe fl scope eng s) :=
  guarded_inv h (ready_inv h (copyIssue_inv _ _ _ _ _ _ _ _ _ _ _ h))

theorem execCopyt_inv (g : BitVec 6) (tok : BitVec 3) (rs rt bx : BitVec 6) (fe : BitVec 1) (fl : BitVec 6)
    (scope eng : BitVec 3) (tr : BitVec 6) (h : Inv s) : OutInv (execCopyt g tok rs rt bx fe fl scope eng tr s) :=
  guarded_inv h (ready_inv h (copyIssue_inv _ _ _ _ _ _ _ _ _ _ _ h))

theorem execCopytRelease_inv (cl e : Nat) (h : Inv s) : OutInv (execCopytRelease cl e s) := outInv_of_mem h (releaseDue_mem ..)

theorem execCopyStart_inv (cl e : Nat) (h : Inv s) : OutInv (execCopyStart cl e s) := by
  have hr : Inv (releaseDue s cl e) := inv_of_mem h (releaseDue_mem ..)
  simp only [execCopyStart]
  split
  · refine outInv_ite (outInv_next hr) ?_
    split
    · exact outInv_next hr
    · exact outInv_of_mem hr (copyFault_mem ..)
  · exact outInv_next hr

@[simp] theorem endCopy_mem (s : State) (cl e : Nat) (c : EngineCmd) : (endCopy s cl e c).mem = s.mem := completeCmd_mem ..

theorem finishCopy_inv (slow : Bool) (cl e : Nat) (c : EngineCmd) (h : Inv s) : Inv (finishCopy slow s cl e c) := by
  simp only [finishCopy]
  split
  · next u hu =>
    have hi : Inv u := ((performCopy_run ..).run _ hu).inv h
    cases slow
    · exact inv_of_mem hi (endCopy_mem ..)
    · exact inv_ite hi (inv_of_mem hi (endCopy_mem ..))
  · exact inv_of_mem h (copyFault_mem ..)

theorem execCopyComplete_inv (cl e idx : Nat) (h : Inv s) : OutInv (execCopyComplete cl e idx s) := by
  unfold execCopyComplete
  cases (s.bte cl e).act[idx]? with
  | none => exact outInv_next h
  | some c =>
    have hend : Inv (endCopy s cl e c) := inv_of_mem h (endCopy_mem ..)
    exact outInv_next (inv_ite h (inv_ite hend (finishCopy_inv _ _ _ _ h)))

/-- The run queues of engines each with a marker put behind it (R284, R330). -/
def markBehind (id : Nat) (xs : List Nat) (s : State) : State :=
  xs.foldl (fun t i => (releaseDue t (i / 8) (i % 8)).modBte (i / 8) (i % 8) fun b => { b with runq := b.runq ++ [.marker id] }) s

theorem markBehind_mem (id : Nat) (xs : List Nat) (s : State) : (markBehind id xs s).mem = s.mem := by
  refine foldl_mem _ (fun t i => ?_) xs s
  exact releaseDue_mem ..

/-- All the engines, by number. -/
def allEngines : List Nat := (List.range 40).flatMap fun cl => (List.range 8).map fun e => 8 * cl + e

/-- The mappings of a context taken out of the TLBs, and the invalidation noted. -/
def dropMaps (s : State) (v : Inval) (ctx : BitVec 12) : State :=
  { s with clusters := s.clusters.map fun c => (c.1, { c.2 with tlb := c.2.tlb.filter fun e => e.ctx != ctx }),
           invals := s.invals ++ [v] }

theorem startInval_eq (s : State) (ctx : BitVec 12) (notify : Bool) :
    startInval s ctx notify =
      let t := markBehind s.takeId.1 allEngines s.takeId.2
      dropMaps t { id := s.takeId.1, ctx := ctx, left := allEngines, notify := notify,
                   old := (t.clusters.map fun c => (c.1, c.2.tlb.filter fun e => e.ctx == ctx)).filter
                                      fun c => !c.2.isEmpty } ctx := rfl

theorem dropMaps_mem (s : State) (v : Inval) (ctx : BitVec 12) : (dropMaps s v ctx).mem = s.mem := rfl

@[simp] theorem startInval_mem (s : State) (ctx : BitVec 12) (notify : Bool) : (startInval s ctx notify).mem = s.mem := by
  rw [startInval_eq]
  exact (dropMaps_mem ..).trans (markBehind_mem ..)

theorem markerGone_inv (id i : Nat) (h : Inv s) : Inv (markerGone s id i) := by
  unfold markerGone
  split
  · exact h
  · exact inv_ite (inv_ite (postNote_inv _ _ _ _ _ _ h) h) h

theorem execMarkerRemove_inv (cl e : Nat) (h : Inv s) : OutInv (execMarkerRemove cl e s) := by
  simp only [execMarkerRemove]
  split
  · exact outInv_ite (outInv_next (markerGone_inv _ _ h)) (outInv_next h)
  · exact outInv_next h

/-! ### Commands of the units of clusters and dies (R300) -/

theorem engineReject_inv (reason : Nat) (h : Inv s) : OutInv (engineReject s reason) := trapAt_inv _ _ h

theorem engineBlock_inv {a : Word} {n : Nat} {f : Block → Out} (h : Inv s) (hf : ∀ b, OutInv (f b)) : OutInv (engineBlock s a n f) :=
  outInv_ite (trapAt_inv _ _ h) (strandRead_inv h fun _ => hf _)

theorem engineAccept_inv {op fn : Nat} {i : Instr} {e : EngineWord} {block : Block} {recs : List Block}
    {put : EngineCmd → State → State} (hput : ∀ c t, (put c t).mem = t.mem) (h : Inv s) :
    OutInv (engineAccept s op fn i e block recs put) :=
  outInv_of_mem h (hput ..)

end Sys2Proof.Machine
end

section
/-! PROOFS. Memory in its canonical form: selections, the Concourse, collectives and the Landing. -/

namespace Sys2Proof.Machine

open Sys2Proof

variable {s t u : State}

/-! ### The selection unit and the end of an engine's command (R300 to R307) -/

theorem selIssue_inv (i : Instr) (fn : Nat) (e : EngineWord) (h : Inv s) : OutInv (selIssue i fn e s) := by
  refine memReady_inv h (outInv_ite (hold_inv h) (engineBlock_inv h fun b => ?_))
  split
  · exact engineReject_inv _ h
  · exact engineAccept_inv (fun _ _ => rfl) h

theorem execSelTopk_inv (g : BitVec 6) (e : EngineWord) (h : Inv s) : OutInv (execSelTopk g e s) :=
  guarded_inv h (ready_inv h (selIssue_inv _ _ _ h))

theorem execSelSeg_inv (g : BitVec 6) (e : EngineWord) (h : Inv s) : OutInv (execSelSeg g e s) :=
  guarded_inv h (ready_inv h (selIssue_inv _ _ _ h))

theorem execSelectionPerform_inv (cl : Nat) (h : Inv s) : OutInv (execSelectionPerform cl s) := by
  unfold execSelectionPerform
  split
  · exact outInv_next h
  · exact outInv_next (inv_ite h (settleCmd_inv _ _ _ h (performSelection_run ..)))

@[simp] theorem endRound_mem (s : State) (c : EngineCmd) : (endRound s c).mem = s.mem := mem_ite rfl rfl

@[simp] theorem tidySlots_mem (s : State) : (tidySlots s).mem = s.mem := rfl

theorem execEngineComplete_inv (idx : Nat) (h : Inv s) : OutInv (execEngineComplete idx s) := by
  unfold execEngineComplete
  cases (doneCmds s)[idx]? with
  | none => exact outInv_next h
  | some c =>
    refine outInv_next (inv_ite h (inv_of_mem h ?_))
    rw [completeCmd_mem, tidySlots_mem, endRound_mem]
    rfl

@[simp] theorem markElems_mem (s : State) (cl : Nat) (ctx : BitVec 12) (r : Block) (is : List (List Nat)) :
    (markElems s cl ctx r is).mem = s.mem := by
  unfold markElems
  split
  · rfl
  · exact foldl_mem _ (fun _ _ => markElem_mem ..) _ _

/-! ### The Concourse (R334 to R343) -/

theorem routeAccept_inv {i : Instr} {op fn n : Nat} {e : EngineWord} {b : Block} {recs : List Block} {acc : Session → Session}
    (h : Inv s) : OutInv (routeAccept i op fn e n b recs acc s) :=
  engineAccept_inv (fun _ _ => rfl) h

theorem routeIssue_inv {tok : BitVec 3} {f : State → Out} (h : Inv s) (hf : OutInv (f s)) : OutInv (routeIssue s tok f) :=
  memReady_inv h (outInv_ite (hold_inv h) hf)

theorem execRteSetup_inv (g : BitVec 6) (e : EngineWord) (h : Inv s) : OutInv (execRteSetup g e s) := by
  refine guarded_inv h (ready_inv h (routeIssue_inv h (engineBlock_inv h fun b => ?_)))
  dsimp only
  split
  · exact engineReject_inv _ h
  · exact routeAccept_inv h

theorem sessIssue_inv (i : Instr) (op fn : Nat) (e : EngineWord) (ok : SessState → Bool) (next : SessState) (h : Inv s) :
    OutInv (sessIssue i op fn e ok next s) := by
  refine routeIssue_inv h ?_
  split
  · exact engineReject_inv _ h
  · exact routeAccept_inv h

theorem execRteCount_inv (g : BitVec 6) (e : EngineWord) (h : Inv s) : OutInv (execRteCount g e s) :=
  guarded_inv h (ready_inv h (sessIssue_inv _ _ _ _ _ _ h))

theorem execRtePlace_inv (g : BitVec 6) (e : EngineWord) (h : Inv s) : OutInv (execRtePlace g e s) :=
  guarded_inv h (ready_inv h (sessIssue_inv _ _ _ _ _ _ h))

theorem execRteScatter_inv (g : BitVec 6) (e : EngineWord) (h : Inv s) : OutInv (execRteScatter g e s) :=
  guarded_inv h (ready_inv h (sessIssue_inv _ _ _ _ _ _ h))

theorem execRteGather_inv (g : BitVec 6) (e : EngineWord) (h : Inv s) : OutInv (execRteGather g e s) :=
  guarded_inv h (ready_inv h (sessIssue_inv _ _ _ _ _ _ h))

@[simp] theorem takeCount_mem (m : CountMsg) (s : State) (die : Nat) : (takeCount m s die).mem = s.mem := by
  unfold takeCount
  split
  · rfl
  · split
    · rfl
    · split
      · rfl
      · exact mem_ite rfl (routeFault_mem ..)

@[simp] theorem sendCount_mem (s : State) (m : CountMsg) : (sendCount s m).mem = s.mem := by
  have ht : ∀ xs : List Nat, (xs.foldl (takeCount m) s).mem = s.mem := fun xs => foldl_mem _ (fun _ _ => takeCount_mem ..) xs s
  simp only [sendCount]
  exact mem_ite (ht _) (ht _)

theorem countWrites_run (s : State) (die : Nat) (c : EngineCmd) (x : Session) (ws : List (List Nat × Nat)) (f : Session → Session)
    (g : Die → Die) (hg : ∀ d, dieIds (g d) = dieIds d) :
    RunsFrom s (do
      let t ← liftAcc (writeElems c.party x.home c.ctx (x.recs.getD 7 0) ws s)
      .ok ((t.modSession die x.num f).modDie die g)) :=
  .step (writeElems_run ..).liftAcc fun _ => .ok ((modSession_run ..).trans (.modDie _ _ hg))

theorem settleCount_inv (die : Nat) (c : EngineCmd) (x : Session) (h : Inv s) : Inv (settleCount s die c x) := by
  simp only [settleCount]
  split
  · exact settleRoute_inv _ _ h (.error _)
  · refine inv_ite h (settleRoute_inv _ _ h (countWrites_run _ _ _ _ _ _ _ fun d => ?_))
    rfl

theorem startCount_inv (die : Nat) (c : EngineCmd) (x : Session) (h : Inv s) : Inv (startCount s die c x) := by
  simp only [startCount]
  split
  · exact settleRoute_inv _ _ h (.error _)
  · exact settleCount_inv _ _ _ (inv_of_mem h ((sendCount_mem ..).trans (markElems_mem ..)))

theorem performRoute_inv (die : Nat) (c : EngineCmd) (h : Inv s) : Inv (performRoute s die c) := by
  unfold performRoute
  refine inv_ite (settleRoute_inv _ _ h (performRouteSetup_run ..)) ?_
  split
  · exact h
  · refine inv_ite h ?_
    dsimp only
    refine inv_ite (settleRoute_inv _ _ h (performGather_run ..)) ?_
    split
    · exact inv_ite (startCount_inv _ _ _ h) (settleCount_inv _ _ _ h)
    · exact settleRoute_inv _ _ h (performPlace_run ..)
    · exact settleRoute_inv _ _ h (performScatter_run ..)

theorem execConcoursePerform_inv (die sess : Nat) (h : Inv s) : OutInv (execConcoursePerform die sess s) := by
  unfold execConcoursePerform
  split
  · exact outInv_next h
  · exact outInv_next (inv_ite h (performRoute_inv _ _ h))

theorem execCountContribution_inv (die : Nat) (msg : CountMsg) (h : Inv s) : OutInv (execCountContribution die msg s) := by
  have ht : Inv (takeCount msg s die) := inv_of_mem h (takeCount_mem ..)
  refine outInv_ite (outInv_next h) ?_
  dsimp only
  split
  · exact outInv_next ht
  · exact outInv_next (settleCount_inv _ _ _ ht)

theorem takePeerRow_inv (xkey : BitVec 32) (n src owner row fmt : Nat) (vals : List Nat) (h : Inv s) :
    Inv (takePeerRow s xkey n src owner row fmt vals) := by
  unfold takePeerRow
  dsimp only
  split
  · exact h
  · split
    · next hw => exact ((writeElems_run ..).run _ hw).inv h
    · exact inv_of_mem h (engineFault_mem ..)

@[simp] theorem takePeerAsk_mem (s : State) (xkey : BitVec 32) (n src owner row : Nat) :
    (takePeerAsk s xkey n src owner row).mem = s.mem := by
  unfold takePeerAsk
  dsimp only
  split
  · rfl
  · split
    · rfl
    · exact engineFault_mem ..

@[simp] theorem takePeerAck_mem (s : State) (xkey : BitVec 32) (n rank owner : Nat) (ok : Bool) :
    (takePeerAck s xkey n rank owner ok).mem = s.mem := by
  unfold takePeerAck
  split
  · rfl
  · split
    · rfl
    · exact mem_ite rfl (mem_ite rfl (routeFault_mem ..))

theorem takePeerVals_inv (xkey : BitVec 32) (n rank owner row : Nat) (ok : Bool) (vals : List (Nat × Nat)) (h : Inv s) :
    Inv (takePeerVals s xkey n rank owner row ok vals) := by
  unfold takePeerVals
  split
  · exact h
  · split
    · exact h
    · refine inv_ite h (inv_ite (inv_of_mem h (routeFault_mem ..)) ?_)
      exact inv_ite (settleRoute_inv _ _ h (gatherRows_run ..)) h

theorem execRouteTimeout_inv (die sess : Nat) (h : Inv s) : OutInv (execRouteTimeout die sess s) := by
  unfold execRouteTimeout
  split
  · exact outInv_next h
  · dsimp only
    split
    · exact outInv_next h
    · exact outInv_ite (outInv_next h) (outInv_next h)

/-! ### The collective unit (R405 to R409) -/

theorem collIssue_inv (i : Instr) (k : Nat) (e : EngineWord) (h : Inv s) : OutInv (collIssue i k e s) := by
  refine memReady_inv h (outInv_ite (hold_inv h) (engineBlock_inv h fun b => ?_))
  dsimp only
  split
  · exact engineReject_inv _ h
  · exact engineAccept_inv (fun _ _ => rfl) h

theorem execColl_inv (g : BitVec 6) (i : Instr) (k : Nat) (e : EngineWord) (ns : List (BitVec 6)) (h : Inv s) :
    OutInv (guarded g s fun s => ready s ns (collIssue i k e s)) :=
  guarded_inv h (ready_inv h (collIssue_inv _ _ _ h))

@[simp] theorem holdColl_mem (s : State) (m : CollMsg) : (holdColl s m).mem = s.mem := mem_ite rfl rfl

@[simp] theorem sendColl_mem (s : State) (m : CollMsg) : (sendColl s m).mem = s.mem := by
  simp only [sendColl]
  exact mem_ite (holdColl_mem ..) (holdColl_mem ..)

theorem collWrites_run (s : State) (p : Party) (cl : Nat) (ctx : BitVec 12) (r : Block) (ws : List (List Nat × Nat)) :
    RunsFrom s (foldE (fun t x => engineWrite t none cl ctx r x.1 x.2) ws (openElems p cl ctx r (ws.map fun x => x.1) s)) :=
  .after (openElems_run ..) (foldE_run (fun _ _ => engineWrite_run ..) _ _)

theorem settleColl_inv (c : EngineCmd) (h : Inv s) : Inv (settleColl s c) := by
  simp only [settleColl]
  split
  · exact h
  · refine inv_ite h ?_
    exact settleCmd_inv _ _ _ h (collWrites_run ..)

theorem startColl_inv (c : EngineCmd) (h : Inv s) : Inv (startColl s c) := by
  simp only [startColl]
  split
  · exact settleCmd_inv _ _ _ h (.error _)
  · exact settleColl_inv _ (inv_of_mem h ((sendColl_mem ..).trans (markElems_mem ..)))

theorem execCollectivePerform_inv (die idx : Nat) (h : Inv s) : OutInv (execCollectivePerform die idx s) := by
  unfold execCollectivePerform
  split
  · exact outInv_next h
  · exact outInv_next (inv_ite h (inv_ite (settleColl_inv _ h) (inv_ite h (startColl_inv _ h))))

theorem execCollContribution_inv (msg : CollMsg) (h : Inv s) : OutInv (execCollContribution msg s) := by
  refine outInv_ite (outInv_next h) (outInv_next (inv_foldl _ (fun _ _ hu => ?_) _ (inv_of_mem h (holdColl_mem s msg))))
  exact inv_ite (settleColl_inv _ hu) hu

theorem execCollectiveTimeout_inv (die idx : Nat) (h : Inv s) : OutInv (execCollectiveTimeout die idx s) := by
  unfold execCollectiveTimeout
  split
  · exact outInv_next h
  · refine outInv_ite (outInv_next h) ?_
    dsimp only
    split
    · exact outInv_next h
    · exact outInv_next h

/-! ### The Landing (R308 to R312, R320) -/

theorem landingIssue_inv {tok : BitVec 3} {f : State → Out} (h : Inv s) (hf : OutInv (f s)) : OutInv (landingIssue s tok f) :=
  memReady_inv h (outInv_ite (hold_inv h) hf)

theorem landingAccept_inv {i : Instr} {fn lnd n : Nat} {e : EngineWord} {b : Block} {recs : List Block}
    {acc : LandingSlot → LandingSlot} (h : Inv s) : OutInv (landingAccept i fn e lnd n b recs acc s) :=
  engineAccept_inv (fun _ _ => rfl) h

theorem landingJudge_inv {lnd : Nat} {reason : Option Nat} {f : Out} (h : Inv s) (hf : OutInv f) :
    OutInv (landingJudge s lnd reason f) := by
  refine outInv_ite (hold_inv h) ?_
  split
  · exact engineReject_inv _ h
  · exact hf

theorem execUnmSetup_inv (g : BitVec 6) (e : EngineWord) (h : Inv s) : OutInv (execUnmSetup g e s) :=
  guarded_inv h (ready_inv h (landingIssue_inv h (engineBlock_inv h fun _ => landingJudge_inv h (landingAccept_inv h))))

theorem execUnmReg_inv (g : BitVec 6) (e : EngineWord) (h : Inv s) : OutInv (execUnmReg g e s) :=
  guarded_inv h (ready_inv h (landingIssue_inv h (engineBlock_inv h fun _ => landingJudge_inv h (landingAccept_inv h))))

theorem execUnmRound_inv (g : BitVec 6) (e : EngineWord) (h : Inv s) : OutInv (execUnmRound g e s) :=
  guarded_inv h (ready_inv h (landingIssue_inv h (landingJudge_inv h (landingAccept_inv h))))

theorem execUnmFree_inv (g : BitVec 6) (e : EngineWord) (h : Inv s) : OutInv (execUnmFree g e s) :=
  guarded_inv h (ready_inv h (landingIssue_inv h (landingJudge_inv h (landingAccept_inv h))))

theorem recordRound_inv (lnd : Nat) (c : EngineCmd) (h : Inv s) : Inv (recordRound s lnd c) := by
  refine inv_ite h ?_
  split
  · exact h
  · exact settleCmd_inv _ _ _ h (enginePutAs_run ..)

theorem performLanding_inv (lnd : Nat) (c : EngineCmd) (h : Inv s) : Inv (performLanding s lnd c) := by
  simp only [performLanding]
  split
  · exact settleCmd_inv _ _ _ h (performSetup_run ..)
  · exact settleCmd_inv _ _ _ h (.ok (modSlot_run ..))
  · split
    · exact settleCmd_inv _ _ _ h (.ok (.refl s))
    · split
      · exact settleCmd_inv _ _ _ h (.error _)
      · next e =>
        have ht := ((performRound_run ..).run _ e).inv h
        split
        · exact ht
        · exact recordRound_inv _ _ ht
  · exact settleCmd_inv _ _ _ h (.ok (modSlot_run ..))

theorem execLandingPerform_inv (lnd slot : Nat) (h : Inv s) : OutInv (execLandingPerform lnd slot s) := by
  unfold execLandingPerform
  split
  · exact outInv_next h
  · exact outInv_next (inv_ite (inv_ite h (performLanding_inv _ _ h)) (inv_ite (recordRound_inv _ _ h) h))

end Sys2Proof.Machine
end

section
/-! PROOFS. Memory in its canonical form: queues, groups, frames and the moves of pages. -/

namespace Sys2Proof.Machine

open Sys2Proof

variable {s t u : State}

/-! ### Queues, groups, pre-emption and the host (R233 to R246) -/

theorem execFqclose_inv (g : BitVec 6) (h : Inv s) : OutInv (execFqclose g s) := guarded_inv h (outInv_next h)

@[simp] theorem setRenq_mem (s : State) (q : Nat × Nat) (es : List RenqEntry) : (setRenq s q es).mem = s.mem := rfl

theorem execRenq_inv (g ra rb : BitVec 6) (h : Inv s) : OutInv (execRenq g ra rb s) := by
  refine guarded_inv h (ready_inv h (memReady_inv h (outInv_ite (hold_inv h) (outInv_ite (trapAt_inv _ _ h) ?_))))
  refine strandTranslate_inv h fun _ _ => ?_
  dsimp only
  split
  · exact trapAt_inv _ _ h
  · exact outInv_of_mem (releaseAt_inv _ _ _ h) (setRenq_mem ..)

theorem execGbar_inv (g fl ra : BitVec 6) (scope : BitVec 3) (h : Inv s) : OutInv (execGbar g fl ra scope s) := by
  refine guarded_inv h (ready_inv h (memReady_inv h ?_))
  split
  · exact trapAt_inv _ _ h
  · exact outInv_ite (hold_inv h) (outInv_of_mem (releaseAt_inv _ _ _ h) (tellGroup_mem ..))

theorem execGleave_inv (g ra : BitVec 6) (h : Inv s) : OutInv (execGleave g ra s) := by
  refine guarded_inv h (ready_inv h ?_)
  split
  · exact trapAt_inv _ _ h
  · exact outInv_of_mem h (tellGroup_mem ..)

theorem execGjoin_inv (g ra : BitVec 6) (h : Inv s) : OutInv (execGjoin g ra s) := by
  refine guarded_inv h (ready_inv h ?_)
  dsimp only
  split
  · exact trapAt_inv _ _ h
  · refine outInv_ite (trapAt_inv _ _ h) (outInv_ite (outInv_next h) (outInv_ite (trapAt_inv _ _ h) ?_))
    exact outInv_of_mem h (tellGroup_mem ..)

@[simp] theorem send_mem (s : State) (kind : String) (ws : List Word) : (s.send kind ws).mem = s.mem := rfl

/-- One flag update for each of a list of tasks. -/
theorem sendFlags_inv (xs : List Nat) (flag : Nat) (x : Word32) (scope : State → Nat) (h : Inv s) :
    Inv (xs.foldl (fun s t => sendFlag s t flag x (scope s)) s) :=
  inv_foldl _ (fun _ _ hu => inv_of_mem hu (sendFlag_mem ..)) _ h

theorem execGcast_inv (g fl ra rb : BitVec 6) (h : Inv s) : OutInv (execGcast g fl ra rb s) := by
  refine guarded_inv h (ready_inv h (memReady_inv h ?_))
  split
  · exact trapAt_inv _ _ h
  · dsimp only
    exact outInv_next (inv_ite (inv_of_mem (sendFlags_inv _ _ _ _ (releaseAt_inv _ _ _ h)) (send_mem ..))
      (sendFlags_inv _ _ _ _ (releaseAt_inv _ _ _ h)))

theorem execPrack_inv (g rd ra : BitVec 6) (h : Inv s) : OutInv (execPrack g rd ra s) := by
  refine guarded_inv h (ready_inv h (outInv_ite ?_ (outInv_next h)))
  dsimp only
  split <;> exact outInv_next h

theorem execHostirq_inv (g ra vec : BitVec 6) (h : Inv s) : OutInv (execHostirq g ra vec s) :=
  guarded_inv h (ready_inv h (memReady_inv h (outInv_ite (hold_inv h)
    (outInv_next (postNote_inv _ _ _ _ _ _ (releaseAt_inv _ _ _ h))))))

/-! ### Frames and the moves of pages (R360 to R365) -/

@[simp] theorem forgetFrame_mem (all : Bool) (s : State) (frame : Nat) : (forgetFrame all s frame).mem = s.mem := rfl

@[simp] theorem movePage_mem (s : State) (a b : Nat) : (movePage s a b).mem = s.mem := rfl

@[simp] theorem stashFrame_mem (s : State) (ctx : BitVec 12) (x : Nat) : (stashFrame s ctx x).mem = s.mem := rfl

@[simp] theorem countLate_mem (s : State) (ctx : BitVec 12) (deadline : Nat) : (countLate s ctx deadline).mem = s.mem :=
  mem_ite rfl rfl

theorem takeFrame_inv {cl : Nat} {c : Context} {x : Nat × State} (h : Inv s) (e : takeFrame s cl c = .ok (some x)) : Inv x.2 := by
  unfold takeFrame at e
  split at e
  · cases e
  · split at e
    · cases e
      exact h
    · split at e
      · cases e
      · split at e
        · cases e
        · split at e <;> cases e
          exact inv_of_mem (writePhys_inv false _ _ h) (forgetFrame_mem ..)

theorem takeSpare_inv {cl : Nat} {c : Context} {x : Nat × State} (h : Inv s) (e : takeSpare s cl c = .ok (some x)) : Inv x.2 := by
  unfold takeSpare at e
  split at e
  · cases e
  · exact takeFrame_inv h e

@[simp] theorem modTok_mem (s : State) (t : BitVec 3) (f : Token → Token) : (s.modTok t f).mem = s.mem := rfl

@[simp] theorem promoteAccepted_mem (s : State) (tok : BitVec 3) (a len : Nat) (deadline : Word) (lu : Bool) :
    (promoteAccepted s tok a len deadline lu).mem = s.mem := by
  simp only [promoteAccepted]
  split
  · split <;> simp
  · split <;> simp

theorem execPromote_inv (g : BitVec 6) (tok : BitVec 3) (ra rb dr : BitVec 6) (lu : BitVec 1) (h : Inv s) :
    OutInv (execPromote g tok ra rb dr lu s) :=
  guarded_inv h (ready_inv h (memReady_inv h (outInv_ite (hold_inv h) (outInv_ite (outInv_next h)
    (outInv_of_mem h (promoteAccepted_mem ..))))))

theorem copyLines_inv (z : Bool) (a b : Nat) (lines : Nat → Bool) (h : Inv s) : Inv (copyLines z s a b lines) :=
  inv_foldl _ (fun _ _ hu => inv_ite (copyLine_inv _ _ _ hu) hu) _ h

theorem moveLeaf_inv (m : PageMove) (frame : Nat) (lu : Bool) (h : Inv s) : Inv (moveLeaf s m frame lu) := by
  unfold moveLeaf
  split
  · exact h
  · exact writePte_inv _ _ _ _ h

@[simp] theorem setMove_mem (s : State) (m : PageMove) : (setMove s m).mem = s.mem := rfl

theorem switchMove_inv (m : PageMove) (frame : Nat) (lu : Bool) (st : MoveState) (h : Inv s) : Inv (switchMove s m frame lu st) :=
  inv_of_mem (moveLeaf_inv m frame lu h) ((setMove_mem ..).trans (startInval_mem ..))

@[simp] theorem promoteDone_mem (s : State) (m : PageMove) : (promoteDone s m).mem = s.mem := by
  simp only [promoteDone]
  split_ifs <;> simp

@[simp] theorem promotePost_mem (s : State) (cl : Nat) (ctx : BitVec 12) (va : Nat) : (promotePost s cl ctx va).mem = s.mem := by
  unfold promotePost
  split <;> rfl

theorem startMove_inv (m : PageMove) (h : Inv s) : Inv (startMove s m) := by
  unfold startMove
  split
  · exact h
  · refine inv_ite h (inv_ite (inv_of_mem h ((promoteDone_mem ..).trans (promotePost_mem ..))) ?_)
    split
    · exact h
    · split
      · exact h
      · exact h
      · next e => exact takeSpare_inv h e

theorem execPageMigrationCopy_inv (idx : Nat) (h : Inv s) : OutInv (execPageMigrationCopy idx s) := by
  unfold execPageMigrationCopy
  cases s.moves[idx]? with
  | none => exact outInv_next h
  | some m =>
    dsimp only
    split
    · exact outInv_next (startMove_inv _ h)
    · exact outInv_next (switchMove_inv _ _ _ _ (copyLines_inv _ _ _ _ h))
    · exact outInv_next h

theorem execPageMigrationSwitch_inv (idx : Nat) (h : Inv s) : OutInv (execPageMigrationSwitch idx s) := by
  unfold execPageMigrationSwitch
  cases s.moves[idx]? with
  | none => exact outInv_next h
  | some m =>
    refine outInv_ite (outInv_of_mem h ?_) (outInv_next h)
    exact (promoteDone_mem ..).trans (mem_ite rfl rfl)

theorem execPageReturn_inv (idx : Nat) (h : Inv s) : OutInv (execPageReturn idx s) := by
  unfold execPageReturn
  cases s.moves[idx]? with
  | none => exact outInv_next h
  | some m =>
    dsimp only
    split
    · exact outInv_ite (outInv_next (switchMove_inv _ _ _ _ (copyLines_inv _ _ _ _ h))) (outInv_next h)
    · exact outInv_ite (outInv_of_mem h rfl) (outInv_next h)
    · exact outInv_next h

end Sys2Proof.Machine
end

section
/-! PROOFS. Memory in its canonical form: KVAPP. -/

namespace Sys2Proof.Machine

open Sys2Proof

variable {s t u : State}

/-! ### KVAPP (R177 to R181, R362, R373) -/

/-- The state that an entry's step comes to. -/
def KvStep.state : KvStep → State
  | .done s => s
  | .stop s _ => s
  | .wait s => s

/-- The state in which the backing of an entry's pages stands. -/
def KvPages.state : KvPages → State
  | .backed s => s
  | .stop s _ => s
  | .wait s _ _ => s

@[simp] theorem dropRun_mem (s : State) (n : Nat) (ctx : BitVec 12) : (dropRun s n ctx).mem = s.mem := (dropRun_drops ..).2.1

@[simp] theorem setRun_mem (s : State) (n : Nat) (r : Option KvRun) : (s.setRun n r).mem = s.mem := rfl

@[simp] theorem touchRange_mem (s : State) (n : Nat) (ctx : BitVec 12) (va len : Nat) : (touchRange s n ctx va len).mem = s.mem := rfl

@[simp] theorem arenaFault_mem (s : State) (ctx : BitVec 12) (va : Nat) : (s.arenaFault ctx va).mem = s.mem := rfl

@[simp] theorem rowIntoLine_mem (n : Nat) (ctx : BitVec 12) (r : Block) (slot x : Nat) (bs : List Byte) (s : State) (k : TileKey) :
    (rowIntoLine n ctx r slot x bs s k).mem = s.mem := rfl

theorem writeLeaf_inv (ctx : BitVec 12) (va e frame : Nat) (h : Inv s) : Inv (writeLeaf ctx va s e frame) :=
  inv_ite (writePte_inv _ _ _ _ h) h

theorem writeRange_inv {n : Nat} {ctx : BitVec 12} {ps : List (Nat × Nat)} {bs : List Byte} (h : Inv s)
    (e : writeRange n ctx ps bs s = .ok t) : Inv t := by
  induction ps generalizing s bs with
  | nil =>
    cases e
    exact h
  | cons p ps ih =>
    simp only [writeRange] at e
    split at e
    · split at e
      · cases e
      · exact ih (inv_of_mem (writeAs_inv _ _ _ _ h) (modCluster_mem ..)) e
    · cases e

theorem writeLen_inv {n : Nat} {ctx : BitVec 12} {va x : Nat} (h : Inv s) (e : writeLen s n ctx va x = .ok t) : Inv t := by
  simp only [writeLen] at e
  split at e
  · cases e
    exact inv_of_mem h rfl
  · refine writeRange_inv ?_ e
    exact inv_of_mem h rfl

theorem fetchRow_inv (n : Nat) (r : Block) (k : TileKey) (h : Inv s) : Inv (fetchRow n r s k) := by
  unfold fetchRow
  dsimp only
  split
  · exact startFill_inv _ _ _ _ h
  · split
    · exact startFill_inv _ _ _ _ h
    · exact h
    · exact h
    · exact h

theorem writeTiles_inv (n : Nat) (ctx : BitVec 12) (r : Block) (slot x : Nat) (bs : List Byte) (ks : List TileKey) (h : Inv s) :
    Inv (writeTiles n ctx r slot x bs ks s).1 := by
  induction ks generalizing s with
  | nil => exact h
  | cons k ks ih =>
    unfold writeTiles
    split
    · exact ih (inv_of_mem h (rowIntoLine_mem ..))
    · exact fetchRow_inv _ _ _ h

theorem backPages_inv (slow : Bool) (cl : Nat) (ctx : BitVec 12) (ps : List (Nat × Nat)) (x : Option Nat) (h : Inv s) :
    Inv (backPages slow cl ctx ps x s).state := by
  induction ps generalizing s x with
  | nil => exact h
  | cons p ps ih =>
    cases x with
    | some x => exact ih _ (writeLeaf_inv _ _ _ _ h)
    | none =>
      unfold backPages
      split
      · exact ih _ h
      · split
        · exact h
        · split
          · exact h
          · exact h
          · next y e =>
            have hy : Inv y.2 := takeFrame_inv h e
            cases slow
            · exact ih _ (writeLeaf_inv _ _ _ _ hy)
            · dsimp only
              rw [if_pos rfl]
              split
              · exact inv_of_mem hy rfl
              · refine ih _ (writeLeaf_inv _ _ _ _ ?_)
                exact inv_of_mem hy rfl

theorem lenRun_inv (n : Nat) (ctx : BitVec 12) (r : KvRun) (h : Inv s) : Inv (lenRun s n ctx r).state := by
  unfold lenRun
  split
  · exact h
  · split
    · exact h
    · next e => exact writeLen_inv h e

theorem valueRun_inv (n : Nat) (ctx : BitVec 12) (r : KvRun) (h : Inv s) : Inv (valueRun s n ctx r).state := by
  have hy := writeTiles_inv n ctx r.vrec r.e.slot r.x r.bytes r.left h
  simp only [valueRun]
  split
  · exact lenRun_inv _ _ _ hy
  · exact hy

theorem rowsRun_inv (n : Nat) (ctx : BitVec 12) (r : KvRun) (h : Inv s) : Inv (rowsRun s n ctx r).state := by
  have hy := writeTiles_inv n ctx r.krec r.e.slot r.x r.bytes r.left h
  simp only [rowsRun]
  split
  · exact valueRun_inv _ _ _ h
  · split
    · exact hy
    · split
      · exact hy
      · exact valueRun_inv _ _ _ (inv_of_mem hy (touchRange_mem ..))

theorem goOn_inv (n : Nat) (ctx : BitVec 12) (r : KvRun) (h : Inv s) : Inv (goOn s n ctx r).state := by
  have hb : Inv (backPages true (coreCluster n) ctx r.pages r.frame (s.setRun n none)).state := backPages_inv _ _ _ _ _ h
  unfold goOn
  split <;> rename_i e <;> rw [e] at hb
  · exact hb
  · exact hb
  · exact rowsRun_inv _ _ _ hb

theorem beginRun_inv (n : Nat) (ctx : BitVec 12) (kr vr : Block) (e : KvEntry) (x : Nat) (ps : List (Nat × Nat)) (h : Inv s) :
    Inv (beginRun s n ctx kr vr e x ps).state := by
  unfold beginRun
  split
  · exact h
  · exact h
  · exact goOn_inv _ _ _ (inv_of_mem h (touchRange_mem ..))

theorem kvStep_inv (n : Nat) (ctx : BitVec 12) (kr vr : Block) (ea b : Nat) (e : KvEntry) (h : Inv s) :
    Inv (kvStep s n ctx kr vr ea b e).state := by
  have ht : Inv (touchRange s n ctx e.lenp 4) := inv_of_mem h (touchRange_mem ..)
  simp only [kvStep]
  split
  · exact h
  · split
    · exact h
    · split
      · exact h
      · split
        · exact h
        · split
          · exact ht
          · split
            · exact ht
            · exact beginRun_inv _ _ _ _ _ _ _ ht

theorem kvEntryAt_inv (n : Nat) (ctx : BitVec 12) (kr vr : Block) (tbl b : Nat) (h : Inv s) :
    Inv (kvEntryAt s n ctx kr vr tbl b).1.state := by
  unfold kvEntryAt
  split
  · exact goOn_inv _ _ _ h
  · split
    · exact h
    · exact kvStep_inv _ _ _ _ _ _ _ h

theorem kvFrom_inv (n : Nat) (ctx : BitVec 12) (kr vr : Block) (tbl fuel b : Nat) (h : Inv s) :
    Inv (kvFrom n ctx kr vr tbl fuel b s).1 := by
  induction fuel generalizing s b with
  | zero => exact h
  | succ fuel ih =>
    have hz := kvEntryAt_inv n ctx kr vr tbl b h
    unfold kvFrom
    dsimp only
    split <;> rename_i e <;> rw [e] at hz
    · exact hz
    · exact hz
    · split
      · exact ih _ hz
      · split
        · exact hz
        · exact ih _ hz

theorem rowPast_inv {n : Nat} {ctx : BitVec 12} {r : Block} {slot x : Nat} {bs : List Byte} (h : Inv s)
    (e : rowPast s n ctx r slot x bs = .ok t) : Inv t := by
  simp only [rowPast] at e
  split at e
  · cases e
  · next hw =>
    cases e
    exact inv_of_mem (writeRange_inv (inv_of_mem (drainAlcove_inv _ _ h) (modCore_mem ..)) hw) rfl

theorem restRun_inv {n : Nat} {ctx : BitVec 12} {r : KvRun} (h : Inv s) (e : restRun s n ctx r = .ok t) : Inv t := by
  simp only [restRun] at e
  split at e
  · split at e
    · cases e
    · next hu => exact writeRange_inv (drainAlcove_inv _ _ (rowPast_inv h hu)) e
  · split at e
    · cases e
    · next hk =>
      split at e
      · cases e
      · split at e
        · cases e
        · next hu => exact writeRange_inv (drainAlcove_inv _ _ (rowPast_inv (rowPast_inv h hk) hu)) e

@[simp] theorem kvFault_mem (s : State) (n : Nat) (ctx : BitVec 12) (f : KvStop) : (kvFault s n ctx f).mem = s.mem := by
  cases f with
  | arena va => rfl
  | data g => exact dataFault_mem ..
  | walk va => rfl
  | trap c v => rfl

theorem finishKv_inv (n : Nat) (h : Inv s) : Inv (finishKv s n) := by
  simp only [finishKv]
  split
  · exact h
  · next r _ =>
    have hb : Inv (backPages false (coreCluster n) (s.core n).ctx r.pages r.frame (s.setRun n none)).state := backPages_inv _ _ _ _ _ h
    split <;> rename_i e <;> rw [e] at hb
    · exact inv_of_mem hb (kvFault_mem ..)
    · exact hb
    · split
      · exact inv_of_mem hb (kvFault_mem ..)
      · next hu => exact inv_of_mem (restRun_inv hb hu) rfl

@[simp] theorem take_mem (s : State) : s.take.mem = s.mem := rfl

@[simp] theorem trapAfter_mem (s : State) (code : Nat) (tval base : Word) : (trapAfter s code tval base).mem = s.mem := by
  unfold trapAfter
  exact trapEntryVia_mem ..

theorem kvStopped_inv (rd : BitVec 6) (b : Nat) (f : KvStop) (h : Inv s) : OutInv (kvStopped s rd b f) := by
  have ht : Inv ((kvOver s).wr rd (BitVec.ofNat 64 b)) := inv_of_mem h (kvOver_mem s)
  cases f with
  | trap code val => exact outInv_of_mem ht ((take_mem _).trans (trapAfter_mem ..))
  | walk va => exact walkErrorAt_inv _ ht
  | data g => exact dataAt_inv _ ht
  | arena va => exact outInv_of_mem ht rfl

theorem execKvapp_inv (g rd ra kr vr : BitVec 6) (cnt : BitVec 8) (h : Inv s) : OutInv (execKvapp g rd ra kr vr cnt s) := by
  refine guarded_inv h (ready_inv h (memReady_inv h ?_))
  split
  · exact faultAt_inv _ _ _ _ h
  · exact faultAt_inv _ _ _ _ h
  · next x y _ _ =>
    refine outInv_ite (trapAt_inv _ _ h) ?_
    have hr := kvFrom_inv s.issue.core s.live.ctx x y (s.rd ra).toNat (cnt.toNat + 1 - (s.rd rd).toNat) (s.rd rd).toNat h
    dsimp only
    split
    · exact outInv_of_mem hr (kvOver_mem _)
    · exact outInv_of_mem hr rfl
    · exact kvStopped_inv _ _ _ hr

end Sys2Proof.Machine
end

section
/-! PROOFS. Memory in its canonical form: launches, placement, retirement and accumulator transfers. -/

namespace Sys2Proof.Machine

open Sys2Proof

variable {s t u : State}

/-! ### The taking of launches (R236, R238, R379) -/

@[simp] theorem hostAccess_mem (s : State) (ctx : BitVec 12) (addr : Nat) : (s.hostAccess ctx addr).mem = s.mem := rfl

@[simp] theorem walkFault_mem (s : State) (ctx : BitVec 12) (f : AccFail) : (walkFault s ctx f).mem = s.mem := by
  unfold walkFault
  split <;> rfl

@[simp] theorem statusFlag_mem (s : State) (fe : Option FlagTarget) : (statusFlag s fe).mem = s.mem := by
  unfold statusFlag
  split
  · rfl
  · split
    · rfl
    · exact sendFlag_mem ..

theorem putStatus_inv (cl : Nat) (ctx : BitVec 12) (notify v : Word) (h : Inv s) : Inv (putStatus s cl ctx notify v) := by
  refine inv_ite h ?_
  split
  · next e => exact enginePut_inv h e
  · exact h

theorem noteStatus_inv (ctx : BitVec 12) (tag : Option Word) (v : Word) (h : Inv s) : Inv (noteStatus s ctx tag v) := by
  unfold noteStatus
  split
  · exact h
  · split
    · exact h
    · exact postNote_inv _ _ _ _ _ _ h

@[simp] theorem queueLaunch_mem (s : State) (x : LaunchSource) (r : BitVec 4096) (p : LaunchParts) :
    (queueLaunch s x r p).mem = s.mem := by
  simp only [queueLaunch]
  exact mem_ite rfl rfl

@[simp] theorem checkSets_mem (s : State) (cl : Nat) (gtab : List (BitVec 2048)) : (checkSets s cl gtab).mem = s.mem :=
  foldl_mem _ (fun _ _ => fabricGroup_mem ..) _ _

theorem decideLaunch_inv (x : LaunchSource) (lrec : Nat) (h : Inv s) : Inv (decideLaunch s x lrec) := by
  simp only [decideLaunch]
  split
  · exact inv_of_mem (noteStatus_inv _ _ _ (putStatus_inv _ _ _ _ h)) (statusFlag_mem ..)
  · have hf : ∀ f, Inv (walkFault s x.ctx f) := fun f => inv_of_mem h (walkFault_mem ..)
    exact inv_of_mem (noteStatus_inv _ _ _ (putStatus_inv _ _ _ _ (hf _))) (statusFlag_mem ..)
  · next r p _ =>
    have hq : ∀ y, Inv (checkSets (queueLaunch s y r p) x.cluster p.gtab) := fun y =>
      inv_of_mem h ((checkSets_mem ..).trans (queueLaunch_mem ..))
    have hr := noteStatus_inv x.ctx x.tag 1 (putStatus_inv x.cluster x.ctx x.notify 1
      (hq { x with prio := BitVec.ofNat 2 (Nat.max x.prio.toNat (lPrio r)) }))
    exact inv_ite hr (inv_of_mem hr (statusFlag_mem ..))

theorem unreadEntry_inv (cl : Nat) (target : Option Nat) (e : RenqEntry) (f : AccFail) (h : Inv s) :
    Inv (unreadEntry s cl target e f) := by
  have hw : Inv (walkFault s e.ctx f) := inv_of_mem h (walkFault_mem ..)
  simp only [unreadEntry]
  split
  · exact hw
  · exact inv_of_mem (putStatus_inv _ _ _ _ hw) (statusFlag_mem ..)

theorem takeEntry_inv (cl : Nat) (target : Option Nat) (e : RenqEntry) (h : Inv s) : Inv (takeEntry s cl target e) := by
  unfold takeEntry
  split
  · exact unreadEntry_inv _ _ _ _ h
  · exact inv_ite (decideLaunch_inv _ _ h) (inv_of_mem (putStatus_inv _ _ _ _ h) (statusFlag_mem ..))

theorem execLaunchTake_inv (cluster queue : Nat) (h : Inv s) : OutInv (execLaunchTake cluster queue s) := by
  unfold execLaunchTake
  split
  · exact outInv_next h
  · dsimp only
    split
    · exact outInv_next h
    · split
      · exact outInv_next h
      · exact outInv_next h
      · exact outInv_next h
      · exact outInv_next (takeEntry_inv _ _ _ h)

theorem takeRing_inv (c : Context) (cl : Nat) (b : BitVec 512) (h : Inv s) : Inv (takeRing s c cl b) :=
  inv_ite (decideLaunch_inv _ _ h) (noteStatus_inv _ _ _ (putStatus_inv _ _ _ _ h))

theorem execHostLaunchTake_inv (ctx cluster : Nat) (h : Inv s) : OutInv (execHostLaunchTake ctx cluster s) := by
  unfold execHostLaunchTake
  split
  · exact outInv_next h
  · refine outInv_ite (outInv_next h) ?_
    dsimp only
    split
    · exact outInv_of_mem h (walkFault_mem ..)
    · exact outInv_next (takeRing_inv _ _ _ h)

/-! ### Placing and starting (R151, R290 to R295) -/

@[simp] theorem setSlotEntry_mem (s : State) (k : Nat) (e : BitVec 16) : (setSlotEntry s k e).mem = s.mem := rfl

@[simp] theorem loadSlots_mem (s : State) (l : Launch) : (loadSlots s l).mem = s.mem :=
  mem_ite rfl ((modLaunch_mem ..).trans (foldl_mem _ (fun _ _ => setSlotEntry_mem ..) _ _))

@[simp] theorem dropSlots_mem (s : State) (l : Launch) : (dropSlots s l).mem = s.mem :=
  mem_ite ((modLaunch_mem ..).trans (foldl_mem _ (fun _ _ => setSlotEntry_mem ..) _ _)) rfl

@[simp] theorem dropIdleSlots_mem (s : State) (ctx : BitVec 12) : (dropIdleSlots s ctx).mem = s.mem :=
  foldl_mem _ (fun _ _ => dropSlots_mem ..) _ _

@[simp] theorem giveAreas_mem (s : State) (c : Context) (l : Launch) : (giveAreas s c l).mem = s.mem :=
  foldl_mem _ (fun _ _ => modTask_mem ..) _ _

@[simp] theorem seatTask_mem (l : Launch) (prio : Nat) (s : State) (x : Task × Nat) : (seatTask l prio s x).mem = s.mem := rfl

theorem fetchResidency_inv (l : Launch) (cl : Nat) (h : Inv s) : Inv (fetchResidency l s cl) :=
  inv_foldl _ (fun _ _ hu => fillHall_inv _ _ _ _ _ hu) _ h

theorem placeAll_inv (c : Context) (l : Launch) (prio : Nat) (ps : List (Task × Nat)) (h : Inv s) : Inv (placeAll s c l prio ps) := by
  refine inv_ite h ?_
  have ht : (ps.foldl (seatTask l prio) (loadSlots (giveAreas s c l) l)).mem = s.mem :=
    (foldl_mem _ (fun _ _ => seatTask_mem ..) _ _).trans ((loadSlots_mem ..).trans (giveAreas_mem ..))
  have hu := joinEarly_inv l (inv_of_mem h ((formGroups_mem _ l).trans ht))
  exact inv_of_mem (inv_foldl _ (fun _ _ hv => fetchResidency_inv _ _ hv) _ hu) (modLaunch_mem ..)

@[simp] theorem requestStop_mem (prio : Nat) (s : State) (t : Task) : (requestStop prio s t).mem = s.mem := rfl

@[simp] theorem preempt_mem (s : State) (l : Launch) (prio need : Nat) (cores : List Nat) : (preempt s l prio need cores).mem = s.mem := by
  simp only [preempt]
  split
  · rfl
  · exact foldl_mem _ (fun _ _ => requestStop_mem ..) _ _

theorem walkEntry_inv (w : Walk) (e : Waiting) (h : Inv w.s) : Inv (walkEntry w e).s := by
  simp only [walkEntry]
  split
  · exact h
  · split
    · exact h
    · next c _ _ =>
      have ht := fun ps => placeAll_inv c e.launch (eprio w.s e.launch e.arrival) ps h
      have hp : ∀ ps n us, Inv (preempt (placeAll w.s c e.launch (eprio w.s e.launch e.arrival) ps) e.launch
          (eprio w.s e.launch e.arrival) n us) := fun ps _ _ => inv_of_mem (ht ps) (preempt_mem ..)
      split <;> split
      · exact ht _
      · exact inv_ite (hp ..) (ht _)
      · exact ht _
      · exact inv_ite (hp ..) (ht _)

theorem walkEntries_inv (es : List Waiting) (w : Walk) (h : Inv w.s) : Inv (es.foldl walkEntry w).s := by
  induction es generalizing w with
  | nil => exact h
  | cons e es ih => exact ih _ (walkEntry_inv w e h)

theorem execSchedulerWalk_inv (cluster : Nat) (h : Inv s) : OutInv (execSchedulerWalk cluster s) :=
  outInv_ite (outInv_next h) (outInv_of_mem (walkEntries_inv _ { s := s, claimed := [] } h) rfl)

theorem execResidencyTimeout_inv (task : Nat) (h : Inv s) : OutInv (execResidencyTimeout task s) := by
  unfold execResidencyTimeout
  split
  · exact outInv_next h
  · exact outInv_ite (outInv_next h) (outInv_next h)

theorem execTaskStart_inv (task : Nat) (h : Inv s) : OutInv (execTaskStart task s) := by
  unfold execTaskStart
  split
  · exact outInv_next h
  · split
    · exact outInv_next h
    · exact outInv_ite (outInv_next h) (outInv_next (tracePost_inv _ _ _ _ _ _ _ h))

/-! ### Retirement (R116, R293) -/

theorem resumeContext_inv (ctx : BitVec 12) (h : Inv s) : Inv (resumeContext s ctx) := postNote_inv _ _ _ _ _ _ h

theorem settleStop_inv (ctx : BitVec 12) (h : Inv s) : Inv (settleStop s ctx) := by
  unfold settleStop
  split
  · exact h
  · have hd : Inv (dropIdleSlots s ctx) := inv_of_mem h (dropIdleSlots_mem ..)
    have hn := postNote_inv ctx 0 4 1 0 0 (s := (dropIdleSlots s ctx).modCtx ctx fun c => { c with ctl := .stopped }) hd
    exact inv_ite (inv_ite (resumeContext_inv _ (inv_ite hn hd)) (inv_ite hn hd)) hd

@[simp] theorem clearPins_mem (s : State) (n : Nat) : (clearPins s n).mem = s.mem := rfl

@[simp] theorem clearRetain_mem (s : State) (cl : Nat) : (clearRetain s cl).mem = s.mem := rfl

theorem vacate_inv (n : Nat) (h : Inv s) : Inv (vacate s n) := by
  have hd : Inv (dropRun s n (s.core n).ctx) := inv_of_mem h (dropRun_mem ..)
  exact inv_of_mem (drainAlcove_inv _ _ (flushStores_inv _ _ hd)) ((modCore_mem ..).trans (clearPins_mem ..))

theorem retireTask_inv (t : Task) (l : Launch) (h : Inv s) : Inv (retireTask s t l) := by
  have hl : Inv (leaveAll (vacate s t.core) l t) := inv_of_mem (vacate_inv _ h) (leaveAll_mem ..)
  exact tracePost_inv _ _ _ _ _ _ _ hl

theorem execTaskRetire_inv (task : Nat) (h : Inv s) : OutInv (execTaskRetire task s) := by
  unfold execTaskRetire
  split
  · exact outInv_next h
  · split
    · exact outInv_next h
    · refine outInv_ite (outInv_next h) ?_
      split
      · exact outInv_next (settleStop_inv _ (retireTask_inv _ _ h))
      · exact outInv_next h

theorem drainRan_inv (l : Launch) (h : Inv s) : Inv (drainRan s l) := inv_foldl _ (fun _ _ hu => drainHall_inv _ _ hu) _ h

@[simp] theorem endLaunchGroups_mem (s : State) (l : Launch) : (endLaunchGroups s l).mem = s.mem :=
  (endGroups_mem ..).trans ((foldl_mem _ (fun _ _ => send_mem ..) _ _).trans rfl)

@[simp] theorem forgetGroups_mem (s : State) (l : Launch) : (forgetGroups s l).mem = s.mem := rfl

@[simp] theorem dropLaunch_mem (s : State) (l : Launch) : (dropLaunch s l).mem = s.mem := rfl

@[simp] theorem retireWrites_mem (s : State) (l : Launch) : (retireWrites s l).mem = s.mem := rfl

theorem freshHalls_inv (ctx : BitVec 12) (h : Inv s) : Inv (freshHalls s ctx) := by
  refine inv_foldl _ (fun u x hu => ?_) _ ?_
  · split
    · exact hu
    · exact fetchResidency_inv _ _ hu
  · exact h

theorem execLaunchRetire_inv (launch : Nat) (h : Inv s) : OutInv (execLaunchRetire launch s) := by
  unfold execLaunchRetire
  split
  · exact outInv_next h
  · next l _ =>
    have h0 := drainRan_inv l h
    refine outInv_ite (outInv_next h) (outInv_ite (outInv_next h0) ?_)
    have ht : Inv (retireWrites (freshHalls (drainRan s l) l.ctx) l) := inv_of_mem (freshHalls_inv _ h0) (retireWrites_mem ..)
    have hu := noteStatus_inv l.ctx l.tag 2 (putStatus_inv l.cluster l.ctx l.notify 2 ht)
    exact outInv_of_mem (inv_ite (c := l.fwhen = true) (inv_of_mem hu (statusFlag_mem ..)) hu)
      ((dropLaunch_mem ..).trans ((forgetGroups_mem ..).trans ((endLaunchGroups_mem ..).trans (dropSlots_mem ..))))

/-! ### Accumulator transfers (R201 to R204) -/

theorem aldStart_inv (i : Instr) (rr rp : BitVec 6) (r : Block) (m : Option (BitVec 8)) (spans : List (Nat × Nat × Nat)) (h : Inv s) :
    OutInv (aldStart i rr rp r m spans s) :=
  outInv_ite (hold_inv h) (outInv_ite (hold_inv h) (outInv_next (parkCmd_inv _ _ h)))

theorem execAld_inv (g rr rp : BitVec 6) (view rm : BitVec 3) (ftz tr ve : BitVec 1) (minv : BitVec 8) (h : Inv s) :
    OutInv (execAld g rr rp view rm ftz tr ve minv s) := by
  refine guarded_inv h (ready_inv h ?_)
  split
  · exact faultAt_inv _ _ _ _ h
  · split
    · exact faultAt_inv _ _ _ _ h
    · exact aldStart_inv _ _ _ _ _ _ h

theorem execAldComplete_inv (core idx : Nat) (h : Inv s) : OutInv (execAldComplete core idx s) := by
  unfold execAldComplete
  split
  · exact outInv_next h
  · refine outInv_ite (outInv_next h) (outInv_ite ?_ (outInv_next (inv_ite h (lookWants_inv _ _ h))))
    exact outInv_next (finishParked_inv _ _ _ h)

@[simp] theorem putLine_mem (s : State) (n : Nat) (l : TileLine) : (putLine s n l).mem = s.mem := rfl

theorem allocWrite_inv {n : Nat} {k : TileKey} {r : Block} {ver : BitVec 8} {data : Line} (h : Inv s)
    (e : allocWrite s n k r ver data = some t) : Inv t := by
  simp only [allocWrite] at e
  split at e
  · cases e
    exact inv_of_mem h (putLine_mem ..)
  · cases e
    exact inv_of_mem (inv_ite (drainLine_inv _ _ _ h) h) (putLine_mem ..)
  · cases e

theorem storeTile_inv {n : Nat} {k : TileKey} {r : Block} {m : Option (BitVec 8)} {data : Line} (h : Inv s)
    (e : storeTile s n k r m data = some t) : Inv t := by
  unfold storeTile at e
  split at e
  · exact allocWrite_inv h e
  · split at e
    · cases e
    · cases e
      exact inv_of_mem h (putLine_mem ..)
    · cases e
      exact inv_of_mem h (putLine_mem ..)
    · split at e
      · cases e
        exact inv_of_mem h (putLine_mem ..)
      · exact allocWrite_inv (drainLine_inv _ _ _ h) e

theorem execAst_inv (g rr rp : BitVec 6) (view rm : BitVec 3) (ftz tr ve : BitVec 1) (minv : BitVec 8) (h : Inv s) :
    OutInv (execAst g rr rp view rm ftz tr ve minv s) := by
  refine guarded_inv h (ready_inv h ?_)
  split
  · exact faultAt_inv _ _ _ _ h
  · split
    · exact faultAt_inv _ _ _ _ h
    · refine outInv_ite (hold_inv h) ?_
      dsimp only
      split
      · exact hold_inv h
      · next e => exact outInv_of_mem (storeTile_inv h e) rfl

end Sys2Proof.Machine
end

section
/-! PROOFS. Memory in its canonical form: cuts, saves, faults, the end of contexts and the host. -/

namespace Sys2Proof.Machine

open Sys2Proof

variable {s t u : State}

/-! ### Cuts and saves (R259, R383, R384) -/

theorem completeCore_inv (n : Nat) (h : Inv s) : Inv (completeCore s n) := by
  unfold completeCore
  extract_lets t u
  have ht : Inv t := flushStores_inv _ _ (inv_foldl _ (fun _ _ hu => finishLoads_inv _ _ hu) _ h)
  have hu : Inv u := inv_of_mem ht (modCore_mem ..)
  clear_value u
  exact performPubs_inv _ (inv_foldl _ (fun _ _ hv => inv_ite (finishParked_inv _ _ _ hv) hv) _ hu)

@[simp] theorem removeCmds_mem (s : State) (p : EngineCmd → Bool) : (removeCmds s p).mem = s.mem := rfl

@[simp] theorem releaseMoves_mem (s : State) (n task : Nat) : (releaseMoves s n task).mem = s.mem :=
  foldl_mem _ (fun _ _ => modCore_mem ..) _ _

theorem leaveTiles_inv (n : Nat) (ctx : BitVec 12) (h : Inv s) : Inv (leaveTiles s n ctx) := by
  unfold leaveTiles
  extract_lets t u
  have ht : Inv t := h
  clear_value t
  exact inv_of_mem (drainAlcove_inv _ _ ht) ((modCore_mem ..).trans (clearPins_mem ..))

theorem traceStop_inv (x : Task) (ctx : BitVec 12) (h : Inv s) : Inv (traceStop s x ctx) :=
  inv_foldl _ (fun _ _ hu => tracePost_inv _ _ _ _ _ _ _ hu) _ h

@[simp] theorem keepMet_mem (s : State) (n task : Nat) : (keepMet s n task).mem = s.mem := rfl

@[simp] theorem rehome_mem (s : State) (n task : Nat) : (rehome s n task).mem = s.mem := rfl

theorem takeBool_ite_inv {b : Bool} (h : Inv s) : Inv (if b then s.takeBool else (false, s)).2 := by
  cases b <;> exact h

theorem saveTask_inv (x : Task) (h : Inv s) : Inv (saveTask s x) := by
  simp only [saveTask]
  exact inv_of_mem (finishKv_inv _ (completeCore_inv _ (takeBool_ite_inv h)))
    ((modTask_mem ..).trans ((modCore_mem ..).trans ((keepMet_mem ..).trans ((releaseMoves_mem ..).trans (removeCmds_mem ..)))))

@[simp] theorem areaFault_mem (s : State) (x : Task) (ctx : BitVec 12) (f : AccFail) : (areaFault s x ctx f).mem = s.mem := by
  cases f with
  | access va => rfl
  | walk va => rfl
  | data pa => exact dataFault_mem ..

theorem execPreemptGraceExpiry_inv (task : Nat) (h : Inv s) : OutInv (execPreemptGraceExpiry task s) := by
  unfold execPreemptGraceExpiry
  split
  · exact outInv_next h
  · exact outInv_ite (outInv_next h) (outInv_next h)

theorem execCut_inv (task : Nat) (h : Inv s) : OutInv (execCut task s) := by
  unfold execCut
  split
  · exact outInv_next h
  · split
    · exact outInv_next h
    · next x _ _ l _ =>
      have hl := leaveTiles_inv x.core l.ctx (saveTask_inv x h)
      refine outInv_ite (outInv_next h) ?_
      dsimp only
      split
      · exact outInv_next hl
      · next x1 _ =>
        have hv := traceStop_inv x1 l.ctx hl
        split
        · exact outInv_next hv
        · exact outInv_of_mem hv (areaFault_mem ..)

@[simp] theorem startRetrains_mem (s : State) : (startRetrains s).mem = s.mem := by
  unfold startRetrains
  generalize List.range 12 = xs
  refine foldl_mem _ (fun t k => ?_) xs s
  dsimp only
  split
  · exact moduleEvent_mem ..
  · rfl

@[simp] theorem failSave_mem (s : State) (x : Task) (ctx : BitVec 12) (f : AccFail) : (failSave s x ctx f).mem = s.mem :=
  (startRetrains_mem ..).trans (areaFault_mem ..)

theorem writeBlocks_inv {v : Save} {bs : List Nat} (h : Inv s) (e : writeBlocks v bs s = .ok t) : Inv t := by
  induction bs generalizing s with
  | nil =>
    cases e
    exact h
  | cons b bs ih =>
    unfold writeBlocks at e
    split at e
    · cases e
    · next hw => exact ih (enginePut_inv h hw) e

theorem endSave_inv (v : Save) (h : Inv s) : Inv (endSave s v) := by
  refine inv_of_mem (settleStop_inv _ (inv_of_mem ?_ (clearRetain_mem ..))) (startRetrains_mem ..)
  exact inv_ite h h

theorem execSaveComplete_inv (task : Nat) (h : Inv s) : OutInv (execSaveComplete task s) := by
  unfold execSaveComplete
  split
  · exact outInv_next h
  · split
    · exact outInv_next h
    · refine outInv_ite (outInv_next h) ?_
      split
      · next e => exact outInv_next (endSave_inv _ (writeBlocks_inv h e))
      · exact outInv_of_mem h (failSave_mem ..)

theorem redirectBlock_inv (stack : Nat) (x : Task) (b : Nat) (h : Inv s) : Inv (redirectBlock stack x s b) := by
  have hx : Inv s.takeBool.2 := h
  unfold redirectBlock
  split
  · exact h
  · split
    · exact h
    · refine inv_ite h ?_
      dsimp only
      refine inv_ite ?_ ?_
      · split
        · next e => exact inv_of_mem (enginePut_inv hx e) rfl
        · exact inv_of_mem hx (areaFault_mem ..)
      · split
        · exact hx
        · exact inv_ite hx hx

theorem redirectSave_inv (stack : Nat) (x : Task) (h : Inv s) : Inv (redirectSave stack s x) := by
  unfold redirectSave
  split
  · exact h
  · exact inv_ite (inv_foldl _ (fun _ _ hu => redirectBlock_inv _ _ _ hu) _ h) h

theorem execHbmRetrain_inv (stack : Nat) (h : Inv s) : OutInv (execHbmRetrain stack s) := by
  have hr := inv_foldl (redirectSave stack) (fun _ _ hu => redirectSave_inv stack _ hu) s.tasks h
  exact outInv_ite (outInv_next h) (outInv_of_mem hr ((startRetrains_mem ..).trans (moduleEvent_mem ..)))

theorem execRetrainRequest_inv (stack : Nat) (h : Inv s) : OutInv (execRetrainRequest stack s) :=
  outInv_ite (outInv_next h) (outInv_of_mem h (startRetrains_mem ..))

theorem execStackRetrainingDone_inv (stack : Nat) (h : Inv s) : OutInv (execStackRetrainingDone stack s) :=
  outInv_ite (outInv_next h) (outInv_next h)

/-! ### Resuming (R262, R264) -/

@[simp] theorem reenter_mem (s : State) (c : EngineCmd) : (reenter s c).mem = s.mem := by
  unfold reenter
  exact mem_ite (arrive_mem ..) (mem_ite rfl (mem_ite rfl (mem_ite rfl rfl)))

@[simp] theorem reenterFrom_mem (cs : List EngineCmd) (s : State) : (reenterFrom cs s).1.mem = s.mem := by
  induction cs generalizing s with
  | nil => rfl
  | cons c cs ih =>
    unfold reenterFrom
    split
    · exact (ih _).trans (reenter_mem ..)
    · rfl

@[simp] theorem reenterTask_mem (s : State) (x : Task) : (reenterTask s x).mem = s.mem := mem_ite rfl (reenterFrom_mem ..)

@[simp] theorem reenterAll_mem (s : State) : (reenterAll s).mem = s.mem := foldl_mem _ (fun _ _ => reenterTask_mem ..) _ _

@[simp] theorem loadSlot_mem (w : Nat → Word) (l : Launch) (task : Nat) (s : State) (i : Nat) : (loadSlot w l task s i).mem = s.mem := by
  simp only [loadSlot]
  split
  · rfl
  · exact mem_ite rfl (settleGroup_mem ..)

theorem restoreTask_inv (x : Task) (l : Launch) (c : Context) (h : Inv s) : Inv (restoreTask s x l c) := by
  unfold restoreTask
  extract_lets w npark neng c1 c2 c3 cmds grps t0 u fresh v
  have hu : Inv u := h
  have hr : Inv (rehome (reenterAll ((List.range grps.length).foldl (loadSlot w l x.id) u)) x.core x.id) :=
    inv_of_mem hu ((rehome_mem ..).trans ((reenterAll_mem ..).trans (foldl_mem _ (fun _ _ => loadSlot_mem ..) _ _)))
  exact inv_foldl _ (fun _ _ hv => parkCmd_inv _ _ hv) _ (inv_ite (inv_of_mem hr (dropHallTiles_mem ..)) hr)

theorem execTaskResume_inv (task : Nat) (h : Inv s) : OutInv (execTaskResume task s) := by
  unfold execTaskResume
  split
  · exact outInv_next h
  · split
    · exact outInv_next h
    · split
      · exact outInv_next h
      · refine outInv_ite (outInv_next h) ?_
        split
        · exact outInv_of_mem h (areaFault_mem ..)
        · refine outInv_ite (outInv_next h) ?_
          split
          · exact outInv_of_mem h (areaFault_mem ..)
          · exact outInv_next (restoreTask_inv _ _ _ h)

/-! ### Faults and the end of a context (R267, R268, R381) -/

theorem writeFrec_inv (c : Context) (f : FaultRec) (h : Inv s) : Inv (writeFrec s c f) := by
  have hw := sysWrite_inv c.frec f.words h
  simp only [writeFrec]
  split <;> exact inv_of_mem hw rfl

theorem keepFault_inv (c : Context) (f : FaultRec) (h : Inv s) : Inv (keepFault s c f) :=
  tracePost_inv (s := s.modCtx c.id fun c => { c with fault := some f }) _ _ _ _ _ _ _ h

theorem countFault_inv (c : Context) (f : FaultRec) (h : Inv s) : Inv (countFault s c f) := by
  simp only [countFault]
  exact inv_ite (writeFrec_inv _ _ h) h

theorem collect_inv (f : FaultRec) (h : Inv s) : Inv (collect s f) := by
  unfold collect
  split
  · exact h
  · split
    · exact keepFault_inv _ _ h
    · exact countFault_inv _ _ h

theorem execFaultRecord_inv (idx : Nat) (h : Inv s) : OutInv (execFaultRecord idx s) := by
  unfold execFaultRecord
  split
  · exact outInv_next h
  · exact outInv_next (collect_inv _ h)

theorem mixGranule_inv (s0 : State) (g : Nat) (h : Inv s) : Inv (mixGranule s0 s g) := by
  have hw : Inv (writeClean false s.takeBool.2 g (readBytes s0.mem g (granuleSize g))) := writeClean_inv _ _ _ h
  exact inv_ite h (inv_ite hw hw)

theorem flushContext_inv (ctx : BitVec 12) (h : Inv s) : Inv (flushContext s ctx) := by
  have hh : ∀ (cl : Nat) (ls : List TileLine) {u : State}, Inv u → Inv (ls.foldl (fun t v => homeWrite t cl v) u) :=
    fun cl ls _ hu => inv_foldl _ (fun _ _ hv => homeWrite_inv _ _ hv) ls hu
  have ha : Inv ((ctxCores s ctx).foldl (fun t n => flushStores t n fun _ => true) s) :=
    inv_foldl _ (fun _ _ hu => flushStores_inv _ _ hu) _ h
  exact inv_foldl _ (fun _ _ hu => hh _ _ hu) _ (inv_foldl _ (fun _ _ hu => hh _ _ hu) _ ha)

theorem discardWrites_inv (ctx : BitVec 12) (h : Inv s) : Inv (discardWrites s ctx) := by
  have hf : Inv { flushContext s ctx with posts := s.posts } := flushContext_inv _ h
  exact inv_foldl _ (fun _ _ hu => mixGranule_inv _ _ hu) _ hf

@[simp] theorem purgeUnits_mem (s : State) (ctx : BitVec 12) : (purgeUnits s ctx).mem = s.mem := rfl

@[simp] theorem freeCore_mem (s : State) (x : Task) : (freeCore s x).mem = s.mem := mem_ite rfl rfl

@[simp] theorem dropHist_mem (s : State) (p : OldWrite → Bool) : (dropHist s p).mem = s.mem := rfl

@[simp] theorem dropTasks_mem (s : State) (ctx : BitVec 12) : (dropTasks s ctx).mem = s.mem := by
  unfold dropTasks
  extract_lets ts t u v
  have ht : t.mem = s.mem := (foldl_mem _ (fun _ _ => dropSlots_mem ..) _ _).trans (foldl_mem _ (fun _ _ => freeCore_mem ..) _ _)
  have hu : u.mem = t.mem := rfl
  have hv : v.mem = u.mem := foldl_mem _ (fun _ _ => dropLaunch_mem ..) _ _
  exact (foldl_mem _ (fun _ _ => clearRetain_mem ..) _ _).trans (hv.trans (hu.trans ht))

theorem endContext_inv (ctx : BitVec 12) (h : Inv s) : Inv (endContext s ctx) :=
  inv_of_mem (discardWrites_inv ctx h)
    ((modCtx_mem ..).trans ((startRetrains_mem ..).trans ((dropTasks_mem ..).trans (purgeUnits_mem ..))))

theorem reportFault_inv (c : Context) (f : FaultRec) (h : Inv s) : Inv (reportFault s c f) := by
  have hp := postNote_inv c.id (c.vflt + 1) 3 0 (f.code.zeroExtend 64) f.unit (writeFrec_inv c f h)
  exact inv_ite (postNote_inv _ _ _ _ _ _ hp) hp

theorem stopFaulted_inv (c : Context) (h : Inv s) : Inv (stopFaulted s c) := by
  unfold stopFaulted
  split
  · exact h
  · exact reportFault_inv _ _ (endContext_inv _ h)

theorem execContextFaultStop_inv (ctx : Nat) (h : Inv s) : OutInv (execContextFaultStop ctx s) := by
  unfold execContextFaultStop
  split
  · exact outInv_next h
  · exact outInv_next (inv_ite h (stopFaulted_inv _ h))

/-! ### The host (R376 to R382, R388) -/

theorem execCtxCreate_inv (addr : Nat) (h : Inv s) : OutInv (execCtxCreate addr s) := by
  refine outInv_ite (outInv_next h) ?_
  split
  · exact outInv_next h
  · refine outInv_ite (outInv_next h) ?_
    split <;> exact outInv_next h

theorem abortContext_inv (c : Context) (h : Inv s) : Inv (abortContext s c) := by
  have hc := collect_inv (hostAbort s c.id) h
  refine inv_ite h ?_
  dsimp only
  split
  · exact hc
  · exact stopFaulted_inv _ hc

theorem execCtxDestroy_inv (addr : Nat) (h : Inv s) : OutInv (execCtxDestroy addr s) := by
  refine outInv_ite (outInv_next h) ?_
  split
  · exact outInv_next h
  · dsimp only
    split
    · exact outInv_next h
    · exact outInv_of_mem (abortContext_inv _ h) rfl

@[simp] theorem writeLqtail_mem (s : State) (ctx : Nat) (v : Word) : (writeLqtail s ctx v).mem = s.mem := by
  unfold writeLqtail
  split <;> rfl

theorem writeNqread_inv (ctx : Nat) (v : Word) (h : Inv s) : Inv (writeNqread s ctx v) := by
  unfold writeNqread
  split
  · exact h
  · exact drainNotes_inv _ _ h

theorem writeTqread_inv (ctx : Nat) (v : Word) (h : Inv s) : Inv (writeTqread s ctx v) := by
  unfold writeTqread
  split
  · exact h
  · exact drainTrace_inv _ _ h

theorem ctlOn_inv {ctx : Nat} {f : Context → State} (h : Inv s) (hf : ∀ c, Inv (f c)) : Inv (ctlOn s ctx f) := by
  unfold ctlOn
  split
  · exact h
  · exact inv_ite h (hf _)

theorem ctlStop_inv (ctx : Nat) (h : Inv s) : Inv (ctlStop s ctx) :=
  ctlOn_inv h fun _ => inv_ite (settleStop_inv _ (inv_of_mem h (stopContext_mem ..))) h

theorem ctlResume_inv (ctx : Nat) (h : Inv s) : Inv (ctlResume s ctx) := by
  refine ctlOn_inv h fun c => ?_
  split
  · exact h
  · exact h
  · exact resumeContext_inv _ h
  · exact h

@[simp] theorem ctlKill_mem (s : State) (ctx : Nat) : (ctlKill s ctx).mem = s.mem := by
  unfold ctlKill
  split
  · rfl
  · exact mem_ite rfl rfl

theorem ctlInvalidate_inv (ctx : Nat) (h : Inv s) : Inv (ctlInvalidate s ctx) :=
  ctlOn_inv h fun _ => inv_of_mem h (startInval_mem ..)

theorem writeCtl_inv (ctx : Nat) (v : Word) (h : Inv s) : Inv (writeCtl s ctx v) := by
  unfold writeCtl
  split
  · exact ctlStop_inv _ h
  · exact ctlResume_inv _ h
  · exact inv_of_mem h (ctlKill_mem ..)
  · exact ctlInvalidate_inv _ h
  · exact h

theorem windowWrite_inv (off : Nat) (v : Word) (h : Inv s) : Inv (windowWrite s off v) := by
  unfold windowWrite
  split
  · exact h
  · split
    · next e => exact enginePut_inv h e
    · exact h

theorem execDebugWindowAccess_inv (wr : Bool) (off : Nat) (v : BitVec 64) (h : Inv s) : OutInv (execDebugWindowAccess wr off v s) :=
  outInv_next (inv_ite (windowWrite_inv _ _ h) h)

@[simp] theorem writeModReg_mem (s : State) (off : Nat) (v : Word) : (writeModReg s off v).mem = s.mem :=
  mem_ite (mem_ite rfl rfl) (mem_ite rfl (mem_ite rfl rfl))

theorem writeDoorbell_inv (ctx off : Nat) (v : Word) (h : Inv s) : Inv (writeDoorbell s ctx off v) := by
  refine inv_ite (inv_of_mem h (writeLqtail_mem ..)) (inv_ite (writeNqread_inv _ _ h) (inv_ite (writeTqread_inv _ _ h)
    (inv_ite (writeCtl_inv _ _ h) (inv_ite ?_ h))))
  split <;> exact h

theorem execHostRegisterWrite_inv (bar off : Nat) (v : BitVec 64) (h : Inv s) : OutInv (execHostRegisterWrite bar off v s) :=
  outInv_next (inv_ite (inv_of_mem h (writeModReg_mem ..)) (inv_ite (writeDoorbell_inv _ _ _ h) (inv_ite (windowWrite_inv _ _ h) h)))

theorem sampleStrand_inv (ctx : BitVec 12) (x : Nat × Kind) (h : Inv s) : Inv (sampleStrand ctx s x) :=
  inv_ite (tracePost_inv _ _ _ _ _ _ _ h) h

theorem execTraceSample_inv (ctx : Nat) (h : Inv s) : OutInv (execTraceSample ctx s) := by
  unfold execTraceSample
  split
  · exact outInv_next h
  · refine outInv_ite (outInv_next (inv_foldl _ (fun _ _ hu => sampleStrand_inv _ _ hu) _ ?_)) (outInv_next h)
    exact h

end Sys2Proof.Machine
end

section
/-! PROOFS. Memory in its canonical form: heads, links, the module, and the lines of tiles. -/

namespace Sys2Proof.Machine

open Sys2Proof

variable {s t u : State}

/-! ### Heads (R18, R21, R117, R150) -/

/-- The state that the judging of a head comes to. -/
def Head.state : Head → State
  | .settled s => s
  | .wait s _ _ => s
  | .go s _ => s

@[simp] theorem fetchFail_mem (s : State) (n : Nat) (k : Kind) (f : Fetched) : (fetchFail s n k f).mem = s.mem := by
  cases f with
  | ok w st => rfl
  | trap code va => exact trapEntry_mem ..
  | walk va => rfl
  | data g va => exact strandData_mem ..

@[simp] theorem headTrap_mem (s : State) (n : Nat) (k : Kind) (code : Nat) (tval : Word) : (headTrap s n k code tval).mem = s.mem :=
  trapEntry_mem ..

theorem judgeWords_mem (s : State) (n : Nat) (k : Kind) (hdr : Word32) (ws : List Word32) (bad : Option Fetched) :
    (judgeWords s n k hdr ws bad).state.mem = s.mem := by
  simp only [judgeWords]
  split
  · split
    · rfl
    · exact trapEntry_mem ..
    · rfl
  · split
    · exact trapEntry_mem ..
    · exact fetchFail_mem ..
    · rfl

theorem decodeHead_mem (s : State) (n : Nat) (k : Kind) : (decodeHead s n k).state.mem = s.mem := by
  simp only [decodeHead]
  split
  · split
    · exact trapEntry_mem ..
    · exact judgeWords_mem ..
  · exact fetchFail_mem ..

theorem judgeHead_mem (s : State) (pre : Core) (n : Nat) (k : Kind) : (judgeHead s pre n k).state.mem = s.mem := by
  have hd := decodeHead_mem s n k
  unfold judgeHead
  split <;> rename_i e <;> rw [e] at hd
  · exact hd
  · exact hd
  · split
    · exact (headTrap_mem ..).trans hd
    · split
      · exact hd
      · split
        · exact hd
        · split
          · exact hd
          · dsimp only [Head.state]
            exact mem_ite ((headTrap_mem ..).trans hd) ((headTrap_mem ..).trans hd)

@[simp] theorem joinEvent_mem (code : Nat) (s : State) (n : Nat) (k : Kind) : (joinEvent code s n k).mem = s.mem := by
  have hd := decodeHead_mem s n k
  unfold joinEvent
  split
  · rfl
  · split
    · rfl
    · rfl
    · next e =>
      rw [e] at hd
      exact mem_ite ((headTrap_mem ..).trans hd) rfl

@[simp] theorem joinLate_mem (s : State) (n : Nat) (k : Kind) : (joinLate s n k).mem = s.mem := by
  have hd := judgeHead_mem s (s.core n) n k
  unfold joinLate
  split
  · rfl
  · split
    · rfl
    · split
      · rfl
      · rfl
      · next e =>
        rw [e] at hd
        exact mem_ite rfl ((headTrap_mem ..).trans hd)

@[simp] theorem tokenLate_mem (s : State) (n : Nat) (k : Kind) : (tokenLate s n k).mem = s.mem := by
  have hd := decodeHead_mem s n k
  have hj := judgeHead_mem s (s.core n) n k
  unfold tokenLate
  split
  · rfl
  · rfl
  · next e =>
    rw [e] at hd
    refine mem_ite rfl ?_
    split
    · next ej =>
      rw [ej] at hj
      exact hj
    · exact hd
    · exact hd

@[simp] theorem prefetch_mem (s : State) (n : Nat) (k : Kind) (va : Nat) : (prefetch s n k va).mem = s.mem := by
  unfold prefetch
  split <;> rfl

@[simp] theorem fetchHead_mem (s : State) (n : Nat) (k : Kind) : (fetchHead s n k).mem = s.mem := by
  have hd := decodeHead_mem s n k
  unfold fetchHead
  split <;> rename_i e <;> rw [e] at hd <;> exact hd

theorem execJoinMember_inv (n : Nat) (k : Kind) (h : Inv s) : OutInv (execJoinMember n k s) := outInv_of_mem h (joinEvent_mem ..)

theorem execJoinBroken_inv (n : Nat) (k : Kind) (h : Inv s) : OutInv (execJoinBroken n k s) := outInv_of_mem h (joinEvent_mem ..)

theorem execJoinTimeout_inv (n : Nat) (k : Kind) (h : Inv s) : OutInv (execJoinTimeout n k s) :=
  outInv_of_mem h (mem_ite (joinLate_mem ..) rfl)

theorem execTokenError_inv (n : Nat) (k : Kind) (h : Inv s) : OutInv (execTokenError n k s) :=
  outInv_of_mem h (mem_ite (tokenLate_mem ..) rfl)

theorem execInstructionFetch_inv (n : Nat) (k : Kind) (va : Nat) (h : Inv s) : OutInv (execInstructionFetch n k va s) :=
  outInv_ite (outInv_next h) (outInv_ite (outInv_of_mem h (fetchHead_mem ..)) (outInv_of_mem h (mem_ite (prefetch_mem ..) rfl)))

/-! ### Links and peers (R394, R398 to R401) -/

@[simp] theorem setPort_mem (s : State) (die port : Nat) (p : Port) : (s.setPort die port p).mem = s.mem := rfl

@[simp] theorem routeChange_mem (s : State) : (routeChange s).mem = s.mem := rfl

@[simp] theorem retireLanes_mem (s : State) (die port : Nat) (lanes : List Nat) : (retireLanes s die port lanes).mem = s.mem := by
  simp only [retireLanes]
  exact mem_ite rfl ((foldl_mem _ (fun _ _ => moduleEvent_mem ..) _ _).trans rfl)

@[simp] theorem emitFlit_mem (die port : Nat) (s : State) (seq : BitVec 12) : (emitFlit die port s seq).mem = s.mem := rfl

@[simp] theorem sendFlits_mem (die port fuel : Nat) (s : State) (p : Port) : (sendFlits die port fuel s p).1.mem = s.mem := by
  induction fuel generalizing s p with
  | zero => rfl
  | succ fuel ih =>
    unfold sendFlits
    split
    · rfl
    · dsimp only
      split
      · exact (ih ..).trans rfl
      · rfl

@[simp] theorem closeWindow_mem (s : State) (die port : Nat) : (closeWindow s die port).mem = s.mem :=
  mem_ite rfl (retireLanes_mem ..)

/-- A port put back, with its flits sent again where the peer asks for it. -/
theorem answerNak_inv (die port : Nat) (nak : Bool) (q : Port) (h : Inv s) :
    Inv (if nak then q.replayBuf.foldl (emitFlit die port) (s.setPort die port q) else s.setPort die port q) :=
  inv_of_mem h (mem_ite ((foldl_mem _ (fun _ _ => emitFlit_mem ..) _ _).trans (setPort_mem ..)) (setPort_mem ..))

theorem execFlitReceive_inv (die port : Nat) (flit : FlitMsg) (h : Inv s) : OutInv (execFlitReceive die port flit s) := by
  unfold execFlitReceive
  extract_lets s1 p x q t u
  have h1 : Inv s1 := inv_of_mem h (mem_ite (closeWindow_mem ..) rfl)
  have hx : Inv x.1 := inv_of_mem h1 (sendFlits_mem ..)
  have hu : Inv u := answerNak_inv _ _ _ _ hx
  refine outInv_ite (outInv_next h1) (outInv_ite (outInv_next ?_) (outInv_of_mem hx rfl))
  exact inv_ite (inv_of_mem hu (send_mem ..)) hu

theorem execLaneFecWindow_inv (die port : Nat) (h : Inv s) : OutInv (execLaneFecWindow die port s) :=
  outInv_of_mem h (mem_ite (closeWindow_mem ..) rfl)

theorem execLaneLockLoss_inv (die port lane : Nat) (h : Inv s) : OutInv (execLaneLockLoss die port lane s) :=
  outInv_of_mem h (mem_ite (retireLanes_mem ..) rfl)

@[simp] theorem unreachableFaults_mem (s : State) : (unreachableFaults s).mem = s.mem := by
  refine foldl_mem _ (fun t c => ?_) _ _
  split <;> rfl

theorem execLinkRetrainDone_inv (die port : Nat) (lost : List Nat) (h : Inv s) : OutInv (execLinkRetrainDone die port lost s) := by
  have ht : Inv (retireLanes s die port lost) := inv_of_mem h (retireLanes_mem ..)
  refine outInv_ite (outInv_next h) (outInv_ite ?_ (outInv_ite ?_ ?_))
  · exact outInv_of_mem ht rfl
  · exact outInv_of_mem ht rfl
  · exact outInv_of_mem ht (unreachableFaults_mem ..)

@[simp] theorem bringUp_mem (s : State) : (bringUp s).mem = s.mem := by
  unfold bringUp
  generalize List.range 20 = xs
  exact foldl_mem _ (fun _ _ => setPort_mem ..) xs s

theorem execDomainConfig_inv (size number : Nat) (others : List Nat) (h : Inv s) : OutInv (execDomainConfig size number others s) :=
  outInv_ite (outInv_next h) (outInv_of_mem h (bringUp_mem ..))

@[simp] theorem failCmd_mem (s : State) (c : EngineCmd) : (failCmd s c).mem = s.mem := mem_ite rfl rfl

@[simp] theorem giveUp_mem (w : PeerWait) (n : Nat) (s : State) : (w.giveUp n s).mem = s.mem := by
  cases w with
  | load l => rfl
  | store t => rfl
  | cmd c pa => exact failCmd_mem ..
  | fill r pa => exact dropFilling_mem ..
  | line l pa => rfl
  | fetch a b => rfl

theorem execFabricTimeout_inv (core idx : Nat) (h : Inv s) : OutInv (execFabricTimeout core idx s) := by
  unfold execFabricTimeout
  split
  · exact outInv_next h
  · exact outInv_of_mem h (mem_ite (giveUp_mem ..) rfl)

/-! ### Scalar accesses performed (R155, R159) -/

theorem execLoadReturn_inv (core idx : Nat) (h : Inv s) : OutInv (execLoadReturn core idx s) := by
  unfold execLoadReturn
  split
  · exact outInv_next h
  · exact outInv_next (inv_ite (finishLoad_inv _ _ h) h)

theorem execAtomicResponse_inv (core idx : Nat) (h : Inv s) : OutInv (execAtomicResponse core idx s) := by
  unfold execAtomicResponse
  split
  · exact outInv_next h
  · exact outInv_next (inv_ite (finishLoad_inv _ _ h) h)

theorem execWriteAcknowledgement_inv (core idx : Nat) (h : Inv s) : OutInv (execWriteAcknowledgement core idx s) := by
  unfold execWriteAcknowledgement
  split
  · exact outInv_next h
  · exact outInv_next (inv_ite (performStore_inv _ _ h) h)

/-! ### The module (R283, R346, R385 to R391) -/

theorem execClockStep_inv (n : Nat) (h : Inv s) : OutInv (execClockStep n s) := by
  refine outInv_next (inv_ite (inv_of_mem ?_ (moduleEvent_mem ..)) h)
  exact h

theorem execUnitFailure_inv (unit : Nat) (h : Inv s) : OutInv (execUnitFailure unit s) := by
  simp only [execUnitFailure]
  split
  · exact outInv_next h
  · exact outInv_of_mem h ((foldl_mem _ (fun _ _ => postFault_mem ..) _ _).trans (moduleEvent_mem ..))

theorem execModuleReset_inv (warm : Bool) (h : Inv s) : OutInv (execModuleReset warm s) :=
  outInv_of_mem (t := _) (s := { s with mem := outsideMem s.mem }) (outsideMem_wf _ h) ((moduleEvent_mem ..).trans (mem_ite rfl rfl))

theorem execFirmwareUpdate_inv (edOk mlOk : Bool) (rollback : Nat) (version : BitVec 32) (h : Inv s) :
    OutInv (execFirmwareUpdate edOk mlOk rollback version s) := outInv_of_mem h (mem_ite rfl rfl)

theorem execThermalTrip_inv (die temp : Nat) (h : Inv s) : OutInv (execThermalTrip die temp s) :=
  outInv_ite (outInv_next h) (outInv_of_mem h (foldl_mem _ (fun _ _ => postFault_mem ..) _ _))

theorem execSlotSwap_inv (stack slotA slotB : Nat) (h : Inv s) : OutInv (execSlotSwap stack slotA slotB s) := by
  refine outInv_ite (outInv_next h) ?_
  split <;> exact outInv_next h

theorem execPageWalkComplete_inv (cluster ctx va : Nat) (h : Inv s) : OutInv (execPageWalkComplete cluster ctx va s) := by
  unfold execPageWalkComplete
  split
  · exact outInv_next h
  · refine outInv_ite (outInv_next h) ?_
    split <;> exact outInv_next h

/-! ### Publications, lines, homes and raises (R174, R276 to R279, R313, R353 to R356, R415) -/

@[simp] theorem modAlcove_mem (s : State) (n : Nat) (k : TileKey) (f : TileLine → TileLine) : (modAlcove s n k f).mem = s.mem := rfl

@[simp] theorem addPub_mem (pre : Core) (n : Nat) (r : Block) (s : State) (x : TileKey × Option (Kind × Nat)) :
    (addPub pre n r s x).mem = s.mem := rfl

@[simp] theorem awaitReg_mem (s : State) (rd : BitVec 6) : (s.awaitReg rd).1.mem = s.mem := by
  unfold State.awaitReg
  split <;> rfl

theorem execVrel_inv (g rd rp : BitVec 6) (nrow ncol : BitVec 8) (h : Inv s) : OutInv (execVrel g rd rp nrow ncol s) := by
  refine guarded_inv h (ready_inv h (memReady_inv h ?_))
  dsimp only
  split
  · exact faultAt_inv _ _ _ _ h
  · have ht : ∀ ks : List TileKey, Inv (ks.foldl (beginDrain s.issue.core) s) := fun ks =>
      inv_of_mem h (foldl_mem _ (fun _ _ => modAlcove_mem ..) ks s)
    exact outInv_ite (outInv_next (ht _))
      (outInv_of_mem (ht _) ((foldl_mem _ (fun _ _ => addPub_mem ..) _ _).trans (awaitReg_mem ..)))

theorem execHomePublication_inv (core idx : Nat) (h : Inv s) : OutInv (execHomePublication core idx s) := by
  unfold execHomePublication
  split
  · exact outInv_next h
  · exact outInv_next (inv_ite (performPub_inv _ _ h) h)

theorem execAlcoveWriteback_inv (core idx : Nat) (h : Inv s) : OutInv (execAlcoveWriteback core idx s) := by
  unfold execAlcoveWriteback
  split
  · exact outInv_next h
  · exact outInv_next (inv_ite (drainLine_inv _ _ _ h) h)

theorem retryFill_inv (r : TileReq) (h : Inv s) : Inv (retryFill s r) := by
  have ht : Inv (setReq s r.id none) := inv_of_mem h (setReq_mem ..)
  simp only [retryFill]
  split
  · exact ht
  · exact inv_ite ht (startFill_inv _ _ _ _ ht)

theorem execHallFill_inv (idx : Nat) (h : Inv s) : OutInv (execHallFill idx s) := by
  have hl : ∀ (r : TileReq) (id : Nat), Inv (setReq (hallLookup s r).1 id (hallLookup s r).2) := fun r _ =>
    inv_of_mem (hallLookup_inv r h) (setReq_mem ..)
  unfold execHallFill
  cases s.reqs[idx]? with
  | none => exact outInv_next h
  | some r =>
    dsimp only
    split
    · exact outInv_next (hl ..)
    · exact outInv_next (retryFill_inv _ h)
    · split
      · exact outInv_of_mem h (setReq_mem ..)
      · exact outInv_ite (outInv_next (hl ..)) (outInv_of_mem h (setReq_mem ..))
    · exact outInv_next h

theorem execTileFillArrival_inv (idx : Nat) (h : Inv s) : OutInv (execTileFillArrival idx s) := by
  unfold execTileFillArrival
  cases s.reqs[idx]? with
  | none => exact outInv_next h
  | some r =>
    dsimp only
    split
    · split
      · exact outInv_of_mem h (setReq_mem ..)
      · split
        · exact outInv_of_mem h (setReq_mem ..)
        · exact outInv_of_mem h ((modCore_mem ..).trans (setReq_mem ..))
    · exact outInv_next h

@[simp] theorem retireServed_mem (s : State) (hall : Nat) (k : TileKey) : (retireServed s hall k).mem = s.mem := mem_ite rfl rfl

theorem execHallForward_inv (idx : Nat) (h : Inv s) : OutInv (execHallForward idx s) := by
  unfold execHallForward
  cases s.reqs[idx]? with
  | none => exact outInv_next h
  | some r =>
    dsimp only
    split
    · exact outInv_of_mem h ((rejudgeHall_mem ..).trans ((retireServed_mem ..).trans (setReq_mem ..)))
    · exact outInv_next h

theorem execHomeRequest_inv (idx : Nat) (full : Bool) (h : Inv s) : OutInv (execHomeRequest idx full s) := by
  unfold execHomeRequest
  cases s.reqs[idx]? with
  | none => exact outInv_next h
  | some r =>
    dsimp only
    split
    · exact outInv_of_mem h ((setReq_mem ..).trans (judgeReq_mem ..))
    · exact outInv_ite (outInv_next h) (outInv_of_mem h ((setReq_mem ..).trans (homeServe_mem ..)))
    · exact outInv_next h

theorem execRequestResend_inv (idx : Nat) (h : Inv s) : OutInv (execRequestResend idx s) := by
  unfold execRequestResend
  cases s.reqs[idx]? with
  | none => exact outInv_next h
  | some r =>
    dsimp only
    split
    · exact outInv_of_mem h (mem_ite (setReq_mem ..) rfl)
    · exact outInv_next h

theorem execHomeWriteback_inv (cl idx : Nat) (h : Inv s) : OutInv (execHomeWriteback cl idx s) := by
  unfold execHomeWriteback
  split
  · exact outInv_next h
  · exact outInv_next (inv_ite (drainHallLine_inv _ _ h) h)

theorem raiseAlcove_inv (k : TileKey) (req : BitVec 8) (before n : Nat) (h : Inv s) : Inv (raiseAlcove k req before s n) := by
  unfold raiseAlcove
  split
  · exact h
  · exact inv_ite h (inv_of_mem (inv_ite h (drainLine_inv _ _ _ h)) (modCore_mem ..))

theorem raiseHall_inv (cl : Nat) (k : TileKey) (req : BitVec 8) (h : Inv s) : Inv (raiseHall s cl k req) := by
  unfold raiseHall
  split
  · exact h
  · exact inv_ite h (inv_of_mem (inv_ite h (homeWrite_inv _ _ h)) (modCluster_mem ..))

theorem dealRaise_inv (x : Raise) (before : Nat) (h : Inv s) : Inv (dealRaise s x before) := by
  unfold dealRaise
  generalize clusterCores x.cluster = ns
  exact raiseHall_inv _ _ _ (inv_foldl _ (fun _ _ hu => raiseAlcove_inv _ _ _ _ hu) _ h)

/-- Halls that retire a tile one after the other. -/
theorem retireServedAll_mem (k : TileKey) (hs : List Nat) (s : State) : (hs.foldl (fun u h => retireServed u h k) s).mem = s.mem :=
  foldl_mem _ (fun _ _ => retireServed_mem ..) hs s

theorem takeRaise_inv (x : Raise) (h : Inv s) : Inv (takeRaise s x) := by
  unfold takeRaise
  extract_lets e req t u
  have ht : Inv t := dealRaise_inv _ _ (inv_of_mem h (setDir_mem ..))
  clear_value t
  have hu : Inv u := ht
  clear_value u
  exact inv_of_mem hu ((rejudge_mem ..).trans (retireServedAll_mem ..))

theorem execHomeRaise_inv (idx : Nat) (h : Inv s) : OutInv (execHomeRaise idx s) := by
  unfold execHomeRaise
  cases s.raises[idx]? with
  | none => exact outInv_next h
  | some x =>
    have ht : Inv (match x.since with
      | none => takeRaise s x
      | some before => dealRaise s x before) := by
      split
      · exact takeRaise_inv _ h
      · exact dealRaise_inv _ _ h
    exact outInv_of_mem ht (mem_ite rfl rfl)

end Sys2Proof.Machine
end

section
/-! PROOFS. Memory in its canonical form through every step (18_package_memory.md): each instruction and event, a cycle, the other turns. -/

namespace Sys2Proof.Machine

open Sys2Proof

variable {s t u : State}

/-! ### The forms of vector instructions -/

theorem vecLanes_inv {w : VecWord} {reads : List (BitVec 11)} {f : Nat → Nat → Nat → Nat × BitVec 7} (h : Inv s) :
    OutInv (vecLanes s w reads f) := by
  unfold vecLanes
  exact vecIssue_inv h

theorem vecReduce_inv {w : VecWord} {f : List Nat → Nat × BitVec 7} (h : Inv s) : OutInv (vecReduce s w f) := by
  unfold vecReduce
  exact vecIssue_inv h

theorem vecSpecial_inv {fn : SpecialFn} {w : VecWord} (h : Inv s) : OutInv (vecSpecial fn s w) := vecLanes_inv h

theorem vecPick_inv {w : VecWord} {reads : List (BitVec 11)} {f : Nat → Nat} (h : Inv s) : OutInv (vecPick s w reads f) := by
  unfold vecPick
  exact vecIssue_inv h

theorem vecDist_inv {w : VecWord} {f : Num → Num → Num × BitVec 7} (h : Inv s) : OutInv (vecDist s w f) := by
  unfold vecDist
  exact vecIssue_inv h

theorem vecIndex_inv {w : VecWord} {regs : List (BitVec 6)} {f : Nat → Nat × BitVec 7} (h : Inv s) :
    OutInv (vecIndex s w regs f) := by
  unfold vecIndex
  exact vecIssue_inv h

/-! ### Every instruction and every event -/

theorem exec_inv (i : Instr) (h : Inv s) : OutInv (exec i s) := by
  cases i with
  | nop | blackboxRearm | attestationReport =>
    dsimp only [exec]
    exact outInv_next h
  | halt | pfitcan =>
    dsimp only [exec]
    exact guarded_inv h (outInv_next h)
  | brk => exact execBrk_inv _ _ h
  | trap => exact execTrap_inv _ _ h
  | eret => exact execEret_inv _ h
  | icsync => exact execIcsync_inv _ _ h
  | fence => exact execFence_inv _ _ _ h
  | br =>
    dsimp only [exec]
    exact guarded_inv h (transferTo_inv h (leaveFor_mem ..))
  | call | callr | ret =>
    dsimp only [exec]
    exact guarded_inv h (ready_inv h (transferTo_inv h rfl))
  | jr =>
    dsimp only [exec]
    exact guarded_inv h (ready_inv h (transferTo_inv h (leaveFor_mem ..)))
  | loop | loopp =>
    dsimp only [exec]
    exact guarded_inv h (ready_inv h (enterLoop_inv _ _ _ h))
  | loopi | looppi =>
    dsimp only [exec]
    exact guarded_inv h (enterLoop_inv _ _ _ h)
  | add | sub | mul | mulh | and | or | xor | andn | shl | shr | sar | ror | min | max | minu | maxu | div | divu | rem | remu
  | lea1 | lea2 | lea4 | lea8 =>
    dsimp only [exec]
    exact aluRR_inv _ _ _ _ _ h
  | addi | andi | ori | xori | lih | shli | shri | sari | rori | sext | zext | clz | popc =>
    dsimp only [exec]
    exact aluR_inv _ _ _ _ h
  | li =>
    dsimp only [exec]
    exact guarded_inv h (ready_inv h (outInv_next h))
  | cmpeq | cmpne | cmplt | cmpltu | cmpge | cmpgeu | tst =>
    dsimp only [exec]
    exact cmpRR_inv _ _ _ _ _ h
  | cmpeqi | cmplti | cmpltui | cmpgei =>
    dsimp only [exec]
    exact cmpR_inv _ _ _ _ h
  | pand | por | pxor | pandn | pnot | pset | pclr | pmov =>
    dsimp only [exec]
    exact predOp_inv _ _ _ h
  | qmovPush => exact execQmovPush_inv _ _ _ _ h
  | qmovPop => exact execQmovPop_inv _ _ _ _ h
  | qpeek => exact execQpeek_inv _ _ _ _ h
  | finc =>
    dsimp only [exec]
    exact guarded_inv h (flagOp_inv h fun _ => rfl)
  | fset | fadd | frd =>
    dsimp only [exec]
    exact guarded_inv h (ready_inv h (flagOp_inv h fun _ => rfl))
  | csrr =>
    dsimp only [exec]
    exact guarded_inv h (ready_inv h (stickyReady_inv h (outInv_next h)))
  | csrw | csrs | csrc =>
    dsimp only [exec]
    exact guarded_inv h (ready_inv h (stickyReady_inv h (csrUpdate_inv _ _ _ h)))
  | ld8 | ld16 | ld32 | ld64 | ldz8 | ldz16 | ldz32 =>
    dsimp only [exec]
    exact loadReg_inv _ _ _ _ _ _ h
  | st8 | st16 | st32 | st64 =>
    dsimp only [exec]
    exact storeReg_inv _ _ _ _ _ h
  | ldq8 | ldq16 | ldq32 | ldq64 | rldq8 | rldq16 | rldq32 | rldq64 =>
    dsimp only [exec]
    exact loadLanes_inv _ _ _ _ _ _ _ _ _ h
  | amoAdd | amoSwp | amoCas | amoAnd | amoOr | amoXor | amoMin | amoMax =>
    dsimp only [exec]
    exact atomicOp_inv _ _ _ _ _ _ _ _ _ _ h
  | laydef => exact execLaydef_inv _ _ h
  | layinv => exact execLayinv_inv _ _ h
  | pin => exact execPin_inv _ _ _ _ _ _ h
  | unpin =>
    dsimp only [exec]
    exact guarded_inv h (hintFold_inv (fun _ _ => unpinTile_mem ..) _ _ _ h)
  | lastuse =>
    dsimp only [exec]
    exact guarded_inv h (hintFold_inv (fun _ _ => lastuseTile_mem ..) _ _ _ h)
  | stream =>
    dsimp only [exec]
    exact guarded_inv h (hintFold_inv (fun _ _ => streamTile_mem ..) _ _ _ h)
  | pfit => exact execPfit_inv _ _ _ _ _ _ h
  | copy => exact execCopy_inv _ _ _ _ _ _ _ _ _ h
  | copyt => exact execCopyt_inv _ _ _ _ _ _ _ _ _ _ h
  | vrel => exact execVrel_inv _ _ _ _ _ h
  | promote => exact execPromote_inv _ _ _ _ _ _ h
  | kvapp => exact execKvapp_inv _ _ _ _ _ _ h
  | selTopk => exact execSelTopk_inv _ _ h
  | selSeg => exact execSelSeg_inv _ _ h
  | unmSetup => exact execUnmSetup_inv _ _ h
  | unmReg => exact execUnmReg_inv _ _ h
  | unmRound => exact execUnmRound_inv _ _ h
  | unmFree => exact execUnmFree_inv _ _ h
  | rteSetup => exact execRteSetup_inv _ _ h
  | rteCount => exact execRteCount_inv _ _ h
  | rtePlace => exact execRtePlace_inv _ _ h
  | rteScatter => exact execRteScatter_inv _ _ h
  | rteGather => exact execRteGather_inv _ _ h
  | collAr | collAg | collRs | collBc | collA2a =>
    dsimp only [exec]
    exact execColl_inv _ _ _ _ _ h
  | fencex => exact execFencex_inv _ _ _ _ h
  | fpush => exact execFpush_inv _ _ h
  | fqclose => exact execFqclose_inv _ h
  | renq => exact execRenq_inv _ _ _ h
  | gbar => exact execGbar_inv _ _ _ _ h
  | gleave => exact execGleave_inv _ _ h
  | gjoin => exact execGjoin_inv _ _ h
  | gcast => exact execGcast_inv _ _ _ _ h
  | prack => exact execPrack_inv _ _ _ h
  | hostirq => exact execHostirq_inv _ _ _ h
  | cube | mma =>
    dsimp only [exec]
    exact guarded_inv h (ready_inv h (cubeIssue_inv _ _ _ h))
  | ald => exact execAld_inv _ _ _ _ _ _ _ _ _ h
  | ast => exact execAst_inv _ _ _ _ _ _ _ _ _ h
  | aclr => exact execAclr_inv _ _ _ h
  | acvt | acopy | atrn =>
    dsimp only [exec]
    exact guarded_inv h (ready_inv h (areaMove_inv _ _ _ _ _ _ h))
  | vadd | vsub | vmul | vfma | vmin | vmax | vabs | vneg | vand | vor | vxor | vnot | vshl | vshr | vsar | vcmpeq | vcmplt
  | vcmple | vrndi | vmov =>
    dsimp only [exec]
    exact guarded_inv h (vecLanes_inv h)
  | vsel | vcvt | vrng | vdistHam | vmovs | vins =>
    dsimp only [exec]
    exact guarded_inv h (vecIssue_inv h)
  | vrsum | vrmax | vrmin | vrargmax =>
    dsimp only [exec]
    exact guarded_inv h (vecReduce_inv h)
  | vexp2 | vlog2 | vrcp | vrsq | vtanh =>
    dsimp only [exec]
    exact guarded_inv h (vecSpecial_inv h)
  | vperm | vrot =>
    dsimp only [exec]
    exact guarded_inv h (vecPick_inv h)
  | vdistIp | vdistL2 =>
    dsimp only [exec]
    exact guarded_inv h (vecDist_inv h)
  | vlmask | viota =>
    dsimp only [exec]
    exact guarded_inv h (vecIndex_inv h)
  | joinMember => exact execJoinMember_inv _ _ h
  | joinBroken => exact execJoinBroken_inv _ _ h
  | joinTimeout => exact execJoinTimeout_inv _ _ h
  | tokenError => exact execTokenError_inv _ _ h
  | loadReturn => exact execLoadReturn_inv _ _ h
  | atomicResponse => exact execAtomicResponse_inv _ _ h
  | tileFillArrival => exact execTileFillArrival_inv _ h
  | cubePerform => exact execCubePerform_inv _ _ h
  | aldComplete => exact execAldComplete_inv _ _ h
  | vectorComplete => exact execVectorComplete_inv _ _ h
  | tileMissTimeout => exact execTileMissTimeout_inv _ _ h
  | alcoveWriteback => exact execAlcoveWriteback_inv _ _ h
  | hallFill => exact execHallFill_inv _ h
  | hallForward => exact execHallForward_inv _ h
  | homeRequest => exact execHomeRequest_inv _ _ h
  | homePublication => exact execHomePublication_inv _ _ h
  | homeWriteback => exact execHomeWriteback_inv _ _ h
  | homeRaise => exact execHomeRaise_inv _ h
  | requestResend => exact execRequestResend_inv _ h
  | slotSwap => exact execSlotSwap_inv _ _ _ h
  | pageWalkComplete => exact execPageWalkComplete_inv _ _ _ h
  | copytRelease => exact execCopytRelease_inv _ _ h
  | copyStart => exact execCopyStart_inv _ _ h
  | copyComplete => exact execCopyComplete_inv _ _ _ h
  | markerRemove => exact execMarkerRemove_inv _ _ h
  | selectionPerform => exact execSelectionPerform_inv _ h
  | landingPerform => exact execLandingPerform_inv _ _ h
  | concoursePerform => exact execConcoursePerform_inv _ _ h
  | countContribution => exact execCountContribution_inv _ _ h
  | routeTimeout => exact execRouteTimeout_inv _ _ h
  | collectivePerform => exact execCollectivePerform_inv _ _ h
  | collContribution => exact execCollContribution_inv _ h
  | collectiveTimeout => exact execCollectiveTimeout_inv _ _ h
  | engineComplete => exact execEngineComplete_inv _ h
  | groupArrival => exact execGroupArrival_inv _ h
  | moduleArrival => exact execModuleArrival_inv _ _ _ h
  | remoteFlagUpdate => exact execRemoteFlagUpdate_inv _ h
  | pageMigrationCopy => exact execPageMigrationCopy_inv _ h
  | pageMigrationSwitch => exact execPageMigrationSwitch_inv _ h
  | pageReturn => exact execPageReturn_inv _ h
  | schedulerWalk => exact execSchedulerWalk_inv _ h
  | launchTake => exact execLaunchTake_inv _ _ h
  | hostLaunchTake => exact execHostLaunchTake_inv _ _ h
  | residencyTimeout => exact execResidencyTimeout_inv _ h
  | taskStart => exact execTaskStart_inv _ h
  | taskRetire => exact execTaskRetire_inv _ h
  | launchRetire => exact execLaunchRetire_inv _ h
  | preemptGraceExpiry => exact execPreemptGraceExpiry_inv _ h
  | cut => exact execCut_inv _ h
  | saveComplete => exact execSaveComplete_inv _ h
  | taskResume => exact execTaskResume_inv _ h
  | faultRecord => exact execFaultRecord_inv _ h
  | contextFaultStop => exact execContextFaultStop_inv _ h
  | ctxCreate => exact execCtxCreate_inv _ h
  | ctxDestroy => exact execCtxDestroy_inv _ h
  | lqtailWrite =>
    dsimp only [exec]
    exact outInv_of_mem h (writeLqtail_mem ..)
  | nqreadWrite =>
    dsimp only [exec]
    exact outInv_next (writeNqread_inv _ _ h)
  | tqreadWrite =>
    dsimp only [exec]
    exact outInv_next (writeTqread_inv _ _ h)
  | ctlStop =>
    dsimp only [exec]
    exact outInv_next (ctlStop_inv _ h)
  | ctlResume =>
    dsimp only [exec]
    exact outInv_next (ctlResume_inv _ h)
  | ctlKill =>
    dsimp only [exec]
    exact outInv_of_mem h (ctlKill_mem ..)
  | ctlInvalidate =>
    dsimp only [exec]
    exact outInv_next (ctlInvalidate_inv _ h)
  | debugWindowAccess => exact execDebugWindowAccess_inv _ _ _ h
  | hostRegisterWrite => exact execHostRegisterWrite_inv _ _ _ h
  | traceSample => exact execTraceSample_inv _ h
  | clockStep => exact execClockStep_inv _ h
  | unitFailure => exact execUnitFailure_inv _ h
  | thermalTrip => exact execThermalTrip_inv _ _ h
  | moduleReset => exact execModuleReset_inv _ h
  | firmwareUpdate => exact execFirmwareUpdate_inv _ _ _ _ h
  | domainConfig => exact execDomainConfig_inv _ _ _ h
  | hbmRetrain => exact execHbmRetrain_inv _ h
  | retrainRequest => exact execRetrainRequest_inv _ h
  | flitReceive => exact execFlitReceive_inv _ _ _ h
  | laneFecWindow => exact execLaneFecWindow_inv _ _ h
  | laneLockLoss => exact execLaneLockLoss_inv _ _ _ h
  | linkRetrainDone => exact execLinkRetrainDone_inv _ _ _ h
  | fabricTimeout => exact execFabricTimeout_inv _ _ h
  | instructionFetch => exact execInstructionFetch_inv _ _ _ h
  | writeAcknowledgement => exact execWriteAcknowledgement_inv _ _ h
  | regionInstructionComplete => exact execRegionInstructionComplete_inv _ _ h
  | stackRetrainingDone => exact execStackRetrainingDone_inv _ h

/-! ### A bundle's instructions (R16, R17, R123) -/

/-- What the instructions of a bundle come to has memory in its canonical form. -/
def Tried.Keeps : Tried → Prop
  | .next s => Inv s
  | .held => True
  | .bad _ _ t => Inv t
  | .halt o => OutInv o

/-- What an attempt comes to has memory in its canonical form. -/
def Attempt.Keeps : Attempt → Prop
  | .settled s => Inv s
  | .wait s _ _ => Inv s
  | .trapping s _ t => Inv s ∧ Inv t
  | .ready s _ t => Inv s ∧ Inv t
  | .halt o => OutInv o

@[simp] theorem atPos_mem (s : State) (pos : Nat) : (s.atPos pos).mem = s.mem := rfl

@[simp] theorem withSlots_mem (s t : State) : (s.withSlots t).mem = s.mem := rfl

@[simp] theorem withRoom_mem (s t : State) (i : Instr) : (s.withRoom t i).mem = s.mem := by
  unfold State.withRoom
  split <;> rfl

theorem tryItems_keeps (xs : List (Nat × Instr)) (held : Bool) (bad : Option (Nat × Instr × State)) (h : Inv s)
    (hbad : ∀ x, bad = some x → Inv x.2.2) : (tryItems xs held bad s).Keeps := by
  induction xs generalizing held bad s with
  | nil =>
    cases held with
    | true => exact trivial
    | false =>
      cases bad with
      | none => exact h
      | some x => exact hbad x rfl
  | cons x xs ih =>
    obtain ⟨pos, i⟩ := x
    have he : OutInv (exec i (s.atPos pos)) := exec_inv i (inv_of_mem h (atPos_mem ..))
    unfold tryItems
    split
    · exact outInv_fault _
    · exact outInv_refused _
    · next t e =>
      have ht : Inv t := he t e
      have hor : ∀ x, bad.or (some (pos, i, t)) = some x → Inv x.2.2 := by
        intro x hx
        cases bad with
        | none =>
          cases hx
          exact ht
        | some y =>
          cases hx
          exact hbad x rfl
      split
      · exact ih _ _ ht hbad
      · exact ih _ _ h hbad
      · exact ih _ _ (inv_of_mem h (withRoom_mem ..)) hor
      · exact ih _ _ (inv_of_mem h (withRoom_mem ..)) hor

@[simp] theorem cancelTo_mem (s t : State) : (cancelTo s t).mem = s.mem := rfl

theorem trapAlone_inv (t : State) (pos : Nat) (i : Instr) (h : Inv s) : OutInv (trapAlone s t pos i) := by
  have he : OutInv (exec i (s.atPos pos)) := exec_inv i (inv_of_mem h (atPos_mem ..))
  unfold trapAlone
  split
  · exact outInv_fault _
  · exact outInv_refused _
  · next u e =>
    have hu : Inv u := he u e
    split
    · exact outInv_of_mem hu (withSlots_mem ..)
    · exact outInv_of_mem hu (withSlots_mem ..)
    · exact outInv_of_mem h (cancelTo_mem ..)
    · exact outInv_of_mem h (cancelTo_mem ..)

@[simp] theorem advance_mem (s : State) : (advance s).mem = s.mem := by
  simp only [advance]
  split <;> rfl

@[simp] theorem openBundle_mem (s : State) (pre : Core) (n : Nat) (k : Kind) (b : Bundle) : (openBundle s pre n k b).mem = s.mem := by
  simp only [openBundle]
  split <;> rfl

theorem judgeGoing_mem (s : State) (pre : Core) (n : Nat) (k : Kind) : (judgeGoing s pre n k).state.mem = s.mem := by
  have hj := judgeHead_mem s pre n k
  have hd := decodeHead_mem s n k
  unfold judgeGoing
  split <;> rename_i e <;> rw [e] at hj
  · exact hj
  · exact hj
  · split <;> rename_i e <;> rw [e] at hd
    · split
      · exact hd
      · exact hj
    · exact hd
    · exact hd

@[simp] theorem matchBreak_mem (s : State) (n : Nat) (k : Kind) : (matchBreak s n k).mem = s.mem := by
  unfold matchBreak
  split <;> rfl

theorem finishItems_keeps (n : Nat) (k : Kind) (hd : Header) (h : Inv s) (ht : Inv t) : (finishItems s t n k hd).Keeps := by
  unfold finishItems
  extract_lets st stop
  clear_value stop
  split
  · exact inv_of_mem h ((matchBreak_mem ..).trans (stopContext_mem ..))
  · split
    · exact ⟨h, ht⟩
    · exact ⟨h, inv_of_mem ht (advance_mem ..)⟩

theorem stalled_keeps (pre : Core) (n : Nat) (k : Kind) (h : Inv s) : (stalled s pre n k).Keeps := by
  have hd := decodeHead_mem s n k
  unfold stalled
  split <;> rename_i e <;> rw [e] at hd
  · split
    · exact inv_of_mem h hd
    · exact inv_of_mem h hd
  · exact h
  · exact h

theorem attempt_keeps (pre : Core) (n : Nat) (k : Kind) (h : Inv s) : (attempt s pre n k).Keeps := by
  have hj : Inv (judgeGoing s pre n k).state := inv_of_mem h (judgeGoing_mem ..)
  unfold attempt
  split
  · exact stalled_keeps _ _ _ h
  · split <;> rename_i e <;> rw [e] at hj
    · exact hj
    · exact hj
    · next s1 b =>
      have h1 : Inv s1 := hj
      have h0 : Inv (openBundle s1 pre n k b) := inv_of_mem h1 (openBundle_mem ..)
      have ht := tryItems_keeps b.items false none h0 (by simp)
      dsimp only
      split <;> rename_i e <;> rw [e] at ht
      · exact ht
      · exact h1
      · next pos i t =>
        have ha := trapAlone_inv t pos i h0
        split
        · exact outInv_fault _
        · exact outInv_refused _
        · next e => exact ⟨h1, ha _ e⟩
      · exact finishItems_keeps _ _ _ h1 ht

/-! ### A cycle and the other turns -/

/-- The course of a cycle has memory in its canonical form. -/
def Course.Keeps (c : Course) : Prop := Inv c.s ∧ ∀ o, c.stop = some o → OutInv o

@[simp] theorem countHead_mem (s : State) (n : Nat) (k : Kind) (cls flag : Nat) : (countHead s n k cls flag).mem = s.mem := rfl

@[simp] theorem waitHead_mem (s : State) (n : Nat) (k : Kind) (cls flag : Nat) : (waitHead s n k cls flag).mem = s.mem := rfl

@[simp] theorem waitJoin_mem (s : State) (n : Nat) (k : Kind) (hd : Header) : (waitJoin s n k hd).mem = s.mem := by
  simp only [waitJoin]
  exact mem_ite (headTrap_mem ..) rfl

theorem turnOf_keeps (pre : Core) (n : Nat) (barred : List Kind) (c : Course) (k : Kind) (h : c.Keeps) :
    (turnOf pre n barred c k).Keeps := by
  obtain ⟨hs, hstop⟩ := h
  have ha := attempt_keeps pre n k hs
  unfold turnOf
  split
  · exact ⟨hs, hstop⟩
  · split <;> rename_i e <;> rw [e] at ha
    · refine ⟨hs, fun o eo => ?_⟩
      cases eo
      exact ha
    · exact ⟨inv_of_mem ha (countHead_mem ..), hstop⟩
    · exact ⟨inv_of_mem ha (waitHead_mem ..), hstop⟩
    · obtain ⟨h1, hu⟩ := ha
      have ht : Inv (countHead _ n k 2) := inv_of_mem hu (countHead_mem ..)
      dsimp only
      split
      · exact ⟨ht, hstop⟩
      · split
        · exact ⟨inv_of_mem h1 (waitJoin_mem ..), hstop⟩
        · exact ⟨ht, hstop⟩
    · obtain ⟨h1, hu⟩ := ha
      have ht : Inv (countHead _ n k 0) := inv_of_mem hu (countHead_mem ..)
      dsimp only
      split
      · exact ⟨ht, hstop⟩
      · split
        · exact ⟨inv_of_mem h1 (waitJoin_mem ..), hstop⟩
        · exact ⟨ht, hstop⟩

theorem turns_keep (pre : Core) (n : Nat) (barred : List Kind) (ks : List Kind) (c : Course) (h : c.Keeps) :
    (ks.foldl (turnOf pre n barred) c).Keeps := by
  induction ks generalizing c with
  | nil => exact h
  | cons k ks ih => exact ih _ (turnOf_keeps _ _ _ _ _ h)

@[simp] theorem countPairs_mem (n : Nat) (ps : List Part) (s : State) : (countPairs n ps s).mem = s.mem :=
  foldl_mem _ (fun _ _ => modCore_mem ..) _ _

theorem cycleFrom_inv (pre : Core) (n : Nat) (ks : List Kind) (fuel : Nat) (barred : List Kind) (h : Inv s) :
    OutInv (cycleFrom s pre n ks fuel barred) := by
  induction fuel generalizing barred with
  | zero => exact outInv_next h
  | succ fuel ih =>
    have hc : (ks.foldl (turnOf pre n barred) { s := s, parts := [], stop := none }).Keeps :=
      turns_keep _ _ _ _ _ ⟨h, fun _ e => by cases e⟩
    unfold cycleFrom
    dsimp only
    split
    · next e => exact hc.2 _ e
    · split
      · exact outInv_of_mem hc.1 (countPairs_mem ..)
      · exact ih _

theorem issueTurn_inv (n : Nat) (kinds : BitVec 4) (dt : Nat) (h : Inv s) : OutInv (issueTurn s n kinds dt) :=
  outInv_ite (outInv_fault _) (cycleFrom_inv _ _ _ _ _ (inv_of_mem h (openCycle_mem ..)))

theorem eventTurn_inv (i : Instr) (dt : Nat) (h : Inv s) : OutInv (eventTurn i dt s) := by
  have ht : Inv (s.enter dt (eventClass s i)) := inv_of_mem h (enter_mem ..)
  refine outInv_ite (exec_inv i ?_) (outInv_next h)
  split <;> exact ht

@[simp] theorem poisonAt_mem (s : State) (a : Nat) : (poisonAt s a).mem = s.mem := mem_ite rfl rfl

theorem outsideTurn_inv (x : Turn) (h : Inv s) : Inv (outsideTurn x s) := by
  cases x with
  | issue n kinds dt => exact h
  | event i dt => exact h
  | poison addr => exact inv_ite h (inv_of_mem h (poisonAt_mem ..))
  | corrected stack => exact h
  | outside addr b => exact inv_ite h (writePhys_inv _ _ _ h)
  | dropLine n addr => exact inv_ite h h
  | dropWord n k addr => exact inv_ite h h
  | dropTlb cl ctx va => exact inv_ite h h
  | peerCast xkey flag add => exact inv_of_mem h (peerCast_mem ..)
  | setRestime cl v => exact inv_ite h h
  | peerRow xkey n src owner row fmt vals => exact takePeerRow_inv _ _ _ _ _ _ _ h
  | peerAck xkey n rank owner ok => exact inv_of_mem h (takePeerAck_mem ..)
  | peerAsk xkey n src owner row => exact inv_of_mem h (takePeerAsk_mem ..)
  | peerVals xkey n rank owner row ok vals => exact takePeerVals_inv _ _ _ _ _ _ _ h

@[simp] theorem stopStrands_mem (s : State) : (stopStrands s).mem = s.mem := foldl_mem _ (fun _ _ => modCore_mem ..) _ _

@[simp] theorem afterTurn_mem (s : State) : (afterTurn s).mem = s.mem := (reenterAll_mem ..).trans (stopStrands_mem ..)

theorem settleTurn_inv {o : Out} (h : OutInv o) : OutInv (settleTurn o) := by
  cases o with
  | next s => exact outInv_of_mem (h s rfl) (afterTurn_mem ..)
  | fault f => exact outInv_fault f
  | refused r => exact outInv_refused r

theorem runTurn_inv (x : Turn) (h : Inv s) : OutInv (runTurn x s) := by
  unfold runTurn
  split
  · exact settleTurn_inv (issueTurn_inv _ _ _ h)
  · exact settleTurn_inv (eventTurn_inv _ _ h)
  · exact outInv_of_mem (outsideTurn_inv x h) (afterTurn_mem ..)

theorem nextTurn_mem (s : State) : (nextTurn s).2.mem = s.mem := by
  unfold nextTurn
  split <;> rfl

/-- Settles O17: whatever the turn, an instruction of a cycle, an event or the outside, it writes memory through operations that
keep its form alone (`exec_inv`, `outsideTurn_inv`). -/
theorem invStep : Obligations.InvStep :=
  fun s t h e => runTurn_inv (nextTurn s).1 (inv_of_mem h (nextTurn_mem s)) t e

end Sys2Proof.Machine
end

section
/-! PROOFS. Pages (R283, R284, R364, R365): a walk's mapping enters the TLB, and a page moves to HBM and back. -/

namespace Sys2Proof.Machine

open Sys2Proof

variable {s t u : State}

/-! ### PAGE_WALK_COMPLETE (R283) -/

/-- A walk that finds a page gives the address that its leaf names (R283). -/
theorem walkFrom_pa {va tbl pa bits : Nat} {leaf : Word} {ls : List (Nat × Nat)}
    (h : walkFrom s va tbl ls = .ok pa leaf bits) : pa = bitsAt leaf.toNat 14 38 * 2 ^ 14 + va % 2 ^ bits := by
  induction ls generalizing tbl with
  | nil => cases h
  | cons l ls ih =>
    simp only [walkFrom] at h
    cases hr : readPhys s (tbl + 8 * bitsAt va l.1 l.2) 8 with
    | error g => rw [hr] at h; cases h
    | ok bs =>
      rw [hr] at h
      simp only at h
      have hbits (e : Nat) : bitsAt (BitVec.ofNat 64 e).toNat 14 38 = bitsAt e 14 38 := by
        refine Nat.eq_of_testBit_eq fun i => ?_
        simp only [testBit_bitsAt, BitVec.toNat_ofNat, Nat.testBit_mod_two_pow]
        by_cases hi : i < 38
        · simp [hi, show 14 + i < 64 by omega]
        · simp [hi]
      split_ifs at h
      · cases h; rw [hbits]
      · exact ih h

theorem walk_pa {ctx : BitVec 12} {va pa bits : Nat} {leaf : Word} (h : walk s ctx va = .ok pa leaf bits) :
    pa = bitsAt leaf.toNat 14 38 * 2 ^ 14 + va % 2 ^ bits := by
  unfold walk at h
  split at h
  · cases h
  · split at h
    · cases h
    · exact walkFrom_pa h

/-- The entry of a page that a walk has found. -/
def pageEntry (ctx : BitVec 12) (va : Nat) (leaf : Word) (bits : Nat) : TlbEntry :=
  { ctx := ctx, va := va / 2 ^ bits * 2 ^ bits, bits := bits, leaf := leaf }

/-- A TLB with an entry more, its oldest one out where it is full (R283). -/
def tlbWith (x : Cluster) (e : TlbEntry) : Cluster :=
  { x with tlb := (if x.tlb.length < tlbEntries then x.tlb else x.tlb.drop 1) ++ [e] }

theorem tlbWith_outside (x : Cluster) (e : TlbEntry) : { tlbWith x e with tlb := x.tlb } = x := rfl

theorem tlbHit_pageEntry {cl va bits : Nat} {ctx : BitVec 12} {leaf : Word} (h : tlbHit s cl ctx va = none) :
    tlbHit (s.modCluster cl (tlbWith · (pageEntry ctx va leaf bits))) cl ctx va = some (pageEntry ctx va leaf bits) := by
  have hnone : (if (s.cluster cl).tlb.length < tlbEntries then (s.cluster cl).tlb else (s.cluster cl).tlb.drop 1).find?
      (fun e => e.ctx == ctx && va / 2 ^ e.bits == e.va / 2 ^ e.bits) = none := by
    rw [tlbHit, List.find?_eq_none] at h
    rw [List.find?_eq_none]
    intro e he
    refine h e ?_
    split at he
    · exact he
    · exact List.mem_of_mem_drop he
  rw [tlbHit, State.modCluster, cluster_setCluster_same, tlbWith, List.find?_append, hnone]
  simp [pageEntry]

theorem pageWalkComplete_maps {cl ctx va pa bits : Nat} {leaf : Word} {c : Context} (hc : s.ctxAt ctx = some c) (hcl : cl < 40)
    (hmiss : tlbHit s cl c.id va = none) (hw : walk s c.id va = .ok pa leaf bits) :
    ∃ t, exec (.pageWalkComplete cl ctx va) s = .next t ∧ lookupVa t cl c.id va = .ok pa leaf bits ∧
      { t with clusters := s.clusters } = s ∧ (∀ m, m ≠ cl → t.cluster m = s.cluster m) ∧
      { t.cluster cl with tlb := (s.cluster cl).tlb } = s.cluster cl := by
  refine ⟨s.modCluster cl (tlbWith · (pageEntry c.id va leaf bits)), ?_, ?_, rfl, fun m hm => cluster_setCluster_other _ _ _ _ hm, ?_⟩
  · simp only [exec_pageWalkComplete, execPageWalkComplete, hc, hmiss, hw]
    rw [if_neg (by simpa using hcl)]
    rfl
  · rw [lookupVa, tlbHit_pageEntry hmiss]
    exact congrArg (Trans.ok · leaf bits) (walk_pa hw).symm
  · rw [State.modCluster, cluster_setCluster_same]
    exact tlbWith_outside ..

/-! ### What the copying of a page leaves alone -/

/-- What a page's copying and the change of its leaf leave alone: the cores, the numbers given out, and which moves there are. -/
structure FramesMoved (s t : State) : Prop where
  cores : t.cores = s.cores
  nextId : t.nextId = s.nextId
  ids : t.moves.map (·.id) = s.moves.map (·.id)

theorem FramesMoved.refl (s : State) : FramesMoved s s := ⟨rfl, rfl, rfl⟩

theorem FramesMoved.trans (h : FramesMoved s u) (h2 : FramesMoved u t) : FramesMoved s t :=
  ⟨h2.cores.trans h.cores, h2.nextId.trans h.nextId, h2.ids.trans h.ids⟩

theorem FramesMoved.ite {c : Prop} [Decidable c] (ht : FramesMoved s t) (hu : FramesMoved s u) :
    FramesMoved s (if c then t else u) := by
  split
  · exact ht
  · exact hu

theorem FramesMoved.foldl {α : Type} (f : State → α → State) (hf : ∀ t x, FramesMoved t (f t x)) (xs : List α) (s : State) :
    FramesMoved s (xs.foldl f s) := by
  induction xs generalizing s with
  | nil => exact .refl s
  | cons x xs ih => exact (hf s x).trans (ih _)

theorem FramesMoved.foldl_fst {α β : Type} (f : State × β → α → State × β) (hf : ∀ t x, FramesMoved t.1 (f t x).1) (xs : List α)
    (a : State × β) : FramesMoved a.1 (xs.foldl f a).1 := by
  induction xs generalizing a with
  | nil => exact .refl a.1
  | cons x xs ih => exact (hf a x).trans (ih _)

theorem writeGranule_framesMoved (z : Bool) (s : State) (pa : Nat) (bs : List Byte) (g : Nat) :
    FramesMoved s (writeGranule z s pa bs g).1 := by
  simp only [writeGranule]
  split_ifs <;> exact ⟨rfl, rfl, rfl⟩

theorem writeHome_framesMoved (z : Bool) (s : State) (pa : Nat) (bs : List Byte) : FramesMoved s (writeHome z s pa bs).1 := by
  unfold writeHome
  split
  · exact ⟨rfl, rfl, rfl⟩
  · exact .foldl_fst _ (fun a g => by exact writeGranule_framesMoved z a.1 pa bs g) _ (s, none)

theorem copyGranule_framesMoved (z : Bool) (s : State) (a b : Nat) : FramesMoved s (copyGranule z s a b) := by
  simp only [copyGranule]
  split_ifs
  · exact .refl s
  · exact ⟨rfl, rfl, rfl⟩
  · exact writeHome_framesMoved ..

theorem copyLine_framesMoved (z : Bool) (s : State) (a b : Nat) : FramesMoved s (copyLine z s a b) :=
  .foldl _ (fun _ _ => copyGranule_framesMoved ..) _ s

theorem copyTouched_framesMoved (z : Bool) (s : State) (a b pa n : Nat) : FramesMoved s (copyTouched z s a b pa n) :=
  .foldl _ (fun t _ => .ite (copyLine_framesMoved ..) (.refl t)) _ s

theorem copyLines_framesMoved (z : Bool) (s : State) (a b : Nat) (f : Nat → Bool) : FramesMoved s (copyLines z s a b f) :=
  .foldl _ (fun t _ => .ite (copyLine_framesMoved ..) (.refl t)) _ s

/-- A write that moves mirror: the state beside the list of the moves seen so far. -/
theorem mirrorWrite_framesMoved (z : Bool) (pa : Nat) (bs : List Byte) (a : State × List PageMove) (m : PageMove) :
    FramesMoved a.1 (mirrorWrite z pa bs a m).1 := by
  simp only [mirrorWrite]
  split_ifs
  · exact copyTouched_framesMoved ..
  · exact copyTouched_framesMoved ..
  · exact .refl _
  · exact .refl _

theorem mirrorWrite_ids (z : Bool) (pa : Nat) (bs : List Byte) (a : State × List PageMove) (m : PageMove) :
    (mirrorWrite z pa bs a m).2.map (·.id) = a.2.map (·.id) ++ [m.id] := by
  simp only [mirrorWrite]
  split_ifs <;> simp

theorem foldl_mirrorWrite_ids (z : Bool) (pa : Nat) (bs : List Byte) (ms : List PageMove) (a : State × List PageMove) :
    (ms.foldl (mirrorWrite z pa bs) a).2.map (·.id) = a.2.map (·.id) ++ ms.map (·.id) := by
  induction ms generalizing a with
  | nil => simp
  | cons m ms ih => simp [ih, mirrorWrite_ids]

theorem writePhys_framesMoved (z : Bool) (s : State) (pa : Nat) (bs : List Byte) : FramesMoved s (writePhys z s pa bs).1 := by
  have hhome := writeHome_framesMoved z s pa bs
  simp only [writePhys]
  split_ifs
  · exact .refl s
  · exact hhome
  · have hmirror := FramesMoved.foldl_fst (mirrorWrite z pa bs) (mirrorWrite_framesMoved z pa bs) s.moves ((writeHome z s pa bs).1, [])
    exact ⟨hmirror.cores.trans hhome.cores, hmirror.nextId.trans hhome.nextId, foldl_mirrorWrite_ids ..⟩

theorem writePte_framesMoved (s : State) (ctx : BitVec 12) (va addr e : Nat) : FramesMoved s (writePte s ctx va addr e) := by
  simp only [writePte]
  split
  · exact writePhys_framesMoved ..
  · exact ⟨rfl, rfl, rfl⟩

theorem moveLeaf_framesMoved (s : State) (m : PageMove) (frame : Nat) (lu : Bool) : FramesMoved s (moveLeaf s m frame lu) := by
  unfold moveLeaf
  split
  · exact .refl s
  · exact writePte_framesMoved ..

/-! ### Invalidations (R284) -/

theorem releaseDue_outside (s : State) (cl e : Nat) : { releaseDue s cl e with clusters := s.clusters } = s := by
  simp only [releaseDue]
  split <;> rfl

theorem markBehind_outside (id : Nat) (xs : List Nat) (s : State) : { markBehind id xs s with clusters := s.clusters } = s := by
  induction xs generalizing s with
  | nil => rfl
  | cons x xs ih =>
    have h1 := releaseDue_outside s (x / 8) (x % 8)
    have h2 := ih ((releaseDue s (x / 8) (x % 8)).modBte (x / 8) (x % 8) fun b => { b with runq := b.runq ++ [.marker id] })
    calc { markBehind id (x :: xs) s with clusters := s.clusters }
        = { ((releaseDue s (x / 8) (x % 8)).modBte (x / 8) (x % 8) fun b => { b with runq := b.runq ++ [.marker id] }) with
            clusters := s.clusters } := congrArg (fun t : State => { t with clusters := s.clusters }) h2
      _ = s := h1

theorem markBehind_cores (id : Nat) (xs : List Nat) (s : State) : (markBehind id xs s).cores = s.cores :=
  (congrArg State.cores (markBehind_outside id xs s) :)

theorem markBehind_moves (id : Nat) (xs : List Nat) (s : State) : (markBehind id xs s).moves = s.moves :=
  (congrArg State.moves (markBehind_outside id xs s) :)

theorem dropMaps_cores (s : State) (v : Inval) (ctx : BitVec 12) : (dropMaps s v ctx).cores = s.cores := rfl

theorem dropMaps_moves (s : State) (v : Inval) (ctx : BitVec 12) : (dropMaps s v ctx).moves = s.moves := rfl

theorem dropMaps_invals (s : State) (v : Inval) (ctx : BitVec 12) : (dropMaps s v ctx).invals = s.invals ++ [v] := rfl

theorem dropMaps_tlb (s : State) (v : Inval) (ctx : BitVec 12) (cl : Nat) :
    ((dropMaps s v ctx).cluster cl).tlb = (s.cluster cl).tlb.filter fun e => e.ctx != ctx :=
  congrArg Cluster.tlb
    (tget_map_default (α := Cluster) {} (f := fun c => { c with tlb := c.tlb.filter fun e => e.ctx != ctx }) rfl s.clusters cl)

theorem startInval_cores (s : State) (ctx : BitVec 12) (notify : Bool) : (startInval s ctx notify).cores = s.cores := by
  rw [startInval_eq]
  exact (dropMaps_cores ..).trans (markBehind_cores ..)

theorem startInval_moves (s : State) (ctx : BitVec 12) (notify : Bool) : (startInval s ctx notify).moves = s.moves := by
  rw [startInval_eq]
  exact (dropMaps_moves ..).trans (markBehind_moves ..)

/-- An invalidation is noted under the next number. -/
theorem startInval_noted (s : State) (ctx : BitVec 12) (notify : Bool) :
    ∃ v ∈ (startInval s ctx notify).invals, v.id = s.nextId ∧ v.ctx = ctx := by
  rw [startInval_eq]
  simp only [dropMaps_invals]
  exact ⟨_, List.mem_append_right _ (List.mem_singleton_self _), rfl, rfl⟩

/-- No cluster keeps a mapping of the context. -/
theorem startInval_tlb (s : State) (ctx : BitVec 12) (notify : Bool) (cl : Nat) :
    ∀ e ∈ ((startInval s ctx notify).cluster cl).tlb, e.ctx ≠ ctx := by
  rw [startInval_eq]
  intro e he
  simp only [dropMaps_tlb] at he
  simpa using (List.mem_filter.mp he).2

/-! ### The records of moves -/

theorem setMove_invals (s : State) (m : PageMove) : (setMove s m).invals = s.invals := rfl

theorem setMove_cores (s : State) (m : PageMove) : (setMove s m).cores = s.cores := rfl

theorem setMove_cluster (s : State) (m : PageMove) (cl : Nat) : (setMove s m).cluster cl = s.cluster cl := rfl

theorem mem_setMove {m : PageMove} (h : m.id ∈ s.moves.map (·.id)) : m ∈ (setMove s m).moves := by
  obtain ⟨x, hx, e⟩ := List.mem_map.mp h
  exact List.mem_map.mpr ⟨x, hx, if_pos e⟩

theorem mem_ids_of_getElem? {i : Nat} {m : PageMove} (h : s.moves[i]? = some m) : m.id ∈ s.moves.map (·.id) :=
  List.mem_map_of_mem (List.mem_of_getElem? h)

theorem switchMove_eq (s : State) (m : PageMove) (frame : Nat) (lu : Bool) (st : MoveState) :
    switchMove s m frame lu st =
      setMove (startInval (moveLeaf s m frame lu) m.ctx false) { m with st := st, inval := some s.nextId } := rfl

/-- A page switched to another frame: its move waits for the invalidation of its mappings. -/
theorem switchMove_moves {m : PageMove} {frame : Nat} {lu : Bool} {st : MoveState} (h : m.id ∈ s.moves.map (·.id)) :
    { m with st := st, inval := some s.nextId } ∈ (switchMove s m frame lu st).moves := by
  rw [switchMove_eq]
  refine mem_setMove ?_
  rw [startInval_moves, (moveLeaf_framesMoved s m frame lu).ids]
  exact h

theorem switchMove_cores (s : State) (m : PageMove) (frame : Nat) (lu : Bool) (st : MoveState) :
    (switchMove s m frame lu st).cores = s.cores := by
  rw [switchMove_eq, setMove_cores, startInval_cores, (moveLeaf_framesMoved s m frame lu).cores]

theorem switchMove_noted (s : State) (m : PageMove) (frame : Nat) (lu : Bool) (st : MoveState) :
    ∃ v ∈ (switchMove s m frame lu st).invals, v.id = s.nextId ∧ v.ctx = m.ctx := by
  have h := startInval_noted (moveLeaf s m frame lu) m.ctx false
  rw [(moveLeaf_framesMoved s m frame lu).nextId] at h
  rw [switchMove_eq, setMove_invals]
  exact h

theorem switchMove_tlb (s : State) (m : PageMove) (frame : Nat) (lu : Bool) (st : MoveState) (cl : Nat) :
    ∀ e ∈ ((switchMove s m frame lu st).cluster cl).tlb, e.ctx ≠ m.ctx := by
  rw [switchMove_eq, setMove_cluster]
  exact startInval_tlb _ _ _ cl

theorem takeFrame_ids {cl x : Nat} {c : Context} (h : takeFrame s cl c = .ok (some (x, u))) :
    u.moves.map (·.id) = s.moves.map (·.id) := by
  unfold takeFrame at h
  split at h
  · cases h
  · split at h
    · cases h; rfl
    · split at h
      · cases h
      · split_ifs at h
        · cases h
        · split at h <;> cases h
          exact (writePhys_framesMoved ..).ids

theorem takeSpare_ids {cl x : Nat} {c : Context} (h : takeSpare s cl c = .ok (some (x, u))) :
    u.moves.map (·.id) = s.moves.map (·.id) := by
  unfold takeSpare at h
  split at h
  · cases h
  · exact takeFrame_ids h

/-! ### PAGE_MIGRATION_COPY (R364) -/

theorem pageMigrationCopy_waiting {i x : Nat} {m : PageMove} {c : Context} (hm : s.moves[i]? = some m) (hst : m.st = .wait)
    (hfirst : (s.moves.find? fun y => y.ctx == m.ctx && y.st == .wait) = some m) (hmoving : pageMoving s m = false)
    (hpage : promotable s (coreCluster m.core) m.ctx m.va = some m.old) (hc : s.ctx? m.ctx = some c)
    (hx : takeSpare s (coreCluster m.core) c = .ok (some (x, u))) :
    ∃ t, exec (.pageMigrationCopy i) s = .next t ∧ { m with new := x, st := .copying } ∈ t.moves ∧ t.mem = u.mem ∧
      t.cores = u.cores := by
  refine ⟨setMove u { m with new := x, st := .copying }, ?_, mem_setMove ?_, rfl, rfl⟩
  · simp [execPageMigrationCopy, hm, hst, startMove, hfirst, hmoving, hpage, hc, hx]
  · rw [takeSpare_ids hx]
    exact (mem_ids_of_getElem? hm :)

theorem pageMigrationCopy_copying {i : Nat} {m : PageMove} (hm : s.moves[i]? = some m) (hst : m.st = .copying) :
    ∃ t, exec (.pageMigrationCopy i) s = .next t ∧
      { m with copied := 0xFFFF_FFFF_FFFF_FFFF#64, st := .switching, inval := some s.nextId } ∈ t.moves ∧
      t.cores = s.cores ∧ (∃ v ∈ t.invals, v.id = s.nextId ∧ v.ctx = m.ctx) ∧ ∀ cl, ∀ e ∈ (t.cluster cl).tlb, e.ctx ≠ m.ctx := by
  have hcopy := copyLines_framesMoved (moveZ s m) s m.old m.new fun i => !m.copied.getLsbD i
  have hid : m.id ∈ (copyLines (moveZ s m) s m.old m.new fun i => !m.copied.getLsbD i).moves.map (·.id) := by
    rw [hcopy.ids]
    exact mem_ids_of_getElem? hm
  have hrun : exec (.pageMigrationCopy i) s = .next (switchMove (copyLines (moveZ s m) s m.old m.new fun i => !m.copied.getLsbD i)
      { m with copied := 0xFFFF_FFFF_FFFF_FFFF#64 } m.new m.lu .switching) := by
    simp only [exec_pageMigrationCopy, execPageMigrationCopy, hm, hst]
  have hmove := switchMove_moves (m := { m with copied := 0xFFFF_FFFF_FFFF_FFFF#64 }) (frame := m.new) (lu := m.lu)
    (st := .switching) hid
  have hnoted := switchMove_noted (copyLines (moveZ s m) s m.old m.new fun i => !m.copied.getLsbD i)
    { m with copied := 0xFFFF_FFFF_FFFF_FFFF#64 } m.new m.lu .switching
  rw [hcopy.nextId] at hmove hnoted
  exact ⟨_, hrun, hmove, (switchMove_cores ..).trans hcopy.cores, hnoted, switchMove_tlb _ _ _ _ _⟩

/-! ### PAGE_MIGRATION_SWITCH and PAGE_RETURN (R364, R365) -/

/-- No strand changes, and the scalar lines of a frame are gone from every core. -/
def FrameLeft (s t : State) (frame : Nat) : Prop :=
  ∀ n, { t.core n with scache := (s.core n).scache, toks := (s.core n).toks } = s.core n ∧
    (t.core n).scache = (s.core n).scache.filter fun x => !inFrame frame (64 * x.1)

theorem FrameLeft.allStrands {frame : Nat} (h : FrameLeft s t frame) : AllStrands s t :=
  fun n k => by
    have hk := congrArg (fun c : Core => c.strand k) (h n).1
    cases k <;> exact hk

theorem movePage_left (s : State) (a b : Nat) : FrameLeft s (movePage s a b) a := by
  intro n
  have h : (movePage s a b).core n = { s.core n with scache := (s.core n).scache.filter fun x => !inFrame a (64 * x.1) } :=
    tget_map_default (α := Core) {} (f := fun c => { c with scache := c.scache.filter fun x => !inFrame a (64 * x.1) }) rfl s.cores n
  rw [h]
  exact ⟨rfl, rfl⟩

/-- What the end of a promotion changes of a core: the token that waited for it. -/
theorem promoteDone_core (s : State) (m : PageMove) (n : Nat) :
    { (promoteDone s m).core n with toks := (s.core n).toks } = s.core n := by
  have hlate (k : Nat) : (countLate s m.ctx m.deadline).core k = s.core k := by
    unfold countLate
    split <;> rfl
  simp only [promoteDone]
  split_ifs
  · rw [hlate]
  · by_cases hn : n = m.core
    · rw [hn, State.modCore, core_setCore_same, hlate]
      rfl
    · rw [State.modCore, core_setCore_other _ _ _ _ hn, hlate]
  · rw [hlate]

theorem promoteDone_cases (s : State) (m : PageMove) :
    promoteDone s m = countLate s m.ctx m.deadline ∨
      ∃ f, promoteDone s m = (countLate s m.ctx m.deadline).modCore m.core f := by
  simp only [promoteDone]
  split_ifs
  · exact .inl rfl
  · exact .inr ⟨_, rfl⟩
  · exact .inl rfl

/-- What a field of the state reads after a promotion's end, where neither a context nor a core stands in it. -/
theorem promoteDone_kept {α : Type} (p : State → α) (hp : ∀ t cs xs, p { t with ctxs := cs, cores := xs } = p t) (s : State)
    (m : PageMove) : p (promoteDone s m) = p s := by
  have hlate : p (countLate s m.ctx m.deadline) = p s := by
    unfold countLate
    split
    · exact hp s _ s.cores
    · rfl
  rcases promoteDone_cases s m with e | ⟨f, e⟩
  · rw [e, hlate]
  · rw [e, ← hlate]
    exact hp _ (countLate s m.ctx m.deadline).ctxs _

/-- A promotion that ends past its deadline counts as late in its context (R365). -/
theorem promoteDone_late {m : PageMove} {c : Context} (h : s.ctx? m.ctx = some c) :
    ∃ d, (promoteDone s m).ctx? m.ctx = some d ∧
      d.promoLate = if m.deadline ≠ 0 ∧ m.deadline < s.now then c.promoLate + 1 else c.promoLate := by
  have hctx : (promoteDone s m).ctx? m.ctx = (countLate s m.ctx m.deadline).ctx? m.ctx := by
    rcases promoteDone_cases s m with e | ⟨f, e⟩ <;> rw [e]
    rfl
  rw [hctx]
  by_cases hlate : m.deadline ≠ 0 ∧ m.deadline < s.now
  · refine ⟨{ c with promoLate := c.promoLate + 1 }, ?_, (if_pos hlate).symm⟩
    rw [countLate, if_pos hlate]
    exact ctx?_modCtx_same (fun _ => rfl) h
  · refine ⟨c, ?_, (if_neg hlate).symm⟩
    rw [countLate, if_neg hlate]
    exact h

/-- The state of a promotion that has switched its page: the page is resident, or the move is over and its far frame free. -/
def switched (s : State) (m : PageMove) : State :=
  if m.lu then setMove (movePage s m.old m.new) { m with st := .resident, inval := none, read := 0, wrote := 0 }
  else { dropMove (movePage s m.old m.new) m with farPool := s.farPool ++ [m.old] }

theorem switched_outside (s : State) (m : PageMove) :
    { switched s m with moves := s.moves, farPool := s.farPool, cores := s.cores, hist := s.hist } = s := by
  unfold switched
  split <;> rfl

theorem switched_left (s : State) (m : PageMove) : FrameLeft s (switched s m) m.old := by
  unfold switched
  split <;> exact movePage_left s m.old m.new

theorem FrameLeft.promoteDone {frame : Nat} (h : FrameLeft s t frame) (m : PageMove) : FrameLeft s (promoteDone t m) frame := by
  intro n
  obtain ⟨hrest, hlines⟩ := h n
  have hdone := promoteDone_core t m n
  refine ⟨?_, (congrArg Core.scache hdone).trans hlines⟩
  calc { (Machine.promoteDone t m).core n with scache := (s.core n).scache, toks := (s.core n).toks }
      = { t.core n with scache := (s.core n).scache, toks := (s.core n).toks } :=
        congrArg (fun c : Core => { c with scache := (s.core n).scache, toks := (s.core n).toks }) hdone
    _ = s.core n := hrest

theorem pageMigrationSwitch_switches {i : Nat} {m : PageMove} (hm : s.moves[i]? = some m) (hst : m.st = .switching)
    (hinval : invalDone s m = true) (hidle : frameIdle s m.old = true) :
    ∃ t, exec (.pageMigrationSwitch i) s = .next t ∧ t.mem = s.mem ∧ AllStrands s t ∧ FrameLeft s t m.old ∧
      (m.lu = true → { m with st := .resident, inval := none, read := 0, wrote := 0 } ∈ t.moves) ∧
      (m.lu = false → t.moves = s.moves.filter (fun x => x.id != m.id) ∧ t.farPool = s.farPool ++ [m.old]) ∧
      (∀ c, s.ctx? m.ctx = some c → ∃ d, t.ctx? m.ctx = some d ∧
        d.promoLate = if m.deadline ≠ 0 ∧ m.deadline < s.now then c.promoLate + 1 else c.promoLate) := by
  have hrun : exec (.pageMigrationSwitch i) s = .next (promoteDone (switched s m) m) := by
    simp [execPageMigrationSwitch, hm, hst, hinval, hidle, switched]
  have hleft := (switched_left s m).promoteDone m
  have hmoves : (promoteDone (switched s m) m).moves = (switched s m).moves := promoteDone_kept _ (fun _ _ _ => rfl) _ _
  have hpool : (promoteDone (switched s m) m).farPool = (switched s m).farPool := promoteDone_kept _ (fun _ _ _ => rfl) _ _
  have hmem : (promoteDone (switched s m) m).mem = (switched s m).mem := promoteDone_kept _ (fun _ _ _ => rfl) _ _
  have hout := switched_outside s m
  refine ⟨_, hrun, hmem.trans (congrArg State.mem hout :), hleft.allStrands, hleft, fun hlu => ?_, fun hlu => ⟨?_, ?_⟩, fun c hc => ?_⟩
  · rw [hmoves, switched, if_pos hlu]
    exact mem_setMove (mem_ids_of_getElem? hm :)
  · rw [hmoves, switched, if_neg (by simp [hlu])]
    rfl
  · rw [hpool, switched, if_neg (by simp [hlu])]
  · have hctxs : (switched s m).ctxs = s.ctxs := (congrArg State.ctxs hout :)
    have hnow : (switched s m).now = s.now := (congrArg State.now hout :)
    have hc : (switched s m).ctx? m.ctx = some c := by rw [State.ctx?, hctxs]; exact hc
    have hlate := promoteDone_late hc
    rwa [hnow] at hlate

theorem pageReturn_resident {i : Nat} {m : PageMove} (hm : s.moves[i]? = some m) (hst : m.st = .resident)
    (hread : m.read = 0xFFFF_FFFF_FFFF_FFFF#64) :
    ∃ t x, exec (.pageReturn i) s = .next t ∧ x ∈ t.moves ∧ x.id = m.id ∧ x.st = .returning ∧ x.inval = some s.nextId ∧
      t.cores = s.cores := by
  have hcopy := copyLines_framesMoved (moveZ s m) s m.new m.old fun i => m.wrote.getLsbD i
  have hid : m.id ∈ (copyLines (moveZ s m) s m.new m.old fun i => m.wrote.getLsbD i).moves.map (·.id) := by
    rw [hcopy.ids]
    exact mem_ids_of_getElem? hm
  have hmove := switchMove_moves (frame := m.old) (lu := false) (st := .returning) hid
  rw [hcopy.nextId] at hmove
  refine ⟨_, _, ?_, hmove, rfl, rfl, rfl, (switchMove_cores ..).trans hcopy.cores⟩
  simp only [exec_pageReturn, execPageReturn, hm, hst, hread, if_true]

theorem pageReturn_returning {i : Nat} {m : PageMove} (hm : s.moves[i]? = some m) (hst : m.st = .returning)
    (hinval : invalDone s m = true) (hidle : frameIdle s m.new = true) :
    ∃ t, exec (.pageReturn i) s = .next t ∧ t.mem = s.mem ∧ AllStrands s t ∧ FrameLeft s t m.new ∧
      t.moves = s.moves.filter (fun x => x.id != m.id) ∧
      ∀ c, s.ctx? m.ctx = some c → ∃ d, t.ctx? m.ctx = some d ∧
        d.stash = (if c.stash.length < 256 then c.stash ++ [m.new] else c.stash) ∧
        d.reclaim = (if c.stash.length < 256 then c.reclaim else c.reclaim ++ [m.new]) := by
  have hrun : exec (.pageReturn i) s = .next (stashFrame (dropMove (movePage s m.new m.old) m) m.ctx m.new) := by
    simp only [exec_pageReturn, execPageReturn, hm, hst, hinval, hidle, Bool.and_true, if_true]
  have hleft : FrameLeft s (stashFrame (dropMove (movePage s m.new m.old) m) m.ctx m.new) m.new := movePage_left s m.new m.old
  refine ⟨_, hrun, rfl, hleft.allStrands, hleft, rfl, fun c hc => ?_⟩
  have hd := ctx?_modCtx_same (s := dropMove (movePage s m.new m.old) m) (id := m.ctx)
    (f := fun c => if c.stash.length < 256 then { c with stash := c.stash ++ [m.new] } else { c with reclaim := c.reclaim ++ [m.new] })
    (fun c => by split <;> rfl) hc
  refine ⟨_, hd, ?_, ?_⟩ <;> split <;> rfl

/-- Settles O53, clause by clause: a walk's mapping enters the TLB, and a page's move goes through its states. -/
theorem pageEvents : Obligations.PageEvents := fun _ =>
  ⟨fun _ _ _ _ _ _ _ hc hcl hmiss hw => pageWalkComplete_maps hc hcl hmiss hw,
    fun _ _ hm => ⟨fun hst _ _ _ hfirst hmoving hpage hc hx => pageMigrationCopy_waiting hm hst hfirst hmoving hpage hc hx,
      pageMigrationCopy_copying hm, pageMigrationSwitch_switches hm, pageReturn_resident hm, pageReturn_returning hm⟩⟩

end Sys2Proof.Machine
end

section
/-! PROOFS. Contexts made and destroyed, ring pointers, and the recording of faults (R268, R376, R378, R379, R380, R388, R389). -/

namespace Sys2Proof.Machine

open Sys2Proof

variable {s t u : State}

/-! ### The command of `mod.ctxcmd` (R376, R378) -/

section
variable {addr : Nat} {d : BitVec 2048}

theorem ctxCreate_waits (h : cmdRuns s 1 addr = false) : exec (.ctxCreate addr) s = .next s := by
  simp [execCtxCreate, h]

theorem ctxDestroy_waits (h : cmdRuns s 2 addr = false) : exec (.ctxDestroy addr) s = .next s := by
  simp [execCtxDestroy, h]

theorem ctxCreate_bad (hr : cmdRuns s 1 addr = true) (hd : readDesc s addr = some d) (hok : descOk (newContext d) = false) :
    exec (.ctxCreate addr) s = .next (setCtxsts s 0x81 (newContext d).id) := by
  simp [execCtxCreate, hr, hd, hok]

theorem ctxCreate_live (hr : cmdRuns s 1 addr = true) (hd : readDesc s addr = some d) (hok : descOk (newContext d) = true)
    (h : (s.ctx? (newContext d).id).isSome = true) : exec (.ctxCreate addr) s = .next (setCtxsts s 0x82 (newContext d).id) := by
  obtain ⟨x, hx⟩ := Option.isSome_iff_exists.mp h
  simp [execCtxCreate, hr, hd, hok, hx]

theorem ctxCreate_creates (hr : cmdRuns s 1 addr = true) (hd : readDesc s addr = some d) (hok : descOk (newContext d) = true)
    (h : s.ctx? (newContext d).id = none) :
    exec (.ctxCreate addr) s = .next (setCtxsts { s with ctxs := s.ctxs ++ [newContext d] } 0 (newContext d).id) := by
  simp [execCtxCreate, hr, hd, hok, h]

theorem ctxDestroy_absent (hr : cmdRuns s 2 addr = true) (hd : readDesc s addr = some d) (h : s.ctx? (newContext d).id = none) :
    exec (.ctxDestroy addr) s = .next (setCtxsts s 0x83 (newContext d).id) := by
  rw [newContext] at h
  simp [execCtxDestroy, hr, hd, h, newContext]

theorem ctxDestroy_runs {x : Context} (hr : cmdRuns s 2 addr = true) (hd : readDesc s addr = some d)
    (h : s.ctx? (newContext d).id = some x) :
    exec (.ctxDestroy addr) s = .next (setCtxsts (freeContext (abortContext s x) (newContext d).id) 0 (newContext d).id) := by
  rw [newContext] at h
  simp [execCtxDestroy, hr, hd, h, newContext]

end

/-! ### What a report leaves of a context -/

/-- What no report of a context changes: its number, its control state, its fault. -/
def statusOf (c : Context) : BitVec 12 × CtlState × Option FaultRec := (c.id, c.ctl, c.fault)

/-- A change in which every context keeps its number, control state and fault. -/
def StatusKept (s t : State) : Prop := t.ctxs.map statusOf = s.ctxs.map statusOf

theorem StatusKept.refl (s : State) : StatusKept s s := rfl

theorem StatusKept.trans (h : StatusKept s u) (h2 : StatusKept u t) : StatusKept s t := Eq.trans h2 h

theorem StatusKept.of_ctxs (h : t.ctxs = s.ctxs) : StatusKept s t := congrArg (List.map statusOf) h

theorem StatusKept.ite {b : Prop} [Decidable b] (h : StatusKept s t) (h2 : StatusKept s u) :
    StatusKept s (if b then t else u) := by
  split
  · exact h
  · exact h2

theorem modCtx_statusKept (s : State) (id : BitVec 12) {f : Context → Context} (hf : ∀ c, statusOf (f c) = statusOf c) :
    StatusKept s (s.modCtx id f) := by
  rw [StatusKept, State.modCtx, List.map_map]
  refine List.map_congr_left fun c _ => ?_
  rw [Function.comp_apply]
  split
  · exact hf c
  · rfl

/-- What follows such a change, and the change. -/
theorem StatusKept.after_modCtx {id : BitVec 12} {f : Context → Context} (h : StatusKept (s.modCtx id f) t)
    (hf : ∀ c, statusOf (f c) = statusOf c) : StatusKept s t :=
  (modCtx_statusKept s id hf).trans h

/-- A context of a number keeps its control state and its fault. -/
theorem StatusKept.ctx? (h : StatusKept s t) {id : BitVec 12} {c : Context} (hc : s.ctx? id = some c) :
    ∃ d, t.ctx? id = some d ∧ d.id = c.id ∧ d.ctl = c.ctl ∧ d.fault = c.fault := by
  have hfind (v : State) : (v.ctx? id).map statusOf = (v.ctxs.map statusOf).find? fun y => y.1 == id := by
    rw [List.find?_map]
    rfl
  have hsame : (t.ctx? id).map statusOf = (s.ctx? id).map statusOf := by rw [hfind, hfind, h]
  rw [hc] at hsame
  obtain ⟨d, hd, e⟩ := Option.map_eq_some_iff.mp hsame
  obtain ⟨hid, hctl, hfault⟩ := by simpa [statusOf] using e
  exact ⟨d, hd, hid, hctl, hfault⟩

theorem sysWrite_ctxs (s : State) (pa : Nat) (ws : List Word) : (sysWrite s pa ws).1.ctxs = s.ctxs :=
  (congrArg State.ctxs (writePhys_memoryOnly false s pa (bytesOf ws)) :)

theorem writeNote_statusKept (s : State) (c : Context) (vec : Nat) (ws : List Word) : StatusKept s (writeNote s c vec ws) := by
  unfold writeNote
  extract_lets r
  have hr : StatusKept s r.1 := .of_ctxs (sysWrite_ctxs ..)
  split
  · exact hr
  · exact hr.trans (.after_modCtx (.of_ctxs rfl) fun _ => rfl)

theorem drainNotes_statusKept (ctx : BitVec 12) (fuel : Nat) (s : State) : StatusKept s (drainNotes ctx fuel s) := by
  induction fuel generalizing s with
  | zero => exact .refl s
  | succ fuel ih =>
    rw [drainNotes]
    split
    · exact .refl s
    · split
      · exact .refl s
      · exact .ite (.after_modCtx ((writeNote_statusKept ..).trans (ih _)) fun _ => rfl) (.refl s)

theorem postNote_statusKept (s : State) (ctx : BitVec 12) (vec kind sub : Nat) (a b : Word) :
    StatusKept s (postNote s ctx vec kind sub a b) := by
  simp only [postNote]
  split
  · exact .refl s
  · exact .after_modCtx (drainNotes_statusKept ..) fun _ => rfl

theorem writeTrace_statusKept (s : State) (c : Context) (ws : List Word) : StatusKept s (writeTrace s c ws) := by
  unfold writeTrace
  extract_lets r
  have hr : StatusKept s r.1 := .of_ctxs (sysWrite_ctxs ..)
  split
  · exact hr
  · exact hr.trans (.after_modCtx (.of_ctxs rfl) fun _ => rfl)

theorem drainTrace_statusKept (ctx : BitVec 12) (fuel : Nat) (s : State) : StatusKept s (drainTrace ctx fuel s) := by
  induction fuel generalizing s with
  | zero => exact .refl s
  | succ fuel ih =>
    rw [drainTrace]
    split
    · exact .refl s
    · split
      · exact .refl s
      · exact .ite (.after_modCtx ((writeTrace_statusKept ..).trans (ih _)) fun _ => rfl) (.refl s)

theorem traceRing_statusKept (s : State) (ctx : BitVec 12) (who : Option (Nat × Kind)) (ws : List Word) :
    StatusKept s (traceRing s ctx who ws) := by
  unfold traceRing
  split
  · exact .refl s
  · refine .ite (.refl s) (.ite (.after_modCtx (drainTrace_statusKept ..) fun _ => rfl)
      (.ite (modCtx_statusKept _ _ fun _ => rfl) (.ite (writeTrace_statusKept ..) ?_)))
    extract_lets s1
    have hdrops : StatusKept s s1 := .after_modCtx (writeTrace_statusKept ..) fun _ => rfl
    split
    · exact hdrops
    · exact hdrops.trans (.ite (writeTrace_statusKept ..) (modCtx_statusKept _ _ fun _ => rfl))

theorem tracePost_statusKept (s : State) (ctx : BitVec 12) (who : Option (Nat × Kind)) (kind sub flag : Nat) (a b : Word) :
    StatusKept s (tracePost s ctx who kind sub flag a b) := by
  refine StatusKept.trans (u := if 2 ≤ kind then bboxPost s [traceHead kind sub flag ctx, a, b, s.counter] else s) ?_
    (traceRing_statusKept ..)
  refine .ite ?_ (.refl s)
  simp only [bboxPost]
  exact .ite (.refl s) (.refl s)

/-! ### FAULT_RECORD (R268, R389) -/

theorem keepFault_keeps {c : Context} (f : FaultRec) (hc : s.ctx? c.id = some c) :
    ∃ d, (keepFault s c f).ctx? c.id = some d ∧ d.id = c.id ∧ d.fault = some f ∧ (keepFault s c f).bbFrozen = true ∧
      (keepFault s c f).cores = s.cores := by
  have hmod := ctx?_modCtx_same (f := fun c => { c with fault := some f }) (fun _ => rfl) hc
  obtain ⟨d, hd, hid, -, hfault⟩ := (tracePost_statusKept _ c.id none 5 f.reason.toNat 0 f.unit f.pc).ctx? hmod
  exact ⟨d, hd, hid, hfault, rfl, (tracePost_reported ..).cores⟩

/-- A record that counts one fault more (R268). -/
def counted (g : FaultRec) : FaultRec := { g with more := if g.more = 0xFFFF then 0xFFFF else g.more + 1 }

theorem countFault_counts {c : Context} {g : FaultRec} (hctl : c.ctl ≠ .ended) :
    countFault s c g = s.modCtx c.id fun c => { c with fault := some (counted g) } := by
  have hmore : (if g.more = 0xFFFF then g.more else g.more + 1) = if g.more = 0xFFFF then 0xFFFF else g.more + 1 := by
    split
    · assumption
    · rfl
  rw [countFault, if_neg hctl, hmore]
  rfl

theorem faultRecord_runs {i : Nat} {f : FaultRec} (h : s.posts[i]? = some f) :
    exec (.faultRecord i) s = .next (collect { s with posts := dropAt s.posts i } f) := by
  simp [execFaultRecord, h]

theorem ctx?_id {id : BitVec 12} {c : Context} (h : s.ctx? id = some c) : c.id = id := by simpa using List.find?_some h

/-- A collector that holds no record yet, or one of a context that has not ended, holds one after. -/
theorem collect_fault {f : FaultRec} {c : Context} (hc : s.ctx? f.ctx = some c) (hctl : c.ctl ≠ .ended) :
    ∃ d g, (collect s f).ctx? f.ctx = some d ∧ d.id = f.ctx ∧ d.fault = some g := by
  have hid := ctx?_id hc
  have hself : s.ctx? c.id = some c := by rw [hid]; exact hc
  simp only [collect, hc]
  split
  · obtain ⟨d, hd, hdid, hfault, -⟩ := keepFault_keeps f hself
    rw [hid] at hd hdid
    exact ⟨d, f, hd, hdid, hfault⟩
  · next g _ =>
    rw [countFault_counts hctl, hid]
    exact ⟨_, counted g, ctx?_modCtx_same (f := fun c => { c with fault := some (counted g) }) (fun _ => rfl) hc, hid, rfl⟩

theorem faultRecord_dropped {i : Nat} {f : FaultRec} (h : s.posts[i]? = some f) (hc : s.ctx? f.ctx = none) :
    exec (.faultRecord i) s = .next { s with posts := dropAt s.posts i } := by
  have hc : ({ s with posts := dropAt s.posts i } : State).ctx? f.ctx = none := hc
  rw [faultRecord_runs h, collect, hc]

theorem faultRecord_kept {i : Nat} {f : FaultRec} {c : Context} (h : s.posts[i]? = some f) (hc : s.ctx? f.ctx = some c)
    (hf : c.fault = none) :
    ∃ t d, exec (.faultRecord i) s = .next t ∧ t.ctx? f.ctx = some d ∧ d.fault = some f ∧ t.bbFrozen = true ∧ t.cores = s.cores := by
  have hid := ctx?_id hc
  have hself : ({ s with posts := dropAt s.posts i } : State).ctx? c.id = some c := by rw [hid]; exact hc
  obtain ⟨d, hd, -, hfault, hfrozen, hcores⟩ := keepFault_keeps f hself
  rw [hid] at hd
  refine ⟨keepFault { s with posts := dropAt s.posts i } c f, d, ?_, hd, hfault, hfrozen, hcores⟩
  have hc : ({ s with posts := dropAt s.posts i } : State).ctx? f.ctx = some c := hc
  rw [faultRecord_runs h, collect, hc]
  simp only [hf]

theorem faultRecord_counted {i : Nat} {f g : FaultRec} {c : Context} (h : s.posts[i]? = some f) (hc : s.ctx? f.ctx = some c)
    (hf : c.fault = some g) (hctl : c.ctl ≠ .ended) :
    ∃ t d, exec (.faultRecord i) s = .next t ∧ t.ctx? f.ctx = some d ∧ d.fault = some (counted g) ∧
      t.posts = dropAt s.posts i ∧ t.cores = s.cores ∧ t.mem = s.mem := by
  have hc : ({ s with posts := dropAt s.posts i } : State).ctx? f.ctx = some c := hc
  have hmod := ctx?_modCtx_same (f := fun c => { c with fault := some (counted g) }) (fun _ => rfl) hc
  rw [← ctx?_id hc] at hmod ⊢
  refine ⟨_, _, ?_, hmod, rfl, rfl, rfl, rfl⟩
  rw [faultRecord_runs h, collect, hc]
  simp only [hf, countFault_counts hctl]

/-! ### Ring pointers (R379, R380, R388) -/

section
variable {ctx : Nat} {c : Context} {v : Word}

theorem lqtailWrite_runs (h : s.ctxAt ctx = some c) :
    exec (.lqtailWrite ctx v) s = .next (s.modCtx c.id fun c => { c with lqtail := v }) := by
  simp [execLqtailWrite, writeLqtail, h]

theorem nqreadWrite_runs (h : s.ctxAt ctx = some c) :
    exec (.nqreadWrite ctx v) s =
      .next (drainNotes c.id (c.noteq.length + 1) (s.modCtx c.id fun c => { c with nqread := v })) := by
  simp [execNqreadWrite, writeNqread, h]

theorem drainNotes_empty {id : BitVec 12} {fuel : Nat} (hc : s.ctx? id = some c) (hq : c.noteq = []) :
    drainNotes id fuel s = s := by
  cases fuel with
  | zero => rfl
  | succ fuel => simp only [drainNotes, hc, hq]

theorem nqreadWrite_idle (h : s.ctxAt ctx = some c) (hq : c.noteq = []) :
    exec (.nqreadWrite ctx v) s = .next (s.modCtx c.id fun c => { c with nqread := v }) := by
  have hread := ctx?_modCtx_same (f := fun c => { c with nqread := v }) (fun _ => rfl) (ctxAt_id h)
  rw [nqreadWrite_runs h, drainNotes_empty hread hq]

theorem tqreadWrite_idle (h : s.ctxAt ctx = some c) (hq : c.traceq = []) :
    exec (.tqreadWrite ctx v) s = .next (s.modCtx c.id fun c => { c with tqread := v }) := by
  have hread := ctx?_modCtx_same (f := fun c => { c with tqread := v }) (fun _ => rfl) (ctxAt_id h)
  simp only [exec_tqreadWrite, execTqreadWrite, writeTqread, h, hq, drainTrace, hread]

/-- One pending notification for which there is room: it is written at the ring's write index, and its message sent. -/
theorem drainNotes_waited {cs : List Context} {k : BitVec 12} {n : Nat} {ws : List Word}
    (hc : (withCtxs cs s).ctx? k = some c) (hq : c.noteq = [(n, ws)]) (hn : n ≠ 0) (hroom : c.noteRoom = true)
    (hw : sysWrite s (noteAddr c) ws = (u, none)) :
    let t := drainNotes k 2 (withCtxs cs s)
    t.ctx? k = some { c with noteq := [], nqwrite := c.nqwrite + 1 } ∧ t.mem = u.mem ∧ t.cores = s.cores ∧
      t.outbox = s.outbox ++ [⟨"msix", [BitVec.ofNat 64 (n - 1)]⟩] := by
  have htaken := ctx?_modCtx_same (f := fun c => { c with noteq := [] }) (fun _ => rfl) hc
  obtain ⟨cs2, hcs⟩ : ∃ cs2, (withCtxs cs s).modCtx k (fun c => { c with noteq := [] }) = withCtxs cs2 s := ⟨_, rfl⟩
  rw [hcs] at htaken
  have hsys : sysWrite (withCtxs cs2 s) (noteAddr c) ws = (withCtxs cs2 u, none) :=
    (writePhys_withCtxs cs2 false s (noteAddr c) (bytesOf ws)).trans (congrArg (Prod.map (withCtxs cs2) id) hw)
  have hmemory : MemoryOnly s u := by
    have h : MemoryOnly s (sysWrite s (noteAddr c) ws).1 := writePhys_memoryOnly ..
    rwa [hw] at h
  have hnote := writeNote_written (u := withCtxs cs2 s) (c := c) (ws := ws) (congrArg Prod.snd hsys) hn
  rw [hsys, ctx?_id hc] at hnote
  have hafter : (withCtxs cs2 u).ctx? k = some { c with noteq := [] } := htaken
  have hdone := ctx?_modCtx_same (f := fun c => { c with nqwrite := c.nqwrite + 1 }) (fun _ => rfl) hafter
  have hdrain : drainNotes k 2 (withCtxs cs s) = drainNotes k 1 (writeNote (withCtxs cs2 s) c n ws) := by
    rw [drainNotes, hc]
    simp only [hq]
    rw [if_pos hroom, hcs]
  have hsent : (writeNote (withCtxs cs2 s) c n ws).ctx? k = some { c with noteq := [], nqwrite := c.nqwrite + 1 } := by
    rw [hnote]
    exact hdone
  have houtbox : u.outbox = s.outbox := (congrArg State.outbox hmemory :)
  rw [drainNotes_empty hsent rfl] at hdrain
  dsimp only
  rw [hdrain]
  refine ⟨hsent, ?_⟩
  rw [hnote]
  exact ⟨rfl, hmemory.cores, congrArg (· ++ _) houtbox⟩

/-- A notification that waited for room is written once the host has read enough (R380). -/
theorem nqreadWrite_writes {vec : Nat} {ws : List Word} (h : s.ctxAt ctx = some c) (hq : c.noteq = [(vec + 1, ws)])
    (hroom : (c.nqwrite - v).toNat < c.nqsize) (hw : sysWrite s (noteAddr c) ws = (u, none)) :
    ∃ t d, exec (.nqreadWrite ctx v) s = .next t ∧ t.mem = u.mem ∧ t.cores = s.cores ∧ t.ctx? c.id = some d ∧
      d.nqread = v ∧ d.nqwrite = c.nqwrite + 1 ∧ d.noteq = [] ∧
      t.outbox = s.outbox ++ [{ kind := "msix", words := [BitVec.ofNat 64 vec] }] := by
  have hread := ctx?_modCtx_same (f := fun c => { c with nqread := v }) (fun _ => rfl) (ctxAt_id h)
  obtain ⟨cs, hcs⟩ : ∃ cs, (s.modCtx c.id fun c => { c with nqread := v }) = withCtxs cs s := ⟨_, rfl⟩
  have hrun := nqreadWrite_runs (v := v) h
  rw [hcs] at hread hrun
  rw [hq] at hrun
  obtain ⟨hctx, hmem, hcores, hout⟩ := drainNotes_waited (s := s) hread hq (Nat.succ_ne_zero vec) (decide_eq_true hroom) hw
  exact ⟨_, _, hrun, hmem, hcores, hctx, rfl, rfl, rfl, hout⟩

end

end Sys2Proof.Machine
end

section
/-! PROOFS. The end of a context (R267, R378, R381): what it drops, and what it leaves. -/

namespace Sys2Proof.Machine

open Sys2Proof

variable {s t u : State} {ctx : BitVec 12}

/-! ### What the writes of a context that ends leave alone -/

/-- Tasks, launches and contexts stand, and each core holds the task that it held. -/
structure TasksStand (s t : State) : Prop where
  tasks : t.tasks = s.tasks
  launches : t.launches = s.launches
  ctxs : t.ctxs = s.ctxs
  holds : ∀ n, (t.core n).task = (s.core n).task

theorem TasksStand.refl (s : State) : TasksStand s s := ⟨rfl, rfl, rfl, fun _ => rfl⟩

theorem TasksStand.trans (h : TasksStand s u) (h2 : TasksStand u t) : TasksStand s t :=
  ⟨h2.tasks.trans h.tasks, h2.launches.trans h.launches, h2.ctxs.trans h.ctxs, fun n => (h2.holds n).trans (h.holds n)⟩

theorem TasksStand.foldl {α : Type} (f : State → α → State) (hf : ∀ t x, TasksStand t (f t x)) (xs : List α) (s : State) :
    TasksStand s (xs.foldl f s) := by
  induction xs generalizing s with
  | nil => exact .refl s
  | cons x xs ih => exact (hf s x).trans (ih _)

theorem TileTraffic.tasksStand (h : TileTraffic s t) (hc : ∀ n, (t.core n).task = (s.core n).task) : TasksStand s t :=
  ⟨(congrArg State.tasks h :), (congrArg State.launches h :), (congrArg State.ctxs h :), hc⟩

theorem homeWrite_tasksStand (s : State) (cl : Nat) (l : TileLine) : TasksStand s (homeWrite s cl l) :=
  (homeWrite_traffic ..).tasksStand fun n => by
    obtain ⟨a, ha⟩ := (homeWrite_alcoves s cl l).lines n
    rw [ha]

theorem core_modCore {α : Type} (p : Core → α) {f : Core → Core} (hf : ∀ x, p (f x) = p x) (s : State) (n m : Nat) :
    p ((s.modCore n f).core m) = p (s.core m) := by
  by_cases h : m = n
  · rw [h, State.modCore, core_setCore_same, hf]
  · rw [State.modCore, core_setCore_other _ _ _ _ h]

theorem dataFault_core (s : State) (ctx : BitVec 12) (code die : Nat) (unit pc : Word) (pa n : Nat) :
    (s.dataFault ctx code die unit pc pa).core n = s.core n := by
  unfold State.dataFault
  split <;> rfl

theorem writeAs_core (p : Party) (z : Bool) (s : State) (pa : Nat) (bs : List Byte) (n : Nat) :
    (writeAs p z s pa bs).1.core n = s.core n := by
  obtain ⟨i, h, hnote⟩ := noteOld_eq s p pa bs.length
  rw [writeAs, core_of_cores (writePhys_memoryOnly ..).cores, hnote]
  rfl

/-- A core after one of its stores has been performed. -/
def storeGone (x : OutStore) (c : Core) : Core :=
  { c with stores := c.stores.filter fun y => y.id != x.id, scache := scacheWrite c.scache x.pa x.bytes }

theorem performStore_tasksStand (s : State) (n : Nat) (x : OutStore) : TasksStand s (performStore s n x) := by
  refine (performStore_traffic ..).tasksStand fun m => ?_
  have hstored : (((writeAs (strandParty s n x.strand x.id) x.z s x.pa x.bytes).1.modCore n (storeGone x)).core m).task =
      (s.core m).task := by
    rw [core_modCore Core.task (f := storeGone x) (fun _ => rfl), writeAs_core]
  simp only [performStore]
  split
  · exact hstored
  · rw [dataFault_core]
    exact hstored

theorem flushContext_tasksStand (s : State) (ctx : BitVec 12) : TasksStand s (flushContext s ctx) := by
  have hlines (cl : Nat) (ls : List TileLine) (t : State) : TasksStand t (ls.foldl (fun t v => homeWrite t cl v) t) :=
    .foldl _ (fun _ _ => homeWrite_tasksStand ..) ls t
  have hstores (t : State) (n : Nat) : TasksStand t (flushStores t n fun _ => true) :=
    .foldl _ (fun _ _ => performStore_tasksStand ..) _ t
  exact ((TasksStand.foldl _ hstores _ s).trans (.foldl _ (fun t x => hlines _ _ t) _ _)).trans
    (.foldl _ (fun t x => hlines _ _ t) _ _)

theorem mixGranule_tasksStand (s0 s : State) (g : Nat) : TasksStand s (mixGranule s0 s g) := by
  simp only [mixGranule]
  split_ifs <;> exact ⟨rfl, rfl, rfl, fun _ => rfl⟩

theorem discardWrites_tasksStand (s : State) (ctx : BitVec 12) : TasksStand s (discardWrites s ctx) :=
  TasksStand.trans (u := { flushContext s ctx with posts := s.posts })
    ((flushContext_tasksStand s ctx).trans ⟨rfl, rfl, rfl, fun _ => rfl⟩)
    (.foldl _ (fun _ _ => mixGranule_tasksStand ..) _ _)

theorem purgeUnits_tasksStand (s : State) (ctx : BitVec 12) : TasksStand s (purgeUnits s ctx) :=
  ⟨rfl, rfl, rfl, fun n => tget_map (α := Core) {} (fun _ c => { c with alcove := c.alcove.filter fun v => v.key.ctx != ctx })
    Core.task (fun _ _ => rfl) s.cores n⟩

theorem purgeUnits_reqs (s : State) (ctx : BitVec 12) : ∀ r ∈ (purgeUnits s ctx).reqs, r.key.ctx ≠ ctx := by
  intro r hr
  have hr : r ∈ s.reqs.filter fun r => r.key.ctx != ctx := hr
  simpa using (List.mem_filter.mp hr).2

/-! ### What the dropping of a context's tasks leaves (R267) -/

/-- No request but with a key that one had before, no core with a task that had none, and the contexts as they were. -/
structure Dropping (s t : State) : Prop where
  keys : ∀ r ∈ t.reqs, ∃ q ∈ s.reqs, r.key = q.key
  free : ∀ n, (s.core n).task = none → (t.core n).task = none
  ctxs : t.ctxs = s.ctxs

theorem Dropping.refl (s : State) : Dropping s s := ⟨fun r hr => ⟨r, hr, rfl⟩, fun _ h => h, rfl⟩

theorem Dropping.trans (h : Dropping s u) (h2 : Dropping u t) : Dropping s t where
  keys r hr := by
    obtain ⟨q, hq, e⟩ := h2.keys r hr
    obtain ⟨p, hp, e2⟩ := h.keys q hq
    exact ⟨p, hp, e.trans e2⟩
  free n hn := h2.free n (h.free n hn)
  ctxs := h2.ctxs.trans h.ctxs

theorem Dropping.foldl {α : Type} (f : State → α → State) (hf : ∀ t x, Dropping t (f t x)) (xs : List α) (s : State) :
    Dropping s (xs.foldl f s) := by
  induction xs generalizing s with
  | nil => exact .refl s
  | cons x xs ih => exact (hf s x).trans (ih _)

/-- A change of neither requests, cores nor contexts. -/
theorem Dropping.of_same (hr : t.reqs = s.reqs) (hc : t.cores = s.cores) (hx : t.ctxs = s.ctxs) : Dropping s t :=
  ⟨fun r h => ⟨r, hr ▸ h, rfl⟩, fun n h => by rwa [core_of_cores hc], hx⟩

theorem unpinReqs_dropping (s : State) (n : Nat) (hall : Bool) (k : Option TileKey) : Dropping s (unpinReqs s n hall k) where
  keys r hr := by
    obtain ⟨q, hq, e⟩ := List.mem_map.mp hr
    refine ⟨q, hq, ?_⟩
    rw [← e]
    split <;> rfl
  free _ h := h
  ctxs := rfl

theorem clearPins_dropping (s : State) (n : Nat) : Dropping s (clearPins s n) :=
  ((unpinReqs_dropping ..).trans (unpinReqs_dropping ..)).trans (.of_same rfl rfl rfl)

theorem idle_modCore (s : State) (n m : Nat) : ((s.modCore n idleCore).core m).task = if m = n then none else (s.core m).task := by
  rw [State.modCore]
  split
  · next h => rw [h, core_setCore_same]; rfl
  · next h => rw [core_setCore_other _ _ _ _ h]

theorem freeCore_dropping (s : State) (x : Task) : Dropping s (freeCore s x) := by
  unfold freeCore
  split
  · refine (clearPins_dropping s x.core).trans ⟨fun r hr => ⟨r, hr, rfl⟩, fun n hn => ?_, rfl⟩
    rw [idle_modCore, hn, ite_self]
  · exact .refl s

/-- A core that holds a task of the list holds none in the end. -/
theorem foldl_freeCore_frees {xs : List Task} {x : Task} (hx : x ∈ xs) (hs : (s.core x.core).task = some x.id ∨ (s.core x.core).task = none) :
    ((xs.foldl freeCore s).core x.core).task = none := by
  induction xs generalizing s with
  | nil => cases hx
  | cons y ys ih =>
    rw [List.foldl_cons]
    rcases hs with hs | hs
    · have hcore (n : Nat) : (freeCore s y).core n = s.core n ∨ ((freeCore s y).core n).task = none := by
        unfold freeCore
        split
        · by_cases hn : n = y.core
          · right
            rw [idle_modCore, if_pos hn]
          · left
            rw [State.modCore, core_setCore_other _ _ _ _ hn]
            rfl
        · exact .inl rfl
      rcases List.mem_cons.mp hx with rfl | hx
      · refine (Dropping.foldl _ freeCore_dropping ys _).free _ ?_
        rw [freeCore, if_pos hs, idle_modCore, if_pos rfl]
      · refine ih hx ?_
        rcases hcore x.core with h | h
        · exact .inl (h ▸ hs)
        · exact .inr h
    · exact (Dropping.foldl _ freeCore_dropping ys _).free _ ((freeCore_dropping s y).free _ hs)

theorem dropSlots_dropping (s : State) (l : Launch) : Dropping s (dropSlots s l) := by
  unfold dropSlots
  split
  · refine Dropping.trans (u := l.slotImg.foldl (fun t x => setSlotEntry t x.1 (slotEntry t x.1 ||| claimedBits x.2)) s) ?_
      (.of_same rfl rfl rfl)
    exact .foldl (fun t (x : Nat × BitVec 16) => setSlotEntry t x.1 (slotEntry t x.1 ||| claimedBits x.2)) (fun _ _ => .of_same rfl rfl rfl) _ s
  · exact .refl s

theorem clearRetain_dropping (s : State) (cl : Nat) : Dropping s (clearRetain s cl) := .of_same rfl rfl rfl

theorem dropLaunch_dropping (s : State) (l : Launch) : Dropping s (dropLaunch s l) := .of_same rfl rfl rfl

/-- The tasks of a context freed from their cores, and what their launches hold of the slot tables. -/
def freeTasks (s : State) (ctx : BitVec 12) : State :=
  (ctxLaunches s ctx).foldl dropSlots ((s.tasks.filter fun t => taskOf s ctx t).foldl freeCore s)

/-- The launches of a context gone, and the retention that no core of a context has claimed. -/
def dropLaunches (s : State) (ctx : BitVec 12) : State :=
  let v := (ctxLaunches s ctx).foldl dropLaunch s
  (v.clusters.map fun x => x.1).foldl clearRetain v

theorem dropTasks_eq (s : State) (ctx : BitVec 12) :
    ∃ fs h, dropTasks s ctx = dropLaunches { freeTasks s ctx with fmsgs := fs, hist := h } ctx := ⟨_, _, rfl⟩

theorem freeTasks_dropping (s : State) (ctx : BitVec 12) : Dropping s (freeTasks s ctx) :=
  (Dropping.foldl _ freeCore_dropping _ s).trans (.foldl _ dropSlots_dropping _ _)

theorem dropLaunches_dropping (s : State) (ctx : BitVec 12) : Dropping s (dropLaunches s ctx) :=
  (Dropping.foldl _ dropLaunch_dropping _ s).trans (.foldl _ clearRetain_dropping _ _)

theorem dropTasks_dropping (s : State) (ctx : BitVec 12) : Dropping s (dropTasks s ctx) := by
  obtain ⟨fs, h, e⟩ := dropTasks_eq s ctx
  rw [e]
  refine Dropping.trans ((freeTasks_dropping s ctx).trans ?_) (dropLaunches_dropping { freeTasks s ctx with fmsgs := fs, hist := h } ctx)
  exact .of_same rfl rfl rfl

theorem dropTasks_frees {x : Task} (hx : x ∈ s.tasks) (hc : taskOf s ctx x = true) (hh : (s.core x.core).task = some x.id) :
    ((dropTasks s ctx).core x.core).task = none := by
  obtain ⟨fs, h, e⟩ := dropTasks_eq s ctx
  rw [e]
  refine (dropLaunches_dropping _ ctx).free _ ?_
  exact (Dropping.foldl _ dropSlots_dropping _ _).free _
    (foldl_freeCore_frees (List.mem_filter.mpr ⟨hx, hc⟩) (.inl hh))

theorem foldl_dropLaunch_launches (ls : List Launch) (s : State) :
    ∀ l ∈ (ls.foldl dropLaunch s).launches, l ∈ s.launches ∧ ∀ x ∈ ls, l.id ≠ x.id := by
  induction ls generalizing s with
  | nil => exact fun l hl => ⟨hl, fun x hx => by cases hx⟩
  | cons y ys ih =>
    intro l hl
    obtain ⟨hmem, hne⟩ := ih _ l hl
    obtain ⟨hs, hy⟩ := List.mem_filter.mp hmem
    refine ⟨hs, fun x hx => ?_⟩
    rcases List.mem_cons.mp hx with rfl | hx
    · simpa using hy
    · exact hne x hx

theorem foldl_clearRetain_launches (cls : List Nat) (s : State) : (cls.foldl clearRetain s).launches = s.launches := by
  induction cls generalizing s with
  | nil => rfl
  | cons c cs ih => exact (ih _).trans rfl

theorem dropLaunches_launches (s : State) (ctx : BitVec 12) : ∀ l ∈ (dropLaunches s ctx).launches, l.ctx ≠ ctx := by
  intro l hl hctx
  rw [dropLaunches, foldl_clearRetain_launches] at hl
  obtain ⟨hs, hne⟩ := foldl_dropLaunch_launches _ s l hl
  exact hne l (List.mem_filter.mpr ⟨hs, by simp [hctx]⟩) rfl

theorem dropTasks_launches (s : State) (ctx : BitVec 12) : ∀ l ∈ (dropTasks s ctx).launches, l.ctx ≠ ctx := by
  obtain ⟨fs, h, e⟩ := dropTasks_eq s ctx
  rw [e]
  exact dropLaunches_launches _ ctx

/-- Nothing differs but stacks and the black box. -/
def StacksOnly (s t : State) : Prop := { t with hbm := s.hbm, bbox := s.bbox, bbOver := s.bbOver } = s

theorem StacksOnly.trans (h : StacksOnly s u) (h2 : StacksOnly u t) : StacksOnly s t := by
  unfold StacksOnly at *
  rw [← h, ← h2]

theorem StacksOnly.launches (h : StacksOnly s t) : t.launches = s.launches := (congrArg State.launches h :)

theorem StacksOnly.dropping (h : StacksOnly s t) : Dropping s t :=
  .of_same (congrArg State.reqs h :) (congrArg State.cores h :) (congrArg State.ctxs h :)

/-- A stack whose retrain waited, and which no save holds any longer, goes into it. -/
def startRetrain (t : State) (k : Nat) : State :=
  let x : Stack := tget {} t.hbm k
  if x.pending && !stackHeld t k then
    moduleEvent { t with hbm := tset {} t.hbm k { x with pending := false, retraining := true } } 8 (BitVec.ofNat 64 k)
  else t

theorem startRetrain_stacksOnly (s : State) (k : Nat) : StacksOnly s (startRetrain s k) := by
  simp only [startRetrain, moduleEvent, bboxPost]
  split_ifs <;> rfl

theorem foldl_startRetrain_stacksOnly (ks : List Nat) (s : State) : StacksOnly s (ks.foldl startRetrain s) := by
  induction ks generalizing s with
  | nil => rfl
  | cons k ks ih => exact (startRetrain_stacksOnly s k).trans (ih _)

theorem startRetrains_stacksOnly (s : State) : StacksOnly s (startRetrains s) := foldl_startRetrain_stacksOnly _ s

/-! ### The end of a context (R267, R381) -/

/-- A context that has ended (R382). -/
def endedCtx (c : Context) : Context := { c with ctl := .ended, resumePend := false, stopOp := false }

/-- The units of a context emptied of it, its writes under way discarded. -/
def purged (s : State) (ctx : BitVec 12) : State := purgeUnits (discardWrites s ctx) ctx

theorem endContext_eq (s : State) (ctx : BitVec 12) :
    endContext s ctx = (startRetrains (dropTasks (purged s ctx) ctx)).modCtx ctx endedCtx := rfl

theorem purged_tasksStand (s : State) (ctx : BitVec 12) : TasksStand s (purged s ctx) :=
  (discardWrites_tasksStand ..).trans (purgeUnits_tasksStand ..)

theorem endContext_dropping (s : State) (ctx : BitVec 12) :
    Dropping (purged s ctx) (startRetrains (dropTasks (purged s ctx) ctx)) :=
  (dropTasks_dropping ..).trans (startRetrains_stacksOnly _).dropping

theorem endContext_launches (s : State) (ctx : BitVec 12) : ∀ l ∈ (endContext s ctx).launches, l.ctx ≠ ctx := by
  intro l hl
  rw [endContext_eq, modCtx_launches, (startRetrains_stacksOnly _).launches] at hl
  exact dropTasks_launches _ _ l hl

theorem endContext_reqs (s : State) (ctx : BitVec 12) : ∀ r ∈ (endContext s ctx).reqs, r.key.ctx ≠ ctx := by
  intro r hr
  rw [endContext_eq, modCtx_reqs] at hr
  obtain ⟨q, hq, e⟩ := (endContext_dropping s ctx).keys r hr
  rw [e]
  exact purgeUnits_reqs _ _ q hq

theorem endContext_ctx? {c : Context} (h : s.ctx? ctx = some c) : (endContext s ctx).ctx? ctx = some (endedCtx c) := by
  rw [endContext_eq]
  refine ctx?_modCtx_same (f := endedCtx) (fun _ => rfl) ?_
  rw [State.ctx?, (endContext_dropping s ctx).ctxs, (purged_tasksStand s ctx).ctxs]
  exact h

theorem endContext_frees {x : Task} (hx : x ∈ s.tasks) (hc : taskOf s ctx x = true) (hh : (s.core x.core).task = some x.id) :
    ((endContext s ctx).core x.core).task = none := by
  have hp := purged_tasksStand s ctx
  have hof : taskOf (purged s ctx) ctx x = true := by
    rw [taskOf, taskCtx, State.launch?, hp.launches]
    exact hc
  have hfree := dropTasks_frees (hp.tasks ▸ hx) hof ((hp.holds _).trans hh)
  rw [endContext_eq, core_of_cores (modCtx_cores ..)]
  exact (startRetrains_stacksOnly _).dropping.free _ hfree

theorem writeFrec_reported (s : State) (c : Context) (f : FaultRec) : Reported s (writeFrec s c f) := by
  simp only [writeFrec]
  split
  · exact sysWrite_reported ..
  · exact (sysWrite_reported ..).trans (postFault_reported ..)

theorem writeFrec_statusKept (s : State) (c : Context) (f : FaultRec) : StatusKept s (writeFrec s c f) := by
  have hw : StatusKept s (sysWrite s c.frec f.words).1 := .of_ctxs (sysWrite_ctxs ..)
  simp only [writeFrec]
  split <;> exact hw

theorem reportFault_reported (s : State) (c : Context) (f : FaultRec) : Reported s (reportFault s c f) := by
  have h := (writeFrec_reported s c f).trans (postNote_reported _ c.id (c.vflt + 1) 3 0 (f.code.zeroExtend 64) f.unit)
  exact .ite (h.trans (postNote_reported ..)) h

theorem reportFault_statusKept (s : State) (c : Context) (f : FaultRec) : StatusKept s (reportFault s c f) := by
  have h := (writeFrec_statusKept s c f).trans (postNote_statusKept _ c.id (c.vflt + 1) 3 0 (f.code.zeroExtend 64) f.unit)
  exact .ite (h.trans (postNote_statusKept ..)) h

theorem stopFaulted_eq {c : Context} {f : FaultRec} (hf : c.fault = some f) :
    stopFaulted s c = reportFault (endContext s c.id) c f := by
  simp only [stopFaulted, hf]

theorem stopFaulted_launches {c : Context} {f : FaultRec} (hf : c.fault = some f) :
    ∀ l ∈ (stopFaulted s c).launches, l.ctx ≠ c.id := by
  rw [stopFaulted_eq hf, (reportFault_reported ..).launches]
  exact endContext_launches _ _

/-- CONTEXT_FAULT_STOP of a context that has not ended: it has, and nothing of it is under way. -/
theorem contextFaultStop_stops {n : Nat} {c : Context} {f : FaultRec} (h : s.ctxAt n = some c) (hctl : c.ctl ≠ .ended)
    (hf : c.fault = some f) :
    ∃ t d, exec (.contextFaultStop n) s = .next t ∧ t.ctx? c.id = some d ∧ d.ctl = .ended ∧ (∀ l ∈ t.launches, l.ctx ≠ c.id) ∧
      (∀ r ∈ t.reqs, r.key.ctx ≠ c.id) ∧
      ∀ x ∈ s.tasks, taskOf s c.id x = true → (s.core x.core).task = some x.id → (t.core x.core).task = none := by
  have hrun : exec (.contextFaultStop n) s = .next (stopFaulted s c) := by
    simp only [exec_contextFaultStop, execContextFaultStop, h, if_neg hctl]
  have hrep := reportFault_reported (endContext s c.id) c f
  obtain ⟨d, hd, -, hend, -⟩ := (reportFault_statusKept (endContext s c.id) c f).ctx? (endContext_ctx? (ctxAt_id h))
  have hreqs : (reportFault (endContext s c.id) c f).reqs = (endContext s c.id).reqs := (congrArg State.reqs hrep.rest :)
  refine ⟨_, d, hrun, ?_, hend, stopFaulted_launches hf, ?_, fun x hx hc hh => ?_⟩ <;> rw [stopFaulted_eq hf]
  · exact hd
  · rw [hreqs]
    exact endContext_reqs _ _
  · rw [hrep.core]
    exact endContext_frees hx hc hh

/-! ### CTX_DESTROY (R378) -/

theorem abortContext_launches {c : Context} (hc : s.ctx? c.id = some c) (hctl : c.ctl ≠ .ended) :
    ∀ l ∈ (abortContext s c).launches, l.ctx ≠ c.id := by
  obtain ⟨d, g, hd, hid, hfault⟩ := collect_fault (f := hostAbort s c.id) hc hctl
  have hd : (collect s (hostAbort s c.id)).ctx? c.id = some d := hd
  have habort : abortContext s c = stopFaulted (collect s (hostAbort s c.id)) d := by
    rw [abortContext, if_neg hctl]
    simp only [hd]
  have hid : d.id = c.id := hid
  rw [habort, ← hid]
  exact stopFaulted_launches hfault

theorem freeContext_ctx? (s : State) (id : BitVec 12) : (freeContext s id).ctx? id = none := by
  rw [State.ctx?, List.find?_eq_none]
  intro c hc
  have hc : c ∈ s.ctxs.filter fun c => c.id != id := hc
  simpa using (List.mem_filter.mp hc).2

theorem ctxDestroy_destroys {addr : Nat} {d : BitVec 2048} {x : Context} (hr : cmdRuns s 2 addr = true)
    (hd : readDesc s addr = some d) (hx : s.ctx? (newContext d).id = some x) :
    ∃ t, exec (.ctxDestroy addr) s = .next t ∧ t.ctx? (newContext d).id = none ∧
      t.modctxsts = BitVec.ofNat 64 (0 * 2 ^ 56 + (newContext d).id.toNat) ∧ t.ctxcmd = none ∧
      (x.ctl ≠ .ended → ∀ l ∈ t.launches, l.ctx ≠ (newContext d).id) := by
  have hid := ctx?_id hx
  have hself : s.ctx? x.id = some x := by rw [hid]; exact hx
  refine ⟨_, ctxDestroy_runs hr hd hx, freeContext_ctx? .., rfl, rfl, fun hctl => ?_⟩
  rw [← hid]
  exact abortContext_launches hself hctl

/-- Settles O57, clause by clause: contexts are created and destroyed, the rings' pointers move, and faults are recorded and end
their context. -/
theorem contextEvents : Obligations.ContextEvents := fun _ =>
  ⟨fun _ _ hd => ⟨ctxCreate_waits, ctxDestroy_waits, fun hr hok => ctxCreate_bad hr hd hok,
      fun hr hok h => ctxCreate_creates hr hd hok h, fun hr hok h => ctxCreate_live hr hd hok h,
      fun hr h => ctxDestroy_absent hr hd h, fun _ hr h => ctxDestroy_destroys hr hd h⟩,
    fun _ _ _ h => ⟨lqtailWrite_runs h, nqreadWrite_idle h, tqreadWrite_idle h,
      fun _ _ _ hq hroom hw => nqreadWrite_writes h hq hroom hw, fun _ hctl hf => contextFaultStop_stops h hctl hf⟩,
    fun _ _ h => ⟨faultRecord_dropped h, fun _ hc => ⟨faultRecord_kept h hc, fun _ hg hctl => faultRecord_counted h hc hg hctl⟩⟩⟩

end Sys2Proof.Machine
end

section
/-! PROOFS. What the host does to a context and to the module (R284, R376, R382, R386, R388). -/

namespace Sys2Proof.Machine

open Sys2Proof

variable {s t u : State} {ctx : Nat} {c : Context}

/-! ### Control ops that are dropped, and those that are not (R382) -/

/-- A control op is dropped on a context that has ended, or that a kill or a fault stops. -/
def CtlDropped (s : State) (c : Context) : Prop := c.ctl = .ended ∨ c.killOp = true ∨ faulted s c.id = true

theorem ctlOn_dropped (h : s.ctxAt ctx = some c) (hd : CtlDropped s c) (f : Context → State) : ctlOn s ctx f = s := by
  simp only [ctlOn, h]
  exact if_pos hd

theorem ctlOn_live (h : s.ctxAt ctx = some c) (hd : ¬ CtlDropped s c) (f : Context → State) : ctlOn s ctx f = f c := by
  simp only [ctlOn, h]
  exact if_neg hd

theorem not_ctlDropped (he : c.ctl ≠ .ended) (hk : c.killOp = false) (hf : faulted s c.id = false) : ¬ CtlDropped s c := by
  simp [CtlDropped, he, hk, hf]

theorem ctl_dropped (h : s.ctxAt ctx = some c) (hd : CtlDropped s c) :
    exec (.ctlStop ctx) s = .next s ∧ exec (.ctlResume ctx) s = .next s ∧ exec (.ctlInvalidate ctx) s = .next s :=
  ⟨congrArg Host.Outcome.next (ctlOn_dropped h hd _), congrArg Host.Outcome.next (ctlOn_dropped h hd _), congrArg Host.Outcome.next (ctlOn_dropped h hd _)⟩

/-! ### A stop (R73, R382) -/

/-- A task found by number after a change that keeps every task's number. -/
theorem find?_map_task {ts : List Task} {f : Task → Task} (hf : ∀ y, (f y).id = y.id) (x : Nat) :
    (ts.map f).find? (fun y => y.id == x) = (ts.find? fun y => y.id == x).map f := by
  rw [List.find?_map]
  congr 2
  funext y
  rw [Function.comp_apply, hf]

/-- A task that leaves its core before it has run changes no other task. -/
theorem unplace_task? {y : Task} {x : Nat} (h : y.st = .residing ∨ y.st = .starting → y.id ≠ x) :
    (unplace s y).task? x = s.task? x := by
  unfold unplace
  split
  · next hst =>
    have hkeep : ∀ z : Task, (if z.id == y.id then { z with st := .waiting } else z).id = z.id := fun z => by split <;> rfl
    refine (find?_map_task hkeep x).trans ?_
    change (s.task? x).map _ = s.task? x
    cases hz : s.task? x with
    | none => rfl
    | some z =>
      have hzx : z.id = x := by simpa using List.find?_some hz
      have hne : ¬ ((z.id == y.id) = true) := by
        rw [hzx]
        simpa using (h hst).symm
      rw [Option.map_some, if_neg hne]
  · rfl

theorem unplace_launches (s : State) (y : Task) : (unplace s y).launches = s.launches := by
  unfold unplace
  split <;> rfl

theorem unplace_ctxs (s : State) (y : Task) : (unplace s y).ctxs = s.ctxs := by
  unfold unplace
  split <;> rfl

theorem foldl_unplace_kept (ts : List Task) (s : State) :
    (ts.foldl unplace s).launches = s.launches ∧ (ts.foldl unplace s).ctxs = s.ctxs := by
  induction ts generalizing s with
  | nil => exact ⟨rfl, rfl⟩
  | cons y ys ih =>
    obtain ⟨hl, hc⟩ := ih (unplace s y)
    exact ⟨hl.trans (unplace_launches ..), hc.trans (unplace_ctxs ..)⟩

theorem foldl_unplace_task? {x : Nat} (ts : List Task) (s : State) (h : ∀ y ∈ ts, y.st = .residing ∨ y.st = .starting → y.id ≠ x) :
    (ts.foldl unplace s).task? x = s.task? x := by
  induction ts generalizing s with
  | nil => rfl
  | cons y ys ih =>
    rw [List.foldl_cons, ih _ fun z hz => h z (List.mem_cons_of_mem _ hz), unplace_task? (h y List.mem_cons_self)]

/-- A context told to stop, by a stop of the host or for another reason. -/
def stoppingCtx (why : Nat) (c : Context) : Context :=
  if c.ctl = .running then { c with ctl := .stopping, stopOp := decide (why = 2) } else c

theorem stoppingCtx_id (why : Nat) (c : Context) : (stoppingCtx why c).id = c.id := by
  unfold stoppingCtx
  split <;> rfl

/-- A task of a context that stops goes to its cut. -/
def toCut (s : State) (id : BitVec 12) (why : Nat) (t : Task) : Task :=
  if taskOf s id t && (t.st = .running || t.st = .stopping) then { t with st := .stopping, why := why } else t

theorem toCut_id (s : State) (id : BitVec 12) (why : Nat) (t : Task) : (toCut s id why t).id = t.id := by
  unfold toCut
  split <;> rfl

/-- The context told to stop, and those of its tasks that have not run taken from their cores. -/
def unplaced (s : State) (id : BitVec 12) (why : Nat) : State :=
  (s.tasks.filter fun t => taskOf s id t).foldl unplace (s.modCtx id (stoppingCtx why))

theorem stopContext_eq (s : State) (id : BitVec 12) (why : Nat) :
    stopContext s id why = { unplaced s id why with tasks := (unplaced s id why).tasks.map (toCut s id why) } := rfl

theorem stopContext_launches (s : State) (id : BitVec 12) (why : Nat) : (stopContext s id why).launches = s.launches :=
  (foldl_unplace_kept _ _).1

theorem stopContext_ctx? {id : BitVec 12} (why : Nat) (h : s.ctx? id = some c) :
    (stopContext s id why).ctx? id = some (stoppingCtx why c) := by
  have hctxs : (stopContext s id why).ctxs = (s.modCtx id (stoppingCtx why)).ctxs := (foldl_unplace_kept _ _).2
  rw [State.ctx?, hctxs]
  exact ctx?_modCtx_same (stoppingCtx_id why) h

theorem stopContext_task? {id : BitVec 12} {why x : Nat} {y : Task} (hn : (s.tasks.map fun t => t.id).Nodup) (hy : s.task? x = some y)
    (hst : y.st = .running) : (stopContext s id why).task? x = some (toCut s id why y) := by
  have hyid : y.id = x := by simpa using List.find?_some hy
  have hother : ∀ z ∈ s.tasks.filter fun t => taskOf s id t, z.st = .residing ∨ z.st = .starting → z.id ≠ x := by
    intro z hz hzst e
    have hzy := List.inj_on_of_nodup_map hn (List.mem_of_mem_filter hz) (List.mem_of_find?_eq_some hy) (e.trans hyid.symm)
    rw [hzy, hst] at hzst
    rcases hzst with h | h <;> cases h
  have hsame : (unplaced s id why).task? x = s.task? x := foldl_unplace_task? _ (s.modCtx id (stoppingCtx why)) hother
  rw [stopContext_eq]
  refine (find?_map_task (toCut_id s id why) x).trans ?_
  change ((unplaced s id why).task? x).map _ = _
  rw [hsame, hy, Option.map_some]

/-! ### The end of a stop -/

/-- What the slots of launches that leave them touch: slot tables, and of a launch that it holds slots. -/
structure SlotsDropped (s t : State) : Prop where
  tasks : t.tasks = s.tasks
  ctxs : t.ctxs = s.ctxs
  cores : t.cores = s.cores
  launches : t.launches.map (fun l => (l.id, l.ctx)) = s.launches.map fun l => (l.id, l.ctx)

theorem SlotsDropped.refl (s : State) : SlotsDropped s s := ⟨rfl, rfl, rfl, rfl⟩

theorem SlotsDropped.trans (h : SlotsDropped s u) (h2 : SlotsDropped u t) : SlotsDropped s t :=
  ⟨h2.tasks.trans h.tasks, h2.ctxs.trans h.ctxs, h2.cores.trans h.cores, h2.launches.trans h.launches⟩

theorem SlotsDropped.foldl {α : Type} (f : State → α → State) (hf : ∀ t x, SlotsDropped t (f t x)) (xs : List α) (s : State) :
    SlotsDropped s (xs.foldl f s) := by
  induction xs generalizing s with
  | nil => exact .refl s
  | cons x xs ih => exact (hf s x).trans (ih _)

theorem modLaunch_slotsDropped (s : State) (id : Nat) {f : Launch → Launch} (hf : ∀ l, ((f l).id, (f l).ctx) = (l.id, l.ctx)) :
    SlotsDropped s (s.modLaunch id f) := by
  refine ⟨rfl, rfl, rfl, ?_⟩
  rw [State.modLaunch, List.map_map]
  refine List.map_congr_left fun l _ => ?_
  rw [Function.comp_apply]
  split
  · exact hf l
  · rfl

theorem dropSlots_slotsDropped (s : State) (l : Launch) : SlotsDropped s (dropSlots s l) := by
  unfold dropSlots
  split
  · refine SlotsDropped.trans (u := l.slotImg.foldl (fun t x => setSlotEntry t x.1 (slotEntry t x.1 ||| claimedBits x.2)) s) ?_
      (modLaunch_slotsDropped _ _ (f := fun l => { l with slotsOn := false }) fun _ => rfl)
    exact .foldl (fun t (x : Nat × BitVec 16) => setSlotEntry t x.1 (slotEntry t x.1 ||| claimedBits x.2))
      (fun _ _ => ⟨rfl, rfl, rfl, rfl⟩) _ s
  · exact .refl s

theorem dropIdleSlots_slotsDropped (s : State) (id : BitVec 12) : SlotsDropped s (dropIdleSlots s id) :=
  .foldl _ dropSlots_slotsDropped _ s

theorem taskCtx_launches (h : t.launches.map (fun l => (l.id, l.ctx)) = s.launches.map fun l => (l.id, l.ctx)) (y : Task) :
    taskCtx t y = taskCtx s y := by
  have hfind (v : State) : taskCtx v y =
      ((v.launches.map fun l => (l.id, l.ctx)).find? fun x => x.1 == y.launch).map Prod.snd := by
    rw [List.find?_map, Option.map_map]
    rfl
  rw [hfind, hfind, h]

theorem ctxCores_slotsDropped (h : SlotsDropped s t) (id : BitVec 12) : ctxCores t id = ctxCores s id := by
  have hof : ∀ y, taskOf t id y = taskOf s id y := fun y => by rw [taskOf, taskOf, taskCtx_launches h.launches]
  simp only [ctxCores, h.tasks, hof]

/-- A context of which a task holds a core goes on stopping. -/
theorem settleStop_busy {id : BitVec 12} (h : s.ctx? id = some c) (hc : ctxCores s id ≠ []) :
    settleStop s id = dropIdleSlots s id := by
  have hempty : ¬ (c.ctl = .stopping ∧ (ctxCores (dropIdleSlots s id) id).isEmpty = true) := by
    rw [ctxCores_slotsDropped (dropIdleSlots_slotsDropped s id)]
    simp [hc]
  simp only [settleStop, h, if_neg hempty]

/-- A context whose last task has left its core has stopped, and the stop is reported (R382). -/
theorem settleStop_stopped {id : BitVec 12} (h : s.ctx? id = some c) (hctl : c.ctl = .stopping) (hr : c.resumePend = false)
    (hop : c.stopOp = true) (hc : ctxCores s id = []) :
    settleStop s id = postNote ((dropIdleSlots s id).modCtx id fun c => { c with ctl := .stopped }) id 0 4 1 0 0 := by
  have hempty : c.ctl = .stopping ∧ (ctxCores (dropIdleSlots s id) id).isEmpty = true := by
    rw [ctxCores_slotsDropped (dropIdleSlots_slotsDropped s id), hc]
    exact ⟨hctl, rfl⟩
  simp only [settleStop, h, if_pos hempty, hop, hr, if_true, Bool.false_and, Bool.false_eq_true, if_false]

theorem ctlStop_runs (h : s.ctxAt ctx = some c) (hctl : c.ctl = .running) (hd : ¬ CtlDropped s c) :
    exec (.ctlStop ctx) s = .next (settleStop (stopContext s c.id 2) c.id) := by
  rw [exec_ctlStop, execCtlStop, ctlStop, ctlOn_live h hd, if_pos hctl]

theorem stoppingCtx_running (why : Nat) (h : c.ctl = .running) :
    stoppingCtx why c = { c with ctl := .stopping, stopOp := decide (why = 2) } := if_pos h

/-- A running task goes to its cut, and its context is stopping. -/
theorem ctlStop_cuts {x : Nat} {y : Task} (h : s.ctxAt ctx = some c) (hctl : c.ctl = .running) (hd : ¬ CtlDropped s c)
    (hn : (s.tasks.map fun t => t.id).Nodup) (hy : s.task? x = some y) (hc : taskOf s c.id y = true) (hst : y.st = .running) :
    ∃ t z d, exec (.ctlStop ctx) s = .next t ∧ t.task? x = some z ∧ z.st = .stopping ∧ z.why = 2 ∧ z.core = y.core ∧
      t.ctx? c.id = some d ∧ d.ctl = .stopping := by
  have hcut : toCut s c.id 2 y = { y with st := .stopping, why := 2 } := by
    rw [toCut, hc, hst]
    rfl
  have htask := stopContext_task? (id := c.id) (why := 2) hn hy hst
  rw [hcut] at htask
  have hctx := stopContext_ctx? 2 (ctxAt_id h)
  rw [stoppingCtx_running 2 hctl] at hctx
  have hbusy : ctxCores (stopContext s c.id 2) c.id ≠ [] := by
    have hof : taskOf (stopContext s c.id 2) c.id { y with st := .stopping, why := 2 } = true := by
      rw [← hc, taskOf, taskCtx, State.launch?, stopContext_launches]
      rfl
    refine List.ne_nil_of_mem (List.mem_map_of_mem (List.mem_filter.mpr ⟨List.mem_of_find?_eq_some htask, ?_⟩))
    rw [hof]
    rfl
  have hkept := dropIdleSlots_slotsDropped (stopContext s c.id 2) c.id
  refine ⟨_, { y with st := .stopping, why := 2 }, { c with ctl := .stopping, stopOp := decide (2 = 2) },
    (ctlStop_runs h hctl hd).trans (congrArg Host.Outcome.next (settleStop_busy hctx hbusy)),
    (task?_tasks hkept.tasks).trans htask, rfl, rfl, rfl, ?_, rfl⟩
  rw [State.ctx?, hkept.ctxs]
  exact hctx

/-- A context without tasks is stopped at once. -/
theorem ctlStop_idle (h : s.ctxAt ctx = some c) (hctl : c.ctl = .running) (hd : ¬ CtlDropped s c) (hr : c.resumePend = false)
    (ht : s.tasks = []) :
    ∃ t d, exec (.ctlStop ctx) s = .next t ∧ t.ctx? c.id = some d ∧ d.ctl = .stopped ∧ t.cores = s.cores := by
  have hctx := stopContext_ctx? 2 (ctxAt_id h)
  rw [stoppingCtx_running 2 hctl] at hctx
  have hunplaced : unplaced s c.id 2 = s.modCtx c.id (stoppingCtx 2) := by rw [unplaced, ht]; rfl
  have htasks : (stopContext s c.id 2).tasks = [] := by
    rw [stopContext_eq, hunplaced, modCtx_tasks, ht]
    rfl
  have hcores : (stopContext s c.id 2).cores = s.cores := by
    rw [stopContext_eq, hunplaced]
    rfl
  have hidle : ctxCores (stopContext s c.id 2) c.id = [] := by rw [ctxCores, htasks]; rfl
  have hkept := dropIdleSlots_slotsDropped (stopContext s c.id 2) c.id
  have hkeptctx : (dropIdleSlots (stopContext s c.id 2) c.id).ctx? c.id =
      some { c with ctl := .stopping, stopOp := decide (2 = 2) } := by
    rw [State.ctx?, hkept.ctxs]
    exact hctx
  have hstopped := ctx?_modCtx_same (f := fun c => { c with ctl := .stopped }) (fun _ => rfl) hkeptctx
  obtain ⟨d, hd2, -, hend, -⟩ := (postNote_statusKept _ c.id 0 4 1 0 0).ctx? hstopped
  refine ⟨_, d, (ctlStop_runs h hctl hd).trans (congrArg Host.Outcome.next (settleStop_stopped hctx rfl hr rfl hidle)), hd2, hend, ?_⟩
  rw [(postNote_reported ..).cores, modCtx_cores, hkept.cores, hcores]

/-! ### A resume, a kill (R382) -/

theorem ctlResume_pends (h : s.ctxAt ctx = some c) (hctl : c.ctl = .stopping) (hd : ¬ CtlDropped s c) :
    exec (.ctlResume ctx) s = .next (s.modCtx c.id fun c => { c with resumePend := true }) := by
  rw [exec_ctlResume, execCtlResume, ctlResume, ctlOn_live h hd]
  simp only [hctl]

/-- A stopped context runs again, and its stopped tasks wait. -/
theorem ctlResume_resumes (h : s.ctxAt ctx = some c) (hctl : c.ctl = .stopped) (hd : ¬ CtlDropped s c) :
    ∃ t d, exec (.ctlResume ctx) s = .next t ∧ t.ctx? c.id = some d ∧ d.ctl = .running ∧ t.cores = s.cores ∧
      t.tasks = s.tasks.map fun x => if taskOf s c.id x && x.st == .stopped then { x with st := .waiting } else x := by
  have hrun : exec (.ctlResume ctx) s = .next (resumeContext s c.id) := by
    rw [exec_ctlResume, execCtlResume, ctlResume, ctlOn_live h hd]
    simp only [hctl]
  have hctx := ctx?_modCtx_same (f := fun c => { c with ctl := .running, resumePend := false, stopOp := false }) (fun _ => rfl)
    (ctxAt_id h)
  unfold resumeContext at hrun
  extract_lets t at hrun
  have hrep := postNote_reported { t with tasks := t.tasks.map fun x => if taskOf t c.id x && x.st == .stopped then
    { x with st := .waiting } else x } c.id 0 4 2 0 0
  obtain ⟨d, hd2, -, hctl2, -⟩ := (postNote_statusKept { t with tasks := t.tasks.map fun x => if taskOf t c.id x && x.st == .stopped then
    { x with st := .waiting } else x } c.id 0 4 2 0 0).ctx? hctx
  exact ⟨_, d, hrun, hd2, hctl2, hrep.cores, hrep.tasks⟩

theorem ctlKill_posts (h : s.ctxAt ctx = some c) (he : c.ctl ≠ .ended) :
    ∃ t r, exec (.ctlKill ctx) s = .next t ∧ t.posts = s.posts ++ [r] ∧ r.code = 0x3A ∧ r.ctx = c.id ∧ r.unit = 0x801 ∧
      { t with posts := s.posts, ctxs := s.ctxs } = s := by
  refine ⟨{ s.modCtx c.id fun c => { c with killOp := true, resumePend := false } with posts := s.posts ++ [hostAbort s c.id] },
    hostAbort s c.id, ?_, rfl, rfl, rfl, rfl, rfl⟩
  simp only [exec_ctlKill, execCtlKill, ctlKill, h, if_neg he]

/-! ### An invalidation (R284, R382) -/

/-- One engine's run queue with a marker put behind what is due (R330). -/
def markOne (id : Nat) (t : State) (i : Nat) : State :=
  (releaseDue t (i / 8) (i % 8)).modBte (i / 8) (i % 8) fun b => { b with runq := b.runq ++ [.marker id] }

theorem markOne_engineOnly (id : Nat) (s : State) (i : Nat) : EngineOnly s (markOne id s i) (i / 8) (i % 8) :=
  (releaseDue_engineOnly ..).trans (.modBte ..)

theorem markBehind_eq (id : Nat) (xs : List Nat) (s : State) : markBehind id xs s = xs.foldl (markOne id) s := rfl

theorem engine_ne {i j : Nat} (h : i ≠ j) : (i / 8, i % 8) ≠ (j / 8, j % 8) := fun e => by
  obtain ⟨hd, hm⟩ := Prod.mk.inj e
  omega

theorem EngineOnly.cluster_tlb {cl e : Nat} (h : EngineOnly s t cl e) (m : Nat) : (t.cluster m).tlb = (s.cluster m).tlb := by
  by_cases hm : m = cl
  · rw [hm, h.tlb]
  · rw [h.others m hm]

theorem markBehind_bte_other (id : Nat) {xs : List Nat} {i : Nat} (hi : i ∉ xs) (s : State) :
    (markBehind id xs s).bte (i / 8) (i % 8) = s.bte (i / 8) (i % 8) := by
  induction xs generalizing s with
  | nil => rfl
  | cons x xs ih =>
    obtain ⟨hx, hxs⟩ := List.ne_and_not_mem_of_not_mem_cons hi
    exact (ih hxs _).trans ((markOne_engineOnly id s x).bte_other (engine_ne hx))

/-- Every run queue has the copies that are due and then the marker. -/
theorem markBehind_runq (id : Nat) {xs : List Nat} (hn : xs.Nodup) {i : Nat} (hi : i ∈ xs) (s : State) :
    ((markBehind id xs s).bte (i / 8) (i % 8)).runq =
      (releasedBte s (i / 8) (s.bte (i / 8) (i % 8))).runq ++ [.marker id] := by
  induction xs generalizing s with
  | nil => cases hi
  | cons x xs ih =>
    obtain ⟨hx, hxs⟩ := List.nodup_cons.mp hn
    have hcons : markBehind id (x :: xs) s = markBehind id xs (markOne id s x) := rfl
    rw [hcons]
    by_cases hix : i = x
    · rw [hix, markBehind_bte_other id hx, markOne, bte_modBte_same, bte_releaseDue]
    · have hone := markOne_engineOnly id s x
      rw [ih hxs ((List.mem_cons.mp hi).resolve_left hix), hone.units.releasedBte (hone.cluster_tlb _), hone.bte_other (engine_ne hix)]

theorem allEngines_nodup : allEngines.Nodup := by
  have hdisjoint (m n : Nat) (h : m ≠ n) :
      List.Disjoint ((List.range 8).map fun e => 8 * m + e) ((List.range 8).map fun e => 8 * n + e) := by
    intro x hx hy
    obtain ⟨a, ha, rfl⟩ := List.mem_map.mp hx
    obtain ⟨b, hb, e⟩ := List.mem_map.mp hy
    rw [List.mem_range] at ha hb
    omega
  refine List.nodup_flatMap.mpr ⟨fun m _ => List.Nodup.map (fun _ _ e => Nat.add_left_cancel e) List.nodup_range, ?_⟩
  exact List.nodup_range.pairwise_of_forall_ne fun m _ n _ h => hdisjoint m n h

theorem mem_allEngines {m e : Nat} (hm : m < 40) (he : e < 8) : 8 * m + e ∈ allEngines :=
  List.mem_flatMap.mpr ⟨m, List.mem_range.mpr hm, List.mem_map_of_mem (List.mem_range.mpr he)⟩

theorem dropMaps_bte (s : State) (v : Inval) (ctx : BitVec 12) (m e : Nat) : (dropMaps s v ctx).bte m e = s.bte m e := by
  have h := tget_map (α := Cluster) {} (fun _ c => { c with tlb := c.tlb.filter fun e => e.ctx != ctx }) Cluster.btes (fun _ _ => rfl)
    s.clusters m
  exact congrArg (fun b => tget {} b e) h

theorem takeId_units (s : State) : UnitsOnly s s.takeId.2 := rfl

theorem startInval_runq (s : State) (id : BitVec 12) (notify : Bool) {m e : Nat} (hm : m < 40) (he : e < 8) :
    ((startInval s id notify).bte m e).runq = ((releaseDue s m e).bte m e).runq ++ [.marker s.nextId] := by
  have h := markBehind_runq s.takeId.1 allEngines_nodup (mem_allEngines hm he) s.takeId.2
  have hd : (8 * m + e) / 8 = m := by omega
  have hr : (8 * m + e) % 8 = e := by omega
  rw [hd, hr, (takeId_units s).releasedBte rfl] at h
  rw [startInval_eq]
  simp only [dropMaps_bte, bte_releaseDue]
  exact h

theorem markBehind_invals (id : Nat) (xs : List Nat) (s : State) : (markBehind id xs s).invals = s.invals :=
  (congrArg State.invals (markBehind_outside id xs s) :)

/-- An invalidation is noted last, under the next number. -/
theorem startInval_invals (s : State) (id : BitVec 12) (notify : Bool) :
    ∃ v, (startInval s id notify).invals = s.invals ++ [v] ∧ v.id = s.nextId ∧ v.ctx = id ∧ v.notify = notify := by
  rw [startInval_eq]
  simp only [dropMaps_invals, markBehind_invals]
  exact ⟨_, rfl, rfl, rfl, rfl⟩

/-- The markers and the mappings gone change clusters, and the invalidation is noted. -/
theorem dropMaps_markBehind_outside (id : Nat) (xs : List Nat) (s : State) (v : Inval) (ctx : BitVec 12) :
    { dropMaps (markBehind id xs s) v ctx with clusters := s.clusters, invals := s.invals } = s :=
  (congrArg (fun t : State => { t with invals := s.invals }) (markBehind_outside id xs s) :)

theorem dropMaps_takeId_outside (xs : List Nat) (s : State) (v : Inval) (ctx : BitVec 12) :
    { dropMaps (markBehind s.takeId.1 xs s.takeId.2) v ctx with clusters := s.clusters, invals := s.invals, nextId := s.nextId } = s :=
  (congrArg (fun t : State => { t with nextId := s.nextId }) (dropMaps_markBehind_outside s.takeId.1 xs s.takeId.2 v ctx) :)

theorem startInval_eq_dropMaps (s : State) (id : BitVec 12) (notify : Bool) :
    ∃ v, startInval s id notify = dropMaps (markBehind s.takeId.1 allEngines s.takeId.2) v id := ⟨_, startInval_eq ..⟩

theorem startInval_outside (s : State) (id : BitVec 12) (notify : Bool) :
    { startInval s id notify with clusters := s.clusters, invals := s.invals, nextId := s.nextId } = s := by
  obtain ⟨v, e⟩ := startInval_eq_dropMaps s id notify
  rw [e]
  exact dropMaps_takeId_outside ..

theorem ctlInvalidate_invalidates (h : s.ctxAt ctx = some c) (hd : ¬ CtlDropped s c) :
    ∃ t, exec (.ctlInvalidate ctx) s = .next t ∧ (∀ m, ∀ e ∈ (t.cluster m).tlb, e.ctx ≠ c.id) ∧
      (∀ m e, m < 40 → e < 8 → (t.bte m e).runq = ((releaseDue s m e).bte m e).runq ++ [.marker s.nextId]) ∧
      (∃ v, t.invals = s.invals ++ [v] ∧ v.id = s.nextId ∧ v.ctx = c.id ∧ v.notify = true) ∧
      { t with clusters := s.clusters, invals := s.invals, nextId := s.nextId } = s := by
  refine ⟨startInval s c.id true, ?_, startInval_tlb s c.id true, fun m e hm he => startInval_runq s c.id true hm he,
    startInval_invals s c.id true, startInval_outside s c.id true⟩
  rw [exec_ctlInvalidate, execCtlInvalidate, ctlInvalidate, ctlOn_live h hd]

/-! ### The debug window and the registers of the host (R376, R382) -/

section
variable {off : Nat} {x : Word}

theorem windowAccess_reads {bs : List Byte} (h : windowCtx s off = some c)
    (hb : engineBytes s 0 c.id (windowVa s c off) 8 = .ok bs) :
    exec (.debugWindowAccess false off x) s =
      .next { s with outbox := s.outbox ++ [{ kind := "window", words := [BitVec.ofNat 64 (leNat bs)] }] } := by
  have hread : windowRead s off = BitVec.ofNat 64 (leNat bs) := by simp only [windowRead, h, hb]
  simp only [exec_debugWindowAccess, execDebugWindowAccess, hread, Bool.false_eq_true, if_false, State.send]

theorem windowAccess_writes (h : windowCtx s off = some c)
    (hu : enginePut 0 c.id (windowVa s c off) (leBytes 8 x.toNat) s = .ok u) :
    exec (.debugWindowAccess true off x) s = .next u := by
  simp only [exec_debugWindowAccess, execDebugWindowAccess, if_true, windowWrite, h, hu]

theorem hostWrite_window : exec (.hostRegisterWrite 4 off x) s = exec (.debugWindowAccess true off x) s := rfl

theorem bitsAt_extract (v : Word) (lo n : Nat) : bitsAt v.toNat lo n = (v.extractLsb' lo n).toNat :=
  (BitVec.extractLsb'_toNat ..).symm

theorem hostWrite_ctxcmd (hn : s.ctxcmd = none) (h : x.extractLsb' 60 4 = 1 ∨ x.extractLsb' 60 4 = 2) :
    exec (.hostRegisterWrite 0 0x08 x) s = .next { s with ctxcmd := some x, modctxsts := 0x0100000000000000 } := by
  have hop : bitsAt x.toNat 60 4 = 1 ∨ bitsAt x.toNat 60 4 = 2 := by
    rw [bitsAt_extract]
    rcases h with h | h <;> rw [h]
    · exact .inl rfl
    · exact .inr rfl
  have hwrite : writeCtxcmd s x = { s with ctxcmd := some x, modctxsts := BitVec.ofNat 64 (2 ^ 56) } := by
    refine if_neg ?_
    rcases hop with hop | hop <;> simp [hn, hop]
  exact congrArg Host.Outcome.next hwrite

theorem hostWrite_ctxcmd_busy (hn : s.ctxcmd ≠ none) : exec (.hostRegisterWrite 0 0x08 x) s = .next s := by
  have hwrite : writeCtxcmd s x = s := if_pos (by simp [Option.isSome_iff_ne_none.mpr hn])
  exact congrArg Host.Outcome.next hwrite

/-- A write of a context's doorbell page. -/
theorem hostWrite_doorbell (h : off < 4096) :
    exec (.hostRegisterWrite 2 (4096 * ctx + off) x) s = .next (writeDoorbell s ctx off x) := by
  have hd : (4096 * ctx + off) / 4096 = ctx := by omega
  have hm : (4096 * ctx + off) % 4096 = off := by omega
  simp only [exec_hostRegisterWrite, execHostRegisterWrite, hd, hm]
  rfl

theorem hostWrite_ctl : exec (.hostRegisterWrite 2 (4096 * ctx + 0x40) x) s = .next (writeCtl s ctx x) := by
  rw [hostWrite_doorbell (by omega)]
  rfl

theorem hostWrite_stop (h : x.extractLsb' 0 4 = 1) :
    exec (.hostRegisterWrite 2 (4096 * ctx + 0x40) x) s = exec (.ctlStop ctx) s := by
  simp only [hostWrite_ctl, writeCtl, bitsAt_extract, h, exec_ctlStop, execCtlStop, BitVec.reduceToNat]

theorem hostWrite_resume (h : x.extractLsb' 0 4 = 2) :
    exec (.hostRegisterWrite 2 (4096 * ctx + 0x40) x) s = exec (.ctlResume ctx) s := by
  simp only [hostWrite_ctl, writeCtl, bitsAt_extract, h, exec_ctlResume, execCtlResume, BitVec.reduceToNat]

theorem hostWrite_kill (h : x.extractLsb' 0 4 = 3) :
    exec (.hostRegisterWrite 2 (4096 * ctx + 0x40) x) s = exec (.ctlKill ctx) s := by
  simp only [hostWrite_ctl, writeCtl, bitsAt_extract, h, exec_ctlKill, execCtlKill, BitVec.reduceToNat]

theorem hostWrite_invalidate (h : x.extractLsb' 0 4 = 4) :
    exec (.hostRegisterWrite 2 (4096 * ctx + 0x40) x) s = exec (.ctlInvalidate ctx) s := by
  simp only [hostWrite_ctl, writeCtl, bitsAt_extract, h, exec_ctlInvalidate, execCtlInvalidate, BitVec.reduceToNat]

theorem hostWrite_pdl (h : s.ctxAt ctx = some c) :
    exec (.hostRegisterWrite 2 (4096 * ctx + 0x48) x) s = .next (s.modCtx c.id fun c => { c with pdl := x }) := by
  have hwrite : writeDoorbell s ctx 0x48 x = s.modCtx c.id fun c => { c with pdl := x } := by
    simp [writeDoorbell, h]
  rw [hostWrite_doorbell (by omega), hwrite]

end

/-! ### TRACE_SAMPLE (R386, R388) -/

/-- A full ring takes no record. -/
theorem drainTrace_full {id : BitVec 12} (h : s.ctx? id = some c) (hroom : c.traceRoom = false) (fuel : Nat) :
    drainTrace id fuel s = s := by
  cases fuel with
  | zero => rfl
  | succ fuel =>
    simp only [drainTrace, h, hroom, Bool.false_eq_true, if_false]
    split <;> rfl

/-- The sample of a strand (R386). -/
def sampleRecord (s : State) (id : BitVec 12) (n : Nat) (k : Kind) : Option (Nat × Kind) × List Word :=
  (some (n, k), [traceHead 1 (sampleClass s n k).1 (sampleClass s n k).2 id, strandId s n k, ((s.core n).strand k).pc, s.counter])

/-- A sample that a lossless context has no room for waits with its strand (R388). -/
theorem sampleStrand_waits {cs : List Context} {id : BitVec 12} {n : Nat} {k : Kind} (h : (withCtxs cs s).ctx? id = some c)
    (htron : c.tron = true) (hl : c.lossless = true) (hroom : c.traceRoom = false) (hk : mayIssue s n k = true) :
    ∃ cs2, sampleStrand id (withCtxs cs s) (n, k) = withCtxs cs2 s ∧
      (withCtxs cs2 s).ctx? id = some { c with traceq := c.traceq ++ [sampleRecord s id n k] } := by
  have hposted := ctx?_modCtx_same (f := fun c => { c with traceq := c.traceq ++ [sampleRecord s id n k] }) (fun _ => rfl) h
  obtain ⟨cs2, hcs⟩ : ∃ cs2, (withCtxs cs s).modCtx id (fun c => { c with traceq := c.traceq ++ [sampleRecord s id n k] }) =
    withCtxs cs2 s := ⟨_, rfl⟩
  rw [hcs] at hposted
  refine ⟨cs2, ?_, hposted⟩
  have hring : sampleStrand id (withCtxs cs s) (n, k) =
      traceRing (withCtxs cs s) id (sampleRecord s id n k).1 (sampleRecord s id n k).2 := if_pos hk
  have hdrain : drainTrace id (c.traceq.length + 1) (withCtxs cs2 s) = withCtxs cs2 s := drainTrace_full hposted hroom _
  rw [hring, traceRing, h]
  simp only [htron, hl, Bool.not_true, Bool.false_eq_true, if_false, if_true]
  exact (congrArg (drainTrace id (c.traceq.length + 1)) hcs).trans hdrain

theorem sampleStrand_idle {cs : List Context} {id : BitVec 12} {n : Nat} {k : Kind} (hk : mayIssue s n k = false) :
    sampleStrand id (withCtxs cs s) (n, k) = withCtxs cs s := if_neg (by rw [show mayIssue (withCtxs cs s) n k = false from hk]; simp)

/-- The samples of one core's strands, in their order. -/
theorem foldl_sampleStrand_waits (n : Nat) (id : BitVec 12) (ks : List Kind) {cs : List Context} {c : Context}
    (h : (withCtxs cs s).ctx? id = some c) (htron : c.tron = true) (hl : c.lossless = true) (hroom : c.traceRoom = false) :
    ∃ cs2, (ks.map fun k => (n, k)).foldl (sampleStrand id) (withCtxs cs s) = withCtxs cs2 s ∧
      (withCtxs cs2 s).ctx? id =
        some { c with traceq := c.traceq ++ (ks.filter fun k => mayIssue s n k).map (sampleRecord s id n) } := by
  induction ks generalizing cs c with
  | nil =>
    refine ⟨cs, rfl, ?_⟩
    rw [h]
    simp
  | cons k ks ih =>
    rw [List.map_cons, List.foldl_cons]
    cases hk : mayIssue s n k with
    | false =>
      rw [sampleStrand_idle hk, List.filter_cons_of_neg (by simp [hk])]
      exact ih h htron hl hroom
    | true =>
      obtain ⟨cs1, hone, hone2⟩ := sampleStrand_waits h htron hl hroom hk
      obtain ⟨cs2, hrest, hrest2⟩ := ih hone2 htron hl hroom
      refine ⟨cs2, ?_, ?_⟩
      · rw [hone, hrest]
      · rw [hrest2, List.filter_cons_of_pos hk]
        simp

theorem traceSample_again (h : s.ctxAt ctx = some c) (hs : c.sampled = some s.now) : exec (.traceSample ctx) s = .next s := by
  simp [execTraceSample, h, hs]

/-- The samples of a context on one core, whose ring is full. -/
theorem traceSample_waits {n : Nat} (h : s.ctxAt ctx = some c) (htron : c.tron = true) (hsamp : c.samp ≠ 0)
    (hdue : s.now % 2 ^ c.samp = 0) (hs : c.sampled ≠ some s.now) (hcores : ctxCores s c.id = [n]) (hl : c.lossless = true)
    (hroom : c.traceRoom = false) :
    ∃ t d, exec (.traceSample ctx) s = .next t ∧ t.cores = s.cores ∧ t.mem = s.mem ∧ t.ctx? c.id = some d ∧
      d.sampled = some s.now ∧ d.traceq = c.traceq ++ (Kind.all.filter fun k => mayIssue s n k).map (sampleRecord s c.id n) := by
  have hsampled := ctx?_modCtx_same (f := fun c => { c with sampled := some s.now }) (fun _ => rfl) (ctxAt_id h)
  obtain ⟨cs, hcs⟩ : ∃ cs, s.modCtx c.id (fun c => { c with sampled := some s.now }) = withCtxs cs s := ⟨_, rfl⟩
  rw [hcs] at hsampled
  obtain ⟨cs2, hrun, hctx⟩ := foldl_sampleStrand_waits n c.id Kind.all hsampled htron hl hroom
  refine ⟨withCtxs cs2 s, _, ?_, rfl, rfl, hctx, rfl, rfl⟩
  have hsort : sortBy (fun a b => decide (a < b)) (ctxCores s c.id) = [n] := by rw [hcores]; rfl
  have hgo : (c.tron && c.samp != 0 && s.now % 2 ^ c.samp == 0 && c.sampled != some s.now) = true := by
    simp [htron, hsamp, hdue, hs]
  simp only [exec_traceSample, execTraceSample, h, hgo, if_true, hsort, List.flatMap_singleton, hcs]
  rw [hrun]

/-- Settles O58, clause by clause: the control ops, the debug window, the registers of the host, and the samples. -/
theorem hostControl : Obligations.HostControl := fun s ctx c h =>
  ⟨ctl_dropped h,
    fun hctl hk hf hr => ⟨fun _ _ hn hy hc hst => ctlStop_cuts h hctl (not_ctlDropped (by simp [hctl]) hk hf) hn hy hc hst,
      fun ht => ctlStop_idle h hctl (not_ctlDropped (by simp [hctl]) hk hf) hr ht⟩,
    fun hctl hk hf => ctlResume_pends h hctl (not_ctlDropped (by simp [hctl]) hk hf),
    fun hctl hk hf => ctlResume_resumes h hctl (not_ctlDropped (by simp [hctl]) hk hf),
    fun he => ⟨ctlKill_posts h he, fun hk hf => ctlInvalidate_invalidates h (not_ctlDropped he hk hf)⟩,
    fun _ _ hw => ⟨hostWrite_window, fun _ hb => windowAccess_reads hw hb, fun _ hu => windowAccess_writes hw hu⟩,
    fun x => ⟨rfl, rfl, hostWrite_ctxcmd, hostWrite_ctxcmd_busy, hostWrite_doorbell (off := 0) (by omega),
      hostWrite_doorbell (by omega), hostWrite_doorbell (by omega),
      hostWrite_stop, hostWrite_resume, hostWrite_kill, hostWrite_invalidate, hostWrite_pdl h⟩,
    traceSample_again h,
    fun _ htron hsamp hdue hs hcores hl hroom => traceSample_waits h htron hsamp hdue hs hcores hl hroom⟩

end Sys2Proof.Machine
end

section
/-! PROOFS. Events of the module (R345, R346, R347, R384, R385, R389, R390, R391). -/

namespace Sys2Proof.Machine

open Sys2Proof

variable {s t u : State}

/-! ### Events of the module (R389) -/

/-- Nothing differs but the events of the black box. -/
def EventsOnly (s t : State) : Prop := { t with bbox := s.bbox, bbOver := s.bbOver } = s

theorem moduleEvent_eventsOnly (s : State) (kind : Nat) (a : Word) : EventsOnly s (moduleEvent s kind a) := by
  simp only [moduleEvent, bboxPost]
  split <;> rfl

/-- An event that a black box with room records. -/
theorem moduleEvent_records (hf : s.bbFrozen = false) (hr : s.bbox.length < 2048) (kind : Nat) (a : Word) :
    (moduleEvent s kind a).bbox = s.bbox ++ [[traceHead kind 0 0 0, a, 0, s.counter]] := by
  simp only [moduleEvent, bboxPost, hf, Bool.false_eq_true, if_false]
  rw [if_neg (by rw [List.length_append, List.length_singleton]; omega)]

/-! ### CLOCK_STEP and UNIT_FAILURE (R385) -/

theorem clockStep_sets {n : Nat} (h : n ≤ 10) :
    ∃ t, exec (.clockStep n) s = .next t ∧ t.clock = n ∧ { t with clock := s.clock, bbox := s.bbox, bbOver := s.bbOver } = s ∧
      (s.bbFrozen = false → s.bbox.length < 2048 →
        t.bbox = s.bbox ++ [[BitVec.ofNat 64 (7 * 2 ^ 56), BitVec.ofNat 64 n, 0, s.counter]]) := by
  have hout := moduleEvent_eventsOnly { s with clock := n } 7 (BitVec.ofNat 64 n)
  refine ⟨moduleEvent { s with clock := n } 7 (BitVec.ofNat 64 n), ?_, (congrArg State.clock hout :), ?_, fun hf hr => ?_⟩
  · simp only [exec_clockStep, execClockStep, if_pos h]
  · exact (congrArg (fun t : State => { t with clock := s.clock }) hout :)
  · exact moduleEvent_records (s := { s with clock := n }) hf hr 7 _

/-- The record of a fault that the module posts in a context. -/
def moduleFault (s : State) (ctx : BitVec 12) (code : Nat) (unit val : Word) : FaultRec :=
  { code := BitVec.ofNat 8 code, reason := BitVec.ofNat 8 0, more := 0, ctx := ctx, unit := unit, pc := 0, val := val,
    time := s.counter, fqw := 0 }

/-- A fault posted in each of a list of contexts. -/
theorem foldl_postFault (cs : List Context) (code : Nat) (unit val : Word) (s : State) :
    cs.foldl (fun t c => t.postFault c.id code 0 unit 0 val 0) s =
      { s with posts := s.posts ++ cs.map fun c => moduleFault s c.id code unit val } := by
  induction cs generalizing s with
  | nil => simp
  | cons c cs ih =>
    rw [List.foldl_cons, ih, List.map_cons, List.append_cons]
    rfl

theorem unitFailure_posts {unit : Nat} {new : List Nat}
    (hnew : ((unitCores unit).filter fun n => coreWorks s n && !s.failed.contains n) = new) (hne : new ≠ []) :
    ∃ t, exec (.unitFailure unit) s = .next t ∧ t.failed = s.failed ++ new ∧ t.cores = s.cores ∧ t.mem = s.mem ∧
      ((∀ c ∈ s.ctxs, c.ctl ≠ .ended → workOn s unit c.id = false) → t.posts = s.posts) ∧
      ∀ c ∈ s.ctxs, c.ctl ≠ .ended → workOn s unit c.id = true →
        ∃ r ∈ t.posts, r.code = 0x38 ∧ r.ctx = c.id ∧ r.unit = strandId s ((unitCores unit).headD 0) .a ∧ r.val = 0 := by
  obtain ⟨id, hid⟩ : ∃ id, strandId s ((unitCores unit).headD 0) .a = id := ⟨_, rfl⟩
  have hout := moduleEvent_eventsOnly { s with failed := s.failed ++ new } 10 id
  have hposts : (moduleEvent { s with failed := s.failed ++ new } 10 id).posts = s.posts := (congrArg State.posts hout :)
  have hrun : exec (.unitFailure unit) s = .next
      ((s.ctxs.filter fun c => c.ctl != .ended && workOn s unit c.id).foldl
        (fun t c => t.postFault c.id 0x38 0 id 0 0 0) (moduleEvent { s with failed := s.failed ++ new } 10 id)) := by
    simp only [exec_unitFailure, execUnitFailure, hnew, hid]
  rw [foldl_postFault] at hrun
  refine ⟨_, hrun, (congrArg State.failed hout :), (congrArg State.cores hout :), (congrArg State.mem hout :), fun hnone => ?_,
    fun c hc he hw => ?_⟩
  · have hempty : (s.ctxs.filter fun c => c.ctl != .ended && workOn s unit c.id) = [] := by
      refine List.filter_eq_nil_iff.mpr fun c hc => ?_
      by_cases he : c.ctl = .ended
      · simp [he]
      · simp [hnone c hc he]
    rw [hempty]
    simpa using hposts
  · refine ⟨_, List.mem_append_right _ (List.mem_map_of_mem (List.mem_filter.mpr ⟨hc, by simp [he, hw]⟩)), rfl, rfl, ?_, rfl⟩
    exact hid.symm

/-! ### THERMAL_TRIP (R391) -/

theorem thermalTrip_posts {die temp : Nat} (hd : die < 4) (ht : 1100 ≤ temp) :
    ∃ t, exec (.thermalTrip die temp) s = .next t ∧ t.bbFrozen = true ∧ { t with posts := s.posts, bbFrozen := s.bbFrozen } = s ∧
      ∀ c ∈ s.ctxs, c.ctl ≠ .ended →
        ∃ r ∈ t.posts, r.code = 0x39 ∧ r.ctx = c.id ∧ r.unit = BitVec.ofNat 64 (0x800 + die) ∧ r.val = BitVec.ofNat 64 temp := by
  have hrun : exec (.thermalTrip die temp) s = .next { (s.ctxs.filter fun c => c.ctl != .ended).foldl
      (fun t c => t.postFault c.id 0x39 0 (BitVec.ofNat 64 (0x800 + die)) 0 (BitVec.ofNat 64 temp) 0) s with bbFrozen := true } :=
    if_neg (by omega)
  rw [foldl_postFault] at hrun
  refine ⟨_, hrun, rfl, rfl, fun c hc he => ?_⟩
  exact ⟨_, List.mem_append_right _ (List.mem_map_of_mem (List.mem_filter.mpr ⟨hc, by simpa using he⟩)), rfl, rfl, rfl, rfl⟩

/-! ### MODULE_RESET (R385) -/

/-- What a table without the entries that fail a test of their key reads. -/
theorem tget_filter_key {α : Type} (d : α) (p : Nat → Bool) (t : Tab α) (n : Nat) :
    tget d (t.filter fun e => p e.1) n = if p n then tget d t n else d := by
  induction t with
  | nil => exact (ite_self d).symm
  | cons e es ih =>
    by_cases hp : p e.1 = true
    · rw [List.filter_cons_of_pos (p := fun e : Nat × α => p e.1) hp]
      simp only [tget, ih]
      by_cases he : e.1 = n
      · rw [if_pos he, if_pos he, ← he, if_pos hp]
      · simp [he]
    · rw [List.filter_cons_of_neg (p := fun e : Nat × α => p e.1) hp, ih]
      by_cases he : e.1 = n
      · rw [← he, if_neg hp, if_neg hp]
      · simp only [tget, if_neg he]

theorem readByte_outsideMem (m : List Host.Cell) (a : Nat) :
    readByte (outsideMem m) a = if 0x6000000000000 ≤ a then readByte m a else 0 := by
  have h := tget_filter_key unlistedByte (fun n => decide (0x6000000000000 ≤ n)) m a
  simp only [decide_eq_true_eq] at h
  exact h

/-- The state of a reset before its event. -/
def resetAs (s : State) (warm : Bool) : State :=
  let r : State :=
    { State.reset with
      agenda := s.agenda
      turns := s.turns
      fresh := s.fresh
      nextId := s.nextId
      outbox := s.outbox
      mem := outsideMem s.mem
      poison := s.poison.filter fun g => decide (0x6000000000000 ≤ g)
      mapped := (s.mapped ++ s.failed).eraseDups
      fwVersion := s.fwVersion
      rollback := s.rollback }
  if warm then { r with bbox := s.bbox, bbFrozen := s.bbFrozen, bbOver := s.bbOver } else r

theorem moduleReset_runs (warm : Bool) :
    exec (.moduleReset warm) s = .next (moduleEvent (resetAs s warm) 11 (if warm then 1 else 0)) := rfl

/-- What the event of a reset and the kind of the reset do not concern. -/
theorem moduleReset_field {α : Type} (p : State → α) (hp : ∀ t xs o, p { t with bbox := xs, bbOver := o } = p t) (warm : Bool)
    (hw : p (resetAs s warm) = p (resetAs s false)) (a : Word) : p (moduleEvent (resetAs s warm) 11 a) = p (resetAs s false) := by
  have hout : { moduleEvent (resetAs s warm) 11 a with bbox := (resetAs s warm).bbox, bbOver := (resetAs s warm).bbOver } =
    resetAs s warm := moduleEvent_eventsOnly ..
  rw [← hw, ← hp (moduleEvent (resetAs s warm) 11 a), hout]

theorem moduleReset_resets (warm : Bool) :
    ∃ t, exec (.moduleReset warm) s = .next t ∧ (∀ n, t.core n = {}) ∧ (∀ n, t.cluster n = {}) ∧ t.ctxs = [] ∧
      t.tasks = [] ∧ t.launches = [] ∧ t.fwVersion = s.fwVersion ∧ t.rollback = s.rollback ∧
      (∀ n, n ∈ t.mapped ↔ n ∈ s.mapped ∨ n ∈ s.failed) ∧
      ∀ a, readByte t.mem a = if 0x6000000000000 ≤ a then readByte s.mem a else 0 := by
  refine ⟨_, moduleReset_runs warm, fun n => ?_, fun n => ?_, ?_, ?_, ?_, ?_, ?_, fun n => ?_, fun a => ?_⟩
  · exact moduleReset_field (fun t => t.core n) (fun _ _ _ => rfl) warm (by cases warm <;> rfl) _
  · exact moduleReset_field (fun t => t.cluster n) (fun _ _ _ => rfl) warm (by cases warm <;> rfl) _
  · exact moduleReset_field State.ctxs (fun _ _ _ => rfl) warm (by cases warm <;> rfl) _
  · exact moduleReset_field State.tasks (fun _ _ _ => rfl) warm (by cases warm <;> rfl) _
  · exact moduleReset_field State.launches (fun _ _ _ => rfl) warm (by cases warm <;> rfl) _
  · exact moduleReset_field State.fwVersion (fun _ _ _ => rfl) warm (by cases warm <;> rfl) _
  · exact moduleReset_field State.rollback (fun _ _ _ => rfl) warm (by cases warm <;> rfl) _
  · have h := moduleReset_field (s := s) State.mapped (fun _ _ _ => rfl) warm (by cases warm <;> rfl) (if warm then 1 else 0)
    rw [h]
    exact List.mem_eraseDups.trans List.mem_append
  · have h := moduleReset_field (s := s) State.mem (fun _ _ _ => rfl) warm (by cases warm <;> rfl) (if warm then 1 else 0)
    rw [h]
    exact readByte_outsideMem ..

/-! ### Firmware and attestation (R390) -/

theorem firmwareUpdate_runs (ed ml : Bool) (rb : Nat) (v : BitVec 32) :
    exec (.firmwareUpdate ed ml rb v) s =
      .next (if ed = true ∧ ml = true ∧ s.rollback ≤ rb then { s with fwVersion := v, rollback := rb } else s) := by
  have hcond : (ed && ml && decide (s.rollback ≤ rb)) = true ↔ ed = true ∧ ml = true ∧ s.rollback ≤ rb := by simp [and_assoc]
  rw [exec_firmwareUpdate, execFirmwareUpdate]
  exact congrArg Host.Outcome.next (if_congr hcond rfl rfl)

theorem attestationReport_sends (nonce : BitVec 256) :
    ∃ t ws, exec (.attestationReport nonce) s = .next t ∧ t.outbox = s.outbox ++ [{ kind := "attestation", words := ws }] ∧
      { t with outbox := s.outbox } = s ∧
      ws.take 7 = [nonce.extractLsb' 0 64, nonce.extractLsb' 64 64, nonce.extractLsb' 128 64, nonce.extractLsb' 192 64,
        modId s, capCsr s 0xC01, capCsr s 0xC02] :=
  ⟨_, reportWords s nonce ++ Config.signatures (reportWords s nonce), rfl, rfl, rfl, rfl⟩

/-! ### Stacks (R384) -/

theorem walkFrom_stacks (xs : Tab Stack) (es : List (List Word)) (o : Word32) (va : Nat) (levels : List (Nat × Nat)) (tbl : Nat) :
    walkFrom { s with hbm := xs, bbox := es, bbOver := o } va tbl levels = walkFrom s va tbl levels := by
  induction levels generalizing tbl with
  | nil => rfl
  | cons l rest ih => simp only [walkFrom, ih]; rfl

/-- A translation reads nothing of the stacks. -/
theorem StacksOnly.lookupVa (h : StacksOnly s t) (cl : Nat) (ctx : BitVec 12) (va : Nat) :
    lookupVa t cl ctx va = lookupVa s cl ctx va := by
  have hwalk : walk t ctx va = walk s ctx va := by
    rw [← h]
    simp only [walk, walkFrom_stacks]
    rfl
  have hhit : tlbHit t cl ctx va = tlbHit s cl ctx va := by rw [← h]; rfl
  simp only [Machine.lookupVa, hhit, hwalk]

theorem StacksOnly.stackAt (h : StacksOnly s t) (cl : Nat) (ctx : BitVec 12) (va : Nat) : stackAt t cl ctx va = stackAt s cl ctx va := by
  have hkind : ∀ pa, memKind t pa = memKind s pa := fun pa => by rw [← h]; rfl
  simp only [Machine.stackAt, h.lookupVa, hkind]

/-- A save's task and context, which say whether it holds a stack. -/
theorem saveOf_holder (s : State) (y : Task) :
    (saveOf s y).map (fun v => (v.t, v.c)) = (s.launch? y.launch).bind fun l => (s.ctx? l.ctx).map fun c => (y, c) := by
  unfold saveOf
  cases s.launch? y.launch with
  | none => rfl
  | some l =>
    simp only [Option.bind_some]
    cases s.ctx? l.ctx <;> rfl

/-- A save of a task and context with a deadline holds a stack that its area reaches. -/
def holds (s : State) (stack : Nat) (x : Task × Context) : Bool :=
  x.2.pdl != 0 && (List.range 80).any fun b => stackAt s (coreCluster x.1.core) x.2.id (x.1.base + 4096 * b) == some stack

theorem stackHeld_eq (s : State) (stack : Nat) :
    stackHeld s stack = s.tasks.any fun y => y.st == .saving &&
      (((saveOf s y).map fun v => (v.t, v.c)).any (holds s stack)) := by
  unfold stackHeld
  congr 1
  funext y
  cases saveOf s y <;> rfl

theorem StacksOnly.stackHeld (h : StacksOnly s t) (stack : Nat) : stackHeld t stack = stackHeld s stack := by
  have hholds : holds t stack = holds s stack := funext fun x => by simp only [holds, h.stackAt]
  have hsave : ∀ y, (saveOf t y).map (fun v => (v.t, v.c)) = (saveOf s y).map fun v => (v.t, v.c) := fun y => by
    rw [saveOf_holder, saveOf_holder, ← h]
    rfl
  have htasks : t.tasks = s.tasks := (congrArg State.tasks h :)
  simp only [stackHeld_eq, hholds, hsave, htasks]

theorem stackHeld_idle (h : ∀ x ∈ s.tasks, x.st ≠ .saving) (stack : Nat) : stackHeld s stack = false := by
  refine List.any_eq_false.mpr fun x hx => ?_
  simp [h x hx]

/-! ### Retraining (R384) -/

/-- A stack of a state. -/
def stackOf (s : State) (k : Nat) : Stack := tget {} s.hbm k

theorem retraining_eq (s : State) (k : Nat) : retraining s k = (stackOf s k).retraining := rfl

theorem moduleEvent_stack (s : State) (kind : Nat) (a : Word) (k : Nat) : stackOf (moduleEvent s kind a) k = stackOf s k :=
  (congrArg (fun t : State => stackOf t k) (moduleEvent_eventsOnly s kind a) :)

theorem stackOf_tset (s : State) (j k : Nat) (x : Stack) :
    stackOf { s with hbm := tset {} s.hbm j x } k = if k = j then x else stackOf s k := by
  split
  · next h => rw [h]; exact tget_tset_same ..
  · next h => exact tget_tset_other _ _ _ _ _ h

/-- What the start of a waiting retrain makes of each stack. -/
theorem startRetrain_stack (s : State) (j k : Nat) :
    stackOf (startRetrain s j) k =
      if k = j ∧ (stackOf s k).pending = true ∧ stackHeld s k = false then { stackOf s k with pending := false, retraining := true }
      else stackOf s k := by
  simp only [startRetrain]
  by_cases hgo : ((tget {} s.hbm j : Stack).pending && !stackHeld s j) = true
  · rw [if_pos hgo, moduleEvent_stack, stackOf_tset]
    by_cases hk : k = j
    · subst hk
      rw [if_pos rfl, if_pos ⟨rfl, by simpa [stackOf] using hgo⟩]
      rfl
    · rw [if_neg hk, if_neg fun h => hk h.1]
  · rw [if_neg hgo, if_neg]
    rintro ⟨rfl, hp, hh⟩
    exact hgo (by simp [hh]; exact hp)

/-- A stack starts its retrain unless it is held or none waits. -/
theorem foldl_startRetrain_stack (ks : List Nat) (s : State) (k : Nat) :
    stackOf (ks.foldl startRetrain s) k =
      if k ∈ ks ∧ (stackOf s k).pending = true ∧ stackHeld s k = false then { stackOf s k with pending := false, retraining := true }
      else stackOf s k := by
  induction ks generalizing s with
  | nil => simp
  | cons j js ih =>
    rw [List.foldl_cons, ih, (startRetrain_stacksOnly s j).stackHeld, startRetrain_stack]
    by_cases hp : (stackOf s k).pending = true ∧ stackHeld s k = false
    · by_cases hk : k = j
      · simp [hk, hk ▸ hp]
      · simp [hk]
    · have h1 : ¬ (k = j ∧ (stackOf s k).pending = true ∧ stackHeld s k = false) := fun h => hp h.2
      have h2 : ¬ (k ∈ js ∧ (stackOf s k).pending = true ∧ stackHeld s k = false) := fun h => hp h.2
      have h3 : ¬ (k ∈ j :: js ∧ (stackOf s k).pending = true ∧ stackHeld s k = false) := fun h => hp h.2
      rw [if_neg h1, if_neg h2, if_neg h3]

theorem startRetrains_stack (s : State) (k : Nat) :
    stackOf (startRetrains s) k =
      if k < 12 ∧ (stackOf s k).pending = true ∧ stackHeld s k = false then { stackOf s k with pending := false, retraining := true }
      else stackOf s k := by
  have h := foldl_startRetrain_stack (List.range 12) s k
  simp only [List.mem_range] at h
  exact h

theorem StacksOnly.mem (h : StacksOnly s t) : t.mem = s.mem := (congrArg State.mem h :)

theorem StacksOnly.tasks (h : StacksOnly s t) : t.tasks = s.tasks := (congrArg State.tasks h :)

theorem redirectSave_idle (stack : Nat) {y : Task} (h : y.st ≠ .saving) : redirectSave stack s y = s := by
  unfold redirectSave
  split
  · rfl
  · exact if_neg fun hc => h hc.1

theorem foldl_redirectSave_idle (stack : Nat) {ys : List Task} (h : ∀ y ∈ ys, y.st ≠ .saving) : ys.foldl (redirectSave stack) s = s := by
  induction ys with
  | nil => rfl
  | cons y ys ih =>
    rw [List.foldl_cons, redirectSave_idle stack (h y List.mem_cons_self)]
    exact ih fun z hz => h z (List.mem_cons_of_mem _ hz)

section
variable {k : Nat}

theorem hbmRetrain_runs (hk : k < 12) (hr : retraining s k = false) (hs : ∀ x ∈ s.tasks, x.st ≠ .saving) :
    exec (.hbmRetrain k) s = .next (startRetrains (moduleEvent
      { s with hbm := tset {} s.hbm k { stackOf s k with retraining := true, pending := false } } 8 (BitVec.ofNat 64 k))) := by
  have hgo : ¬ (12 ≤ k ∨ retraining s k = true) := by rw [hr]; simp; omega
  rw [exec_hbmRetrain, execHbmRetrain, if_neg hgo, foldl_redirectSave_idle k hs]
  rfl

/-- A stack that link errors force into retraining begins at once where no save holds one. -/
theorem hbmRetrain_begins (hk : k < 12) (hr : retraining s k = false) (hs : ∀ x ∈ s.tasks, x.st ≠ .saving)
    (hp : ∀ j, (tget {} s.hbm j : Stack).pending = false) :
    ∃ t, exec (.hbmRetrain k) s = .next t ∧ retraining t k = true ∧ t.mem = s.mem ∧ t.tasks = s.tasks ∧
      ∀ j, j ≠ k → retraining t j = retraining s j := by
  have hone : StacksOnly s (moduleEvent
      { s with hbm := tset {} s.hbm k { stackOf s k with retraining := true, pending := false } } 8 (BitVec.ofNat 64 k)) :=
    (congrArg (fun t : State => { t with hbm := s.hbm })
      (moduleEvent_eventsOnly { s with hbm := tset {} s.hbm k { stackOf s k with retraining := true, pending := false } } 8 _) :)
  have hall := hone.trans (startRetrains_stacksOnly _)
  have hstack : ∀ j, stackOf (startRetrains (moduleEvent
      { s with hbm := tset {} s.hbm k { stackOf s k with retraining := true, pending := false } } 8 (BitVec.ofNat 64 k))) j =
      if j = k then { stackOf s k with retraining := true, pending := false } else stackOf s j := fun j => by
    rw [startRetrains_stack, moduleEvent_stack, stackOf_tset, if_neg]
    rintro ⟨-, hpend, -⟩
    split at hpend
    · cases hpend
    · rw [stackOf, hp j] at hpend
      cases hpend
  refine ⟨_, hbmRetrain_runs hk hr hs, ?_, hall.mem, hall.tasks, fun j hj => ?_⟩
  · rw [retraining_eq, hstack, if_pos rfl]
  · rw [retraining_eq, hstack, if_neg hj, retraining_eq]

/-- The state of a requested retrain before it begins. -/
def retrainAsked (s : State) (k : Nat) : State := { s with hbm := tset {} s.hbm k { stackOf s k with pending := true } }

theorem retrainRequest_runs (hk : k < 12) (hr : retraining s k = false) :
    exec (.retrainRequest k) s = .next (startRetrains (retrainAsked s k)) :=
  if_neg (by rw [hr]; simp; omega)

theorem retrainAsked_stacksOnly (s : State) (k : Nat) : StacksOnly s (retrainAsked s k) := rfl

theorem retrainAsked_stack (s : State) (k : Nat) : stackOf (retrainAsked s k) k = { stackOf s k with pending := true } := by
  rw [retrainAsked, stackOf_tset, if_pos rfl]

theorem retrainRequest_begins (hk : k < 12) (hr : retraining s k = false) (hs : ∀ x ∈ s.tasks, x.st ≠ .saving) :
    ∃ t, exec (.retrainRequest k) s = .next t ∧ retraining t k = true ∧ t.mem = s.mem ∧ t.tasks = s.tasks := by
  have hall := (retrainAsked_stacksOnly s k).trans (startRetrains_stacksOnly _)
  refine ⟨_, retrainRequest_runs hk hr, ?_, hall.mem, hall.tasks⟩
  rw [retraining_eq, startRetrains_stack, retrainAsked_stack, (retrainAsked_stacksOnly s k).stackHeld,
    if_pos ⟨hk, rfl, stackHeld_idle hs k⟩]

theorem retrainRequest_held (hk : k < 12) (hr : retraining s k = false) (hh : stackHeld s k = true) :
    ∃ t, exec (.retrainRequest k) s = .next t ∧ retraining t k = false ∧ (tget {} t.hbm k : Stack).pending = true ∧
      t.mem = s.mem ∧ t.tasks = s.tasks := by
  have hall := (retrainAsked_stacksOnly s k).trans (startRetrains_stacksOnly _)
  have hstack : stackOf (startRetrains (retrainAsked s k)) k = { stackOf s k with pending := true } := by
    rw [startRetrains_stack, retrainAsked_stack, (retrainAsked_stacksOnly s k).stackHeld, if_neg]
    rintro ⟨-, -, h⟩
    rw [hh] at h
    cases h
  refine ⟨_, retrainRequest_runs hk hr, ?_, congrArg Stack.pending hstack, hall.mem, hall.tasks⟩
  rw [retraining_eq, hstack]
  exact hr

theorem stackRetrainingDone_ends (hk : k < 12) :
    ∃ t, exec (.stackRetrainingDone k) s = .next t ∧ retraining t k = false ∧ { t with hbm := s.hbm } = s ∧
      ∀ j, j ≠ k → retraining t j = retraining s j := by
  have hrun : exec (.stackRetrainingDone k) s =
      .next { s with hbm := tset {} s.hbm k { stackOf s k with retraining := false } } := if_neg (by omega)
  refine ⟨_, hrun, ?_, rfl, fun j hj => ?_⟩
  · rw [retraining_eq, stackOf_tset, if_pos rfl]
  · rw [retraining_eq, stackOf_tset, if_neg hj, retraining_eq]

/-! ### SLOT_SWAP (R346, R347) -/

theorem slotSwap_swaps {a b : Nat} {es : List (Nat × Nat)} (hk : k < 12) (ha : a < 24576) (hb : b < 24576)
    (hne : remapSlot (stackOf s k).remap a % 4 ≠ remapSlot (stackOf s k).remap b % 4)
    (hes : swapEntries (stackOf s k).remap a b = some es) :
    ∃ t, exec (.slotSwap k a b) s = .next t ∧ (tget {} t.hbm k : Stack) = { stackOf s k with remap := es } ∧
      t.swaps = s.swaps + 1 ∧ { t with hbm := s.hbm, swaps := s.swaps } = s := by
  have hgo : ¬ (12 ≤ k ∨ stackSlots ≤ a ∨ stackSlots ≤ b ∨ remapSlot (stackOf s k).remap a % 4 = remapSlot (stackOf s k).remap b % 4) := by
    rw [stackSlots]
    omega
  refine ⟨{ s with hbm := tset {} s.hbm k { stackOf s k with remap := es }, swaps := s.swaps + 1 }, ?_, ?_, rfl, rfl⟩
  · rw [exec_slotSwap, execSlotSwap]
    refine (if_neg hgo).trans ?_
    rw [stackOf] at hes
    simp only [hes]
    rfl
  · exact tget_tset_same ..

end

/-- Settles O59, clause by clause: clock, failing units, the thermal trip, reset, the black box, firmware, attestation, stacks
and slots. -/
theorem moduleEvents : Obligations.ModuleEvents := fun _ =>
  ⟨fun _ h => clockStep_sets h, fun _ _ hnew hne => unitFailure_posts hnew hne, fun _ _ hd ht => thermalTrip_posts hd ht,
    moduleReset_resets, ⟨_, rfl, rfl, rfl, rfl, rfl⟩, firmwareUpdate_runs, attestationReport_sends,
    fun _ hk => ⟨fun hr hs hp => ⟨hbmRetrain_begins hk hr hs hp, retrainRequest_begins hk hr hs⟩, retrainRequest_held hk,
      stackRetrainingDone_ends hk, fun _ _ _ ha hb hne hes => slotSwap_swaps hk ha hb hne hes⟩⟩

end Sys2Proof.Machine
end

section
/-! PROOFS. Links, ports and the domain, and requests to peers without a response (R394, R398, R399, R400, R401). -/

namespace Sys2Proof.Machine

open Sys2Proof

variable {s t u : State} {die port : Nat}

/-! ### Ports (R401) -/

theorem port_setPort_same (s : State) (die port : Nat) (p : Port) : (s.setPort die port p).port die port = p := by
  simp only [State.port, State.setPort, State.modDie, die_setDie_same, tget_tset_same]

theorem port_setPort_other (s : State) (p : Port) {d q : Nat} (h : (d, q) ≠ (die, port)) : (s.setPort die port p).port d q = s.port d q := by
  by_cases hd : d = die
  · subst hd
    have hq : q ≠ port := fun e => h (by rw [e])
    simp only [State.port, State.setPort, State.modDie, die_setDie_same, tget_tset_other _ _ _ _ _ hq]
  · simp only [State.port, State.setPort, State.modDie, die_setDie_other _ _ _ _ hd]

/-- Cores and memory stand. -/
structure CoresStand (s t : State) : Prop where
  cores : t.cores = s.cores
  mem : t.mem = s.mem

theorem CoresStand.refl (s : State) : CoresStand s s := ⟨rfl, rfl⟩

theorem CoresStand.trans (h : CoresStand s u) (h2 : CoresStand u t) : CoresStand s t :=
  ⟨h2.cores.trans h.cores, h2.mem.trans h.mem⟩

theorem EventsOnly.trans (h : EventsOnly s u) (h2 : EventsOnly u t) : EventsOnly s t := by
  unfold EventsOnly at *
  rw [← h, ← h2]

theorem EventsOnly.coresStand (h : EventsOnly s t) : CoresStand s t := ⟨(congrArg State.cores h :), (congrArg State.mem h :)⟩

theorem EventsOnly.port_same (h : EventsOnly s t) (d q : Nat) : t.port d q = s.port d q := (congrArg (fun v : State => v.port d q) h :)

/-! ### Lanes (R400) -/

theorem lret_retireLane (p : Port) (lane : Nat) {i : Nat} (hi : i < 8) :
    (retireLane p lane).lret.getLsbD i = (p.lret.getLsbD i || decide (i = lane)) := by
  have hbit : (1#8 <<< lane).getLsbD i = decide (i = lane) := by
    rw [BitVec.getLsbD_shiftLeft, BitVec.getLsbD_one]
    by_cases h : i = lane
    · simp [h, h ▸ hi]
    · simp [h, hi]
      omega
  rw [retireLane, BitVec.getLsbD_or, hbit]

theorem lret_foldl_retireLane (ls : List Nat) (p : Port) {i : Nat} (hi : i < 8) :
    (ls.foldl retireLane p).lret.getLsbD i = (p.lret.getLsbD i || ls.contains i) := by
  induction ls generalizing p with
  | nil => simp
  | cons l ls ih => rw [List.foldl_cons, ih, lret_retireLane p l hi, List.contains_cons, Bool.or_assoc]; rfl

theorem foldl_retireLane_rest (ls : List Nat) (p : Port) : { ls.foldl retireLane p with lret := p.lret } = p := by
  induction ls generalizing p with
  | nil => rfl
  | cons l ls ih => exact (congrArg (fun q : Port => { q with lret := p.lret }) (ih (retireLane p l)) :)

/-- The lanes of a list that a port has not retired. -/
def newlyLost (p : Port) (lanes : List Nat) : List Nat := (lanes.filter fun i => decide (i < 8) && !p.lret.getLsbD i).eraseDups

theorem mem_newlyLost {p : Port} {lanes : List Nat} {i : Nat} :
    i ∈ newlyLost p lanes ↔ i ∈ lanes ∧ i < 8 ∧ p.lret.getLsbD i = false := by
  simp [newlyLost, List.mem_eraseDups]

/-- A port with lanes of a list retired: one newly retired sends its link into training, unless it is down. -/
def retiredPort (p : Port) (lanes : List Nat) : Port :=
  if newlyLost p lanes = [] then p else { (newlyLost p lanes).foldl retireLane p with st := if p.st = 0 then 0 else 1 }

theorem foldl_laneEvent_eventsOnly (ls : List Nat) (s : State) : EventsOnly s (ls.foldl (laneEvent die port) s) := by
  induction ls generalizing s with
  | nil => rfl
  | cons l ls ih => exact (moduleEvent_eventsOnly ..).trans (ih (laneEvent die port s l))

theorem retireLanes_none {lanes : List Nat} (h : newlyLost (s.port die port) lanes = []) : retireLanes s die port lanes = s :=
  if_pos (List.isEmpty_iff.mpr h)

theorem retireLanes_some {lanes : List Nat} (h : newlyLost (s.port die port) lanes ≠ []) :
    retireLanes s die port lanes = (newlyLost (s.port die port) lanes).foldl (laneEvent die port)
      (routeChange (s.setPort die port (retiredPort (s.port die port) lanes))) := by
  rw [retiredPort, if_neg h]
  exact if_neg (fun he => h (List.isEmpty_iff.mp he))

theorem retireLanes_coresStand (s : State) (die port : Nat) (lanes : List Nat) : CoresStand s (retireLanes s die port lanes) := by
  by_cases h : newlyLost (s.port die port) lanes = []
  · rw [retireLanes_none h]
    exact .refl s
  · have hevents := foldl_laneEvent_eventsOnly (die := die) (port := port) (newlyLost (s.port die port) lanes)
      (routeChange (s.setPort die port (retiredPort (s.port die port) lanes)))
    rw [retireLanes_some h]
    exact ⟨hevents.coresStand.cores, hevents.coresStand.mem⟩

theorem retireLanes_port (s : State) (die port : Nat) (lanes : List Nat) :
    (retireLanes s die port lanes).port die port = retiredPort (s.port die port) lanes := by
  by_cases h : newlyLost (s.port die port) lanes = []
  · rw [retireLanes_none h, retiredPort, if_pos h]
  · rw [retireLanes_some h, (foldl_laneEvent_eventsOnly ..).port_same]
    exact port_setPort_same ..

theorem retiredPort_lret (p : Port) (lanes : List Nat) {i : Nat} (hi : i < 8) :
    (retiredPort p lanes).lret.getLsbD i = (p.lret.getLsbD i || lanes.contains i) := by
  have hnew : (p.lret.getLsbD i || (newlyLost p lanes).contains i) = (p.lret.getLsbD i || lanes.contains i) := by
    cases hp : p.lret.getLsbD i with
    | true => simp
    | false =>
      simp only [Bool.false_or]
      rw [Bool.eq_iff_iff, List.contains_iff_mem, List.contains_iff_mem, mem_newlyLost]
      exact ⟨fun h => h.1, fun h => ⟨h, hi, hp⟩⟩
  unfold retiredPort
  split
  · next h => rw [← hnew, h]; simp
  · rw [← hnew]
    exact lret_foldl_retireLane _ p hi

theorem retiredPort_rest (p : Port) (lanes : List Nat) : { retiredPort p lanes with lret := p.lret, st := p.st } = p := by
  unfold retiredPort
  split
  · rfl
  · exact (congrArg (fun q : Port => { q with st := p.st }) (foldl_retireLane_rest (newlyLost p lanes) p) :)

theorem retiredPort_st {p : Port} {lanes : List Nat} {i : Nat} (hi : i ∈ lanes) (h8 : i < 8) (hp : p.lret.getLsbD i = false)
    (hst : p.st ≠ 0) : (retiredPort p lanes).st = 1 := by
  rw [retiredPort, if_neg (List.ne_nil_of_mem (mem_newlyLost.mpr ⟨hi, h8, hp⟩)), if_neg hst]

/-! ### LANE_FEC_WINDOW and LANE_LOCK_LOSS (R400) -/

/-- The lanes with more than 2^20 corrections in a window. -/
def worn (p : Port) : List Nat := (List.range 8).filter fun i => decide (2 ^ 20 < tget 0 p.win i)

theorem laneFecWindow_open (h : (s.port die port).winNo = windowOf s.now) : exec (.laneFecWindow die port) s = .next s := by
  have hclose : closeWindow s die port = s := if_pos h
  rw [exec_laneFecWindow, execLaneFecWindow, hclose, ite_self]

theorem laneFecWindow_closes (hp : isPort die port = true) (h : (s.port die port).winNo ≠ windowOf s.now) :
    ∃ t, exec (.laneFecWindow die port) s = .next t ∧ (t.port die port).win = [] ∧ (t.port die port).winNo = windowOf s.now ∧
      t.cores = s.cores ∧ t.mem = s.mem ∧
      ∀ i, i < 8 → (t.port die port).lret.getLsbD i = ((s.port die port).lret.getLsbD i || decide (2 ^ 20 < tget 0 (s.port die port).win i)) := by
  obtain ⟨q, hq⟩ : ∃ q, q = { s.port die port with win := [], winNo := windowOf s.now } := ⟨_, rfl⟩
  have hrun : exec (.laneFecWindow die port) s = .next (retireLanes (s.setPort die port q) die port (worn (s.port die port))) := by
    rw [exec_laneFecWindow, execLaneFecWindow, if_pos hp, hq]
    exact congrArg Host.Outcome.next (if_neg h)
  have hport := retireLanes_port (s.setPort die port q) die port (worn (s.port die port))
  rw [port_setPort_same] at hport
  have hstand := retireLanes_coresStand (s.setPort die port q) die port (worn (s.port die port))
  have hrest := retiredPort_rest q (worn (s.port die port))
  refine ⟨_, hrun, ?_, ?_, hstand.cores, hstand.mem, fun i hi => ?_⟩
  · rw [hport, (congrArg Port.win hrest :), hq]
  · rw [hport, (congrArg Port.winNo hrest :), hq]
  · have hworn : (worn (s.port die port)).contains i = decide (2 ^ 20 < tget 0 (s.port die port).win i) := by
      rw [Bool.eq_iff_iff, List.contains_iff_mem, worn, List.mem_filter, List.mem_range]
      exact ⟨fun h => h.2, fun h => ⟨hi, h⟩⟩
    rw [hport, retiredPort_lret q _ hi, hworn, hq]

theorem laneLockLoss_retires {lane : Nat} (hp : isPort die port = true) (hl : lane < 8) (hst : (s.port die port).st ≠ 0) :
    ∃ t, exec (.laneLockLoss die port lane) s = .next t ∧ t.cores = s.cores ∧ t.mem = s.mem ∧
      (∀ i, i < 8 → (t.port die port).lret.getLsbD i = ((s.port die port).lret.getLsbD i || decide (i = lane))) ∧
      ((s.port die port).lret.getLsbD lane = false → (t.port die port).st = 1) := by
  have hrun : exec (.laneLockLoss die port lane) s = .next (retireLanes s die port [lane]) := by
    rw [exec_laneLockLoss, execLaneLockLoss, if_pos (by rw [hp, Bool.true_and]; exact bne_iff_ne.mpr hst)]
  have hstand := retireLanes_coresStand s die port [lane]
  refine ⟨_, hrun, hstand.cores, hstand.mem, fun i hi => ?_, fun hlane => ?_⟩
  · rw [retireLanes_port, retiredPort_lret _ _ hi]
    simp
  · rw [retireLanes_port, retiredPort_st List.mem_cons_self hl hlane hst]

/-! ### LINK_RETRAIN_DONE (R394, R400) -/

/-- The first request of a context to a peer that cannot be reached, by core and address. -/
def firstUnreachable (s : State) (ns : List Nat) (c : Context) : Option (Nat × Nat) :=
  ns.findSome? fun n => ((peerWaits s n).find? fun w => w.ctx s n == c.id && unreachable s w.pa).map fun w => (n, w.pa)

/-- The fault of a context with such a request. -/
def unreachableFault (s : State) (ns : List Nat) (t : State) (c : Context) : State :=
  match firstUnreachable s ns c with
  | none => t
  | some (n, pa) => t.postFault c.id 0x30 0 (BitVec.ofNat 64 (0x900 + coreDie n)) 0 (BitVec.ofNat 64 pa) 0

/-- Nothing differs but the faults posted. -/
def PostsOnly (s t : State) : Prop := { t with posts := s.posts } = s

theorem PostsOnly.trans (h : PostsOnly s u) (h2 : PostsOnly u t) : PostsOnly s t := by
  unfold PostsOnly at *
  rw [← h, ← h2]

theorem unreachableFault_postsOnly (s : State) (ns : List Nat) (t : State) (c : Context) : PostsOnly t (unreachableFault s ns t c) := by
  unfold unreachableFault
  split <;> rfl

theorem foldl_unreachableFault_postsOnly (s : State) (ns : List Nat) (cs : List Context) (t : State) :
    PostsOnly t (cs.foldl (unreachableFault s ns) t) := by
  induction cs generalizing t with
  | nil => rfl
  | cons c cs ih => exact (unreachableFault_postsOnly s ns t c).trans (ih _)

theorem unreachableFaults_postsOnly (s : State) : PostsOnly s (unreachableFaults s) := by
  unfold unreachableFaults
  generalize List.range 640 = ns
  exact foldl_unreachableFault_postsOnly s ns s.ctxs s

/-- A link that has trained, at the width that its lanes leave. -/
def trained (p : Port) : Port :=
  { p with width := widthOf p.lret, st := if widthOf p.lret = 0 then 0 else 2, been := p.been || widthOf p.lret != 0 }

theorem linkRetrainDone_trains {lost : List Nat} (hp : isPort die port = true) (hst : (s.port die port).st = 1) :
    ∃ t, exec (.linkRetrainDone die port lost) s = .next t ∧ CoresStand s t ∧
      t.port die port = trained (retiredPort (s.port die port) lost) := by
  have hport := retireLanes_port s die port lost
  have hstand := retireLanes_coresStand s die port lost
  obtain ⟨u, hu⟩ : ∃ u, u = routeChange ((retireLanes s die port lost).setPort die port (trained (retiredPort (s.port die port) lost))) :=
    ⟨_, rfl⟩
  have huport : u.port die port = trained (retiredPort (s.port die port) lost) := by
    rw [hu]
    exact port_setPort_same ..
  have hustand : CoresStand s u := by
    rw [hu]
    exact hstand.trans ⟨rfl, rfl⟩
  have hrun : exec (.linkRetrainDone die port lost) s =
      if routed u then .next u else if !anyPort u Port.been then .next { u with modNum := 0, domSize := 1 }
      else .next (unreachableFaults u) := by
    rw [hu, ← hport, exec_linkRetrainDone, execLinkRetrainDone]
    exact if_neg (by simp [hp, hst])
  have hfaults := unreachableFaults_postsOnly u
  rw [hrun]
  split_ifs
  · exact ⟨u, rfl, hustand, huport⟩
  · exact ⟨_, rfl, hustand.trans ⟨rfl, rfl⟩, huport⟩
  · exact ⟨_, rfl, hustand.trans ⟨(congrArg State.cores hfaults :), (congrArg State.mem hfaults :)⟩,
      (congrArg (fun v : State => v.port die port) hfaults).trans huport⟩

/-! ### FLIT_RECEIVE (R399) -/

/-- A flit as it leaves a port. -/
def flitOut (die port : Nat) (x : BitVec 12) : OutMsg :=
  { kind := "flit-out", words := [BitVec.ofNat 64 (8 * die + port), x.zeroExtend 64] }

/-- What the sending of flits does to its port and to what leaves the module. -/
structure FlitsSent (die port : Nat) (s : State) (p : Port) (sent : List (BitVec 12)) (r : State × Port) : Prop where
  inOrder : sent = (List.range sent.length).map fun i => p.txSeq + BitVec.ofNat 12 i
  room : sent ≠ [] → p.replayBuf.length + sent.length ≤ 1024
  sender : r.2 = { p with txSeq := p.txSeq + BitVec.ofNat 12 sent.length, replayBuf := p.replayBuf ++ sent }
  outbox : r.1.outbox = s.outbox ++ sent.map (flitOut die port)
  stand : CoresStand s r.1

theorem flitsSent_none {t : State} (s : State) (p : Port) (hout : t.outbox = s.outbox) (h : CoresStand s t) :
    FlitsSent die port s p [] (t, p) where
  inOrder := rfl
  room h := absurd rfl h
  sender := by simp
  outbox := by simpa using hout
  stand := h

/-- One flit more before those that follow. -/
theorem FlitsSent.cons {p : Port} {sent : List (BitVec 12)} {r : State × Port} (hroom : p.replayBuf.length < 1024)
    (hu : u.outbox = s.outbox ++ [flitOut die port p.txSeq]) (hs : CoresStand s u)
    (h : FlitsSent die port u { p with txSeq := p.txSeq + 1, replayBuf := p.replayBuf ++ [p.txSeq] } sent r) :
    FlitsSent die port s p (p.txSeq :: sent) r where
  inOrder := by
    have hnext (i : Nat) : p.txSeq + 1 + BitVec.ofNat 12 i = p.txSeq + BitVec.ofNat 12 (i + 1) := by
      rw [BitVec.ofNat_add]
      ac_rfl
    rw [List.length_cons, List.range_succ_eq_map, List.map_cons, List.map_map]
    refine congrArg₂ List.cons (by simp) (h.inOrder.trans (List.map_congr_left fun i _ => ?_))
    exact hnext i
  room _ := by
    by_cases he : sent = []
    · rw [he]
      simpa using hroom
    · have := h.room he
      simp only [List.length_append, List.length_cons, List.length_nil] at this ⊢
      omega
  sender := by
    have hlen : p.txSeq + 1 + BitVec.ofNat 12 sent.length = p.txSeq + BitVec.ofNat 12 (sent.length + 1) := by
      rw [BitVec.ofNat_add]
      ac_rfl
    rw [h.sender, List.length_cons, ← hlen]
    simp
  outbox := by rw [h.outbox, hu, List.map_cons, List.append_assoc]; rfl
  stand := hs.trans h.stand

theorem sendFlits_sends (fuel : Nat) (s : State) (p : Port) :
    ∃ sent, FlitsSent die port s p sent (sendFlits die port fuel s p) := by
  induction fuel generalizing s p with
  | zero => exact ⟨[], flitsSent_none s p rfl (.refl s)⟩
  | succ fuel ih =>
    rw [sendFlits]
    split
    · exact ⟨[], flitsSent_none s p rfl (.refl s)⟩
    · next hroom =>
      dsimp only
      split
      · obtain ⟨sent, h⟩ := ih (emitFlit die port s.takeBool.2 p.txSeq)
          { p with txSeq := p.txSeq + 1, replayBuf := p.replayBuf ++ [p.txSeq] }
        rw [replayRoom] at hroom
        exact ⟨_, FlitsSent.cons (u := emitFlit die port s.takeBool.2 p.txSeq) (by omega) rfl ⟨rfl, rfl⟩ h⟩
      · exact ⟨[], flitsSent_none s p rfl ⟨rfl, rfl⟩⟩

/-- Flits sent again change only what leaves the module. -/
theorem foldl_emitFlit (xs : List (BitVec 12)) (s : State) :
    xs.foldl (emitFlit die port) s = { s with outbox := s.outbox ++ xs.map (flitOut die port) } := by
  induction xs generalizing s with
  | nil => simp
  | cons x xs ih =>
    rw [List.foldl_cons, ih, List.map_cons, List.append_cons]
    rfl

/-- A port that a flit has reached, with what it sent since. -/
def tookFlit (p : Port) (f : FlitMsg) : Port := if f.crcOk then takeFlit p f else p

theorem tookFlit_txSeq (p : Port) (f : FlitMsg) : (tookFlit p f).txSeq = p.txSeq := by
  unfold tookFlit
  split <;> rfl

theorem tookFlit_corr (p : Port) (f : FlitMsg) : (tookFlit p f).corr = p.corr := by
  unfold tookFlit
  split <;> rfl

theorem tookFlit_rxSeq (p : Port) (f : FlitMsg) :
    (tookFlit p f).rxSeq = if f.crcOk = true ∧ f.seq = p.rxSeq then p.rxSeq + 1 else p.rxSeq := by
  by_cases hcrc : f.crcOk = true
  · rw [tookFlit, if_pos hcrc]
    exact (if_congr (and_iff_right hcrc) rfl rfl).symm
  · rw [tookFlit, if_neg hcrc, if_neg fun h => hcrc h.1]

theorem tookFlit_replayBuf (p : Port) (f : FlitMsg) :
    (tookFlit p f).replayBuf = if f.crcOk = true then afterAck p.replayBuf f.ack else p.replayBuf := by
  unfold tookFlit
  split <;> rfl

theorem tookFlit_repl (p : Port) (f : FlitMsg) :
    (tookFlit p f).repl =
      if f.crcOk = true ∧ f.nak = true then p.repl + BitVec.ofNat 16 (tookFlit p f).replayBuf.length else p.repl := by
  by_cases hcrc : f.crcOk = true
  · rw [tookFlit, if_pos hcrc]
    exact (if_congr (and_iff_right hcrc) rfl rfl).symm
  · rw [tookFlit, if_neg hcrc, if_neg fun h => hcrc h.1]

/-- What a flit's arrival sends: what a nak asks for again, and then the flit's delivery or a nak of its own. -/
def flitAnswers (die port : Nat) (p : Port) (rx : BitVec 12) (f : FlitMsg) : List OutMsg :=
  (if f.crcOk = true ∧ f.nak = true then p.replayBuf.map (flitOut die port) else []) ++
  (if f.crcOk = false then [{ kind := "nak", words := [f.seq.zeroExtend 64] }]
   else if f.seq = rx then
     [{ kind := "flit", words := f.credits.zeroExtend 64 ::
          f.payload.flatMap fun w => (List.range 4).map fun i => w.extractLsb' (64 * i) 64 }]
   else [])

/-- Flits sent again where a nak asks for it. -/
theorem resend_eq (b : Bool) (xs : List (BitVec 12)) (t : State) :
    (if b then xs.foldl (emitFlit die port) t else t) = { t with outbox := t.outbox ++ if b then xs.map (flitOut die port) else [] } := by
  cases b with
  | true => exact foldl_emitFlit xs t
  | false => simp

/-- A message sent under a condition. -/
theorem send_if_eq (c : Prop) [Decidable c] (kind : String) (ws : List Word) (t : State) :
    (if c then t.send kind ws else t) = { t with outbox := t.outbox ++ if c then [⟨kind, ws⟩] else [] } := by
  split
  · rfl
  · simp

theorem flitReceive_runs {f : FlitMsg} (hp : isPort die port = true) (hst : (s.port die port).st = 2)
    (hw : (s.port die port).winNo = windowOf s.now) :
    ∃ t, exec (.flitReceive die port f) s = .next t ∧
      (let x := sendFlits die port 1024 s (countBursts (s.port die port) f.corrected)
       CoresStand x.1 t ∧ t.port die port = tookFlit x.2 f ∧
       t.outbox = x.1.outbox ++ flitAnswers die port (tookFlit x.2 f) (s.port die port).rxSeq f) := by
  have hclose : closeWindow s die port = s := if_pos hw
  have hrun : exec (.flitReceive die port f) s = execFlitReceive die port f s := rfl
  simp only [execFlitReceive, hp, if_true, hclose] at hrun
  rw [if_neg (by simp [hst])] at hrun
  obtain ⟨x, hx⟩ : ∃ x, sendFlits die port 1024 s (countBursts (s.port die port) f.corrected) = x := ⟨_, rfl⟩
  rw [show replayRoom = 1024 from rfl, hx, resend_eq, send_if_eq] at hrun
  rw [hx, hrun]
  simp only [tookFlit, flitAnswers]
  cases hcrc : f.crcOk with
  | false => exact ⟨_, rfl, ⟨rfl, rfl⟩, port_setPort_same .., rfl⟩
  | true =>
    refine ⟨_, rfl, ⟨rfl, rfl⟩, port_setPort_same .., ?_⟩
    simp [State.setPort, State.modDie]

/-- What FLIT_RECEIVE does to its port and to what leaves the module (R399). -/
theorem flitReceive_receives {f : FlitMsg} (hp : isPort die port = true) (hst : (s.port die port).st = 2)
    (hw : (s.port die port).winNo = windowOf s.now) :
    let p := s.port die port
    ∃ t sent, exec (.flitReceive die port f) s = .next t ∧ t.cores = s.cores ∧ t.mem = s.mem ∧
      (let q := t.port die port
       sent = (List.range sent.length).map (fun i => p.txSeq + BitVec.ofNat 12 i) ∧
       (sent ≠ [] → p.replayBuf.length + sent.length ≤ 1024) ∧ q.txSeq = p.txSeq + BitVec.ofNat 12 sent.length ∧
       q.corr = p.corr + BitVec.ofNat 32 (f.corrected.filter fun i => decide (i < 8)).length ∧
       q.rxSeq = (if f.crcOk = true ∧ f.seq = p.rxSeq then p.rxSeq + 1 else p.rxSeq) ∧
       q.replayBuf = (if f.crcOk = true then afterAck (p.replayBuf ++ sent) f.ack else p.replayBuf ++ sent) ∧
       q.repl = (if f.crcOk = true ∧ f.nak = true then p.repl + BitVec.ofNat 16 q.replayBuf.length else p.repl) ∧
       t.outbox = s.outbox ++ sent.map (flitOut die port) ++
        (if f.crcOk = true ∧ f.nak = true then q.replayBuf.map (flitOut die port) else []) ++
        (if f.crcOk = false then [{ kind := "nak", words := [f.seq.zeroExtend 64] }]
         else if f.seq = p.rxSeq then
           [{ kind := "flit", words := f.credits.zeroExtend 64 ::
                f.payload.flatMap fun w => (List.range 4).map fun i => w.extractLsb' (64 * i) 64 }]
         else [])) := by
  intro p
  obtain ⟨sent, hsent⟩ := sendFlits_sends (die := die) (port := port) 1024 s (countBursts p f.corrected)
  obtain ⟨t, hrun, hstand, hport, hout⟩ := flitReceive_runs (f := f) hp hst hw
  have hmsgs : t.outbox = s.outbox ++ sent.map (flitOut die port) ++ flitAnswers die port (t.port die port) p.rxSeq f := by
    rw [hout, hsent.outbox, hport]
  rw [hsent.sender] at hport
  refine ⟨t, sent, hrun, hstand.cores.trans hsent.stand.cores, hstand.mem.trans hsent.stand.mem, hsent.inOrder, hsent.room, ?_⟩
  rw [hmsgs, hport]
  exact ⟨tookFlit_txSeq .., tookFlit_corr .., tookFlit_rxSeq .., tookFlit_replayBuf .., tookFlit_repl .., (List.append_assoc ..).symm⟩

/-! ### FABRIC_TIMEOUT (R398) -/

/-- What is given up leaves every strand, memory, tasks, launches, posts, and of the other cores all but their alcoves. -/
structure GivenUp (s t : State) (n : Nat) : Prop where
  strands : AllStrands s t
  others : OthersKept s t n
  mem : t.mem = s.mem
  tasks : t.tasks = s.tasks
  launches : t.launches = s.launches
  posts : t.posts = s.posts

theorem GivenUp.of_cores {n : Nat} (hc : t.cores = s.cores) (hm : t.mem = s.mem) (ht : t.tasks = s.tasks) (hl : t.launches = s.launches)
    (hp : t.posts = s.posts) : GivenUp s t n where
  strands m k := by rw [core_of_cores hc]
  others m _ := by rw [core_of_cores hc]
  mem := hm
  tasks := ht
  launches := hl
  posts := hp

/-- A core changed in no strand. -/
theorem modCore_givenUp (s : State) (n : Nat) {f : Core → Core} (hf : ∀ c k, (f c).strand k = c.strand k) : GivenUp s (s.modCore n f) n where
  strands m k := core_modCore (fun c => c.strand k) (fun c => hf c k) s n m
  others m hm := by rw [State.modCore, core_setCore_other _ _ _ _ hm]
  mem := rfl
  tasks := rfl
  launches := rfl
  posts := rfl

theorem dropFilling_outside (s : State) (r : TileReq) : { dropFilling s r with cores := s.cores, clusters := s.clusters } = s := by
  simp only [dropFilling]
  split <;> rfl

theorem dropFilling_givenUp (s : State) (r : TileReq) (n : Nat) : GivenUp s (setReq (dropFilling s r) r.id none) n := by
  have hcore := dropFilling_alcoves s r
  have hout := dropFilling_outside s r
  refine ⟨fun m k => ?_, fun m _ => ?_, (congrArg State.mem hout :), (congrArg State.tasks hout :), (congrArg State.launches hout :),
    (congrArg State.posts hout :)⟩
  · obtain ⟨a, ha⟩ := hcore.lines m
    have ha : (setReq (dropFilling s r) r.id none).core m = { s.core m with alcove := a } := ha
    rw [ha]
    cases k <;> rfl
  · obtain ⟨a, ha⟩ := hcore.lines m
    have ha : (setReq (dropFilling s r) r.id none).core m = { s.core m with alcove := a } := ha
    rw [ha]

theorem failCmd_outside (s : State) (c : EngineCmd) : { failCmd s c with clusters := s.clusters, dies := s.dies } = s := by
  unfold failCmd
  split <;> rfl

theorem giveUp_givenUp (w : PeerWait) (s : State) (n : Nat) : GivenUp s (w.giveUp n s) n := by
  cases w with
  | load l =>
    have hf (c : Core) (k : Kind) : (takeLoad c l.id).strand k = c.strand k := by cases k <;> rfl
    exact modCore_givenUp s n hf
  | store x =>
    have hf (c : Core) (k : Kind) : ({ c with stores := c.stores.filter fun y => y.id != x.id } : Core).strand k = c.strand k := by
      cases k <;> rfl
    exact modCore_givenUp s n hf
  | cmd c pa =>
    have hout := failCmd_outside s c
    exact .of_cores (congrArg State.cores hout :) (congrArg State.mem hout :) (congrArg State.tasks hout :)
      (congrArg State.launches hout :) (congrArg State.posts hout :)
  | fill r pa => exact dropFilling_givenUp s r n
  | line l pa => exact .of_cores rfl rfl rfl rfl rfl
  | fetch x pa => exact .of_cores rfl rfl rfl rfl rfl

section
variable {n i : Nat} {w : PeerWait}

theorem fabricTimeout_runs (hi : (peerWaits s n)[i]? = some w) :
    exec (.fabricTimeout n i) s =
      .next (if requestLate s w.pa w.since then fabricLate (w.giveUp n s) (w.ctx s n) n w.pa else s) := by
  simp only [exec_fabricTimeout, execFabricTimeout, hi]

theorem fabricTimeout_early (hi : (peerWaits s n)[i]? = some w) (h : requestLate s w.pa w.since = false) :
    exec (.fabricTimeout n i) s = .next s := by
  rw [fabricTimeout_runs hi, if_neg (by simp [h])]

/-- A command that waited has failed: a copy in its engine, another in the queue of its unit. -/
theorem failCmd_fails (s : State) (c : EngineCmd) :
    (c.path = 2 → ((failCmd s c).bte (coreCluster c.core) c.eng).act =
      modCmd (s.bte (coreCluster c.core) c.eng).act c.id EngineCmd.fail) ∧
    (c.path ≠ 2 → (∀ m, ((failCmd s c).cluster m).selq = modCmd (s.cluster m).selq c.id EngineCmd.fail ∧
        ((failCmd s c).cluster m).lndq = modCmd (s.cluster m).lndq c.id EngineCmd.fail) ∧
      ∀ d, ((failCmd s c).die d).rteq = modCmd (s.die d).rteq c.id EngineCmd.fail ∧
        ((failCmd s c).die d).collq = modCmd (s.die d).collq c.id EngineCmd.fail) := by
  refine ⟨fun hp => ?_, fun hp => ⟨fun m => ?_, fun d => ?_⟩⟩
  · rw [failCmd, if_pos hp, bte_modBte_same]
    rfl
  · rw [failCmd, if_neg hp, cluster_modEngineCmd]
    exact ⟨rfl, rfl⟩
  · rw [failCmd, if_neg hp, die_modEngineCmd]
    exact ⟨rfl, rfl⟩

theorem fabricTimeout_ends (hi : (peerWaits s n)[i]? = some w) (h : requestLate s w.pa w.since = true) :
    ∃ t, exec (.fabricTimeout n i) s = .next t ∧ AllStrands s t ∧ t.mem = s.mem ∧
      OthersKept s t n ∧ t.tasks = s.tasks ∧ t.launches = s.launches ∧
      Posted s t (w.ctx s n) 0x31 (BitVec.ofNat 64 (0x900 + coreDie n)) (BitVec.ofNat 64 w.pa) ∧
      (∀ l, w = .load l → (t.core n).loads = (s.core n).loads.filter fun x => x.id != l.id) ∧
      (∀ x, w = .store x → (t.core n).stores = (s.core n).stores.filter fun y => y.id != x.id) ∧
      (∀ r pa, w = .fill r pa → t.reqs = s.reqs.filter fun q => q.id != r.id) ∧
      (∀ l pa, w = .line l pa → ∀ x ∈ (t.cluster (coreCluster n)).hall, ¬(x.bank = l.bank ∧ x.way = l.way)) ∧
      (∀ c pa, w = .cmd c pa → t.cores = s.cores ∧
        (c.path = 2 → (t.bte (coreCluster c.core) c.eng).act = modCmd (s.bte (coreCluster c.core) c.eng).act c.id EngineCmd.fail) ∧
        (c.path ≠ 2 → (∀ m, (t.cluster m).selq = modCmd (s.cluster m).selq c.id EngineCmd.fail ∧
            (t.cluster m).lndq = modCmd (s.cluster m).lndq c.id EngineCmd.fail) ∧
          ∀ d, (t.die d).rteq = modCmd (s.die d).rteq c.id EngineCmd.fail ∧
            (t.die d).collq = modCmd (s.die d).collq c.id EngineCmd.fail)) ∧
      (∀ x pa, w = .fetch x pa → { t with posts := s.posts } = s) := by
  have hrun := fabricTimeout_runs hi
  rw [if_pos h] at hrun
  have hgave := giveUp_givenUp w s n
  refine ⟨_, hrun, hgave.strands, hgave.mem, hgave.others, hgave.tasks, hgave.launches, ?_, ?_, ?_, ?_, ?_, ?_, ?_⟩
  · have hnow : (w.giveUp n s).counter = s.counter := by
      cases w with
      | cmd c pa => exact (congrArg State.counter (failCmd_outside s c) :)
      | fill r pa => exact (congrArg State.counter (dropFilling_outside s r) :)
      | load | store | line | fetch => rfl
    exact ⟨_, congrArg (· ++ [_]) hgave.posts, rfl, rfl, rfl, rfl, rfl, hnow⟩
  · rintro l rfl
    exact (congrArg Core.loads (core_setCore_same ..) :)
  · rintro x rfl
    exact (congrArg Core.stores (core_setCore_same ..) :)
  · rintro r pa rfl
    exact congrArg (List.filter fun q : TileReq => q.id != r.id) (congrArg State.reqs (dropFilling_outside s r) :)
  · rintro l pa rfl x hx
    have hhall : (((PeerWait.line l pa).giveUp n s).cluster (coreCluster n)).hall =
      dropAtWay (s.cluster (coreCluster n)).hall l.bank l.way := congrArg Cluster.hall (cluster_setCluster_same ..)
    have hx : x ∈ dropAtWay (s.cluster (coreCluster n)).hall l.bank l.way := hhall ▸ hx
    rintro ⟨hbank, hway⟩
    simpa [hbank, hway] using (List.mem_filter.mp hx).2
  · rintro c pa rfl
    exact ⟨(congrArg State.cores (failCmd_outside s c) :), failCmd_fails s c⟩
  · rintro x pa rfl
    rfl

end

/-! ### DOMAIN_CONFIG (R394) -/

/-- A port in training. -/
def trainPort (t : State) (i : Nat) : State := t.setPort (i / 5) (i % 5) { t.port (i / 5) (i % 5) with st := 1 }

theorem foldl_trainPort_outside (is : List Nat) (s : State) : { is.foldl trainPort s with dies := s.dies } = s := by
  induction is generalizing s with
  | nil => rfl
  | cons i is ih => exact (congrArg (fun t : State => { t with dies := s.dies }) (ih (trainPort s i)) :)

theorem foldl_trainPort_trains (is : List Nat) (s : State) {d q : Nat} (hq : q < 5)
    (h : 5 * d + q ∈ is ∨ (s.port d q).st = 1) : ((is.foldl trainPort s).port d q).st = 1 := by
  induction is generalizing s with
  | nil => simpa using h
  | cons i is ih =>
    rw [List.foldl_cons]
    refine ih _ ?_
    by_cases hi : (d, q) = (i / 5, i % 5)
    · obtain ⟨hd, hm⟩ := Prod.mk.inj hi
      right
      rw [hd, hm, trainPort, port_setPort_same]
    · rcases h with h | h
      · rcases List.mem_cons.mp h with rfl | h
        · exact absurd (Prod.ext (by simp; omega) (by simp; omega)) hi
        · exact .inl h
      · right
        rw [trainPort, port_setPort_other _ _ hi]
        exact h

theorem domainConfig_refused {size number : Nat} {others : List Nat} (h : broughtUp s = true ∨ domainOk size number others = false) :
    exec (.domainConfig size number others) s = .next s :=
  if_pos (by rcases h with h | h <;> simp [h])

theorem domainConfig_configures {size number : Nat} {others : List Nat} (hb : broughtUp s = false)
    (hok : domainOk size number others = true) :
    ∃ t, exec (.domainConfig size number others) s = .next t ∧ t.modNum.toNat = number ∧ t.domSize = size ∧
      { t with dies := s.dies, modNum := s.modNum, domSize := s.domSize } = s ∧ ∀ d p, d < 4 → p < 5 → (t.port d p).st = 1 := by
  obtain ⟨u, hu⟩ : ∃ u, u = { s with modNum := BitVec.ofNat 9 number, domSize := size } := ⟨_, rfl⟩
  have hrun : exec (.domainConfig size number others) s = .next ((List.range 20).foldl trainPort u) := by
    rw [hu]
    exact if_neg (by simp [hb, hok])
  have hall : ∀ d p, d < 4 → p < 5 → 5 * d + p ∈ List.range 20 := fun d p hd hp => List.mem_range.mpr (by omega)
  generalize List.range 20 = is at hrun hall
  have hout := foldl_trainPort_outside is u
  have hsmall : number < 512 := by
    simp only [domainOk, Bool.and_eq_true, decide_eq_true_eq] at hok
    omega
  refine ⟨_, hrun, ?_, ?_, ?_, fun d p hd hp => ?_⟩
  · rw [(congrArg State.modNum hout :), hu]
    exact Nat.mod_eq_of_lt hsmall
  · rw [(congrArg State.domSize hout :), hu]
  · have h := congrArg (fun t : State => { t with dies := s.dies, modNum := s.modNum, domSize := s.domSize }) hout
    refine h.trans ?_
    rw [hu]
  · exact foldl_trainPort_trains _ u hp (.inl (hall d p hd hp))

/-- Settles O60, clause by clause: flits, lanes, training, requests without a response, and the domain's configuration. -/
theorem linkEvents : Obligations.LinkEvents := fun _ =>
  ⟨fun _ _ hp => ⟨fun _ hst hw => flitReceive_receives hp hst hw, laneFecWindow_closes hp, laneFecWindow_open,
      fun _ hl hst => laneLockLoss_retires hp hl hst, fun _ hst => by
        obtain ⟨t, hrun, hstand, hport⟩ := linkRetrainDone_trains hp hst
        refine ⟨t, hrun, hstand.cores, hstand.mem, ?_⟩
        rw [hport]
        exact ⟨rfl, rfl, fun i hi => retiredPort_lret _ _ hi⟩⟩,
    fun _ _ _ hi => ⟨fabricTimeout_early hi, fabricTimeout_ends hi⟩,
    fun _ _ _ => ⟨domainConfig_configures, fun h => domainConfig_refused (.inr h), fun h => domainConfig_refused (.inl h)⟩⟩

end Sys2Proof.Machine
end

section
/-! PROOFS. Ranking and the selection unit's results (R303 to R306). -/

namespace Sys2Proof.Machine

open Sys2Proof

/-! ### The order of numbers -/

/-- The number that a sign, a significand and an exponent give. -/
def signedVal (neg : Bool) (m : Nat) (e : Int) : ℚ := (if neg then -1 else 1) * m * 2 ^ e

/-- A key's place among keys: a NaN below every number, an infinity outside the finite ones. -/
def keyPlace : Num → ℕ ×ₗ ℚ
  | .nan => toLex (0, 0)
  | .inf neg => toLex (if neg then 1 else 3, 0)
  | .fin neg m e => toLex (2, signedVal neg m e)

theorem intAt_cast {a e : Int} (h : a ≤ e) (neg : Bool) (m : Nat) : (intAt a neg m e : ℚ) * 2 ^ a = signedVal neg m e := by
  have hp : (2 : ℚ) ^ (e - a).toNat * 2 ^ a = 2 ^ e := by
    rw [← zpow_natCast, Int.toNat_of_nonneg (by omega), ← zpow_add₀ two_ne_zero, sub_add_cancel]
  cases neg <;> simp [intAt, signedVal, mul_assoc, hp]

theorem intAt_lt_iff (neg neg2 : Bool) (m n : Nat) (e f : Int) :
    intAt (min e f) neg m e < intAt (min e f) neg2 n f ↔ signedVal neg m e < signedVal neg2 n f := by
  rw [← intAt_cast (min_le_left e f) neg m, ← intAt_cast (min_le_right e f) neg2 n,
    mul_lt_mul_iff_left₀ (zpow_pos two_pos _), Int.cast_lt]

/-- R303: keys rank by their places. -/
theorem keyBelow_iff (x y : Num) : keyBelow x y = true ↔ keyPlace x < keyPlace y := by
  rcases x with _ | s | ⟨s, m, e⟩ <;> rcases y with _ | t | ⟨t, n, f⟩
  case fin.fin => simp [keyBelow, keyPlace, Num.isNaN, Num.lt, Prod.Lex.toLex_lt_toLex, intAt_lt_iff]
  all_goals simp [keyBelow, keyPlace, Num.isNaN, Num.lt, Prod.Lex.toLex_lt_toLex]
  case inf.inf => cases s <;> cases t <;> decide
  case inf.fin => cases s <;> simp
  case fin.inf => cases t <;> simp
  case nan.inf => cases t <;> decide

/-! ### Ranking (R303) -/

/-- A candidate stands before another: it outranks it, or is its equal and of the smaller index. -/
def Ranked (x y : Nat × Num) : Prop := keyBelow y.2 x.2 = true ∨ (¬keyBelow x.2 y.2 = true ∧ x.1 < y.1)

theorem rankInsert_perm (x : Nat × Num) (ys : List (Nat × Num)) : (rankInsert x ys).Perm (x :: ys) := by
  induction ys with
  | nil => rfl
  | cons y ys ih =>
    rw [rankInsert]
    split
    · rfl
    · exact (ih.cons y).trans (.swap x y ys)

/-- A candidate of a later index put into a ranking leaves a ranking. -/
theorem rankInsert_ranked {x : Nat × Num} {ys : List (Nat × Num)} (h : ys.Pairwise Ranked) (hx : ∀ y ∈ ys, y.1 < x.1) :
    (rankInsert x ys).Pairwise Ranked := by
  induction ys with
  | nil => exact .cons (fun _ h => absurd h List.not_mem_nil) .nil
  | cons y ys ih =>
    obtain ⟨hy, hys⟩ := List.pairwise_cons.1 h
    rw [rankInsert]
    split
    · next hb =>
      refine .cons (fun z hz => ?_) h
      rcases List.mem_cons.1 hz with rfl | hz
      · exact .inl hb
      · rw [Ranked, keyBelow_iff, keyBelow_iff]
        have hyz := hy z hz
        rw [Ranked, keyBelow_iff, keyBelow_iff] at hyz
        rw [keyBelow_iff] at hb
        rcases hyz with hz | ⟨hz, -⟩
        · exact .inl (hz.trans hb)
        · exact .inl ((not_lt.1 hz).trans_lt hb)
    · next hb =>
      refine .cons (fun z hz => ?_) (ih hys fun z hz => hx z (List.mem_cons_of_mem y hz))
      rcases List.mem_cons.1 ((rankInsert_perm x ys).mem_iff.1 hz) with rfl | hz
      · exact .inr ⟨hb, hx y List.mem_cons_self⟩
      · exact hy z hz

theorem foldl_rankInsert (xs acc : List (Nat × Num)) (hx : (xs.map Prod.fst).Pairwise (· < ·)) (ha : acc.Pairwise Ranked)
    (hax : ∀ a ∈ acc, ∀ x ∈ xs, a.1 < x.1) :
    (xs.foldl (fun acc x => rankInsert x acc) acc).Perm (xs ++ acc) ∧
      (xs.foldl (fun acc x => rankInsert x acc) acc).Pairwise Ranked := by
  induction xs generalizing acc with
  | nil => exact ⟨.refl _, ha⟩
  | cons x xs ih =>
    obtain ⟨hxs, hrest⟩ := List.pairwise_cons.1 hx
    have hp := rankInsert_perm x acc
    have hlt : ∀ a ∈ rankInsert x acc, ∀ y ∈ xs, a.1 < y.1 := by
      intro a h y hy
      rcases List.mem_cons.1 (hp.mem_iff.1 h) with rfl | h
      · exact hxs _ (List.mem_map_of_mem hy)
      · exact hax a h y (List.mem_cons_of_mem x hy)
    obtain ⟨h1, h2⟩ := ih (rankInsert x acc) hrest
      (rankInsert_ranked ha fun a h => hax a h x List.mem_cons_self) hlt
    exact ⟨h1.trans ((hp.append_left xs).trans List.perm_middle), h2⟩

/-- The indices that a ranking of candidates in ascending index gives: each once, in the order of R303. -/
theorem rankKeys_sorted {is : List Nat} (v : Nat → Num) (h : is.Pairwise (· < ·)) :
    (rankKeys (is.map fun i => (i, v i))).Perm is ∧
      (rankKeys (is.map fun i => (i, v i))).Pairwise fun i j => Ranked (i, v i) (j, v j) := by
  have hfst : (is.map fun i => (i, v i)).map Prod.fst = is := by
    rw [List.map_map]
    exact List.map_id is
  obtain ⟨hp, hr⟩ := foldl_rankInsert (is.map fun i => (i, v i)) [] (by rw [hfst]; exact h) .nil fun _ h => absurd h List.not_mem_nil
  rw [List.append_nil] at hp
  refine ⟨?_, List.pairwise_map.2 (hr.imp_of_mem fun {a b} ha hb hab => ?_)⟩
  · rw [rankKeys]
    exact (hp.map Prod.fst).trans (.of_eq hfst)
  · obtain ⟨i, -, rfl⟩ := List.mem_map.1 (hp.mem_iff.1 ha)
    obtain ⟨j, -, rfl⟩ := List.mem_map.1 (hp.mem_iff.1 hb)
    exact hab

/-! ### Selections (R303, R306) -/

theorem mapE_map {α β : Type} {f : α → Except AccFail β} {g : α → β} {xs : List α} (h : ∀ x ∈ xs, f x = .ok (g x)) :
    mapE f xs = .ok (xs.map g) := by
  induction xs with
  | nil => rfl
  | cons x xs ih =>
    rw [mapE, h x List.mem_cons_self]
    dsimp only
    rw [ih fun y hy => h y (List.mem_cons_of_mem x hy)]
    rfl

theorem mapIdx_map_range {α β : Type} (n : Nat) (f : Nat → α) (g : Nat → α → β) :
    ((List.range n).map f).mapIdx g = (List.range n).map fun i => g i (f i) := by
  refine List.ext_getElem (by simp) fun i h1 h2 => ?_
  simp

/-- A NaN key is written as the fill's (R303). -/
theorem keyOut_eq {f : Nat} (hf : f = 0 ∨ f = 2 ∨ f = 5) (x : Nat) : keyOut f x = if (valOf f x).1.isNaN then fillKey f else x := by
  rcases hf with rfl | rfl | rfl <;> rfl

/-- The eligible candidates of a segment of a selection, with the mask that it has read. -/
def eligible (c : EngineCmd) (elig : List Nat) : List Nat :=
  (List.range (selLen c.fn c.block)).filter fun i => !selMe c.block || elig[i]? == some 1

/-- The keys of a segment as numbers. -/
def keyVal (c : EngineCmd) (keys : List Nat) (i : Nat) : Num := (valOf (recEfmt (c.recs.getD 0 0)) (keys.getD i 0)).1

/-- The order in which a segment's candidates are written. -/
def segOrder (c : EngineCmd) (keys elig : List Nat) : List Nat :=
  rankKeys ((eligible c elig).map fun i => (i, keyVal c keys i))

/-- The index that a segment writes for a candidate (R304, R305). -/
def segIndex (c : EngineCmd) (pay : List Nat) (i : Nat) : Nat :=
  if c.fn = 0 then (if selPe c.block then pay.getD i 0 else bfield c.block 0x10 0 32 + i) else i

/-- What a segment writes for its place `j`: key and index, or the fill. -/
def segPlace (c : EngineCmd) (keys elig pay : List Nat) (j : Nat) : Nat × Nat :=
  match (segOrder c keys elig)[j]? with
  | some i =>
    (if (keyVal c keys i).isNaN then fillKey (recEfmt (c.recs.getD 0 0)) else keys.getD i 0, segIndex c pay i)
  | none => (fillKey (recEfmt (c.recs.getD 0 0)), 0xFFFFFFFF)

theorem eligible_sorted (c : EngineCmd) (elig : List Nat) : (eligible c elig).Pairwise (· < ·) :=
  List.Pairwise.filter _ List.pairwise_lt_range

/-- What a segment's reads are (R306). -/
structure SegmentRead (s : State) (cl : Nat) (c : EngineCmd) (g : Nat) (keys elig pay : List Nat) : Prop where
  key : readElems c.party s cl c.ctx (c.recs.getD 0 0) ((List.range (selLen c.fn c.block)).map (selIn c.block g)) = .ok keys
  len : keys.length = selLen c.fn c.block
  mask : selMe c.block = true →
    readElems c.party s cl c.ctx (c.recs.getD 3 0) ((List.range (selLen c.fn c.block)).map (selIn c.block g)) = .ok elig
  maskLen : selMe c.block = true → elig.length = selLen c.fn c.block
  payload : c.fn = 0 ∧ selPe c.block = true → readElems c.party s cl c.ctx (c.recs.getD (if selMe c.block then 4 else 3) 0)
    ((List.range (selLen c.fn c.block)).map (selIn c.block g)) = .ok pay

/-- A segment's results, from the eligibility that its reads give (R303 to R305). -/
theorem selResults_eq {c : EngineCmd} {keys elig pay : List Nat} {el : List Bool}
    (hf : recEfmt (c.recs.getD 0 0) = 0 ∨ recEfmt (c.recs.getD 0 0) = 2 ∨ recEfmt (c.recs.getD 0 0) = 5)
    (hlen : keys.length = selLen c.fn c.block)
    (hel : ∀ i < selLen c.fn c.block, el.getD i true = (!selMe c.block || elig[i]? == some 1)) :
    selResults c.fn c.block (recEfmt (c.recs.getD 0 0)) keys el (if c.fn = 0 ∧ selPe c.block = true then some pay else none) =
      (List.range (selK c.fn c.block)).map (segPlace c keys elig pay) := by
  have hcs : (List.range keys.length).filter (fun i => el.getD i true) = eligible c elig := by
    rw [hlen]
    exact List.filter_congr fun i hi => hel i (List.mem_range.1 hi)
  have hidx : ∀ i, (match if c.fn = 0 ∧ selPe c.block = true then some pay else none with
      | none => selIdx c.fn c.block i
      | some ps => ps.getD i 0) = segIndex c pay i := by
    intro i
    rw [segIndex, selIdx]
    by_cases h0 : c.fn = 0 <;> by_cases h1 : selPe c.block = true <;> simp [h0, h1]
  rw [selResults, hcs]
  refine List.map_congr_left fun j _ => ?_
  rw [segPlace, segOrder]
  simp only [keyVal]
  split
  · next h => simp only [h]
  · next h =>
    simp only [h, keyOut_eq hf]
    exact congrArg (Prod.mk _) (hidx _)

theorem selSegment_eq {s : State} {cl g : Nat} {c : EngineCmd} {keys elig pay : List Nat} (h : SegmentRead s cl c g keys elig pay)
    (hf : recEfmt (c.recs.getD 0 0) = 0 ∨ recEfmt (c.recs.getD 0 0) = 2 ∨ recEfmt (c.recs.getD 0 0) = 5) :
    selSegment s cl c g = .ok ((List.range (selK c.fn c.block)).map (segPlace c keys elig pay)) := by
  have hpay : (if c.fn = 0 ∧ selPe c.block = true then
      (readElems c.party s cl c.ctx (c.recs.getD (if selMe c.block then 4 else 3) 0)
        ((List.range (selLen c.fn c.block)).map (selIn c.block g))).map some else .ok none) =
      Except.ok (if c.fn = 0 ∧ selPe c.block = true then some pay else none) := by
    split
    · next hc => rw [h.payload hc]; rfl
    · rfl
  rw [selSegment, h.key]
  by_cases hm : selMe c.block = true
  · rw [if_pos hm, h.mask hm, hpay]
    refine congrArg Except.ok (selResults_eq hf h.len fun i hi => ?_)
    have hi : i < elig.length := (h.maskLen hm).symm ▸ hi
    simp [hm, List.getD_eq_getElem?_getD, hi]
  · rw [if_neg hm, hpay]
    refine congrArg Except.ok (selResults_eq hf h.len fun i hi => ?_)
    simp [hm, List.getD_eq_getElem?_getD, hi]

/-- A selection's writes, from what its segments' reads come to (R306). -/
theorem performSelection_eq {s : State} {cl : Nat} {c : EngineCmd} {keys elig pay : Nat → List Nat}
    (h : ∀ g < selSegs c.fn c.block, SegmentRead s cl c g (keys g) (elig g) (pay g))
    (hf : recEfmt (c.recs.getD 0 0) = 0 ∨ recEfmt (c.recs.getD 0 0) = 2 ∨ recEfmt (c.recs.getD 0 0) = 5) :
    ∃ s1, MemKept s s1 ∧ s1.cores = s.cores ∧ performSelection s cl c =
      foldE (fun t (x : List Nat × Nat × Nat) => do
          let u ← engineWrite t (some cl) cl c.ctx (c.recs.getD 1 0) x.1 x.2.1
          engineWrite u (some cl) cl c.ctx (c.recs.getD 2 0) x.1 x.2.2)
        ((List.range (selSegs c.fn c.block)).flatMap fun g => (List.range (selK c.fn c.block)).map fun j =>
          (selOut c.block g j, segPlace c (keys g) (elig g) (pay g) j)) s1 := by
  have hrows : mapE (selSegment s cl c) (List.range (selSegs c.fn c.block)) =
      .ok ((List.range (selSegs c.fn c.block)).map fun g =>
        (List.range (selK c.fn c.block)).map (segPlace c (keys g) (elig g) (pay g))) :=
    mapE_map fun g hg => selSegment_eq (h g (List.mem_range.1 hg)) hf
  have hopen : ∀ r is u, (openElems c.party cl c.ctx r is u).mem = u.mem ∧ (openElems c.party cl c.ctx r is u).cores = u.cores :=
    fun r is u => ⟨(clearCovered_mem ..).trans (noteElems_mem ..), (openElems_run ..).cores⟩
  have hout : (((List.range (selSegs c.fn c.block)).map fun g =>
        (List.range (selK c.fn c.block)).map (segPlace c (keys g) (elig g) (pay g))).mapIdx fun g row =>
        row.mapIdx fun j x => (selOut c.block g j, x)).flatten =
      (List.range (selSegs c.fn c.block)).flatMap fun g => (List.range (selK c.fn c.block)).map fun j =>
          (selOut c.block g j, segPlace c (keys g) (elig g) (pay g) j) := by
    simp only [mapIdx_map_range, List.flatMap]
  rw [performSelection, hrows, ← hout]
  exact ⟨_, fun a => by rw [(hopen _ _ _).1, (hopen _ _ _).1, markElems_mem],
    ((hopen _ _ _).2.trans (hopen _ _ _).2).trans (markElems_run ..).cores, rfl⟩

end Sys2Proof.Machine
end

section
/-! PROOFS. The queues of the units of a cluster and of a die, and what the performing or the fault of a command leaves (R301, R318, R343). -/

namespace Sys2Proof.Machine

open Sys2Proof

variable {s t u : State}

/-! ### A unit's queue -/

/-- A queue of commands of a unit of a cluster or of a die. -/
structure UnitQueue (q : State → List EngineCmd) : Prop where
  units : ∀ {s t : State}, t.clusters = s.clusters → t.dies = s.dies → q t = q s
  modCmd : ∀ (s : State) (id : Nat) (f : EngineCmd → EngineCmd), q (s.modEngineCmd id f) = modCmd (q s) id f
  ids : ∀ {s t : State}, EngineRun s t → cmdIds (q t) = cmdIds (q s)

theorem unitQueue_selq (cl : Nat) : UnitQueue fun s => (s.cluster cl).selq where
  units h _ := by simp only [State.cluster, h]
  modCmd s id f := congrArg Cluster.selq (cluster_modEngineCmd s id f cl)
  ids h := congrArg Prod.fst (h.clusters cl)

theorem unitQueue_lndq (cl : Nat) : UnitQueue fun s => (s.cluster cl).lndq where
  units h _ := by simp only [State.cluster, h]
  modCmd s id f := congrArg Cluster.lndq (cluster_modEngineCmd s id f cl)
  ids h := congrArg Prod.snd (h.clusters cl)

theorem unitQueue_rteq (die : Nat) : UnitQueue fun s => (s.die die).rteq where
  units _ h := by simp only [State.die, h]
  modCmd s id f := congrArg Die.rteq (die_modEngineCmd s id f die)
  ids h := congrArg Prod.fst (h.dies die)

theorem unitQueue_collq (die : Nat) : UnitQueue fun s => (s.die die).collq where
  units _ h := by simp only [State.die, h]
  modCmd s id f := congrArg Die.collq (die_modEngineCmd s id f die)
  ids h := congrArg Prod.snd (h.dies die)

theorem mem_modCmd {q : List EngineCmd} {c : EngineCmd} {id : Nat} (h : c ∈ q) (hi : c.id = id) (f : EngineCmd → EngineCmd) :
    f c ∈ modCmd q id f := List.mem_map.2 ⟨c, h, if_pos hi⟩

/-- After a run, the command changed is in its queue as its change leaves it. -/
theorem UnitQueue.changed {q : State → List EngineCmd} (Q : UnitQueue q) (hr : EngineRun s u) {c : EngineCmd} (hc : c ∈ q s)
    (f : EngineCmd → EngineCmd) : ∃ y, y.id = c.id ∧ f y ∈ q (u.modEngineCmd c.id f) := by
  have hi : c.id ∈ cmdIds (q u) := by
    rw [Q.ids hr]
    exact List.mem_map_of_mem hc
  obtain ⟨y, hy, hid⟩ := List.mem_map.1 hi
  rw [Q.modCmd]
  exact ⟨y, hid, mem_modCmd hy hid f⟩

/-! ### What a performing comes to -/

/-- A command performed. -/
structure Performed (s u t : State) (q : State → List EngineCmd) (c : EngineCmd) : Prop where
  mem : t.mem = u.mem
  cores : t.cores = s.cores
  posts : t.posts = s.posts
  done : ∃ x ∈ q t, x.id = c.id ∧ x.begun = true ∧ x.done = true

/-- A command that has failed: its fault is posted, and the rest of the cores and of memory stands. -/
structure Failed (s t : State) (q : State → List EngineCmd) (c : EngineCmd) : Prop where
  cores : t.cores = s.cores
  mem : t.mem = s.mem
  failed : ∃ x ∈ q t, x.id = c.id ∧ x.begun = true ∧ x.failed = true

/-- The fault of an access that a unit's command makes (R318, R343, log 31). -/
def AccFaults (s t : State) (ctx : BitVec 12) (unit code : Nat) : AccFail → Prop
  | .access va => Posted s t ctx code (BitVec.ofNat 64 unit) (BitVec.ofNat 64 va)
  | .walk va => Posted s t ctx 0x12 0x200 (BitVec.ofNat 64 va)
  | .data pa => unreachable s pa = false → Posted s t ctx (code + 1) (BitVec.ofNat 64 unit) (BitVec.ofNat 64 pa)

/-- The fault of a Concourse command (R343). -/
def RouteFaults (s t : State) (ctx : BitVec 12) (die : Nat) : RouteStop → Prop
  | .acc d e => AccFaults s t ctx (0x600 + d.getD die) 0x18 e
  | .table e => Posted s t ctx 0x1A (BitVec.ofNat 64 (0x600 + die)) (BitVec.ofNat 64 e)
  | .mismatch r => Posted s t ctx 0x1B (BitVec.ofNat 64 (0x600 + die)) (BitVec.ofNat 64 r)

theorem posted_postFault (s : State) (ctx : BitVec 12) {code : Nat} (hc : code < 256) (unit val : Word) :
    Posted s (s.postFault ctx code 0 unit 0 val 0) ctx code unit val :=
  ⟨_, rfl, BitVec.toNat_ofNat .. ▸ Nat.mod_eq_of_lt hc, rfl, rfl, rfl, rfl, rfl⟩

theorem engineFault_accFaults (s : State) (ctx : BitVec 12) (unit : Nat) {code : Nat} (hc : code + 1 < 256) (e : AccFail) :
    AccFaults s (engineFault s ctx unit code e) ctx unit code e := by
  cases e with
  | access va => exact posted_postFault _ _ (by omega) _ _
  | walk va => exact posted_postFault _ _ (by decide) _ _
  | data pa =>
    intro h
    rw [engineFault, State.dataFault, if_neg (by simp [h])]
    exact posted_postFault _ _ hc _ _

theorem routeFault_routeFaults (s : State) (ctx : BitVec 12) (die : Nat) (e : RouteStop) :
    RouteFaults s (routeFault s ctx die e) ctx die e := by
  cases e with
  | acc d e => exact engineFault_accFaults _ _ _ (by decide) e
  | table e => exact posted_postFault _ _ (by decide) _ _
  | mismatch r => exact posted_postFault _ _ (by decide) _ _

theorem engineFault_postsOnly (s : State) (ctx : BitVec 12) (unit code : Nat) (e : AccFail) :
    PostsOnly s (engineFault s ctx unit code e) := by
  cases e with
  | access va => rfl
  | walk va => rfl
  | data pa =>
    rw [engineFault, State.dataFault]
    split <;> rfl

theorem routeFault_postsOnly (s : State) (ctx : BitVec 12) (die : Nat) (e : RouteStop) :
    PostsOnly s (routeFault s ctx die e) := by
  cases e with
  | acc d e => exact engineFault_postsOnly ..
  | table e => rfl
  | mismatch r => rfl

/-- The command of a fault has failed. -/
theorem PostsOnly.failed {q : State → List EngineCmd} (Q : UnitQueue q) (h : PostsOnly s t) {c : EngineCmd} (hc : c ∈ q s) :
    Failed s (t.modEngineCmd c.id EngineCmd.fail) q c where
  cores := (congrArg State.cores h :)
  mem := (congrArg State.mem h :)
  failed := by
    have hq : c ∈ q t := by
      have e : q t = q s := Q.units (congrArg State.clusters h :) (congrArg State.dies h :)
      rwa [e]
    exact ⟨c.fail, Q.modCmd .. ▸ mem_modCmd hq rfl _, rfl, rfl, rfl⟩

theorem settleCmd_performed {q : State → List EngineCmd} (Q : UnitQueue q) {c : EngineCmd} (hc : c ∈ q s) (hr : EngineRun s u)
    (unit code : Nat) : Performed s u (settleCmd s c unit code (.ok u)) q c where
  mem := rfl
  cores := hr.cores
  posts := hr.posts
  done := by
    obtain ⟨y, hid, hy⟩ := Q.changed hr hc EngineCmd.perform
    exact ⟨y.perform, hy, hid, rfl, rfl⟩

theorem settleCmd_failed {q : State → List EngineCmd} (Q : UnitQueue q) {c : EngineCmd} (hc : c ∈ q s) (unit : Nat) {code : Nat}
    (hcode : code + 1 < 256) (e : AccFail) : Failed s (settleCmd s c unit code (.error e)) q c ∧
      AccFaults s (settleCmd s c unit code (.error e)) c.ctx unit code e := by
  refine ⟨(engineFault_postsOnly ..).failed Q hc, ?_⟩
  have h := engineFault_accFaults s c.ctx unit hcode e
  cases e <;> exact h

/-! ### The selection unit and the Landing (R301, R306, R310 to R312) -/

/-- The unit performs the head of its queue. -/
theorem selectionPerform_eq {cl : Nat} {c : EngineCmd} {rest : List EngineCmd} (hq : (s.cluster cl).selq = c :: rest)
    (hb : c.begun = false) (ho : olderOverlap s c = false) :
    exec (.selectionPerform cl) s = .next (settleCmd s c (0x400 + cl) 0x14 (performSelection s cl c)) := by
  change execSelectionPerform cl s = _
  rw [execSelectionPerform, hq]
  simp [hb, ho]

/-- The unit performs the first command of a slot. -/
theorem landingPerform_eq {lnd slot : Nat} {c : EngineCmd} (hq : ((s.cluster lnd).lndq.find? fun x => cmdSlot x == slot) = some c)
    (hb : c.begun = false) (ho : olderOverlap s c = false) :
    exec (.landingPerform lnd slot) s = .next (performLanding s lnd c) := by
  change execLandingPerform lnd slot s = _
  rw [execLandingPerform, hq]
  simp [hb, ho]

/-- The unit goes on with a round whose raises have been performed. -/
theorem landingPerform_record {lnd slot : Nat} {c : EngineCmd} {l : LandingSlot}
    (hq : ((s.cluster lnd).lndq.find? fun x => cmdSlot x == slot) = some c) (hb : c.begun = true) (hd : c.done = false)
    (hf : c.failed = false) (hr : (s.raises.any fun r => r.cmd == c.id) = false) (hl : findSlot (s.cluster lnd) (cmdSlot c) = some l) :
    exec (.landingPerform lnd slot) s = .next (settleCmd s c (0x500 + lnd) 0x14 (enginePutAs c.party lnd c.ctx (unmRec l.block)
      (roundRecord s (c.result.getD 0 0) (c.result.getD 1 0) (c.result.getD 2 0) (c.result.getD 3 0)) s)) := by
  change execLandingPerform lnd slot s = _
  rw [execLandingPerform, hq]
  simp [hb, hd, hf, recordRound, hr, hl]

theorem slots_modSlot (s : State) (lnd n : Nat) (f : LandingSlot → LandingSlot) : ((s.modSlot lnd n f).cluster lnd).slots =
    (withSlot (s.cluster lnd) n).slots.map fun l => if l.num = n then f l else l := by
  rw [State.modSlot, State.modCluster, cluster_setCluster_same]

theorem mem_withSlot {q : Cluster} {l : LandingSlot} (h : l ∈ q.slots) (n : Nat) : l ∈ (withSlot q n).slots := by
  rw [withSlot]
  split
  · exact h
  · exact List.mem_append_left _ h

/-- A listed slot is changed where it is listed. -/
theorem mem_slots_modSlot {lnd n : Nat} {l : LandingSlot} (h : l ∈ (s.cluster lnd).slots) (hn : l.num = n)
    (f : LandingSlot → LandingSlot) : f l ∈ ((s.modSlot lnd n f).cluster lnd).slots := by
  rw [slots_modSlot]
  exact List.mem_map.2 ⟨l, mem_withSlot h n, if_pos hn⟩

theorem slots_modEngineCmd (s : State) (id : Nat) (f : EngineCmd → EngineCmd) (n : Nat) :
    ((s.modEngineCmd id f).cluster n).slots = (s.cluster n).slots := (congrArg Cluster.slots (cluster_modEngineCmd s id f n) :)

/-! ### The Concourse (R333 to R343) -/

/-- The unit performs the first command of a session. -/
theorem concoursePerform_eq {die sess : Nat} {c : EngineCmd} (hh : sessHead s die sess = some c) (hb : c.begun = false)
    (ho : olderOverlap s c = false) : exec (.concoursePerform die sess) s = .next (performRoute s die c) := by
  change execConcoursePerform die sess s = _
  rw [execConcoursePerform, hh]
  simp [hb, ho]

theorem mem_of_sessHead {die sess : Nat} {c : EngineCmd} (h : sessHead s die sess = some c) : c ∈ (s.die die).rteq :=
  List.mem_of_find?_eq_some h

theorem sessions_modEngineCmd (s : State) (id : Nat) (f : EngineCmd → EngineCmd) (n : Nat) :
    ((s.modEngineCmd id f).die n).sessions = (s.die n).sessions := (congrArg Die.sessions (die_modEngineCmd s id f n) :)

theorem sessions_modSession (s : State) (die n : Nat) (f : Session → Session) : ((s.modSession die n f).die die).sessions =
    (withSession (s.die die) n).sessions.map fun x => if x.num = n then f x else x := by
  rw [State.modSession, State.modDie, die_setDie_same]

theorem mem_withSession {d : Die} {x : Session} (h : x ∈ d.sessions) (n : Nat) : x ∈ (withSession d n).sessions := by
  rw [withSession]
  split
  · exact h
  · exact List.mem_append_left _ h

theorem mem_sessions_modSession {die n : Nat} {x : Session} (h : x ∈ (s.die die).sessions) (hn : x.num = n) (f : Session → Session) :
    f x ∈ ((s.modSession die n f).die die).sessions := by
  rw [sessions_modSession]
  exact List.mem_map.2 ⟨x, mem_withSession h n, if_pos hn⟩

/-- A freed session is listed only where a setup has been accepted behind the free (R333). -/
theorem freeSession_owned {die n : Nat} {x : Session} (h : x ∈ ((freeSession s die n).die die).sessions) (hn : x.num = n) :
    x.owner ≠ none := by
  rw [freeSession, State.modDie, die_setDie_same] at h
  obtain ⟨y, hy, rfl⟩ := List.mem_map.1 h
  have hkeep := (List.mem_filter.1 hy).2
  split at hn
  · next e =>
    rw [if_pos e]
    intro ho
    simp [e, show y.owner = none from ho] at hkeep
  · next e => exact absurd hn e

theorem routeCmd_fields (s : State) (c : EngineCmd) (x : Session) : (routeCmd s c x).id = c.id ∧ (routeCmd s c x).ctx = c.ctx ∧
    (routeCmd s c x).op = c.op ∧ (routeCmd s c x).fn = c.fn ∧ (routeCmd s c x).seq = c.seq ∧
    cmdSess (routeCmd s c x) = cmdSess c := by
  unfold routeCmd
  split
  · exact ⟨rfl, rfl, rfl, rfl, rfl, rfl⟩
  · split <;> exact ⟨rfl, rfl, rfl, rfl, rfl, rfl⟩

/-- A command of a session begun, and done where no row of it is owed (R338, R339). -/
structure RouteDone (s u t : State) (die : Nat) (c : EngineCmd) : Prop where
  mem : t.mem = u.mem
  cores : t.cores = s.cores
  begun : ∃ y ∈ (t.die die).rteq, y.id = c.id ∧ y.begun = true ∧ y.done = (owedRows u die (cmdSess c) == 0)

theorem settleRoute_done {die : Nat} {c : EngineCmd} (hc : c ∈ (s.die die).rteq) {d : EngineCmd} (hid : d.id = c.id)
    (hs : cmdSess d = cmdSess c) (hr : EngineRun s u) : RouteDone s u (settleRoute s die d (.ok u)) die c where
  mem := rfl
  cores := hr.cores
  begun := by
    obtain ⟨y, hy, hm⟩ := (unitQueue_rteq die).changed hr hc
      fun e => { e with begun := true, done := owedRows u die (cmdSess d) == 0, scope := d.scope }
    rw [settleRoute, hid, ← hs]
    exact ⟨_, hm, hy, rfl, rfl⟩

theorem settleRoute_failed {die : Nat} {c d : EngineCmd} (hc : c ∈ (s.die die).rteq) (hid : d.id = c.id) (hx : d.ctx = c.ctx)
    (e : RouteStop) : Failed s (settleRoute s die d (.error e)) (fun t => (t.die die).rteq) c ∧
      RouteFaults s (settleRoute s die d (.error e)) c.ctx die e := by
  rw [settleRoute, hid, hx]
  refine ⟨(routeFault_postsOnly ..).failed (unitQueue_rteq die) hc, ?_⟩
  have h := routeFault_routeFaults s c.ctx die e
  rcases e with ⟨d, _ | _ | _⟩ | e | r <;> exact h

end Sys2Proof.Machine
end

section
/-! PROOFS. What the Landing, the Concourse and the collective unit do with a command (R309 to R312, R333 to R338, R407 to R410). -/

namespace Sys2Proof.Machine

open Sys2Proof

variable {s t u : State} {die sess lnd slot : Nat} {c : EngineCmd} {x : Session}

/-! ### Commands of a slot (R309 to R312) -/

theorem performLanding_setup (h : c.fn = 0) :
    performLanding s lnd c = settleCmd s c (0x500 + lnd) 0x14 (performSetup s lnd c) := by
  simp only [performLanding, h]

theorem performLanding_register (h : c.fn = 1) : performLanding s lnd c = settleCmd s c (0x500 + lnd) 0x14
    (.ok (s.modSlot lnd (cmdSlot c) fun l => { l with groups := addReg l.groups c.block (c.recs.getD 0 0) })) := by
  simp only [performLanding, h]

theorem performLanding_free (h : c.fn = 3) :
    performLanding s lnd c = settleCmd s c (0x500 + lnd) 0x14 (.ok (performFree s lnd (cmdSlot c))) := by
  simp only [performLanding, h]

/-- A round goes on to its result record, where nothing that it raises is awaited. -/
theorem performLanding_round (h : c.fn = 2) {l : LandingSlot} (hl : findSlot (s.cluster lnd) (cmdSlot c) = some l) :
    (∀ e, performRound s lnd c l = .error e → performLanding s lnd c = settleCmd s c (0x500 + lnd) 0x14 (.error e)) ∧
    ∀ u d, performRound s lnd c l = .ok u → ((u.cluster lnd).lndq.find? fun x => x.id == c.id) = some d →
      performLanding s lnd c = recordRound u lnd d :=
  ⟨fun e he => by simp only [performLanding, h, hl, he], fun u d hu hd => by simp only [performLanding, h, hl, hu, hd]⟩

/-! ### Commands of a session (R336 to R339) -/

theorem routeCmd_eq (s : State) (c : EngineCmd) (x : Session) : ∃ n, routeCmd s c x = { c with scope := n } := by
  unfold routeCmd
  split
  · exact ⟨c.scope, rfl⟩
  · split
    · exact ⟨c.scope, rfl⟩
    · exact ⟨_, rfl⟩

theorem performRoute_setup (h : c.op = 0x32) (hf : c.fn = 0) :
    performRoute s die c = settleRoute s die c (performRouteSetup s die c) := by
  rw [performRoute, if_pos ⟨h, hf⟩]

section
variable (hx : findSession (s.die die) (cmdSess c) = some x) (hst : x.st ≠ .free)
include hx hst

theorem performRoute_count (h : c.op = 0x32) (hf : c.fn = 1) : performRoute s die c =
    if c.seq = 0 then startCount s die (routeCmd s c x) x else settleCount s die (routeCmd s c x) x := by
  obtain ⟨n, hn⟩ := routeCmd_eq s c x
  simp [performRoute, hx, hst, hn, h, hf]

theorem performRoute_place (h : c.op = 0x32) (hf : c.fn = 2) : performRoute s die c =
    settleRoute s die (routeCmd s c x) (performPlace s die (routeCmd s c x) x) := by
  obtain ⟨n, hn⟩ := routeCmd_eq s c x
  simp [performRoute, hx, hst, hn, h, hf]

theorem performRoute_scatter (h : c.op = 0x32) (hf : c.fn = 3) : performRoute s die c =
    settleRoute s die (routeCmd s c x) (performScatter s die (routeCmd s c x) x) := by
  obtain ⟨n, hn⟩ := routeCmd_eq s c x
  simp [performRoute, hx, hst, hn, h, hf]

theorem performRoute_gather (h : c.op = 0x33) : performRoute s die c =
    settleRoute s die (routeCmd s c x) (performGather s die (routeCmd s c x) x) := by
  obtain ⟨n, hn⟩ := routeCmd_eq s c x
  simp [performRoute, hx, hst, hn, h]

end

/-- What a setup's performing comes to when it replaces a session's state (R335). -/
theorem performRouteSetup_table (hf : rteFree c.block = false) :
    (∀ e, readTable s (coreCluster c.core) c = .error e → performRouteSetup s die c = .error e) ∧
    ∀ tab, readTable s (coreCluster c.core) c = .ok tab → performRouteSetup s die c =
      .ok (s.modSession die (rteSess c.block) fun x =>
        { x with home := coreCluster c.core, st := .set, block := c.block, recs := c.recs, group := cmdGroup s c (rteGrp c.block),
                 table := tab, seq := 0, counts := [] }) := by
  constructor
  all_goals
    intro v h
    rw [performRouteSetup, if_neg (by simp [hf]), h]
    rfl

/-- The session once a count has performed: the contributions taken. -/
def countTaken (u : State) (die : Nat) (x : Session) (seq : Nat) (ms : List CountMsg) : State :=
  (u.modSession die x.num fun y => { y with st := .counted, seq := seq, counts := ms }).modDie die fun d =>
    { d with held := d.held.filter fun m => !(m.group == x.group && m.sess == x.num && m.seq == seq) }

theorem countTaken_run (u : State) (die : Nat) (x : Session) (seq : Nat) (ms : List CountMsg) : EngineRun u (countTaken u die x seq ms) :=
  (modSession_run ..).trans (.modDie _ _ fun _ => rfl)

theorem countTaken_session {seq : Nat} {ms : List CountMsg} {z : Session} (h : z ∈ ((countTaken u die x seq ms).die die).sessions)
    (hn : z.num = x.num) : z.st = .counted ∧ z.seq = seq ∧ z.counts = ms := by
  rw [countTaken, State.modDie, die_setDie_same] at h
  dsimp only at h
  rw [sessions_modSession] at h
  obtain ⟨y, -, rfl⟩ := List.mem_map.1 h
  split at hn
  · next e =>
    rw [if_pos e]
    exact ⟨rfl, rfl, rfl⟩
  · next e => exact absurd hn e

theorem settleCount_mismatch {m : CountMsg} (h : ((countsFor s die x c.seq).find? fun m => !countShape x m) = some m) :
    settleCount s die c x = settleRoute s die c (.error (.mismatch m.rank)) := by
  rw [settleCount, h]

section
variable (hs : ∀ m ∈ countsFor s die x c.seq, countShape x m = true)
include hs

theorem find_countShape : ((countsFor s die x c.seq).find? fun m => !countShape x m) = none :=
  List.find?_eq_none.2 fun m hm => by simp [hs m hm]

theorem settleCount_waits (h : ∃ r < rteNr x.block, ∀ m ∈ countsFor s die x c.seq, m.rank ≠ r) : settleCount s die c x = s := by
  obtain ⟨r, hr, hno⟩ := h
  have hall : ((List.range (rteNr x.block)).all fun r => (countsFor s die x c.seq).any fun m => m.rank == r) = false :=
    List.all_eq_false.2 ⟨r, List.mem_range.2 hr, by simpa using hno⟩
  rw [settleCount, find_countShape hs, hall]
  rfl

theorem settleCount_performs (h : ∀ r < rteNr x.block, ∃ m ∈ countsFor s die x c.seq, m.rank = r) {own : CountMsg}
    (ho : ((countsFor s die x c.seq).find? fun m => m.rank == rteRank x.block) = some own) :
    settleCount s die c x = settleRoute s die c (do
      let t ← liftAcc (writeElems c.party x.home c.ctx (x.recs.getD 7 0)
        (cntRow x 0 (fun e => own.counts.getD e 0) ++ cntRow x 2 fun e => countBelow (countsFor s die x c.seq) (rteNr x.block) e) s)
      .ok (countTaken t die x c.seq (countsFor s die x c.seq))) := by
  have hall : ((List.range (rteNr x.block)).all fun r => (countsFor s die x c.seq).any fun m => m.rank == r) = true :=
    List.all_eq_true.2 fun r hr => by simpa using h r (List.mem_range.1 hr)
  rw [settleCount, find_countShape hs, hall, ho]
  rfl

end

/-! ### Contributions and limits (R336, R408, R411) -/

theorem takeCount_held {m : CountMsg} (h : ((s.die die).held.any fun x => sameCount x m) = false)
    (hs : ((s.die die).sessions.any fun x => x.num == m.sess && x.group == m.group) = false) :
    takeCount m s die = s.modDie die fun d => { d with held := d.held ++ [m] } := by
  have hnone : ((s.die die).sessions.find? fun x => x.num == m.sess && x.group == m.group && x.st != .free &&
      decide (m.seq ≤ x.seq) && x.owner.any fun o => ctxHasGroup s o m.group) = none := by
    refine List.find?_eq_none.2 fun x hx => ?_
    have hx := List.any_eq_false.1 hs x hx
    simp_all
  rw [takeCount, h, hnone]
  rfl

/-! ### Collectives (R407 to R410) -/

section
variable {i : Nat} (hi : (s.die die).collq[i]? = some c) (hd : c.done = false) (hf : c.failed = false)
include hi hd hf

theorem collectivePerform_goes (hb : c.begun = true) : exec (.collectivePerform die i) s = .next (settleColl s c) := by
  change execCollectivePerform die i s = _
  rw [execCollectivePerform, hi]
  simp [hd, hf, hb]

theorem collectivePerform_begins (hb : c.begun = false) (ho : olderOverlap s c = false) :
    exec (.collectivePerform die i) s = .next (startColl s c) := by
  change execCollectivePerform die i s = _
  rw [execCollectivePerform, hi]
  simp [hd, hf, hb, ho]

theorem collectiveTimeout_passed (hb : c.begun = true) (hl : limitPassed s.now c.since (collTmo c.block) = true) {q : Nat}
    (hq : ((List.range (collView s c).p).find? fun q => (collsFor s c (collView s c)).all fun m => m.rank != q) = some q) :
    exec (.collectiveTimeout die i) s = .next (collFault s c 0x33 q) := by
  change execCollectiveTimeout die i s = _
  rw [execCollectiveTimeout, hi]
  simp [hd, hf, hb, hl, hq]

end

/-- The scope at which a collective completes. -/
def collScope (s : State) (c : EngineCmd) : Nat :=
  match s.group? (collView s c).key with
  | none => c.scope
  | some g => Nat.max c.scope g.scope

theorem settleColl_mismatch {m : CollMsg} (h : ((collsFor s c (collView s c)).find? fun m => !collShape c (collView s c) m) = some m) :
    settleColl s c = collFault s c 0x32 m.rank := by
  rw [settleColl, h]

theorem settleColl_performs (hs : ∀ m ∈ collsFor s c (collView s c), collShape c (collView s c) m = true)
    (h : ∀ q < (collView s c).p, ∃ m ∈ collsFor s c (collView s c), m.rank = q) :
    settleColl s c = settleCmd (s.modEngineCmd c.id fun d => { d with scope := collScope s c }) c (0xA00 + coreDie c.core) 0x14
      (let ws := collResults c.block (collView s c) (recEfmt (c.recs.getD 0 0)) (recEfmt (c.recs.getD 1 0))
          (collsFor s c (collView s c))
       foldE (fun t x => engineWrite t none (collCluster c) c.ctx (c.recs.getD 1 0) x.1 x.2) ws
        (openElems c.party (collCluster c) c.ctx (c.recs.getD 1 0) (ws.map fun x => x.1)
          (s.modEngineCmd c.id fun d => { d with scope := collScope s c }))) := by
  have hnone : ((collsFor s c (collView s c)).find? fun m => !collShape c (collView s c) m) = none :=
    List.find?_eq_none.2 fun m hm => by simp [hs m hm]
  have hall : ((List.range (collView s c).p).all fun q => (collsFor s c (collView s c)).any fun m => m.rank == q) = true :=
    List.all_eq_true.2 fun q hq => by simpa using h q (List.mem_range.1 hq)
  rw [settleColl, hnone, hall]
  rfl

/-- A fault of the collective unit with a rank as its value. -/
theorem collFault_failed (hc : c ∈ (s.die die).collq) {code : Nat} (hcode : code < 256) (rank : Nat) :
    Failed s (collFault s c code rank) (fun t => (t.die die).collq) c ∧
      Posted s (collFault s c code rank) c.ctx code (BitVec.ofNat 64 (0xA00 + coreDie c.core)) (BitVec.ofNat 64 rank) :=
  have h : PostsOnly s (s.postFault c.ctx code 0 (BitVec.ofNat 64 (0xA00 + coreDie c.core)) 0 (BitVec.ofNat 64 rank) 0) := rfl
  ⟨h.failed (unitQueue_collq die) hc, posted_postFault s c.ctx hcode _ _⟩

end Sys2Proof.Machine
end

section
/-! PROOFS. The commands of the units performed, or ended in a fault (R301, R310, R334 to R338, R343, R408, R410). -/

namespace Sys2Proof.Machine

open Sys2Proof

variable {s u : State} {i : Instr} {q : State → List EngineCmd} {die sess lnd slot cl : Nat} {c : EngineCmd} {x : Session}

/-! ### Ends and faults of commands -/

/-- An event performs a command, with the memory of a state. -/
def Ends (i : Instr) (s u : State) (q : State → List EngineCmd) (c : EngineCmd) : Prop :=
  ∃ t, exec i s = .next t ∧ Performed s u t q c

/-- An event ends a command in the fault of an access. -/
def Faults (i : Instr) (s : State) (q : State → List EngineCmd) (c : EngineCmd) (unit code : Nat) (e : AccFail) : Prop :=
  ∃ t, exec i s = .next t ∧ Failed s t q c ∧ AccFaults s t c.ctx unit code e

theorem ends_of_settleCmd (Q : UnitQueue q) (hc : c ∈ q s) {unit code : Nat} {r : Except AccFail State}
    (h : exec i s = .next (settleCmd s c unit code r)) (hr : RunsFrom s r) (hu : r = .ok u) : Ends i s u q c :=
  ⟨_, h, hu ▸ settleCmd_performed Q hc (hr.run u hu) unit code⟩

theorem faults_of_settleCmd (Q : UnitQueue q) (hc : c ∈ q s) {unit code : Nat} (hcode : code + 1 < 256) {r : Except AccFail State}
    (h : exec i s = .next (settleCmd s c unit code r)) {e : AccFail} (he : r = .error e) : Faults i s q c unit code e :=
  ⟨_, h, he ▸ settleCmd_failed Q hc unit hcode e⟩

/-! ### The Landing (R310 to R312) -/

section
variable (hq : ((s.cluster lnd).lndq.find? fun x => cmdSlot x == slot) = some c)
include hq

theorem cmdSlot_of_find : cmdSlot c = slot := by simpa using List.find?_some hq

section
variable (hb : c.begun = false) (ho : olderOverlap s c = false)
include hb ho

theorem landing_setup (hf : c.fn = 0) :
    exec (.landingPerform lnd slot) s = .next (settleCmd s c (0x500 + lnd) 0x14 (performSetup s lnd c)) := by
  rw [landingPerform_eq hq hb ho, performLanding_setup hf]

theorem landing_register (hf : c.fn = 1) {l : LandingSlot} (hl : l ∈ (s.cluster lnd).slots) (hn : l.num = slot) :
    ∃ t, exec (.landingPerform lnd slot) s = .next t ∧
      { l with groups := addReg l.groups c.block (c.recs.getD 0 0) } ∈ (t.cluster lnd).slots ∧ t.mem = s.mem := by
  refine ⟨_, landingPerform_eq hq hb ho, ?_⟩
  rw [performLanding_register hf]
  refine ⟨?_, rfl⟩
  rw [settleCmd, slots_modEngineCmd, cmdSlot_of_find hq]
  exact mem_slots_modSlot hl hn _

theorem landing_round (hf : c.fn = 2) {l : LandingSlot} (hl : findSlot (s.cluster lnd) slot = some l) :
    (∀ e, performRound s lnd c l = .error e →
      exec (.landingPerform lnd slot) s = .next (settleCmd s c (0x500 + lnd) 0x14 (.error e))) ∧
    ∀ u d, performRound s lnd c l = .ok u → ((u.cluster lnd).lndq.find? fun x => x.id == c.id) = some d →
      exec (.landingPerform lnd slot) s = .next (recordRound u lnd d) := by
  obtain ⟨he, hu⟩ := performLanding_round hf (cmdSlot_of_find hq ▸ hl)
  rw [landingPerform_eq hq hb ho]
  exact ⟨fun e h => congrArg _ (he e h), fun u d h hd => congrArg _ (hu u d h hd)⟩

theorem landing_free (hf : c.fn = 3) {l : LandingSlot} (hl : l ∈ (s.cluster lnd).slots) (hn : l.num = slot) (how : l.owner = none) :
    ∃ t, exec (.landingPerform lnd slot) s = .next t ∧
      (∃ x ∈ (t.cluster lnd).slots, x.num = slot ∧ x.st = .free ∧ x.mask = 0 ∧ x.groups = []) ∧ t.mem = s.mem := by
  refine ⟨_, landingPerform_eq hq hb ho, ?_⟩
  rw [performLanding_free hf]
  refine ⟨?_, rfl⟩
  rw [settleCmd, slots_modEngineCmd, cmdSlot_of_find hq, performFree]
  refine ⟨_, mem_slots_modSlot hl hn _, rfl, ?_, rfl, rfl⟩
  dsimp only
  rw [how]
  rfl

end

end

/-! ### The Concourse (R335 to R338) -/

/-- A command of a session has begun, with the memory of a state. -/
def RouteEnds (s u : State) (die sess : Nat) (c : EngineCmd) : Prop :=
  ∃ t, exec (.concoursePerform die sess) s = .next t ∧ RouteDone s u t die c

/-- A command of a session ends in a fault. -/
def RouteStops (s : State) (die sess : Nat) (c : EngineCmd) (e : RouteStop) : Prop :=
  ∃ t, exec (.concoursePerform die sess) s = .next t ∧ Failed s t (fun t => (t.die die).rteq) c ∧ RouteFaults s t c.ctx die e

section
variable (hh : sessHead s die sess = some c) (hb : c.begun = false) (ho : olderOverlap s c = false)
include hh hb ho

theorem routeEnds_of {d : EngineCmd} (hid : d.id = c.id) (hs : cmdSess d = cmdSess c) {r : Except RouteStop State}
    (h : performRoute s die c = settleRoute s die d r) (hr : RunsFrom s r) (hu : r = .ok u) : RouteEnds s u die sess c := by
  refine ⟨_, concoursePerform_eq hh hb ho, ?_⟩
  rw [h, hu]
  exact settleRoute_done (mem_of_sessHead hh) hid hs (hr.run u hu)

theorem routeStops_of {d : EngineCmd} (hid : d.id = c.id) (hx : d.ctx = c.ctx) {r : Except RouteStop State}
    (h : performRoute s die c = settleRoute s die d r) {e : RouteStop} (he : r = .error e) : RouteStops s die sess c e := by
  refine ⟨_, concoursePerform_eq hh hb ho, ?_⟩
  rw [h, he]
  exact settleRoute_failed (mem_of_sessHead hh) hid hx e

theorem route_setupFree (hop : c.op = 0x32) (hfn : c.fn = 0) (hf : rteFree c.block = true) :
    ∃ t, exec (.concoursePerform die sess) s = .next t ∧ t.mem = s.mem ∧ t.cores = s.cores ∧
      ∀ x ∈ (t.die die).sessions, x.num = rteSess c.block → x.owner ≠ none := by
  refine ⟨_, concoursePerform_eq hh hb ho, ?_⟩
  rw [performRoute_setup hop hfn, performRouteSetup, if_pos hf]
  refine ⟨rfl, rfl, fun x hx hn => ?_⟩
  rw [settleRoute, sessions_modEngineCmd] at hx
  exact freeSession_owned hx hn

theorem route_setupStops (hop : c.op = 0x32) (hfn : c.fn = 0) (hf : rteFree c.block = false) {e : RouteStop}
    (he : readTable s (coreCluster c.core) c = .error e) : RouteStops s die sess c e :=
  routeStops_of hh hb ho rfl rfl (performRoute_setup hop hfn) ((performRouteSetup_table hf).1 e he)

theorem route_setup (hop : c.op = 0x32) (hfn : c.fn = 0) (hf : rteFree c.block = false) {tab : List (Nat × Nat × Nat)}
    (ht : readTable s (coreCluster c.core) c = .ok tab) : ∃ t, exec (.concoursePerform die sess) s = .next t ∧ t.mem = s.mem ∧
      t.cores = s.cores ∧ (∃ y ∈ (t.die die).rteq, y.id = c.id ∧ y.begun = true) ∧
      ∀ x ∈ (s.die die).sessions, x.num = rteSess c.block → ∃ z ∈ (t.die die).sessions, z.num = x.num ∧
        z.owner = x.owner ∧ z.home = coreCluster c.core ∧ z.st = .set ∧ z.block = c.block ∧ z.recs = c.recs ∧
        z.group = cmdGroup s c (rteGrp c.block) ∧ z.table = tab ∧ z.seq = 0 ∧ z.counts = [] := by
  have hr := (performRouteSetup_table (die := die) hf).2 tab ht
  have hd := settleRoute_done (mem_of_sessHead hh) (d := c) rfl rfl ((performRouteSetup_run s die c).run _ hr)
  obtain ⟨y, hy, hid, hbegun, -⟩ := hd.begun
  refine ⟨_, concoursePerform_eq hh hb ho, ?_⟩
  rw [performRoute_setup hop hfn, hr]
  refine ⟨hd.mem, hd.cores, ⟨y, hy, hid, hbegun⟩, fun x hx hn => ?_⟩
  rw [settleRoute, sessions_modEngineCmd]
  exact ⟨_, mem_sessions_modSession hx hn _, rfl, rfl, rfl, rfl, rfl, rfl, rfl, rfl, rfl, rfl⟩

section
variable (hx : findSession (s.die die) (cmdSess c) = some x) (hst : x.st ≠ .free)
include hx hst

theorem route_countStops (hop : c.op = 0x32) (hfn : c.fn = 1) (hq : c.seq = 0) {e : RouteStop}
    (he : readChoices s x (routeCmd s c x) = .error e) : RouteStops s die sess c e := by
  obtain ⟨hid, hctx, -⟩ := routeCmd_fields s c x
  refine routeStops_of hh hb ho hid hctx ?_ (r := .error e) rfl
  rw [performRoute_count hx hst hop hfn, if_pos hq, startCount, he]

/-- A count that begins: its contribution is sent, and it waits (R336). -/
theorem route_countBegins (hop : c.op = 0x32) (hfn : c.fn = 1) (hq : c.seq = 0) {ids : List Nat}
    (h : readChoices s x (routeCmd s c x) = .ok ids) : ∃ s1, MemKept s s1 ∧ s1.cores = s.cores ∧
      exec (.concoursePerform die sess) s = .next (settleCount ((sendCount s1
        { group := x.group, sess := x.num, seq := x.seq + 1, rank := rteRank x.block, experts := rteE x.block,
          choices := rteK x.block, ranks := rteNr x.block, dim := rteDim x.recs, counts := countIds (rteE x.block) ids }).modEngineCmd
            c.id fun _ => { routeCmd s c x with seq := x.seq + 1, since := s.now }) die
        { routeCmd s c x with seq := x.seq + 1, since := s.now } x) := by
  obtain ⟨hid, -⟩ := routeCmd_fields s c x
  rw [concoursePerform_eq hh hb ho, performRoute_count hx hst hop hfn, if_pos hq, startCount, h, ← hid]
  exact ⟨_, fun a => by rw [markElems_mem], (markElems_run ..).cores, rfl⟩

section
variable (hop : c.op = 0x32) (hfn : c.fn = 1) (hq : c.seq ≠ 0)
include hop hfn hq

theorem route_countMismatch {m : CountMsg} (hm : ((countsFor s die x c.seq).find? fun m => !countShape x m) = some m) :
    RouteStops s die sess c (.mismatch m.rank) := by
  obtain ⟨n, hn⟩ := routeCmd_eq s c x
  refine routeStops_of hh hb ho (d := { c with scope := n }) rfl rfl ?_ (r := .error (.mismatch m.rank)) rfl
  rw [performRoute_count hx hst hop hfn, if_neg hq, hn]
  exact settleCount_mismatch hm

section
variable (hs : ∀ m ∈ countsFor s die x c.seq, countShape x m = true)
include hs

theorem route_countWaits (h : ∃ r < rteNr x.block, ∀ m ∈ countsFor s die x c.seq, m.rank ≠ r) :
    exec (.concoursePerform die sess) s = .next s := by
  obtain ⟨n, hn⟩ := routeCmd_eq s c x
  rw [concoursePerform_eq hh hb ho, performRoute_count hx hst hop hfn, if_neg hq, hn]
  exact congrArg _ (settleCount_waits (c := { c with scope := n }) hs h)

/-- What a count writes once every rank's contribution has come: its own counts and the sums (R336). -/
def countPut (s : State) (d : EngineCmd) (x : Session) (own : CountMsg) (ms : List CountMsg) : Except AccFail State :=
  writeElems d.party x.home d.ctx (x.recs.getD 7 0)
    (cntRow x 0 (fun e => own.counts.getD e 0) ++ cntRow x 2 fun e => countBelow ms (rteNr x.block) e) s

section
variable (h : ∀ r < rteNr x.block, ∃ m ∈ countsFor s die x c.seq, m.rank = r) {own : CountMsg}
  (hown : ((countsFor s die x c.seq).find? fun m => m.rank == rteRank x.block) = some own)
include h hown

omit hh hb ho in
theorem performRoute_counted : performRoute s die c = settleRoute s die (routeCmd s c x) (do
    let t ← liftAcc (countPut s (routeCmd s c x) x own (countsFor s die x c.seq))
    .ok (countTaken t die x c.seq (countsFor s die x c.seq))) := by
  obtain ⟨n, hn⟩ := routeCmd_eq s c x
  rw [performRoute_count hx hst hop hfn, if_neg hq, hn]
  exact settleCount_performs (c := { c with scope := n }) hs h hown

theorem route_countFails {e : AccFail} (he : countPut s (routeCmd s c x) x own (countsFor s die x c.seq) = .error e) :
    RouteStops s die sess c (.acc none e) := by
  obtain ⟨hid, hctx, -⟩ := routeCmd_fields s c x
  refine routeStops_of hh hb ho hid hctx (performRoute_counted hx hst hop hfn hq hs h hown) ?_
  rw [he]
  rfl

theorem route_counts (hu : countPut s (routeCmd s c x) x own (countsFor s die x c.seq) = .ok u) :
    ∃ t y, exec (.concoursePerform die sess) s = .next t ∧ t.mem = u.mem ∧ t.cores = s.cores ∧ y ∈ (t.die die).rteq ∧ y.id = c.id ∧
      y.begun = true ∧ ∀ z ∈ (t.die die).sessions, z.num = x.num →
        z.st = .counted ∧ z.seq = c.seq ∧ z.counts = countsFor s die x c.seq := by
  obtain ⟨hid, -, -, -, -, hs'⟩ := routeCmd_fields s c x
  have hr : EngineRun s (countTaken u die x c.seq (countsFor s die x c.seq)) := ((writeElems_run ..).run _ hu).trans (countTaken_run ..)
  have hd := settleRoute_done (mem_of_sessHead hh) hid hs' hr
  obtain ⟨y, hy, hyid, hyb, -⟩ := hd.begun
  refine ⟨_, y, concoursePerform_eq hh hb ho, ?_⟩
  rw [performRoute_counted hx hst hop hfn hq hs h hown, hu]
  refine ⟨hd.mem, hd.cores, hy, hyid, hyb, fun z hz hn => ?_⟩
  change z ∈ ((State.modEngineCmd _ _ _).die die).sessions at hz
  rw [sessions_modEngineCmd] at hz
  exact countTaken_session hz hn

end

end

end

end

end

/-! ### Contributions and limits (R336, R408, R411) -/

/-- A contribution for which no count of the die waits is held. -/
theorem countContribution_held {m : CountMsg} (hd : m.group.domain = true) (hdie : die < 4)
    (hw : waitingCount (s.modDie die fun d => { d with held := d.held ++ [m] }) die m.sess = none)
    (h : ((s.die die).held.any fun x => sameCount x m) = false)
    (hs : ((s.die die).sessions.any fun x => x.num == m.sess && x.group == m.group) = false) :
    exec (.countContribution die m) s = .next (s.modDie die fun d => { d with held := d.held ++ [m] }) := by
  change execCountContribution die m s = _
  rw [execCountContribution, takeCount_held h hs]
  simp [hd, hdie, hw]

theorem routeTimeout_passed {r : Nat} (hw : waitingCount s die sess = some (c, x))
    (hr : ((List.range (rteNr x.block)).find? fun r => (countsFor s die x c.seq).all fun m => m.rank != r) = some r)
    (hl : limitPassed s.now c.since (rteTmo x.block) = true) : exec (.routeTimeout die sess) s =
      .next ((s.postFault c.ctx 0x1C 0 (BitVec.ofNat 64 (0x600 + die)) 0 (BitVec.ofNat 64 r) 0).modEngineCmd c.id EngineCmd.fail) := by
  change execRouteTimeout die sess s = _
  rw [execRouteTimeout, hw]
  simp only [hr, hl]
  rfl

/-- A contribution for which no collective of the module waits is held. -/
theorem collContribution_held {m : CollMsg} (hd : m.group.domain = true)
    (hn : (s.colls.any fun x => x.group == m.group && x.seq == m.seq && x.rank == m.rank) = false)
    (hw : ∀ d ∈ s.dies, ∀ c ∈ d.2.collq, c.begun = false) :
    exec (.collContribution m) s = .next { s with colls := s.colls ++ [m] } := by
  have hnone : ((s.dies.flatMap fun d => d.2.collq).filter fun c => c.begun && !c.done && !c.failed) = [] := by
    refine List.filter_eq_nil_iff.2 fun c hc => ?_
    obtain ⟨d, hd, hc⟩ := List.mem_flatMap.1 hc
    simp [hw d hd c hc]
  change execCollContribution m s = _
  rw [execCollContribution, hd, holdColl, hn]
  change (.next (List.foldl _ _ ((s.dies.flatMap fun d => d.2.collq).filter fun c => c.begun && !c.done && !c.failed)) : Out) = _
  rw [hnone]
  rfl

/-! ### Collectives (R407 to R410) -/

section
variable {i : Nat} (hi : (s.die die).collq[i]? = some c) (hd : c.done = false) (hf : c.failed = false)
include hi hd hf

theorem collective_begins_fails (hb : c.begun = false) (ho : olderOverlap s c = false) {e : AccFail}
    (he : collMsg s c (collView s c) = .error e) :
    Faults (.collectivePerform die i) s (fun t => (t.die die).collq) c (0xA00 + coreDie c.core) 0x14 e := by
  refine faults_of_settleCmd (unitQueue_collq die) (List.mem_of_getElem? hi) (by decide) ?_ (r := .error e) rfl
  rw [collectivePerform_begins hi hd hf hb ho, startColl, he]

/-- The state in which a collective has the scope at which it completes. -/
def collScoped (s : State) (c : EngineCmd) : State := s.modEngineCmd c.id fun d => { d with scope := collScope s c }

/-- A collective's results written. -/
def collectivePut (s : State) (c : EngineCmd) : Except AccFail State :=
  let dst := c.recs.getD 1 0
  let ws := collResults c.block (collView s c) (recEfmt (c.recs.getD 0 0)) (recEfmt dst) (collsFor s c (collView s c))
  foldE (fun t x => engineWrite t none (collCluster c) c.ctx dst x.1 x.2) ws
    (openElems c.party (collCluster c) c.ctx dst (ws.map fun x => x.1) (collScoped s c))

omit hi hd hf in
theorem collectivePut_run (s : State) (c : EngineCmd) : RunsFrom s (collectivePut s c) := by
  refine .after (.modEngineCmd s c.id fun _ => ?_) (.after (openElems_run ..) (foldE_run (fun _ _ => engineWrite_run ..) _ _))
  rfl

omit hi hd hf in
theorem unreachable_collScoped (s : State) (c : EngineCmd) (pa : Nat) : unreachable (collScoped s c) pa = unreachable s pa := by
  have hr : routed (collScoped s c) = routed s := by
    rw [routed, collScoped, State.modEngineCmd, List.any_map]
    rfl
  rw [unreachable, hr]
  rfl

theorem collective_mismatch (hb : c.begun = true) {m : CollMsg}
    (hm : ((collsFor s c (collView s c)).find? fun m => !collShape c (collView s c) m) = some m) :
    ∃ t, exec (.collectivePerform die i) s = .next t ∧ Failed s t (fun t => (t.die die).collq) c ∧
      Posted s t c.ctx 0x32 (BitVec.ofNat 64 (0xA00 + coreDie c.core)) (BitVec.ofNat 64 m.rank) := by
  obtain ⟨h1, h2⟩ := collFault_failed (List.mem_of_getElem? hi) (code := 0x32) (by decide) m.rank
  refine ⟨_, collectivePerform_goes hi hd hf hb, ?_⟩
  rw [settleColl_mismatch hm]
  exact ⟨h1, h2⟩

section
variable (hb : c.begun = true) (hs : ∀ m ∈ collsFor s c (collView s c), collShape c (collView s c) m = true)
  (h : ∀ q < (collView s c).p, ∃ m ∈ collsFor s c (collView s c), m.rank = q)
include hb hs h

theorem collective_performs (hu : collectivePut s c = .ok u) :
    Ends (.collectivePerform die i) s u (fun t => (t.die die).collq) c := by
  refine ends_of_settleCmd (unitQueue_collq die) (List.mem_of_getElem? hi) (unit := 0xA00 + coreDie c.core) (code := 0x14) ?_
    (.ok ((collectivePut_run s c).run u hu)) rfl
  rw [collectivePerform_goes hi hd hf hb, settleColl_performs hs h]
  change (.next (settleCmd (collScoped s c) c _ _ (collectivePut s c)) : Out) = _
  rw [hu]
  rfl

theorem collective_fails {e : AccFail} (he : collectivePut s c = .error e) :
    Faults (.collectivePerform die i) s (fun t => (t.die die).collq) c (0xA00 + coreDie c.core) 0x14 e := by
  have hc : { c with scope := collScope s c } ∈ ((collScoped s c).die die).collq := by
    rw [collScoped, (unitQueue_collq die).modCmd]
    exact mem_modCmd (List.mem_of_getElem? hi) rfl fun d => { d with scope := collScope s c }
  obtain ⟨⟨hcores, hmem, hfailed⟩, ha⟩ :=
    settleCmd_failed (unitQueue_collq die) hc (0xA00 + coreDie c.core) (code := 0x14) (by decide) e
  refine ⟨_, collectivePerform_goes hi hd hf hb, ?_⟩
  rw [settleColl_performs hs h]
  change Failed s (settleCmd (collScoped s c) c _ _ (collectivePut s c)) _ c ∧
    AccFaults s (settleCmd (collScoped s c) c _ _ (collectivePut s c)) _ _ _ _
  rw [he]
  refine ⟨⟨hcores, hmem, hfailed⟩, ?_⟩
  cases e with
  | access va => exact ha
  | walk va => exact ha
  | data pa =>
    intro hr
    exact ha (by rw [unreachable_collScoped, hr])

end

end

end Sys2Proof.Machine
end

section
/-! PROOFS. The obligation of the units of a cluster and of a die. -/

namespace Sys2Proof.Machine

open Sys2Proof

/-- Settles O52: every event comes to `settleCmd` or `settleRoute` of the command's performing, a run keeps the command in its
queue, and the places of keys (`keyPlace`) are linearly ordered, so that inserting in ascending index ranks. -/
theorem enginesPerform : Obligations.EnginesPerform := by
  unfold Obligations.EnginesPerform
  intro s marked failed accFault
  have hfail : ∀ {t : State} {q : State → List EngineCmd} {c : EngineCmd}, Failed s t q c → failed t c (q t) :=
    fun h => ⟨h.cores, h.mem, h.failed⟩
  have hacc : ∀ {t : State} {c : EngineCmd} {unit code : Nat} {e : AccFail}, AccFaults s t c.ctx unit code e →
      accFault t c unit code e := fun {_ _ _ _ e} h => by cases e <;> exact h
  have hfaults : ∀ {i q c unit code e}, Faults i s q c unit code e →
      ∃ t, exec i s = .next t ∧ failed t c (q t) ∧ accFault t c unit code e :=
    fun ⟨t, ht, hf, ha⟩ => ⟨t, ht, hfail hf, hacc ha⟩
  have hends : ∀ {i u q c}, Ends i s u q c →
      ∃ t x, exec i s = .next t ∧ t.mem = u.mem ∧ t.cores = s.cores ∧ x ∈ q t ∧ marked c x :=
    fun ⟨t, ht, hp⟩ => have ⟨x, hx, hm⟩ := hp.done; ⟨t, x, ht, hp.mem, hp.cores, hx, hm⟩
  refine ⟨?selects, ?ranks, ?landing, ?concourse, ?contribution, ?routeLimit, ?collective, ?held⟩
  case selects =>
    intro cl c rest hq hb ho
    have hc : c ∈ (s.cluster cl).selq := hq ▸ List.mem_cons_self
    have hrun := selectionPerform_eq hq hb ho
    constructor
    · intro u hu
      obtain ⟨t, ht, hp⟩ := ends_of_settleCmd (unitQueue_selq cl) hc hrun (performSelection_run s cl c) hu
      obtain ⟨x, hx, hm⟩ := hp.done
      exact ⟨t, x, ht, hp.mem, hp.cores, hp.posts, hx, hm⟩
    · exact fun e he => hfaults (faults_of_settleCmd (unitQueue_selq cl) hc (by decide) hrun he)
  case ranks =>
    intro cl c keys elig pay b key segs paid is read hread val below can index out hfmt hlen
    have hseg : ∀ g < selSegs c.fn c.block, SegmentRead s cl c g (keys g) (elig g) (pay g) := by
      intro g hg
      obtain ⟨hkey, hkeys, hmask, hpay⟩ := hread g hg
      exact ⟨hkey, hkeys, hmask, hlen g hg, hpay⟩
    refine ⟨fun g => segOrder c (keys g) (elig g), fun g _ => ?_, ?_⟩
    · obtain ⟨hp, ho⟩ := rankKeys_sorted (keyVal c (keys g)) (eligible_sorted c (elig g))
      refine ⟨hp, ho.imp fun {i j} h => ?_⟩
      have hb : ∀ i j, keyBelow (val g i) (val g j) = true ↔ below g i j := fun i j => by simp [keyBelow, below]
      rwa [← hb, ← hb]
    · obtain ⟨s1, hm, hc, he⟩ := performSelection_eq hseg hfmt
      exact ⟨s1, hm, hc, he⟩
  case landing =>
    intro lnd slot c hq ends faults
    have hc : c ∈ (s.cluster lnd).lndq := List.mem_of_find?_eq_some hq
    have Q := unitQueue_lndq lnd
    refine ⟨fun hb ho => ⟨fun u hf hu => ?_, fun e hf he => ?_, fun l hl hf hn => landing_register hq hb ho hf hl hn,
      fun l hf hl => ⟨fun e he => ?_, fun u d hu hd => ?_⟩, fun l hl hf hn hw => landing_free hq hb ho hf hl hn hw⟩,
      fun l hb hd hf hr hl => ⟨fun u hu => ?_, fun e he => ?_⟩⟩
    · exact hends (ends_of_settleCmd Q hc (landing_setup hq hb ho hf) (performSetup_run s lnd c) hu)
    · exact hfaults (faults_of_settleCmd Q hc (by decide) (landing_setup hq hb ho hf) he)
    · exact hfaults (faults_of_settleCmd Q hc (by decide) ((landing_round hq hb ho hf hl).1 e he) rfl)
    · exact (landing_round hq hb ho hf hl).2 u d hu hd
    · exact hends (ends_of_settleCmd Q hc (landingPerform_record hq hb hd hf hr (cmdSlot_of_find hq ▸ hl)) (enginePutAs_run ..) hu)
    · exact hfaults (faults_of_settleCmd Q hc (by decide) (landingPerform_record hq hb hd hf hr (cmdSlot_of_find hq ▸ hl)) he)
  case concourse =>
    intro die sess c hh hb ho q runs ends faults
    have hends : ∀ {u}, RouteEnds s u die sess c → ends u := fun ⟨t, ht, hd⟩ =>
      have ⟨y, hy, hm⟩ := hd.begun; ⟨t, y, ht, hd.mem, hd.cores, hy, hm⟩
    have hstops : ∀ {e}, RouteStops s die sess c e → faults e := fun {e} ⟨t, ht, hf, ha⟩ =>
      ⟨t, ht, hfail hf, by
        cases e with
        | acc d e => exact hacc ha
        | table e => exact ha
        | mismatch r => exact ha⟩
    refine ⟨fun hop hfn => ⟨fun hfree => route_setupFree hh hb ho hop hfn hfree, fun hfree =>
      ⟨fun e he => hstops (route_setupStops hh hb ho hop hfn hfree he), fun tab ht => route_setup hh hb ho hop hfn hfree ht⟩⟩,
      fun x hx hst => ?_⟩
    intro d b
    obtain ⟨hid, hctx, -, -, -, hs⟩ := routeCmd_fields s c x
    refine ⟨fun hop hfn hq => ?_, fun hop hfn hq => ?_, fun hop hfn => ?_, fun hop hfn => ?_, fun hop => ?_⟩
    · exact ⟨fun e he => hstops (route_countStops hh hb ho hx hst hop hfn hq he),
        fun ids h => route_countBegins hh hb ho hx hst hop hfn hq h⟩
    · refine ⟨fun m hm => hstops (route_countMismatch hh hb ho hx hst hop hfn hq hm), fun hshape =>
        ⟨fun h => route_countWaits hh hb ho hx hst hop hfn hq hshape h, fun h own hown => ?_⟩⟩
      rw [← hctx]
      exact ⟨fun e he => hstops (route_countFails hh hb ho hx hst hop hfn hq hshape h hown he),
        fun u hu => route_counts hh hb ho hx hst hop hfn hq hshape h hown hu⟩
    · have he := performRoute_place hx hst hop hfn
      exact ⟨fun u hu => hends (routeEnds_of hh hb ho hid hs he (performPlace_run ..) hu),
        fun e h => hstops (routeStops_of hh hb ho hid hctx he h)⟩
    · have he := performRoute_scatter hx hst hop hfn
      exact ⟨fun u hu => hends (routeEnds_of hh hb ho hid hs he (performScatter_run ..) hu),
        fun e h => hstops (routeStops_of hh hb ho hid hctx he h)⟩
    · have he := performRoute_gather hx hst hop
      exact ⟨fun u hu => hends (routeEnds_of hh hb ho hid hs he (performGather_run ..) hu),
        fun e h => hstops (routeStops_of hh hb ho hid hctx he h)⟩
  case contribution =>
    intro die m hdom hdie hw hheld hsess
    refine ⟨_, countContribution_held hdom hdie hw hheld hsess, ?_, rfl, fun d hd => ?_⟩
    · rw [State.modDie, die_setDie_same]
    · rw [State.modDie, die_setDie_other _ _ _ _ hd]
  case routeLimit =>
    exact fun die sess c x r hw hr hl =>
      ⟨_, routeTimeout_passed hw hr hl, rfl, rfl, posted_postFault s c.ctx (code := 0x1C) (by decide) _ _⟩
  case collective =>
    intro die i c hi hd hf v ms dst unit q runs faults
    refine ⟨fun hb ho e he => hfaults (collective_begins_fails hi hd hf hb ho he), fun hb => ⟨fun m hm => ?_, ?_, fun r hl hr => ?_⟩⟩
    · obtain ⟨t, ht, hfl, hp⟩ := collective_mismatch hi hd hf hb hm
      exact ⟨t, ht, hfail hfl, hp⟩
    · intro scope s0 ws put hs h
      exact ⟨fun u hu => hends (collective_performs hi hd hf hb hs h hu), fun e he => hfaults (collective_fails hi hd hf hb hs h he)⟩
    · obtain ⟨hfl, hp⟩ := collFault_failed (List.mem_of_getElem? hi) (code := 0x33) (by decide) r
      exact ⟨_, collectiveTimeout_passed hi hd hf hb hl hr, hfl.cores, hfl.mem, hp⟩
  case held => exact fun m hd hn hw => collContribution_held hd hn hw

end Sys2Proof.Machine
end
